-- ==== Sys2Proof/Word.lean ====
section
/-! DEFINITION. The word types of the strand (spec/04_strand.md R75) and the record word (spec/03_encoding.md R66). -/

namespace Sys2Proof

/-- A 64-bit strand register value (R75). -/
abbrev Word := BitVec 64

/-- One byte of memory or scratchpad. -/
abbrev Byte := BitVec 8

/-- A 256-bit task record, bit 0 the least significant bit of word 0 (R66). -/
abbrev Rec := BitVec 256

end Sys2Proof
end

