-- ==== Sys2Proof/Config.lean ====
section
/-! DEFINITION. The constants of the part (spec/00_scope.md R2) and the values that the spec leaves open, as constants
without a body: no proof can see what they are. -/

namespace Sys2Proof.Config

/-- Bytes of one core's scratchpad, 6 MiB (R2). -/
def spadBytes : Nat := 0x600000

/-- Bytes of the smallest page (R2). -/
def pageBytes : Nat := 0x8000

/-- Columns and rows of one accumulator bank (R2). -/
def accCols : Nat := 256
def accRows : Nat := 128

/-- FREE VALUE (DESIGN CHOICE, log entry 8): byte `i` of engine block `e` of a save image (R177: the device's own, no layout for
software), by a number `k` that stands for the stopped records of the engine. -/
opaque engineBlock (k e i : Nat) : Byte

/-- FREE VALUE (DESIGN CHOICE, log entry 8): the cycles that requester `r` waited at bank `b` between the launch or snapshot
before and the snapshot numbered `k` (R279; this model has no cycles). -/
opaque conflictCount (k r b : Nat) : BitVec 24

/-- FREE VALUE (DESIGN CHOICE, log entry 8): byte `i` of the destination frame of the failed page copy numbered `k` (R252: undefined). -/
opaque failedCopyByte (k i : Nat) : Byte

/-- FREE VALUE (DESIGN CHOICE, log entry 8): element `i` of the result that a stopped record gives when its engine block was altered
(R177: undefined, confined to the record's own W box, flags and scalar). -/
opaque alteredBlock (k i : Nat) : Byte

/-- FREE VALUE (DESIGN CHOICE, log entry 8): the payload of flit `i` of the packet numbered `k` that this package sends (R319: the spec
gives no layout for the payload of a packet). -/
opaque packetPayload (k i : Nat) : BitVec 1792

end Sys2Proof.Config
end

