-- ==== Sys2Proof/Syntax.lean ====
section
/-! DEFINITION. The steps of the part: one constructor of `Instr` for each row of spec/opcode_table.json, with the data
each names. Strand words follow spec/03_encoding.md R39 to R65; a task row is the run of a posted record by its engine;
the other rows are operations and events (spec/95_what_each_step_holds.md). -/

namespace Sys2Proof

/-- A general register number (R40). -/
abbrev Reg := Fin 64
/-- A condition bit number. -/
abbrev Cond := Fin 8
/-- A target buffer number. -/
abbrev Tb := Fin 8
/-- A loop id. -/
abbrev LoopId := Fin 4
/-- A box register number. -/
abbrev Bx := Fin 64

/-- The comparisons of R47. -/
inductive Cmp where
  | eq | ne | lt | ge | ltn | gen | bs | bc
  deriving DecidableEq, Repr

/-- The memory-model scopes of R7, coded by R54. -/
inductive Scope where
  | core | cluster | die | package | fabric
  deriving DecidableEq, Repr

/-- The operations of ATOM and F.AMO (R55). -/
inductive AtomOp where
  | swp | add | and | or | xor | min | max | minn | maxn | cas
  deriving DecidableEq, Repr

/-- The reductions of a collective branch (R358). -/
inductive Red where
  | and | or | maj
  deriving DecidableEq, Repr

/-- Four dimensions of a box, dimension 0 innermost (R151). -/
structure Dims where
  x0 : Nat := 0
  x1 : Nat := 0
  x2 : Nat := 0
  x3 : Nat := 0
  deriving DecidableEq, Repr

/-- A rename buffer (R161): its scratchpad offset, and the home box that it holds densely. -/
structure Buf where
  off : Nat
  o : Dims
  e : Dims
  deriving DecidableEq, Repr

/-- A resolved box (R157, R177): the accumulator or a husk's box; with `rb`, read or written in a rename buffer. -/
structure RBox where
  acc : Bool := false
  hid : Nat := 0
  rb : Option Buf := none
  o : Dims := {}
  e : Dims := {}
  deriving DecidableEq, Repr

/-- The four resolved boxes of a record, in the order W, A, B, C (R66). -/
structure Boxes where
  w : Option RBox := none
  a : Option RBox := none
  b : Option RBox := none
  c : Option RBox := none
  deriving DecidableEq, Repr

/-- A write of the bits of `mask` of one byte: at a physical address or a scratchpad offset. -/
structure ByteWrite where
  addr : Nat
  mask : Byte := 255
  data : Byte
  deriving DecidableEq, Repr

/-- What a fabric packet asks of its destination (R339 to R344), or tells it (R351, R352). -/
inductive PktBody where
  | write (bytes : List ByteWrite)
  | read (bytes : List Nat)
  | amo (pa : Nat) (wide : Bool) (op : AtomOp) (operand cmp : Word)
  | sem (n : Nat) (add : BitVec 32)
  | post (record : Rec) (boxes : Boxes)
  | halo (w : RBox) (bits fmt : Nat) (first : Nat) (stream : List Byte) (last : Bool) (sem : Option Nat)
  | red (w : RBox) (bits fmt : Nat) (first : Nat) (stream : List Byte) (last : Bool) (sem : Option Nat)
  | release (pip : Nat)
  | cancel (pip : Nat)
  | expired (pip : Nat)
  | refused (full : Bool)
  deriving DecidableEq, Repr

/-- A packet of the fabric (R319, R336): who sent it (and the window entry of its record), to which core of which node,
under which ASID, the pip that marks it (R350), and its number among the packets of its record. A packet of this package also has
the link port of its first hop and its virtual channel (R334, R335), and the number that its flits carry (R319). -/
structure Packet where
  srcNode : Nat
  srcCore : Nat
  srcSlot : Nat
  dstNode : Nat
  dstCore : Nat
  asid : Nat
  mark : Option Nat := none
  idx : Nat := 0
  body : PktBody
  port : Option (Fin 24) := none
  vc : BitVec 2 := 0
  num : Option Nat := none
  deriving DecidableEq, Repr

/-- One entry of a segment table: the doublewords of R265. -/
structure SegEntry where
  d0 : Word := 0
  d1 : Word := 0
  d2 : Word := 0
  d3 : Word := 0
  deriving DecidableEq, Repr

/-- Membership in a collective group as the launch packet gives it (R356, R373), and the abort generation that a resumed
member belongs to (R368). -/
structure GroupInit where
  id : BitVec 16
  n : Nat
  ix : BitVec 16
  epoch : BitVec 16
  budget : Nat
  gen : Nat := 0
  deriving DecidableEq, Repr

/-- What a launch packet names for one core (R317, R380, R390 to R393): the image (text, segment table, husks, companding tables,
scratchpad bytes, the group size it was declared for), the physical bases of the segments that the host places, the registers it
sets, the start time and the membership; and, to resume a member, its GRPIX, GSTEP and GEPOCH registers (R372). `core` is none for
this core, or the node and COREID of another core of the pod (log entry 4). -/
structure CoreItems where
  asid : BitVec 13 := 0
  segs : List (Nat × SegEntry) := []
  text : List (Nat × BitVec 32) := []
  /-- where lines of 16 words of the image stand in memory: the line and its physical address (R120; log entry 9) -/
  textLines : List (Nat × Nat) := []
  husks : List (Nat × List Word) := []
  tabs : List (Nat × List Word) := []
  spad : List (Nat × Byte) := []
  groupSize : Option Nat := none
  place : List (Nat × Nat) := []
  pl : Bool := false
  tvec : BitVec 32 := 0
  traceb : Word := 0
  tcut : Word := 0
  preedl : BitVec 32 := 100000
  lattol : BitVec 32 := 0
  rasb : Word := 0
  args : List Word := []
  start : Word := 0
  group : Option GroupInit := none
  members : Option (Word × Word × Word) := none
  core : Option (BitVec 12 × BitVec 9) := none
  deriving DecidableEq, Repr

/-- A launch packet (R317, R376): the items of its first core and of the others that it names, and, once for the whole packet, the
image's memory bytes by segment and offset and its page-table bytes by physical address. -/
structure LaunchPkt extends CoreItems where
  others : List CoreItems := []
  data : List (Nat × Nat × Byte) := []
  pages : List (Nat × Byte) := []
  deriving DecidableEq, Repr

/-- What the error correction finds at an access to a line (R289): a fact of the hardware, carried by the event. -/
inductive Ecc where
  | clean | corrected | uncorrectable
  deriving DecidableEq, Repr

/-- What a request asks of the home die cache (R288). -/
inductive HomeOp where
  | read
  | write (data : List Byte)
  | amo (op : AtomOp) (operand cmp : Word)
  deriving DecidableEq, Repr

/-- A request of another party to the home die of a line (R288, R290): the die it comes from, its source number at the
controller (0 to 14), the consumer's COREID (0x1FF for a fabric port) and whether it is an engine, the physical address and
size. -/
structure HomeReq where
  fromDie : Fin 4
  src : Fin 15
  core : Nat
  engine : Bool
  pa : Nat
  size : Nat
  op : HomeOp
  ecc : Ecc
  deriving DecidableEq, Repr

/-- The data of a throttle-reason record (R315). -/
structure ThrottleRec where
  cause : Fin 4
  dies : BitVec 4
  newClk : BitVec 32
  newMv : BitVec 32
  newLim : BitVec 32
  measured : Word
  deriving DecidableEq, Repr

/-- A power state of R314 and the unit that enters or leaves it. -/
inductive PowerState where
  | clockGated (core : Fin 512)
  | retention (die : Fin 4)
  | selfRefresh (stk : Fin 8)
  deriving DecidableEq, Repr

/-- The outcome of the bring-up steps of R318: which failed, the time taken from the grandmaster, the quadrants found
bad in this core's array and in those of the package's other cores. -/
structure BringUp where
  dieLinksDown : BitVec 4 := 0
  stacksFailed : BitVec 8 := 0
  linksDown : BitVec 24 := 0
  lock : Bool := true
  time : Word := 0
  badQuads : BitVec 4 := 0
  badOthers : List (BitVec 9 × BitVec 4) := []
  node : BitVec 12 := 0
  domain : Fin 128 := 0
  deriving DecidableEq, Repr

/-- What one end of a link sees when training ends (R323). -/
structure LaneView where
  node : BitVec 12
  port : Fin 24
  wid : Fin 3
  spd : Fin 2
  lanes : BitVec 24
  deriving DecidableEq, Repr

/-- A link port and the virtual channel whose buffer is served (R335). -/
structure PortVc where
  port : Fin 24
  vc : BitVec 2 := 0
  deriving DecidableEq, Repr

/-- A contribution to a collective branch (R358). -/
structure Contrib where
  gid : BitVec 16
  inst : BitVec 32
  gen : Nat
  ix : BitVec 16
  red : Red
  vote : Bool
  deriving DecidableEq, Repr

/-- The number of an instance or of a step, with the group it is of. -/
structure GroupNo where
  gid : BitVec 16
  no : BitVec 32
  deriving DecidableEq, Repr

/-- A CSTEP mark (R369). -/
structure StepMark where
  gid : BitVec 16
  gen : Nat
  ix : BitVec 16
  step : BitVec 32
  deriving DecidableEq, Repr

/-- An abort token (R370): the issuer's INFO, and the committed step it carries on its way from the root. -/
structure AbortToken where
  gid : BitVec 16
  gen : Nat
  info : BitVec 32
  step : BitVec 32
  deriving DecidableEq, Repr

/-- One step of the part: the rows of spec/opcode_table.json, in its order. -/
inductive Instr where
  /-- ADD (R99). -/
  | add (d : Reg) (a : Reg) (b : Reg)
  /-- SUB (R99). -/
  | sub (d : Reg) (a : Reg) (b : Reg)
  /-- MUL (R99). -/
  | mul (d : Reg) (a : Reg) (b : Reg)
  /-- MULH (R99). -/
  | mulh (d : Reg) (a : Reg) (b : Reg)
  /-- MULHN (R99). -/
  | mulhn (d : Reg) (a : Reg) (b : Reg)
  /-- DIV (R100). -/
  | div (d : Reg) (a : Reg) (b : Reg)
  /-- DIVN (R100). -/
  | divn (d : Reg) (a : Reg) (b : Reg)
  /-- REM (R100). -/
  | rem (d : Reg) (a : Reg) (b : Reg)
  /-- REMN (R100). -/
  | remn (d : Reg) (a : Reg) (b : Reg)
  /-- AND (R99). -/
  | and (d : Reg) (a : Reg) (b : Reg)
  /-- OR (R99). -/
  | or (d : Reg) (a : Reg) (b : Reg)
  /-- XOR (R99). -/
  | xor (d : Reg) (a : Reg) (b : Reg)
  /-- ANDN (R99). -/
  | andn (d : Reg) (a : Reg) (b : Reg)
  /-- SLL (R99). -/
  | sll (d : Reg) (a : Reg) (b : Reg)
  /-- SRL (R99). -/
  | srl (d : Reg) (a : Reg) (b : Reg)
  /-- SRA (R99). -/
  | sra (d : Reg) (a : Reg) (b : Reg)
  /-- ROL (R99). -/
  | rol (d : Reg) (a : Reg) (b : Reg)
  /-- ROR (R99). -/
  | ror (d : Reg) (a : Reg) (b : Reg)
  /-- MIN (R99). -/
  | min (d : Reg) (a : Reg) (b : Reg)
  /-- MAX (R99). -/
  | max (d : Reg) (a : Reg) (b : Reg)
  /-- MINN (R99). -/
  | minn (d : Reg) (a : Reg) (b : Reg)
  /-- MAXN (R99). -/
  | maxn (d : Reg) (a : Reg) (b : Reg)
  /-- CLZ (R99). -/
  | clz (d : Reg) (a : Reg)
  /-- CTZ (R99). -/
  | ctz (d : Reg) (a : Reg)
  /-- POPC (R99). -/
  | popc (d : Reg) (a : Reg)
  /-- BSWAP (R99). -/
  | bswap (d : Reg) (a : Reg)
  /-- CLMUL (R99). -/
  | clmul (d : Reg) (a : Reg) (b : Reg)
  /-- CLMULH (R99). -/
  | clmulh (d : Reg) (a : Reg) (b : Reg)
  /-- ADDW (R99). -/
  | addw (d : Reg) (a : Reg) (b : Reg)
  /-- SUBW (R99). -/
  | subw (d : Reg) (a : Reg) (b : Reg)
  /-- ADDI (R101). -/
  | addi (d : Reg) (a : Reg) (imm : BitVec 14)
  /-- ANDI (R101). -/
  | andi (d : Reg) (a : Reg) (imm : BitVec 14)
  /-- ORI (R101). -/
  | ori (d : Reg) (a : Reg) (imm : BitVec 14)
  /-- XORI (R101). -/
  | xori (d : Reg) (a : Reg) (imm : BitVec 14)
  /-- SLLI (R102). -/
  | slli (d : Reg) (a : Reg) (n : BitVec 6)
  /-- SRLI (R102). -/
  | srli (d : Reg) (a : Reg) (n : BitVec 6)
  /-- SRAI (R102). -/
  | srai (d : Reg) (a : Reg) (n : BitVec 6)
  /-- RORI (R102). -/
  | rori (d : Reg) (a : Reg) (n : BitVec 6)
  /-- LUI (R103). -/
  | lui (d : Reg) (imm : BitVec 20)
  /-- LIH (R103). -/
  | lih (d : Reg) (imm : BitVec 20)
  /-- BFX (R104). -/
  | bfx (d : Reg) (a : Reg) (signed : Bool) (pos : BitVec 6) (len1 : BitVec 6)
  /-- BFI (R104). -/
  | bfi (d : Reg) (a : Reg) (pos : BitVec 6) (len1 : BitVec 6)
  /-- CMP (R105). -/
  | cmp (c : Cond) (cc : Cmp) (a : Reg) (b : Reg)
  /-- CMPI (R105). -/
  | cmpi (c : Cond) (cc : Cmp) (a : Reg) (imm : BitVec 13)
  /-- SEL (R106). -/
  | sel (d : Reg) (a : Reg) (b : Reg) (neg : Bool) (c : Cond)
  /-- CAND (R107). -/
  | cand (c : Cond) (x : Cond) (y : Cond)
  /-- COR (R107). -/
  | cor (c : Cond) (x : Cond) (y : Cond)
  /-- CXOR (R107). -/
  | cxor (c : Cond) (x : Cond) (y : Cond)
  /-- CANDN (R107). -/
  | candn (c : Cond) (x : Cond) (y : Cond)
  /-- PTG (R108). -/
  | ptg (t : Tb) (disp : BitVec 23)
  /-- PTR (R109). -/
  | ptr (t : Tb) (a : Reg)
  /-- BR (R110). -/
  | br (t : Tb)
  /-- BRC (R110). -/
  | brc (t : Tb) (c : Cond) (neg : Bool)
  /-- CALL (R110). -/
  | call (t : Tb)
  /-- CALLC (R110). -/
  | callc (t : Tb) (c : Cond) (neg : Bool)
  /-- RET (R110). -/
  | ret
  /-- LBRK (R110). -/
  | lbrk (l : LoopId) (c : Cond) (neg : Bool)
  /-- LOOP (R113). -/
  | loop (l : LoopId) (len : BitVec 10) (cnt : BitVec 12)
  /-- LOOP_REG (R113). -/
  | loopReg (l : LoopId) (len : BitVec 10) (g : Reg)
  /-- LOOP_CQ (R113). -/
  | loopCq (l : LoopId) (len : BitVec 10)
  /-- LOOPS (R83). -/
  | loops (l : LoopId) (len : BitVec 10) (stg : BitVec 3) (cnt : BitVec 9)
  /-- LOOPS_REG (R83). -/
  | loopsReg (l : LoopId) (len : BitVec 10) (stg : BitVec 3) (g : Reg)
  /-- LOOPS_CQ (R83). -/
  | loopsCq (l : LoopId) (len : BitVec 10) (stg : BitVec 3)
  /-- REP (R116). -/
  | rep (n : BitVec 6) (sd : BitVec 4) (sa : BitVec 4) (sb : BitVec 4)
  /-- CQPUSH (R119). -/
  | cqpush (a : Reg)
  /-- CQPOP (R119). -/
  | cqpop (d : Reg)
  /-- CQCLR (R119). -/
  | cqclr
  /-- CQLEN (R119). -/
  | cqlen (d : Reg)
  /-- LDB (R121). -/
  | ldb (d : Reg) (a : Reg) (imm : BitVec 14)
  /-- LDBN (R121). -/
  | ldbn (d : Reg) (a : Reg) (imm : BitVec 14)
  /-- LDH (R121). -/
  | ldh (d : Reg) (a : Reg) (imm : BitVec 14)
  /-- LDHN (R121). -/
  | ldhn (d : Reg) (a : Reg) (imm : BitVec 14)
  /-- LDW (R121). -/
  | ldw (d : Reg) (a : Reg) (imm : BitVec 14)
  /-- LDWN (R121). -/
  | ldwn (d : Reg) (a : Reg) (imm : BitVec 14)
  /-- LDD (R121). -/
  | ldd (d : Reg) (a : Reg) (imm : BitVec 14)
  /-- STB (R121). -/
  | stb (d : Reg) (a : Reg) (imm : BitVec 14)
  /-- STH (R121). -/
  | sth (d : Reg) (a : Reg) (imm : BitVec 14)
  /-- STW (R121). -/
  | stw (d : Reg) (a : Reg) (imm : BitVec 14)
  /-- STD (R121). -/
  | std (d : Reg) (a : Reg) (imm : BitVec 14)
  /-- SPL (R123). -/
  | spl (g : Reg) (slot : BitVec 9)
  /-- FIL (R123). -/
  | fil (g : Reg) (slot : BitVec 9)
  /-- LDA (R124). -/
  | lda (d : Reg) (a : Reg) (b : Reg)
  /-- STA (R124). -/
  | sta (d : Reg) (a : Reg) (b : Reg)
  /-- ATOM_SWP (R126). -/
  | atomSwp (d : Reg) (a : Reg) (b : Reg) (w32 : Bool) (scope : Scope)
  /-- ATOM_ADD (R126). -/
  | atomAdd (d : Reg) (a : Reg) (b : Reg) (w32 : Bool) (scope : Scope)
  /-- ATOM_AND (R126). -/
  | atomAnd (d : Reg) (a : Reg) (b : Reg) (w32 : Bool) (scope : Scope)
  /-- ATOM_OR (R126). -/
  | atomOr (d : Reg) (a : Reg) (b : Reg) (w32 : Bool) (scope : Scope)
  /-- ATOM_XOR (R126). -/
  | atomXor (d : Reg) (a : Reg) (b : Reg) (w32 : Bool) (scope : Scope)
  /-- ATOM_MIN (R126). -/
  | atomMin (d : Reg) (a : Reg) (b : Reg) (w32 : Bool) (scope : Scope)
  /-- ATOM_MAX (R126). -/
  | atomMax (d : Reg) (a : Reg) (b : Reg) (w32 : Bool) (scope : Scope)
  /-- ATOM_MINN (R126). -/
  | atomMinn (d : Reg) (a : Reg) (b : Reg) (w32 : Bool) (scope : Scope)
  /-- ATOM_MAXN (R126). -/
  | atomMaxn (d : Reg) (a : Reg) (b : Reg) (w32 : Bool) (scope : Scope)
  /-- ATOM_CAS (R126). -/
  | atomCas (d : Reg) (a : Reg) (b : Reg) (w32 : Bool) (scope : Scope)
  /-- FENCE_SC (R129). -/
  | fenceSc (scope : Scope)
  /-- FENCE_ACQ (R129). -/
  | fenceAcq (scope : Scope)
  /-- FENCE_REL (R129). -/
  | fenceRel (scope : Scope)
  /-- FENCE_RQ (R129). -/
  | fenceRq
  /-- FENCE_PIP (R129). -/
  | fencePip
  /-- SEMADD (R170). -/
  | semadd (s : BitVec 11) (g : Reg)
  /-- SEMADDI (R170). -/
  | semaddi (s : BitVec 11) (imm : BitVec 6)
  /-- SEMWAIT (R170). -/
  | semwait (s : BitVec 11) (g : Reg)
  /-- SEMWAITI (R170). -/
  | semwaiti (s : BitVec 11) (imm : BitVec 6)
  /-- SEMSET (R170). -/
  | semset (s : BitVec 11) (g : Reg)
  /-- SEMRD (R170). -/
  | semrd (s : BitVec 11) (g : Reg)
  /-- POST (R159). -/
  | post (rec : BitVec 256)
  /-- POSTM (R159). -/
  | postm (a : Reg)
  /-- WAITC (R94). -/
  | waitc (t : BitVec 6) (l : BitVec 4) (s : BitVec 4) (cp : BitVec 4)
  /-- BXH (R156). -/
  | bxh (x : Bx) (a : Reg) (imm : BitVec 9)
  /-- BXO (R156). -/
  | bxo (x : Bx) (dim : BitVec 2) (a : Reg) (imm : BitVec 9)
  /-- BXE (R156). -/
  | bxe (x : Bx) (dim : BitVec 2) (a : Reg) (imm : BitVec 9)
  /-- BXS (R156). -/
  | bxs (x : Bx) (dim : BitVec 2) (a : Reg) (imm : BitVec 9)
  /-- BXC (R156). -/
  | bxc (x : Bx) (a : Bx)
  /-- BXZ (R156). -/
  | bxz (x : Bx)
  /-- HKLD (R153). -/
  | hkld (h : Reg) (a : Reg) (imm : BitVec 8)
  /-- HKST (R153). -/
  | hkst (h : Reg) (a : Reg) (imm : BitVec 8)
  /-- HKINV (R153). -/
  | hkinv (h : Reg) (imm : BitVec 8)
  /-- HKTAB (R153). -/
  | hktab (h : Reg) (a : Reg) (imm : BitVec 8)
  /-- ACQ (R275). -/
  | acq (scope : Scope) (a : Reg)
  /-- REL (R276). -/
  | rel (scope : Scope) (a : Reg)
  /-- BIND (R274). -/
  | bind (a : Reg) (b : Reg)
  /-- UNBIND (R274). -/
  | unbind (a : Reg) (b : Reg)
  /-- CBR (R359). -/
  | cbr (t : Tb) (c : Cond) (neg : Bool) (red : Red) (hint : Bool)
  /-- CBRX (R360). -/
  | cbrx (t : Tb) (c : Cond) (neg : Bool) (red : Red)
  /-- CSTEP (R369). -/
  | cstep
  /-- GABORT (R370). -/
  | gabort
  /-- MFS (R131). -/
  | mfs (d : Reg) (r : BitVec 8)
  /-- MTS (R131). -/
  | mts (a : Reg) (r : BitVec 8)
  /-- TRAP (R140). -/
  | trap (code : BitVec 8)
  /-- ERET (R138). -/
  | eret
  /-- YIELD (R142). -/
  | yield (n : BitVec 8)
  /-- SAVEQ (R178). -/
  | saveq (a : Reg)
  /-- RESTQ (R179). -/
  | restq (a : Reg)
  /-- HALT (R144). -/
  | halt
  /-- BRK (R140). -/
  | brk (tag : BitVec 8)
  /-- TSTART (R145). -/
  | tstart (a : Reg)
  /-- MAPINV_ADDR (R268). -/
  | mapinvAddr (a : Reg)
  /-- MAPINV_SEG (R268). -/
  | mapinvSeg (a : Reg)
  /-- MAPINV_ASID (R268). -/
  | mapinvAsid (a : Reg)
  /-- MAPINV_ALL (R268). -/
  | mapinvAll
  /-- RIDGE (R308). -/
  | ridge (d : Reg) (stk : BitVec 3)
  /-- SNAP (R146). -/
  | snap (tag : BitVec 8)
  /-- SLEEP (R146). -/
  | sleep
  /-- M_MM (R193). -/
  | mMm (slot : Nat) (units : Nat)
  /-- M_MMQ (R196). -/
  | mMmq (slot : Nat) (units : Nat)
  /-- M_MMG (R197). -/
  | mMmg (slot : Nat) (units : Nat)
  /-- M_MZ (R199). -/
  | mMz (slot : Nat) (units : Nat)
  /-- M_MST (R200). -/
  | mMst (slot : Nat) (units : Nat)
  /-- X_XPOSE (R204). -/
  | xXpose (slot : Nat) (units : Nat)
  /-- X_XPERM (R204). -/
  | xXperm (slot : Nat) (units : Nat)
  /-- X_XREV (R204). -/
  | xXrev (slot : Nat) (units : Nat)
  /-- V_ADD (R217). -/
  | vAdd (slot : Nat) (units : Nat)
  /-- V_SUB (R217). -/
  | vSub (slot : Nat) (units : Nat)
  /-- V_MUL (R217). -/
  | vMul (slot : Nat) (units : Nat)
  /-- V_FMA (R217). -/
  | vFma (slot : Nat) (units : Nat)
  /-- V_DIV (R217). -/
  | vDiv (slot : Nat) (units : Nat)
  /-- V_SQRT (R218). -/
  | vSqrt (slot : Nat) (units : Nat)
  /-- V_RCP (R29). -/
  | vRcp (slot : Nat) (units : Nat)
  /-- V_RSQ (R29). -/
  | vRsq (slot : Nat) (units : Nat)
  /-- V_EXP2 (R29). -/
  | vExp2 (slot : Nat) (units : Nat)
  /-- V_LOG2 (R29). -/
  | vLog2 (slot : Nat) (units : Nat)
  /-- V_MIN (R217). -/
  | vMin (slot : Nat) (units : Nat)
  /-- V_MAX (R217). -/
  | vMax (slot : Nat) (units : Nat)
  /-- V_ABS (R217). -/
  | vAbs (slot : Nat) (units : Nat)
  /-- V_NEG (R217). -/
  | vNeg (slot : Nat) (units : Nat)
  /-- V_CVT (R219). -/
  | vCvt (slot : Nat) (units : Nat)
  /-- V_QNT (R220). -/
  | vQnt (slot : Nat) (units : Nat)
  /-- V_DQ (R220). -/
  | vDq (slot : Nat) (units : Nat)
  /-- V_SCL (R221). -/
  | vScl (slot : Nat) (units : Nat)
  /-- V_AND (R222). -/
  | vAnd (slot : Nat) (units : Nat)
  /-- V_OR (R222). -/
  | vOr (slot : Nat) (units : Nat)
  /-- V_XOR (R222). -/
  | vXor (slot : Nat) (units : Nat)
  /-- V_NOT (R222). -/
  | vNot (slot : Nat) (units : Nat)
  /-- V_SHL (R222). -/
  | vShl (slot : Nat) (units : Nat)
  /-- V_SHR (R222). -/
  | vShr (slot : Nat) (units : Nat)
  /-- V_SRA (R222). -/
  | vSra (slot : Nat) (units : Nat)
  /-- V_CLM (R223). -/
  | vClm (slot : Nat) (units : Nat)
  /-- V_POPC (R224). -/
  | vPopc (slot : Nat) (units : Nat)
  /-- V_CLZ (R224). -/
  | vClz (slot : Nat) (units : Nat)
  /-- V_CMP (R225). -/
  | vCmp (slot : Nat) (units : Nat)
  /-- V_SEL (R226). -/
  | vSel (slot : Nat) (units : Nat)
  /-- V_RED (R227). -/
  | vRed (slot : Nat) (units : Nat)
  /-- V_SCAN (R227). -/
  | vScan (slot : Nat) (units : Nat)
  /-- V_ANY (R228). -/
  | vAny (slot : Nat) (units : Nat)
  /-- V_ALL (R228). -/
  | vAll (slot : Nat) (units : Nat)
  /-- V_CNT (R228). -/
  | vCnt (slot : Nat) (units : Nat)
  /-- V_IOTA (R229). -/
  | vIota (slot : Nat) (units : Nat)
  /-- V_COMP (R230). -/
  | vComp (slot : Nat) (units : Nat)
  /-- V_GTH (R231). -/
  | vGth (slot : Nat) (units : Nat)
  /-- V_SCT (R231). -/
  | vSct (slot : Nat) (units : Nat)
  /-- V_HIST (R232). -/
  | vHist (slot : Nat) (units : Nat)
  /-- V_BCST (R219). -/
  | vBcst (slot : Nat) (units : Nat)
  /-- C_CPY (R242). -/
  | cCpy (slot : Nat) (units : Nat)
  /-- C_CPYF (R243). -/
  | cCpyf (slot : Nat) (units : Nat)
  /-- C_CMPB (R244). -/
  | cCmpb (slot : Nat) (units : Nat)
  /-- C_FILL (R245). -/
  | cFill (slot : Nat) (units : Nat)
  /-- C_ADV (R246). -/
  | cAdv (slot : Nat) (units : Nat)
  /-- C_DRN (R247). -/
  | cDrn (slot : Nat) (units : Nat)
  /-- C_DRNA (R248). -/
  | cDrna (slot : Nat) (units : Nat)
  /-- C_ACCL (R249). -/
  | cAccl (slot : Nat) (units : Nat)
  /-- C_SELK (R250). -/
  | cSelk (slot : Nat) (units : Nat)
  /-- C_CPYPG (R252). -/
  | cCpypg (slot : Nat) (units : Nat)
  /-- C_CKPT (R253). -/
  | cCkpt (slot : Nat) (units : Nat)
  /-- F_WR (R339). -/
  | fWr (slot : Nat) (units : Nat)
  /-- F_WRP (R339). -/
  | fWrp (slot : Nat) (units : Nat)
  /-- F_RD (R339). -/
  | fRd (slot : Nat) (units : Nat)
  /-- F_AMO (R340). -/
  | fAmo (slot : Nat) (units : Nat)
  /-- F_POST (R342). -/
  | fPost (slot : Nat) (units : Nat)
  /-- F_SEM (R341). -/
  | fSem (slot : Nat) (units : Nat)
  /-- F_RTE (R345). -/
  | fRte (slot : Nat) (units : Nat)
  /-- F_RED (R344). -/
  | fRed (slot : Nat) (units : Nat)
  /-- F_HALO (R343). -/
  | fHalo (slot : Nat) (units : Nat)
  /-- RNPOOL_WRITE (R163). -/
  | rnpoolWrite (a : Reg)
  /-- ASID_WRITE (R267). -/
  | asidWrite (a : Reg)
  /-- RASD_WRITE (R91). -/
  | rasdWrite (a : Reg)
  /-- RASV_WRITE (R91). -/
  | rasvWrite (a : Reg)
  /-- XSTAT_WRITE (R80). -/
  | xstatWrite (a : Reg)
  /-- TRACEB_WRITE (R281). -/
  | tracebWrite (a : Reg)
  /-- FOLD (R162). -/
  | fold (slot : Nat) (units : Nat)
  /-- WRITE_ACKNOWLEDGEMENT (R167). -/
  | writeAcknowledgement (slot : Nat)
  /-- SELFTEST (R183). -/
  | selftest
  /-- ASYNC_CAUSE_TAKEN (R136). -/
  | asyncCauseTaken
  /-- LOAD_COMPLETE (R122). -/
  | loadComplete (i : Nat)
  /-- COPY_RETIRE (R124). -/
  | copyRetire (i : Nat)
  /-- DEBUG_STOP_REQUEST (R286). -/
  | debugStopRequest
  /-- PREEMPT_REQUEST (R176). -/
  | preemptRequest
  /-- FORCED_STOP (R180). -/
  | forcedStop
  /-- FIRMWARE_RESTORE (R180). -/
  | firmwareRestore
  /-- LAUNCH_PACKET (R380). -/
  | launchPacket (p : LaunchPkt)
  /-- LAUNCH_START (R313). -/
  | launchStart
  /-- RESUME_PACKET (R261). -/
  | resumePacket (p : LaunchPkt) (restore : BitVec 32)
  /-- TRANSLATION_FILL (R266). -/
  | translationFill (map : Bool) (va : Nat) (write : Bool)
  /-- HOME_ACCESS (R288). -/
  | homeAccess (q : HomeReq)
  /-- MC_BATCH (R290). -/
  | mcBatch (stk : Fin 8) (served : Nat)
  /-- CKPT_PAGE_COPIED (R301). -/
  | ckptPageCopied (slot : Nat)
  /-- THROTTLE (R315). -/
  | throttle (t : ThrottleRec)
  /-- THROTTLE_LIFT (R315). -/
  | throttleLift (t : ThrottleRec)
  /-- THERMAL_TRIP (R315). -/
  | thermalTrip (deciC : Nat)
  /-- POWER_STATE_ENTRY (R314). -/
  | powerStateEntry (p : PowerState)
  /-- WAKE_EVENT (R314). -/
  | wakeEvent (p : PowerState)
  /-- PTP_MESSAGE (R312). -/
  | ptpMessage (offset : Int)
  /-- POWER_ON (R318). -/
  | powerOn (b : BringUp)
  /-- PWRBUD_WRITE (R316). -/
  | pwrbudWrite (w : Nat)
  /-- CECNT_CLEAR (R316). -/
  | cecntClear (die : Fin 4)
  /-- FAQ_POP (R298). -/
  | faqPop (die : Fin 4)
  /-- BPL_ADD (R299). -/
  | bplAdd (frame : Nat)
  /-- BPL_REMOVE (R299). -/
  | bplRemove (frame : Nat)
  /-- THLOG_READ (R316). -/
  | thlogRead
  /-- FENCEMAP_READ (R316). -/
  | fencemapRead
  /-- PKGSTAT_CLEAR (R316). -/
  | pkgstatClear (mask : Word)
  /-- FLIT_TRANSMIT (R321): the port, and the virtual channel that sends where a new flit goes out. -/
  | flitTransmit (pv : PortVc)
  /-- FLIT_ARRIVAL (R321). -/
  | flitArrival (port : Fin 24) (raw : BitVec 2048) (fecOk : Bool)
  /-- ACK_TIMEOUT (R321). -/
  | ackTimeout (port : Fin 24)
  /-- RETRAIN_COMPLETE (R323). -/
  | retrainComplete (port : Fin 24) (mine : LaneView) (peer : LaneView) (verified : Bool)
  /-- TRAINING_RESTART (R323). -/
  | trainingRestart (port : Fin 24)
  /-- BUCKET_DRAIN (R325). -/
  | bucketDrain (port : Fin 24)
  /-- LINK_STATE_NOTICE (R326). -/
  | linkStateNotice (port : Fin 24) (seq : BitVec 16)
  /-- NOTICE_TIMEOUT (R326). -/
  | noticeTimeout (port : Fin 24)
  /-- BKT_CLEAR (R326). -/
  | bktClear (port : Fin 24)
  /-- KEY_SLOT_LOAD (R327). -/
  | keySlotLoad (port : Fin 24) (tx : Bool) (slot : Bool) (key : BitVec 256) (salt : BitVec 32)
  /-- SLOT_SWITCH (R329). -/
  | slotSwitch (port : Fin 24)
  /-- ENREQ_WRITE (R324). -/
  | enreqWrite (port : Fin 24) (on : Bool)
  /-- CIRCUIT_MOVE (R333). -/
  | circuitMove (port : Fin 24) (peer : BitVec 12)
  /-- PODCFG_WRITE (R332). -/
  | podcfgWrite (v : Word)
  /-- REMOTE_WRITE_ARRIVAL (R339). -/
  | remoteWriteArrival (p : Packet)
  /-- REMOTE_READ_ARRIVAL (R339). -/
  | remoteReadArrival (p : Packet)
  /-- REMOTE_AMO_ARRIVAL (R340). -/
  | remoteAmoArrival (p : Packet)
  /-- REMOTE_SEM_ARRIVAL (R341). -/
  | remoteSemArrival (p : Packet)
  /-- REMOTE_POST_ARRIVAL (R342). -/
  | remotePostArrival (p : Packet)
  /-- BUSY_RETRY (R166). -/
  | busyRetry (slot : Nat)
  /-- HALO_WRITE_ARRIVAL (R343). -/
  | haloWriteArrival (p : Packet)
  /-- RED_WRITE_ARRIVAL (R344). -/
  | redWriteArrival (p : Packet)
  /-- LANDED_ACK (R349). -/
  | landedAck (slot : Nat)
  /-- MARKED_PACKET_ARRIVAL (R351). -/
  | markedPacketArrival (p : Packet)
  /-- RELEASE_ARRIVAL (R351). -/
  | releaseArrival (p : Packet)
  /-- CANCEL_ARRIVAL (R351). -/
  | cancelArrival (p : Packet)
  /-- HOLD_EXPIRY (R352). -/
  | holdExpiry (i : Nat)
  /-- EXPIRED_ARRIVAL (R352). -/
  | expiredArrival (p : Packet)
  /-- CONTRIBUTION_ARRIVAL (R358). -/
  | contributionArrival (c : Contrib)
  /-- BRANCH_RESULT_ARRIVAL (R365). -/
  | branchResultArrival (inst : GroupNo) (gen : Nat) (r : Bool)
  /-- CBRTO_EXPIRY (R367). -/
  | cbrtoExpiry
  /-- INSTANCE_TIMEOUT_ARRIVAL (R367). -/
  | instanceTimeoutArrival (inst : GroupNo) (gen : Nat) (mismatch : Bool)
  /-- STEP_MARK_ARRIVAL (R369). -/
  | stepMarkArrival (m : StepMark)
  /-- STEP_COMMIT_ARRIVAL (R369). -/
  | stepCommitArrival (step : GroupNo) (gen : Nat)
  /-- ABORT_TOKEN_AT_ROOT (R370). -/
  | abortTokenAtRoot (t : AbortToken)
  /-- ABORT_TOKEN_ARRIVAL (R370). -/
  | abortTokenArrival (t : AbortToken)
  /-- PHASE (R374). -/
  | phase (epoch : BitVec 16)
  /-- DRAINED_ANSWER (R374). -/
  | drainedAnswer
  /-- PHASE_DONE (R374). -/
  | phaseDone
  /-- ILLEGAL (R43). -/
  | illegal (w : BitVec 32)
  /-- FETCH_OUTSIDE_IMAGE (R79). -/
  | fetchOutsideImage (addr : BitVec 32)
  /-- TSTART_TIME_REACHED (R145). -/
  | tstartTimeReached
  /-- ACQ_RETRY_TIMEOUT (R275). -/
  | acqRetryTimeout
  /-- SNAPSHOT_WRITTEN (R280). -/
  | snapshotWritten
  /-- PACKAGE_RESET (R315). -/
  | packageReset
  /-- HOST_ENDS_LAUNCH (R374). -/
  | hostEndsLaunch
  /-- REMOTE_REFUSAL_ARRIVAL (R350). -/
  | remoteRefusalArrival (p : Packet)
  deriving DecidableEq, Repr

end Sys2Proof
end

