-- ==== Sys2Proof/WellFormed.lean ====
section
/-! DEFINITION. Which terms of `Instr` are instructions: the limits that the types of their fields do not already give. -/

namespace Sys2Proof

/-- Node and core numbers of a packet lie in their ranges (R4, R5). -/
def Packet.wf (p : Packet) : Bool :=
  decide (p.srcNode < 4096) && decide (p.srcCore < 512) && decide (p.dstNode < 4096) && decide (p.dstCore < 512)

/-- A request of 1 to 64 bytes inside one 64-byte line (R288). -/
def HomeReq.wf (q : HomeReq) : Bool :=
  decide (0 < q.size) && decide (q.pa % 64 + q.size ≤ 64) && decide (q.core < 512) &&
    match q.op with
    | .write d => d.length == q.size
    | .read => true
    | .amo .. => q.size == 4 || q.size == 8

/-- The items of a core set g1 to g15 (R317), husks 0 to 1023 of eight doublewords and tables 0 to 15 of sixteen. -/
def CoreItems.wf (p : CoreItems) : Bool :=
  decide (p.args.length ≤ 15) &&
    p.husks.all (fun h => decide (h.1 < 1024) && h.2.length == 8) &&
    p.tabs.all (fun h => decide (h.1 < 16) && h.2.length == 16) &&
    p.segs.all (fun e => decide (e.1 < 64)) &&
    p.text.all (fun t => decide (t.1 < 2 ^ 32)) &&
    p.spad.all (fun c => decide (c.1 < Config.spadBytes)) &&
    p.place.all (fun x => decide (x.2 % Config.pageBytes = 0))

/-- Every core's items are. -/
def LaunchPkt.wf (p : LaunchPkt) : Bool := p.toCoreItems.wf && p.others.all CoreItems.wf

/-- The limits of each instruction: the body of a LOOP form has at least one word (R50; the LOOPS forms trap on LEN = 0, R113), and
the data of an event lie in their ranges. -/
def Instr.wf : Instr → Bool
  | .loop _ len _ | .loopReg _ len _ | .loopCq _ len => len != 0
  | .launchPacket p | .resumePacket p _ => p.wf
  | .homeAccess q => q.wf
  | .remoteWriteArrival p | .remoteReadArrival p | .remoteAmoArrival p | .remoteSemArrival p | .remotePostArrival p
  | .haloWriteArrival p | .redWriteArrival p | .markedPacketArrival p | .releaseArrival p | .cancelArrival p
  | .expiredArrival p | .remoteRefusalArrival p => p.wf
  | _ => true

end Sys2Proof
end

