-- ==== Sys2Proof/Decode.lean ====
section
/-! DEFINITION. Decoding strand words (spec/03_encoding.md R39 to R64), total, with a name for every refusal; and the
encoder, written from the same tables. -/

namespace Sys2Proof

/-- Why a word is no instruction (R43): its fetch runs past the given words, its major is reserved, its sub-opcode is
reserved, a zero or unused field is nonzero, or the body of a LOOP form is empty (R50). -/
inductive DecodeError where
  | truncated
  | reservedMajor
  | reservedSub
  | unusedField
  | emptyBody
  deriving DecidableEq, Repr

/-- Bits [lo + n - 1 : lo] of a word. -/
def fld (w lo n : Nat) : Nat := w / 2 ^ lo % 2 ^ n

def fReg (w lo : Nat) : Reg := Fin.ofNat 64 (w / 2 ^ lo)
def fCond (w lo : Nat) : Cond := Fin.ofNat 8 (w / 2 ^ lo)
def fLoop (w lo : Nat) : LoopId := Fin.ofNat 4 (w / 2 ^ lo)
def fBits (w lo n : Nat) : BitVec n := BitVec.ofNat n (w / 2 ^ lo)
def fFlag (w lo : Nat) : Bool := fld w lo 1 == 1

/-- The answer, if the named bits are zero (R43). -/
def needZero (n : Nat) (r : Except DecodeError Instr) : Except DecodeError Instr :=
  if n = 0 then r else .error .unusedField

/-- R47. -/
def cmpOfNat : Nat → Option Cmp
  | 0 => some .eq | 1 => some .ne | 2 => some .lt | 3 => some .ge
  | 4 => some .ltn | 5 => some .gen | 6 => some .bs | 7 => some .bc
  | _ => none

/-- R54. -/
def scopeOfNat : Nat → Option Scope
  | 0 => some .core | 1 => some .cluster | 2 => some .die | 3 => some .package | 4 => some .fabric
  | _ => none

/-- R63. -/
def redOfNat : Nat → Option Red
  | 0 => some .and | 1 => some .or | 2 => some .maj
  | _ => none

/-- MAJ 0x01 (R45). -/
def decodeAlu (sub : Nat) (d a b : Reg) : Except DecodeError Instr :=
  match sub with
  | 0x00 => .ok (.add d a b) | 0x01 => .ok (.sub d a b) | 0x02 => .ok (.mul d a b) | 0x03 => .ok (.mulh d a b)
  | 0x04 => .ok (.mulhn d a b) | 0x05 => .ok (.div d a b) | 0x06 => .ok (.divn d a b) | 0x07 => .ok (.rem d a b)
  | 0x08 => .ok (.remn d a b) | 0x09 => .ok (.and d a b) | 0x0A => .ok (.or d a b) | 0x0B => .ok (.xor d a b)
  | 0x0C => .ok (.andn d a b) | 0x0D => .ok (.sll d a b) | 0x0E => .ok (.srl d a b) | 0x0F => .ok (.sra d a b)
  | 0x10 => .ok (.rol d a b) | 0x11 => .ok (.ror d a b) | 0x12 => .ok (.min d a b) | 0x13 => .ok (.max d a b)
  | 0x14 => .ok (.minn d a b) | 0x15 => .ok (.maxn d a b)
  | 0x16 => needZero b.val (.ok (.clz d a)) | 0x17 => needZero b.val (.ok (.ctz d a))
  | 0x18 => needZero b.val (.ok (.popc d a)) | 0x19 => needZero b.val (.ok (.bswap d a))
  | 0x1A => .ok (.clmul d a b) | 0x1B => .ok (.clmulh d a b) | 0x1C => .ok (.addw d a b) | 0x1D => .ok (.subw d a b)
  | _ => .error .reservedSub

/-- MAJ 0x06 (R46). -/
def decodeShi (w : Nat) (d a : Reg) : Except DecodeError Instr :=
  needZero (fld w 6 6) <|
    match fld w 12 2 with
    | 0 => .ok (.slli d a (fBits w 0 6)) | 1 => .ok (.srli d a (fBits w 0 6))
    | 2 => .ok (.srai d a (fBits w 0 6)) | _ => .ok (.rori d a (fBits w 0 6))

/-- MAJ 0x0B and 0x0C (R47). -/
def decodeCmp (w : Nat) : Except DecodeError Instr :=
  match cmpOfNat (fld w 19 4) with
  | none => .error .reservedSub
  | some cc => needZero (fld w 0 7) (.ok (.cmp (fCond w 23) cc (fReg w 13) (fReg w 7)))

def decodeCmpi (w : Nat) : Except DecodeError Instr :=
  match cmpOfNat (fld w 19 4) with
  | none => .error .reservedSub
  | some cc => .ok (.cmpi (fCond w 23) cc (fReg w 13) (fBits w 0 13))

/-- MAJ 0x0E (R41, R48). -/
def decodeCnd (w : Nat) : Except DecodeError Instr :=
  match fld w 0 8 with
  | 0 => needZero (fld w 20 3 + fld w 8 6) (.ok (.cand (fCond w 23) (fCond w 17) (fCond w 14)))
  | 1 => needZero (fld w 20 3 + fld w 8 6) (.ok (.cor (fCond w 23) (fCond w 17) (fCond w 14)))
  | 2 => needZero (fld w 20 3 + fld w 8 6) (.ok (.cxor (fCond w 23) (fCond w 17) (fCond w 14)))
  | 3 => needZero (fld w 20 3 + fld w 8 6) (.ok (.candn (fCond w 23) (fCond w 17) (fCond w 14)))
  | _ => .error .reservedSub

/-- MAJ 0x11 (R49). -/
def decodeXfer (w : Nat) : Except DecodeError Instr :=
  match fld w 16 3 with
  | 0 => needZero (fld w 19 4 + fld w 0 16) (.ok (.br (fCond w 23)))
  | 1 => needZero (fld w 0 16) (.ok (.brc (fCond w 23) (fCond w 20) (fFlag w 19)))
  | 2 => needZero (fld w 19 4 + fld w 0 16) (.ok (.call (fCond w 23)))
  | 3 => needZero (fld w 0 16) (.ok (.callc (fCond w 23) (fCond w 20) (fFlag w 19)))
  | 4 => needZero (fld w 19 7 + fld w 0 16) (.ok .ret)
  | 5 => needZero (fld w 25 1 + fld w 0 16) (.ok (.lbrk (fLoop w 23) (fCond w 20) (fFlag w 19)))
  | _ => .error .reservedSub

/-- The body of a LOOP form has at least one word (R50). -/
def needBody (len : BitVec 10) (r : Except DecodeError Instr) : Except DecodeError Instr :=
  if len = 0 then .error .emptyBody else r

/-- MAJ 0x12 and 0x13 (R50). -/
def decodeLoop (w : Nat) : Except DecodeError Instr :=
  match fld w 22 2 with
  | 0 => needBody (fBits w 12 10) (.ok (.loop (fLoop w 24) (fBits w 12 10) (fBits w 0 12)))
  | 1 => needBody (fBits w 12 10) (needZero (fld w 6 6) (.ok (.loopReg (fLoop w 24) (fBits w 12 10) (fReg w 0))))
  | 2 => needBody (fBits w 12 10) (needZero (fld w 0 12) (.ok (.loopCq (fLoop w 24) (fBits w 12 10))))
  | _ => .error .reservedSub

/-- LOOPS, LOOPS.R and LOOPS.CQ (R50). Their LEN = 0 decodes, and traps LOOP_SHAPE as their cell of R113 says (DEDUCED, log entry
40). -/
def decodeLoops (w : Nat) : Except DecodeError Instr :=
  match fld w 22 2 with
  | 0 => .ok (.loops (fLoop w 24) (fBits w 12 10) (fBits w 9 3) (fBits w 0 9))
  | 1 => needZero (fld w 6 3) (.ok (.loopsReg (fLoop w 24) (fBits w 12 10) (fBits w 9 3) (fReg w 0)))
  | 2 => needZero (fld w 0 9) (.ok (.loopsCq (fLoop w 24) (fBits w 12 10) (fBits w 9 3)))
  | _ => .error .reservedSub

/-- MAJ 0x15 (R52). -/
def decodeCq (w : Nat) : Except DecodeError Instr :=
  match fld w 0 8 with
  | 0 => needZero (fld w 20 6 + fld w 8 6) (.ok (.cqpush (fReg w 14)))
  | 1 => needZero (fld w 14 6 + fld w 8 6) (.ok (.cqpop (fReg w 20)))
  | 2 => needZero (fld w 8 18) (.ok .cqclr)
  | 3 => needZero (fld w 14 6 + fld w 8 6) (.ok (.cqlen (fReg w 20)))
  | _ => .error .reservedSub

/-- MAJ 0x22 (R53). -/
def decodeAsync (w : Nat) : Except DecodeError Instr :=
  match fld w 0 8 with
  | 0 => .ok (.lda (fReg w 20) (fReg w 14) (fReg w 8))
  | 1 => .ok (.sta (fReg w 20) (fReg w 14) (fReg w 8))
  | _ => .error .reservedSub

/-- MAJ 0x23 (R55). -/
def decodeAtom (w : Nat) : Except DecodeError Instr :=
  match scopeOfNat (fld w 4 3) with
  | none => .error .reservedSub
  | some k =>
    let d := fReg w 20
    let a := fReg w 14
    let b := fReg w 8
    let h := fFlag w 7
    match fld w 0 4 with
    | 0 => .ok (.atomSwp d a b h k) | 1 => .ok (.atomAdd d a b h k) | 2 => .ok (.atomAnd d a b h k)
    | 3 => .ok (.atomOr d a b h k) | 4 => .ok (.atomXor d a b h k) | 5 => .ok (.atomMin d a b h k)
    | 6 => .ok (.atomMax d a b h k) | 7 => .ok (.atomMinn d a b h k) | 8 => .ok (.atomMaxn d a b h k)
    | 9 => .ok (.atomCas d a b h k)
    | _ => .error .reservedSub

/-- MAJ 0x24 (R56). -/
def decodeFence (w : Nat) : Except DecodeError Instr :=
  match fld w 22 4 with
  | 0 => match scopeOfNat (fld w 19 3) with
    | none => .error .reservedSub
    | some k => needZero (fld w 0 19) (.ok (.fenceSc k))
  | 1 => match scopeOfNat (fld w 19 3) with
    | none => .error .reservedSub
    | some k => needZero (fld w 0 19) (.ok (.fenceAcq k))
  | 2 => match scopeOfNat (fld w 19 3) with
    | none => .error .reservedSub
    | some k => needZero (fld w 0 19) (.ok (.fenceRel k))
  | 3 => needZero (fld w 0 22) (.ok .fenceRq)
  | 4 => needZero (fld w 0 22) (.ok .fencePip)
  | _ => .error .reservedSub

/-- MAJ 0x25 (R57). -/
def decodeSem (w : Nat) : Except DecodeError Instr :=
  match fld w 23 3 with
  | 0 => needZero (fld w 0 6) (.ok (.semadd (fBits w 12 11) (fReg w 6)))
  | 1 => needZero (fld w 6 6) (.ok (.semaddi (fBits w 12 11) (fBits w 0 6)))
  | 2 => needZero (fld w 0 6) (.ok (.semwait (fBits w 12 11) (fReg w 6)))
  | 3 => needZero (fld w 6 6) (.ok (.semwaiti (fBits w 12 11) (fBits w 0 6)))
  | 4 => needZero (fld w 0 6) (.ok (.semset (fBits w 12 11) (fReg w 6)))
  | 5 => needZero (fld w 0 6) (.ok (.semrd (fBits w 12 11) (fReg w 6)))
  | _ => .error .reservedSub

/-- MAJ 0x26 (R58); an inline POST takes the eight words after it as its record. -/
def decodePost (w : Nat) (record : Option Rec) : Except DecodeError Instr :=
  match fld w 20 6 with
  | 0 => needZero (fld w 0 20) (match record with | some r => .ok (.post r) | none => .error .truncated)
  | 1 => needZero (fld w 0 14) (.ok (.postm (fReg w 14)))
  | _ => .error .reservedSub

/-- MAJ 0x28 (R60). -/
def decodeBox (w : Nat) : Except DecodeError Instr :=
  match fld w 23 3 with
  | 0 => needZero (fld w 15 2) (.ok (.bxh (fReg w 17) (fReg w 9) (fBits w 0 9)))
  | 1 => .ok (.bxo (fReg w 17) (fBits w 15 2) (fReg w 9) (fBits w 0 9))
  | 2 => .ok (.bxe (fReg w 17) (fBits w 15 2) (fReg w 9) (fBits w 0 9))
  | 3 => .ok (.bxs (fReg w 17) (fBits w 15 2) (fReg w 9) (fBits w 0 9))
  | 4 => needZero (fld w 15 2 + fld w 0 9) (.ok (.bxc (fReg w 17) (fReg w 9)))
  | 5 => needZero (fld w 0 17) (.ok (.bxz (fReg w 17)))
  | _ => .error .reservedSub

/-- MAJ 0x29 (R61). -/
def decodeHusk (w : Nat) : Except DecodeError Instr :=
  match fld w 20 6 with
  | 0 => .ok (.hkld (fReg w 14) (fReg w 8) (fBits w 0 8))
  | 1 => .ok (.hkst (fReg w 14) (fReg w 8) (fBits w 0 8))
  | 2 => needZero (fld w 8 6) (.ok (.hkinv (fReg w 14) (fBits w 0 8)))
  | 3 => .ok (.hktab (fReg w 14) (fReg w 8) (fBits w 0 8))
  | _ => .error .reservedSub

/-- MAJ 0x2A (R62). -/
def decodeEntry (w : Nat) : Except DecodeError Instr :=
  match fld w 24 2 with
  | 0 => match scopeOfNat (fld w 21 3) with
    | none => .error .reservedSub
    | some k => needZero (fld w 20 1 + fld w 0 14) (.ok (.acq k (fReg w 14)))
  | 1 => match scopeOfNat (fld w 21 3) with
    | none => .error .reservedSub
    | some k => needZero (fld w 20 1 + fld w 0 14) (.ok (.rel k (fReg w 14)))
  | 2 => needZero (fld w 20 4 + fld w 0 8) (.ok (.bind (fReg w 14) (fReg w 8)))
  | _ => needZero (fld w 20 4 + fld w 0 8) (.ok (.unbind (fReg w 14) (fReg w 8)))

/-- MAJ 0x2B (R63). -/
def decodeGrp (w : Nat) : Except DecodeError Instr :=
  match fld w 23 3 with
  | 0 => match redOfNat (fld w 14 2) with
    | none => .error .reservedSub
    | some r => needZero (fld w 0 13) (.ok (.cbr (fCond w 20) (fCond w 17) (fFlag w 16) r (fFlag w 13)))
  | 1 => match redOfNat (fld w 14 2) with
    | none => .error .reservedSub
    | some r => needZero (fld w 0 14) (.ok (.cbrx (fCond w 20) (fCond w 17) (fFlag w 16) r))
  | 2 => needZero (fld w 0 23) (.ok .cstep)
  | 3 => needZero (fld w 0 23) (.ok .gabort)
  | _ => .error .reservedSub

/-- MAJ 0x2C (R64). Kinds 4 to 255 of MAPINV are reserved (R268). -/
def decodeSys (w : Nat) : Except DecodeError Instr :=
  match fld w 20 6 with
  | 0 => needZero (fld w 8 6) (.ok (.mfs (fReg w 14) (fBits w 0 8)))
  | 1 => needZero (fld w 14 6) (.ok (.mts (fReg w 8) (fBits w 0 8)))
  | 2 => needZero (fld w 8 12) (.ok (.trap (fBits w 0 8)))
  | 3 => needZero (fld w 0 20) (.ok .eret)
  | 4 => needZero (fld w 8 12) (.ok (.yield (fBits w 0 8)))
  | 5 => needZero (fld w 14 6 + fld w 0 8) (.ok (.saveq (fReg w 8)))
  | 6 => needZero (fld w 14 6 + fld w 0 8) (.ok (.restq (fReg w 8)))
  | 7 => needZero (fld w 0 20) (.ok .halt)
  | 8 => needZero (fld w 8 12) (.ok (.brk (fBits w 0 8)))
  | 9 => needZero (fld w 14 6 + fld w 0 8) (.ok (.tstart (fReg w 8)))
  | 10 => needZero (fld w 14 6) <|
    match fld w 0 8 with
    | 0 => .ok (.mapinvAddr (fReg w 8)) | 1 => .ok (.mapinvSeg (fReg w 8)) | 2 => .ok (.mapinvAsid (fReg w 8))
    | 3 => needZero (fld w 8 6) (.ok .mapinvAll)
    | _ => .error .reservedSub
  | 11 => needZero (fld w 8 6 + fld w 3 5) (.ok (.ridge (fReg w 14) (fBits w 0 3)))
  | 12 => needZero (fld w 8 12) (.ok (.snap (fBits w 0 8)))
  | 13 => needZero (fld w 0 20) (.ok .sleep)
  | _ => .error .reservedSub

/-- The word of an instruction (R42), with the record that its eight following words would form. -/
def decodeWord (w : Nat) (record : Option Rec) : Except DecodeError Instr :=
  let d := fReg w 20
  let a := fReg w 14
  let i := fBits w 0 14
  match fld w 26 6 with
  | 0x01 => decodeAlu (fld w 0 8) d a (fReg w 8)
  | 0x02 => .ok (.addi d a i) | 0x03 => .ok (.andi d a i) | 0x04 => .ok (.ori d a i) | 0x05 => .ok (.xori d a i)
  | 0x06 => decodeShi w d a
  | 0x07 => .ok (.lui d (fBits w 0 20)) | 0x08 => .ok (.lih d (fBits w 0 20))
  | 0x09 => needZero (fld w 13 1) (.ok (.bfx d a (fFlag w 12) (fBits w 6 6) (fBits w 0 6)))
  | 0x0A => needZero (fld w 12 2) (.ok (.bfi d a (fBits w 6 6) (fBits w 0 6)))
  | 0x0B => decodeCmp w | 0x0C => decodeCmpi w
  | 0x0D => needZero (fld w 4 4) (.ok (.sel d a (fReg w 8) (fFlag w 3) (fCond w 0)))
  | 0x0E => decodeCnd w
  | 0x0F => .ok (.ptg (fCond w 23) (fBits w 0 23))
  | 0x10 => needZero (fld w 20 3 + fld w 0 14) (.ok (.ptr (fCond w 23) a))
  | 0x11 => decodeXfer w | 0x12 => decodeLoop w | 0x13 => decodeLoops w
  | 0x14 => needZero (fld w 0 8) (.ok (.rep (fBits w 20 6) (fBits w 16 4) (fBits w 12 4) (fBits w 8 4)))
  | 0x15 => decodeCq w
  | 0x16 => .ok (.ldb d a i) | 0x17 => .ok (.ldbn d a i) | 0x18 => .ok (.ldh d a i) | 0x19 => .ok (.ldhn d a i)
  | 0x1A => .ok (.ldw d a i) | 0x1B => .ok (.ldwn d a i) | 0x1C => .ok (.ldd d a i)
  | 0x1D => .ok (.stb d a i) | 0x1E => .ok (.sth d a i) | 0x1F => .ok (.stw d a i) | 0x20 => .ok (.std d a i)
  | 0x21 => needZero (fld w 0 10)
      (if fFlag w 19 then .ok (.fil d (fBits w 10 9)) else .ok (.spl d (fBits w 10 9)))
  | 0x22 => decodeAsync w | 0x23 => decodeAtom w | 0x24 => decodeFence w | 0x25 => decodeSem w
  | 0x26 => decodePost w record
  | 0x27 => needZero (fld w 0 8) (.ok (.waitc (fBits w 20 6) (fBits w 16 4) (fBits w 12 4) (fBits w 8 4)))
  | 0x28 => decodeBox w | 0x29 => decodeHusk w | 0x2A => decodeEntry w | 0x2B => decodeGrp w | 0x2C => decodeSys w
  | _ => .error .reservedMajor

/-- The record that eight words form: word k holds bits [32k + 31 : 32k] (R67). -/
def recOfWords (ws : List Nat) : Rec :=
  BitVec.ofNat 256 ((ws.take 8).foldr (fun w acc => w % 2 ^ 32 + 2 ^ 32 * acc) 0)

/-- Words of a byte string, little-endian (R39); bytes short of a word at the end are dropped. -/
def wordsOfBytes : List Nat → List Nat
  | b0 :: b1 :: b2 :: b3 :: t =>
    (b0 % 256 + 256 * (b1 % 256) + 65536 * (b2 % 256) + 16777216 * (b3 % 256)) :: wordsOfBytes t
  | _ => []

/-- Decode the first instruction of a list of words, with the words after it. -/
def decodeWords : List Nat → Except DecodeError (Instr × List Nat)
  | [] => .error .truncated
  | w :: t =>
    match decodeWord w (if t.length < 8 then none else some (recOfWords t)) with
    | .error e => .error e
    | .ok (.post r) => .ok (.post r, t.drop 8)
    | .ok i => .ok (i, t)

/-- Decode the first instruction of a byte string. -/
def decodeBytes (bs : List Nat) : Except DecodeError Instr :=
  (decodeWords (wordsOfBytes bs)).map Prod.fst

/-- Bytes of `w`, least significant first. -/
def bytesOfNat : Nat → Nat → List Nat
  | 0, _ => []
  | n + 1, w => w % 256 :: bytesOfNat n (w / 256)

/-- The instruction whose bits are `w`, numbered as the opcode table numbers them: the first word in bits [31:0]. The
bits above `nbits` are 0. -/
def decodeTableWord (nbits w : Nat) : Option Instr :=
  match decodeBytes (bytesOfNat 36 (w % 2 ^ nbits)) with
  | .ok i => some i
  | .error _ => none

/-! ### The encoder -/

def Cmp.code : Cmp → Nat
  | .eq => 0 | .ne => 1 | .lt => 2 | .ge => 3 | .ltn => 4 | .gen => 5 | .bs => 6 | .bc => 7

def Scope.code : Scope → Nat
  | .core => 0 | .cluster => 1 | .die => 2 | .package => 3 | .fabric => 4

def Red.code : Red → Nat
  | .and => 0 | .or => 1 | .maj => 2

/-- A word of format RR (R40). -/
def encRR (maj sub : Nat) (d a b : Nat) : Nat := maj * 2 ^ 26 + d * 2 ^ 20 + a * 2 ^ 14 + b * 2 ^ 8 + sub
/-- Format RI and MEM. -/
def encRI (maj : Nat) (d a imm : Nat) : Nat := maj * 2 ^ 26 + d * 2 ^ 20 + a * 2 ^ 14 + imm
/-- Format SY. -/
def encSY (maj op d a imm : Nat) : Nat := maj * 2 ^ 26 + op * 2 ^ 20 + d * 2 ^ 14 + a * 2 ^ 8 + imm
/-- XFER (R49). -/
def encXF (kind t c n : Nat) : Nat := 0x11 * 2 ^ 26 + t * 2 ^ 23 + c * 2 ^ 20 + n * 2 ^ 19 + kind * 2 ^ 16
/-- LOOP and LOOPS (R50). -/
def encLP (maj l src len cnt : Nat) : Nat := maj * 2 ^ 26 + l * 2 ^ 24 + src * 2 ^ 22 + len * 2 ^ 12 + cnt
/-- SEM (R57). -/
def encSem (op s g imm : Nat) : Nat := 0x25 * 2 ^ 26 + op * 2 ^ 23 + s * 2 ^ 12 + g * 2 ^ 6 + imm
/-- BOX (R60). -/
def encBox (op x dim a imm : Nat) : Nat := 0x28 * 2 ^ 26 + op * 2 ^ 23 + x * 2 ^ 17 + dim * 2 ^ 15 + a * 2 ^ 9 + imm
/-- ENTRY (R62). -/
def encEntry (op k a b : Nat) : Nat := 0x2A * 2 ^ 26 + op * 2 ^ 24 + k * 2 ^ 21 + a * 2 ^ 14 + b * 2 ^ 8
/-- CBR and CBRX (R63). -/
def encGrp (op t c n r h : Nat) : Nat :=
  0x2B * 2 ^ 26 + op * 2 ^ 23 + t * 2 ^ 20 + c * 2 ^ 17 + n * 2 ^ 16 + r * 2 ^ 14 + h * 2 ^ 13

/-- The word of a strand instruction; a task or an event has none. -/
def encodeWord : Instr → Option Nat
  | .add d a b => some (encRR 1 0x00 d a b) | .sub d a b => some (encRR 1 0x01 d a b)
  | .mul d a b => some (encRR 1 0x02 d a b) | .mulh d a b => some (encRR 1 0x03 d a b)
  | .mulhn d a b => some (encRR 1 0x04 d a b) | .div d a b => some (encRR 1 0x05 d a b)
  | .divn d a b => some (encRR 1 0x06 d a b) | .rem d a b => some (encRR 1 0x07 d a b)
  | .remn d a b => some (encRR 1 0x08 d a b) | .and d a b => some (encRR 1 0x09 d a b)
  | .or d a b => some (encRR 1 0x0A d a b) | .xor d a b => some (encRR 1 0x0B d a b)
  | .andn d a b => some (encRR 1 0x0C d a b) | .sll d a b => some (encRR 1 0x0D d a b)
  | .srl d a b => some (encRR 1 0x0E d a b) | .sra d a b => some (encRR 1 0x0F d a b)
  | .rol d a b => some (encRR 1 0x10 d a b) | .ror d a b => some (encRR 1 0x11 d a b)
  | .min d a b => some (encRR 1 0x12 d a b) | .max d a b => some (encRR 1 0x13 d a b)
  | .minn d a b => some (encRR 1 0x14 d a b) | .maxn d a b => some (encRR 1 0x15 d a b)
  | .clz d a => some (encRR 1 0x16 d a 0) | .ctz d a => some (encRR 1 0x17 d a 0)
  | .popc d a => some (encRR 1 0x18 d a 0) | .bswap d a => some (encRR 1 0x19 d a 0)
  | .clmul d a b => some (encRR 1 0x1A d a b) | .clmulh d a b => some (encRR 1 0x1B d a b)
  | .addw d a b => some (encRR 1 0x1C d a b) | .subw d a b => some (encRR 1 0x1D d a b)
  | .addi d a i => some (encRI 2 d a i.toNat) | .andi d a i => some (encRI 3 d a i.toNat)
  | .ori d a i => some (encRI 4 d a i.toNat) | .xori d a i => some (encRI 5 d a i.toNat)
  | .slli d a n => some (encRI 6 d a n.toNat) | .srli d a n => some (encRI 6 d a (0x1000 + n.toNat))
  | .srai d a n => some (encRI 6 d a (0x2000 + n.toNat)) | .rori d a n => some (encRI 6 d a (0x3000 + n.toNat))
  | .lui d i => some (7 * 2 ^ 26 + d * 2 ^ 20 + i.toNat) | .lih d i => some (8 * 2 ^ 26 + d * 2 ^ 20 + i.toNat)
  | .bfx d a s p l => some (encRI 9 d a (s.toNat * 2 ^ 12 + p.toNat * 2 ^ 6 + l.toNat))
  | .bfi d a p l => some (encRI 10 d a (p.toNat * 2 ^ 6 + l.toNat))
  | .cmp c cc a b => some (11 * 2 ^ 26 + c * 2 ^ 23 + cc.code * 2 ^ 19 + a * 2 ^ 13 + b * 2 ^ 7)
  | .cmpi c cc a i => some (12 * 2 ^ 26 + c * 2 ^ 23 + cc.code * 2 ^ 19 + a * 2 ^ 13 + i.toNat)
  | .sel d a b n c => some (encRR 13 (n.toNat * 8 + c) d a b)
  | .cand c x y => some (14 * 2 ^ 26 + c * 2 ^ 23 + x * 2 ^ 17 + y * 2 ^ 14)
  | .cor c x y => some (14 * 2 ^ 26 + c * 2 ^ 23 + x * 2 ^ 17 + y * 2 ^ 14 + 1)
  | .cxor c x y => some (14 * 2 ^ 26 + c * 2 ^ 23 + x * 2 ^ 17 + y * 2 ^ 14 + 2)
  | .candn c x y => some (14 * 2 ^ 26 + c * 2 ^ 23 + x * 2 ^ 17 + y * 2 ^ 14 + 3)
  | .ptg t i => some (15 * 2 ^ 26 + t * 2 ^ 23 + i.toNat)
  | .ptr t a => some (16 * 2 ^ 26 + t * 2 ^ 23 + a * 2 ^ 14)
  | .br t => some (encXF 0 t 0 0) | .brc t c n => some (encXF 1 t c n.toNat)
  | .call t => some (encXF 2 t 0 0) | .callc t c n => some (encXF 3 t c n.toNat)
  | .ret => some (encXF 4 0 0 0) | .lbrk l c n => some (encXF 5 l c n.toNat)
  | .loop l len cnt => some (encLP 0x12 l 0 len.toNat cnt.toNat)
  | .loopReg l len g => some (encLP 0x12 l 1 len.toNat g)
  | .loopCq l len => some (encLP 0x12 l 2 len.toNat 0)
  | .loops l len s cnt => some (encLP 0x13 l 0 len.toNat (s.toNat * 2 ^ 9 + cnt.toNat))
  | .loopsReg l len s g => some (encLP 0x13 l 1 len.toNat (s.toNat * 2 ^ 9 + g))
  | .loopsCq l len s => some (encLP 0x13 l 2 len.toNat (s.toNat * 2 ^ 9))
  | .rep n d a b => some (0x14 * 2 ^ 26 + n.toNat * 2 ^ 20 + d.toNat * 2 ^ 16 + a.toNat * 2 ^ 12 + b.toNat * 2 ^ 8)
  | .cqpush a => some (encRR 0x15 0 0 a 0) | .cqpop d => some (encRR 0x15 1 d 0 0)
  | .cqclr => some (encRR 0x15 2 0 0 0) | .cqlen d => some (encRR 0x15 3 d 0 0)
  | .ldb d a i => some (encRI 0x16 d a i.toNat) | .ldbn d a i => some (encRI 0x17 d a i.toNat)
  | .ldh d a i => some (encRI 0x18 d a i.toNat) | .ldhn d a i => some (encRI 0x19 d a i.toNat)
  | .ldw d a i => some (encRI 0x1A d a i.toNat) | .ldwn d a i => some (encRI 0x1B d a i.toNat)
  | .ldd d a i => some (encRI 0x1C d a i.toNat)
  | .stb d a i => some (encRI 0x1D d a i.toNat) | .sth d a i => some (encRI 0x1E d a i.toNat)
  | .stw d a i => some (encRI 0x1F d a i.toNat) | .std d a i => some (encRI 0x20 d a i.toNat)
  | .spl g s => some (0x21 * 2 ^ 26 + g * 2 ^ 20 + s.toNat * 2 ^ 10)
  | .fil g s => some (0x21 * 2 ^ 26 + g * 2 ^ 20 + 2 ^ 19 + s.toNat * 2 ^ 10)
  | .lda d a b => some (encRR 0x22 0 d a b) | .sta d a b => some (encRR 0x22 1 d a b)
  | .atomSwp d a b w k => some (encRR 0x23 (w.toNat * 128 + k.code * 16 + 0) d a b)
  | .atomAdd d a b w k => some (encRR 0x23 (w.toNat * 128 + k.code * 16 + 1) d a b)
  | .atomAnd d a b w k => some (encRR 0x23 (w.toNat * 128 + k.code * 16 + 2) d a b)
  | .atomOr d a b w k => some (encRR 0x23 (w.toNat * 128 + k.code * 16 + 3) d a b)
  | .atomXor d a b w k => some (encRR 0x23 (w.toNat * 128 + k.code * 16 + 4) d a b)
  | .atomMin d a b w k => some (encRR 0x23 (w.toNat * 128 + k.code * 16 + 5) d a b)
  | .atomMax d a b w k => some (encRR 0x23 (w.toNat * 128 + k.code * 16 + 6) d a b)
  | .atomMinn d a b w k => some (encRR 0x23 (w.toNat * 128 + k.code * 16 + 7) d a b)
  | .atomMaxn d a b w k => some (encRR 0x23 (w.toNat * 128 + k.code * 16 + 8) d a b)
  | .atomCas d a b w k => some (encRR 0x23 (w.toNat * 128 + k.code * 16 + 9) d a b)
  | .fenceSc k => some (0x24 * 2 ^ 26 + k.code * 2 ^ 19)
  | .fenceAcq k => some (0x24 * 2 ^ 26 + 1 * 2 ^ 22 + k.code * 2 ^ 19)
  | .fenceRel k => some (0x24 * 2 ^ 26 + 2 * 2 ^ 22 + k.code * 2 ^ 19)
  | .fenceRq => some (0x24 * 2 ^ 26 + 3 * 2 ^ 22) | .fencePip => some (0x24 * 2 ^ 26 + 4 * 2 ^ 22)
  | .semadd s g => some (encSem 0 s.toNat g 0) | .semaddi s i => some (encSem 1 s.toNat 0 i.toNat)
  | .semwait s g => some (encSem 2 s.toNat g 0) | .semwaiti s i => some (encSem 3 s.toNat 0 i.toNat)
  | .semset s g => some (encSem 4 s.toNat g 0) | .semrd s g => some (encSem 5 s.toNat g 0)
  | .post _ => some (0x26 * 2 ^ 26) | .postm a => some (0x26 * 2 ^ 26 + 2 ^ 20 + a * 2 ^ 14)
  | .waitc t l s c =>
    some (0x27 * 2 ^ 26 + t.toNat * 2 ^ 20 + l.toNat * 2 ^ 16 + s.toNat * 2 ^ 12 + c.toNat * 2 ^ 8)
  | .bxh x a i => some (encBox 0 x 0 a i.toNat) | .bxo x d a i => some (encBox 1 x d.toNat a i.toNat)
  | .bxe x d a i => some (encBox 2 x d.toNat a i.toNat) | .bxs x d a i => some (encBox 3 x d.toNat a i.toNat)
  | .bxc x a => some (encBox 4 x 0 a 0) | .bxz x => some (encBox 5 x 0 0 0)
  | .hkld h a i => some (encSY 0x29 0 h a i.toNat) | .hkst h a i => some (encSY 0x29 1 h a i.toNat)
  | .hkinv h i => some (encSY 0x29 2 h 0 i.toNat) | .hktab h a i => some (encSY 0x29 3 h a i.toNat)
  | .acq k a => some (encEntry 0 k.code a 0) | .rel k a => some (encEntry 1 k.code a 0)
  | .bind a b => some (encEntry 2 0 a b) | .unbind a b => some (encEntry 3 0 a b)
  | .cbr t c n r h => some (encGrp 0 t c n.toNat r.code h.toNat)
  | .cbrx t c n r => some (encGrp 1 t c n.toNat r.code 0)
  | .cstep => some (0x2B * 2 ^ 26 + 2 * 2 ^ 23) | .gabort => some (0x2B * 2 ^ 26 + 3 * 2 ^ 23)
  | .mfs d r => some (encSY 0x2C 0 d 0 r.toNat) | .mts a r => some (encSY 0x2C 1 0 a r.toNat)
  | .trap c => some (encSY 0x2C 2 0 0 c.toNat) | .eret => some (encSY 0x2C 3 0 0 0)
  | .yield n => some (encSY 0x2C 4 0 0 n.toNat) | .saveq a => some (encSY 0x2C 5 0 a 0)
  | .restq a => some (encSY 0x2C 6 0 a 0) | .halt => some (encSY 0x2C 7 0 0 0)
  | .brk t => some (encSY 0x2C 8 0 0 t.toNat) | .tstart a => some (encSY 0x2C 9 0 a 0)
  | .mapinvAddr a => some (encSY 0x2C 10 0 a 0) | .mapinvSeg a => some (encSY 0x2C 10 0 a 1)
  | .mapinvAsid a => some (encSY 0x2C 10 0 a 2) | .mapinvAll => some (encSY 0x2C 10 0 0 3)
  | .ridge d k => some (encSY 0x2C 11 d 0 k.toNat) | .snap t => some (encSY 0x2C 12 0 0 t.toNat)
  | .sleep => some (encSY 0x2C 13 0 0 0)
  | _ => none

/-- The record of an inline POST. -/
def recordOf : Instr → Option Rec
  | .post r => some r
  | _ => none

/-- The eight words of a record (R66, R67). -/
def wordsOfRec (r : Rec) : List Nat :=
  (List.range 8).map (fun k => r.toNat / 2 ^ (32 * k) % 2 ^ 32)

/-- The words of an instruction: one, or nine for an inline POST (R39). -/
def encode (i : Instr) : Option (List Nat) :=
  (encodeWord i).map (fun w => w :: (match recordOf i with | some r => wordsOfRec r | none => []))

end Sys2Proof
end

