-- ==== Sys2Proof/Machine/State.lean ====
section
/-! DEFINITION. The state of one core, its package and the pod as that core sees it: every piece of state the spec names
(INVENTORY.md lists each with its rule), and `State.reset`. Sparse tables are lists of (key, value) pairs in one canonical
form: keys strictly rising, no entry equal to what an unlisted key reads as (Machine/Mem.lean has their operations). -/

namespace Sys2Proof.Machine

/-- No step of this model ends in a fault: causes are traps, taken as the spec says (R136, R137). The one constructor
keeps the type inhabited; no meaning raises it. Safe. -/
inductive Fault where
  | unreachable
  deriving DecidableEq, Repr

/-- Why a step has no meaning here. -/
inductive Refusal where
  /-- Raised by an arm of `exec` whose instruction has no meaning yet, with the mnemonic of spec/opcode_table.json.
  Safe: nothing about the hardware follows from a refusal. -/
  | notModelled (mnemonic : String)
  deriving DecidableEq, Repr

/-- A sparse table: (key, value) pairs, keys strictly rising. -/
abbrev Table (α : Type) := List (Nat × α)

/-- The causes of R74. -/
inductive Cause where
  | illegal | priv | align | rasOver | rasEmpty | loopShape | taskbad | boxbad | huskbad | seg | page | wprot | owner
  | ue | residue | pipExp | remote | cbrTimeout | abort | window | brk | trap | preempt | lateStart
  deriving DecidableEq, Repr

/-- The five engines (R66 ENG). -/
inductive Engine where
  | m | v | x | c | f
  deriving DecidableEq, Repr

/-! ### The strand -/

/-- XSTAT and EXSTAT (R80); the reserved bits read zero. -/
structure Xstat where
  q : BitVec 8 := 0
  pipe : Bool := false
  stg : BitVec 3 := 0
  pid : BitVec 2 := 0
  repk : BitVec 6 := 0
  xp : Bool := false
  depth : BitVec 3 := 0
  nest : BitVec 8 := 0
  sk : Bool := false
  xt : Bool := false
  cqo : Bool := false
  cqu : Bool := false
  deriving DecidableEq, Repr

/-- A loop register lc0 to lc3 (R81). -/
structure LoopReg where
  j : BitVec 32 := 0
  cnt : BitVec 32 := 0
  deriving DecidableEq, Repr

/-- The bounds of a loop body, and the layout of ELB0 to ELB3 (R134). -/
structure Bounds where
  first : BitVec 32 := 0
  last : BitVec 32 := 0
  deriving DecidableEq, Repr

/-- What completes behind a shadow slot (R79, R110, R359, R360): an ordinary transfer to `target`, taken or not; or a
collective branch whose result is still unknown, with its hint. -/
inductive PendKind where
  | xfer
  | lbrk (l : LoopId)
  | cbrKnown
  | cbrOpen (hint : Bool) (inst : BitVec 32)
  deriving DecidableEq, Repr

/-- The pending transfer: whether it is taken, where to, and the fall-through address n. -/
structure Pend where
  kind : PendKind
  taken : Bool
  target : BitVec 32
  fall : BitVec 32
  deriving DecidableEq, Repr

/-- A repeat in progress (R87): the next repetition k, of n + 1. -/
structure RepState where
  k : Nat
  n : Nat
  sd : BitVec 4
  sa : BitVec 4
  sb : BitVec 4
  deriving DecidableEq, Repr

/-- A load or atomic outstanding (R93, R122): where it writes, its value or that its data are uncorrectable, and
whether it issued while the strand ran ahead. -/
structure Load where
  d : Reg
  value : Word
  ue : Bool
  addr : Word
  kind : Nat
  ahead : Bool
  deriving DecidableEq, Repr

/-- An LDA or STA in flight (R124): its scratchpad offset, virtual address, byte count, and the physical address of each
32 KiB page of the range as checked at issue. -/
structure Copy where
  toSpad : Bool
  off : Nat
  va : Nat
  len : Nat
  pages : List (Nat × Nat)
  asid : BitVec 13
  deriving DecidableEq, Repr

/-- Why the strand is not issuing. `idle`: no launch (R317). `waiting`: launched, its start time not reached (R313).
`stopped`: stopped by force (R180). -/
inductive Run where
  | idle | waiting | running | halted | error | preempted | ended | stopped | tripped
  deriving DecidableEq, Repr

/-- The strand (R75). -/
structure Strand where
  g : Vector Word 64
  tb : Vector (BitVec 32) 8
  c : Vector Bool 8
  lc : Vector LoopReg 4
  bounds : Vector Bounds 4
  pc : BitVec 32
  ras : List (BitVec 32)
  rasi : Word
  spill : Table Word
  cq : List (BitVec 32)
  xstat : Xstat
  pend : Option Pend
  rep : Option RepState
  loads : List Load
  copies : List Copy
  icount : BitVec 64
  run : Run
  /-- the instruction at the pc stalled when it was last tried -/
  stalled : Bool
  /-- in SLEEP (R146): stalled there, and whether a semaphore has received an add since -/
  asleep : Bool
  semAdded : Bool
  /-- the pc stands at a loop-back of the active LOOPS (R286) -/
  iterEnd : Bool
  /-- a collective branch whose result was still unknown when its shadow slot trapped (R79, R359) -/
  cbrSaved : Option Pend
  /-- the stack whose hand-over a RIDGE of this strand has begun and waits for (R308) -/
  ridgeWait : Option (BitVec 3)
  /-- the program image: word addresses and words (R39) -/
  text : Table (BitVec 32)
  /-- where lines of the image stand in the memory of this package: its line of 16 words, and that line's physical address (R289, R306): a
  fact of the launch (DESIGN CHOICE, log entry 9) -/
  textLines : List (Nat × Nat)
  deriving DecidableEq, Repr

/-! ### System registers -/

/-- CAUSE (R133). -/
structure CauseReg where
  info : BitVec 32 := 0
  src : BitVec 3 := 0
  dbl : Bool := false
  async : Bool := false
  code : BitVec 6 := 0
  deriving DecidableEq, Repr

/-- The system registers (R131) but TIME, PKGSTAT, RASD, RASI, RASV and lc0 to lc3, which stand elsewhere; each holds
only the bits its map gives. -/
structure SysRegs where
  spec : Bool
  pp : Bool
  th : Bool
  ppl : Bool
  pl : Bool
  cause : CauseReg
  epc : BitVec 32
  tvec : BitVec 32
  faddr : Word
  etgt : BitVec 32
  exstat : Xstat
  tcut : Word
  elb : Vector Bounds 4
  flags : BitVec 6
  unrec : BitVec 32
  recov : BitVec 32
  coreid : BitVec 9
  nodeid : BitVec 12
  asid : BitVec 13
  rnpool : BitVec 10
  ssgrp : BitVec 16
  ytab : Word
  preedl : BitVec 32
  lattol : BitVec 32
  rasb : Word
  prgix : Word
  grpid : BitVec 16
  grpn : BitVec 17
  grpXr : Bool
  grpXc : Bool
  grpCi : BitVec 32
  grpIx : BitVec 16
  gstepLocal : BitVec 32
  gstepStep : BitVec 32
  gepochPf : Bool
  gepoch : BitVec 16
  pipexp : BitVec 32
  cbrto : BitVec 32
  selftestPeriod : BitVec 32
  traceb : Word
  deriving DecidableEq, Repr

/-! ### The core's stores -/

/-- An accumulator element: the RQ fields of R32 and the tag of R185. -/
structure Acc where
  ra : BitVec 12 := 0
  rb : BitVec 12 := 0
  rc : BitVec 12 := 0
  rk : BitVec 8 := 0
  empty : Bool := true
  po : Bool := false
  er : BitVec 9 := 0
  ec : BitVec 9 := 0
  kc : BitVec 13 := 0
  deriving DecidableEq, Repr

/-- A husk: the eight doublewords of R151. -/
structure Husk where
  d0 : Word := 0
  d1 : Word := 0
  d2 : Word := 0
  d3 : Word := 0
  d4 : Word := 0
  d5 : Word := 0
  d6 : Word := 0
  d7 : Word := 0
  deriving DecidableEq, Repr

/-- A box register (R155); steps are held as 16-bit two's complement. -/
structure BoxReg where
  bv : Bool := false
  acc : Bool := false
  hid : Nat := 0
  o : Dims := {}
  e : Dims := {}
  s : Dims := {}
  deriving DecidableEq, Repr

/-- A 4 KiB block of a cached husk (R269): INVALID is the unlisted state; `filled` with the set of dirty 64-byte units. -/
structure Block where
  valid : Bool := false
  dirty : BitVec 64 := 0
  deriving DecidableEq, Repr

/-- The stores of the core (R148). -/
structure Store where
  /-- bytes of the scratchpad by offset; an unlisted byte reads 0 (DESIGN CHOICE, log entry 2) -/
  spad : List Host.Cell
  /-- accumulator elements by bank x 32768 + row x 256 + column; an unlisted one is RQ zero with the reset tag -/
  acc : Table Acc
  /-- husks 0 to 1023; an unlisted one is invalid, all zero -/
  husks : Table Husk
  /-- companding tables 0 to 15: sixteen doublewords; an unlisted one is invalid -/
  tabs : Table (List Word)
  boxes : Vector BoxReg 64
  /-- semaphore counts; an unlisted one is 0 -/
  sems : Table (BitVec 32)
  /-- blocks of cached husks by husk x 2048 + block -/
  blocks : Table Block
  /-- bindings: (object address, husk), oldest first (R274) -/
  bindings : List (Nat × Nat)
  /-- quadrants fenced (R183) -/
  fenced : BitVec 4
  /-- quadrants that would fail the next self-test: a fact of the hardware (DESIGN CHOICE, log entry 9) -/
  failing : BitVec 4
  /-- M records retired since the last self-test; a self-test due after a mismatch (R182, R183) -/
  mCount : Nat
  testDue : Bool
  deriving DecidableEq, Repr

/-! ### The Thatch -/

/-- The states of a window entry (R158) but FREE, which is absence from the window. -/
inductive EState where
  | pending | ready | running | stopped | faulted | draining | committing
  deriving DecidableEq, Repr

/-- An edge (R160): what it waits for of the entry in that slot. -/
inductive EdgeKind where
  | write
  | read
  deriving DecidableEq, Repr

structure Edge where
  kind : EdgeKind
  slot : Nat
  deriving DecidableEq, Repr

/-- One effect of a unit of a record's progress. -/
inductive Effect where
  | spad (w : ByteWrite)
  | mem (w : ByteWrite)
  | peer (core : Nat) (w : ByteWrite)
  | acc (key : Nat) (v : Acc)
  | head (hid : Nat) (v : BitVec 32)
  | dirty (key : Nat) (unit : Nat)
  | send (p : Packet)
  /-- the first write through a leaf sets its D (R292) -/
  | setD (leaf : Nat)
  /-- an accumulator element of another core of the package, by core x 65536 + key (R195) -/
  | farAcc (key : Nat) (v : Acc)
  deriving DecidableEq, Repr

/-- One unit of progress (R175): its effects, the flags it adds, and what it adds to the progress index. -/
structure Portion where
  effects : List Effect := []
  flags : BitVec 6 := 0
  step : Nat := 1
  /-- the partial result behind this unit, for the tasks that keep one (R215, R241) -/
  part : Option Word := none
  deriving DecidableEq, Repr

/-- A cause that an engine meets (R173): its FADDR and INFO if they are not the record's own. -/
structure EngineCause where
  cause : Cause
  faddr : Option Word := none
  info : Option (BitVec 32) := none
  deriving DecidableEq, Repr

/-- What an engine still has to do for a record it has started: the units from its progress index, a cause it meets
after them or that it must wait there for a page (R295), and what it delivers. -/
structure Work where
  units : List Portion := []
  cause : Option EngineCause := none
  waits : Bool := false
  scalar : Option Word := none
  counts : List (BitVec 32) := []
  deriving DecidableEq, Repr

/-- A part of an M.MMQ that another core of the quad leads, as it forwards it (R196): the lead, the record's PRI and RST, its W
box, and the operands that this core's quarter receives: the husks that give their formats, the rows of A and the columns of B as
bit patterns (facts of the lead; DESIGN CHOICE, log entry 9). -/
structure Part where
  lead : Nat
  pri : Bool
  rst : Bool
  w : RBox
  huskA : Husk
  huskB : Husk
  rows : List (List Nat)
  cols : List (List Nat)
  deriving DecidableEq, Repr

/-- A window entry (R158, R168, R177). `slot` is the model's number of the entry, in order of entry and never used again. -/
structure Entry where
  slot : Nat
  record : Rec
  boxes : Boxes
  seq : Nat
  state : EState
  index : Nat := 0
  done : Bool := false
  edges : List Edge := []
  fold : Bool := false
  remote : Bool := false
  /-- posted by this strand: counted in TKC (R93) -/
  own : Bool := true
  /-- a speculative record, not yet committed (R364) -/
  ahead : Bool := false
  /-- it must not be released before a commit (R364) -/
  heldAhead : Bool := false
  /-- its branch has committed, and the held entries that come first have not all issued (R365) -/
  owed : Bool := false
  flags : BitVec 6 := 0
  promoted : Bool := false
  passed : Nat := 0
  /-- private buffer of a restartable record that is not renamed (R168) -/
  priv : Option (Nat × Nat) := none
  /-- this entry holds the shadow of that bank (R190) -/
  shadow : Option Nat := none
  work : Option Work := none
  /-- buffered effects of a restartable record (R168) -/
  buffered : List Effect := []
  /-- pip obtained and pip dependence bound at POST (R349) -/
  pip : Option Nat := none
  dep : Option Nat := none
  /-- the record was restored by RESTQ: it obtains no pip and delivers none (R396) -/
  restored : Bool := false
  scalar : Option Word := none
  counts : List (BitVec 32) := []
  /-- acknowledgements still outstanding, and packets of this record not yet performed (R167) -/
  acks : Nat := 0
  /-- marked packets sent, by destination (R352), and packets that wait for their pip (R350) -/
  marked : List (Nat × Nat) := []
  waiting : List Packet := []
  /-- packets refused at a full hold queue whose refusal has not come back (R350) -/
  bounced : List Packet := []
  /-- BUSY answers met by an F.POST (R166) -/
  busy : Nat := 0
  /-- residue re-run already made (R182) -/
  rerun : Bool := false
  /-- the image of an F.POST, with its resolved boxes (R342) -/
  image : Option (Rec × Boxes) := none
  /-- restored with an altered engine block (R177): the number of its free values -/
  altered : Option Nat := none
  /-- the partial count, fingerprint or comparison of the units below the index (R215, R241) -/
  part : Word := 0
  /-- its residue mismatch has been counted in UNREC (R181) -/
  unrec : Bool := false
  /-- TIME from which a record that met BUSY may be sent again (R166) -/
  retryAt : Word := 0
  /-- the entry is a part of an M.MMQ that another core leads (R196) -/
  quarter : Option Part := none
  deriving DecidableEq, Repr

/-- A live entry of the rename directory (R161, R162). -/
structure DirEntry where
  home : RBox
  off : Nat
  bytes : Nat
  recSlot : Nat
  foldSlot : Nat
  isOpen : Bool
  deriving DecidableEq, Repr

/-- A pending asynchronous cause (R136): the FAULTED record it comes from, if any, and the parked store it comes from. -/
structure Async where
  cause : Cause
  info : BitVec 32
  src : BitVec 3
  faddr : Option Word := none
  recSlot : Option Nat := none
  parked : Option Nat := none
  deriving DecidableEq, Repr

/-- A trap whose entry waits, with TCUT.EN = 1, until every engine has stopped and the cut record can be written in it (R137,
R174; DEDUCED, log entry 38): what the entry takes over, and the FAULTED record's sequence number. -/
structure TrapDue where
  cause : Cause
  info : BitVec 32
  src : BitVec 3
  faddr : Option Word
  async : Bool
  recSeq : Option Nat
  deriving DecidableEq, Repr

/-- The window of the core. -/
structure Thatch where
  entries : List Entry
  nextSeq : Nat
  nextSlot : Nat
  dir : List DirEntry
  /-- every engine queue is stopped (R173, R178, R284) -/
  stopped : Bool
  /-- cores of this cluster that the stall wire holds for a fault of this core's records (R263, R264) -/
  wire : BitVec 16
  async : List Async
  /-- a partner of the quad runs a reduced array (R196): a fact of the partner cores (DESIGN CHOICE, log entry 9) -/
  partnersReduced : Bool
  /-- every part of an M.MMQ that this core leads is entered and READY at its partner (R196), the other three cores of the quad
  can start the M.MMQ of which this core holds a part (R196), and the cores of the cluster whose fault holds this core through the
  stall wire (R264): facts of the partner cores (DESIGN CHOICE, log entry 9) -/
  partsReady : Bool
  partnersStart : Bool
  heldBy : BitVec 16
  /-- parts that leads of the quad have forwarded to this core and that are not yet entered (R196) -/
  partsDue : List Part
  trapDue : Option TrapDue
  /-- a SAVEQ that still stalls has ended the pips of the records to be saved (R396) -/
  savePips : Bool
  deriving DecidableEq, Repr

/-! ### Memory -/

/-- A translation (R120, R266): one page of `size` bytes, or an aligned 32 KiB range of a segment that is not pageable. -/
structure Tlb where
  asid : BitVec 13
  va : Nat
  size : Nat
  pa : Nat
  node : Option Nat := none
  leaf : Option Nat := none
  w : Bool
  d : Bool
  deriving DecidableEq, Repr

/-- Why a store is parked (R294). -/
inductive ParkReason where
  | page | wprot | mig | sw | order
  deriving DecidableEq, Repr

/-- A parked store (R294), numbered for its cause. -/
structure Parked where
  id : Nat
  va : Nat
  size : Nat
  data : Word
  reason : ParkReason
  deriving DecidableEq, Repr

/-- A request that waits at a stack controller (R290). -/
structure McReq where
  src : Fin 15
  line : Nat
  deriving DecidableEq, Repr

/-- A controller: waiting and marked requests, oldest first. -/
structure Mc where
  waiting : List McReq := []
  marked : List McReq := []
  deriving DecidableEq, Repr

/-- An entry of a fault-address queue (R298). -/
structure FaqEntry where
  kind : BitVec 3
  core : BitVec 9
  pa : Nat
  time : Word
  deriving DecidableEq, Repr

/-- A die's fault-address queue (R298). -/
structure Faq where
  entries : List FaqEntry := []
  overflow : Nat := 0
  deriving DecidableEq, Repr

/-- A sweep in progress (R301): the record and the ASID of its launch, its leaves still to copy (leaf address, virtual page, source
frame, target), raised pages with the core whose write is held, first raised first, the counts for its scalar, and the page whose
packets a target on another node has still to acknowledge. -/
structure SweepPage where
  leaf : Nat
  va : Nat
  src : Nat
  dst : Nat
  deriving DecidableEq, Repr

structure Sweep where
  asid : BitVec 13
  seq : Nat
  pages : List SweepPage
  raised : List (Nat × Nat)
  copied : Nat
  poisoned : Nat
  sent : Option Nat := none
  deriving DecidableEq, Repr

/-- What waits at its home for a hand-over or for its page: a request of another party, or a packet of the fabric that has arrived. -/
inductive HomeItem where
  | req (q : HomeReq)
  | pkt (p : Packet)
  deriving DecidableEq, Repr

/-- The memory system. -/
structure MemSys where
  /-- bytes by node x 2^48 + physical address; an unlisted byte reads 0 (DESIGN CHOICE, log entry 2) -/
  mem : List Host.Cell
  /-- poisoned lines: line address as above, rising (R289) -/
  poison : List Nat
  /-- dirty lines in the die caches of this package, rising (R288); none is evicted for want of room: R2 gives 192 MiB and no rule of
  replacement (DESIGN CHOICE, log entry 40) -/
  dirty : List Nat
  /-- segment tables by ASID (R265, R266) -/
  segs : Table (List (Nat × SegEntry))
  tlb : List Tlb
  mapCache : List Tlb
  replay : List Parked
  nextPark : Nat
  mc : Vector Mc 8
  faq : Vector Faq 4
  /-- bad-page list: frame addresses by port-A die (R299) -/
  bpl : Vector (List Nat) 4
  sweeps : List Sweep
  /-- requests of other parties and fabric packets that wait at their home, in their order of arrival: for a hand-over of their stack,
  or for their page (R296, R301, R308, R309) -/
  homeHeld : List HomeItem
  deriving DecidableEq, Repr

/-! ### Fabric -/

inductive PipState where
  | free | inflight | landed | failed
  deriving DecidableEq, Repr

/-- An entry of the pip table (R349). USERS is derived from the window. -/
structure Pip where
  state : PipState := .free
  seq : Nat := 0
  dests : List (Nat × Nat) := []
  /-- the obtaining record has retired -/
  retired : Bool := false
  deriving DecidableEq, Repr

/-- A HELD packet (R351) with the core that holds it and its time of arrival. -/
structure Held where
  node : Nat
  core : Nat
  time : Word
  p : Packet
  deriving DecidableEq, Repr

/-- An expired triple (R352) in the table of the core that held it. -/
structure Expired where
  node : Nat
  core : Nat
  srcNode : Nat
  srcCore : Nat
  pip : Nat
  deriving DecidableEq, Repr

/-- What another core of the pod runs, as far as the fabric sees it (R336, R342, R343; DESIGN CHOICE, log entry 4), and the number
of its launch (R263). -/
structure Peer where
  node : Nat
  core : Nat
  asid : BitVec 13
  husks : Table Husk := []
  reserve : Nat := 8
  pipexp : Nat := 1000000
  launch : Nat := 0
  deriving DecidableEq, Repr

/-- Where the package stands in a phase change (R374). -/
structure Phase where
  epoch : BitVec 16
  drained : Bool
  /-- TIME when it began: the timers of R352 and R357 stand still since -/
  since : Word
  deriving DecidableEq, Repr

/-- The core's fabric state. -/
structure Fabric where
  pips : Table Pip
  held : List Held
  expired : List Expired
  net : List Packet
  /-- packets that this package has sent over its links -/
  sentNo : Nat
  peers : List Peer
  /-- bytes of other scratchpads by (node x 512 + core) x 2^23 + offset (DESIGN CHOICE, log entry 4) -/
  farSpad : List Host.Cell
  /-- accumulator elements of other cores of the package, by core x 65536 + key -/
  farAcc : Table Acc
  /-- semaphores of other cores by (node x 512 + core) x 2048 + number -/
  farSems : Table (BitVec 32)
  podcfg : Word
  phase : Option Phase
  deriving DecidableEq, Repr

/-! ### Groups -/

/-- The checkpoint of R361 and what resolves it (R365). -/
structure Checkpoint where
  g : Vector Word 64
  c : Vector Bool 8
  tb : Vector (BitVec 32) 8
  lc : Vector LoopReg 4
  xstat : Xstat
  bounds : Vector Bounds 4
  ras : List (BitVec 32)
  boxes : Vector BoxReg 64
  inst : BitVec 32
  hint : Bool
  target : BitVec 32
  fall : BitVec 32
  deriving DecidableEq, Repr

/-- A held store or SPL (R363). -/
inductive HeldStore where
  | store (addr : Word) (size : Nat) (data : Word)
  | spl (slot : Nat) (data : Word)
  deriving DecidableEq, Repr

/-- The root of a group's reduction tree (R358, R367, R369, R370): one for each group whose member 0 was launched here. -/
structure Root where
  gid : BitVec 16
  n : Nat
  gen : Nat
  contribs : List Contrib
  /-- instances already answered or ended -/
  ended : List (BitVec 32)
  marks : List StepMark
  step : BitVec 32
  deriving DecidableEq, Repr

/-- A message between the members and the root, on its way. -/
inductive GroupMsg where
  | contrib (c : Contrib)
  | result (gid : BitVec 16) (inst : BitVec 32) (gen : Nat) (r : Bool)
  | timeout (gid : BitVec 16) (inst : BitVec 32) (gen : Nat) (mismatch : Bool)
  | mark (m : StepMark)
  | commit (gid : BitVec 16) (step : BitVec 32) (gen : Nat)
  | abortUp (t : AbortToken)
  | abortDown (t : AbortToken)
  /-- a member has waited CBRTO (R367) -/
  | expiry (gid : BitVec 16) (inst : BitVec 32) (gen : Nat)
  deriving DecidableEq, Repr

/-- A snapshot that waits (R280, R365): KIND, TAG and doublewords 3 and 4 of its header. -/
structure SnapReq where
  kind : Nat
  tag : Nat
  dw3 : Nat
  dw4 : Nat
  deriving DecidableEq, Repr

structure Group where
  gen : Nat
  budget : Nat
  spec : Option Checkpoint
  /-- the CBRX that waits for its result: instance, time of contribution (R360) -/
  cbrx : Option (BitVec 32)
  /-- instance and time of this member's open contributions (R357, R367) -/
  openAt : List (BitVec 32 × Word)
  /-- instance and LOCAL at this member's open contributions (R381) -/
  stepAt : List (BitVec 32 × BitVec 32)
  /-- instances whose expiry this member has told a root on another package (R367) -/
  told : List (BitVec 32)
  hold : List HeldStore
  /-- entries still to issue after a commit (R365 step 2) -/
  issuing : List HeldStore
  /-- the strand waits for those entries; an asynchronous cause taken at that stall ends the wait until its ERET (R365) -/
  heldWait : Bool
  /-- snapshots of loops left while the strand runs ahead: they happen at the commit (R280, R365) -/
  heldSnaps : List SnapReq
  msgs : List GroupMsg
  roots : List Root
  deriving DecidableEq, Repr

/-! ### Links -/

/-- A flit that waits to be sent, header fields and payload (R319); `own` is the number of the packet of this package that it belongs
to. -/
structure FlitReq where
  dst : BitVec 12
  src : BitVec 12
  vc : BitVec 2
  first : Bool
  last : Bool
  len : BitVec 8
  marker : Bool
  payload : BitVec 1792
  own : Option Nat := none
  deriving DecidableEq, Repr

/-- A flit in the replay buffer (R321, R322). -/
structure SentFlit where
  seq : BitVec 16
  raw : BitVec 2048
  last : Bool
  req : FlitReq
  resent : Bool := false
  fails : Nat := 0
  deriving DecidableEq, Repr

/-- A key slot (R327). -/
structure KeySlot where
  valid : Bool := false
  key : BitVec 256 := 0
  salt : BitVec 32 := 0
  ctr : Nat := 0
  deriving DecidableEq, Repr

inductive LinkState where
  | down | training | up | retraining | retired | planned
  deriving DecidableEq, Repr

/-- One link end (R319 to R333): the fields of R324, keys, replay buffer, receive state, waiting flits. -/
structure Link where
  state : LinkState := .down
  peer : BitVec 12 := 0
  wid : BitVec 2 := 0
  spd : BitVec 2 := 0
  lanes : BitVec 24 := 0
  rtcnt : BitVec 8 := 0
  bkt : BitVec 4 := 0
  enreq : Bool := false
  kwarn : Bool := false
  khold : Bool := false
  txks : Bool := false
  tx : Vector KeySlot 2
  rx : Vector KeySlot 2
  /-- the receive slots that the peer has shown valid (R329) -/
  peerRx : BitVec 2 := 0
  /-- a switch of transmit slot is ordered and its marker not yet sent -/
  switching : Bool := false
  /-- a circuit move to this peer is ordered: no new flit is sent (R333) -/
  moving : Option (BitVec 12) := none
  /-- flits to send: the flits of each virtual channel stand here in their order, which is that channel's own buffer (R335); no channel
  waits for another -/
  queue : List FlitReq := []
  buffer : List SentFlit := []
  /-- acknowledged flits of a packet whose LAST flit is not yet acknowledged (R326) -/
  kept : List FlitReq := []
  nextSeq : BitVec 16 := 0
  acked : BitVec 16 := 0xFFFF
  /-- sequence numbers of buffered flits to send again, in order, before any new one -/
  resend : List (BitVec 16) := []
  /-- receiver: last SEQ accepted, a NAK outstanding, the partial packet of each virtual channel, whole packets handed up -/
  rxSeq : BitVec 16 := 0xFFFF
  nakOut : Bool := false
  partialPkt : Vector (List FlitReq) 4
  delivered : List (List FlitReq) := []
  /-- CTRL flits to send, and every flit sent so far -/
  ctrl : List (BitVec 2048) := []
  sent : List (BitVec 2048) := []
  /-- waiting for the peer's notice after a retirement; the host has cleared BKT meanwhile; and packets that failed for want of a
  notice or of a route (R326, R334) -/
  noticeDue : Bool := false
  restart : Bool := false
  failed : List (List FlitReq) := []
  /-- TIME of the last change of STATE, of the last drain of the bucket, and of the last advance of ACK -/
  since : Word := 0
  drained : Word := 0
  advanced : Word := 0
  deriving DecidableEq, Repr

/-! ### Package -/

/-- A throttle-log entry (R315): the record with the old values, and whether it was lifted. -/
structure ThLog where
  r : ThrottleRec
  oldClk : BitVec 32
  oldMv : BitVec 32
  oldLim : BitVec 32
  deriving DecidableEq, Repr

/-- A completion (R317, R372). -/
inductive Completion where
  | halted (args : List Word)
  | preempted (prgix : Word) (grpix gstep gepoch : Word)
  | error (cause epc tcut : Word)
  | refused (seg husk : Option Nat)
  /-- refused for another core of this package that the packet names -/
  | refusedAt (core : BitVec 9) (seg husk : Option Nat)
  | ended
  deriving DecidableEq, Repr

/-- An answer of the management interface or of the package to the host (R316, R374). -/
inductive Answer where
  | cecnt (die : Fin 4) (n : Nat)
  | faq (die : Fin 4) (e : Option (Word × Word)) (overflow : Nat)
  | thlog (l : List ThLog)
  | fencemap (l : List (Nat × BitVec 4))
  | pkgstat (w : Word)
  | drained (epoch : BitVec 16)
  | homeData (pa : Nat) (data : List Byte)
  | homeUe (pa : Nat)
  | homeOwner (pa : Nat)
  | linkNotice (port : Fin 24) (seq : BitVec 16)
  deriving DecidableEq, Repr

/-- A launch accepted and not ended (R313, R317, R373): its start time, slice budget and the TIME of its acceptance. -/
structure Launch where
  start : Word
  budget : Nat
  accepted : Word
  deriving DecidableEq, Repr

structure Package where
  /-- bit s: stack s is owned through port B (R305) -/
  own : BitVec 8
  ridging : BitVec 8
  stackError : BitVec 8
  /-- dies out of service, and die-to-die links down: bit d joins D d and D (d+1) -/
  dieDown : BitVec 4
  /-- port A and port B of each stack out of service (R307): facts of the part (DESIGN CHOICE, log entry 9) -/
  portADown : BitVec 8
  portBDown : BitVec 8
  ddl : BitVec 4
  cecnt : Vector Nat 4
  time : Word
  timeOff : Int
  /-- nanoseconds slewed over that do not yet make one nanosecond of correction (R312) -/
  slew : Nat
  /-- the PTP domain that the host selects at bring-up (R312) -/
  ptpDomain : Fin 128
  tlos : Bool
  trip : Bool
  /-- shut down by a trip: no launch until the host resets the package (R315) -/
  shut : Bool
  /-- the throttles in force: the cause and the dies of each (R315) -/
  throttled : List (Fin 4 × BitVec 4)
  bpf : Bool
  ddlStat : Bool
  lnk : Bool
  qf : Bool
  repl : Bool
  pwrbud : Nat
  /-- amperes at which the core rail's current limit acts (R3): a fact of the part (DESIGN CHOICE, log entry 9) -/
  curLimit : Nat
  clk : BitVec 32
  mv : BitVec 32
  lim : BitVec 32
  thlog : List ThLog
  fencemap : Table (BitVec 4)
  gated : List PowerState
  launch : Option Launch
  /-- launch packets accepted so far, and the number of the one that this core runs (R263) -/
  launches : Nat
  launchNo : Nat
  completions : List Completion
  answers : List Answer
  broughtUp : Bool
  /-- deadline of a pre-emption (R176); a YIELD has continued to a save sequence (R142, R261) -/
  preemptBy : Option Word
  saving : Bool
  /-- a stop requested by the debug agent and not yet taken (R286) -/
  debugReq : Bool
  deriving DecidableEq, Repr

/-- Profiling (R279 to R282). -/
structure Profile where
  unitNo : Nat
  recNo : BitVec 32
  /-- snapshots caused so far -/
  snaps : Nat
  busy : Bool
  /-- snapshots of one word that wait for its first to be written -/
  queued : List SnapReq
  /-- the bank-conflict matrix by requester x 64 + bank (R279); an unlisted count is 0 -/
  conflicts : Table (BitVec 24)
  deriving DecidableEq, Repr

/-- The whole state. -/
structure State where
  strand : Strand
  sys : SysRegs
  store : Store
  thatch : Thatch
  mem : MemSys
  fab : Fabric
  grp : Group
  links : Vector Link 24
  pkg : Package
  prof : Profile
  /-- events still to come, in order (DESIGN CHOICE, log entry 5): the model's own field -/
  agenda : List Instr
  /-- nanoseconds a step takes (DESIGN CHOICE, log entry 7): the model's own field -/
  pace : Nat
  /-- free values taken so far (DESIGN CHOICE, log entry 8): the model's own field -/
  freeCount : Nat
  deriving DecidableEq, Repr

/-! ### Reset -/

def Strand.reset : Strand where
  g := Vector.replicate 64 0
  tb := Vector.replicate 8 0
  c := #v[true, false, false, false, false, false, false, false]
  lc := Vector.replicate 4 {}
  bounds := Vector.replicate 4 {}
  pc := 0
  ras := []
  rasi := 0
  spill := []
  cq := []
  xstat := {}
  pend := none
  rep := none
  loads := []
  copies := []
  icount := 0
  run := .idle
  stalled := false
  asleep := false
  semAdded := false
  iterEnd := false
  cbrSaved := none
  ridgeWait := none
  text := []
  textLines := []

def SysRegs.reset : SysRegs where
  spec := false
  pp := false
  th := false
  ppl := false
  pl := false
  cause := {}
  epc := 0
  tvec := 0
  faddr := 0
  etgt := 0
  exstat := {}
  tcut := 0
  elb := Vector.replicate 4 {}
  flags := 0
  unrec := 0
  recov := 0
  coreid := 0
  nodeid := 0
  asid := 0
  rnpool := 256
  ssgrp := 0
  ytab := 0
  preedl := 100000
  lattol := 0
  rasb := 0
  prgix := 0
  grpid := 0
  grpn := 0
  grpXr := false
  grpXc := false
  grpCi := 0
  grpIx := 0
  gstepLocal := 0
  gstepStep := 0
  gepochPf := false
  gepoch := 0
  pipexp := 1000000
  cbrto := 10000000
  selftestPeriod := 4096
  traceb := 0

/-- b62 and b63 at launch: accumulator banks 0 and 1 whole (R155). -/
def BoxReg.bank (b : Nat) : BoxReg where
  bv := true
  acc := true
  o := { x2 := b }
  e := { x0 := 256, x1 := 128, x2 := 1 }

def Store.reset : Store where
  spad := []
  acc := []
  husks := []
  tabs := []
  boxes := ((Vector.replicate 64 ({} : BoxReg)).set 62 (BoxReg.bank 0)).set 63 (BoxReg.bank 1)
  sems := []
  blocks := []
  bindings := []
  fenced := 0
  failing := 0
  mCount := 0
  testDue := false

def Thatch.reset : Thatch where
  entries := []
  nextSeq := 1
  nextSlot := 0
  dir := []
  stopped := false
  wire := 0
  async := []
  partnersReduced := false
  partsReady := true
  partnersStart := true
  heldBy := 0
  partsDue := []
  trapDue := none
  savePips := false

def MemSys.reset : MemSys where
  mem := []
  poison := []
  dirty := []
  segs := []
  tlb := []
  mapCache := []
  replay := []
  nextPark := 0
  mc := Vector.replicate 8 {}
  faq := Vector.replicate 4 {}
  bpl := Vector.replicate 4 []
  sweeps := []
  homeHeld := []

def Fabric.reset : Fabric where
  pips := []
  held := []
  expired := []
  net := []
  sentNo := 0
  peers := []
  farSpad := []
  farAcc := []
  farSems := []
  podcfg := 0xF0055000
  phase := none

def Group.reset : Group where
  gen := 0
  budget := 0
  spec := none
  cbrx := none
  openAt := []
  stepAt := []
  told := []
  hold := []
  issuing := []
  heldWait := false
  heldSnaps := []
  msgs := []
  roots := []

def Link.reset : Link where
  tx := Vector.replicate 2 {}
  rx := Vector.replicate 2 {}
  partialPkt := Vector.replicate 4 []

/-- The package at reset. The clock, the voltage and the issue limit that hold before any throttle are DESIGN CHOICE, log
entry 1: the spec gives `lim` no reset value, and 16/16 is the full M and V rate. -/
def Package.reset : Package where
  own := 0
  ridging := 0
  stackError := 0
  dieDown := 0
  portADown := 0
  portBDown := 0
  ddl := 0
  cecnt := Vector.replicate 4 0
  time := 0
  timeOff := 0
  slew := 0
  ptpDomain := 0
  tlos := false
  trip := false
  shut := false
  throttled := []
  bpf := false
  ddlStat := false
  lnk := false
  qf := false
  repl := false
  pwrbud := 3000
  curLimit := 6000
  clk := 3000
  mv := 420
  lim := 16
  thlog := []
  fencemap := []
  gated := []
  launch := none
  launches := 0
  launchNo := 0
  completions := []
  answers := []
  broughtUp := true
  preemptBy := none
  saving := false
  debugReq := false

def Profile.reset : Profile where
  unitNo := 0
  recNo := 0
  snaps := 0
  busy := false
  queued := []
  conflicts := []

/-- The machine right after reset: every field at the value the spec states for reset, the others as log entries 1 to 3
name them. -/
def State.reset : State where
  strand := Strand.reset
  sys := SysRegs.reset
  store := Store.reset
  thatch := Thatch.reset
  mem := MemSys.reset
  fab := Fabric.reset
  grp := Group.reset
  links := Vector.replicate 24 Link.reset
  pkg := Package.reset
  prof := Profile.reset
  agenda := []
  pace := 1
  freeCount := 0

end Sys2Proof.Machine
end

