-- ==== Sys2Proof/Machine/Mem.lean ====
section
/-! DEFINITION. Sparse tables and byte strings: the one canonical form of memory, and little-endian access (R16, R121). -/

namespace Sys2Proof.Machine

/-- What a table holds at a key; an unlisted key reads as `d`. -/
def tget {α : Type} (d : α) : Table α → Nat → α
  | [], _ => d
  | (k', v) :: t, k => if k = k' then v else if k < k' then d else tget d t k

/-- Write a key, keeping the canonical form: an entry equal to `d` is removed. -/
def tset {α : Type} [DecidableEq α] (d : α) : Table α → Nat → α → Table α
  | [], k, v => if v = d then [] else [(k, v)]
  | (k', v') :: t, k, v =>
    if k < k' then (if v = d then (k', v') :: t else (k, v) :: (k', v') :: t)
    else if k = k' then (if v = d then t else (k, v) :: t)
    else (k', v') :: tset d t k v

/-- Write a key of a table that lists every value, as the program image does: no value is left out. -/
def kset {α : Type} : Table α → Nat → α → Table α
  | [], k, v => [(k, v)]
  | (k', v') :: t, k, v =>
    if k < k' then (k, v) :: (k', v') :: t else if k = k' then (k, v) :: t else (k', v') :: kset t k v

/-- The canonical form: keys strictly rising, no entry equal to the default. -/
abbrev tableWf {α : Type} (d : α) (m : Table α) : Prop :=
  (m.map Prod.fst).Pairwise (· < ·) ∧ ∀ kv ∈ m, kv.2 ≠ d

/-- The canonical form of byte memory; an unlisted byte reads 0 (DESIGN CHOICE, log entry 2). -/
abbrev memWf (m : List Host.Cell) : Prop := tableWf (0 : Byte) m

/-- One byte of memory. -/
def byteAt (m : List Host.Cell) (a : Nat) : Byte := tget 0 m a

/-- Write one byte. -/
def setByte (m : List Host.Cell) (a : Nat) (v : Byte) : List Host.Cell := tset 0 m a v

/-- Write the bits of a mask of one byte. -/
def setMasked (m : List Host.Cell) (w : ByteWrite) : List Host.Cell :=
  setByte m w.addr ((byteAt m w.addr &&& ~~~w.mask) ||| (w.data &&& w.mask))

/-- The `n` bytes from address `a`. -/
def bytesAt (m : List Host.Cell) (a : Nat) : Nat → List Byte
  | 0 => []
  | n + 1 => byteAt m a :: bytesAt m (a + 1) n

/-- A byte string read as a little-endian number. -/
def leNat : List Byte → Nat
  | [] => 0
  | b :: t => b.toNat + 256 * leNat t

/-- The `n` low bytes of a number, least significant first. -/
def leBytes : Nat → Nat → List Byte
  | 0, _ => []
  | n + 1, v => BitVec.ofNat 8 v :: leBytes n (v / 256)

/-- The `n` bytes at `a` as a little-endian number. -/
def readLe (m : List Host.Cell) (a n : Nat) : Nat := leNat (bytesAt m a n)

/-- Write a byte string at `a`. -/
def setBytes (m : List Host.Cell) (a : Nat) : List Byte → List Host.Cell
  | [] => m
  | b :: t => setBytes (setByte m a b) (a + 1) t

/-- Write the `n` low bytes of `v` at `a`, little-endian. -/
def writeLe (m : List Host.Cell) (a n v : Nat) : List Host.Cell := setBytes m a (leBytes n v)

/-- A set of addresses, strictly rising. -/
def sinsert (a : Nat) : List Nat → List Nat
  | [] => [a]
  | b :: t => if a < b then a :: b :: t else if a = b then b :: t else b :: sinsert a t

def serase (a : Nat) : List Nat → List Nat
  | [] => []
  | b :: t => if a = b then t else b :: serase a t

/-- Bits [lo + n - 1 : lo] of a number. -/
def bitsOf (w lo n : Nat) : Nat := w / 2 ^ lo % 2 ^ n

/-- The low `n` bits of `v` as a two's complement integer. -/
def signedOf (n v : Nat) : Int :=
  if v % 2 ^ n < 2 ^ (n - 1) then (v % 2 ^ n : Nat) else (v % 2 ^ n : Nat) - (2 ^ n : Nat)

/-- The low `n` bits of an integer. -/
def unsignedOf (n : Nat) (v : Int) : Nat := (v % (2 ^ n : Nat)).toNat

/-- The dimension `d` of a box. -/
def dget (x : Dims) : Nat → Nat
  | 0 => x.x0 | 1 => x.x1 | 2 => x.x2 | 3 => x.x3 | _ => 0

def dput (x : Dims) (d v : Nat) : Dims :=
  match d with
  | 0 => { x with x0 := v } | 1 => { x with x1 := v } | 2 => { x with x2 := v } | 3 => { x with x3 := v }
  | _ => x

end Sys2Proof.Machine
end

