-- ==== Sys2Proof/Machine/Numbers.lean ====
section
/-! DEFINITION. Number formats and exact arithmetic (spec/02_numbers.md): values as exact dyadic numbers, one rounding,
companded codes, block conversion, residues and the drain. -/

namespace Sys2Proof.Machine

/-- The element formats of R16. -/
inductive Fmt where
  | f32 | f16 | bf16 | f8 | c8 | s8 | n8 | s16 | n16 | s32 | n32 | s64 | n64 | m1 | rq
  deriving DecidableEq, Repr

/-- The format of a format code; 15 is reserved (R16). -/
def fmtOfCode : Nat → Option Fmt
  | 0 => some .f32 | 1 => some .f16 | 2 => some .bf16 | 3 => some .f8 | 4 => some .c8 | 5 => some .s8
  | 6 => some .n8 | 7 => some .s16 | 8 => some .n16 | 9 => some .s32 | 10 => some .n32 | 11 => some .s64
  | 12 => some .n64 | 13 => some .m1 | 14 => some .rq | _ => none

/-- Element size in bits (R16). -/
def fmtBits : Fmt → Nat
  | .f32 => 32 | .f16 => 16 | .bf16 => 16 | .f8 => 8 | .c8 => 8 | .s8 => 8 | .n8 => 8 | .s16 => 16 | .n16 => 16
  | .s32 => 32 | .n32 => 32 | .s64 => 64 | .n64 => 64 | .m1 => 1 | .rq => 48

def fmtIsFloat : Fmt → Bool
  | .f32 | .f16 | .bf16 | .f8 => true
  | _ => false

def fmtIsInt : Fmt → Bool
  | .s8 | .n8 | .s16 | .n16 | .s32 | .n32 | .s64 | .n64 => true
  | _ => false

def fmtIsSigned : Fmt → Bool
  | .s8 | .s16 | .s32 | .s64 => true
  | _ => false

/-- Significand width with the hidden bit, exponent of the smallest normal number, exponent bias and exponent width of a
float format (R17, R19). -/
def fmtPrec : Fmt → Nat
  | .f32 => 24 | .f16 => 11 | .bf16 => 8 | .f8 => 4 | _ => 0

def fmtEmin : Fmt → Int
  | .f32 => -126 | .f16 => -14 | .bf16 => -126 | .f8 => -6 | _ => 0

def fmtBias (f : Fmt) : Int := 1 - fmtEmin f

/-- The largest finite magnitude, as significand and exponent of its last place. -/
def fmtMax : Fmt → Nat × Int
  | .f32 => (2 ^ 24 - 1, 104) | .f16 => (2 ^ 11 - 1, 5) | .bf16 => (2 ^ 8 - 1, 120) | .f8 => (14, 5) | _ => (0, 0)

/-- FLAGS bits (R26). -/
def flagNV : BitVec 6 := 1
def flagDZ : BitVec 6 := 2
def flagOF : BitVec 6 := 4
def flagUF : BitVec 6 := 8
def flagNX : BitVec 6 := 16
def flagSAT : BitVec 6 := 32

/-- An exact value: NaN (and whether it was signalling), an infinity, or (-1)^neg x m x 2^e; zeros keep their sign. -/
inductive Val where
  | nan (signalling : Bool)
  | inf (neg : Bool)
  | fin (neg : Bool) (m : Nat) (e : Int)
  deriving DecidableEq, Repr

/-- `m x 2^e` compared with `n x 2^f`: negative, zero or positive. -/
def cmpMag (m : Nat) (e : Int) (n : Nat) (f : Int) : Ordering :=
  if e ≤ f then compare m (n * 2 ^ (f - e).toNat) else compare (m * 2 ^ (e - f).toNat) n

/-- The value of an encoding of a float or integer format (R17, R19, R20); C8 is read by `c8Value`. -/
def valOfBits (f : Fmt) (b : Nat) : Val :=
  if fmtIsFloat f then
    let p := fmtPrec f
    let w := fmtBits f
    let neg := b / 2 ^ (w - 1) % 2 == 1
    let ex := b / 2 ^ (p - 1) % 2 ^ (w - p)
    let fr := b % 2 ^ (p - 1)
    if f = .f8 then
      if ex = 15 && fr = 7 then .nan false
      else if ex = 0 then .fin neg fr (-9) else .fin neg (8 + fr) ((ex : Int) - 10)
    else if ex = 2 ^ (w - p) - 1 then
      if fr = 0 then .inf neg else .nan (fr < 2 ^ (p - 2))
    else if ex = 0 then .fin neg fr (fmtEmin f - (p - 1 : Nat))
    else .fin neg (2 ^ (p - 1) + fr) ((ex : Int) - fmtBias f - (p - 1 : Nat))
  else if fmtIsSigned f then
    let v := signedOf (fmtBits f) b
    .fin (v < 0) v.natAbs 0
  else .fin false (b % 2 ^ fmtBits f) 0

/-- The canonical NaN of a format (R18). -/
def canonNaN : Fmt → Nat
  | .f32 => 0x7FC00000 | .f16 => 0x7E00 | .bf16 => 0x7FC0 | .f8 => 0x7F | _ => 0

def signBit (f : Fmt) (neg : Bool) : Nat := if neg then 2 ^ (fmtBits f - 1) else 0

/-- ±infinity of a format that has one; ±448 for F8. -/
def infBits (f : Fmt) (neg : Bool) : Nat :=
  signBit f neg + if f = .f8 then 0x7E else (2 ^ (fmtBits f - fmtPrec f) - 1) * 2 ^ (fmtPrec f - 1)

def maxBits (f : Fmt) (neg : Bool) : Nat :=
  signBit f neg + if f = .f8 then 0x7E else (2 ^ (fmtBits f - fmtPrec f) - 1) * 2 ^ (fmtPrec f - 1) - 1

/-- Whether a mode rounds a magnitude up, given its last kept bit and what lies below it: 0 nothing, 1 less than half,
2 half, 3 more (R25). -/
def roundsUp (mode : Nat) (neg odd : Bool) (rest : Nat) : Bool :=
  if rest = 0 then false
  else match mode with
    | 0 => rest == 3 || (rest == 2 && odd)
    | 1 => false
    | 2 => neg
    | _ => !neg

/-- What lies below `2^k`: 0 nothing, 1 less than half, 2 half, 3 more; `sticky` marks a nonzero rest further below. -/
def restOf (m k : Nat) (sticky : Bool) : Nat :=
  let r := m % 2 ^ k
  if k = 0 then (if sticky then 1 else 0)
  else if r = 0 && !sticky then 0
  else if r < 2 ^ (k - 1) then 1
  else if r = 2 ^ (k - 1) && !sticky then 2
  else 3

/-- `round` of R27 for a finite value `(-1)^neg x m x 2^e`, to which `sticky` adds less than one unit of the last place:
bits and flags. -/
def roundFin (f : Fmt) (mode : Nat) (neg : Bool) (m : Nat) (e : Int) (sticky : Bool) : Nat × BitVec 6 :=
  if m = 0 && !sticky then (signBit f neg, 0)
  else
    let p := fmtPrec f
    let top : Int := e + (Nat.log2 m : Int)
    let q : Int := max (top - ((p : Int) - 1)) (fmtEmin f - ((p : Int) - 1))
    let (y0, rest) : Nat × Nat :=
      if q ≤ e then (m * 2 ^ (e - q).toNat, if sticky then 1 else 0)
      else (m / 2 ^ (q - e).toNat, restOf m (q - e).toNat sticky)
    let y := if roundsUp mode neg (y0 % 2 == 1) rest then y0 + 1 else y0
    if cmpMag y q (fmtMax f).1 (fmtMax f).2 = .gt then
      let fl := flagOF ||| flagNX
      if f = .f8 then (maxBits f neg, fl)
      else if mode = 0 then (infBits f neg, fl)
      else if mode = 1 || (mode = 2 && !neg) || (mode = 3 && neg) then (maxBits f neg, fl)
      else (infBits f neg, fl)
    else
      let fl : BitVec 6 := if rest = 0 then 0 else if y < 2 ^ (p - 1) then flagNX ||| flagUF else flagNX
      if y < 2 ^ (p - 1) then (signBit f neg + y, fl)
      else
        let (y', q') := if y = 2 ^ p then (2 ^ (p - 1), q + 1) else (y, q)
        let ex := (q' + ((p : Int) - 1) + fmtBias f).toNat
        (signBit f neg + ex * 2 ^ (p - 1) + (y' - 2 ^ (p - 1)), fl)

/-- `round(x, fmt, mode)` of R27 for a float format. -/
def roundVal (f : Fmt) (mode : Nat) : Val → Nat × BitVec 6
  | .nan _ => (canonNaN f, 0)
  | .inf neg => (infBits f neg, if f = .f8 then flagOF else 0)
  | .fin neg m e => roundFin f mode neg m e false

/-- A real rounded to an integer per mode: the integer, and whether it is inexact. -/
def roundInt (mode : Nat) (neg : Bool) (m : Nat) (e : Int) (sticky : Bool) : Int × Bool :=
  let (y0, rest) : Nat × Nat :=
    if 0 ≤ e then (m * 2 ^ e.toNat, if sticky then 1 else 0) else (m / 2 ^ (-e).toNat, restOf m (-e).toNat sticky)
  let y := if roundsUp mode neg (y0 % 2 == 1) rest then y0 + 1 else y0
  (if neg then -(y : Int) else (y : Int), rest ≠ 0)

/-- `rne(m x 2^e)` with a sign (R38). -/
def rne (neg : Bool) (m : Nat) (e : Int) : Int := (roundInt 0 neg m e false).1

def intMin (f : Fmt) : Int := if fmtIsSigned f then -(2 ^ (fmtBits f - 1) : Nat) else 0
def intMax (f : Fmt) : Int := if fmtIsSigned f then (2 ^ (fmtBits f - 1) : Nat) - 1 else (2 ^ fmtBits f : Nat) - 1

/-- An integer limited to the range of a format (R38 clamp). -/
def clampInt (f : Fmt) (v : Int) : Int := if v < intMin f then intMin f else if v > intMax f then intMax f else v

/-- Float to integer (R28, R214): round, then saturate; NV on a NaN, NV and SAT out of range, NX if inexact and in range. -/
def floatToInt (f : Fmt) (mode : Nat) : Val → Nat × BitVec 6
  | .nan _ => (0, flagNV)
  | .inf neg => (unsignedOf (fmtBits f) (if neg then intMin f else intMax f), flagNV ||| flagSAT)
  | .fin neg m e =>
    let (v, inexact) := roundInt mode neg m e false
    if v < intMin f ∨ v > intMax f then (unsignedOf (fmtBits f) (clampInt f v), flagNV ||| flagSAT)
    else (unsignedOf (fmtBits f) v, if inexact then flagNX else 0)

def intVal (v : Int) : Val := .fin (decide (v < 0)) v.natAbs 0

/-- A value is a signalling NaN (R18). -/
def valSnan : Val → Bool
  | .nan s => s
  | _ => false

def valIsNan : Val → Bool
  | .nan _ => true
  | _ => false

/-- A signed magnitude at exponent `e`. -/
def valInt (neg : Bool) (m : Nat) : Int := if neg then -(m : Int) else (m : Int)

/-- The exact sum of two values; NV for opposite infinities (R18). -/
def addVal (mode : Nat) (x y : Val) : Val × BitVec 6 :=
  match x, y with
  | .nan _, _ => (.nan false, 0)
  | _, .nan _ => (.nan false, 0)
  | .inf a, .inf b => if a = b then (.inf a, 0) else (.nan false, flagNV)
  | .inf a, _ => (.inf a, 0)
  | _, .inf b => (.inf b, 0)
  | .fin a m e, .fin b n f =>
    let k := min e f
    let s := valInt a (m * 2 ^ (e - k).toNat) + valInt b (n * 2 ^ (f - k).toNat)
    if s = 0 then (.fin (if a = b then a else mode == 2) 0 0, 0) else (.fin (decide (s < 0)) s.natAbs k, 0)

def negVal : Val → Val
  | .nan s => .nan s
  | .inf a => .inf (!a)
  | .fin a m e => .fin (!a) m e

def absVal : Val → Val
  | .nan s => .nan s
  | .inf _ => .inf false
  | .fin _ m e => .fin false m e

/-- The exact product; NV for zero times infinity. -/
def mulVal (x y : Val) : Val × BitVec 6 :=
  match x, y with
  | .nan _, _ => (.nan false, 0)
  | _, .nan _ => (.nan false, 0)
  | .inf a, .inf b => (.inf (a != b), 0)
  | .inf a, .fin b n _ => if n = 0 then (.nan false, flagNV) else (.inf (a != b), 0)
  | .fin a m _, .inf b => if m = 0 then (.nan false, flagNV) else (.inf (a != b), 0)
  | .fin a m e, .fin b n f => (.fin (a != b) (m * n) (e + f), 0)

/-- The order of two values that are no NaN; -0 and +0 are equal. -/
def cmpVal (x y : Val) : Ordering :=
  match x, y with
  | .inf a, .inf b => compare (if a then 0 else 1) (if b then 0 else 1)
  | .inf a, _ => if a then .lt else .gt
  | _, .inf b => if b then .gt else .lt
  | .fin a m e, .fin b n f =>
    let k := min e f
    compare (valInt a (m * 2 ^ (e - k).toNat)) (valInt b (n * 2 ^ (f - k).toNat))
  | _, _ => .eq

/-! ### Square roots, powers and logarithms -/

/-- The integer square root of `x`, given that it is below `2^n`. -/
def isqrt : Nat → Nat → Nat → Nat
  | 0, r, _ => r
  | n + 1, r, x => if (r + 2 ^ n) * (r + 2 ^ n) ≤ x then isqrt n (r + 2 ^ n) x else isqrt n r x

/-- floor of the square root of `x`. -/
def sqrtNat (x : Nat) : Nat := isqrt (Nat.log2 x / 2 + 1) 0 x

/-- A rounded result of an operation whose exact result is `(-1)^neg x (m + rest) x 2^e`: rounding is left to `W`. -/
structure Approx where
  neg : Bool
  m : Nat
  e : Int
  sticky : Bool
  deriving DecidableEq, Repr

/-- `sqrt(m x 2^e)` to at least 64 bits. -/
def sqrtApprox (m : Nat) (e : Int) : Approx :=
  let (m, e) := if e % 2 = 0 then (m, e) else (m * 2, e - 1)
  let k : Nat := 128
  let y := m * 2 ^ (2 * k)
  let r := sqrtNat y
  { neg := false, m := r, e := e / 2 - (k : Int), sticky := decide (r * r ≠ y) }

/-- `(m x 2^e) / (n x 2^f)` to at least 64 bits beyond the operands. -/
def divApprox (neg : Bool) (m : Nat) (e : Int) (n : Nat) (f : Int) : Approx :=
  let k : Nat := 128 + Nat.log2 n
  let y := m * 2 ^ k
  { neg := neg, m := y / n, e := e - f - (k : Int), sticky := decide (y % n ≠ 0) }

/-- `1 / sqrt(m x 2^e)`. -/
def rsqApprox (m : Nat) (e : Int) : Approx :=
  let (m, e) := if e % 2 = 0 then (m, e) else (m * 2, e - 1)
  let k : Nat := 128 + Nat.log2 m
  let r := sqrtNat (2 ^ (2 * k) / m)
  { neg := false, m := r, e := -(e / 2) - (k : Int), sticky := decide (r * r * m ≠ 2 ^ (2 * k)) }

/-- Fixed-point places of the power and logarithm evaluations (DEDUCED, log entry 11). -/
def expPlaces : Nat := 320

/-- `2^f x acc` for a fraction `f` given by its bits from the first place down: the factor of place i is the i-th
repeated square root of 2. -/
def exp2Frac : Nat → Nat → Nat → Nat → Nat
  | 0, _, _, acc => acc
  | n + 1, f, root, acc =>
    let root' := sqrtNat (root * 2 ^ expPlaces)
    let acc' := if f / 2 ^ n % 2 = 1 then acc * root' / 2 ^ expPlaces else acc
    exp2Frac n f root' acc'

/-- `2^x` for a finite x: exact for an integer x, else to `expPlaces` places. An x beyond every format's range is
taken at the end of it: the rounding is the same. -/
def exp2Approx (neg : Bool) (m : Nat) (e : Int) : Approx :=
  if m = 0 then { neg := false, m := 1, e := 0, sticky := false }
  else if 0 ≤ e + (Nat.log2 m : Int) - 12 then
    { neg := false, m := 1, e := if neg then -4096 else 4096, sticky := false }
  else
    let n : Nat := (-e).toNat
    let x : Int := if 0 ≤ e then valInt neg (m * 2 ^ e.toNat) else valInt neg m
    let ip : Int := x / (2 ^ n : Nat)
    let fp : Nat := (x % (2 ^ n : Nat)).toNat
    if fp = 0 then { neg := false, m := 1, e := ip, sticky := false }
    else
      { neg := false, m := exp2Frac n fp (2 * 2 ^ expPlaces) (2 ^ expPlaces), e := ip - (expPlaces : Int), sticky := true }

/-- The first `n` binary places of log2 of `y x 2^-640`, for y in [2^640, 2^641). -/
def log2Frac : Nat → Nat → Nat → Nat
  | 0, _, acc => acc
  | n + 1, y, acc =>
    let z := y * y / 2 ^ 640
    if z < 2 ^ 641 then log2Frac n z (2 * acc) else log2Frac n (z / 2) (2 * acc + 1)

/-- `log2(m x 2^e)`, m > 0. -/
def log2Approx (m : Nat) (e : Int) : Approx :=
  let t := Nat.log2 m
  if m = 2 ^ t then
    let v := e + (t : Int)
    { neg := decide (v < 0), m := v.natAbs, e := 0, sticky := false }
  else
    let fr := log2Frac 160 (m * 2 ^ (640 - t)) 0
    let l : Int := (e + (t : Int)) * (2 ^ 160 : Nat) + (fr : Int)
    if l < 0 then { neg := true, m := (-l - 1).toNat, e := -160, sticky := true }
    else { neg := false, m := l.toNat, e := -160, sticky := true }

/-! ### Companded codes (R21 to R24) -/

def segCB (w : Word) : Nat := bitsOf w.toNat 0 8
def segVB (w : Word) : Nat := bitsOf w.toNat 8 12
def segStep (w : Word) : Nat := bitsOf w.toNat 20 16

/-- The last entry whose CB is at most the code. -/
def segOf (tab : List Word) (c : Nat) (best : Word) : Word :=
  match tab with
  | [] => best
  | w :: t => segOf t c (if segCB w ≤ c then w else best)

/-- `decode` of R23 for a code from 0 to 127. -/
def decodeCode (tab : List Word) (c : Nat) : Nat :=
  let w := segOf tab c (tab.headD 0)
  segVB w + (segStep w * (c - segCB w) + 8) / 16

/-- A valid companding table (R22). -/
def tabValid (tab : List Word) : Bool :=
  tab.length == 16 && segCB (tab.headD 0) == 0 && segVB (tab.headD 0) == 0 &&
    decide ((tab.map segCB).Pairwise (· < ·)) &&
    (List.range 127).all (fun c => decide (decodeCode tab c ≤ decodeCode tab (c + 1))) &&
    decide (decodeCode tab 127 ≤ 2047) &&
    tab.all (fun w => bitsOf w.toNat 36 28 == 0 && bitsOf w.toNat 7 1 == 0)

/-- The value of a C8 code (R23), under a table and a scale base. A negative code that decodes to 0 is -0 (DESIGN CHOICE, log entry
40: R23 gives -decode no sign of zero). -/
def c8Value (tab : List Word) (sb : Int) (c : Nat) : Val :=
  let v := signedOf 8 c
  if v = -128 then .nan false else .fin (decide (v < 0)) (decodeCode tab v.natAbs) (sb - 10)

/-- The code with the smallest |decode(c) - u|: a tie goes to the even code, then to the smallest; u is m x 2^e. -/
def c8Nearest (tab : List Word) (m : Nat) (e : Int) : Nat :=
  let dist (c : Nat) : Nat :=
    if 0 ≤ e then ((decodeCode tab c : Int) - (m * 2 ^ e.toNat : Nat)).natAbs
    else ((decodeCode tab c * 2 ^ (-e).toNat : Nat) - (m : Int) : Int).natAbs
  (List.range 128).foldl
    (fun b c => if dist c < dist b ∨ (dist c = dist b ∧ b % 2 = 1 ∧ c % 2 = 0) then c else b) 0

/-- The largest code with decode(c) at most u. -/
def c8Below (tab : List Word) (m : Nat) (e : Int) : Nat :=
  (List.range 128).foldl (fun b c => if cmpMag (decodeCode tab c) 0 m e ≠ .gt then c else b) 0

/-- The smallest code with decode(c) at least u. -/
def c8Above (tab : List Word) (m : Nat) (e : Int) : Nat :=
  (List.range 128).reverse.foldl (fun b c => if cmpMag (decodeCode tab c) 0 m e ≠ .lt then c else b) 127

/-- Quantisation to C8 (R24): the code and the flags. An infinity sets OF alone: its bullet names no NX, and the bullet of NX compares a
decoded value with a number (DEDUCED, log entry 40). -/
def c8Quant (tab : List Word) (sb : Int) (mode : Nat) : Val → Nat × BitVec 6
  | .nan _ => (0x80, 0)
  | .inf neg => (unsignedOf 8 (if neg then -127 else 127), flagOF)
  | .fin neg m e0 =>
    if m = 0 then (0, 0)
    else
    let e := e0 + 10 - sb
    let code (c : Nat) : Nat := unsignedOf 8 (if neg then -(c : Int) else (c : Int))
    if cmpMag m e (decodeCode tab 127) 0 = .gt then (code 127, flagOF ||| flagNX)
    else
      let away := (mode = 2 ∧ neg) ∨ (mode = 3 ∧ ¬ neg)
      let c := if mode = 0 then c8Nearest tab m e else if away then c8Above tab m e else c8Below tab m e
      (code c, if cmpMag (decodeCode tab c) 0 m e = .eq then 0 else flagNX)

/-! ### Block conversion (R31) and residues (R32 to R37) -/

/-- A vector in B12: poisoned, or an exponent and the integers. -/
structure B12 where
  poison : Bool
  e : Int
  q : List Int
  deriving DecidableEq, Repr

def valFinite : Val → Bool
  | .fin _ _ _ => true
  | _ => false

/-- The larger magnitude. -/
def maxMag (x y : Nat × Int) : Nat × Int := if cmpMag x.1 x.2 y.1 y.2 = .lt then y else x

def valMag : Val → Nat × Int
  | .fin _ m e => (m, e)
  | _ => (0, 0)

/-- `rne(v x 2^(10 - e))`. -/
def b12Elem (e : Int) : Val → Int
  | .fin neg m ex => rne neg m (ex + 10 - e)
  | _ => 0

/-- `b12` of R31 over a vector of float values. -/
def b12 (v : List Val) : B12 :=
  if v.any (fun x => !valFinite x) then { poison := true, e := 0, q := v.map (fun _ => 0) }
  else
    let mx := v.foldl (fun b x => maxMag b (valMag x)) (0, 0)
    if mx.1 = 0 then { poison := false, e := 0, q := v.map (fun _ => 0) }
    else
      let e0 : Int := mx.2 + (Nat.log2 mx.1 : Int)
      let e := if rne false mx.1 (mx.2 + 10 - e0) = 2048 then e0 + 1 else e0
      { poison := false, e := e, q := v.map (b12Elem e) }

/-- The moduli of R33. -/
def modA : Nat := 4093
def modB : Nat := 4095
def modC : Nat := 4096
def modK : Nat := 251

/-- Residue of an integer. -/
def resMod (m : Nat) (s : Int) : Nat := (s % (m : Int)).toNat

/-- Add an exact sum of products to an element's residues (R33): every channel adds independently. -/
def accAdd (a : Acc) (s : Int) : Acc :=
  { a with
    ra := BitVec.ofNat 12 ((a.ra.toNat + resMod modA s) % modA)
    rb := BitVec.ofNat 12 ((a.rb.toNat + resMod modB s) % modB)
    rc := BitVec.ofNat 12 ((a.rc.toNat + resMod modC s) % modC)
    rk := BitVec.ofNat 8 ((a.rk.toNat + resMod modK s) % modK) }

/-- `crt` of R35. -/
def crt (ra rb rc : Nat) : Int :=
  let a1 := ra
  let a2 := (((rb : Int) - a1) * 2047 % 4095).toNat
  let a3 := (((rc : Int) - a1 - 4093 * a2) * 2731 % 4096).toNat
  let x := a1 + 4093 * a2 + 16760835 * a3
  if x > 34326190080 then (x : Int) - 68652380160 else x

/-- The fields of an element are all canonical (R32). -/
def accCanonical (a : Acc) : Bool :=
  decide (a.ra.toNat < modA) && decide (a.rb.toNat < modB) && decide (a.rk.toNat < modK)

/-- A residue mismatch at a checked drain (R36). -/
def accMismatch (a : Acc) : Bool :=
  !a.po && (!accCanonical a || resMod modK (crt a.ra.toNat a.rb.toNat a.rc.toNat) != a.rk.toNat)

/-- The exact integer an element stands for, its fields reduced (R32, R37); an EMPTY element reads as +0 (R185). -/
def accSum (a : Acc) : Int :=
  if a.empty then 0 else crt (a.ra.toNat % modA) (a.rb.toNat % modB) a.rc.toNat

/-- `drain` of R37: bits and flags. -/
def drain (a : Acc) (f : Fmt) : Nat × BitVec 6 :=
  if a.po then (if f = .s32 then 0 else canonNaN f, flagNV)
  else
    let s := accSum a
    let e := a.er.toInt + a.ec.toInt - 20
    if f = .s32 then
      let (w, inexact) := roundInt 0 (decide (s < 0)) s.natAbs e false
      let w' := clampInt .s32 w
      let sat : BitVec 6 := if w' = w then 0 else flagSAT
      let nx : BitVec 6 := if inexact ∨ w' ≠ w then flagNX else 0
      (unsignedOf 32 w', sat ||| nx)
    else roundFin f 0 (decide (s < 0)) s.natAbs e false

/-- Pack and unpack the RQ container (R32) and the tag (R185). -/
def rqBits (a : Acc) : Nat :=
  a.ra.toNat + 2 ^ 12 * a.rb.toNat + 2 ^ 24 * a.rc.toNat + 2 ^ 36 * a.rk.toNat

def tagBits (a : Acc) : Nat :=
  a.kc.toNat + 2 ^ 13 * a.ec.toNat + 2 ^ 22 * a.er.toNat + 2 ^ 31 * a.po.toNat + 2 ^ 32 * a.empty.toNat

/-- An element from its two containers (R249): one whose loaded EMPTY bit is 1 holds RQ zero, whatever its PO; PO = 1 sets EMPTY to 0
(R185). -/
def accOfBits (rq tag : Nat) : Acc :=
  let loaded := bitsOf tag 32 1 == 1
  { ra := if loaded then 0 else BitVec.ofNat 12 rq
    rb := if loaded then 0 else BitVec.ofNat 12 (rq / 2 ^ 12)
    rc := if loaded then 0 else BitVec.ofNat 12 (rq / 2 ^ 24)
    rk := if loaded then 0 else BitVec.ofNat 8 (rq / 2 ^ 36)
    empty := loaded && bitsOf tag 31 1 == 0
    po := bitsOf tag 31 1 == 1
    er := BitVec.ofNat 9 (tag / 2 ^ 22)
    ec := BitVec.ofNat 9 (tag / 2 ^ 13)
    kc := BitVec.ofNat 13 tag }

/-- The fixed reduction tree of R30 on a list, with fuel for its depth: `f` combines and adds flags. -/
def treeStep {α : Type} (f : α → α → α × BitVec 6) (h : Nat) (xs : List α) (fl : BitVec 6) : List α × BitVec 6 :=
  let ys := xs.take h
  let zs := xs.drop h
  let r := (ys.take zs.length).zipWith f zs
  (r.map Prod.fst ++ ys.drop zs.length, r.foldl (fun acc p => acc ||| p.2) fl)

/-- The largest power of two strictly below n, for n > 1. -/
def powBelow (n : Nat) : Nat := 2 ^ Nat.log2 (n - 1)

def treeRed {α : Type} (f : α → α → α × BitVec 6) : Nat → List α → BitVec 6 → List α × BitVec 6
  | 0, xs, fl => (xs, fl)
  | n + 1, xs, fl =>
    if xs.length ≤ 1 then (xs, fl)
    else
      let (ys, fl') := treeStep f (powBelow xs.length) xs fl
      treeRed f n ys fl'

end Sys2Proof.Machine
end

