-- ==== Sys2Proof/Machine/Operands.lean ====
section
/-! DEFINITION. Reading and writing the strand's registers (spec/03_encoding.md R71, spec/04_strand.md R75) and the
operand forms of R40. -/

namespace Sys2Proof.Machine

/-- g[n] (R71): g0 reads 0. -/
def getG (s : State) (n : Reg) : Word := if n = 0 then 0 else s.strand.g[n]

/-- Write g[n]; a write to g0 is discarded (R71). -/
def setG (s : State) (n : Reg) (v : Word) : State :=
  if n = 0 then s else { s with strand := { s.strand with g := s.strand.g.set n v } }

/-- c[n]: c0 reads 1 (R71). -/
def getC (s : State) (n : Cond) : Bool := if n = 0 then true else s.strand.c[n]

/-- Write c[n]; a write to c0 is discarded. -/
def setC (s : State) (n : Cond) (v : Bool) : State :=
  if n = 0 then s else { s with strand := { s.strand with c := s.strand.c.set n v } }

def getTb (s : State) (t : Tb) : BitVec 32 := s.strand.tb[t]

def setTb (s : State) (t : Tb) (v : BitVec 32) : State :=
  { s with strand := { s.strand with tb := s.strand.tb.set t v } }

def getLc (s : State) (l : LoopId) : LoopReg := s.strand.lc[l]

def setLc (s : State) (l : LoopId) (v : LoopReg) : State :=
  { s with strand := { s.strand with lc := s.strand.lc.set l v } }

def getBounds (s : State) (l : LoopId) : Bounds := s.strand.bounds[l]

def setBounds (s : State) (l : LoopId) (v : Bounds) : State :=
  { s with strand := { s.strand with bounds := s.strand.bounds.set l v } }

def getBox (s : State) (x : Bx) : BoxReg := s.store.boxes[x]

def setBox (s : State) (x : Bx) (v : BoxReg) : State :=
  { s with store := { s.store with boxes := s.store.boxes.set x v } }

/-- Spill slots (R123). -/
def getSpill (s : State) (n : BitVec 9) : Word := tget 0 s.strand.spill n.toNat

def setSpill (s : State) (n : BitVec 9) (v : Word) : State :=
  { s with strand := { s.strand with spill := tset 0 s.strand.spill n.toNat v } }

/-- Semaphore counts (R170). -/
def getSem (s : State) (n : Nat) : BitVec 32 := tget 0 s.store.sems n

/-- A signed immediate (R40, R38 sext). -/
def sextW {n : Nat} (v : BitVec n) : Word := v.signExtend 64

/-- An unsigned immediate. -/
def zextW {n : Nat} (v : BitVec n) : Word := v.setWidth 64

def withPc (s : State) (a : BitVec 32) : State := { s with strand := { s.strand with pc := a } }

def withXstat (s : State) (x : Xstat) : State := { s with strand := { s.strand with xstat := x } }

def withSys (s : State) (r : SysRegs) : State := { s with sys := r }

/-! ### The integer operations (R99 to R104) -/

/-- The carry-less product of R99. -/
def clprod (a b : Word) : BitVec 128 :=
  (List.range 64).foldl (fun p i => if b.getLsbD i then p ^^^ (a.setWidth 128 <<< i) else p) 0

/-- Leading zero bits (R99 CLZ): 64 for zero. -/
def clzW (a : Word) : Word := if a = 0 then 64 else BitVec.ofNat 64 (63 - Nat.log2 a.toNat)

/-- Trailing zero bits, counted on `fuel` bits. -/
def ctzNat : Nat → Nat → Nat
  | 0, _ => 0
  | n + 1, v => if v % 2 = 1 then 0 else 1 + ctzNat n (v / 2)

def ctzW (a : Word) : Word := BitVec.ofNat 64 (ctzNat 64 a.toNat)

def popNat : Nat → Nat → Nat
  | 0, _ => 0
  | n + 1, v => v % 2 + popNat n (v / 2)

def popcW (a : Word) : Word := BitVec.ofNat 64 (popNat 64 a.toNat)

/-- Byte i to byte 7 - i (R99 BSWAP). -/
def bswapW (a : Word) : Word := BitVec.ofNat 64 (leNat (leBytes 8 a.toNat).reverse)

/-- R100. -/
def divS (a b : Word) : Word := if b = 0 then BitVec.allOnes 64 else BitVec.ofInt 64 (a.toInt.tdiv b.toInt)
def remS (a b : Word) : Word := if b = 0 then a else BitVec.ofInt 64 (a.toInt.tmod b.toInt)
def divU (a b : Word) : Word := if b = 0 then BitVec.allOnes 64 else a / b
def remU (a b : Word) : Word := if b = 0 then a else a % b

/-- A shift amount: the low six bits (R99). -/
def amount (b : Word) : Nat := b.toNat % 64

/-- R104. -/
def bfxW (a : Word) (signed : Bool) (pos len1 : BitVec 6) : Word :=
  let len := len1.toNat + 1
  let f := a.toNat / 2 ^ pos.toNat % 2 ^ len
  if signed then BitVec.ofInt 64 (signedOf len f) else BitVec.ofNat 64 f

def bfiW (d a : Word) (pos len1 : BitVec 6) : Word :=
  let m : Word := BitVec.ofNat 64 ((2 ^ (len1.toNat + 1) - 1) * 2 ^ pos.toNat)
  (d &&& ~~~m) ||| ((a <<< pos.toNat) &&& m)

end Sys2Proof.Machine
end

