-- ==== Sys2Proof/Machine/Flags.lean ====
section
/-! DEFINITION. The flag computations: the comparisons that write condition bits (spec/03_encoding.md R47, R48) and the
sticky floating-point FLAGS (spec/02_numbers.md R26). -/

namespace Sys2Proof.Machine

/-- R47: the comparison of a with b. -/
def cmpHolds (cc : Cmp) (a b : Word) : Bool :=
  match cc with
  | .eq => a == b
  | .ne => a != b
  | .lt => a.slt b
  | .ge => !a.slt b
  | .ltn => a.ult b
  | .gen => !a.ult b
  | .bs => a.getLsbD (b.toNat % 64)
  | .bc => !a.getLsbD (b.toNat % 64)

/-- Flags merge into FLAGS once, at retirement (R26, R181). -/
def mergeFlags (s : State) (f : BitVec 6) : State := { s with sys := { s.sys with flags := s.sys.flags ||| f } }

/-- A 32-bit counter that saturates (R181). -/
def satInc (v : BitVec 32) : BitVec 32 := if v = BitVec.allOnes 32 then v else v + 1

end Sys2Proof.Machine
end

