-- ==== Sys2Proof/Machine/Record.lean ====
section
/-! DEFINITION. The fields of a task record (spec/03_encoding.md R66), its task (R69), and the images of window entries,
boxes and registers (spec/07_core.md R177, R283; spec/06_strand_memory_system.md R131). -/

namespace Sys2Proof.Machine

/-- Bits [lo + n - 1 : lo] of a record. -/
def rf (r : Rec) (lo n : Nat) : Nat := bitsOf r.toNat lo n

def recTop (r : Rec) : Nat := rf r 0 8
def recEng (r : Rec) : Nat := rf r 8 3
def recRst (r : Rec) : Bool := rf r 11 1 == 1
def recPri (r : Rec) : Bool := rf r 12 1 == 1
def recMod (r : Rec) : Nat := rf r 16 4
def recBoxW (r : Rec) : Nat := rf r 20 6
def recBoxA (r : Rec) : Nat := rf r 26 6
def recBoxB (r : Rec) : Nat := rf r 32 6
def recBoxC (r : Rec) : Nat := rf r 38 6
def recVW (r : Rec) : Bool := rf r 44 1 == 1
def recVA (r : Rec) : Bool := rf r 45 1 == 1
def recVB (r : Rec) : Bool := rf r 46 1 == 1
def recVC (r : Rec) : Bool := rf r 47 1 == 1
def recGres (r : Rec) : Reg := Fin.ofNat 64 (rf r 48 6)
def recGv (r : Rec) : Bool := rf r 54 1 == 1
def recWv (r : Rec) : Bool := rf r 55 1 == 1
def recWsem (r : Rec) : Nat := rf r 56 11
def recWthr (r : Rec) : Nat := rf r 67 16
def recSigv (r : Rec) : Bool := rf r 83 1 == 1
def recSigsem (r : Rec) : Nat := rf r 84 11
def recSigadd (r : Rec) : Int := signedOf 8 (rf r 95 8)
def recImm (r : Rec) : Nat := rf r 128 64
def recXf (r : Rec) : Nat := rf r 192 64

/-- Set RST, as a speculative POST forces it (R364). -/
def recForceRst (r : Rec) : Rec := r ||| (BitVec.ofNat 256 (2 ^ 11))

/-- The engine that a code names (R66). -/
def engOfCode : Nat → Option Engine
  | 0 => some .m | 1 => some .v | 2 => some .x | 3 => some .c | 4 => some .f | _ => none

/-- The task rows of the opcode table. -/
inductive Task where
  | mm | mmq | mmg | mz | mst
  | xpose | xperm | xrev
  | vadd | vsub | vmul | vfma | vdiv | vsqrt | vrcp | vrsq | vexp2 | vlog2 | vmin | vmax | vabs | vneg | vcvt | vqnt
  | vdq | vscl | vand | vor | vxor | vnot | vshl | vshr | vsra | vclm | vpopc | vclz | vcmp | vsel | vred | vscan
  | vany | vall | vcnt | viota | vcomp | vgth | vsct | vhist | vbcst
  | cpy | cpyf | cmpb | fill | adv | drn | drna | accl | selk | cpypg | ckpt
  | wr | wrp | rd | amo | post | sem | rte | fred | halo
  deriving DecidableEq, Repr

/-- The task of an engine and TOP; every other TOP is unassigned (R69). -/
def taskOf (eng top : Nat) : Option Task :=
  match eng with
  | 0 => match top with
    | 0x01 => some .mm | 0x02 => some .mmq | 0x03 => some .mmg | 0x04 => some .mz | 0x05 => some .mst | _ => none
  | 1 => match top with
    | 0x01 => some .vadd | 0x02 => some .vsub | 0x03 => some .vmul | 0x04 => some .vfma | 0x05 => some .vdiv
    | 0x06 => some .vsqrt | 0x07 => some .vrcp | 0x08 => some .vrsq | 0x09 => some .vexp2 | 0x0A => some .vlog2
    | 0x0B => some .vmin | 0x0C => some .vmax | 0x0D => some .vabs | 0x0E => some .vneg | 0x0F => some .vcvt
    | 0x10 => some .vqnt | 0x11 => some .vdq | 0x12 => some .vscl
    | 0x20 => some .vand | 0x21 => some .vor | 0x22 => some .vxor | 0x23 => some .vnot | 0x24 => some .vshl
    | 0x25 => some .vshr | 0x26 => some .vsra | 0x27 => some .vclm | 0x28 => some .vpopc | 0x29 => some .vclz
    | 0x30 => some .vcmp | 0x31 => some .vsel | 0x38 => some .vred | 0x39 => some .vscan | 0x3A => some .vany
    | 0x3B => some .vall | 0x3C => some .vcnt
    | 0x40 => some .viota | 0x41 => some .vcomp | 0x42 => some .vgth | 0x43 => some .vsct | 0x44 => some .vhist
    | 0x45 => some .vbcst
    | _ => none
  | 2 => match top with
    | 0x01 => some .xpose | 0x02 => some .xperm | 0x03 => some .xrev | _ => none
  | 3 => match top with
    | 0x01 => some .cpy | 0x02 => some .cpyf | 0x03 => some .cmpb | 0x04 => some .fill | 0x05 => some .adv
    | 0x06 => some .drn | 0x07 => some .drna | 0x08 => some .accl | 0x09 => some .selk | 0x0A => some .cpypg
    | 0x0B => some .ckpt | _ => none
  | 4 => match top with
    | 0x01 => some .wr | 0x02 => some .wrp | 0x03 => some .rd | 0x04 => some .amo | 0x05 => some .post
    | 0x06 => some .sem | 0x07 => some .rte | 0x08 => some .fred | 0x09 => some .halo | _ => none
  | _ => none

def recTask (r : Rec) : Option Task := taskOf (recEng r) (recTop r)

/-- The engine that runs an entry: a fold runs on C (R162). -/
def entryEng (e : Entry) : Engine := if e.fold then .c else (engOfCode (recEng e.record)).getD .m

/-- Folds and remote records count in no TKC (R93). -/
def countsTkc (e : Entry) : Bool := e.own && !e.fold && !e.remote

/-- TKC (R93): records of this strand not yet retired. -/
def tkc (s : State) : Nat := (s.thatch.entries.filter countsTkc).length

/-- LDC, CPC (R93). -/
def ldc (s : State) : Nat := s.strand.loads.length
def cpc (s : State) : Nat := s.strand.copies.length

def isHeldStore : HeldStore → Bool
  | .store .. => true
  | .spl .. => false

/-- STC (R93): parked and held stores; every other store is performed at its issue (DESIGN CHOICE, log entry 6). -/
def stc (s : State) : Nat :=
  s.mem.replay.length + (s.grp.hold.filter isHeldStore).length + (s.grp.issuing.filter isHeldStore).length

/-- F.WRP, and F.HALO with GV = 1, deliver at POST completion (R169). -/
def deliversAtPost (r : Rec) : Bool :=
  recEng r == 4 && (recTop r == 2 || recTop r == 9)

/-- A record whose scalar is still to come keeps its g[GRES] pending (R169). -/
def pendsReg (e : Entry) : Bool :=
  e.own && !e.fold && !e.remote && recGv e.record && !deliversAtPost e.record

/-- Registers that an outstanding load, atomic or record will write (R78, R169). -/
def regPending (s : State) (n : Reg) : Bool :=
  n ≠ 0 && (s.strand.loads.any (fun l => l.d == n) ||
    s.thatch.entries.any (fun e => pendsReg e && recGres e.record == n))

/-! ### Register images -/

def xstatWord (x : Xstat) : Word :=
  BitVec.ofNat 64
    (x.cqu.toNat + 2 * x.cqo.toNat + 2 ^ 2 * x.xt.toNat + 2 ^ 3 * x.sk.toNat + 2 ^ 32 * x.nest.toNat
      + 2 ^ 40 * x.depth.toNat + 2 ^ 43 * x.xp.toNat + 2 ^ 44 * x.repk.toNat + 2 ^ 50 * x.pid.toNat
      + 2 ^ 52 * x.stg.toNat + 2 ^ 55 * x.pipe.toNat + 2 ^ 56 * x.q.toNat)

def xstatOf (w : Word) : Xstat :=
  { q := w.extractLsb' 56 8, pipe := w.getLsbD 55, stg := w.extractLsb' 52 3, pid := w.extractLsb' 50 2
    repk := w.extractLsb' 44 6, xp := w.getLsbD 43, depth := w.extractLsb' 40 3, nest := w.extractLsb' 32 8
    sk := w.getLsbD 3, xt := w.getLsbD 2, cqo := w.getLsbD 1, cqu := w.getLsbD 0 }

/-- XSTAT as it reads now (R80): a transfer pending behind its shadow slot shows in XP and XT, a repeat in REPK. With none
pending XT is as an ERET left it (R138). -/
def xstatNow (s : State) : Xstat :=
  let x := s.strand.xstat
  { x with
    xp := s.strand.pend.isSome
    xt := match s.strand.pend with | some p => p.taken | none => x.xt
    repk := match s.strand.rep with | some r => BitVec.ofNat 6 r.k | none => x.repk }

def statusWord (r : SysRegs) : Word :=
  BitVec.ofNat 64 (r.pl.toNat + 2 * r.ppl.toNat + 4 * r.th.toNat + 8 * r.pp.toNat + 16 * r.spec.toNat)

def causeWord (c : CauseReg) : Word :=
  BitVec.ofNat 64 (c.code.toNat + 2 ^ 8 * c.async.toNat + 2 ^ 9 * c.dbl.toNat + 2 ^ 12 * c.src.toNat
    + 2 ^ 32 * c.info.toNat)

def causeOf (w : Word) : CauseReg :=
  { info := w.extractLsb' 32 32, src := w.extractLsb' 12 3, dbl := w.getLsbD 9, async := w.getLsbD 8
    code := w.extractLsb' 0 6 }

def lcWord (l : LoopReg) : Word := l.j ++ l.cnt
def boundsWord (b : Bounds) : Word := b.last ++ b.first
def boundsOf (w : Word) : Bounds := { first := w.extractLsb' 0 32, last := w.extractLsb' 32 32 }

def grpixWord (r : SysRegs) : Word :=
  BitVec.ofNat 64 (r.grpIx.toNat + 2 ^ 16 * r.grpCi.toNat + 2 ^ 48 * r.grpXc.toNat + 2 ^ 49 * r.grpXr.toNat)
def gstepWord (r : SysRegs) : Word := r.gstepLocal ++ r.gstepStep
def gepochWord (r : SysRegs) : Word := BitVec.ofNat 64 (r.gepoch.toNat + 2 ^ 16 * r.gepochPf.toNat)

/-- The codes of R74. -/
def causeCode : Cause → BitVec 6
  | .illegal => 0x01 | .priv => 0x02 | .align => 0x03 | .rasOver => 0x05 | .rasEmpty => 0x06 | .loopShape => 0x07
  | .taskbad => 0x08 | .boxbad => 0x09 | .huskbad => 0x0A | .seg => 0x0B | .page => 0x0C | .wprot => 0x0D
  | .owner => 0x0E | .ue => 0x0F | .residue => 0x10 | .pipExp => 0x11 | .remote => 0x12 | .cbrTimeout => 0x13
  | .abort => 0x14 | .window => 0x15 | .brk => 0x16 | .trap => 0x17 | .preempt => 0x18 | .lateStart => 0x19

/-- CAUSE.SRC of an engine (R133). -/
def engSrc : Engine → BitVec 3
  | .m => 1 | .v => 2 | .x => 3 | .c => 4 | .f => 5

/-! ### Images of the window (R177) -/

def dimsBytes (d : Dims) : List Byte := leBytes 2 d.x0 ++ leBytes 2 d.x1 ++ leBytes 2 d.x2 ++ leBytes 2 d.x3

/-- A resolved box, 20 bytes; a box whose valid bit is clear is all zero. `buf` marks the boxes that show as rename
buffers: the W of a renamed record and the A of a fold. -/
def boxImage (buf : Bool) : Option RBox → List Byte
  | none => leBytes 20 0
  | some b =>
    match (if buf then b.rb else none) with
    | some r => leBytes 2 (b.hid + 2 ^ 11) ++ leBytes 4 (r.off % 2 ^ 23) ++ leBytes 4 0 ++ dimsBytes r.e ++ leBytes 2 0
    | none => leBytes 2 (b.hid + 2 ^ 10 * b.acc.toNat) ++ dimsBytes b.o ++ dimsBytes b.e ++ leBytes 2 0

def dimsOf (v : Nat) : Dims :=
  { x0 := bitsOf v 0 16, x1 := bitsOf v 16 16, x2 := bitsOf v 32 16, x3 := bitsOf v 48 16 }

/-- A resolved box from its 20 bytes, if its valid bit is set. -/
def boxOfImage (valid : Bool) (bs : List Byte) : Option RBox :=
  if !valid then none
  else
    let h := leNat (bs.take 2)
    let v := leNat (bs.drop 2)
    if h / 2 ^ 11 % 2 = 1 then
      some { hid := h % 1024, rb := some { off := bitsOf v 0 23, o := {}, e := dimsOf (v / 2 ^ 64) }, e := dimsOf (v / 2 ^ 64) }
    else some { acc := h / 2 ^ 10 % 2 == 1, hid := h % 1024, o := dimsOf v, e := dimsOf (v / 2 ^ 64) }

/-- The state byte of R283. -/
def stateByte (e : Entry) : Nat :=
  (match e.state with
    | .pending => 1 | .ready => 2 | .running => 3 | .stopped => 4 | .faulted => 5 | .draining => 6 | .committing => 7)
    + 128 * e.fold.toNat + 64 * e.remote.toNat

/-- A window entry, 128 bytes. -/
def entryImage (e : Entry) : List Byte :=
  leBytes 32 e.record.toNat ++ boxImage true e.boxes.w ++ boxImage e.fold e.boxes.a ++ boxImage false e.boxes.b
    ++ boxImage false e.boxes.c
    ++ leBytes 1 (stateByte e) ++ leBytes 1 e.flags.toNat ++ leBytes 2 0 ++ leBytes 4 e.index ++ leBytes 8 e.seq

/-- A box register, 32 bytes. -/
def boxRegImage (b : BoxReg) : List Byte :=
  dimsBytes b.o ++ dimsBytes b.e ++ dimsBytes b.s ++ leBytes 2 (b.hid + 2 ^ 14 * b.acc.toNat + 2 ^ 15 * b.bv.toNat)
    ++ leBytes 6 0

def boxRegOf (bs : List Byte) : BoxReg :=
  let v := leNat bs
  let h := bitsOf v 192 16
  { bv := h / 2 ^ 15 % 2 == 1, acc := h / 2 ^ 14 % 2 == 1, hid := h % 1024
    o := dimsOf v, e := dimsOf (v / 2 ^ 64), s := dimsOf (v / 2 ^ 128) }

/-- Entries in post-sequence order. -/
def insertSeq (e : Entry) : List Entry → List Entry
  | [] => [e]
  | x :: t => if e.seq < x.seq then e :: x :: t else x :: insertSeq e t

def bySeq (es : List Entry) : List Entry := es.foldr insertSeq []

end Sys2Proof.Machine
end

