-- ==== Sys2Proof/Machine/Walk.lean ====
section
/-! DEFINITION. Physical addresses, their homes and routes (spec/14_die.md R287, spec/16_package.md R305, R306), the
fault-address queues (R298), segments (spec/13_cluster.md R265) and the page walk (spec/14_die.md R291, R292). -/

namespace Sys2Proof.Machine

/-! ### Homes and routes -/

/-- The key of a byte: node x 2^48 + physical address. -/
def memKey (node pa : Nat) : Nat := node * 2 ^ 48 + pa

def ownNode (s : State) : Nat := s.sys.nodeid.toNat
def ownCore (s : State) : Nat := s.sys.coreid.toNat
def ownDie (s : State) : Nat := ownCore s / 128

/-- The line of a key (R288). -/
def lineOf (k : Nat) : Nat := k / 64 * 64

/-- A line of the pod is poisoned (R289). -/
def poisonedAt (s : State) (key : Nat) : Bool := s.mem.poison.contains (lineOf key)

/-- Some line of the bytes from a key is poisoned. -/
def poisonedRange (s : State) (key n : Nat) : Bool :=
  n ≠ 0 && s.mem.poison.any (fun l => decide (l < key + n) && decide (key < l + 64))

/-- The die that owns a stack (R6, R305). -/
def ownerDie (s : State) (stk : Nat) : Nat :=
  if s.pkg.own.getLsbD stk then (stk / 2 + 1) % 4 else stk / 2

/-- The home die of a physical address (R287). -/
def homeDie (s : State) (pa : Nat) : Nat := ownerDie s (pa / 2 ^ 36 % 8)

/-- A path along the ring from die `a`, `n` links in the increasing direction, over working links. -/
def ringUp (s : State) (a : Nat) : Nat → Bool
  | 0 => true
  | n + 1 => !s.pkg.ddl.getLsbD (a % 4) && ringUp s (a + 1) n

/-- The die-to-die ring has a working route between two dies (R306). -/
def routed (s : State) (a b : Nat) : Bool :=
  let n := (b + 4 - a) % 4
  ringUp s a n || ringUp s b (4 - n)

/-- The request of this core for a physical address reaches its home (R306). -/
def reachesHome (s : State) (pa : Nat) : Bool := routed s (ownDie s) (homeDie s pa)

/-- A hand-over of the stack of a physical address is under way: its requests are held (R308, R309). -/
def ridgingAt (s : State) (pa : Nat) : Bool := s.pkg.ridging.getLsbD (pa / 2 ^ 36 % 8)

/-! ### Power states and the stack controllers (R290, R314) -/

/-- A request for a physical address ends the self-refresh of its stack and the rail retention of its home die (R314). -/
def wakeAt (pa : Nat) (s : State) : State :=
  { s with pkg := { s.pkg with gated := s.pkg.gated.filter (fun g => match g with
      | .clockGated _ => true
      | .retention d => d.val != homeDie s pa
      | .selfRefresh k => k.val != pa / 2 ^ 36 % 8) } }

/-- A management packet ends every power state (R314). -/
def wakeAll (s : State) : State := { s with pkg := { s.pkg with gated := [] } }

/-- A request for a die ends its rail retention (R314). -/
def wakeDie (d : Nat) (s : State) : State :=
  { s with pkg := { s.pkg with gated := s.pkg.gated.filter (fun g => match g with
      | .retention k => k.val != d
      | _ => true) } }

/-- The source number of background copy (R290). -/
def background : Fin 15 := 14

/-- A request from die `a` to another die `b` goes the increasing way: the shorter one, or with two links each way the increasing one,
unless a link of that way is down (R288, R306). -/
def goesUpRing (s : State) (a b : Nat) : Bool :=
  let n := (b + 4 - a) % 4
  if n ≤ 2 then ringUp s a n else !ringUp s b (4 - n)

/-- The source number of a core's request at the controllers of a home die: its cluster there, or the die-to-die ingress by which
it comes in. -/
def coreSource (s : State) (core pa : Nat) : Fin 15 :=
  if core / 128 = homeDie s pa then Fin.ofNat 15 (core / 16 % 8 % 6)
  else if goesUpRing s (core / 128) (homeDie s pa) then 12 else 13

/-- The source number of this core's requests. -/
def clusterSource (s : State) (pa : Nat) : Fin 15 := coreSource s (ownCore s) pa

/-- A request whose line the die cache does not hold as dirty waits at its stack's controller; accesses of one source to one line, one
straight after the other, are one request (DEDUCED, log entry 40). The cache holds no clean line here, and a dirty one leaves at a
hand-over alone: R288 says neither which clean lines stay nor when one is evicted (DESIGN CHOICE, log entry 40). -/
def toController (src : Fin 15) (pa : Nat) (s : State) : State :=
  let k : Fin 8 := Fin.ofNat 8 (pa / 2 ^ 36)
  let c := s.mem.mc[k]
  let r : McReq := { src := src, line := lineOf pa }
  if s.mem.dirty.contains (lineOf (memKey (ownNode s) pa)) || c.waiting.getLast? == some r then s
  else { s with mem := { s.mem with mc := s.mem.mc.set k { c with waiting := c.waiting ++ [r] } } }

/-- A request of this core for a physical address: it wakes its home, and waits at the controller of its stack. -/
def requestAt (pa : Nat) (s : State) : State := toController (clusterSource s pa) pa (wakeAt pa s)

/-! ### Fault-address queues (R289, R298) -/

/-- Append to a die's fault-address queue, or count an overflow (R298). -/
def faqAppend (die : Nat) (kind : BitVec 3) (core : BitVec 9) (pa : Nat) (s : State) : State :=
  let d : Fin 4 := Fin.ofNat 4 die
  let q := s.mem.faq[d]
  let q' : Faq :=
    if q.entries.length < 256 then
      { q with entries := q.entries ++ [{ kind := kind, core := core, pa := pa / 64 * 64 % 2 ^ 48, time := s.pkg.time }] }
    else { q with overflow := q.overflow + 1 }
  { s with mem := { s.mem with faq := s.mem.faq.set d q' } }

/-- The two doublewords of an entry (R298), as the driver reads them. -/
def faqWords (e : FaqEntry) : Word × Word :=
  (BitVec.ofNat 64 (2 ^ 63 + e.kind.toNat * 2 ^ 60 + e.core.toNat * 2 ^ 48 + e.pa), e.time)

/-- A consumption of a poisoned line of this package by this core (R289). -/
def consumed (engine : Bool) (pa : Nat) (s : State) : State :=
  faqAppend (homeDie s pa) (if engine then 1 else 0) s.sys.coreid pa s

/-! ### Segments -/

def segV (e : SegEntry) : Bool := e.d0.getLsbD 0
def segR (e : SegEntry) : Bool := e.d0.getLsbD 1
def segW (e : SegEntry) : Bool := e.d0.getLsbD 2
def segPg (e : SegEntry) : Bool := e.d0.getLsbD 3
def segVbase (e : SegEntry) : Nat := bitsOf e.d0.toNat 15 36 * 2 ^ 15
def segLen (e : SegEntry) : Nat := bitsOf e.d1.toNat 15 37 * 2 ^ 15
def segRn (e : SegEntry) : Bool := e.d2.getLsbD 63
def segNode (e : SegEntry) : Nat := bitsOf e.d2.toNat 48 12
def segPbase (e : SegEntry) : Nat := bitsOf e.d2.toNat 15 33 * 2 ^ 15

def segTable (s : State) (asid : BitVec 13) : List (Nat × SegEntry) := tget [] s.mem.segs asid.toNat

/-- The valid entry whose range holds an address. -/
def segFind (s : State) (asid : BitVec 13) (va : Nat) : Option SegEntry :=
  ((segTable s asid).find? (fun e => segV e.2 && decide (segVbase e.2 ≤ va) && decide (va < segVbase e.2 + segLen e.2))).map
    Prod.snd

/-- The entry with a segment number, if valid. -/
def segNumber (s : State) (asid : BitVec 13) (n : Nat) : Option SegEntry :=
  ((segTable s asid).find? (fun e => e.1 == n && segV e.2)).map Prod.snd

/-! ### The page walk (R291, R292) -/

def pteP (e : Nat) : Bool := bitsOf e 63 1 == 1
def pteLeaf (e : Nat) : Bool := bitsOf e 62 1 == 1
def pteW (e : Nat) : Bool := bitsOf e 61 1 == 1
def pteMig (e : Nat) : Bool := bitsOf e 60 1 == 1
def pteSw (e : Nat) : Bool := bitsOf e 59 1 == 1
def pteD (e : Nat) : Bool := bitsOf e 58 1 == 1
def pteAddr (e : Nat) : Nat := bitsOf e 15 33 * 2 ^ 15

/-- A reserved bit of an entry is set; in a non-leaf entry W, MIG, SW and D are reserved. -/
def pteBad (e : Nat) : Bool :=
  bitsOf e 48 10 != 0 || bitsOf e 0 15 != 0 || (!pteLeaf e && bitsOf e 58 4 != 0)

/-- A leaf that a walk found: the entry's address and value, the page's size and base. -/
structure Leaf where
  at_ : Nat
  pte : Nat
  size : Nat
  base : Nat
  deriving DecidableEq, Repr

/-- What a walk finds: a leaf; or a cause, with the poisoned line of a table for UE. -/
inductive Walk where
  | leaf (l : Leaf)
  | bad (c : Cause) (line : Option Nat)

/-- The walk from level l (of 3, 2, 1 levels left). Each table read is an ordinary read at the table's home (R292): its address
must exist (R287), its home be reachable (R306) and its line be good (R289). -/
def walkFrom (s : State) (va : Nat) : Nat → Nat → Walk
  | 0, _ => .bad .page none
  | n + 1, t =>
    let lo := 15 + 12 * n
    let a := t + 8 * bitsOf va lo 12
    let e := readLe s.mem.mem (memKey (ownNode s) a) 8
    if 2 ^ 39 ≤ a then .bad .seg none
    else if !reachesHome s a then .bad .owner none
    else if poisonedAt s (memKey (ownNode s) a) then .bad .ue (some a)
    else if !pteP e || pteBad e then .bad .page none
    else if pteLeaf e then
      if pteAddr e % 2 ^ lo ≠ 0 then .bad .page none else .leaf { at_ := a, pte := e, size := 2 ^ lo, base := pteAddr e }
    else walkFrom s va n (pteAddr e)

/-- The walk of an address of a pageable segment. -/
def walkSeg (s : State) (e : SegEntry) (va : Nat) : Walk := walkFrom s va 3 (segPbase e)

/-- The leaf that a walk finds. -/
def walk (s : State) (e : SegEntry) (va : Nat) : Option Leaf :=
  match walkSeg s e va with
  | .leaf l => some l
  | .bad _ _ => none

/-- What the walk of a page of a pageable segment of an ASID finds. -/
def pageWalkOf (s : State) (asid : BitVec 13) (va : Nat) : Walk :=
  match segFind s asid va with
  | some e => if segPg e && !segRn e then walkSeg s e va else .bad .page none
  | none => .bad .page none

/-- What the walk of a page of a pageable segment of the program finds. -/
def pageWalk (s : State) (va : Nat) : Walk := pageWalkOf s s.sys.asid va

/-- The leaf that maps a page of a pageable segment of the program. -/
def pageLeaf (s : State) (va : Nat) : Option Leaf :=
  match pageWalk s va with
  | .leaf l => some l
  | .bad _ _ => none

/-- The physical address that a leaf gives a virtual one. -/
def leafPa (l : Leaf) (va : Nat) : Nat := l.base + va % l.size

/-- A table read of the walk of an address, from level l on, goes to a stack whose hand-over is under way. -/
def walkRidges (s : State) (va : Nat) : Nat → Nat → Bool
  | 0, _ => false
  | n + 1, t =>
    let a := t + 8 * bitsOf va (15 + 12 * n) 12
    let e := readLe s.mem.mem (memKey (ownNode s) a) 8
    ridgingAt s a || (pteP e && !pteBad e && !pteLeaf e && walkRidges s va n (pteAddr e))

/-- A table read of an address of the running program goes to a stack whose hand-over is under way. -/
def tablesRidge (s : State) (va : Nat) : Bool :=
  match segFind s s.sys.asid va with
  | some e => segPg e && walkRidges s va 3 (segPbase e)
  | none => false

/-- An access to a virtual address, at physical address `pa`, goes to a stack whose hand-over is under way: itself, or by its tables
(R309). -/
def pathRidges (s : State) (va pa : Nat) : Bool := s.pkg.ridging != 0 && (ridgingAt s pa || tablesRidge s va)

/-- The addresses of the table entries that a walk reads, from level l on, as far as it goes. -/
def walkReads (s : State) (va : Nat) : Nat → Nat → List Nat
  | 0, _ => []
  | n + 1, t =>
    let a := t + 8 * bitsOf va (15 + 12 * n) 12
    let e := readLe s.mem.mem (memKey (ownNode s) a) 8
    if 2 ^ 39 ≤ a || !reachesHome s a then []
    else if poisonedAt s (memKey (ownNode s) a) || !pteP e || pteBad e || pteLeaf e then [a]
    else a :: walkReads s va n (pteAddr e)

/-- Requests for a list of addresses (R290, R314). -/
def requestsAt (l : List Nat) (s : State) : State := l.foldl (fun s a => requestAt a s) s

/-- The table reads of a walk in a segment are requests at the tables' homes (R290, R292, R314). -/
def tableRequests (e : SegEntry) (va : Nat) (s : State) : State :=
  if segPg e then requestsAt (walkReads s va 3 (segPbase e)) s else s

/-- The requests of a walk of the page tables for an address of the running program. -/
def pageRequestsAt (va : Nat) (s : State) : State :=
  match segFind s s.sys.asid va with
  | some e => tableRequests e va s
  | none => s

/-- The entry of a buffer that maps an address of an ASID. -/
def tlbFind (l : List Tlb) (asid : BitVec 13) (va : Nat) : Option Tlb :=
  l.find? (fun t => t.asid == asid && decide (t.va ≤ va) && decide (va < t.va + t.size))

/-- Write access (R120). -/
def kindWrites (kind : Nat) : Bool := kind == 1 || kind == 2 || kind == 4
/-- Read access: every kind but a store. -/
def kindReads (kind : Nat) : Bool := kind != 1 && kind != 4

/-- The segment gives the right for an access (R120). -/
def segAllows (e : SegEntry) (kind : Nat) : Bool :=
  !segRn e && (!kindReads kind || segR e) && (!kindWrites kind || segW e)

/-- The segment in which an access of the running program walks: its rights allow the access, it is pageable, and no buffer that the
access asks holds the page (R120, R266). An access of the strand asks its own buffer first. -/
def walksIn (strand : Bool) (kind va : Nat) (s : State) : Option SegEntry :=
  (segFind s s.sys.asid va).filter (fun e =>
    decide (va < 2 ^ 51) && segAllows e kind && segPg e && !(strand && (tlbFind s.mem.tlb s.sys.asid va).isSome) &&
      (tlbFind s.mem.mapCache s.sys.asid va).isNone)

/-- The requests of the walk of an access whose address check met a cause (R290, R314). -/
def missRequests (strand : Bool) (kind va : Nat) (s : State) : State :=
  match walksIn strand kind va s with
  | some e => tableRequests e va s
  | none => s

/-- The walk of an access is held: a table that it reads stands in a stack whose hand-over is under way (R309). -/
def walkHeld (strand : Bool) (kind va : Nat) (s : State) : Bool :=
  s.pkg.ridging != 0 && (match walksIn strand kind va s with
    | some e => walkRidges s va 3 (segPbase e)
    | none => false)

/-- The poisoned table line that the walk of an address of the running program meets. -/
def walkPoison (s : State) (va : Nat) : Option Nat :=
  match segFind s s.sys.asid va with
  | some e =>
    if segPg e then (match walkSeg s e va with | .bad _ line => line | .leaf _ => none) else none
  | none => none

/-- The poisoned table line that an access consumes in its walk gets its entry of the fault-address queue (R289). -/
def tableConsumed (engine : Bool) (c : Cause) (va : Nat) (s : State) : State :=
  match c, walkPoison s va with
  | .ue, some pa => consumed engine pa s
  | _, _ => s

end Sys2Proof.Machine
end

