-- ==== Sys2Proof/Machine/Ops.lean ====
section
/-! DEFINITION. The shared operations of issue: the trace, taking a trap (spec/06_strand_memory_system.md R137), the end
of a launch in error, hardware loops, shadow slots, repeats, and what completes or stalls an instruction
(spec/04_strand.md R78 to R87). -/

namespace Sys2Proof.Machine

/-- The outcome type of every meaning. -/
abbrev Out := Host.Outcome State Fault Refusal

/-- A cause raised by an instruction (R73, R136): its INFO, FADDR if it sets one, and SRC. -/
structure Trap where
  cause : Cause
  info : BitVec 32 := 0
  faddr : Option Word := none
  src : BitVec 3 := 0
  /-- the physical address of a poisoned line that it consumed (R289) -/
  line : Option Nat := none
  /-- an access of the strand met it in its address check: through the strand's own buffer, or through the map unit -/
  access : Option Bool := none
  deriving DecidableEq, Repr

/-- What an instruction does when it issues: it completes and control goes on behind it; it completes and has set the pc
itself; it stalls, unissued; it traps. -/
inductive Res where
  | done (s : State)
  | jump (s : State)
  | stall (s : State)
  | trap (t : Trap)
  /-- a trap behind accesses that have been translated, and have asked for their tables, in `s` -/
  | trapIn (t : Trap) (s : State)

/-! ### Scratchpad and the trace (R281, R282) -/

/-- Write a byte string into the scratchpad; bytes beyond 6 MiB do not exist (R148). -/
def putSpad (s : State) (off : Nat) (bs : List Byte) : State :=
  { s with store := { s.store with spad := setBytes s.store.spad off (bs.take (Config.spadBytes - off)) } }

def traceOn (s : State) : Bool := s.sys.traceb.getLsbD 63

/-- One 64-byte unit into the ring. -/
def traceUnit (bs : List Byte) (s : State) : State :=
  let len := max 1 (bitsOf s.sys.traceb.toNat 32 16)
  let off := bitsOf s.sys.traceb.toNat 6 17 * 64
  let s' := putSpad s (off + s.prof.unitNo % len * 64) (bs.take 64)
  { s' with prof := { s'.prof with unitNo := s.prof.unitNo + 1 } }

/-- A byte string cut into 64-byte units, written one after another; `n` is the number of units. -/
def traceUnits : Nat → List Byte → State → State
  | 0, _, s => s
  | n + 1, bs, s => traceUnits n (bs.drop 64) (traceUnit bs s)

/-- A trace record: header and body (R282). `dw3` names the loop, `dw4` to `dw6` are by kind. -/
def traceRecord (kind tag : Nat) (dw3 dw4 dw5 dw6 : Nat) (n : Nat) (body : List Byte) (s : State) : State :=
  let h := leBytes 8 (s.prof.recNo.toNat + 2 ^ 32 * (n % 2 ^ 16) + 2 ^ 48 * tag + 2 ^ 56 * kind)
    ++ leBytes 8 s.pkg.time.toNat ++ leBytes 8 s.strand.icount.toNat ++ leBytes 8 dw3 ++ leBytes 8 dw4
    ++ leBytes 8 dw5 ++ leBytes 8 dw6 ++ leBytes 8 0
  let s' := traceUnits n body (traceUnit h s)
  { s' with prof := { s'.prof with recNo := s.prof.recNo + 1 } }

/-- The cycles waited since the matrix was last looked at are added to its counts, which saturate (R279): free values
(DESIGN CHOICE, log entry 8). -/
def countConflicts (s : State) : State :=
  let m := (List.range 640).foldl (fun m i =>
    tset 0 m i (BitVec.ofNat 24 (min (2 ^ 24 - 1)
      ((tget 0 m i).toNat + (Config.conflictCount s.freeCount (i / 64) (i % 64)).toNat)))) s.prof.conflicts
  { s with freeCount := s.freeCount + 1, prof := { s.prof with conflicts := m } }

/-- The 30 units of a snapshot (R280). -/
def snapBody (m : Table (BitVec 24)) : List Byte := (List.range 640).flatMap (fun i => leBytes 3 (tget 0 m i).toNat)

/-- The matrix is reset, and the units of the snapshot are being written (R279, R280). -/
def snapTaken (s : State) : State := { s with prof := { s.prof with conflicts := [], busy := true } }

/-- Write a record with a snapshot: the matrix is reset in that cycle and the units are written behind it (R280). -/
def writeSnap (r : SnapReq) (s : State) : State :=
  let s := countConflicts s
  snapTaken (traceRecord r.kind r.tag r.dw3 r.dw4 0 0 30 (snapBody s.prof.conflicts) s)

/-- A snapshot happens. A second one of the same word waits until the first is written (R280; DEDUCED, log entry 40). -/
def traceSnap (kind tag dw3 dw4 : Nat) (s : State) : State :=
  let r : SnapReq := { kind := kind, tag := tag, dw3 := dw3, dw4 := dw4 }
  let s := { s with prof := { s.prof with snaps := s.prof.snaps + 1 } }
  if s.prof.busy then { s with prof := { s.prof with queued := s.prof.queued ++ [r] } } else writeSnap r s

/-! ### Hardware loops (R80 to R84) -/

/-- The active loops, innermost first (R80 NEST). R80 gives DEPTH 0 to 4 and NEST four ids: of the depths 5 to 7, which only an MTS to
EXSTAT can write, the loops beyond the fourth count as id 0 (DESIGN CHOICE, log entry 40). -/
def activeLoops (x : Xstat) : List LoopId :=
  (List.range x.depth.toNat).map (fun i => Fin.ofNat 4 (x.nest.toNat / 4 ^ i))

def innermost (x : Xstat) : LoopId := Fin.ofNat 4 x.nest.toNat

def loopActive (s : State) (l : LoopId) : Bool := (activeLoops s.strand.xstat).contains l

def isPipe (x : Xstat) (l : LoopId) : Bool := x.pipe && x.pid.toNat == l.val

/-- Stages of a loop: STG + 1 for the active LOOPS, else 1. -/
def stagesOf (x : Xstat) (l : LoopId) : Nat := if isPipe x l then x.stg.toNat + 1 else 1

/-- The trip count of a loop: count for LOOP, count + stages - 1 for LOOPS (R82 step 5). -/
def loopTotal (s : State) (l : LoopId) : Nat := (getLc s l).cnt.toNat + stagesOf s.strand.xstat l - 1

/-- The stage predicates of kernel iteration j (R83). -/
def stageBits (count stages j : Nat) : BitVec 8 :=
  BitVec.ofNat 8 ((List.range 8).foldl (fun q i => if i < stages ∧ i ≤ j ∧ j - i < count then q + 2 ^ i else q) 0)

/-- Doubleword 3 of a trace header: the loop named, or zero (R282). Q and STG are 0 where the loop named is a plain LOOP: R282 calls
them the stage predicates of the iteration, and a LOOP has none (DESIGN CHOICE, log entry 40). -/
def loopDw (s : State) (l : Option LoopId) (depthAfter : Nat) : Nat :=
  match l with
  | none => 0
  | some l =>
    let x := s.strand.xstat
    2 ^ 15 * depthAfter + 2 ^ 18 * (isPipe x l).toNat + 2 ^ 19 * l.val
      + (if isPipe x l then 2 ^ 21 * x.stg.toNat + 2 ^ 24 * x.q.toNat else 0) + 2 ^ 32 * (getLc s l).j.toNat

/-- A snapshot of a loop that has ended. One left while the strand runs ahead happens at the commit, and never after a squash, which
changes no state visible outside the strand (R280, R365; DEDUCED, log entry 40). -/
def exitSnap (dw3 how : Nat) (s : State) : State :=
  if s.sys.spec then
    { s with grp := { s.grp with heldSnaps := s.grp.heldSnaps ++ [{ kind := 2, tag := 0, dw3 := dw3, dw4 := how }] } }
  else traceSnap 2 0 dw3 how s

/-- The innermost loop ends (R114): `how` 0 completed, 1 LBRK, 2 transfer out; its register keeps its values (R81). -/
def endLoop (how : Nat) (s : State) : State :=
  let x := s.strand.xstat
  let l := innermost x
  let x' : Xstat := { x with depth := x.depth - 1, nest := x.nest >>> 2 }
  let x'' : Xstat := if isPipe x l then { x' with pipe := false, q := 0, stg := 0, pid := 0 } else x'
  let s' := withXstat s x''
  if traceOn s && s.sys.traceb.getLsbD (56 + l.val) then
    exitSnap (loopDw s (some l) (x.depth.toNat - 1)) how s'
  else s'

/-- The next iteration of a loop: J advances, the predicates follow, control goes to the first word. -/
def loopBack (l : LoopId) (s : State) : State :=
  let r := getLc s l
  let j := r.j + 1
  let s := setLc s l { r with j := j }
  let x := s.strand.xstat
  let s := if isPipe x l then withXstat s { x with q := stageBits r.cnt.toNat (x.stg.toNat + 1) j.toNat } else s
  let s := withPc s (getBounds s l).first
  { s with strand := { s.strand with iterEnd := isPipe x l } }

/-- Control behind a completed word whose last address is `last` (R82 step 6): loop back, end loops, or go on. -/
def afterWord : Nat → BitVec 32 → State → State
  | 0, last, s => withPc s (last + 1)
  | n + 1, last, s =>
    let l := innermost s.strand.xstat
    if s.strand.xstat.depth ≠ 0 ∧ (getBounds s l).last = last then
      if (getLc s l).j.toNat + 1 < loopTotal s l then loopBack l s else afterWord n last (endLoop 0 s)
    else withPc s (last + 1)

/-- The body of the innermost loop holds the address. -/
def inBody (b : Bounds) (a : BitVec 32) : Bool := b.first.ule a && a.ule b.last

/-- A taken transfer (R84): loops whose body does not hold the target end. -/
def transferTo (how : Nat) : Nat → BitVec 32 → State → State
  | 0, t, s => withPc s t
  | n + 1, t, s =>
    if s.strand.xstat.depth ≠ 0 ∧ inBody (getBounds s (innermost s.strand.xstat)) t = false then
      transferTo how n t (endLoop how s)
    else withPc s t

/-- End loops up to and with loop `l` (R84 LBRK). -/
def endLoopsTo : Nat → LoopId → State → State
  | 0, _, s => s
  | n + 1, l, s =>
    if s.strand.xstat.depth = 0 then s
    else if innermost s.strand.xstat = l then endLoop 1 s
    else endLoopsTo n l (endLoop 1 s)

/-- The checkpoint of a collective branch, and running ahead on the path of its hint (R359, R361). -/
def runAhead (p : Pend) (hint : Bool) (inst : BitVec 32) (last : BitVec 32) (s : State) : State :=
  let st := s.strand
  let cp : Checkpoint :=
    { g := st.g, c := st.c, tb := st.tb, lc := st.lc, xstat := st.xstat, bounds := st.bounds, ras := st.ras
      boxes := s.store.boxes, inst := inst, hint := hint, target := p.target, fall := p.fall }
  let s := { s with grp := { s.grp with spec := some cp }, sys := { s.sys with spec := true } }
  if hint then transferTo 2 4 p.target s else afterWord 4 last s

/-- The pending transfer completes behind its shadow slot, whose last word is `last` (R79, R110, R359). -/
def completeSlot (p : Pend) (last : BitVec 32) (s : State) : State :=
  match p.kind with
  | .xfer | .cbrKnown => if p.taken then transferTo 2 4 p.target s else afterWord 4 last s
  | .lbrk l => if p.taken then transferTo 2 4 p.target (endLoopsTo 4 l s) else afterWord 4 last s
  | .cbrOpen hint inst => runAhead p hint inst last s

/-- What an instruction leaves behind in the issue state: it is no longer stalled. -/
def clearIssue (s : State) : State :=
  { s with strand := { s.strand with
      stalled := false, asleep := false, iterEnd := false, xstat := { s.strand.xstat with repk := 0 } } }

def addCount (n : BitVec 64) (s : State) : State :=
  { s with strand := { s.strand with icount := s.strand.icount + n } }

/-- The address of the last word of the instruction that issues: the repeated word stands behind its REP. -/
def lastWord (s : State) (size : BitVec 32) : BitVec 32 :=
  if s.strand.rep.isSome then s.strand.pc + 1 else s.strand.pc + (size - 1)

/-- Control behind a completed instruction of `size` words: the next repetition, the pending transfer, or the next
word (R79, R82, R87). -/
def goOn (size : BitVec 32) (s : State) : State :=
  let s := clearIssue s
  match s.strand.rep with
  | some r =>
    if r.k < r.n then { s with strand := { s.strand with rep := some { r with k := r.k + 1 } } }
    else afterWord 4 (s.strand.pc + 1) { s with strand := { s.strand with rep := none } }
  | none =>
    match s.strand.pend with
    | some p => completeSlot p (s.strand.pc + (size - 1)) { s with strand := { s.strand with pend := none } }
    | none => afterWord 4 (s.strand.pc + (size - 1)) s

/-- The count of R78: one for each instruction; the REP word is counted with its repetition 0. -/
def countOf (s : State) : BitVec 64 :=
  match s.strand.rep with
  | some r => if r.k = 0 then 2 else 1
  | none => 1

/-- Complete an instruction of `size` words. -/
def advance (size : BitVec 32) (s : State) : State := goOn size (addCount (countOf s) s)

/-- The address of the word that issues: a repeated word stands behind its REP. -/
def wordAt (s : State) : BitVec 32 := if s.strand.rep.isSome then s.strand.pc + 1 else s.strand.pc

/-- The word that issues stands in a segment of the active LOOPS whose predicate is false (R83). An inline POST whose nine words lie in
two segments goes by the segment of its first word (R65 and R83 give no other; DESIGN CHOICE, log entry 40). -/
def inactiveWord (s : State) : Bool :=
  let x := s.strand.xstat
  let l : LoopId := Fin.ofNat 4 x.pid.toNat
  let b := getBounds s l
  x.pipe && inBody b (wordAt s) &&
    let len := b.last.toNat + 1 - b.first.toNat
    let seg := max 1 (len / (x.stg.toNat + 1))
    let stage := x.stg.toNat - ((wordAt s).toNat - b.first.toNat) / seg
    !x.q.getLsbD stage

/-- What a word of an inactive segment counts: nothing, but the REP of an active segment before it counts once (R78, R83). -/
def inactiveCount (s : State) : BitVec 64 :=
  match s.strand.rep with
  | some r => if r.k = 0 then 1 else 0
  | none => 0

/-! ### Taking a trap -/

/-- A cut (R174): the lowest post sequence number of an engine's entries that are not yet done, or the next number. -/
def cutOf (s : State) (g : Engine) : Nat :=
  (s.thatch.entries.filter (fun e => !e.done && entryEng e == g)).foldl (fun m e => min m e.seq) s.thatch.nextSeq

/-- A record runs in some engine. -/
def engineRuns (s : State) : Bool := s.thatch.entries.any (fun e => e.state == .running)

/-- The cut record that trap entry writes, from the CAUSE just written (R137, R174). -/
def cutRecord (recSeq : Option Nat) (s : State) : State :=
  if s.sys.tcut.getLsbD 63 then
    putSpad { s with thatch := { s.thatch with stopped := true } } (bitsOf s.sys.tcut.toNat 6 17 * 64)
      (leBytes 8 s.strand.icount.toNat ++ leBytes 8 (cutOf s .m) ++ leBytes 8 (cutOf s .v) ++ leBytes 8 (cutOf s .x)
        ++ leBytes 8 (cutOf s .c) ++ leBytes 8 (cutOf s .f)
        ++ leBytes 8 (match recSeq with | some q => q | none => 2 ^ 64 - 1)
        ++ leBytes 8 (causeWord s.sys.cause).toNat)
  else s

/-- The owner bit of a stack flips, and its cache lines are gone (steps 3, 5 and 6 of R308). -/
def handOver (k : BitVec 3) (s : State) : State :=
  let bit := BitVec.ofNat 8 (2 ^ k.toNat)
  let here (key : Nat) : Bool := key / 2 ^ 48 == ownNode s && key % 2 ^ 48 / 2 ^ 36 % 8 == k.toNat
  { s with
    strand := { s.strand with ridgeWait := none }
    mem := { s.mem with dirty := s.mem.dirty.filter (fun l => !here l) }
    pkg := { s.pkg with own := s.pkg.own ^^^ bit, ridging := s.pkg.ridging &&& ~~~bit } }

/-- A hand-over that the strand's RIDGE has begun runs to its end without it (R308, R309). -/
def endHandOver (s : State) : State :=
  match s.strand.ridgeWait with
  | some k => handOver k s
  | none => s

/-- The launch ends: nothing of it stays in the window, the replay queue or the hold buffer (R294; DEDUCED, log entry 12). A
hand-over under way is completed. -/
def endLaunch (r : Run) (c : Completion) (s : State) : State :=
  let s := endHandOver s
  { s with
    strand := { s.strand with run := r, stalled := false, asleep := false, loads := [], copies := [] }
    thatch := { s.thatch with entries := [], dir := [], stopped := false, async := [], wire := 0, trapDue := none }
    mem := { s.mem with replay := [], sweeps := s.mem.sweeps.filter (fun w => w.asid != s.sys.asid) }
    grp := { s.grp with
      hold := [], issuing := [], spec := none, cbrx := none, openAt := [], stepAt := [], told := [], heldSnaps := [] }
    sys := { s.sys with spec := false, pp := false }
    pkg := { s.pkg with launch := none, completions := s.pkg.completions ++ [c], preemptBy := none, saving := false, debugReq := false } }

/-- A member whose launch ends in error causes an abort token with INFO = its GRPIX (R371). -/
def abortGroup (info : BitVec 32) (s : State) : State :=
  if s.sys.grpn = 0 then s
  else { s with grp := { s.grp with
    msgs := s.grp.msgs ++ [.abortUp { gid := s.sys.grpid, gen := s.grp.gen, info := info, step := s.sys.gstepStep }] } }

/-- A double trap (R139): the strand stops, and the launch ends in error (R317). -/
def doubleTrap (t : Trap) (s : State) : State :=
  let s := { s with sys := { s.sys with cause := { s.sys.cause with dbl := true, code := causeCode t.cause } } }
  abortGroup (s.sys.grpIx.setWidth 32)
    (endLaunch .error
      (.error (causeWord s.sys.cause) (s.sys.epc.setWidth 64) s.sys.tcut) s)

/-- The bounds of each active loop go to ELB0 to ELB3 (R134, R137). -/
def savedBounds (s : State) : Vector Bounds 4 :=
  (activeLoops s.strand.xstat).foldl (fun v (l : LoopId) => v.set l (getBounds s l)) s.sys.elb

/-- A collective branch whose shadow slot traps stays with the trap-saved state (DEDUCED, log entry 13): one still open as it is; one
whose result was known as a mark, since EXSTAT.XT and ETGT hold its effect, so that it is a collective branch again after ERET (R136). -/
def savedBranch (s : State) : Option Pend :=
  match s.strand.pend with
  | some p =>
    (match p.kind with
      | .cbrOpen _ _ => some p
      | .cbrKnown => some { p with kind := .xfer }
      | .xfer | .lbrk _ => none)
  | none => none

/-- ETGT at entry (R79, R136): the resolved target, or the fall-through address for a transfer not taken. -/
def savedTarget (s : State) : BitVec 32 :=
  match s.strand.pend with
  | some p => if p.taken then p.target else p.fall
  | none => s.sys.etgt

/-- A fabric record that is not stopped in the middle (R347). -/
def sendsOn (e : Entry) : Bool :=
  entryEng e == .f && recTask e.record != some .halo && recTask e.record != some .fred

/-- A running record stops at its index, or is aborted if it is restartable (R178, R284). -/
def stopEntry (e : Entry) : Entry :=
  if e.state = .running then
    if recRst e.record then
      { e with state := .pending, index := 0, work := none, buffered := [], flags := 0, priv := none, shadow := none, part := 0 }
    else { e with state := .stopped, work := none }
  else e

/-- Engines stop at an entry boundary or a progress index; fabric records other than F.HALO and F.RED send on. -/
def stopRunning (s : State) : State :=
  { s with thatch := { s.thatch with entries := s.thatch.entries.map (fun e => if sendsOn e then e else stopEntry e) } }

/-- The queues stop as SAVEQ stops them (R178, R284). -/
def stopQueues (s : State) : State := stopRunning { s with thatch := { s.thatch with stopped := true } }

/-- Semaphores named by occupied entries, rising (R284). -/
def viewSems (es : List Entry) : List Nat :=
  es.foldl (fun acc e =>
    let acc := if recWv e.record then sinsert (recWsem e.record) acc else acc
    if recSigv e.record then sinsert (recSigsem e.record) acc else acc) []

def viewSem (s : State) (n : Nat) : List Byte :=
  let adds := (s.thatch.entries.filter (fun e => recSigv e.record && recSigsem e.record == n)).map
    (fun e => recSigadd e.record)
  leBytes 8 (n + 2 ^ 32 * (getSem s n).toNat)
    ++ leBytes 8 (unsignedOf 32 adds.sum + 2 ^ 32 * adds.length)

/-- A BRK writes the debug view. -/
def viewOn (s : State) : Bool := traceOn s && s.sys.traceb.getLsbD 62

/-- A BRK whose entry writes the debug view first stops every engine queue as SAVEQ does (R284). -/
def stopForView (t : Trap) (s : State) : State := if t.cause = .brk ∧ viewOn s = true then stopQueues s else s

/-- The debug view: a kind 3 record (R282, R284), with the units of its snapshot behind its body (R280; DEDUCED, log entry 40). -/
def debugView (tag : Nat) (s : State) : State :=
  if viewOn s then
    let s := countConflicts s
    let es := bySeq s.thatch.entries
    let sems := viewSems es
    let body := es.flatMap entryImage ++ sems.flatMap (viewSem s)
    let x := s.sys.exstat
    let l := if x.depth = 0 then none else some (innermost x)
    let dw3 := loopDw { s with strand := { s.strand with xstat := x } } l x.depth.toNat
    let n := 2 * es.length + (sems.length + 3) / 4
    let s := traceRecord 3 tag dw3 (s.sys.epc.toNat) (causeWord s.sys.cause).toNat (es.length + 2 ^ 32 * sems.length)
      (n + 30) ((body ++ leBytes 48 0).take (64 * n) ++ snapBody s.prof.conflicts) s
    snapTaken { s with prof := { s.prof with snaps := s.prof.snaps + 1 } }
  else s

/-- The entry of a trap in one step (R137), synchronous or asynchronous: EPC, CAUSE, EXSTAT, the bounds, the level, the cut record,
and control at TVEC. A RESIDUE of the M engine reports a reduced array (R183, R196), not a mismatch, and leaves UNREC (R181,
R182). -/
def enterTrap (t : Trap) (async : Bool) (recSeq : Option Nat) (s : State) : State :=
  let c : CauseReg := { info := t.info, src := t.src, dbl := false, async := async, code := causeCode t.cause }
  let sys' : SysRegs := { s.sys with
    exstat := { xstatNow s with sk := false }
    elb := savedBounds s
    epc := s.strand.pc
    etgt := savedTarget s
    cause := c
    faddr := (match t.faddr with | some a => a | none => s.sys.faddr)
    ppl := s.sys.pl
    pl := true
    th := true
    unrec := if t.cause = .residue ∧ t.src ≠ 1 then satInc s.sys.unrec else s.sys.unrec }
  let x : Xstat := { s.strand.xstat with
    depth := 0, pipe := false, q := 0, repk := 0, xp := false, xt := false, sk := false }
  let strand' : Strand := { s.strand with
    xstat := x, pend := none, rep := none, cbrSaved := savedBranch s, stalled := false, asleep := false
    iterEnd := false, pc := s.sys.tvec }
  let s' := cutRecord recSeq { s with sys := sys', strand := strand', grp := { s.grp with heldWait := false } }
  if t.cause = .brk then debugView (t.info.toNat % 256) s' else s'

/-- What the cut record waits for is not over: a record runs, or an instruction below the count, a load, an atomic or a copy, has not
completed (R93, R174). A parked store is not waited for: its own cause may be the one taken (DEDUCED, log entry 38). -/
def belowRuns (s : State) : Bool := engineRuns s || !s.strand.loads.isEmpty || !s.strand.copies.isEmpty

/-- The cut record of the entry must wait: it is enabled, and an engine has not stopped yet or an earlier access is still to complete
(R174). -/
def cutWaits (s : State) : Bool := s.sys.tcut.getLsbD 63 && belowRuns s

/-- The queues stop, and the whole entry waits, at the stalled instruction, for the engines and the earlier accesses (R173, R174;
DEDUCED, log entry 38). -/
def deferTrap (t : Trap) (async : Bool) (recSeq : Option Nat) (s : State) : State :=
  { s with
    strand := { s.strand with stalled := true }
    thatch := { s.thatch with
      stopped := true
      trapDue := some { cause := t.cause, info := t.info, src := t.src, faddr := t.faddr, async := async, recSeq := recSeq } } }

/-- Taking a trap (R137, R139): a double trap, or the entry, at once or, for the cut record, when every engine has stopped; the queues of
a debug view stop first (R284). -/
def trapEntry (t : Trap) (async : Bool) (recSeq : Option Nat) (s : State) : State :=
  if s.sys.th then doubleTrap t s
  else
    let s := stopForView t s
    if cutWaits s then deferTrap t async recSeq s else enterTrap t async recSeq s

/-! ### Issue -/

def stallAt (s : State) : State := { s with strand := { s.strand with stalled := true } }

/-- A second snapshot while one is being written stalls the strand at its instruction (R280). -/
def snapGuard (old new : State) : State :=
  if old.prof.busy && new.prof.snaps != old.prof.snaps then stallAt old else new

/-- The debug view of a BRK waits while an earlier snapshot is being written (R280). -/
def viewWaits (t : Trap) (s : State) : Bool := t.cause == .brk && viewOn s && s.prof.busy && !s.sys.th

/-- An entry that waits is completed once every engine has stopped and every earlier access is complete (R174). -/
def completeTrap (s : State) : State :=
  match s.thatch.trapDue with
  | none => s
  | some d =>
    let t : Trap := { cause := d.cause, info := d.info, faddr := d.faddr, src := d.src }
    if belowRuns s || viewWaits t s then s
    else enterTrap t d.async d.recSeq { s with thatch := { s.thatch with trapDue := none } }

/-- The requests of an access that met its cause: the table reads of its walk, and the poisoned line that it read (R290, R314). -/
def walkedBy (t : Trap) (s : State) : State :=
  match t.access, t.faddr with
  | some own, some a =>
    let s := if t.cause = .align then s else missRequests own t.info.toNat a.toNat s
    (match t.line with | some pa => requestAt pa s | none => s)
  | _, _ => s

/-- What a synchronous cause leaves in the memory system: the requests of its walk, and, for the poisoned line of memory that a UE has
consumed, an entry of the fault-address queue (R289). -/
def consumedBy (t : Trap) (s : State) : State :=
  let s := walkedBy t s
  match t.cause, t.line, t.faddr with
  | .ue, some pa, _ => consumed false pa s
  | .ue, none, some a => (match walkPoison s a.toNat with | some pa => consumed false pa s | none => s)
  | _, _, _ => s

/-- The end of an issue: under speculation an instruction that would raise a cause stops and raises nothing (R362). -/
def finish (size : BitVec 32) (s : State) : Res → State
  | .done s' => snapGuard s (advance size s')
  | .jump s' => snapGuard s s'
  | .stall s' => stallAt s'
  | .trap t => if s.sys.spec || viewWaits t s then stallAt s else trapEntry t false none (consumedBy t s)
  | .trapIn t s' => if s.sys.spec || viewWaits t s then stallAt s else trapEntry t false none (consumedBy t s')

/-- The entries of a commit issue before any new instruction (R365). -/
def heldFirst (s : State) : Bool := !s.grp.issuing.isEmpty && s.grp.heldWait

/-- Issue an instruction of `size` words that reads or writes `regs`: a word of an inactive stage does nothing (R83), so a transfer there
opens no shadow slot, and the word behind it is refused for none (R65 does not say; DESIGN CHOICE, log entry 40);
held stores issue first (R365); an instruction that `stops` speculation stalls (R362), as does one whose registers are
pending (R78, R169); else it acts as `f` says. -/
def issue (regs : List Reg) (stops : Bool) (size : BitVec 32) (f : State → Res) (s : State) : Out :=
  .next <|
    if inactiveWord s then snapGuard s (goOn size (addCount (inactiveCount s) s))
    else if heldFirst s then stallAt s
    else if s.sys.spec && stops then stallAt s
    else if regs.any (regPending s) then stallAt s
    else finish size s (f s)

/-- A privileged operation at the user level traps PRIV (R64). -/
def privileged (f : State → Res) (s : State) : Res := if s.sys.pl then f s else .trap { cause := .priv }

/-- The word is the last word of a segment of an active loop's body (R65, R83). -/
def lastOfSegment (s : State) : Bool :=
  (activeLoops s.strand.xstat).any (fun l =>
    let b := getBounds s l
    let seg := max 1 ((b.last.toNat + 1 - b.first.toNat) / stagesOf s.strand.xstat l)
    inBody b s.strand.pc && (s.strand.pc.toNat + 1 - b.first.toNat) % seg == 0)

/-- The word is the last word of an active loop's body. -/
def lastOfBody (s : State) : Bool :=
  (activeLoops s.strand.xstat).any (fun l => (getBounds s l).last == s.strand.pc)

/-- A transfer in a shadow slot is ILLEGAL; in the last word of a segment it traps LOOP_SHAPE (R65, R83). -/
def transferPlace (f : State → Res) (s : State) : Res :=
  if s.strand.pend.isSome then .trap { cause := .illegal }
  else if lastOfSegment s then .trap { cause := .loopShape }
  else f s

/-- An inline POST whose nine words do not all lie in the body traps LOOP_SHAPE (R65). -/
def postLeavesBody (s : State) : Bool :=
  (activeLoops s.strand.xstat).any (fun l =>
    let b := getBounds s l
    inBody b s.strand.pc && !(s.strand.pc + 8).ule b.last)

/-- The word after `a` is an inline POST (R110). -/
def postAt (s : State) (a : BitVec 32) : Bool := tget 0 s.strand.text a.toNat == 0x98000000

/-- The address after the shadow slot (R79, R110). -/
def afterSlot (s : State) : BitVec 32 := s.strand.pc + (if postAt s (s.strand.pc + 1) then 10 else 2)

/-- A transfer has issued: it waits behind its shadow slot. -/
def pendTransfer (p : Pend) (s : State) : State :=
  let s := clearIssue (addCount 1 s)
  { s with strand := { s.strand with
      pend := some p, pc := s.strand.pc + 1, xstat := { s.strand.xstat with xt := false } } }

end Sys2Proof.Machine
end

