-- ==== Sys2Proof/Machine/Control.lean ====
section
/-! DEFINITION. Conditions, targets, transfers, hardware loops, the repeat prefix and the count queue
(spec/05_strand_integer_control.md R105 to R119, spec/04_strand.md R78 to R92). -/

namespace Sys2Proof.Machine

/-! ### Conditions -/

/-- CMP (R105). -/
def execCmp (c : Cond) (cc : Cmp) (a b : Reg) (s : State) : Out :=
  issue [a, b] false 1 (fun s => .done (setC s c (cmpHolds cc (getG s a) (getG s b)))) s

/-- CMPI (R105): the second operand is sext(IMM13, 13). -/
def execCmpi (c : Cond) (cc : Cmp) (a : Reg) (imm : BitVec 13) (s : State) : Out :=
  issue [a] false 1 (fun s => .done (setC s c (cmpHolds cc (getG s a) (sextW imm)))) s

/-- SEL (R106). -/
def execSel (d a b : Reg) (neg : Bool) (c : Cond) (s : State) : Out :=
  issue [d, a, b] false 1 (fun s => .done (setG s d (if getC s c != neg then getG s a else getG s b))) s

/-- A CND word (R107). -/
def cnd (op : Bool → Bool → Bool) (c x y : Cond) (s : State) : Out :=
  issue [] false 1 (fun s => .done (setC s c (op (getC s x) (getC s y)))) s

/-- CAND (R107). -/
def execCand (c x y : Cond) (s : State) : Out := cnd (fun p q => p && q) c x y s
/-- COR (R107). -/
def execCor (c x y : Cond) (s : State) : Out := cnd (fun p q => p || q) c x y s
/-- CXOR (R107). -/
def execCxor (c x y : Cond) (s : State) : Out := cnd (fun p q => p != q) c x y s
/-- CANDN (R107). -/
def execCandn (c x y : Cond) (s : State) : Out := cnd (fun p q => p && !q) c x y s

/-! ### Targets -/

/-- PTG (R108): relative to the PTG's own word address; it checks nothing. -/
def execPtg (t : Tb) (disp : BitVec 23) (s : State) : Out :=
  issue [] false 1 (fun s => .done (setTb s t (s.strand.pc + disp.signExtend 32))) s

/-- PTR (R109): nonzero upper bits trap SEG, FADDR holding g[A] (R136). INFO is 0: PTR makes no access, and R133 gives no kind (DESIGN
CHOICE, log entry 40). -/
def execPtr (t : Tb) (a : Reg) (s : State) : Out :=
  issue [a] false 1 (fun s =>
    if (getG s a).toNat < 2 ^ 32 then .done (setTb s t ((getG s a).setWidth 32))
    else .trap { cause := .seg, faddr := some (getG s a) }) s

/-! ### Transfers (R110) -/

/-- The pending transfer of a target buffer. -/
def pendTb (s : State) (t : Tb) (taken : Bool) : Pend :=
  { kind := .xfer, taken := taken, target := getTb s t, fall := afterSlot s }

/-- Issue a transfer: its placement (R65), then what it does at issue. -/
def transfer (f : State → Res) (s : State) : Out := issue [] false 1 (transferPlace f) s

/-- BR (R110). -/
def execBr (t : Tb) (s : State) : Out := transfer (fun s => .jump (pendTransfer (pendTb s t true) s)) s

/-- BRC (R110). -/
def execBrc (t : Tb) (c : Cond) (neg : Bool) (s : State) : Out :=
  transfer (fun s => .jump (pendTransfer (pendTb s t (getC s c != neg)) s)) s

/-- Push the address after the shadow slot (R91, R110); RAS_OVER at depth 16 (R92). -/
def callWith (t : Tb) (s : State) : Res :=
  if s.strand.ras.length ≥ 16 then .trap { cause := .rasOver }
  else
    .jump (pendTransfer (pendTb s t true)
      { s with strand := { s.strand with ras := s.strand.ras ++ [afterSlot s] } })

/-- CALL (R110). -/
def execCall (t : Tb) (s : State) : Out := transfer (callWith t) s

/-- CALLC (R110): pushes, and may trap, only if taken. -/
def execCallc (t : Tb) (c : Cond) (neg : Bool) (s : State) : Out :=
  transfer (fun s =>
    if getC s c != neg then callWith t s else .jump (pendTransfer (pendTb s t false) s)) s

/-- RET (R110): to the popped address; RAS_EMPTY at depth 0 (R92). -/
def execRet (s : State) : Out :=
  transfer (fun s =>
    match s.strand.ras.getLast? with
    | none => .trap { cause := .rasEmpty }
    | some t =>
      .jump (pendTransfer { kind := .xfer, taken := true, target := t, fall := afterSlot s }
        { s with strand := { s.strand with ras := s.strand.ras.dropLast } })) s

/-- LBRK (R84, R110): leaves an active loop behind its shadow slot. -/
def execLbrk (l : LoopId) (c : Cond) (neg : Bool) (s : State) : Out :=
  transfer (fun s =>
    .jump (pendTransfer
      { kind := .lbrk l, taken := (getC s c != neg) && loopActive s l, target := (getBounds s l).last + 1
        fall := afterSlot s } s)) s

/-! ### The count queue (R88 to R90, R119) -/

/-- A record that delivers counts: V.HIST with XF[0] = 1 (R89, R232). -/
def deliversCounts (e : Entry) : Bool :=
  recTask e.record == some .vhist && rf e.record 192 1 == 1 && !e.fold

/-- Append entries; one that finds the queue full is discarded and sets CQO (R90). -/
def cqAppend (vs : List (BitVec 32)) (s : State) : State :=
  let room := 64 - s.strand.cq.length
  let x := s.strand.xstat
  { s with strand := { s.strand with
      cq := s.strand.cq ++ vs.take room, xstat := { x with cqo := x.cqo || decide (room < vs.length) } } }

/-- A pop (R89): the oldest entry; from an empty queue, none while a delivering record is pending, else 0 with CQU. -/
def cqPop (s : State) : Option (BitVec 32 × State) :=
  match s.strand.cq with
  | v :: t => some (v, { s with strand := { s.strand with cq := t } })
  | [] =>
    if s.thatch.entries.any deliversCounts then none
    else some (0, withXstat s { s.strand.xstat with cqu := true })

/-- CQPUSH (R119). -/
def execCqpush (a : Reg) (s : State) : Out :=
  issue [a] true 1 (fun s => .done (cqAppend [(getG s a).setWidth 32] s)) s

/-- CQPOP (R119). -/
def execCqpop (d : Reg) (s : State) : Out :=
  issue [d] true 1 (fun s =>
    match cqPop s with
    | none => .stall s
    | some (v, s') => .done (setG s' d (v.setWidth 64))) s

/-- CQCLR (R119). -/
def execCqclr (s : State) : Out :=
  issue [] true 1 (fun s => .done { s with strand := { s.strand with cq := [] } }) s

/-- CQLEN (R119). -/
def execCqlen (d : Reg) (s : State) : Out :=
  issue [d] true 1 (fun s => .done (setG s d (BitVec.ofNat 64 s.strand.cq.length))) s

/-! ### Hardware loops (R82, R83, R113) -/

/-- The body does not lie wholly inside the body of an active loop, or, inside a LOOPS, the LOOP and its body not in one segment
(R82, R83). -/
def loopEscapes (s : State) (b : Bounds) (l : LoopId) : Bool :=
  let o := getBounds s l
  if !(o.first.ule b.first && b.last.ule o.last) then true
  else if isPipe s.strand.xstat l then
    let seg := max 1 ((o.last.toNat + 1 - o.first.toNat) / stagesOf s.strand.xstat l)
    (s.strand.pc.toNat - o.first.toNat) / seg != (b.last.toNat - o.first.toNat) / seg
  else false

/-- LOOP_SHAPE at the start of a loop (R82 step 1, R83), and for a body that runs past word address 2^32 - 1 (DESIGN CHOICE, log
entry 40). -/
def loopMisshapen (s : State) (l : LoopId) (b : Bounds) (pipe : Bool) (len stages : Nat) : Bool :=
  loopActive s l || b.last.ult b.first || (activeLoops s.strand.xstat).any (loopEscapes s b) ||
    (pipe && (len == 0 || len % stages != 0 || s.strand.xstat.pipe))

/-- The loop becomes the innermost active loop (R82 step 5); LC gets CNT and J = 0 (R81). -/
def pushLoop (l : LoopId) (b : Bounds) (pipe : Bool) (stages : Nat) (cnt : BitVec 32) (s : State) : State :=
  let x := s.strand.xstat
  let x : Xstat := { x with depth := x.depth + 1, nest := x.nest <<< 2 ||| BitVec.ofNat 8 l.val }
  let x : Xstat :=
    if pipe then
      { x with pipe := true, pid := BitVec.ofNat 2 l.val, stg := BitVec.ofNat 3 (stages - 1)
               q := stageBits cnt.toNat stages 0 }
    else x
  setBounds (setLc (withXstat s x) l { j := 0, cnt := cnt }) l b

/-- Start a loop (R82): the shape checks come before the count is taken (R113); `count` may stall on the count queue. -/
def startLoop (l : LoopId) (len : BitVec 10) (pipe : Bool) (stages : Nat)
    (count : State → Option (BitVec 32 × State)) (s : State) : Res :=
  if s.strand.pend.isSome then .trap { cause := .illegal }
  else
    let b : Bounds := { first := s.strand.pc + 1, last := s.strand.pc + len.setWidth 32 }
    if loopMisshapen s l b pipe len.toNat stages then .trap { cause := .loopShape }
    else
      match count s with
      | none => .stall s
      | some (c0, s') =>
        let c := if pipe && (0xFFFFFFF8 : BitVec 32).ult c0 then 0xFFFFFFF8 else c0
        let s'' := clearIssue (addCount 1 s')
        if c = 0 then .jump (afterWord 4 b.last (setLc s'' l { j := 0, cnt := 0 }))
        else .jump (withPc (pushLoop l b pipe stages c s'') b.first)

/-- LOOP with an immediate count (R113). -/
def execLoop (l : LoopId) (len : BitVec 10) (cnt : BitVec 12) (s : State) : Out :=
  issue [] false 1 (startLoop l len false 1 (fun s => some (cnt.setWidth 32, s))) s

/-- LOOP with a register count: g[n][31:0]. -/
def execLoopReg (l : LoopId) (len : BitVec 10) (g : Reg) (s : State) : Out :=
  issue [g] false 1 (startLoop l len false 1 (fun s => some ((getG s g).setWidth 32, s))) s

/-- LOOP with a queued count (R89); it ends speculation (R85). -/
def execLoopCq (l : LoopId) (len : BitVec 10) (s : State) : Out :=
  issue [] true 1 (startLoop l len false 1 cqPop) s

/-- LOOPS with an immediate count (R83, R113). -/
def execLoops (l : LoopId) (len : BitVec 10) (stg : BitVec 3) (cnt : BitVec 9) (s : State) : Out :=
  issue [] false 1 (startLoop l len true (stg.toNat + 1) (fun s => some (cnt.setWidth 32, s))) s

/-- LOOPS with a register count. -/
def execLoopsReg (l : LoopId) (len : BitVec 10) (stg : BitVec 3) (g : Reg) (s : State) : Out :=
  issue [g] false 1 (startLoop l len true (stg.toNat + 1) (fun s => some ((getG s g).setWidth 32, s))) s

/-- LOOPS with a queued count. -/
def execLoopsCq (l : LoopId) (len : BitVec 10) (stg : BitVec 3) (s : State) : Out :=
  issue [] true 1 (startLoop l len true (stg.toNat + 1) cqPop) s

/-! ### The repeat prefix (R87, R116, R117) -/

/-- The register fields that a repeatable operation uses: D, A, B (R116); none for a word of another format (R51). -/
def repFields : Instr → Option (Option Reg × Option Reg × Option Reg)
  | .add d a b | .sub d a b | .mul d a b | .mulh d a b | .mulhn d a b | .div d a b | .divn d a b | .rem d a b
  | .remn d a b | .and d a b | .or d a b | .xor d a b | .andn d a b | .sll d a b | .srl d a b | .sra d a b
  | .rol d a b | .ror d a b | .min d a b | .max d a b | .minn d a b | .maxn d a b | .clmul d a b | .clmulh d a b
  | .addw d a b | .subw d a b | .sel d a b _ _ | .lda d a b | .sta d a b
  | .atomSwp d a b _ _ | .atomAdd d a b _ _ | .atomAnd d a b _ _ | .atomOr d a b _ _ | .atomXor d a b _ _
  | .atomMin d a b _ _ | .atomMax d a b _ _ | .atomMinn d a b _ _ | .atomMaxn d a b _ _ | .atomCas d a b _ _ =>
    some (some d, some a, some b)
  | .clz d a | .ctz d a | .popc d a | .bswap d a => some (some d, some a, none)
  | .addi d a _ | .andi d a _ | .ori d a _ | .xori d a _ => some (some d, some a, none)
  | .slli d a _ | .srli d a _ | .srai d a _ | .rori d a _ | .bfx d a _ _ _ | .bfi d a _ _ => some (some d, some a, none)
  | .ldb d a _ | .ldbn d a _ | .ldh d a _ | .ldhn d a _ | .ldw d a _ | .ldwn d a _ | .ldd d a _
  | .stb d a _ | .sth d a _ | .stw d a _ | .std d a _ => some (some d, some a, none)
  | .cqpush a => some (none, some a, none)
  | .cqpop d | .cqlen d => some (some d, none, none)
  | .cqclr => some (none, none, none)
  | _ => none

/-- The instruction with its register fields mapped (R117). -/
def repMap (f g h : Reg → Reg) : Instr → Instr
  | .add d a b => .add (f d) (g a) (h b) | .sub d a b => .sub (f d) (g a) (h b) | .mul d a b => .mul (f d) (g a) (h b)
  | .mulh d a b => .mulh (f d) (g a) (h b) | .mulhn d a b => .mulhn (f d) (g a) (h b)
  | .div d a b => .div (f d) (g a) (h b) | .divn d a b => .divn (f d) (g a) (h b) | .rem d a b => .rem (f d) (g a) (h b)
  | .remn d a b => .remn (f d) (g a) (h b) | .and d a b => .and (f d) (g a) (h b) | .or d a b => .or (f d) (g a) (h b)
  | .xor d a b => .xor (f d) (g a) (h b) | .andn d a b => .andn (f d) (g a) (h b) | .sll d a b => .sll (f d) (g a) (h b)
  | .srl d a b => .srl (f d) (g a) (h b) | .sra d a b => .sra (f d) (g a) (h b) | .rol d a b => .rol (f d) (g a) (h b)
  | .ror d a b => .ror (f d) (g a) (h b) | .min d a b => .min (f d) (g a) (h b) | .max d a b => .max (f d) (g a) (h b)
  | .minn d a b => .minn (f d) (g a) (h b) | .maxn d a b => .maxn (f d) (g a) (h b)
  | .clmul d a b => .clmul (f d) (g a) (h b) | .clmulh d a b => .clmulh (f d) (g a) (h b)
  | .addw d a b => .addw (f d) (g a) (h b) | .subw d a b => .subw (f d) (g a) (h b)
  | .sel d a b n c => .sel (f d) (g a) (h b) n c
  | .lda d a b => .lda (f d) (g a) (h b) | .sta d a b => .sta (f d) (g a) (h b)
  | .atomSwp d a b w k => .atomSwp (f d) (g a) (h b) w k | .atomAdd d a b w k => .atomAdd (f d) (g a) (h b) w k
  | .atomAnd d a b w k => .atomAnd (f d) (g a) (h b) w k | .atomOr d a b w k => .atomOr (f d) (g a) (h b) w k
  | .atomXor d a b w k => .atomXor (f d) (g a) (h b) w k | .atomMin d a b w k => .atomMin (f d) (g a) (h b) w k
  | .atomMax d a b w k => .atomMax (f d) (g a) (h b) w k | .atomMinn d a b w k => .atomMinn (f d) (g a) (h b) w k
  | .atomMaxn d a b w k => .atomMaxn (f d) (g a) (h b) w k | .atomCas d a b w k => .atomCas (f d) (g a) (h b) w k
  | .clz d a => .clz (f d) (g a) | .ctz d a => .ctz (f d) (g a) | .popc d a => .popc (f d) (g a)
  | .bswap d a => .bswap (f d) (g a)
  | .addi d a i => .addi (f d) (g a) i | .andi d a i => .andi (f d) (g a) i | .ori d a i => .ori (f d) (g a) i
  | .xori d a i => .xori (f d) (g a) i
  | .slli d a n => .slli (f d) (g a) n | .srli d a n => .srli (f d) (g a) n | .srai d a n => .srai (f d) (g a) n
  | .rori d a n => .rori (f d) (g a) n
  | .bfx d a s p l => .bfx (f d) (g a) s p l | .bfi d a p l => .bfi (f d) (g a) p l
  | .ldb d a i => .ldb (f d) (g a) i | .ldbn d a i => .ldbn (f d) (g a) i | .ldh d a i => .ldh (f d) (g a) i
  | .ldhn d a i => .ldhn (f d) (g a) i | .ldw d a i => .ldw (f d) (g a) i | .ldwn d a i => .ldwn (f d) (g a) i
  | .ldd d a i => .ldd (f d) (g a) i
  | .stb d a i => .stb (f d) (g a) i | .sth d a i => .sth (f d) (g a) i | .stw d a i => .stw (f d) (g a) i
  | .std d a i => .std (f d) (g a) i
  | .cqpush a => .cqpush (g a) | .cqpop d => .cqpop (f d) | .cqlen d => .cqlen (f d)
  | i => i

/-- A register number stepped k times. -/
def stepReg (k : Nat) (st : BitVec 4) (r : Reg) : Reg := Fin.ofNat 64 (((r.val : Int) + k * st.toInt) % 64).toNat

/-- Repetition k of a repeated instruction (R117). -/
def repStep (r : RepState) (i : Instr) : Instr :=
  repMap (stepReg r.k r.sd) (stepReg r.k r.sa) (stepReg r.k r.sb) i

/-- A field is stepped rightly over n + 1 repetitions: unused and not stepped, or always in 0 to 63 (R116). -/
def repFieldOk (n : Nat) (st : BitVec 4) : Option Reg → Bool
  | none => st == 0
  | some r =>
    let last := (r.val : Int) + n * st.toInt
    decide (0 ≤ last) && decide (last ≤ 63)

/-- The word at an address of the program image; none outside it (R79). -/
def textAt (s : State) (a : BitVec 32) : Option (BitVec 32) := List.lookup a.toNat s.strand.text

/-- The instruction whose first word stands at an address, with the record of the eight words after it. -/
def decodeAt (s : State) (a : BitVec 32) : Option (Except DecodeError Instr) :=
  (textAt s a).map fun w =>
    let ws := (List.range 8).filterMap (fun k => textAt s (a + 1 + BitVec.ofNat 32 k))
    decodeWord w.toNat (if ws.length = 8 then some (recOfWords (ws.map BitVec.toNat)) else none)

/-- The word after a REP is one that it may repeat with these steps (R116). -/
def repOk (n : Nat) (sd sa sb : BitVec 4) (i : Instr) : Bool :=
  match repFields i with
  | none => false
  | some (d, a, b) => repFieldOk n sd d && repFieldOk n sa a && repFieldOk n sb b

/-- The word after a REP at the pc is one that it refuses (R51, R116). -/
def repRefused (n : Nat) (sd sa sb : BitVec 4) (s : State) : Bool :=
  match decodeAt s (s.strand.pc + 1) with
  | none => false
  | some (.error _) => true
  | some (.ok i) => !repOk n sd sa sb i

/-- A repeat begins; one that an interrupted repeat left off begins with repetition XSTAT.REPK. A REPK above N, which only a
handler's EXSTAT can hold, begins with repetition 0 (DESIGN CHOICE, log entry 40). -/
def beginRepeat (n : Nat) (sd sa sb : BitVec 4) (s : State) : State :=
  let k := s.strand.xstat.repk.toNat
  let s := clearIssue s
  { s with strand := { s.strand with rep := some { k := if k ≤ n then k else 0, n := n, sd := sd, sa := sa, sb := sb } } }

/-- A word that is refused traps its cause once the entries of a commit have issued (R365). -/
def refuseWord (t : Trap) (s : State) : Out := .next (if heldFirst s then stallAt s else finish 1 s (.trap t))

/-- REP (R87, R116): it validates its repeated word before anything issues, ILLEGAL before LOOP_SHAPE before SEG (R44); decode
refuses a word that it may not repeat in an inactive segment too (R51, R83, R96). -/
def execRep (n : BitVec 6) (sd sa sb : BitVec 4) (s : State) : Out :=
  if inactiveWord s && repRefused n.toNat sd sa sb s then refuseWord { cause := .illegal } s
  else
    issue [] false 1 (fun s =>
      if s.strand.pend.isSome || repRefused n.toNat sd sa sb s then .trap { cause := .illegal }
      else if lastOfBody s then .trap { cause := .loopShape }
      else if (textAt s (s.strand.pc + 1)).isNone then
        .trap { cause := .seg, info := 5, faddr := some ((s.strand.pc + 1).setWidth 64) }
      else .jump (beginRepeat n.toNat sd sa sb s)) s

/-! ### Words that decode refuses -/

/-- A word with a reserved major, a reserved sub-opcode or a nonzero unused field traps ILLEGAL and has no other effect
(R43), in an inactive LOOPS segment as anywhere (R83). -/
def execIllegal (_w : BitVec 32) (s : State) : Out := refuseWord { cause := .illegal } s

/-- A fetch outside the image traps SEG, EPC and FADDR naming the address (R79, R96, R136), of a word of an inline record too; in an
inactive segment too: no word is there for R83 to suppress (DEDUCED, log entry 40). -/
def execFetchOutsideImage (addr : BitVec 32) (s : State) : Out :=
  .next (if heldFirst s || s.sys.spec then stallAt s
    else trapEntry { cause := .seg, info := 5, faddr := some (addr.setWidth 64) } false none (withPc s addr))

/-- A fetch of a word whose line of memory is poisoned traps UE, with FADDR its address, and the line gets its entry of the
fault-address queue (R79, R133, R289). -/
def execFetchPoisoned (addr : BitVec 32) (line : Nat) (s : State) : Out :=
  refuseWord { cause := .ue, info := 5, faddr := some (addr.setWidth 64), line := some line } s

/-- A fetch of a word whose line of memory has a home that cannot be reached traps OWNER, with FADDR its address (R133, R306). -/
def execFetchUnreached (addr : BitVec 32) (s : State) : Out :=
  refuseWord { cause := .owner, info := 5, faddr := some (addr.setWidth 64) } s

end Sys2Proof.Machine
end

