-- ==== Sys2Proof/Machine/Route.lean ====
section
/-! DEFINITION. The pod's shape and the routes of packets (spec/17_fabric_links.md R331 to R335). -/

namespace Sys2Proof.Machine

/-- The coordinate of a node on an axis: 0 W, 1 X, 2 Y, 3 Z. -/
def coord (node a : Nat) : Nat := node / 8 ^ a % 8

/-- The length of an axis, from PODCFG.LEN; the code 0 is not used. -/
def axisLen (s : State) (a : Nat) : Nat := 2 ^ bitsOf s.fab.podcfg.toNat (12 + 2 * a) 2

def axisWraps (s : State) (a : Nat) : Bool := s.fab.podcfg.getLsbD (28 + a)

def withCoord (node a c : Nat) : Nat := node - coord node a * 8 ^ a + c * 8 ^ a

/-- The node lies in the pod. -/
def inPod (s : State) (node : Nat) : Bool := decide (node < 4096) && (List.range 4).all (fun a => decide (coord node a < axisLen s a))

/-- The neighbour at coordinate c + 1 or c - 1 on an axis (R343). -/
def neighbour (s : State) (a : Nat) (minus : Bool) : Option Nat :=
  let me := ownNode s
  let c := coord me a
  let l := axisLen s a
  if axisWraps s a then some (withCoord me a ((if minus then c + l - 1 else c + 1) % l))
  else if minus then (if c = 0 then none else some (withCoord me a (c - 1)))
  else if c + 1 < l then some (withCoord me a (c + 1)) else none

/-! ### Ports -/

/-- The axis of a port, and whether it leads toward - (R331). -/
def portAxis (p : Fin 24) : Nat := p.val / 6
def portMinus (p : Fin 24) : Bool := p.val / 3 % 2 == 1

/-- The hop out of a port goes round its axis: from coordinate L - 1 to 0, or from 0 to L - 1. -/
def crosses (s : State) (p : Fin 24) : Bool :=
  let c := coord (ownNode s) (portAxis p)
  if portMinus p then c == 0 else c + 1 == axisLen s (portAxis p)

/-- A port at the edge of an axis that is no ring: it has no circuit, and stays down (R332). -/
def edgePort (s : State) (p : Fin 24) : Bool := !axisWraps s (portAxis p) && crosses s p

/-- The working ports of a direction group, rising. -/
def groupPorts (s : State) (a : Nat) (minus : Bool) : List (Fin 24) :=
  ((List.range 3).map (fun k => (Fin.ofNat 24 (6 * a + (if minus then 3 else 0) + k) : Fin 24))).filter
    (fun p => s.links[p].state != .retired)

/-- The port of a packet in a direction group. -/
def groupPort (ports : List (Fin 24)) (src dst : Nat) : Option (Fin 24) := ports[(src ^^^ dst) % ports.length]?

/-! ### Routes (R334) -/

/-- The direction of a route on an axis: whether it goes toward -. -/
def routeMinus (s : State) (a t : Nat) : Bool :=
  let c := coord (ownNode s) a
  let l := axisLen s a
  if axisWraps s a then let up := (t + l - c) % l; decide (l - up < up) else decide (t < c)

/-- The axis that a packet leaves on from here: the first on which the destination's coordinate is another. -/
def routeAxis (s : State) (dst : Nat) : Option Nat := (List.range 4).find? (fun a => coord (ownNode s) a != coord dst a)

/-- The port on which a packet leaves here; on a ring whose direction has no working port, the other direction. -/
def routePort (s : State) (src dst : Nat) : Option (Fin 24) :=
  match routeAxis s dst with
  | none => none
  | some a =>
    let m := routeMinus s a (coord dst a)
    match groupPort (groupPorts s a m) src dst with
    | some p => some p
    | none => if axisWraps s a then groupPort (groupPorts s a (!m)) src dst else none

/-- This package refuses to send a packet to a node: it lies outside the pod, or no working direction leads there. -/
def routeRefused (s : State) (dst : Nat) : Bool :=
  !inPod s dst || ((routeAxis s dst).isSome && (routePort s (ownNode s) dst).isNone)

/-- The dateline bit of a hop out of a port (R335): set on the hop that crosses, kept on the axis, cleared at a turn. -/
def datelineVc (s : State) (inPort outPort : Fin 24) (vc : BitVec 2) : BitVec 2 :=
  let keeps := portAxis inPort == portAxis outPort && vc.getLsbD 0
  (vc &&& 2) ||| (if crosses s outPort || keeps then 1 else 0)

/-! ### This package's own packets (R335) -/

/-- Answers travel in the response class (R319, R351). -/
def isAnswer : PktBody → Bool
  | .refused _ => true
  | _ => false

/-- A packet as it leaves this package: the port of its first hop, none for this node, and its virtual channel. -/
def onRoute (s : State) (p : Packet) : Packet :=
  let port := if p.srcNode = ownNode s then routePort s p.srcNode p.dstNode else none
  let vc : BitVec 2 := if isAnswer p.body then 2 else 0
  match port with
  | some q => { p with port := some q, vc := vc ||| (if crosses s q then 1 else 0) }
  | none => { p with vc := vc }

/-- Packets of one source, one destination and one class keep their order (R335). -/
def sameRoute (p q : Packet) : Bool :=
  p.srcNode == q.srcNode && p.dstNode == q.dstNode && isAnswer p.body == isAnswer q.body

/-- The die whose link port a packet comes in by: the last axis of its route has the ports of that die (DEDUCED, log entry 40);
a packet of this package's own ingress enters at its core's die. -/
def ingressDie (s : State) (p : Packet) : Nat :=
  if p.srcNode = ownNode s then p.srcCore / 128
  else ((List.range 4).reverse.find? (fun a => coord p.srcNode a != coord (ownNode s) a)).getD 0

end Sys2Proof.Machine
end

