-- ==== Sys2Proof/Machine/Address.lean ====
section
/-! DEFINITION. Physical memory, its lines, homes and owners (spec/14_die.md R287 to R289, spec/16_package.md R305,
R306), segments (spec/13_cluster.md R265), the page walk (spec/14_die.md R291, R292), translation buffers, and the
address check of every strand access (spec/06_strand_memory_system.md R120). -/

namespace Sys2Proof.Machine

/-! ### Physical memory -/

/-- The line is covered whole by a list of byte writes: all 64 bytes, with every bit of each. -/
def coversLine (ws : List ByteWrite) (line : Nat) : Bool :=
  (List.range 64).all (fun i =>
    (ws.filter (fun w => w.addr == line + i)).foldl (fun m w => m ||| w.mask) (0 : Byte) == 255)

/-- Write bytes of memory: a write of all 64 bytes of a poisoned line clears the poison, a partial one keeps it (R289);
a line of this package becomes dirty in its home die cache (R288). -/
def memWrite (ws : List ByteWrite) (s : State) : State :=
  let mem := ws.foldl setMasked s.mem.mem
  let poison := s.mem.poison.filter (fun l => !coversLine ws l)
  let dirty := ws.foldl (fun d w => if w.addr / 2 ^ 48 = ownNode s then sinsert (lineOf w.addr) d else d) s.mem.dirty
  { s with mem := { s.mem with mem := mem, poison := poison, dirty := dirty } }

/-- The writes of a byte string at a key. -/
def writesOf (key : Nat) : List Byte → List ByteWrite
  | [] => []
  | b :: t => { addr := key, data := b } :: writesOf (key + 1) t

/-- Poison a line. -/
def poisonLine (line : Nat) (s : State) : State :=
  { s with mem := { s.mem with poison := sinsert (lineOf line) s.mem.poison } }

/-- Rewrite bits of the leaf at a physical address, indivisibly at its home: a request there (R290, R314). -/
def setPte (a : Nat) (f : Nat → Nat) (s : State) : State :=
  let k := memKey (ownNode s) a
  memWrite (writesOf k (leBytes 8 (f (readLe s.mem.mem k 8)))) (requestAt a s)

def setBit (b : Nat) (on : Bool) (v : Nat) : Nat :=
  let w := v - bitsOf v b 1 * 2 ^ b
  if on then w + 2 ^ b else w

/-! ### Translation buffers -/

/-- Fill a buffer; at its capacity the oldest entry leaves (DESIGN CHOICE, log entry 10). -/
def tlbFill (cap : Nat) (t : Tlb) (l : List Tlb) : List Tlb := (t :: l).take cap

/-- What a translation gives: a physical address with the MIG and SW bits of its page, and the state with the buffer
filled; or a cause. -/
inductive Xlate where
  | ok (pa : Nat) (mig sw : Bool) (leaf : Option Nat) (s : State)
  | bad (c : Cause)

def putTlb (map : Bool) (t : Tlb) (s : State) : State :=
  if map then { s with mem := { s.mem with mapCache := tlbFill 4096 t s.mem.mapCache } }
  else { s with mem := { s.mem with tlb := tlbFill 64 t s.mem.tlb } }

/-- What a translation gives for an access, with the state `s` in which the buffer is filled. The MIG and SW bits are those of
the leaf as it stands: setting either invalidates every translation of the page (R296, R301). A write that has to set D writes
the leaf at its home, which must be reachable (R292, R306). -/
def tlbUse (t : Tlb) (va kind : Nat) (s : State) : Xlate :=
  let pa := t.pa + (va - t.va)
  let pte := match t.leaf with | some a => readLe s.mem.mem (memKey (ownNode s) a) 8 | none => 0
  if pa ≥ 2 ^ 39 then .bad .seg
  else if kindWrites kind && !t.w then .bad .wprot
  else if kindWrites kind && (match t.leaf with | some a => !pteD pte && !reachesHome s a | none => false) then .bad .owner
  else .ok pa (t.leaf.isSome && pteMig pte) (t.leaf.isSome && pteSw pte) t.leaf s

/-- The translation of an address by the segment table and, if it is pageable, the page tables. -/
def newTlb (asid : BitVec 13) (e : SegEntry) (va : Nat) (s : State) : Except Cause Tlb :=
  if segPg e then
    match walkSeg s e va with
    | .bad c _ => .error c
    | .leaf l =>
      .ok { asid := asid, va := va / l.size * l.size, size := l.size, pa := l.base, leaf := some l.at_, w := pteW l.pte
            d := pteD l.pte }
  else
    let base := va / 2 ^ 15 * 2 ^ 15
    .ok { asid := asid, va := base, size := 2 ^ 15, pa := segPbase e + (base - segVbase e), w := true, d := true }

/-- The map unit's translation: from its cache, or a walk that fills it (R266). -/
def mapUnit (asid : BitVec 13) (e : SegEntry) (va : Nat) (s : State) : Except Cause (Tlb × State) :=
  match tlbFind s.mem.mapCache asid va with
  | some t => .ok (t, s)
  | none =>
    match newTlb asid e va s with
    | .error c => .error c
    | .ok t => .ok (t, putTlb true t (tableRequests e va s))

/-- Translate an address of a segment whose rights have been checked, through the map unit (`map`) or through the strand's
buffer, whose misses go to the map unit (R120, R266). -/
def xlatePage (map : Bool) (asid : BitVec 13) (e : SegEntry) (va kind : Nat) (s : State) : Xlate :=
  match (if map then none else tlbFind s.mem.tlb asid va) with
  | some t => tlbUse t va kind s
  | none =>
    match mapUnit asid e va s with
    | .error c => .bad c
    | .ok (t, s') => tlbUse t va kind (if map then s' else putTlb false t s')

/-- The rights of the segment, then the page (R120). A store without the write right meets WPROT. -/
def xlate (map : Bool) (asid : BitVec 13) (va kind : Nat) (s : State) : Xlate :=
  match segFind s asid va with
  | none => .bad .seg
  | some e =>
    if segRn e then .bad .seg
    else if kindReads kind && !segR e then .bad .seg
    else if kindWrites kind && !segW e then .bad .wprot
    else xlatePage map asid e va kind s

/-- The first write through a leaf with D = 0 sets D, before the write is performed (R292). -/
def markDirty (leaf : Option Nat) (s : State) : State :=
  match leaf with
  | none => s
  | some a =>
    if pteD (readLe s.mem.mem (memKey (ownNode s) a) 8) then s
    else
      let s := setPte a (setBit 58 true) s
      { s with mem := { s.mem with
        tlb := s.mem.tlb.map (fun t => if t.leaf = some a then { t with d := true } else t)
        mapCache := s.mem.mapCache.map (fun t => if t.leaf = some a then { t with d := true } else t) } }

/-- Remove translations from every buffer of the package (R268). -/
def invalidate (p : Tlb → Bool) (s : State) : State :=
  { s with mem := { s.mem with
    tlb := s.mem.tlb.filter (fun t => !p t), mapCache := s.mem.mapCache.filter (fun t => !p t) } }

def mapsVa (asid : BitVec 13) (va : Nat) (t : Tlb) : Bool :=
  t.asid == asid && decide (t.va ≤ va) && decide (va < t.va + t.size)

/-! ### The address check (R120) -/

/-- What the check answers: a scratchpad offset; a physical address; a cause; or that the access, or the walk that it needs, is held
while the stack that it goes to is handed over (R309). -/
inductive Chk where
  | spad (off : Nat)
  | mem (pa : Nat) (mig sw : Bool) (leaf : Option Nat) (s : State)
  | bad (c : Cause)
  | held

/-- `check(addr, size, kind)` of R120, with the route of R306 and the hand-over of R309 last. The access itself is a request where it is
performed (R290). -/
def check (addr : Word) (size kind : Nat) (s : State) : Chk :=
  let a := addr.toNat
  if addr.getLsbD 63 then
    if bitsOf a 23 40 ≠ 0 then .bad .seg
    else
      let off := bitsOf a 0 23
      if off % size ≠ 0 then .bad .align
      else if off + size > Config.spadBytes then .bad .seg
      else .spad off
  else if bitsOf a 51 12 ≠ 0 then .bad .seg
  else if a % size ≠ 0 then .bad .align
  else
    match xlate false s.sys.asid a kind s with
    | .bad c => if walkHeld true kind a s then .held else .bad c
    | .ok pa mig sw leaf s' =>
      if !reachesHome s pa then .bad .owner
      else if ridgingAt s pa || walkHeld true kind a s then .held
      else .mem pa mig sw leaf s'

/-- The trap of a failed check: FADDR holds the address, INFO the kind (R133, R136). OWNER sets FADDR too, as R306 says; R136, whose list
leaves it out, would keep FADDR (DEDUCED, log entry 40). -/
def checkTrap (c : Cause) (addr : Word) (kind : Nat) : Trap :=
  { cause := c, info := BitVec.ofNat 32 kind, faddr := some addr }

/-- The trap of an access of the strand that the check refuses. -/
def accessTrap (c : Cause) (addr : Word) (kind : Nat) : Trap := { checkTrap c addr kind with access := some true }

/-- Two byte ranges meet. -/
def rangesMeet (a n b m : Nat) : Bool := decide (a < b + m) && decide (b < a + n)

/-- The range scoreboard (R125): the bytes of a strand access meet a range of an unretired LDA or STA. -/
def meetsCopy (s : State) (addr : Word) (size : Nat) : Bool :=
  s.strand.copies.any (fun c =>
    if addr.getLsbD 63 then rangesMeet (bitsOf addr.toNat 0 23) size c.off c.len
    else rangesMeet addr.toNat size c.va c.len)

/-- The 32 KiB page of a virtual address. -/
def pageOf (va : Nat) : Nat := va / Config.pageBytes

/-- The page holds a parked store of this strand (R122, R294). -/
def pageParked (s : State) (va : Nat) : Bool := s.mem.replay.any (fun p => pageOf p.va == pageOf va)

end Sys2Proof.Machine
end

