-- ==== Sys2Proof/Machine/LoadStore.lean ====
section
/-! DEFINITION. Loads, stores, the replay queue and the speculative hold buffer, spill slots, LDA and STA, atomics, and
the completion of loads and copies (spec/06_strand_memory_system.md R121 to R127, spec/14_die.md R294,
spec/19_fabric_groups.md R363, R365). -/

namespace Sys2Proof.Machine

/-! ### Shared parts -/

/-- A launch occupies the core. -/
def live (s : State) : Bool :=
  s.strand.run == .waiting || s.strand.run == .running || s.strand.run == .stopped

/-- A cause arises outside issue and becomes pending (R136); a core that runs no launch records nothing (R352). -/
def raiseAsync (a : Async) (s : State) : State :=
  if live s then { s with thatch := { s.thatch with async := s.thatch.async ++ [a] } } else s

/-- Held stores, oldest first: those of the speculative hold buffer, and those still to issue after a commit. -/
def heldAll (s : State) : List HeldStore := s.grp.issuing ++ s.grp.hold

/-- The byte of an address that the youngest held store writes (R362). -/
def heldByte (a : Nat) (hs : List HeldStore) : Option Byte :=
  hs.foldl (fun acc h =>
    match h with
    | .store addr size data =>
      if addr.toNat ≤ a ∧ a < addr.toNat + size then some (BitVec.ofNat 8 (data.toNat / 2 ^ (8 * (a - addr.toNat)))) else acc
    | .spl _ _ => acc) none

/-- A strand read of bytes: held stores first, the rest from scratchpad or memory (R122, R362). -/
def strandBytes (s : State) (addr : Word) (size : Nat) (m : List Host.Cell) (base : Nat) : List Byte :=
  (List.range size).map (fun i => (heldByte (addr.toNat + i) (heldAll s)).getD (byteAt m (base + i)))

/-- Some byte of a strand read comes from a poisoned line of memory (R289). -/
def readsPoison (s : State) (addr : Word) (size pa : Nat) : Bool :=
  poisonedAt s (memKey (ownNode s) pa) &&
    (List.range size).any (fun i => (heldByte (addr.toNat + i) (heldAll s)).isNone)

/-- What a checked strand read gives: its bytes; or that a poisoned line was read; or a stall; or a trap. -/
inductive ReadRes where
  | bytes (bs : List Byte) (s : State)
  | ue (s : State)
  | stall (s : State)
  | trap (t : Trap)

/-- A strand read of `size` bytes (R120, R122, R125): the check, then the stalls, then the bytes, by a request at their home (R290). -/
def strandRead (addr : Word) (size kind : Nat) (s : State) : ReadRes :=
  match check addr size kind s with
  | .bad c => .trap (accessTrap c addr kind)
  | .held => .stall s
  | .spad off =>
    if meetsCopy s addr size then .stall s else .bytes (strandBytes s addr size s.store.spad off) s
  | .mem pa _ _ _ s' =>
    if meetsCopy s addr size || pageParked s addr.toNat then .stall s'
    else if readsPoison s addr size pa then .ue (consumed false pa (requestAt pa s'))
    else .bytes (strandBytes s addr size s.mem.mem (memKey (ownNode s) pa)) (requestAt pa s')

/-- A load or atomic enters LDC (R93). -/
def pushLoad (l : Load) (s : State) : State := { s with strand := { s.strand with loads := s.strand.loads ++ [l] } }

/-! ### Loads (R121, R122) -/

/-- The value of a load: `n` bytes, sign-extended or not. -/
def extendLoad (signed : Bool) (n : Nat) (bs : List Byte) : Word :=
  if signed then BitVec.ofInt 64 (signedOf (8 * n) (leNat bs)) else BitVec.ofNat 64 (leNat bs)

/-- A load of `n` bytes into g[D]. -/
def load (n : Nat) (signed : Bool) (d a : Reg) (imm : BitVec 14) (s : State) : Out :=
  issue [d, a] false 1 (fun s =>
    let addr := getG s a + sextW imm
    match strandRead addr n 0 s with
    | .trap t => .trap t
    | .stall s' => .stall s'
    | .ue s' =>
      if ldc s ≥ 16 then .stall s
      else .done (pushLoad { d := d, value := 0, ue := true, addr := addr, kind := 0, ahead := s.sys.spec } s')
    | .bytes bs s' =>
      if ldc s ≥ 16 then .stall s
      else
        .done (pushLoad { d := d, value := extendLoad signed n bs, ue := false, addr := addr, kind := 0
                          ahead := s.sys.spec } s')) s

/-- LDB (R121). -/
def execLdb (d a : Reg) (imm : BitVec 14) (s : State) : Out := load 1 true d a imm s
/-- LDBN (R121). -/
def execLdbn (d a : Reg) (imm : BitVec 14) (s : State) : Out := load 1 false d a imm s
/-- LDH (R121). -/
def execLdh (d a : Reg) (imm : BitVec 14) (s : State) : Out := load 2 true d a imm s
/-- LDHN (R121). -/
def execLdhn (d a : Reg) (imm : BitVec 14) (s : State) : Out := load 2 false d a imm s
/-- LDW (R121). -/
def execLdw (d a : Reg) (imm : BitVec 14) (s : State) : Out := load 4 true d a imm s
/-- LDWN (R121). -/
def execLdwn (d a : Reg) (imm : BitVec 14) (s : State) : Out := load 4 false d a imm s
/-- LDD (R121). -/
def execLdd (d a : Reg) (imm : BitVec 14) (s : State) : Out := load 8 false d a imm s

/-- The cause of a completion, if it is uncorrectable, or the write of g[D]; a load that did not run ahead writes the
checkpoint too (R361). -/
def finishLoad (l : Load) (s : State) : State :=
  if l.ue then
    raiseAsync { cause := .ue, info := BitVec.ofNat 32 l.kind, src := 0, faddr := some l.addr } s
  else
    let s := setG s l.d l.value
    match s.grp.spec with
    | some cp =>
      if l.ahead || l.d = 0 then s else { s with grp := { s.grp with spec := some { cp with g := cp.g.set l.d l.value } } }
    | none => s

/-- LOAD_COMPLETE (R122): the value of the i-th outstanding load or atomic, oldest first, is written to g[D]. -/
def execLoadComplete (i : Nat) (s : State) : Out :=
  .next <|
    match s.strand.loads[i]? with
    | none => s
    | some l => finishLoad l { s with strand := { s.strand with loads := s.strand.loads.eraseIdx i } }

/-! ### Stores (R121, R122) and the replay queue (R294) -/

/-- A write of a core that is held on a page that a sweep has still to copy raises that page in its sweep (R253, R301 step 3). -/
def raiseFor (core : Nat) (asid : BitVec 13) (va : Nat) (s : State) : State :=
  { s with mem := { s.mem with
    sweeps := s.mem.sweeps.map (fun w =>
      if w.asid == asid && w.pages.any (fun p => pageOf p.va == pageOf va) && !w.raised.any (fun r => r.1 == pageOf va) then
        { w with raised := w.raised ++ [(pageOf va, core)] }
      else w) } }

/-- A write of this core raises a page. -/
def raisePage (va : Nat) (s : State) : State := raiseFor (ownCore s) s.sys.asid va s

/-- The asynchronous cause of a parked store (R122); at most one of it is pending. -/
def raiseParked (c : Cause) (id va : Nat) (s : State) : State :=
  if s.thatch.async.any (fun a => a.parked == some id) then s
  else raiseAsync { cause := c, info := 1, src := 0, faddr := some (BitVec.ofNat 64 va), parked := some id } s

/-- Park a store (R294). -/
def park (r : ParkReason) (va size : Nat) (data : Word) (s : State) : State :=
  let id := s.mem.nextPark
  let s := { s with mem := { s.mem with
    replay := s.mem.replay ++ [{ id := id, va := va, size := size, data := data, reason := r }], nextPark := id + 1 } }
  let s := raisePage va s
  match r with
  | .page => raiseParked .page id va s
  | .wprot => raiseParked .wprot id va s
  | .mig | .sw | .order => s

/-- Perform a store at its physical address: D is set first (R292). -/
def storeMem (pa size : Nat) (data : Word) (leaf : Option Nat) (s : State) : State :=
  memWrite (writesOf (memKey (ownNode s) pa) (leBytes size data.toNat)) (markDirty leaf s)

/-- A store's fate once it may issue: performed, parked, waiting (for a copy, or for a full replay queue), or a cause. -/
inductive StoreRes where
  | done (s : State)
  | wait (s : State)
  | bad (c : Cause)

/-- A cause that a store meets in the check: PAGE and WPROT park it, as does any translation of a page that holds a parked
store (R122, R294). -/
def parkReason (s : State) (va : Nat) (c : Cause) : Option ParkReason :=
  if c = .align then none
  else if pageParked s va then some .order
  else if c = .page then some .page
  else if c = .wprot then some .wprot
  else none

/-- An ordinary store (R122, R294): a request at its home where it is performed (R290); one that parks has made the requests of its walk. -/
def storeNow (addr : Word) (size : Nat) (data : Word) (s : State) : StoreRes :=
  let va := addr.toNat
  let full := meetsCopy s addr size || decide (32 ≤ s.mem.replay.length)
  match check addr size 1 s with
  | .bad c =>
    (match parkReason s va c with
      | some r => if full then .wait s else .done (park r va size data (missRequests true 1 va s))
      | none => .bad c)
  | .held => .wait s
  | .spad off => if full then .wait s else .done (putSpad s off (leBytes size data.toNat))
  | .mem pa mig sw leaf s' =>
    if full then .wait s
    else if pageParked s va then .done (park .order va size data s')
    else if mig then .done (park .mig va size data s')
    else if sw then .done (park .sw va size data s')
    else .done (storeMem pa size data leaf (requestAt pa s'))

/-- The hold buffer is full: it holds 64 entries, those of a commit that are still to issue among them (R363). -/
def holdFull (s : State) : Bool := decide (64 ≤ (heldAll s).length)

/-- A store under speculation enters the hold buffer once its check meets no precise cause (R362, R363). -/
def storeHeld (addr : Word) (size : Nat) (data : Word) (s : State) : Res :=
  let held : Res :=
    if meetsCopy s addr size || holdFull s then .stall s
    else .done { s with grp := { s.grp with hold := s.grp.hold ++ [.store addr size data] } }
  match check addr size 1 s with
  | .spad _ | .mem _ _ _ _ _ => held
  | .held => .stall s
  | .bad c => if (parkReason s addr.toNat c).isSome then held else .trap (accessTrap c addr 1)

/-- A store of the low `n` bytes of g[D]; the entries of a commit issue first (R365). -/
def store (n : Nat) (d a : Reg) (imm : BitVec 14) (s : State) : Out :=
  issue [d, a] false 1 (fun s =>
    let addr := getG s a + sextW imm
    let data : Word := BitVec.ofNat 64 ((getG s d).toNat % 2 ^ (8 * n))
    if s.sys.spec then (if stc s ≥ 64 then .stall s else storeHeld addr n data s)
    else
      match storeNow addr n data s with
      | .bad c => .trap (accessTrap c addr 1)
      | .wait s' => .stall s'
      | .done s' => if s.grp.issuing ≠ [] || stc s ≥ 64 then .stall s else .done s') s

/-- STB (R121). -/
def execStb (d a : Reg) (imm : BitVec 14) (s : State) : Out := store 1 d a imm s
/-- STH (R121). -/
def execSth (d a : Reg) (imm : BitVec 14) (s : State) : Out := store 2 d a imm s
/-- STW (R121). -/
def execStw (d a : Reg) (imm : BitVec 14) (s : State) : Out := store 4 d a imm s
/-- STD (R121). -/
def execStd (d a : Reg) (imm : BitVec 14) (s : State) : Out := store 8 d a imm s

/-- A parked store met its cause again, or one of another kind: it stays parked. -/
def keepParked (p : Parked) (r : ParkReason) (acc : State × List Parked) : State × List Parked :=
  (acc.1, acc.2 ++ [{ p with reason := r }])

/-- Retry one parked store, behind those that are still parked (R138, R294). At ERET every store is retried; else only
those that wait for a bit of the page table or for an older store of their page. A store to a stack whose hand-over is under way
is tried again behind it, and behind the requests that were held (R309; DEDUCED, log entry 24). -/
def retryOne (eret : Bool) (acc : State × List Parked) (p : Parked) : State × List Parked :=
  if acc.2.any (fun k => pageOf k.va == pageOf p.va) then keepParked p p.reason acc
  else if !eret && (p.reason == .page || p.reason == .wprot) then keepParked p p.reason acc
  else
    match check (BitVec.ofNat 64 p.va) p.size 1 acc.1 with
    | .bad c =>
      let s := tableConsumed false c p.va (missRequests true 1 p.va acc.1)
      keepParked p (if c = .wprot then .wprot else .page) (raiseParked c p.id p.va s, acc.2)
    | .spad _ | .held => keepParked p p.reason acc
    | .mem pa mig sw leaf s =>
      if mig then keepParked p .mig acc
      else if sw then keepParked p .sw (raisePage p.va acc.1, acc.2)
      else
        let s := storeMem pa p.size p.data leaf (requestAt pa s)
        ({ s with thatch := { s.thatch with async := s.thatch.async.filter (fun a => a.parked != some p.id) } }, acc.2)

/-- Retry the parked stores, oldest first. -/
def retryParked (eret : Bool) (s : State) : State :=
  let r := s.mem.replay.foldl (retryOne eret) (s, [])
  { r.1 with mem := { r.1.mem with replay := r.2 } }

/-! ### The hold buffer after a commit (R365 step 2) -/

/-- Issue one entry, if it can: an ordinary store or a write of a spill slot. -/
def issueHeld (h : HeldStore) (s : State) : Option State :=
  match h with
  | .spl slot data => some { s with strand := { s.strand with spill := tset 0 s.strand.spill slot data } }
  | .store addr size data =>
    match storeNow addr size data s with
    | .done s' => some s'
    | .wait _ => none
    | .bad c =>
      some (raiseAsync { cause := c, info := 1, src := 0, faddr := some addr }
        (tableConsumed false c addr.toNat (if c = .align then s else missRequests true 1 addr.toNat s)))

/-- Issue entries in order until one must wait. -/
def drainHeld : List HeldStore → State → State
  | [], s => { s with grp := { s.grp with issuing := [] } }
  | h :: t, s =>
    match issueHeld h s with
    | some s' => drainHeld t s'
    | none => { s with grp := { s.grp with issuing := h :: t } }

/-! ### Spill slots (R123) -/

def isSplOf (slot : Nat) : HeldStore → Bool
  | .spl n _ => n == slot
  | .store .. => false

/-- SPL (R123): under speculation into the hold buffer. A slot written while older held writes of it still wait keeps
the younger value. -/
def execSpl (g : Reg) (slot : BitVec 9) (s : State) : Out :=
  issue [g] false 1 (fun s =>
    if s.sys.spec then
      if holdFull s then .stall s
      else .done { s with grp := { s.grp with hold := s.grp.hold ++ [.spl slot.toNat (getG s g)] } }
    else
      .done (setSpill { s with grp := { s.grp with
        issuing := s.grp.issuing.filter (fun h => !isSplOf slot.toNat h) } } slot (getG s g))) s

/-- The youngest held write of a slot, else the slot (R363). -/
def readSpill (s : State) (slot : BitVec 9) : Word :=
  (heldAll s).foldl (fun v h => match h with
    | .spl n d => if n = slot.toNat then d else v
    | .store .. => v) (getSpill s slot)

/-- FIL (R123). -/
def execFil (g : Reg) (slot : BitVec 9) (s : State) : Out :=
  issue [g] false 1 (fun s => .done (setG s g (readSpill s slot))) s

/-! ### LDA and STA (R124) -/

/-- The pages of a virtual range: the first address of the range in each. -/
def pageStarts (va len : Nat) : List Nat :=
  let p := pageOf va
  (List.range (pageOf (va + len - 1) + 1 - p)).map (fun i => if i = 0 then va else (p + i) * Config.pageBytes)

/-- What the pages of a copy answer: their translations, and whether one is migrating or unswept; a cause and its address; or that one is
held by a hand-over; each with the state in which the pages before it have been translated. -/
inductive CopyPages where
  | ok (ps : List (Nat × Nat)) (held : Bool) (s : State)
  | bad (c : Cause) (va : Nat) (s : State)
  | wait (s : State)

/-- Check and translate the pages of a copy, which starts whatever stores are parked on them: R294 names loads, atomics and stores as what
waits for a parked store, and no copy (DESIGN CHOICE, log entry 40). For a store, each page's D is set when the copy is performed. -/
def copyPages (kind : Nat) : List Nat → State → CopyPages
  | [], s => .ok [] false s
  | va :: t, s =>
    match check (BitVec.ofNat 64 va) 8 kind s with
    | .bad c => .bad c va s
    | .spad _ => .bad .seg va s
    | .held => .wait s
    | .mem pa mig sw _ s' =>
      match copyPages kind t s' with
      | .ok ps held s'' => .ok ((pageOf va, pa - va % Config.pageBytes) :: ps) ((kind == 4 && (mig || sw)) || held) s''
      | r => r

/-- LDA or STA of `n` bytes between scratchpad address `sp` and virtual address `va` (R124): the first operand that is no
multiple of 8, in the order destination, source, count, is the address of ALIGN. -/
def copyIssue (lda : Bool) (sp va n dst src : Word) (s : State) : Res :=
  let kind := if lda then 3 else 4
  let tr (c : Cause) (a : Word) : Res := .trap (checkTrap c a kind)
  if n = 0 then .done s
  else if n.toNat > 0x100000 then tr .seg va
  else if !sp.getLsbD 63 || va.getLsbD 63 then tr .seg va
  else if dst.toNat % 8 ≠ 0 then tr .align dst
  else if src.toNat % 8 ≠ 0 then tr .align src
  else if n.toNat % 8 ≠ 0 then tr .align n
  else
    let off := bitsOf sp.toNat 0 23
    if bitsOf sp.toNat 23 40 ≠ 0 || off ≥ Config.spadBytes then tr .seg sp
    else if off + n.toNat > Config.spadBytes then tr .seg (BitVec.ofNat 64 (2 ^ 63 + Config.spadBytes))
    else
      match copyPages kind (pageStarts va.toNat n.toNat) s with
      | .bad c a s' => .trapIn (accessTrap c (BitVec.ofNat 64 a) kind) s'
      | .wait s' => .stall s'
      | .ok ps held s' =>
        if held then .stall ((pageStarts va.toNat n.toNat).foldl (fun s a => raisePage a s) s')
        else if cpc s ≥ 16 then .stall s'
        else
          .done { s' with strand := { s'.strand with
            copies := s'.strand.copies ++ [{ toSpad := lda, off := off, va := va.toNat, len := n.toNat, pages := ps
                                             asid := s.sys.asid }] } }

/-- LDA (R124): g[B] bytes from the virtual address g[A] to the scratchpad address g[D]. -/
def execLda (d a b : Reg) (s : State) : Out :=
  issue [d, a, b] true 1 (fun s => copyIssue true (getG s d) (getG s a) (getG s b) (getG s d) (getG s a) s) s

/-- STA (R124): g[B] bytes from the scratchpad address g[A] to the virtual address g[D]. -/
def execSta (d a b : Reg) (s : State) : Out :=
  issue [d, a, b] true 1 (fun s => copyIssue false (getG s a) (getG s d) (getG s b) (getG s d) (getG s a) s) s

/-- The physical address of a byte of a copy, by the translation it checked at issue. -/
def copyPa (c : Copy) (va : Nat) : Nat :=
  ((c.pages.find? (fun p => p.1 == pageOf va)).map Prod.snd).getD 0 + va % Config.pageBytes

/-- The leaf that maps an address now, if its segment is pageable. -/
def leafOf (s : State) (asid : BitVec 13) (va : Nat) : Option Nat :=
  match segFind s asid va with
  | some e => if segPg e then (walk s e va).map Leaf.at_ else none
  | none => none

/-- The 8-byte units of a copy. -/
def copyUnits (c : Copy) : List Nat := (List.range (c.len / 8)).map (· * 8)

/-- One unit of an LDA: zero where its line is uncorrectable. -/
def ldaUnit (c : Copy) (s : State) (i : Nat) : State :=
  let k := memKey (ownNode s) (copyPa c (c.va + i))
  putSpad s (c.off + i) (if poisonedAt s k then leBytes 8 0 else bytesAt s.mem.mem k 8)

/-- UE for each uncorrectable line that the copy reads, at the first byte read of it. -/
def ldaPoison (c : Copy) (s : State) (i : Nat) : State :=
  let pa := copyPa c (c.va + i)
  if poisonedAt s (memKey (ownNode s) pa) && (i == 0 || pa % 64 == 0) then
    raiseAsync { cause := .ue, info := 3, src := 0, faddr := some (BitVec.ofNat 64 (c.va + i)) } (consumed false pa s)
  else s

/-- The writes of one unit of an STA. -/
def staUnit (c : Copy) (s : State) (i : Nat) : List ByteWrite :=
  writesOf (memKey (ownNode s) (copyPa c (c.va + i))) (bytesAt s.store.spad (c.off + i) 8)

/-- The lines of a copy, each a request at its home (R290). -/
def copyRequestsOf (c : Copy) (s : State) : State :=
  requestsAt (((copyUnits c).map (fun i => copyPa c (c.va + i))).filter (fun pa => pa % 64 == 0 || pa == copyPa c c.va)) s

/-- The writes of an STA: a line that they cover whole loses its poison (R289). -/
def staWrites (c : Copy) (s : State) : List ByteWrite := (copyUnits c).flatMap (staUnit c s)

/-- Perform a copy. -/
def performCopy (c : Copy) (s : State) : State :=
  let s := copyRequestsOf c s
  if c.toSpad then (copyUnits c).foldl (ldaUnit c) ((copyUnits c).foldl (ldaPoison c) s)
  else
    memWrite (staWrites c s) (c.pages.foldl (fun s p => markDirty (leafOf s c.asid (p.1 * Config.pageBytes)) s) s)

/-- COPY_RETIRE (R124): the i-th copy in flight is performed and retires. -/
def execCopyRetire (i : Nat) (s : State) : Out :=
  .next <|
    match s.strand.copies[i]? with
    | none => s
    | some c => performCopy c { s with strand := { s.strand with copies := s.strand.copies.eraseIdx i } }

/-! ### Atomics (R126, R127) -/

/-- The new value of an atomic on w-bit values. -/
def atomNew (op : AtomOp) (w old b cmp : Nat) : Nat :=
  match op with
  | .swp => b
  | .add => (old + b) % 2 ^ w
  | .and => old &&& b
  | .or => old ||| b
  | .xor => old ^^^ b
  | .min => if signedOf w old ≤ signedOf w b then old else b
  | .max => if signedOf w old ≥ signedOf w b then old else b
  | .minn => Nat.min old b
  | .maxn => Nat.max old b
  | .cas => if old = cmp then b else old

/-- A CAS that compares unequal writes nothing. -/
def atomWrites (op : AtomOp) (old cmp : Nat) : Bool := op != .cas || old == cmp

/-- An atomic of the strand: `op`, operands g[A] (address), g[B], and g[D] as the comparand of CAS. It waits for the held stores
of a commit that are still to issue (R122, R365). -/
def atom (op : AtomOp) (d a b : Reg) (w32 : Bool) (s : State) : Out :=
  issue [d, a, b] true 1 (fun s =>
    let size := if w32 then 4 else 8
    let w := 8 * size
    let addr := getG s a
    let bv := (getG s b).toNat % 2 ^ w
    let cmp := (getG s d).toNat % 2 ^ w
    match check addr size 2 s with
    | .bad c => .trap (accessTrap c addr 2)
    | .held => .stall s
    | .spad off =>
      if meetsCopy s addr size || !s.grp.issuing.isEmpty || ldc s ≥ 16 then .stall s
      else
        let old := readLe s.store.spad off size
        let s' := if atomWrites op old cmp then putSpad s off (leBytes size (atomNew op w old bv cmp)) else s
        .done (pushLoad { d := d, value := BitVec.ofNat 64 old, ue := false, addr := addr, kind := 2, ahead := false } s')
    | .mem pa mig sw leaf s' =>
      if sw then .stall (raisePage addr.toNat s')
      else if meetsCopy s addr size || pageParked s addr.toNat || mig || !s.grp.issuing.isEmpty || ldc s ≥ 16 then .stall s'
      else if poisonedAt s (memKey (ownNode s) pa) then
        .done (pushLoad { d := d, value := 0, ue := true, addr := addr, kind := 2, ahead := false }
          (consumed false pa (requestAt pa s')))
      else
        let old := readLe s.mem.mem (memKey (ownNode s) pa) size
        let s' := requestAt pa s'
        let s'' := if atomWrites op old cmp then storeMem pa size (BitVec.ofNat 64 (atomNew op w old bv cmp)) leaf s' else s'
        .done (pushLoad { d := d, value := BitVec.ofNat 64 old, ue := false, addr := addr, kind := 2, ahead := false } s'')) s

/-- ATOM.SWP (R126). The scope orders and does not bound atomicity (R127); in one strand's own order every atomic is
performed in its turn. -/
def execAtomSwp (d a b : Reg) (w32 : Bool) (_ : Scope) (s : State) : Out := atom .swp d a b w32 s
/-- ATOM.ADD (R126). -/
def execAtomAdd (d a b : Reg) (w32 : Bool) (_ : Scope) (s : State) : Out := atom .add d a b w32 s
/-- ATOM.AND (R126). -/
def execAtomAnd (d a b : Reg) (w32 : Bool) (_ : Scope) (s : State) : Out := atom .and d a b w32 s
/-- ATOM.OR (R126). -/
def execAtomOr (d a b : Reg) (w32 : Bool) (_ : Scope) (s : State) : Out := atom .or d a b w32 s
/-- ATOM.XOR (R126). -/
def execAtomXor (d a b : Reg) (w32 : Bool) (_ : Scope) (s : State) : Out := atom .xor d a b w32 s
/-- ATOM.MIN (R126). -/
def execAtomMin (d a b : Reg) (w32 : Bool) (_ : Scope) (s : State) : Out := atom .min d a b w32 s
/-- ATOM.MAX (R126). -/
def execAtomMax (d a b : Reg) (w32 : Bool) (_ : Scope) (s : State) : Out := atom .max d a b w32 s
/-- ATOM.MINN (R126). -/
def execAtomMinn (d a b : Reg) (w32 : Bool) (_ : Scope) (s : State) : Out := atom .minn d a b w32 s
/-- ATOM.MAXN (R126). -/
def execAtomMaxn (d a b : Reg) (w32 : Bool) (_ : Scope) (s : State) : Out := atom .maxn d a b w32 s
/-- ATOM.CAS (R126). -/
def execAtomCas (d a b : Reg) (w32 : Bool) (_ : Scope) (s : State) : Out := atom .cas d a b w32 s

/-! ### Fences (R128, R129) -/

/-- A record that writes the fabric (R93, R337). -/
def fabricWrites (e : Entry) : Bool :=
  e.own && !e.fold && (match recTask e.record with
    | some .wr | some .wrp | some .amo | some .post | some .sem | some .fred | some .halo => true
    | _ => false)

/-- Every earlier access is complete or performed; at scope fabric, fabric write records have drained. -/
def releaseReady (sc : Scope) (s : State) : Bool :=
  ldc s == 0 && stc s == 0 && (sc != .fabric || !s.thatch.entries.any fabricWrites)

/-- A fence: it stalls issue until its condition holds. -/
def fence (ready : State → Bool) (s : State) : Out :=
  issue [] true 1 (fun s => if ready s then .done s else .stall s) s

/-- FENCE.SC (R129). Its place in the total order of SC fences is its step. -/
def execFenceSc (sc : Scope) (s : State) : Out := fence (releaseReady sc) s

/-- FENCE.ACQ (R129): the same stall at every scope. -/
def execFenceAcq (_ : Scope) (s : State) : Out := fence (fun s => ldc s == 0) s

/-- FENCE.REL (R129). -/
def execFenceRel (sc : Scope) (s : State) : Out := fence (releaseReady sc) s

/-- FENCE.RQ (R129). -/
def execFenceRq (s : State) : Out := fence (fun s => s.mem.replay.isEmpty) s

/-- FENCE.PIP (R129, R353): no pip that the strand has obtained is INFLIGHT. -/
def execFencePip (s : State) : Out := fence (fun s => !s.fab.pips.any (fun p => p.2.state == .inflight)) s

end Sys2Proof.Machine
end

