-- ==== Sys2Proof/Machine/Boxes.lean ====
section
/-! DEFINITION. Husks, boxes and the box instructions (spec/07_core.md R151 to R157), `overlap` (spec/03_encoding.md R72),
where the elements of a box lie (spec/09_vector.md R207, spec/10_copy.md R237 to R240), and husks cached from memory
(spec/13_cluster.md R269 to R271). -/

namespace Sys2Proof.Machine

/-! ### The fields of a husk (R151) -/

def hkSb (h : Husk) : Int := signedOf 8 (bitsOf h.d0.toNat 16 8)
def hkV (h : Husk) : Bool := h.d0.getLsbD 15
def hkBnd (h : Husk) : Bool := h.d0.getLsbD 14
def hkMc (h : Husk) : Bool := h.d0.getLsbD 13
def hkRce (h : Husk) : Bool := h.d0.getLsbD 12
def hkCtab (h : Husk) : Nat := bitsOf h.d0.toNat 8 4
def hkKind (h : Husk) : Nat := bitsOf h.d0.toNat 6 2
def hkRank (h : Husk) : Nat := bitsOf h.d0.toNat 4 2 + 1
def hkFmtCode (h : Husk) : Nat := bitsOf h.d0.toNat 0 4
def hkExt (h : Husk) (d : Nat) : Nat := bitsOf h.d1.toNat (16 * d) 16
def hkStr (h : Husk) (d : Nat) : Int :=
  signedOf 32 (bitsOf (if d < 2 then h.d2.toNat else h.d3.toNat) (32 * (d % 2)) 32)
def hkOff (h : Husk) : Nat := bitsOf h.d4.toNat 0 23
def hkPeer (h : Husk) : Nat := bitsOf h.d4.toNat 23 9
def hkVoff (h : Husk) : Nat := bitsOf h.d4.toNat 0 48
def hkSeg (h : Husk) : Nat := bitsOf h.d4.toNat 48 6
def hkLend (h : Husk) : Nat := bitsOf h.d5.toNat 32 23
def hkLbase (h : Husk) : Nat := bitsOf h.d5.toNat 0 23
def hkNrow (h : Husk) : Nat := bitsOf h.d6.toNat 32 16
def hkHead (h : Husk) : Nat := bitsOf h.d6.toNat 0 32
def hkObj (h : Husk) : Nat := bitsOf h.d7.toNat 0 51

/-- The format of a husk; the reserved code 15 is refused when a husk is loaded (R152). -/
def hkFmt (h : Husk) : Fmt := (fmtOfCode (hkFmtCode h)).getD .f32
def hkBits (h : Husk) : Nat := fmtBits (hkFmt h)

def kLocal : Nat := 0
def kPeer : Nat := 1
def kMem : Nat := 2
def kWin : Nat := 3

def getHusk (s : State) (n : Nat) : Husk := tget {} s.store.husks n

def setHusk (n : Nat) (h : Husk) (s : State) : State :=
  { s with store := { s.store with husks := tset {} s.store.husks n h } }

/-- A companding table; an invalid one has no entries. -/
def getTab (s : State) (n : Nat) : List Word := tget [] s.store.tabs n

/-- The base address of a MEM or WIN husk's tensor: VBASE of its segment plus its offset. -/
def hkVbase (s : State) (h : Husk) : Nat :=
  (match segNumber s s.sys.asid (hkSeg h) with | some e => segVbase e | none => 0) + hkVoff h

/-- The byte that element strides count from. -/
def hkBase (s : State) (h : Husk) : Nat :=
  if hkKind h = kMem ∨ hkKind h = kWin then hkVbase s h else hkOff h

/-- The product of the extents below dimension `d`. -/
def extProd (h : Husk) : Nat → Nat
  | 0 => 1
  | d + 1 => extProd h d * hkExt h d

/-- Elements of a whole husk, and its dense size in bytes. -/
def hkElems (h : Husk) : Nat := extProd h (hkRank h)
def hkDense (h : Husk) : Nat := (hkElems h * hkBits h + 7) / 8

/-- The dense size of one row of a WIN husk (R240). -/
def hkRow (h : Husk) : Nat := ((extProd h (hkRank h - 1) * hkBits h + 7) / 8 + 63) / 64 * 64

/-! ### Boxes -/

/-- Extents of the accumulator space (R157). -/
def accExt : Nat → Nat
  | 0 => Config.accCols | 1 => Config.accRows | 2 => 2 | _ => 0

/-- The rank of a box: 3 for the accumulator. -/
def boxRank (s : State) (b : RBox) : Nat := if b.acc then 3 else hkRank (getHusk s b.hid)

/-- Origin and extent in a dimension; at or above the rank 0 and 1 (R191, R207). -/
def boxO (s : State) (b : RBox) (d : Nat) : Nat := if d < boxRank s b then dget b.o d else 0
def boxE (s : State) (b : RBox) (d : Nat) : Nat := if d < boxRank s b then dget b.e d else 1

def boxFmt (s : State) (b : RBox) : Fmt := if b.acc then .rq else hkFmt (getHusk s b.hid)
def boxBits (s : State) (b : RBox) : Nat := fmtBits (boxFmt s b)

/-- Elements of a box. -/
def boxElems (s : State) (b : RBox) : Nat := boxE s b 0 * boxE s b 1 * boxE s b 2 * boxE s b 3

/-- Bytes of its stream (R237). -/
def boxBytes (s : State) (b : RBox) : Nat := (boxElems s b * boxBits s b + 7) / 8

/-- Some extent below the rank is 0. -/
def boxEmpty (s : State) (b : RBox) : Bool := (List.range (boxRank s b)).any (fun d => dget b.e d == 0)

/-- The offsets of the element with linear index n (R207). -/
def boxIndex (s : State) (b : RBox) (n : Nat) : Dims :=
  let e0 := boxE s b 0
  let e1 := boxE s b 1
  let e2 := boxE s b 2
  { x0 := n % e0, x1 := n / e0 % e1, x2 := n / e0 / e1 % e2, x3 := n / e0 / e1 / e2 }

/-- The linear index of an element (R207). -/
def boxLin (s : State) (b : RBox) (i : Dims) : Nat :=
  i.x0 + boxE s b 0 * (i.x1 + boxE s b 1 * (i.x2 + boxE s b 2 * i.x3))

/-! ### Overlap (R72) -/

def dimsMeet (p q : RBox) (rank : Nat) : Bool :=
  (List.range rank).all (fun d =>
    decide (dget q.o d < dget p.o d + dget p.e d) && decide (dget p.o d < dget q.o d + dget q.e d))

/-- `span` of a box of a husk that is no WIN husk, in bytes. -/
def spanOf (s : State) (h : Husk) (o e : Dims) : Int × Int :=
  let f := fun (acc : Int × Int) (d : Nat) =>
    let a := (dget o d : Int) * hkStr h d
    let b := ((dget o d : Int) + (dget e d : Int) - 1) * hkStr h d
    (acc.1 + min a b, acc.2 + max a b)
  let r := (List.range (hkRank h)).foldl f (0, 0)
  let base : Int := hkBase s h
  (base + r.1 * hkBits h / 8, base + r.2 * hkBits h / 8 + (max 1 (hkBits h / 8) : Nat))

/-- Dense bytes of the home box of a rename buffer. -/
def bufDense (s : State) (b : RBox) (r : Buf) : Nat := (boxElems s { b with o := r.o, e := r.e } * boxBits s b + 7) / 8

/-- The byte ranges that a box may touch: whether virtual, and the half-open range. -/
def rangesOf (s : State) (b : RBox) : List (Bool × Int × Int) :=
  let h := getHusk s b.hid
  match b.rb with
  | some r => [(false, (r.off : Int), (r.off + bufDense s b r : Nat))]
  | none =>
    if hkKind h = kMem then
      (true, spanOf s h b.o b.e) :: (if hkMc h then [(false, (hkLbase h : Int), (hkLend h : Int))] else [])
    else if hkKind h = kWin then [(false, (hkLbase h : Int), (hkLend h : Int))]
    else [(false, spanOf s h b.o b.e)]

/-- `overlap` of R72. A rename buffer is compared by its bytes. -/
def overlap (s : State) (p q : RBox) : Bool :=
  if boxEmpty s p || boxEmpty s q then false
  else if p.acc || q.acc then p.acc && q.acc && dimsMeet p q 3
  else if p.rb.isNone && q.rb.isNone && p.hid == q.hid then dimsMeet p q (boxRank s p)
  else if (p.rb.isNone && hkKind (getHusk s p.hid) == kPeer) || (q.rb.isNone && hkKind (getHusk s q.hid) == kPeer) then false
  else
    (rangesOf s p).any (fun r => (rangesOf s q).any (fun t =>
      r.1 == t.1 && decide (r.2.1 < t.2.2) && decide (t.2.1 < r.2.2)))

/-- Both are one box: the same husk, origins and extents (R210). -/
def sameBox (s : State) (p q : RBox) : Bool :=
  p.acc == q.acc && p.hid == q.hid && p.rb == q.rb &&
    (List.range (boxRank s p)).all (fun d => dget p.o d == dget q.o d && dget p.e d == dget q.e d)

/-- Box `p` lies wholly inside box `q` of the same husk (R162). -/
def insideBox (s : State) (p q : RBox) : Bool :=
  !p.acc && !q.acc && p.rb.isNone && p.hid == q.hid &&
    (List.range (boxRank s p)).all (fun d =>
      decide (dget q.o d ≤ dget p.o d) && decide (dget p.o d + dget p.e d ≤ dget q.o d + dget q.e d))

/-! ### Where elements lie -/

/-- A bit address: in this core's scratchpad, in the scratchpad of a core of this package, or in virtual memory. -/
inductive Loc where
  | spad (bit : Nat)
  | peer (core bit : Nat)
  | mem (bit : Nat)
  deriving DecidableEq, Repr

/-- A signed bit address; one below zero names no byte. -/
def bitAddr (v : Int) : Nat := (v % (2 ^ 80 : Nat)).toNat

/-- The dense linear index of a position of a husk over its dimensions below `d`. -/
def denseIndex (h : Husk) (i : Dims) : Nat → Nat
  | 0 => 0
  | d + 1 => denseIndex h i d + dget i d * extProd h d

/-- The offset of a position of a husk in elements, by its strides. -/
def strideIndex (h : Husk) (i : Dims) : Nat → Int
  | 0 => 0
  | d + 1 => strideIndex h i d + (dget i d : Int) * hkStr h d

/-- Where the element at a position of a husk lies (R151, R240, R269). -/
def locOfHusk (s : State) (h : Husk) (i : Dims) : Loc :=
  let strided := (hkBase s h : Int) * 8 + strideIndex h i (hkRank h) * hkBits h
  if hkKind h = kLocal then .spad (bitAddr strided)
  else if hkKind h = kPeer then .peer (hkPeer h) (bitAddr strided)
  else if hkKind h = kMem then
    if hkMc h then .spad (hkLbase h * 8 + denseIndex h i (hkRank h) * hkBits h) else .mem (bitAddr strided)
  else
    let r := dget i (hkRank h - 1)
    .spad ((hkLbase h + r % max 1 (hkNrow h) * hkRow h) * 8 + denseIndex h i (hkRank h - 1) * hkBits h)

/-- The virtual bit address of a position of a MEM or WIN husk's tensor. -/
def tensorBit (s : State) (h : Husk) (i : Dims) : Nat :=
  bitAddr ((hkVbase s h : Int) * 8 + strideIndex h i (hkRank h) * hkBits h)

/-- The position of a box's element in its husk. -/
def boxPos (s : State) (b : RBox) (n : Nat) : Dims :=
  let i := boxIndex s b n
  { x0 := boxO s b 0 + i.x0, x1 := boxO s b 1 + i.x1, x2 := boxO s b 2 + i.x2, x3 := boxO s b 3 + i.x3 }

/-- Where element n of a husk box lies. -/
def locOf (s : State) (b : RBox) (n : Nat) : Loc :=
  match b.rb with
  | some r =>
    let p := boxPos s b n
    let h : RBox := { b with o := r.o, e := r.e }
    .spad (r.off * 8 + boxLin s h { x0 := p.x0 - boxO s h 0, x1 := p.x1 - boxO s h 1, x2 := p.x2 - boxO s h 2
                                    x3 := p.x3 - boxO s h 3 } * boxBits s b)
  | none => locOfHusk s (getHusk s b.hid) (boxPos s b n)

/-- The key of an accumulator element (R150): element n of an accumulator box. -/
def accKey (s : State) (b : RBox) (n : Nat) : Nat :=
  let p := boxPos s b n
  p.x2 * 32768 + p.x1 * 256 + p.x0

def getAcc (s : State) (k : Nat) : Acc := tget {} s.store.acc k

/-! ### The rename pool (R163) -/

def poolLo (s : State) : Nat := Config.spadBytes - s.sys.rnpool.toNat * 4096

/-- A range of scratchpad meets the pool. -/
def meetsPool (s : State) (lo hi : Int) : Bool :=
  decide (lo < hi) && s.sys.rnpool != 0 && decide ((poolLo s : Int) < hi) && decide (lo < (Config.spadBytes : Int))

/-- A valid LOCAL, WIN or MC husk whose footprint meets a range. -/
def huskMeets (s : State) (lo hi : Int) : Bool :=
  s.store.husks.any (fun p =>
    let h := p.2
    hkV h && (
      if hkKind h = kLocal then
        let r := spanOf s h {} { x0 := hkExt h 0, x1 := hkExt h 1, x2 := hkExt h 2, x3 := hkExt h 3 }
        decide (r.1 < hi) && decide (lo < r.2)
      else if hkKind h = kWin ∨ hkMc h then decide ((hkLbase h : Int) < hi) && decide (lo < (hkLend h : Int))
      else false))

/-! ### The checks of a husk image (R152, R269) -/

def hkWhole (h : Husk) : Dims := { x0 := hkExt h 0, x1 := hkExt h 1, x2 := hkExt h 2, x3 := hkExt h 3 }

/-- A reserved bit is nonzero, or a field that the kind does not use, or one at or above the rank. -/
def huskReserved (h : Husk) : Bool :=
  let k := hkKind h
  let ranged := k == kWin || hkMc h
  bitsOf h.d0.toNat 24 40 != 0 || (hkMc h && k != kMem) ||
    (List.range 4).any (fun d => decide (hkRank h ≤ d) && (hkExt h d != 0 || hkStr h d != 0)) ||
    (if k = kLocal then bitsOf h.d4.toNat 23 41 != 0
     else if k = kPeer then bitsOf h.d4.toNat 32 32 != 0
     else bitsOf h.d4.toNat 54 10 != 0) ||
    bitsOf h.d5.toNat 55 9 != 0 || bitsOf h.d5.toNat 23 9 != 0 || (!ranged && h.d5 != 0) ||
    bitsOf h.d6.toNat 48 16 != 0 || (k != kWin && h.d6 != 0) || bitsOf h.d7.toNat 51 13 != 0

/-- An image that HKLD and the launch refuse, whatever the target id. -/
def huskBad (s : State) (h : Husk) : Bool :=
  let k := hkKind h
  let r := spanOf s h {} (hkWhole h)
  huskReserved h || hkFmtCode h == 15 || (hkSb h != 0 && hkFmt h != .c8) ||
    (hkFmt h == .c8 && getTab s (hkCtab h) == []) ||
    (List.range (hkRank h)).any (fun d => hkExt h d == 0) ||
    !hkV h || hkBnd h || hkObj h != 0 ||
    (k == kLocal && (decide (r.1 < 0) || decide ((Config.spadBytes : Int) < r.2) || meetsPool s r.1 r.2)) ||
    (k == kPeer && decide (6 ≤ hkPeer h / 16 % 8)) ||
    ((k == kMem || k == kWin) && (segNumber s s.sys.asid (hkSeg h)).isNone) ||
    ((k == kWin || hkMc h) && (decide (hkLend h ≤ hkLbase h) || decide (Config.spadBytes < hkLend h)
      || meetsPool s (hkLbase h) (hkLend h))) ||
    (hkMc h && decide (hkLend h - hkLbase h < (hkDense h + 4095) / 4096 * 4096))

/-- A husk from the bytes of its image, and back. -/
def huskOf (bs : List Byte) : Husk :=
  let w (i : Nat) : Word := BitVec.ofNat 64 (leNat ((bs.drop (8 * i)).take 8))
  { d0 := w 0, d1 := w 1, d2 := w 2, d3 := w 3, d4 := w 4, d5 := w 5, d6 := w 6, d7 := w 7 }

def huskBytes (h : Husk) : List Byte :=
  [h.d0, h.d1, h.d2, h.d3, h.d4, h.d5, h.d6, h.d7].flatMap (fun w => leBytes 8 w.toNat)

/-! ### The map unit's engine accesses -/

/-- What an engine access to a virtual byte answers: its physical address, leaf, and the state with the buffer filled;
that it must wait for a migrating or unswept page (R295); or a cause. -/
inductive EngX where
  | ok (pa : Nat) (leaf : Option Nat) (s : State)
  | wait
  | bad (c : Cause)

/-- Translate an engine access through the map unit (R266, R120, R306), which asks its home by `req`; one to a stack whose hand-over is
under way waits, itself or in its walk (R309). -/
def engXBy (req : Nat → State → State) (va kind : Nat) (s : State) : EngX :=
  if va ≥ 2 ^ 51 then .bad .seg
  else
    match xlate true s.sys.asid va kind s with
    | .bad c => if walkHeld false kind va s then .wait else .bad c
    | .ok pa mig sw leaf s' =>
      if kindWrites kind && (mig || sw) then .wait
      else if !reachesHome s pa then .bad .owner
      else if pathRidges s va pa then .wait
      else .ok pa leaf (req pa s')

/-- An access of an engine of this core. -/
def engX (va kind : Nat) (s : State) : EngX := engXBy requestAt va kind s

/-! ### Husks cached from memory (R269 to R271) -/

def blockKey (hid blk : Nat) : Nat := hid * 2048 + blk

def getBlock (s : State) (hid blk : Nat) : Block := tget {} s.store.blocks (blockKey hid blk)

def setBlock (hid blk : Nat) (b : Block) (s : State) : State :=
  { s with store := { s.store with blocks := tset {} s.store.blocks (blockKey hid blk) b } }

/-- Position of a husk from its dense linear index. -/
def densePos (h : Husk) (n : Nat) : Dims :=
  { x0 := n % max 1 (hkExt h 0), x1 := n / extProd h 1 % max 1 (hkExt h 1), x2 := n / extProd h 2 % max 1 (hkExt h 2)
    x3 := n / extProd h 3 }

/-- A piece of a byte of the cache: the byte of memory, the first bit there, how many bits, the first bit in the cache
byte, and the address of the element. -/
structure Piece where
  va : Nat
  lo : Nat
  n : Nat
  at_ : Nat
  elem : Nat
  deriving DecidableEq, Repr

/-- The pieces of byte j of a cached husk's dense bytes. -/
def cachePieces (s : State) (h : Husk) (j : Nat) : List Piece :=
  if hkBits h < 8 then
    (List.range 8).filterMap (fun k =>
      let n := 8 * j + k
      if n < hkElems h then
        let a := tensorBit s h (densePos h n)
        some { va := a / 8, lo := a % 8, n := 1, at_ := k, elem := a / 8 }
      else none)
  else
    let n := j * 8 / hkBits h
    if n < hkElems h then
      let a := tensorBit s h (densePos h n) / 8
      let k := j - n * hkBits h / 8
      [{ va := a + k, lo := 0, n := 8, at_ := 0, elem := a }]
    else []

/-- The bytes of the cache that lie in [a, b). -/
def cacheRange (h : Husk) (a b : Nat) : List Nat := ((List.range (b - a)).map (· + a)).filter (fun j => decide (j < hkDense h))

/-- A failed access: the cause and the element's address; or a wait for the page of an address. -/
inductive Fail where
  | cause (c : Cause) (va : Nat)
  | wait (va : Nat)
  deriving DecidableEq, Repr

/-- A write that waits at a page of a sweep raises it (R253). -/
def raiseFail (f : Option Fail) (s : State) : State :=
  match f with
  | some (.wait va) => raisePage va s
  | _ => s

/-- Translate pieces of one kind of access; a read of a poisoned line is UE, at its line (R189, R270). -/
def touchPieces (kind : Nat) : List Piece → State → Except Fail State
  | [], s => .ok s
  | p :: t, s =>
    match engX p.va kind s with
    | .bad c => .error (.cause c p.elem)
    | .wait => .error (.wait p.va)
    | .ok pa _ s' =>
      if kind = 0 ∧ poisonedAt s (memKey (ownNode s) pa) then .error (.cause .ue (p.va / 64 * 64)) else touchPieces kind t s'

/-- Check the write right of pieces: no line is accessed, so none is a request (R290). A page that is migrating or unswept does not hold
a write into the cache. -/
def touchRights : List Piece → State → Except Fail State
  | [], s => .ok s
  | p :: t, s =>
    match engXBy (fun _ s => s) p.va 1 s with
    | .bad c => .error (.cause c p.elem)
    | .wait => touchRights t s
    | .ok _ _ s' => touchRights t s'

/-- The physical address and leaf of a byte whose access has been checked. -/
def paOf (s : State) (va kind : Nat) : Nat × Option Nat :=
  match engX va kind s with
  | .ok pa leaf _ => (pa, leaf)
  | _ => (0, none)

/-- One cache byte as memory holds it. -/
def gather (s : State) (ps : List Piece) : Nat :=
  ps.foldl (fun v p =>
    v + bitsOf (byteAt s.mem.mem (memKey (ownNode s) (paOf s p.va 0).1)).toNat p.lo p.n * 2 ^ p.at_) 0

/-- Fill a block at its first touch (R270). -/
def fillBlock (hid blk : Nat) (s : State) : Except Fail State :=
  let h := getHusk s hid
  let js := cacheRange h (4096 * blk) (4096 * blk + 4096)
  match touchPieces 0 (js.flatMap (cachePieces s h)) s with
  | .error e => .error e
  | .ok s' =>
    let s'' := putSpad s' (hkLbase h + 4096 * blk) (js.map (fun j => BitVec.ofNat 8 (gather s (cachePieces s h j))))
    .ok (setBlock hid blk { valid := true, dirty := 0 } s'')

/-- A record's access to a block: fill it, and for a write check the write right of its elements (R270). -/
def touchBlock (hid blk : Nat) (write : Bool) (s : State) : Except Fail State :=
  let h := getHusk s hid
  let filled := if (getBlock s hid blk).valid then .ok s else fillBlock hid blk s
  match filled with
  | .error e => .error e
  | .ok s' =>
    if write then
      touchRights ((cacheRange h (4096 * blk) (4096 * blk + 4096)).flatMap (cachePieces s' h)) s'
    else .ok s'

/-- The dirty units of a block. -/
def dirtyUnits (b : Block) : List Nat := (List.range 64).filter (fun i => b.dirty.getLsbD i)

/-- The cache bytes of the dirty units of a husk. -/
def dirtyBytes (s : State) (hid : Nat) : List Nat :=
  (s.store.blocks.filter (fun b => b.1 / 2048 == hid)).flatMap (fun b =>
    (dirtyUnits b.2).flatMap (fun u =>
      cacheRange (getHusk s hid) (4096 * (b.1 % 2048) + 64 * u) (4096 * (b.1 % 2048) + 64 * u + 64)))

/-- The writes of one cache byte to memory, each with the leaf that maps it. -/
def scatter (s : State) (h : Husk) (j : Nat) : List (ByteWrite × Option Nat) :=
  let v := (byteAt s.store.spad (hkLbase h + j)).toNat
  (cachePieces s h j).map (fun p =>
    let x := paOf s p.va 1
    ({ addr := memKey (ownNode s) x.1, mask := BitVec.ofNat 8 ((2 ^ p.n - 1) * 2 ^ p.lo)
       data := BitVec.ofNat 8 (bitsOf v p.at_ p.n * 2 ^ p.lo) }, x.2))

/-- Write cache bytes back to memory: the D of each leaf, then the bytes, whole lines together (R289, R292). -/
def scatterAll (h : Husk) (js : List Nat) (s : State) : State :=
  let ws := js.flatMap (scatter s h)
  memWrite (ws.map Prod.fst) (ws.foldl (fun s w => markDirty w.2 s) s)

/-- Every block of a husk becomes CLEAN if it holds anything; or INVALID. -/
def settleBlocks (hid : Nat) (invalid : Bool) (s : State) : State :=
  { s with store := { s.store with
    blocks := s.store.blocks.filterMap (fun b =>
      if b.1 / 2048 = hid then (if invalid then none else some (b.1, { b.2 with dirty := 0 })) else some b) } }

/-- Write a husk back (R271): every element of its dirty units is checked before any is written (DEDUCED, log entry 14). -/
def writeBack (hid : Nat) (s : State) : Except Fail State :=
  let h := getHusk s hid
  let js := dirtyBytes s hid
  match touchPieces 1 (js.flatMap (cachePieces s h)) s with
  | .error e => .error e
  | .ok s' => .ok (settleBlocks hid false (scatterAll h js s'))

/-- Write back a list of husks, in order: how many succeed, what stops the next, and the state. -/
def writeBackAll : List Nat → State → Nat × Option Fail × State
  | [], s => (0, none, s)
  | n :: t, s =>
    match writeBack n s with
    | .error e => (0, some e, s)
    | .ok s' =>
      let r := writeBackAll t s'
      (r.1 + 1, r.2.1, r.2.2)

/-- The husks that have something to write back. -/
def dirtyHusks (s : State) (ns : List Nat) : List Nat := ns.filter (fun n => !(dirtyBytes s n).isEmpty)

/-- A write-back performed for an instruction is precise (R271): INFO kind 1, FADDR the element's address. A husk behind
others that have been written back meets its cause when the instruction, stalled, executes again. -/
def withWriteBack (ns : List Nat) (s : State) (f : State → Res) : Res :=
  match writeBackAll (dirtyHusks s ns) s with
  | (_, none, s') => f s'
  | (0, some (.cause c va), _) => .trap { checkTrap c (BitVec.ofNat 64 va) 1 with access := some false }
  | (_, some f, s') => .stall (raiseFail (some f) s')

/-! ### The box instructions (R156) -/

def boxbad : Res := .trap { cause := .boxbad }
def huskbad : Res := .trap { cause := .huskbad }

/-- v of R156: g[A] + IMM9, in 64 bits. -/
def boxV (s : State) (a : Reg) (imm : BitVec 9) : Word := getG s a + zextW imm

/-- BXH. -/
def execBxh (x : Bx) (a : Reg) (imm : BitVec 9) (s : State) : Out :=
  issue [a] false 1 (fun s =>
    let v := (boxV s a imm).toNat
    if v ≤ 1023 then
      let h := getHusk s v
      if hkV h then .done (setBox s x { bv := true, acc := false, hid := v, o := {}, e := hkWhole h, s := {} }) else huskbad
    else if v = 1024 ∨ v = 1025 then .done (setBox s x (BoxReg.bank (v - 1024)))
    else boxbad) s

/-- The rank of a box register with ACC = 0 is that of its husk as it stands now; none if the husk is invalid. -/
def bregRank (s : State) (b : BoxReg) : Option Nat :=
  if b.acc then some 3 else if hkV (getHusk s b.hid) then some (hkRank (getHusk s b.hid)) else none

/-- BXO, BXE and BXS: the checks in the order of R156, then the write. -/
def setBoxDim (x : Bx) (dim : BitVec 2) (ok : Bool) (f : BoxReg → BoxReg) (s : State) : Res :=
  let b := getBox s x
  if !b.bv then boxbad
  else
    match bregRank s b with
    | none => huskbad
    | some r => if r ≤ dim.toNat || !ok then boxbad else .done (setBox s x (f b))

/-- BXO. -/
def execBxo (x : Bx) (dim : BitVec 2) (a : Reg) (imm : BitVec 9) (s : State) : Out :=
  issue [a] false 1 (fun s =>
    let v := (boxV s a imm).toNat
    setBoxDim x dim (decide (v ≤ 65535)) (fun b => { b with o := dput b.o dim.toNat v }) s) s

/-- BXE. -/
def execBxe (x : Bx) (dim : BitVec 2) (a : Reg) (imm : BitVec 9) (s : State) : Out :=
  issue [a] false 1 (fun s =>
    let v := (boxV s a imm).toNat
    setBoxDim x dim (decide (v ≤ 65535)) (fun b => { b with e := dput b.e dim.toNat v }) s) s

/-- BXS: the step is signed; it is held as 16-bit two's complement. -/
def execBxs (x : Bx) (dim : BitVec 2) (a : Reg) (imm : BitVec 9) (s : State) : Out :=
  issue [a] false 1 (fun s =>
    let v := (boxV s a imm).toInt
    setBoxDim x dim (decide (-32768 ≤ v) && decide (v ≤ 32767))
      (fun b => { b with s := dput b.s dim.toNat (unsignedOf 16 v) }) s) s

/-- BXC. -/
def execBxc (x a : Bx) (s : State) : Out := issue [] false 1 (fun s => .done (setBox s x (getBox s a))) s

/-- BXZ. -/
def execBxz (x : Bx) (s : State) : Out :=
  issue [] false 1 (fun s => .done (setBox s x { getBox s x with bv := false })) s

/-! ### The husk instructions (R153) -/

def boxList (b : Boxes) : List RBox := b.w.toList ++ b.a.toList ++ b.b.toList ++ b.c.toList

/-- The boxes of an entry that name husks of this core: the W of F.HALO does not (R343). -/
def ownBoxes (e : Entry) : List RBox :=
  if recTask e.record = some .halo ∧ e.fold = false then boxList { e.boxes with w := none } else boxList e.boxes

/-- An unretired record names husk n. -/
def namesHusk (s : State) (n : Nat) : Bool :=
  s.thatch.entries.any (fun e => (ownBoxes e).any (fun b => !b.acc && b.hid == n))

/-- An unretired record names a husk that uses table n. -/
def namesTab (s : State) (n : Nat) : Bool :=
  s.thatch.entries.any (fun e => (ownBoxes e).any (fun b =>
    !b.acc && hkFmt (getHusk s b.hid) == .c8 && hkCtab (getHusk s b.hid) == n))

/-- A HUSK instruction with an image: the id, the address, the stalls, then what it does at the offset. -/
def huskOp (limit size kind : Nat) (names : State → Nat → Bool) (h a : Reg) (imm : BitVec 8)
    (f : Nat → Nat → State → Res) (s : State) : Out :=
  issue [h, a] true 1 (fun s =>
    let n := (getG s h + zextW imm).toNat
    let addr := getG s a
    if n > limit then huskbad
    else if !addr.getLsbD 63 then .trap (checkTrap .seg addr kind)
    else
      match check addr size kind s with
      | .bad c => .trap (checkTrap c addr kind)
      | .mem _ _ _ _ _ | .held => .trap (checkTrap .seg addr kind)
      | .spad off => if names s n || meetsCopy s addr size then .stall s else f n off s) s

/-- HKLD: the checks of R152, the write-back of the old husk, then the new image with every block INVALID (R269). -/
def execHkld (h a : Reg) (imm : BitVec 8) (s : State) : Out :=
  huskOp 1023 64 0 namesHusk h a imm (fun n off s =>
    let img := huskOf (bytesAt s.store.spad off 64)
    if hkBnd (getHusk s n) || huskBad s img then huskbad
    else withWriteBack [n] s (fun s => .done (setHusk n img (settleBlocks n true s)))) s

/-- HKST. -/
def execHkst (h a : Reg) (imm : BitVec 8) (s : State) : Out :=
  huskOp 1023 64 1 namesHusk h a imm (fun n off s => .done (putSpad s off (huskBytes (getHusk s n)))) s

/-- HKINV: it names no address. -/
def execHkinv (h : Reg) (imm : BitVec 8) (s : State) : Out :=
  issue [h] true 1 (fun s =>
    let n := (getG s h + zextW imm).toNat
    if n > 1023 then huskbad
    else if namesHusk s n then .stall s
    else if hkBnd (getHusk s n) then huskbad
    else
      withWriteBack [n] s (fun s =>
        let k := getHusk s n
        .done (setHusk n { k with d0 := k.d0 &&& ~~~(BitVec.ofNat 64 (2 ^ 15)) } (settleBlocks n true s)))) s

/-- HKTAB: the table is checked by R22. -/
def execHktab (h a : Reg) (imm : BitVec 8) (s : State) : Out :=
  huskOp 15 128 0 namesTab h a imm (fun n off s =>
    let tab := (List.range 16).map (fun i => BitVec.ofNat 64 (readLe s.store.spad (off + 8 * i) 8))
    if tabValid tab then .done { s with store := { s.store with tabs := tset [] s.store.tabs n tab } } else huskbad) s

end Sys2Proof.Machine
end

