-- ==== Sys2Proof/Machine/Checks.lean ====
section
/-! DEFINITION. The checks of a POST (spec/03_encoding.md R44, R68 to R70): the record's fields, the resolution of its boxes
(spec/07_core.md R157), and the checks of each task's own entry (spec/08_matrix_transpose.md R192, R203, spec/09_vector.md
R213, spec/10_copy.md R236, spec/18_fabric_remote.md R338). -/

namespace Sys2Proof.Machine

/-- How a task uses a box field. -/
inductive Use where
  | no | req | opt
  deriving DecidableEq, Repr

/-- What a task assigns (R68, R191, R202, R212, R235, R337): boxes, the assigned bits of MOD, IMM64 and XF, and GV: 0, 1,
or 2 for either. -/
structure Shape where
  w : Use := .no
  a : Use := .no
  b : Use := .no
  c : Use := .no
  mod : Nat := 0
  imm : Nat := 0
  xf : Nat := 0
  gv : Nat := 0
  deriving DecidableEq, Repr

def allOnes64 : Nat := 2 ^ 64 - 1

/-- The shape of each task. -/
def shapeOf : Task → Shape
  | .mm | .mmq => { w := .req, a := .req, b := .req }
  | .mmg => { w := .req, a := .req, b := .req, c := .req, imm := 0xFF }
  | .mz | .mst => { w := .req }
  | .xpose => { w := .req, a := .req }
  | .xperm => { w := .req, a := .req, imm := 0xFF }
  | .xrev => { w := .req, a := .req, imm := 0xF }
  | .vadd | .vsub | .vmul | .vmin | .vmax => { w := .req, a := .req, b := .req, mod := 7 }
  | .vfma => { w := .req, a := .req, b := .req, c := .req, mod := 7 }
  | .vdiv => { w := .req, a := .req, b := .req, mod := 3 }
  | .vsqrt | .vrcp | .vrsq | .vexp2 | .vlog2 | .vcvt | .vqnt | .vdq | .vbcst => { w := .req, a := .req, mod := 3 }
  | .vabs | .vneg => { w := .req, a := .req, mod := 7 }
  | .vscl => { w := .req, a := .req, mod := 3, imm := 0xFFFF }
  | .vand | .vor | .vxor => { w := .req, a := .req, b := .opt, imm := allOnes64 }
  | .vnot | .vpopc | .vclz => { w := .req, a := .req }
  | .vshl | .vshr | .vsra => { w := .req, a := .req, imm := 0x3F }
  | .vclm => { w := .req, a := .req, b := .opt, mod := 4, imm := allOnes64 }
  | .vcmp => { w := .req, a := .req, b := .req, imm := 7 }
  | .vsel => { w := .req, a := .req, b := .req, c := .req }
  | .vred | .vscan => { w := .req, a := .req, mod := 7, imm := 7 }
  | .vany | .vall | .vcnt => { a := .req, gv := 1 }
  | .viota => { w := .req, mod := 7, imm := allOnes64 }
  | .vcomp => { w := .req, a := .req, c := .req, gv := 2 }
  | .vgth | .vsct => { w := .req, a := .req, b := .req }
  | .vhist => { w := .req, a := .req, mod := 4, xf := 1 }
  | .cpy => { w := .req, a := .req }
  | .cpyf => { w := .opt, a := .req, gv := 1 }
  | .cmpb => { a := .req, b := .req, gv := 1 }
  | .fill => { w := .req, imm := allOnes64 }
  | .adv => { w := .req, mod := 1, imm := 0xFFFF }
  | .drn | .drna | .accl | .selk => { w := .req, a := .req }
  | .cpypg => { mod := 1, imm := 0x7FFFFFFFF8000, xf := 0xFFFFFFFFF8000, gv := 2 }
  | .ckpt => { imm := allOnes64, xf := 0xFFFFFFFF803F, gv := 2 }
  | .wr => { w := .req, a := .req, xf := 0x1FF }
  | .wrp => { w := .req, a := .req, xf := 0x1FF, gv := 1 }
  | .rd => { w := .req, a := .req }
  | .amo => { w := .req, mod := 0xF, imm := allOnes64, xf := allOnes64, gv := 2 }
  | .post => { imm := 0x7FFFFF, xf := 0x1FFFFF }
  | .sem => { imm := allOnes64, xf := 0x1FF }
  | .rte => { w := .req, a := .req, b := .req, c := .req, gv := 2 }
  | .fred => { w := .req, a := .req, mod := 7, imm := 0x73FFFFFFF }
  | .halo => { w := .req, a := .req, imm := 0x7FFF, xf := 0x1FF, gv := 2 }

/-- A box field agrees with its valid bit and with the task's use of it. -/
def useBad (u : Use) (valid : Bool) (field : Nat) : Bool :=
  (!valid && field != 0) || (u == .req && !valid) || (u == .no && valid)

/-- A bit outside a mask is set. -/
def outside (v mask : Nat) : Bool := v &&& mask != v

/-- R68: TASKBAD. -/
def fieldsBad (r : Rec) : Bool :=
  rf r 13 3 != 0 || rf r 103 25 != 0 ||
  match recTask r with
  | none => true
  | some t =>
    let p := shapeOf t
    useBad p.w (recVW r) (recBoxW r) || useBad p.a (recVA r) (recBoxA r) || useBad p.b (recVB r) (recBoxB r) ||
      useBad p.c (recVC r) (recBoxC r) ||
      (!recGv r && rf r 48 6 != 0) || (recGv r && p.gv == 0) || (!recGv r && p.gv == 1) ||
      (!recWv r && (recWsem r != 0 || recWthr r != 0)) ||
      (!recSigv r && (recSigsem r != 0 || recSigadd r != 0)) ||
      outside (recMod r) p.mod || outside (recImm r) p.imm || outside (recXf r) p.xf

/-- A privileged task (R70). -/
def taskPriv (r : Rec) : Bool := recTask r == some .cpypg || recTask r == some .ckpt

/-! ### Resolution (R157) -/

/-- A register's box as it stands: the W of F.HALO travels without the husk checks (R343). -/
def rawBox (b : BoxReg) : RBox := { acc := b.acc, hid := if b.acc then 0 else b.hid, o := b.o, e := b.e }

/-- Resolve one box: BOXBAD for an invalid register or one that exceeds its husk, HUSKBAD for an invalid husk. -/
def resolve (s : State) (n : Nat) : Except Cause RBox :=
  let b := getBox s (Fin.ofNat 64 n)
  if !b.bv then .error .boxbad
  else if b.acc then
    if (List.range 3).any (fun d => decide (accExt d < dget b.o d + dget b.e d)) then .error .boxbad else .ok (rawBox b)
  else
    let h := getHusk s b.hid
    if !hkV h then .error .huskbad
    else if (List.range (hkRank h)).any (fun d => decide (hkExt h d < dget b.o d + dget b.e d)) then .error .boxbad
    else .ok (rawBox b)

/-- Resolve a box without its husk, as the sender of a remote box does (R342, R343). -/
def resolveFar (s : State) (n : Nat) : Except Cause RBox :=
  let b := getBox s (Fin.ofNat 64 n)
  if b.bv then .ok (rawBox b) else .error .boxbad

/-- A box field, resolved if it is valid. -/
def resolveIf (valid : Bool) (f : Nat → Except Cause RBox) (n : Nat) : Except Cause (Option RBox) :=
  if valid then (match f n with | .ok b => .ok (some b) | .error c => .error c) else .ok none

/-- The boxes of a record, in the order W, A, B, C; each through `w` or `f`. -/
def resolveWith (w f : Nat → Except Cause RBox) (r : Rec) : Except Cause Boxes :=
  match resolveIf (recVW r) w (recBoxW r) with
  | .error c => .error c
  | .ok bw =>
    match resolveIf (recVA r) f (recBoxA r) with
    | .error c => .error c
    | .ok ba =>
      match resolveIf (recVB r) f (recBoxB r) with
      | .error c => .error c
      | .ok bb =>
        match resolveIf (recVC r) f (recBoxC r) with
        | .error c => .error c
        | .ok bc => .ok { w := bw, a := ba, b := bb, c := bc }

/-- The boxes of a record of this strand. -/
def resolveAll (s : State) (r : Rec) : Except Cause Boxes :=
  resolveWith (if recTask r = some .halo then resolveFar s else resolve s) (resolve s) r

/-- The register numbers that a record's valid box fields name, each once. -/
def boxRegs (r : Rec) : List Nat :=
  ((if recVW r then [recBoxW r] else []) ++ (if recVA r then [recBoxA r] else [])
    ++ (if recVB r then [recBoxB r] else []) ++ (if recVC r then [recBoxC r] else [])).dedup

/-- O[d] := (O[d] + S[d]) mod 2^16 in every dimension (R157). -/
def stepBox (b : BoxReg) : BoxReg :=
  { b with o := { x0 := (b.o.x0 + b.s.x0) % 2 ^ 16, x1 := (b.o.x1 + b.s.x1) % 2 ^ 16
                  x2 := (b.o.x2 + b.s.x2) % 2 ^ 16, x3 := (b.o.x3 + b.s.x3) % 2 ^ 16 } }

def stepBoxes (r : Rec) (s : State) : State :=
  (boxRegs r).foldl (fun s n => setBox s (Fin.ofNat 64 n) (stepBox (getBox s (Fin.ofNat 64 n)))) s

/-! ### Helpers of the entry checks -/

/-- The first cause whose condition holds. -/
def firstBad : List (Bool × Cause) → Option Cause
  | [] => none
  | (b, c) :: t => if b then some c else firstBad t

/-- A box that must be there; the field check has seen that it is. -/
def theBox (b : Option RBox) : RBox := b.getD {}

def sameExt (s : State) (p q : RBox) : Bool := (List.range 4).all (fun d => boxE s p d == boxE s q d)

/-- The husk of a box, its kind, and a test of its format. -/
def boxHusk (s : State) (b : RBox) : Husk := getHusk s b.hid
def isLocal (s : State) (b : RBox) : Bool := !b.acc && hkKind (boxHusk s b) == kLocal
def isMc (s : State) (b : RBox) : Bool := !b.acc && hkKind (boxHusk s b) == kMem && hkMc (boxHusk s b)
def isWin (s : State) (b : RBox) : Bool := !b.acc && hkKind (boxHusk s b) == kWin
def isPeer (s : State) (b : RBox) : Bool := !b.acc && hkKind (boxHusk s b) == kPeer
def isMem (s : State) (b : RBox) : Bool := !b.acc && hkKind (boxHusk s b) == kMem
/-- A MEM husk that is not cached. -/
def isDirect (s : State) (b : RBox) : Bool := isMem s b && !hkMc (boxHusk s b)

/-- A MEM husk on a segment of another node (R337 "rMEM"). -/
def isRemoteMem (s : State) (b : RBox) : Bool :=
  isMem s b && (match segNumber s s.sys.asid (hkSeg (boxHusk s b)) with | some e => segRn e | none => false)

def fmtFloat (s : State) (b : RBox) : Bool := fmtIsFloat (boxFmt s b)
def fmtInt (s : State) (b : RBox) : Bool := fmtIsInt (boxFmt s b)
def fmtNum (s : State) (b : RBox) : Bool := fmtFloat s b || fmtInt s b
/-- The bits class: every format but RQ, and but C8, which only V.DQ reads and only V.QNT writes (R209). -/
def fmtAny (s : State) (b : RBox) : Bool := boxFmt s b != .rq && boxFmt s b != .c8
/-- The bits class for a task whose entry does not name M1 (R209). -/
def fmtBitsOnly (s : State) (b : RBox) : Bool := fmtAny s b && boxFmt s b != .m1
def fmtIs (s : State) (b : RBox) (l : List Fmt) : Bool := l.contains (boxFmt s b)

/-- Element sizes of 8 to 64 bits. -/
def sized (s : State) (b : RBox) : Bool := decide (8 ≤ boxBits s b) && decide (boxBits s b ≤ 64)

/-- Every valid box of a record. -/
def validBoxes (b : Boxes) : List RBox := boxList b

/-- The read boxes: A, B and C. -/
def readBoxes (b : Boxes) : List RBox := b.a.toList ++ b.b.toList ++ b.c.toList

/-- A ring smaller than R240 requires. -/
def ringBad (s : State) (x : RBox) : Bool :=
  isWin s x && (hkNrow (boxHusk s x) == 0 ||
    decide (hkLend (boxHusk s x) < hkLbase (boxHusk s x) + hkNrow (boxHusk s x) * hkRow (boxHusk s x)))

/-! ### Matrix records (R192) -/

/-- An operand box (R191): an extent other than 1 in dimension 3, or in dimension 2 where it is not G. -/
def operandTall (s : State) (b : RBox) (group : Bool) : Bool := boxE s b 3 != 1 || (!group && boxE s b 2 != 1)

def operandFmt (s : State) (b : RBox) : Bool := fmtIs s b [.f32, .f16, .bf16, .f8, .c8, .s8, .n8]

/-- The checks of R192. An accumulator box of extents 256 x 128, as b62 and b63 are at launch, agrees with no 2 x 2 operands:
the record of R13's fragment is refused here, as R155, R192 and R193 say (DESIGN CHOICE, log entry 40). -/
def checkMatrix (t : Task) (b : Boxes) (s : State) : Option Cause :=
  let w := theBox b.w
  let a := theBox b.a
  let v := theBox b.b
  let c := theBox b.c
  let mul := t == .mm || t == .mmq || t == .mmg
  let q := if t == .mmq then 2 else 1
  firstBad [
    (if t == .mst then w.acc else !w.acc, .boxbad),
    ((readBoxes b).any (fun x => x.acc), .boxbad),
    ((validBoxes b).any (boxEmpty s), .boxbad),
    (boxE s w 2 != 1, .boxbad),
    (mul && (operandTall s a false || operandTall s v (t == .mmg)), .boxbad),
    (mul && (boxE s a 1 != q * boxE s w 1 || boxE s v 0 != q * boxE s w 0 || boxE s a 0 != boxE s v 1), .boxbad),
    (t == .mmg && (boxE s v 2 + 1 != boxE s c 0 || decide (256 < boxE s v 2) || boxE s c 1 != 1 || boxE s c 2 != 1
      || boxE s c 3 != 1), .boxbad),
    (mul && decide (2048 < boxE s a 0), .boxbad),
    (mul && (!operandFmt s a || !operandFmt s v || isPeer s a || isPeer s v), .huskbad),
    (mul && (ringBad s a || ringBad s v), .huskbad),
    (t == .mmg && (!isLocal s c || !fmtIs s c [.n32, .s32] || hkRank (boxHusk s c) != 1), .huskbad),
    (t == .mst && (!isLocal s w || !fmtIs s w [.n32]), .huskbad)]

/-! ### Transpose records (R203) -/

/-- p[d] of XPERM. -/
def permOf (p d : Nat) : Nat := p / 4 ^ d % 4

def permGood (p : Nat) : Bool := (List.range 4).all (fun d => (List.range 4).any (fun k => permOf p k == d))

def checkTranspose (t : Task) (r : Rec) (b : Boxes) (s : State) : Option Cause :=
  let w := theBox b.w
  let a := theBox b.a
  let imm := recImm r
  let p := if t == .xpose then 0xE1 else imm
  firstBad [
    (t == .xperm && (!permGood imm || (List.range 4).any (fun d =>
      decide (max (boxRank s w) (boxRank s a) ≤ d) && permOf imm d != d)), .taskbad),
    (t == .xrev && (List.range 4).any (fun d => bitsOf imm d 1 == 1 && decide (boxRank s a ≤ d)), .taskbad),
    (w.acc || a.acc, .boxbad),
    (if t == .xrev then !sameExt s w a else (List.range 4).any (fun d => boxE s w d != boxE s a (permOf p d)), .boxbad),
    (overlap s w a, .boxbad),
    (t == .xpose && boxRank s w == 1 && boxRank s a == 1, .boxbad),
    (!(isLocal s a || isWin s a), .huskbad),
    (!isLocal s w, .huskbad),
    (ringBad s a, .huskbad),
    (boxFmt s w == .rq || boxFmt s a == .rq, .huskbad),
    (boxBits s w != boxBits s a, .huskbad)]

/-! ### Vector records (R213) -/

def vecElementwise (t : Task) : Bool :=
  match t with
  | .vred | .vscan | .vcomp | .vgth | .vsct | .vhist | .vbcst => false
  | _ => true

/-- The operand B or IMM64 (R212). -/
def vecBimm (t : Task) : Bool := t == .vand || t == .vor || t == .vxor || t == .vclm
def vecShift (t : Task) : Bool := t == .vshl || t == .vshr || t == .vsra

/-- The extents disagree with the task's entry. -/
def vecShapeBad (t : Task) (b : Boxes) (s : State) : Bool :=
  let w := theBox b.w
  let a := theBox b.a
  let v := theBox b.b
  let c := theBox b.c
  match t with
  | .vred => boxE s w 0 != 1 || (List.range 3).any (fun d => boxE s w (d + 1) != boxE s a (d + 1))
  | .vcomp => !sameExt s a c
  | .vgth => !sameExt s v w
  | .vsct => !sameExt s v a
  | .vhist => false
  | .vbcst => (List.range 4).any (fun d => boxE s a d != boxE s w d && boxE s a d != 1)
  | _ => (match validBoxes b with | [] => false | x :: xs => xs.any (fun y => !sameExt s x y))

/-- The formats of the task's class disagree (R209, R214 to R232). -/
def vecFmtBad (t : Task) (r : Rec) (b : Boxes) (s : State) : Bool :=
  let w := theBox b.w
  let a := theBox b.a
  let v := theBox b.b
  let c := theBox b.c
  let rs := readBoxes b
  let eqSize (l : List RBox) : Bool := l.all (fun x => boxBits s x == boxBits s w)
  let intOk : Bool := !fmtInt s w || rs.all (fmtInt s)
  match t with
  | .vadd | .vsub | .vmul | .vfma | .vmin | .vmax | .vabs | .vneg => !(fmtNum s w && rs.all (fmtNum s) && intOk)
  | .vdiv => !(fmtFloat s w && rs.all (fmtNum s))
  | .vsqrt | .vrcp | .vrsq | .vexp2 | .vlog2 | .vscl => !(fmtFloat s w && fmtFloat s a)
  | .vcvt | .vbcst => !(fmtNum s w && fmtNum s a)
  | .vqnt => !(fmtFloat s a && boxFmt s w == .c8)
  | .vdq => !(boxFmt s a == .c8 && fmtFloat s w)
  | .vand | .vor | .vxor | .vnot => !(fmtAny s w && rs.all (fmtAny s) && eqSize rs)
  | .vshl | .vshr | .vsra | .vclm => !(fmtAny s w && rs.all (fmtAny s) && eqSize rs && sized s w)
  | .vpopc | .vclz => !(fmtInt s w && fmtAny s a && sized s a)
  | .vcmp => !(boxFmt s w == .m1 && fmtNum s a && fmtNum s v)
  | .vsel => !(boxFmt s c == .m1 && fmtAny s w && eqSize [a, v] && fmtAny s a && fmtAny s v)
  | .vred | .vscan =>
    if recImm r < 4 then !(fmtNum s w && fmtNum s a && intOk) else !(fmtInt s w && fmtInt s a && eqSize [a])
  | .vany | .vall | .vcnt => boxFmt s a != .m1
  | .viota => !fmtNum s w
  | .vcomp => !(boxFmt s c == .m1 && fmtBitsOnly s w && fmtBitsOnly s a && eqSize [a])
  | .vgth | .vsct => !(fmtInt s v && fmtBitsOnly s w && fmtBitsOnly s a && eqSize [a])
  | .vhist => !(fmtIs s w [.n32, .s32] && fmtInt s a && hkRank (boxHusk s w) == 1)
  | _ => false

def checkVector (t : Task) (r : Rec) (b : Boxes) (s : State) : Option Cause :=
  let w := theBox b.w
  let bits := boxBits s w
  let imm := recImm r
  firstBad [
    (vecBimm t && b.b.isSome && imm != 0, .taskbad),
    (vecBimm t && b.b.isNone && !w.acc && decide (2 ^ bits ≤ imm), .taskbad),
    (vecShift t && !w.acc && decide (8 ≤ bits) && decide (bits ≤ imm), .taskbad),
    (t == .vscl && (decide (signedOf 16 imm < -512) || decide (511 < signedOf 16 imm)), .taskbad),
    ((t == .vred || t == .vscan) && imm == 7, .taskbad),
    ((validBoxes b).any (fun x => x.acc || boxEmpty s x), .boxbad),
    (vecShapeBad t b s, .boxbad),
    (b.w.isSome && (readBoxes b).any (fun x => overlap s w x && !(vecElementwise t && sameBox s w x)), .boxbad),
    (b.w.isSome && !(isLocal s w || isMc s w), .huskbad),
    ((readBoxes b).any (fun x => !(isLocal s x || isWin s x || isMc s x)), .huskbad),
    ((readBoxes b).any (ringBad s), .huskbad),
    (vecFmtBad t r b s, .huskbad)]

/-! ### Copy records (R236) -/

/-- Summed lengths of the segments that a mask names, and that each is valid and pageable. -/
def maskSegs (mask : Nat) : List Nat := (List.range 64).filter (fun i => bitsOf mask i 1 == 1)

def maskBad (s : State) (mask : Nat) : Bool :=
  (maskSegs mask).any (fun i => match segNumber s s.sys.asid i with | some e => !segPg e | none => true)

def segLenOf (s : State) (n : Nat) : Nat := match segNumber s s.sys.asid n with | some e => segLen e | none => 0

def maskLen (s : State) (mask : Nat) : Nat := ((maskSegs mask).map (segLenOf s)).sum

/-- The checks of C.CKPT (R253). "Writable by no one" is a target without the write right. -/
def ckptBad (r : Rec) (s : State) : Bool :=
  let mask := recImm r
  let tgt := bitsOf (recXf r) 0 6
  let off := bitsOf (recXf r) 15 33 * Config.pageBytes
  mask == 0 || maskBad s mask || (maskSegs mask).contains tgt ||
    (match segNumber s s.sys.asid tgt with | some e => !segW e | none => true) ||
    decide (segLenOf s tgt < off + maskLen s mask)

/-- The checks of C.CPYPG (R252). -/
def cpypgBad (r : Rec) (s : State) : Bool :=
  match segFind s s.sys.asid (recImm r) with
  | some e => !segPg e
  | none => true

/-- The roles of the boxes of a copy task: W and the sources are accumulator boxes. -/
def copyAccW (t : Task) : Bool := t == .accl
def copyAccA (t : Task) : Bool := t == .drn || t == .drna || t == .selk

/-- The shapes of the entries. A W box of the drains and of SELK, and A of ACCL, has the extents E2 and E3 1: the entries compare E0 and E1
alone, and the accumulator box beside it has one bank (R247 to R250; DESIGN CHOICE, log entry 40). -/
def copyShapeBad (t : Task) (b : Boxes) (s : State) : Bool :=
  let w := theBox b.w
  let a := theBox b.a
  let v := theBox b.b
  let flat (x : RBox) : Bool := boxE s x 2 == 1 && boxE s x 3 == 1
  match t with
  | .cpy => boxElems s w != boxElems s a
  | .cpyf => boxElems s a * boxBits s a % 64 != 0 || (b.w.isSome && boxElems s w != boxElems s a)
  | .cmpb => boxElems s a * boxBits s a % 8 != 0 || boxElems s a * boxBits s a != boxElems s v * boxBits s v
  | .adv => (List.range (boxRank s w)).any (fun d => dget w.o d != 0 || dget w.e d != hkExt (boxHusk s w) d)
  | .drn => !flat w || boxE s w 0 != boxE s a 0 || boxE s w 1 != boxE s a 1
  | .drna => !flat w || boxE s w 0 != 2 * boxE s a 0 || boxE s w 1 != boxE s a 1
  | .accl => !flat a || boxE s a 0 != 2 * boxE s w 0 || boxE s a 1 != boxE s w 1
  | .selk => !flat w || boxE s w 0 == 0 || decide (8 < boxE s w 0) || boxE s w 1 != boxE s a 1
  | _ => false

/-- The husk kinds of R238. -/
def copyKindBad (t : Task) (isW : Bool) (x : RBox) (s : State) : Bool :=
  if x.acc then false
  else
    match t, isW with
    | .cpy, true | .cpyf, true | .fill, true => !(isLocal s x || isPeer s x || isMem s x)
    | .cpy, false | .cpyf, false | .cmpb, _ => false
    | .adv, _ => !isWin s x
    | _, _ => !(isLocal s x || isMem s x)

/-- The formats of R237, R247 to R250. -/
def copyFmtBad (t : Task) (isW : Bool) (x : RBox) (s : State) : Bool :=
  if x.acc then false
  else
    match t, isW with
    | .drn, true => !fmtIs s x [.f32, .bf16, .f16, .s32]
    | .drna, true | .accl, false => boxFmt s x != .rq
    | .selk, true => boxFmt s x != .n64
    | .cpy, _ | .cpyf, _ | .cmpb, _ => false
    | .fill, _ => boxFmt s x == .rq
    | _, _ => boxFmt s x == .rq || boxFmt s x == .m1

def checkCopy (t : Task) (r : Rec) (b : Boxes) (s : State) : Option Cause :=
  let w := theBox b.w
  let a := theBox b.a
  let imm := recImm r
  firstBad [
    ((t == .cpypg || t == .ckpt) && recRst r, .taskbad),
    (t == .cpypg && cpypgBad r s, .taskbad),
    (t == .ckpt && ckptBad r s, .taskbad),
    (t == .fill && !w.acc && decide (2 ^ boxBits s w ≤ imm), .taskbad),
    ((validBoxes b).any (boxEmpty s), .boxbad),
    (b.w.isSome && w.acc != copyAccW t, .boxbad),
    ((readBoxes b).any (fun x => x.acc != copyAccA t), .boxbad),
    ((validBoxes b).any (fun x => x.acc && boxE s x 2 != 1), .boxbad),
    (copyShapeBad t b s, .boxbad),
    (b.w.isSome && (readBoxes b).any (fun x => overlap s w x), .boxbad),
    (b.w.isSome && copyKindBad t true w s, .huskbad),
    ((readBoxes b).any (fun x => copyKindBad t false x s), .huskbad),
    ((validBoxes b).any (fun x => isPeer s x && hkPeer (boxHusk s x) == ownCore s), .huskbad),
    ((validBoxes b).any (ringBad s), .huskbad),
    (b.w.isSome && copyFmtBad t true w s, .huskbad),
    ((readBoxes b).any (fun x => copyFmtBad t false x s), .huskbad),
    (b.w.isSome && b.a.isSome && (t == .cpy || t == .cpyf) && boxBits s w != boxBits s a, .huskbad)]

/-! ### Fabric records (R338) -/

/-- The image of an F.POST (R342): the record at its scratchpad offset. -/
def postImage (r : Rec) (s : State) : Rec :=
  let off := recImm r
  BitVec.ofNat 256 (leNat ((List.range 32).map (fun i =>
    (heldByte (2 ^ 63 + off + i) (heldAll s)).getD (byteAt s.store.spad (off + i)))))

def imageOffBad (r : Rec) : Bool := recImm r % 32 != 0 || decide (Config.spadBytes < recImm r + 32)

/-- Stage 1 of R342: the offset, the fields of the image by R68, its engine and its GV. -/
def imageBad (r : Rec) (s : State) : Bool :=
  imageOffBad r || fieldsBad (postImage r s) || recEng (postImage r s) == 4 || recGv (postImage r s)

/-- A core number of cluster 6 or 7 does not exist (R4). -/
def coreMissing (c : Nat) : Bool := decide (6 ≤ c / 16 % 8)

/-- The number of elements of a box whose husk is not known here (R343): dimensions above the last extent count 1. -/
def farElems (e : Dims) : Nat :=
  if e.x3 ≠ 0 then e.x0 * e.x1 * e.x2 * e.x3 else if e.x2 ≠ 0 then e.x0 * e.x1 * e.x2
  else if e.x1 ≠ 0 then e.x0 * e.x1 else e.x0

def amoFmt (s : State) (b : RBox) : Bool := fmtIs s b [.s32, .n32, .s64, .n64]

/-- The limits of the task's entry: TASKBAD. The high halves of an F.AMO are checked for every 32-bit element, whatever its format, which
is checked behind them (R338, R340). -/
def fabricTaskBad (t : Task) (r : Rec) (b : Boxes) (s : State) : Bool :=
  let imm := recImm r
  let xf := recXf r
  let w := theBox b.w
  let dep := t == .wr || t == .wrp || t == .sem || t == .halo
  let narrow := !w.acc && boxBits s w == 32
  (dep && bitsOf xf 8 1 == 0 && bitsOf xf 0 8 != 0) ||
    (t == .amo && (decide (9 < recMod r) || (recMod r != 9 && xf != 0) ||
      (narrow && (decide (2 ^ 32 ≤ imm) || decide (2 ^ 32 ≤ xf))))) ||
    (t == .post && (imageBad r s || coreMissing (bitsOf xf 12 9))) ||
    (t == .sem && coreMissing (bitsOf imm 12 9)) ||
    (t == .fred && (bitsOf imm 32 3 == 7 || (bitsOf imm 27 1 == 0 && bitsOf imm 16 11 != 0)))

/-- The husk and format rules of F.RED (R344, R227). -/
def fredFmtBad (r : Rec) (b : Boxes) (s : State) : Bool :=
  let w := theBox b.w
  let a := theBox b.a
  if bitsOf (recImm r) 32 3 < 4 then !(fmtNum s w && fmtNum s a && (!fmtInt s w || fmtInt s a))
  else !(fmtInt s w && fmtInt s a && boxBits s w == boxBits s a)

def checkFabric (t : Task) (r : Rec) (b : Boxes) (s : State) : Option Cause :=
  let w := theBox b.w
  let a := theBox b.a
  let v := theBox b.b
  let c := theBox b.c
  let boxes := if t == .halo then readBoxes b else validBoxes b
  let tall (x : RBox) : Bool := boxE s x 2 != 1 || boxE s x 3 != 1
  let row (x : RBox) : Bool := boxRank s x == 1
  let rq (x : RBox) : Bool := boxFmt s x == .rq
  let far : Except Cause Boxes :=
    if t == .post then resolveWith (resolveFar s) (resolveFar s) (postImage r s) else .ok {}
  firstBad [
    (fabricTaskBad t r b s, .taskbad),
    (t == .post && taskPriv (postImage r s) && !s.sys.pl, .priv),
    (t == .post && (match far with | .error _ => true | .ok _ => false), .boxbad),
    (boxes.any (fun x => x.acc || boxEmpty s x) || (t == .halo && w.acc), .boxbad),
    ((t == .wr || t == .wrp || t == .rd) && boxElems s w != boxElems s a, .boxbad),
    (t == .halo && farElems w.e != boxElems s a, .boxbad),
    (t == .amo && boxElems s w != 1, .boxbad),
    (t == .fred && !sameExt s w a, .boxbad),
    (t == .rte && (decide (8 < boxE s a 0) || decide (4096 < boxE s a 1) || tall a || !row v || decide (4096 < boxE s v 0)
      || !row c || boxE s c 0 != boxE s v 0 || !row w || boxE s w 0 != boxE s a 1), .boxbad),
    (t != .halo && b.w.isSome && b.a.isSome && overlap s w a, .boxbad),
    ((t == .wr || t == .wrp || t == .rd) && (rq w || rq a || boxBits s w != boxBits s a), .huskbad),
    ((t == .wr || t == .wrp) && (!isRemoteMem s w || !isLocal s a), .huskbad),
    (t == .rd && (!isLocal s w || !isRemoteMem s a), .huskbad),
    (t == .amo && (!isRemoteMem s w || !amoFmt s w), .huskbad),
    (t == .halo && (!isLocal s a || rq a), .huskbad),
    (t == .fred && (!isLocal s w || !isLocal s a || fredFmtBad r b s), .huskbad),
    (t == .rte && (!(isLocal s w && isLocal s a && isLocal s v && isLocal s c) || !fmtInt s a ||
      !fmtIs s v [.n32, .s32] || !fmtIs s c [.n32] || !fmtIs s w [.n64]), .huskbad)]

/-- The checks of the task's own entry: stage 5 of R44. -/
def checkEntry (r : Rec) (b : Boxes) (s : State) : Option Cause :=
  match recTask r with
  | none => some .taskbad
  | some t =>
    match recEng r with
    | 0 => checkMatrix t b s
    | 1 => checkVector t r b s
    | 2 => checkTranspose t r b s
    | 3 => checkCopy t r b s
    | _ => checkFabric t r b s

/-- Bytes of a box's footprint in a buffer, rounded up to 64 (R161, R168): dense, or the ring of a WIN husk (R72). -/
def bufBytes (s : State) (b : RBox) : Nat :=
  ((if isWin s b then hkLend (boxHusk s b) - hkLbase (boxHusk s b) else boxBytes s b) + 63) / 64 * 64

/-- The W box lies in scratchpad: LOCAL, WIN or MC. -/
def writesSpad (s : State) (b : RBox) : Bool := isLocal s b || isMc s b || isWin s b

/-- Memory that a record writes: its W stream to MEM or PEER, or its fabric writes (R168): A's stream for F.HALO (R343), W's for F.RED
(R344). -/
def memWrites (r : Rec) (b : Boxes) (s : State) : Nat :=
  match b.w with
  | none => 0
  | some w =>
    if recTask r = some .halo then boxBytes s (theBox b.a)
    else if recTask r = some .fred then boxBytes s w
    else if isDirect s w || isPeer s w then boxBytes s w
    else 0

/-- The size check of a restartable record (R159). -/
def restartBad (r : Rec) (b : Boxes) (s : State) : Bool :=
  recRst r &&
    ((match b.w with
      | some w => recTask r != some .halo && writesSpad s w && decide (s.sys.rnpool.toNat * 4096 < bufBytes s w)
      | none => false)
    || decide (262144 < memWrites r b s))

/-- The W box of a record has a byte in a range of the scratchpad: an element, or the ring of C.ADV. -/
def boxMeets (s : State) (w : RBox) (lo hi : Nat) : Bool :=
  if w.acc then false
  else if isWin s w then decide (hkLbase (boxHusk s w) < hi) && decide (lo < hkLend (boxHusk s w))
  else
    (List.range (boxElems s w)).any (fun n =>
      match locOf s w n with
      | .spad bit => decide (bit < 8 * hi) && decide (8 * lo < bit + boxBits s w)
      | .peer _ _ | .mem _ => false)

/-- A record that writes the bytes of the cut record is refused (R174), with BOXBAD, as its last check (DESIGN CHOICE, log
entry 40). -/
def cutBad (r : Rec) (b : Boxes) (s : State) : Bool :=
  let lo := bitsOf s.sys.tcut.toNat 6 17 * 64
  s.sys.tcut.getLsbD 63 && recTask r != some .halo &&
    (match b.w with | some w => boxMeets s w lo (lo + 64) | none => false)

/-- Stages 2 to 5 of R44: the boxes of a record that POST accepts, or its cause. -/
def checkRecord (r : Rec) (s : State) : Except Cause Boxes :=
  if fieldsBad r then .error .taskbad
  else if taskPriv r && !s.sys.pl then .error .priv
  else
    match resolveAll s r with
    | .error c => .error c
    | .ok b =>
      match checkEntry r b s with
      | some c => .error c
      | none => if restartBad r b s then .error .taskbad else if cutBad r b s then .error .boxbad else .ok b

end Sys2Proof.Machine
end

