-- ==== Sys2Proof/Machine/Streams.lean ====
section
/-! DEFINITION. How engines read and write boxes: elements and streams (spec/09_vector.md R207, spec/10_copy.md R237), the
touch of each unit before its work (spec/13_cluster.md R270, spec/14_die.md R295), units of progress (spec/07_core.md R175),
and the effects of a unit. -/

namespace Sys2Proof.Machine

/-! ### Reading -/

/-- A byte of the scratchpad of another core of this package; beyond its 6 MiB it reads 0. -/
def peerByte (s : State) (core off : Nat) : Byte :=
  if off < Config.spadBytes then byteAt s.fab.farSpad ((ownNode s * 512 + core) * 2 ^ 23 + off) else 0

/-- A byte of virtual memory as an engine reads it, once it has been touched. -/
def memByte (s : State) (va : Nat) : Byte := byteAt s.mem.mem (memKey (ownNode s) (paOf s va 0).1)

/-- Byte `k` of what lies at a location. -/
def locByte (s : State) (l : Loc) (k : Nat) : Byte :=
  match l with
  | .spad bit => byteAt s.store.spad (bit / 8 + k)
  | .peer c bit => peerByte s c (bit / 8 + k)
  | .mem bit => memByte s (bit / 8 + k)

/-- The bit within its byte of a location. -/
def locBit : Loc → Nat
  | .spad bit | .peer _ bit | .mem bit => bit % 8

/-- The raw bits of the element of `bits` bits at a location. -/
def readLoc (s : State) (bits : Nat) (l : Loc) : Nat :=
  if bits < 8 then bitsOf (locByte s l 0).toNat (locBit l) bits
  else leNat ((List.range (bits / 8)).map (locByte s l))

/-- The raw bits of element n of a box. -/
def readElem (s : State) (b : RBox) (n : Nat) : Nat := readLoc s (boxBits s b) (locOf s b n)

/-- All elements of a box, in element order. -/
def readBox (s : State) (b : RBox) : List Nat := (List.range (boxElems s b)).map (readElem s b)

/-- The exact value of raw bits under a husk's format (R17 to R23). -/
def valueOf (s : State) (h : Husk) (raw : Nat) : Val :=
  if hkFmt h = .c8 then c8Value (getTab s (hkCtab h)) (hkSb h) raw else valOfBits (hkFmt h) raw

def boxValue (s : State) (b : RBox) (n : Nat) : Val := valueOf s (boxHusk s b) (readElem s b n)

/-- Raw bits of an integer element as its format reads them (R231, R232). -/
def intOf (f : Fmt) (raw : Nat) : Int := if fmtIsSigned f then signedOf (fmtBits f) raw else (raw : Int)

/-- Byte j of a box's stream (R237): an M1 box packs eight elements, element 0 in bit 0. -/
def streamByte (s : State) (b : RBox) (j : Nat) : Byte :=
  let bits := boxBits s b
  if bits < 8 then
    BitVec.ofNat 8 ((List.range 8).foldl (fun v k =>
      if 8 * j + k < boxElems s b then v + readElem s b (8 * j + k) * 2 ^ k else v) 0)
  else
    let n := j * 8 / bits
    BitVec.ofNat 8 (readElem s b n / 2 ^ (j * 8 - n * bits))

def streamOf (s : State) (b : RBox) : List Byte := (List.range (boxBytes s b)).map (streamByte s b)

/-! ### Touching (R266, R270, R295) -/

/-- A range of elements of a box that a unit reads or writes. -/
structure Touch where
  box : RBox
  first : Nat
  count : Nat
  write : Bool
  deriving DecidableEq, Repr

/-- Touch the bytes of one element in virtual memory. -/
def touchVa (write : Bool) (elem : Nat) : List Nat → State → Except Fail State
  | [], s => .ok s
  | va :: t, s =>
    match engX va (if write then 1 else 0) s with
    | .bad c => .error (.cause c elem)
    | .wait => .error (.wait va)
    | .ok pa _ s' =>
      if !write && poisonedAt s (memKey (ownNode s) pa) then .error (.cause .ue (va / 64 * 64)) else touchVa write elem t s'

/-- Touch one element. -/
def touchElem (b : RBox) (write : Bool) (n : Nat) (s : State) : Except Fail State :=
  let h := boxHusk s b
  if b.acc || b.rb.isSome then .ok s
  else if hkKind h = kMem then
    if hkMc h then
      let j := denseIndex h (boxPos s b n) (hkRank h) * hkBits h
      match touchBlock b.hid (j / 32768) write s with
      | .error e => .error e
      | .ok s' =>
        let k := (j + hkBits h - 1) / 32768
        if k = j / 32768 then .ok s' else touchBlock b.hid k write s'
    else
      match locOf s b n with
      | .mem bit => touchVa write (bit / 8) ((List.range (max 1 (hkBits h / 8))).map (· + bit / 8)) s
      | _ => .ok s
  else .ok s

/-- Touch elements `first`, `first + 1`, … of a box. -/
def touchElems (b : RBox) (write : Bool) (first : Nat) : Nat → State → Except Fail State
  | 0, s => .ok s
  | n + 1, s =>
    match touchElem b write first s with
    | .error e => .error e
    | .ok s' => touchElems b write (first + 1) n s'

/-- Only boxes in memory or in a cache of it are touched. -/
def needsTouch (s : State) (b : RBox) : Bool := !b.acc && b.rb.isNone && isMem s b

def touchAll : List Touch → State → Except Fail State
  | [], s => .ok s
  | t :: ts, s =>
    match (if needsTouch s t.box then touchElems t.box t.write t.first t.count s else .ok s) with
    | .error e => .error e
    | .ok s' => touchAll ts s'

/-- Touch units `u`, `u + 1`, … in order, `n` of them: how many succeed, what stops the next one, and the state. What a
unit touches may depend on what it has already read: each is a list of stages. -/
def touchUnits (f : Nat → List (State → List Touch)) (u : Nat) : Nat → State → Nat × Option Fail × State
  | 0, s => (0, none, s)
  | n + 1, s =>
    match (f u).foldl (fun acc g => match acc with
        | .error e => .error e
        | .ok s => touchAll (g s) s) (.ok s : Except Fail State) with
    | .error e => (0, some e, s)
    | .ok s' =>
      let r := touchUnits f (u + 1) n s'
      (r.1 + 1, r.2.1, r.2.2)

/-! ### Writing -/

/-- The writes of a byte string from a bit address that is a whole byte. -/
def byteWrites (off : Nat) (bs : List Byte) : List ByteWrite := writesOf off bs

/-- The byte writes of an element of `bits` bits whose first bit is `bit`. -/
def elemWrites (bits bit v : Nat) : List ByteWrite :=
  if bits < 8 then
    [{ addr := bit / 8, mask := BitVec.ofNat 8 ((2 ^ bits - 1) * 2 ^ (bit % 8)), data := BitVec.ofNat 8 (v * 2 ^ (bit % 8)) }]
  else byteWrites (bit / 8) (leBytes (bits / 8) v)

/-- A write of memory at a virtual address: the leaf's D, then the byte. -/
def memEffect (s : State) (w : ByteWrite) : List Effect :=
  let (pa, leaf) := paOf s w.addr 1
  (match leaf with | some l => [.setD l] | none => []) ++ [.mem { w with addr := memKey (ownNode s) pa }]

/-- The dirty marks of a cached husk's bytes. -/
def dirtyMarks (hid : Nat) (h : Husk) (ws : List ByteWrite) : List Effect :=
  ws.map (fun w => .dirty (blockKey hid ((w.addr - hkLbase h) / 4096)) ((w.addr - hkLbase h) % 4096 / 64))

/-- The effects of writing byte writes at a location of a box. -/
def locEffects (s : State) (b : RBox) (l : Loc) (ws : List ByteWrite) : List Effect :=
  match l with
  | .spad _ => ws.map .spad ++ (if b.rb.isNone && isMc s b then dirtyMarks b.hid (boxHusk s b) ws else [])
  | .peer c _ => ws.map (.peer c)
  | .mem _ => ws.flatMap (memEffect s)

def locAddr : Loc → Nat
  | .spad bit | .peer _ bit | .mem bit => bit

/-- The effects of writing element n of a box. -/
def elemEffects (s : State) (b : RBox) (n v : Nat) : List Effect :=
  let l := locOf s b n
  locEffects s b l (elemWrites (boxBits s b) (locAddr l) v)

/-- The effects of writing byte j of a box's stream. -/
def streamEffects (s : State) (b : RBox) (j : Nat) (v : Byte) : List Effect :=
  let bits := boxBits s b
  if bits < 8 then
    (List.range 8).flatMap (fun k =>
      if 8 * j + k < boxElems s b then elemEffects s b (8 * j + k) (bitsOf v.toNat k 1) else [])
  else
    let n := j * 8 / bits
    let l := locOf s b n
    locEffects s b l [{ addr := locAddr l / 8 + (j - n * bits / 8), data := v }]

/-- Units of 64 bytes of a stream. -/
def unitCount (bytes : Nat) : Nat := (bytes + 63) / 64

/-- Elements of a box that have a byte in unit u of its stream: the first and how many. -/
def unitElems (s : State) (b : RBox) (u : Nat) : Nat × Nat :=
  let bits := boxBits s b
  let lo := 512 * u / bits
  let hi := min (boxElems s b) ((512 * u + 512 + bits - 1) / bits)
  (lo, hi - lo)

/-- The touch of unit u of a box. -/
def unitTouch (s : State) (b : RBox) (u : Nat) (write : Bool) : Touch :=
  let r := unitElems s b u
  { box := b, first := r.1, count := r.2, write := write }

/-! ### The plan of a record -/

/-- Drop what lies below a progress index. -/
def dropUnits : Nat → List Portion → List Portion
  | _, [] => []
  | 0, us => us
  | n + 1, u :: us => if u.step ≤ n + 1 then dropUnits (n + 1 - u.step) us else us

/-- A failure as an engine reports it. -/
def failCause : Option Fail → Option EngineCause
  | some (.cause c va) => some { cause := c, faddr := some (BitVec.ofNat 64 va) }
  | _ => none

def failWaits : Option Fail → Bool
  | some (.wait _) => true
  | _ => false

/-- The work of a record whose units are touched one by one from index `p`: `total` units, the touches of each, and, on the
state after them, the portion of unit u. -/
def unitPlan (p total : Nat) (touch : Nat → List (State → List Touch)) (portion : State → Nat → Portion)
    (deliver : State → Option Word) (s : State) : State × Work :=
  let r := touchUnits touch p (total - p) s
  let s' := raiseFail r.2.1 r.2.2
  (s', { units := (List.range r.1).map (fun k => portion s' (p + k)), cause := failCause r.2.1, waits := failWaits r.2.1
         scalar := deliver s' })

/-- The portions of units `u`, `u + 1`, …, `n` of them, each with the partial result behind it: `f` gives a unit's effects
and the partial result after it from the one before. -/
def partUnits (f : Nat → Word → Portion × Word) (u : Nat) : Nat → Word → List Portion
  | 0, _ => []
  | n + 1, v =>
    let r := f u v
    { r.1 with part := some r.2 } :: partUnits f (u + 1) n r.2

/-- The partial result behind some units. -/
def partAfter (v : Word) (ps : List Portion) : Word := ps.foldl (fun v p => p.part.getD v) v

/-- The work of a record that keeps a partial result (R215, R241): each unit is read once, and what the units below the index
`p` gave is the partial result `v`. -/
def partPlan (p total : Nat) (v : Word) (touch : Nat → List (State → List Touch))
    (portion : State → Nat → Word → Portion × Word) (deliver : Word → Option Word) (s : State) : State × Work :=
  let r := touchUnits touch p (total - p) s
  let s' := raiseFail r.2.1 r.2.2
  let us := partUnits (portion s') p r.1 v
  (s', { units := us, cause := failCause r.2.1, waits := failWaits r.2.1, scalar := deliver (partAfter v us) })

/-- A record that cannot begin: its cause at index 0. -/
def badPlan (c : EngineCause) (s : State) : State × Work := (s, { cause := some c })

/-- Every row of a WIN read box must be held when the record starts (R240). -/
def winHeld (s : State) (b : RBox) : Bool :=
  if b.rb.isNone && isWin s b then
    let h := boxHusk s b
    let d := hkRank h - 1
    decide (hkHead h ≤ dget b.o d) && decide (dget b.o d + dget b.e d ≤ hkHead h + hkNrow h)
  else true

/-! ### Performing effects -/

/-- A write of one byte of another core's scratchpad; beyond its 6 MiB nothing is written. -/
def peerWrite (core : Nat) (w : ByteWrite) (s : State) : State :=
  if w.addr < Config.spadBytes then
    { s with fab := { s.fab with
      farSpad := setMasked s.fab.farSpad { w with addr := (ownNode s * 512 + core) * 2 ^ 23 + w.addr } } }
  else s

/-- Perform one effect; packets are sent by the F engine, and memory writes are performed unit by unit. -/
def applyEffect (s : State) (e : Effect) : State :=
  match e with
  | .spad w =>
    if w.addr < Config.spadBytes then { s with store := { s.store with spad := setMasked s.store.spad w } } else s
  | .mem _ => s
  | .peer c w => peerWrite c w s
  | .acc k v => { s with store := { s.store with acc := tset {} s.store.acc k v } }
  | .head hid v =>
    let h := getHusk s hid
    setHusk hid { h with d6 := BitVec.ofNat 64 (h.d6.toNat / 2 ^ 32 * 2 ^ 32 + v.toNat) } s
  | .dirty k u =>
    let b := tget {} s.store.blocks k
    { s with store := { s.store with
      blocks := tset {} s.store.blocks k { b with dirty := b.dirty ||| BitVec.ofNat 64 (2 ^ u) } } }
  | .send _ => s
  | .setD l => markDirty (some l) s
  | .farAcc k v => { s with fab := { s.fab with farAcc := tset {} s.fab.farAcc k v } }

/-- The memory writes among effects. -/
def memWritesOf (es : List Effect) : List ByteWrite :=
  es.filterMap (fun e => match e with | .mem w => some w | _ => none)

/-- Perform the effects of a unit. -/
def applyEffects (es : List Effect) (s : State) : State :=
  let s' := es.foldl applyEffect s
  match memWritesOf es with
  | [] => s'
  | ws => memWrite ws s'

/-- An effect on memory, on another core or on the fabric: what a record drains (R167, R239). -/
def effectDrains : Effect → Bool
  | .mem _ | .peer _ _ | .send _ => true
  | _ => false

/-- An effect that the commit of a restartable record makes visible at once (R168). -/
def effectLocal : Effect → Bool
  | .spad _ | .acc _ _ | .head _ _ | .dirty _ _ | .farAcc _ _ => true
  | _ => false

end Sys2Proof.Machine
end

