-- ==== Sys2Proof/Machine/Window.lean ====
section
/-! DEFINITION. The window of the Thatch (spec/07_core.md R158 to R173): entries, the rename pool, edges, release, engines
and their ready queues, flags and semaphores at retirement, faults, failures and aborts; and what becomes of a pip when its
record ends (spec/18_fabric_remote.md R348, R349). -/

namespace Sys2Proof.Machine

/-! ### Entries -/

def findEntry (s : State) (slot : Nat) : Option Entry := s.thatch.entries.find? (fun e => e.slot == slot)

/-- Replace an entry by the one of the same slot. -/
def putEntry (e : Entry) (s : State) : State :=
  { s with thatch := { s.thatch with entries := s.thatch.entries.map (fun x => if x.slot = e.slot then e else x) } }

def dropEntry (slot : Nat) (s : State) : State :=
  { s with thatch := { s.thatch with entries := s.thatch.entries.filter (fun x => x.slot != slot) } }

/-- An access translated earlier is still to be performed: a copy in flight, or an effect on memory. -/
def effectOnMemory : Effect → Bool
  | .mem _ | .setD _ => true
  | _ => false

def memoryPending (s : State) : Bool :=
  !s.strand.copies.isEmpty || s.thatch.entries.any (fun e =>
    e.buffered.any effectOnMemory ||
      (match e.work with | some w => w.units.any (fun u => u.effects.any effectOnMemory) | none => false))

/-- The local part holds the records of this strand and the folds; the remote reserve the others (R158). -/
def localCount (s : State) : Nat := (s.thatch.entries.filter (fun e => !e.remote)).length
def remoteCount (s : State) : Nat := (s.thatch.entries.filter (fun e => e.remote)).length

/-- W writes no byte of this core for F.HALO (R343). -/
def trackedW (e : Entry) : Option RBox :=
  if recTask e.record = some .halo ∧ e.fold = false then none else e.boxes.w

/-! ### Semaphores (R170, R171) -/

def setSem (n : Nat) (v : BitVec 32) (s : State) : State :=
  { s with store := { s.store with sems := tset 0 s.store.sems n v } }

/-- A semaphore of this core receives an add: it wraps; a sleeping strand wakes (R146). So does the add that an F.HALO or F.RED packet
brings, though R146 names those of a retiring record and of F.SEM (DESIGN CHOICE, log entry 40). -/
def addSem (n : Nat) (v : BitVec 32) (s : State) : State :=
  let s := setSem n (getSem s n + v) s
  { s with strand := { s.strand with semAdded := true } }

/-! ### Completion of writes and edges (R160, R167, R168) -/

/-- A restartable record has committed its buffered effects. -/
def committed (e : Entry) : Bool := e.state == .committing && e.done && e.buffered.isEmpty && !e.ahead && !e.owed

/-- The local effects of a record are complete: at done, or at its commit. -/
def localComplete (e : Entry) : Bool := if recRst e.record then committed e else e.done

/-- An edge is satisfied: a write is complete (a box on memory or on another core only when the record has retired, R167, R239), or a
reader is done. -/
def edgeOk (s : State) (ed : Edge) : Bool :=
  match findEntry s ed.slot with
  | none => true
  | some e =>
    match ed.kind with
    | .read => e.done
    | .write =>
      match e.boxes.w with
      | some w => localComplete e && !isDirect s w && !isPeer s w
      | none => false

/-- An M.MMQ or a part of one (R196). -/
def isQuad (e : Entry) : Bool := recTask e.record == some .mmq && !e.fold

/-- The stall wire holds this core, for its own fault or a partner's (R264). -/
def wireHeld (s : State) : Bool := s.thatch.heldBy != 0 || s.thatch.wire.getLsbD (ownCore s % 16)

/-- Release (R164): every edge satisfied, the semaphore wait met, and not while the stall wire holds the core (R264), not held
under a collective branch, for F.RED the layout epoch reached (R344), and for M.MMQ every part READY (R196). -/
def mayRelease (s : State) (e : Entry) : Bool :=
  e.state == .pending && !e.heldAhead && e.edges.all (edgeOk s) &&
    (!isQuad e || e.quarter.isSome || s.thatch.partsReady) &&
    (!recWv e.record || !wireHeld s) &&
    (!recWv e.record || decide ((recWthr e.record : Int) ≤ (getSem s (recWsem e.record)).toInt)) &&
    (recTask e.record != some .fred || e.fold || decide (recImm e.record % 2 ^ 16 ≤ s.sys.gepoch.toNat))

/-- Every PENDING record that may be released becomes READY. -/
def releaseAll (s : State) : State :=
  { s with thatch := { s.thatch with
    entries := s.thatch.entries.map (fun e => if mayRelease s e then { e with state := .ready } else e) } }

/-! ### The rename pool (R161, R163, R168) -/

/-- Ranges of the pool in use: rename buffers and private buffers. -/
def poolUsed (s : State) : List (Nat × Nat) :=
  s.thatch.dir.map (fun d => (d.off, d.bytes)) ++ s.thatch.entries.filterMap (fun e => e.priv)

/-- The lowest-addressed free range of the pool of a size. -/
def poolFind (s : State) (bytes : Nat) : Option Nat :=
  let free (a : Nat) : Bool :=
    decide (poolLo s ≤ a) && decide (a + bytes ≤ Config.spadBytes) &&
      (poolUsed s).all (fun u => decide (a + bytes ≤ u.1) || decide (u.1 + u.2 ≤ a))
  ((poolLo s :: (poolUsed s).map (fun u => u.1 + u.2)).filter free).foldl
    (fun m a => some (match m with | some b => min a b | none => a)) none

/-! ### Engines and their ready queues (R164, R241, R395) -/

/-- The background slot of the C engine (R241). -/
def isBackground (e : Entry) : Bool := !e.fold && recTask e.record == some .ckpt

def sameEngine (e f : Entry) : Bool := entryEng e == entryEng f && isBackground e == isBackground f

def highPri (e : Entry) : Bool := recPri e.record || e.fold || e.promoted

/-- `e` is better than `f` in a ready queue. -/
def better (e f : Entry) : Bool :=
  if highPri e != highPri f then highPri e else decide (e.seq < f.seq)

/-- The ready queue of an entry's engine: its 16 best READY records. -/
def inReadyQueue (s : State) (e : Entry) : Bool :=
  e.state == .ready &&
    decide ((s.thatch.entries.filter (fun f => f.state == .ready && entryEng f == entryEng e && better f e)).length < 16)

/-- The bank of a restartable record's accumulator tile (R190). -/
def shadowBank (e : Entry) : Option Nat :=
  match e.boxes.w with
  | some w => if w.acc && recRst e.record && !e.fold then some w.o.x2 else none
  | none => none

/-- Private buffer that a restartable record takes when it starts: its W footprint, unless it is renamed (R168). -/
def privBytes (s : State) (e : Entry) : Option Nat :=
  match trackedW e with
  | some w => if recRst e.record && !e.fold && w.rb.isNone && writesSpad s w then some (bufBytes s w) else none
  | none => none

/-- The sweep of a record of the running launch. Sweeps of launches that have been saved stand until they are resumed (R253). -/
def sweepOf (s : State) (seq : Nat) (w : Sweep) : Bool := w.seq == seq && w.asid == s.sys.asid

/-- The engine can start this READY record now (R190, R347, R374, R395). -/
def canStart (s : State) (e : Entry) : Bool :=
  e.state == .ready && !s.thatch.stopped && s.thatch.heldBy == 0 && s.strand.run != .stopped &&
    !(s.thatch.entries.any (fun f => f.state == .running && sameEngine f e)) &&
    (match shadowBank e with
     | some b => !(s.thatch.entries.any (fun f => f.shadow == some b && f.slot != e.slot))
     | none => true) &&
    (match privBytes s e with | some n => (poolFind s n).isSome | none => true) &&
    (entryEng e != .m || !s.store.testDue) &&
    (!isBackground e || !(s.thatch.entries.any (fun f => isBackground f && f.slot != e.slot &&
      (f.state == .draining || f.state == .faulted || f.index != 0 || s.mem.sweeps.any (sweepOf s f.seq))))) &&
    (entryEng e != .f ||
      (decide ((s.thatch.entries.filter (fun f => entryEng f == .f && f.state == .draining)).length < 32) &&
        (!s.sys.gepochPf || (recTask e.record == some .fred && decide (recImm e.record % 2 ^ 16 ≤ s.sys.gepoch.toNat)))))

/-- The record that the engine of `e` starts next is `e`: the best that can start. Where none of the 16 of the ready queue can, a READY
record behind them may start (R164 and R395 leave it open; DESIGN CHOICE, log entry 40). -/
def isNext (s : State) (e : Entry) : Bool :=
  canStart s e && s.thatch.entries.all (fun f => f.slot == e.slot || !(canStart s f && sameEngine f e && better f e))

/-- A high-priority start counts against every low-priority record of the engine's ready queue (R164). A record that leaves the queue
and enters it again keeps its count (DEDUCED, log entry 40). -/
def countPassed (e : Entry) (s : State) : State :=
  if highPri e then
    { s with thatch := { s.thatch with
      entries := s.thatch.entries.map (fun f =>
        if f.slot ≠ e.slot ∧ entryEng f = entryEng e ∧ inReadyQueue s f = true ∧ highPri f = false then
          { f with passed := f.passed + 1, promoted := decide (256 ≤ f.passed + 1) }
        else f) } }
  else s

/-- The bytes of the home box, written densely into a rename buffer: elements that the record does not write keep their
values through the fold (DEDUCED, log entry 15). -/
def prefill (s : State) (w : RBox) : State :=
  match w.rb with
  | none => s
  | some r => putSpad s r.off (streamOf s { w with rb := none })

/-- Start a READY record. -/
def startEntry (e : Entry) (s : State) : State :=
  let s := countPassed e s
  let e' : Entry := { e with
    state := .running
    priv := (match privBytes s e with
      | some n => (poolFind s n).map (fun off => (off, n))
      | none => none)
    shadow := shadowBank e }
  let s := putEntry e' s
  match e.boxes.w with
  | some w => if e.index = 0 ∧ e.fold = false then prefill s w else s
  | none => s

/-! ### Pips (R349) -/

def getPip (s : State) (n : Nat) : Pip := tget {} s.fab.pips n

def setPip (n : Nat) (p : Pip) (s : State) : State :=
  { s with fab := { s.fab with pips := tset {} s.fab.pips n p } }

/-- A packet without a record: RELEASE, CANCEL and EXPIRED travel as packets (R351). -/
def control (s : State) (dst : Nat × Nat) (b : PktBody) : Packet :=
  onRoute s
    { srcNode := ownNode s, srcCore := ownCore s, srcSlot := 0, dstNode := dst.1, dstCore := dst.2
      asid := s.sys.asid.toNat, body := b }

/-- Payload bytes of a packet (R319; DESIGN CHOICE, log entry 37). -/
def bodyBytes : PktBody → Nat
  | .write l => l.length
  | .read _ | .amo .. => 16
  | .post .. => 112
  | .halo _ _ _ _ stream _ _ | .red _ _ _ _ stream _ _ => stream.length
  | .sem _ _ | .release _ | .cancel _ | .expired _ | .refused _ => 8

/-- Flits of a payload. -/
def flitsOf (bytes : Nat) : Nat := max 1 ((bytes + 223) / 224)

/-- The DATA flits of a packet of this package, number `k` (R319): its header fields, and payloads that the spec does not lay out. -/
def flitsOfPacket (k : Nat) (p : Packet) : List FlitReq :=
  let n := flitsOf (bodyBytes p.body)
  (List.range n).map (fun i =>
    { dst := BitVec.ofNat 12 p.dstNode, src := BitVec.ofNat 12 p.srcNode, vc := p.vc, first := i == 0, last := i + 1 == n
      len := BitVec.ofNat 8 (min 224 (bodyBytes p.body - 224 * i)), marker := false, payload := Config.packetPayload k i
      own := some k })

/-- A link whose retirement still waits for the peer's notice, and that has a flit of this pair: later packets of the pair go behind
it (R326 step 4). -/
def waitsBehind (l : Link) (src dst : BitVec 12) : Bool :=
  let mine (q : FlitReq) : Bool := q.src == src && q.dst == dst && !q.marker
  l.state == .retired && l.noticeDue && (l.queue.any mine || l.kept.any mine || l.buffer.any (fun f => mine f.req))

/-- The link on which flits for `port` are queued: one that earlier packets of the pair wait at, whatever its direction group, else the
port itself. Where a retirement or a return to service changes the choice of R334, packets queued at another working port stay there,
and later ones do not wait for them: R326 names those of the retired link (DESIGN CHOICE, log entry 40). -/
def queuePort (s : State) (port : Fin 24) (src dst : BitVec 12) : Fin 24 :=
  (((List.range 24).map (fun k => (Fin.ofNat 24 k : Fin 24))).find? (fun p => waitsBehind s.links[p] src dst)).getD port

/-- Flits of one packet are queued at a link. -/
def queueFlits (port : Fin 24) (fs : List FlitReq) (s : State) : State :=
  match fs with
  | [] => s
  | f :: _ =>
    let p := queuePort s port f.src f.dst
    { s with links := s.links.set p { s.links[p] with queue := s.links[p].queue ++ fs } }

/-- A packet goes on its way: of this package to another node, by its route and as flits of its first link (R319, R334); one that has
no route is lost. -/
def sendOut (s : State) (p : Packet) : State :=
  let p := onRoute s p
  match p.port with
  | some q =>
    let k := s.fab.sentNo
    let q := queuePort s q (BitVec.ofNat 12 p.srcNode) (BitVec.ofNat 12 p.dstNode)
    let p : Packet := { p with port := some q, vc := (p.vc &&& 2) ||| (if crosses s q then 1 else 0), num := some k }
    let s := { s with fab := { s.fab with net := s.fab.net ++ [p], sentNo := k + 1 } }
    queueFlits q (flitsOfPacket k p) s
  | none =>
    if p.srcNode = ownNode s ∧ p.dstNode ≠ ownNode s then s else { s with fab := { s.fab with net := s.fab.net ++ [p] } }

def toNet (ps : List Packet) (s : State) : State := ps.foldl sendOut s

/-- An INFLIGHT pip fails: CANCEL goes to every listed destination. -/
def failPip (n : Nat) (s : State) : State :=
  let p := getPip s n
  if p.state = .inflight then
    setPip n { p with state := .failed, dests := [] } (toNet (p.dests.map (fun d => control s d (.cancel n))) s)
  else s

/-- An INFLIGHT pip lands: RELEASE goes to every listed destination. -/
def landPip (n : Nat) (s : State) : State :=
  let p := getPip s n
  if p.state = .inflight then
    setPip n { p with state := .landed, dests := [] } (toNet (p.dests.map (fun d => control s d (.release n))) s)
  else s

/-- The obtaining record of a pip has retired. -/
def pipRetired (e : Entry) (s : State) : State :=
  match e.pip with
  | some n => setPip n { getPip s n with retired := true } s
  | none => s

/-- A landed or failed pip becomes FREE once its record has retired and no record carries it. -/
def freePips (s : State) : State :=
  { s with fab := { s.fab with
    pips := s.fab.pips.filter (fun p =>
      !(p.2.state != .inflight && p.2.retired && !s.thatch.entries.any (fun e => e.dep == some p.1))) } }

/-! ### Retirement (R167, R169, R181) -/

/-- A record of this strand delivers its scalar; one that did not run ahead writes the checkpoint too (R361). -/
def deliver (e : Entry) (v : Word) (s : State) : State :=
  let d := recGres e.record
  let s := setG s d v
  match s.grp.spec with
  | some cp => if e.ahead || d = 0 then s else { s with grp := { s.grp with spec := some { cp with g := cp.g.set d v } } }
  | none => s

/-- The scalar at retirement. -/
def deliverScalar (e : Entry) (s : State) : State :=
  if pendsReg e && !e.restored || pendsReg e && recTask e.record != some .wrp then
    match e.scalar with
    | some v => deliver e v s
    | none => s
  else s

/-- Retired M records count toward the next periodic self-test (R183); an M.MST counts as the first of the period that it begins (R200;
DEDUCED, log entry 40). -/
def countM (e : Entry) (s : State) : State :=
  if entryEng e = .m then { s with store := { s.store with mCount := s.store.mCount + 1 } } else s

/-- The fold of a rename is over: its directory entry goes, and its buffer is free (R162). -/
def endFold (e : Entry) (s : State) : State :=
  if e.fold then { s with thatch := { s.thatch with dir := s.thatch.dir.filter (fun d => d.foldSlot != e.slot) } } else s

/-- Retirement: flags, scalar and counts, the signal, TKC (which counts the window), and the entry is FREE. A part of an M.MMQ only
frees its entry: the lead merges the flags and adds the signal (R196); as a record of this core's M engine it counts toward its self-test
(R183 and R196 do not say; DESIGN CHOICE, log entry 40). -/
def retire (e : Entry) (s : State) : State :=
  if e.quarter.isSome then releaseAll (countM e (dropEntry e.slot s))
  else
  let s := mergeFlags { s with sys := { s.sys with recov := if e.rerun && !e.unrec then satInc s.sys.recov else s.sys.recov } } e.flags
  let s := deliverScalar e s
  let s := cqAppend e.counts s
  let s := if recSigv e.record && !e.fold then addSem (recSigsem e.record) (BitVec.ofInt 32 (recSigadd e.record)) s else s
  releaseAll (endFold e (countM e (pipRetired e (dropEntry e.slot s))))

/-- A fabric record retires with failure (R348): no signal, no delivery, its pip fails, and its strand takes the cause, UE with
the address (R136). -/
def failAt (e : Entry) (c : Cause) (faddr : Option Word) (s : State) : State :=
  let s := (match e.pip with | some n => failPip n s | none => s)
  let s := mergeFlags s e.flags
  let s := pipRetired e (dropEntry e.slot s)
  releaseAll (raiseAsync { cause := c, info := BitVec.ofNat 32 e.seq, src := engSrc .f, faddr := faddr } s)

/-- A failure that names no address. -/
def failRecord (e : Entry) (c : Cause) (s : State) : State := failAt e c none s

/-! ### Faults and aborts (R168, R173, R182, R264) -/

/-- An aborted restartable record discards its effects and returns to PENDING with progress 0. -/
def aborted (e : Entry) : Entry :=
  { e with state := .pending, index := 0, done := false, work := none, buffered := [], flags := 0, priv := none
           shadow := none, scalar := none, counts := [], part := 0 }

/-- A core of this cluster, by its number there, runs the launch of this core (R263): one launch packet placed both. -/
def launchMate (s : State) (k : Nat) : Bool :=
  s.fab.peers.any (fun p => p.node == ownNode s && p.core == ownCore s / 16 * 16 + k && p.launch == s.pkg.launchNo)

/-- The cores that SSGRP names: a bit naming a core of another launch, or the core itself, is ignored (R263). -/
def namedCores (s : State) : BitVec 16 :=
  BitVec.ofNat 16 ((List.range 16).foldl (fun m k =>
    if s.sys.ssgrp.getLsbD k && k != ownCore s % 16 && launchMate s k then m + 2 ^ k else m) 0)

/-- An M.MMQ of this core's quad is RUNNING or STOPPED, led by this core or by a partner (R263): its entry, or its part, is here. -/
def quadRuns (s : State) : Bool :=
  s.thatch.entries.any (fun e => isQuad e && (e.state == .running || e.state == .stopped))

/-- The cores of this cluster in the static group of a fault of this core (R263). -/
def staticGroup (s : State) : BitVec 16 :=
  let me := ownCore s % 16
  let quad := if quadRuns s then 15 * 2 ^ (me / 4 * 4) else 0
  namedCores s ||| BitVec.ofNat 16 (2 ^ me) ||| BitVec.ofNat 16 quad

/-- Causes that go first through the stall wire. -/
def wireCause (c : Cause) : Bool := c == .page || c == .wprot || c == .seg || c == .ue

/-- The table reads of the walk in which an engine's access met a cause (R290, R314): a read that the segment allows, or a write. Without
the right there is no walk (R120): a read then meets SEG, a write WPROT. The elements that an engine has passed before are asked for when
the record accesses them again (DESIGN CHOICE, log entry 40). -/
def walkedByEngine (c : Cause) (va : Nat) (s : State) : State :=
  match c with
  | .seg => missRequests false 0 va s
  | .wprot => missRequests false 1 va s
  | .page | .owner | .ue => missRequests false (if (walksIn false 0 va s).isSome then 0 else 1) va s
  | _ => s

/-- The poisoned table line that an engine's access meets in its walk; none where the map unit holds the page, and no walk is made
(R266). -/
def walkedPoison (va : Nat) (s : State) : Option Nat :=
  if (walksIn false 0 va s).isSome || (walksIn false 1 va s).isSome then walkPoison s va else none

/-- What an engine's cause leaves in the memory system: the requests of the walk that met it, and, for a line that the engine consumes,
its request and an entry of the fault-address queue (R289). -/
def consumedByEngine (c : EngineCause) (s : State) : State :=
  match c.faddr with
  | none => s
  | some va =>
    let s := walkedByEngine c.cause va.toNat s
    if c.cause = .ue then
      match walkedPoison va.toNat s with
      | some line => consumed true line s
      | none => let pa := (paOf s va.toNat 0).1; consumed true pa (requestAt pa s)
    else s

/-- Under the stall wire a RUNNING M.MMQ, or a part of one, stops at its stripe boundary (R196, R264); once nothing holds the core any
more it runs on. -/
def holdQuad (s : State) : State :=
  { s with thatch := { s.thatch with entries := s.thatch.entries.map (fun e =>
    if isQuad e && e.state == .running && wireHeld s then stopEntry e
    else if isQuad e && e.state == .stopped && !wireHeld s && !s.thatch.stopped && s.strand.run != .stopped then { e with state := .ready }
    else e) } }

/-- A record meets a cause (R173): it is FAULTED at its index, a restartable one with its effects discarded; every engine
queue stops; the strand takes the cause asynchronously. -/
def faultEntry (e : Entry) (c : EngineCause) (s : State) : State :=
  let s := consumedByEngine c s
  let wire := if wireCause c.cause then s.thatch.wire ||| staticGroup s else s.thatch.wire
  let e' : Entry := if recRst e.record then { aborted e with state := .faulted } else { e with state := .faulted, work := none }
  let s := putEntry e' s
  let s := holdQuad { s with thatch := { s.thatch with stopped := true, wire := wire } }
  raiseAsync { cause := c.cause, info := c.info.getD (BitVec.ofNat 32 e.seq), src := engSrc (entryEng e), faddr := c.faddr
               recSlot := some e.slot } s

/-- A residue mismatch (R182): a restartable record runs once more; a second mismatch, or one of an ordinary record,
faults. Either starts a self-test. -/
def residueEntry (e : Entry) (c : EngineCause) (s : State) : State :=
  let s := { s with store := { s.store with testDue := true } }
  if recRst e.record && !e.rerun then releaseAll (putEntry { aborted e with rerun := true } s)
  else faultEntry { e with unrec := true } c s

/-- An engine's cause: fabric records fail, the others fault (R348, R173). -/
def engineCause (e : Entry) (c : EngineCause) (s : State) : State :=
  if entryEng e = .f then failAt e c.cause c.faddr (consumedByEngine c s)
  else if c.cause = .residue ∧ c.info = none then residueEntry e c s
  else faultEntry e c s

/-! ### Sending packets (R350) -/

/-- How a packet of a record that carries a pip is sent. -/
inductive SendHow where
  | plain | marked | held | fails
  deriving DecidableEq, Repr

def packetDst (p : Packet) : Nat × Nat := (p.dstNode, p.dstCore)

/-- The decision of R350. -/
def sendHow (s : State) (e : Entry) (p : Packet) : SendHow :=
  match e.dep with
  | none => .plain
  | some n =>
    let q := getPip s n
    match q.state with
    | .landed | .free => .plain
    | .failed => .fails
    | .inflight => if q.dests.contains (packetDst p) || decide (q.dests.length < 16) then .marked else .held

/-- List a destination for a pip. -/
def listDest (n : Nat) (d : Nat × Nat) (s : State) : State :=
  let q := getPip s n
  if q.dests.contains d then s else setPip n { q with dests := q.dests ++ [d] } s

/-- Send one packet of a record, or hold it in the engine, or fail the record; one that finds no route any more fails it (R334). -/
def sendPacket (e : Entry) (p : Packet) (s : State) : State :=
  if routeRefused s p.dstNode then engineCause e { cause := .remote } s
  else
  match sendHow s e p with
  | .plain => toNet [p] (putEntry { e with acks := e.acks + 1 } s)
  | .marked =>
    let n := e.dep.getD 0
    toNet [{ p with mark := some n }]
      (putEntry { e with acks := e.acks + 1, marked := packetDst p :: e.marked } (listDest n (packetDst p) s))
  | .held => putEntry { e with waiting := e.waiting ++ [p] } s
  | .fails => failRecord e .pipExp s

/-- Send packets of the record in a slot while it is there. -/
def sendAll (slot : Nat) (ps : List Packet) (s : State) : State :=
  ps.foldl (fun s p => match findEntry s slot with | some e => sendPacket e p s | none => s) s

/-- The packets among effects. -/
def packetsOf (es : List Effect) : List Packet := es.filterMap (fun e => match e with | .send p => some p | _ => none)

/-- Packets that wait are sent once their pip has changed state (R350). -/
def sendWaiting (s : State) : State :=
  (s.thatch.entries.filter (fun e => !e.waiting.isEmpty &&
      (match e.dep with | some n => (getPip s n).state != .inflight | none => true))).foldl
    (fun s e => sendAll e.slot e.waiting (putEntry { e with waiting := [] } s)) s

/-! ### Done and commit (R167, R168) -/

/-- Effects on memory or on another core were performed: the record drains. -/
def drains (es : List Effect) : Bool := es.any effectDrains

/-- A committed record whose held writes need no acknowledgement any more retires. -/
def endCommit (memory : Bool) (slot : Nat) (s : State) : State :=
  match findEntry s slot with
  | none => s
  | some e => if memory || e.acks ≠ 0 || !e.waiting.isEmpty then releaseAll s else retire e s

/-- Commit a restartable record: its local effects become visible in one step, then its held writes are issued. -/
def commitEntry (e : Entry) (s : State) : State :=
  let s := applyEffects (e.buffered.filter effectLocal ++ e.buffered.filter (fun x => !effectLocal x)) s
  let s := putEntry { e with buffered := [], priv := none, shadow := none } s
  endCommit (drains e.buffered) e.slot (sendAll e.slot (packetsOf e.buffered) s)

/-- Whether an ordinary record still has acknowledgements to come when it is done (R167). -/
def endsDraining (s : State) (e : Entry) : Bool :=
  e.acks != 0 || !e.waiting.isEmpty ||
    (entryEng e != .f && (match trackedW e with | some w => isDirect s w || isPeer s w | none => false)) ||
    recTask e.record == some .ckpt || (recTask e.record == some .cpypg)

/-- The engine has performed its last access. -/
def doneEntry (e : Entry) (s : State) : State :=
  let e := { e with done := true, work := none }
  if recRst e.record && !e.fold then
    let e' : Entry := { e with state := .committing }
    if e.ahead || e.owed then releaseAll (putEntry e' s) else commitEntry e' (putEntry e' s)
  else if endsDraining s e then releaseAll (putEntry { e with state := .draining } s)
  else retire e s

end Sys2Proof.Machine
end

