-- ==== Sys2Proof/Machine/Thatch.lean ====
section
/-! DEFINITION. Entry into the window (spec/07_core.md R159 to R163, spec/19_fabric_groups.md R364): edges, renaming, POST
and POSTM; the SEM instructions and WAITC (R170 to R172); the run of a started record (R173, R175, R182), the
acknowledgement of its writes (R167) and the self-test (R183). -/

namespace Sys2Proof.Machine

/-! ### Edges and renaming (R160 to R162) -/

/-- The rename buffer of an open directory entry, for a read box wholly inside its home box. -/
def redirect (s : State) (b : RBox) : RBox :=
  match s.thatch.dir.find? (fun d => d.isOpen && insideBox s b d.home) with
  | some d => { b with rb := some { off := d.off, o := d.home.o, e := d.home.e } }
  | none => b

def redirectAll (s : State) (b : Boxes) : Boxes :=
  { b with a := b.a.map (redirect s), b := b.b.map (redirect s), c := b.c.map (redirect s) }

/-- The edge of a new record with these read boxes and this write box on entry `e`'s write. -/
def writeEdges (s : State) (reads : List RBox) (w : Option RBox) (e : Entry) : List Edge :=
  match trackedW e with
  | some ew =>
    if reads.any (fun b => overlap s b ew) || (match w with | some x => overlap s x ew | none => false) then
      [{ kind := .write, slot := e.slot }]
    else []
  | none => []

/-- Its write-after-read edge on entry `e`. -/
def readEdges (s : State) (w : Option RBox) (e : Entry) : List Edge :=
  match w with
  | some x => if !e.done && (readBoxes e.boxes).any (fun b => overlap s x b) then [{ kind := .read, slot := e.slot }] else []
  | none => []

/-- Its write box overlaps `e`'s write box. -/
def writesMeet (s : State) (w : Option RBox) (e : Entry) : Bool :=
  match w, trackedW e with
  | some x, some y => overlap s x y
  | _, _ => false

/-- A new write box that overlaps an open home box closes its directory entry. -/
def closeDir (s : State) (w : Option RBox) (dir : List DirEntry) : List DirEntry :=
  match w with
  | some x => dir.map (fun d => if overlap s x d.home then { d with isOpen := false } else d)
  | none => dir

/-- The buffer that R161 gives a new record, if it renames it; `room` is the number of local entries it needs. -/
def renameOff (s : State) (e : Entry) (room : Nat) : Option Nat :=
  match trackedW e with
  | some w =>
    if isLocal s w && e.edges.any (fun d => d.kind == .read) && !s.thatch.entries.any (writesMeet s (some w)) &&
        decide (s.thatch.dir.length < 32) && decide (localCount s + room ≤ 56) then poolFind s (bufBytes s w)
    else none
  | none => none

/-- The record of a fold: a C.CPY at high priority with W and A valid. -/
def foldRecord : Rec := BitVec.ofNat 256 (0x1 + 3 * 2 ^ 8 + 2 ^ 12 + 2 ^ 44 + 2 ^ 45)

/-- Put a new entry at the end of the window. -/
def pushEntry (e : Entry) (s : State) : State :=
  { s with thatch := { s.thatch with entries := s.thatch.entries ++ [e] } }

/-- Enter a record whose W is renamed into the buffer at `off`, and its fold. -/
def enterRenamed (e : Entry) (w : RBox) (off : Nat) (s : State) : State :=
  let buf : RBox := { w with rb := some { off := off, o := w.o, e := w.e } }
  let readers := e.edges.filter (fun d => d.kind == .read)
  let r : Entry := { e with boxes := { e.boxes with w := some buf }, edges := e.edges.filter (fun d => d.kind == .write) }
  let f : Entry :=
    { slot := e.slot + 1, record := foldRecord, boxes := { w := some w, a := some buf }, seq := e.seq + 1
      state := .pending, edges := { kind := .write, slot := e.slot } :: readers, fold := true, own := e.own
      ahead := e.ahead }
  let d : DirEntry :=
    { home := w, off := off, bytes := bufBytes s w, recSlot := e.slot, foldSlot := e.slot + 1, isOpen := true }
  let s := pushEntry f (pushEntry r s)
  { s with thatch := { s.thatch with
    dir := closeDir s (some w) s.thatch.dir ++ [d], nextSlot := e.slot + 2, nextSeq := e.seq + 2 } }

/-- Enter a record: redirected read boxes, edges, renaming. `room` counts the local entries that a renamed one takes. -/
def enter (e : Entry) (room : Nat) (s : State) : State :=
  let boxes := redirectAll s e.boxes
  let e : Entry := { e with slot := s.thatch.nextSlot, seq := s.thatch.nextSeq, boxes := boxes, state := .pending }
  let w := trackedW e
  let rs := readBoxes boxes
  let e : Entry := { e with
    edges := s.thatch.entries.flatMap (fun x => writeEdges s rs w x ++ readEdges s w x) }
  match renameOff s e room, w with
  | some off, some wb => enterRenamed e wb off s
  | _, _ =>
    let s := pushEntry e s
    { s with thatch := { s.thatch with
      dir := closeDir s w s.thatch.dir, nextSlot := e.slot + 1, nextSeq := e.seq + 1 } }

/-! ### POST (R159) -/

/-- A record obtains a pip: F.WRP, and F.HALO with GV = 1 (R349). -/
def obtainsPip (r : Rec) : Bool := recTask r == some .wrp || (recTask r == some .halo && recGv r)

/-- The lowest FREE entry of the pip table. -/
def freePip (s : State) : Option Nat := (List.range 256).find? (fun n => (getPip s n).state == .free)

/-- A record that carries a pip dependence, bound to the entry as it stands (R349). -/
def carriesDep (r : Rec) : Bool :=
  recTask r == some .wr || recTask r == some .wrp || recTask r == some .sem || recTask r == some .halo

def boundDep (s : State) (r : Rec) : Option Nat :=
  let n := rf r 192 8
  if carriesDep r && rf r 200 1 == 1 && (getPip s n).state != .free then some n else none

/-- A record reads memory: a POST waits for the replay queue (R159). -/
def readsMemory (s : State) (r : Rec) (b : Boxes) : Bool :=
  (readBoxes b).any (fun x => isMem s x || isWin s x) || recTask r == some .adv

/-- A box that holds a speculative record back (R364). -/
def holdsAhead (s : State) (r : Rec) (b : Boxes) : Bool :=
  recEng r == 4 || (validBoxes b).any (fun x => isMem s x || isWin s x || isPeer s x)

/-- A read box meets the bytes of a HELD scratchpad store (R364). -/
def meetsHeld (s : State) (b : Boxes) : Bool :=
  s.grp.hold.any (fun h =>
    match h with
    | .store a size _ =>
      a.getLsbD 63 && (readBoxes b).any (fun x => !x.acc && !isPeer s x && (rangesOf s x).any (fun r =>
        !r.1 && decide (r.2.1 < ((bitsOf a.toNat 0 23 + size : Nat) : Int)) && decide (((bitsOf a.toNat 0 23 : Nat) : Int) < r.2.2)))
    | .spl _ _ => false)

/-- Speculative records that exist. -/
def aheadCount (s : State) : Nat := (s.thatch.entries.filter (fun e => e.ahead && !e.fold)).length

/-- A speculative POST stops (R364). -/
def postStops (s : State) (r : Rec) (b : Boxes) : Bool :=
  decide (16 ≤ aheadCount s) || recTask r == some .post || meetsHeld s b

/-- The image of an F.POST is read as POSTM reads it (R342): it waits for an LDA or STA over its bytes (R125). -/
def imageMeets (s : State) (r : Rec) : Bool :=
  recTask r == some .post && meetsCopy s (BitVec.ofNat 64 (2 ^ 63 + recImm r)) 32

/-- What makes a POST stall before entry, apart from speculation: its scalar register is still to be written by an
earlier operation, the replay queue, the held stores of a commit that are still to issue, a copy over an F.POST's image, no
room in the local part, no FREE pip. -/
def postWaits (s : State) (r : Rec) (b : Boxes) : Bool :=
  (recGv r && regPending s (recGres r)) || (readsMemory s r b && !s.mem.replay.isEmpty) || !s.grp.issuing.isEmpty ||
    imageMeets s r || decide (56 ≤ localCount s) ||
    (obtainsPip r && (freePip s).isNone)

/-- The image of an F.POST travels with its boxes as this strand's registers give them (R342). -/
def postedImage (s : State) (r : Rec) : Option (Rec × Boxes) :=
  if recTask r = some .post then
    match resolveWith (resolveFar s) (resolveFar s) (postImage r s) with
    | .ok b => some (postImage r s, b)
    | .error _ => none
  else none

/-- Obtain the pip and deliver its id at once. -/
def obtainPip (r : Rec) (n seq : Nat) (s : State) : State :=
  setG (setPip n { state := .inflight, seq := seq } s) (recGres r) (BitVec.ofNat 64 n)

/-- Enter a record that POST has accepted: what follows its checks and stalls. -/
def enterPosted (r : Rec) (b : Boxes) (s : State) : State :=
  let pip := if obtainsPip r then freePip s else none
  let img := postedImage s r
  let e : Entry :=
    { slot := 0, record := r, boxes := b, seq := 0, state := .pending, ahead := s.sys.spec
      heldAhead := s.sys.spec && holdsAhead s r b, pip := pip, dep := boundDep s r, image := img }
  let seq := s.thatch.nextSeq
  let s := enter e 2 s
  let s := stepBoxes r s
  let s := (match img with | some i => stepBoxes i.1 s | none => s)
  releaseAll (match pip with | some n => obtainPip r n seq s | none => s)

/-- The record as a POST makes it: RST is forced under speculation (R364). -/
def madeRecord (s : State) (r : Rec) : Rec := if s.sys.spec then recForceRst r else r

/-- Stages 2 and on of a POST. The image of an F.POST is read in the checks of its entry, so the wait for a copy over it comes before
them, behind those of its fields and of its boxes (R125, R342). -/
def postRecord (r0 : Rec) (s : State) : Res :=
  let r := madeRecord s r0
  if imageMeets s r && !fieldsBad r && !(taskPriv r && !s.sys.pl) then .stall s
  else
    match checkRecord r s with
    | .error c => .trap { cause := c }
    | .ok b =>
      if (s.sys.spec && postStops s r b) || postWaits s r b then .stall s else .done (enterPosted r b s)

/-- POST with its record inline (R58, R65). -/
def execPost (rec : BitVec 256) (s : State) : Out :=
  issue [] false 9 (fun s => if postLeavesBody s then .trap { cause := .loopShape } else postRecord rec s) s

/-- POSTM: the image at a scratchpad address (R58). -/
def execPostm (a : Reg) (s : State) : Out :=
  issue [a] false 1 (fun s =>
    let addr := getG s a
    if !addr.getLsbD 63 then .trap (checkTrap .seg addr 0)
    else
      match strandRead addr 32 0 s with
      | .trap t => .trap t
      | .stall s' => .stall s'
      | .ue s' => .stall s'
      | .bytes bs s' => postRecord (BitVec.ofNat 256 (leNat bs)) s') s

/-! ### Semaphores and WAITC (R170, R172) -/

/-- The count of a register form. -/
def low32 (v : Word) : BitVec 32 := v.setWidth 32

/-- An add (R170). Every earlier store is performed at its issue, and parked ones do not hold it (R294). What an LDA in flight is still to
write does not hold it: R170 names stores and scratchpad writes, and a copy is counted in CPC (DESIGN CHOICE, log entry 25). -/
def semadd (n : BitVec 11) (v : State → BitVec 32) (regs : List Reg) (s : State) : Out :=
  issue regs true 1 (fun s =>
    if s.grp.issuing.isEmpty then .done (releaseAll (addSem n.toNat (v s) s)) else .stall s) s

/-- SEMADD (R170). -/
def execSemadd (n : BitVec 11) (g : Reg) (s : State) : Out := semadd n (fun s => low32 (getG s g)) [g] s
/-- SEMADDI (R170): the immediate is signed. -/
def execSemaddi (n : BitVec 11) (imm : BitVec 6) (s : State) : Out := semadd n (fun _ => imm.signExtend 32) [] s

def semwait (n : BitVec 11) (v : State → Int) (regs : List Reg) (s : State) : Out :=
  issue regs true 1 (fun s => if v s ≤ (getSem s n.toNat).toInt then .done s else .stall s) s

/-- SEMWAIT (R170). -/
def execSemwait (n : BitVec 11) (g : Reg) (s : State) : Out := semwait n (fun s => (low32 (getG s g)).toInt) [g] s
/-- SEMWAITI (R170): the threshold is 0 to 63. -/
def execSemwaiti (n : BitVec 11) (imm : BitVec 6) (s : State) : Out := semwait n (fun _ => (imm.toNat : Int)) [] s

/-- SEMSET (R170). -/
def execSemset (n : BitVec 11) (g : Reg) (s : State) : Out :=
  issue [g] true 1 (fun s =>
    if s.grp.issuing.isEmpty then .done (releaseAll (setSem n.toNat (low32 (getG s g)) s)) else .stall s) s

/-- SEMRD (R170). -/
def execSemrd (n : BitVec 11) (g : Reg) (s : State) : Out :=
  issue [g] true 1 (fun s => .done (setG s g ((getSem s n.toNat).signExtend 64))) s

/-- A counter is at most a bound; the do-not-wait value bounds nothing (R59, R94). -/
def countOk (bound none_ count : Nat) : Bool := bound == none_ || decide (count ≤ bound)

def waitcHolds (t : BitVec 6) (l st cp : BitVec 4) (s : State) : Bool :=
  countOk t.toNat 63 (tkc s) && countOk l.toNat 15 (ldc s) && countOk st.toNat 15 (stc s) && countOk cp.toNat 15 (cpc s)

/-- WAITC (R94, R172): it ends speculation only if it bounds TKC. -/
def execWaitc (t : BitVec 6) (l st cp : BitVec 4) (s : State) : Out :=
  issue [] (t != 63) 1 (fun s => if waitcHolds t l st cp s then .done s else .stall s) s

/-! ### The run of a started record -/

/-- A record restored with an altered engine block writes undefined bytes (R177), free values (DESIGN CHOICE, log entry 8); the bytes
of the packets that an F.HALO or F.RED still sends are among them. -/
def alterEffect (k i : Nat) (e : Effect) : Effect :=
  let b (j : Nat) : Byte := Config.alteredBlock k (16 * i + j)
  let stream (l : List Byte) : List Byte := l.zipIdx.map (fun x => Config.alteredBlock k (2 ^ 32 + 4096 * i + x.2))
  match e with
  | .spad w => .spad { w with data := b 0 }
  | .mem w => .mem { w with data := b 0 }
  | .peer c w => .peer c { w with data := b 0 }
  | .acc key _ => .acc key (accOfBits (leNat [b 0, b 1, b 2, b 3, b 4, b 5]) (leNat [b 6, b 7, b 8, b 9, b 10]))
  | .farAcc key _ => .farAcc key (accOfBits (leNat [b 0, b 1, b 2, b 3, b 4, b 5]) (leNat [b 6, b 7, b 8, b 9, b 10]))
  | .send p =>
    .send { p with body := match p.body with
      | .halo w bits fmt first bs last sem => .halo w bits fmt first (stream bs) last sem
      | .red w bits fmt first bs last sem => .red w bits fmt first (stream bs) last sem
      | body => body }
  | e => e

/-- Number the effects of a record's units and alter each. -/
def alterUnits (k : Nat) : Nat → List Portion → List Portion
  | _, [] => []
  | i, p :: ps =>
    { p with
      effects := (List.range p.effects.length).zipWith (fun j e => alterEffect k (i + j) e) p.effects
      flags := (Config.alteredBlock k (16 * i + 15)).setWidth 6 } :: alterUnits k (i + p.effects.length) ps

def alterWork (e : Entry) (w : Work) : Work :=
  match e.altered with
  | none => w
  | some k =>
    { w with
      units := alterUnits k 1 w.units
      scalar := w.scalar.map (fun _ => BitVec.ofNat 64 (leNat ((List.range 8).map (Config.alteredBlock k)))) }

/-- The flags of some units. -/
def unitFlags (ps : List Portion) : BitVec 6 := ps.foldl (fun f p => f ||| p.flags) 0

/-- Perform `n` units of a running record's work: an ordinary record's effects at once, a restartable one's into its
buffers; behind the last unit, its cause, its wait, or done. What an ordinary record has written below its index stands when it stops
(R175, R188), also in the accumulators that a debugger reads (DEDUCED, log entry 40: R285 names only earlier records' writes). -/
def doUnits (n : Nat) (w : Work) (e : Entry) (s : State) : State :=
  let now := w.units.take n
  let rest := w.units.drop n
  let es := now.flatMap Portion.effects
  let e : Entry := { e with
    flags := e.flags ||| unitFlags now, index := e.index + (now.map Portion.step).sum, part := partAfter e.part now
    work := some { w with units := rest }
    buffered := if recRst e.record then e.buffered ++ es else e.buffered }
  let s := putEntry e s
  let s := if recRst e.record then s else sendAll e.slot (packetsOf es) (applyEffects es s)
  match findEntry s e.slot with
  | none => s
  | some e =>
    if !rest.isEmpty then s
    else
      match w.cause with
      | some c => engineCause { e with work := none } c s
      | none =>
        if w.waits then putEntry { e with work := none } s
        else doneEntry { e with scalar := w.scalar, counts := w.counts } s

/-- What a task's engine plans for a record, from its progress index on. -/
abbrev Plan := Entry → State → State × Work

/-- A running record makes progress. -/
def progress (plan : Plan) (units : Nat) (e : Entry) (s : State) : State :=
  match e.work with
  | some w => doUnits units w e s
  | none =>
    let r := plan e s
    doUnits units (alterWork e r.2) e r.1

/-- A core of the quad runs a reduced array (R196). -/
def quadReduced (s : State) : Bool := s.store.fenced != 0 || s.thatch.partnersReduced

/-- An M.MMQ, or a part of one, waits at the head of its ready queue until all four cores can start (R196). -/
def quadWaits (s : State) (e : Entry) : Bool := isQuad e && !s.thatch.partnersStart

/-- A record in the window runs: it starts if its engine takes it next. A part of an M.MMQ that would start on a reduced quad frees
with nothing added, and the stall wire stops an M.MMQ where it stands (R196, R264). Nothing runs on a part that has shut down
(R315). -/
def runEntry (plan : Plan) (units : Nat) (e : Entry) (s : State) : State :=
  if s.pkg.shut then s
  else if e.state = .running then
    if isQuad e && wireHeld s then releaseAll (holdQuad s) else progress plan units e s
  else if isNext s e && !quadWaits s e then
    if e.quarter.isSome && quadReduced s then releaseAll (dropEntry e.slot s)
    else
      let s := startEntry e s
      match findEntry s e.slot with
      | some e => progress plan units e s
      | none => s
  else s

/-- A task step: the record in the slot is of this task. -/
def runTask (t : Task) (plan : Plan) (slot units : Nat) (s : State) : Out :=
  .next <|
    match findEntry s slot with
    | none => s
    | some e => if recTask e.record = some t ∧ e.fold = false then runEntry plan units e s else s

/-! ### Acknowledgement and self-test -/

/-- Every write of the record is acknowledged. -/
def acknowledged (e : Entry) : Bool :=
  e.acks == 0 && e.waiting.isEmpty && (e.state == .draining || committed e)

/-- The pip that the record obtained is still in flight. -/
def pipOpen (s : State) (e : Entry) : Bool :=
  match e.pip with | some n => (getPip s n).state == .inflight | none => false

/-- A sweep of this record has pages left to copy (R301). -/
def sweeping (s : State) (e : Entry) : Bool := s.mem.sweeps.any (fun w => sweepOf s e.seq w && !w.pages.isEmpty)

/-- A page that a C.CPYPG has moved: the record waits until every access translated to its old frame is performed (R296 step 4). -/
def movedPageWaits (s : State) (e : Entry) : Bool :=
  recTask e.record == some .cpypg && !e.fold && recMod e.record % 2 == 1 && e.scalar == some 0 && memoryPending s

/-- WRITE_ACKNOWLEDGEMENT (R167): the last acknowledgement of a draining or committing record returns; it retires. -/
def execWriteAcknowledgement (slot : Nat) (s : State) : Out :=
  .next <|
    match findEntry s slot with
    | none => s
    | some e => if acknowledged e && !pipOpen s e && !sweeping s e && !movedPageWaits s e then retire e s else s

/-! ### Parts of an M.MMQ that another core of the quad leads (R196) -/

/-- The record of a part: an M.MMQ with W, of the lead's priority and restartability; it waits for no semaphore, adds no signal and
delivers nothing here. -/
def partRecord (p : Part) : Rec :=
  BitVec.ofNat 256 (0x02 + p.rst.toNat * 2 ^ 11 + p.pri.toNat * 2 ^ 12 + 2 ^ 44)

/-- A part takes an entry of the local part, with edges only on W; it is counted in no TKC. -/
def enterPart (p : Part) (s : State) : State :=
  releaseAll (enter
    { slot := 0, record := partRecord p, boxes := { w := some p.w }, seq := 0, state := .pending, own := false, quarter := some p } 1 s)

/-- Parts that are due enter, in their order, while an entry is free. At a core that runs no launch a part waits until one is live there
(R196 does not say; DESIGN CHOICE, log entry 40). -/
def enterParts (s : State) : State :=
  s.thatch.partsDue.foldl (fun s p =>
    if live s ∧ localCount s < 56 then enterPart p { s with thatch := { s.thatch with partsDue := s.thatch.partsDue.erase p } } else s) s

/-- A self-test is due: after a mismatch, or periodically in an idle slot (R183). -/
def testReady (s : State) : Bool :=
  let ms := s.thatch.entries.filter (fun e => entryEng e == .m)
  let p := s.sys.selftestPeriod.toNat
  !ms.any (fun e => e.state == .running) &&
    (s.store.testDue || (p != 0 && decide (p ≤ s.store.mCount) && !ms.any (fun e => e.state == .ready)))

/-- The self-test: a quadrant that fails is fenced; a reduced core sets QF and replace-requested (R183, R316). Each one, whatever started
it, begins the count of SELFTEST_PERIOD afresh, as R200 says of M.MST (DESIGN CHOICE, log entry 40). -/
def selfTest (s : State) : State :=
  let fenced := s.store.fenced ||| s.store.failing
  let s := { s with store := { s.store with fenced := fenced, mCount := 0, testDue := false } }
  if fenced = 0 then s
  else { s with pkg := { s.pkg with repl := true, qf := true, fencemap := tset 0 s.pkg.fencemap (ownCore s) fenced } }

/-- SELFTEST (R183). -/
def execSelftest (s : State) : Out := .next (if testReady s then selfTest s else s)

end Sys2Proof.Machine
end

