-- ==== Sys2Proof/Machine/Vector.lean ====
section
/-! DEFINITION. The vector tasks (spec/09_vector.md R207 to R234): the fit of a value to W's format, one operation per
task on the elements of a unit, reductions, scans, votes and moves. -/

namespace Sys2Proof.Machine

/-! ### Fitting (R214) -/

/-- An exact value as an integer; a float source never reaches an integer W. -/
def valToInt : Val → Int
  | .fin neg m e => valInt neg (if 0 ≤ e then m * 2 ^ e.toNat else m / 2 ^ (-e).toNat)
  | _ => 0

/-- The integer branch of `fit`: wrap, or saturate under MOD[2]. -/
def fitInt (f : Fmt) (sat : Bool) (v : Int) : Nat × BitVec 6 :=
  if sat && decide (clampInt f v ≠ v) then (unsignedOf (fmtBits f) (clampInt f v), flagSAT)
  else (unsignedOf (fmtBits f) v, 0)

/-- `fit` of R214. -/
def fit (f : Fmt) (mod : Nat) (x : Val) : Nat × BitVec 6 :=
  if fmtIsFloat f then roundVal f (mod % 4) x else fitInt f (decide (4 ≤ mod)) (valToInt x)

/-- A result, its flags added to those of the operation. -/
def withFlags (fl : BitVec 6) (r : Nat × BitVec 6) : Nat × BitVec 6 := (r.1, r.2 ||| fl)

/-- An operation's exact value and its own flags, fitted. -/
def fitWith (f : Fmt) (mod : Nat) (x : Val × BitVec 6) : Nat × BitVec 6 := withFlags x.2 (fit f mod x.1)

/-- An approximation that still has to be rounded once. -/
def roundApprox (f : Fmt) (mode : Nat) (a : Approx) : Nat × BitVec 6 := roundFin f mode a.neg a.m a.e a.sticky

/-- NV if a signalling NaN is read (R18). -/
def snanOf (xs : List Val) : BitVec 6 := if xs.any valSnan then flagNV else 0

/-- The rounding of R28 of a source value. -/
def roundSrc (f : Fmt) (mode : Nat) (x : Val) : Nat × BitVec 6 := withFlags (snanOf [x]) (roundVal f mode x)

/-! ### Operations on values (R217, R218, R29) -/

def subVal (mode : Nat) (x y : Val) : Val × BitVec 6 := addVal mode x (negVal y)

/-- a x b + c, exact. -/
def fmaVal (mode : Nat) (x y z : Val) : Val × BitVec 6 :=
  let p := mulVal x y
  let r := addVal mode p.1 z
  (r.1, p.2 ||| r.2)

def valNeg : Val → Bool
  | .fin neg _ _ => neg
  | .inf neg => neg
  | .nan _ => false

/-- The smaller or larger of two values; -0 is below +0 (R217). -/
def minmaxVal (big : Bool) (x y : Val) : Val :=
  if valIsNan x || valIsNan y then .nan false
  else
    match cmpVal x y with
    | .lt => if big then y else x
    | .gt => if big then x else y
    | .eq => if valNeg x != big then x else y

/-- DIV (R217): a float W. -/
def divBits (f : Fmt) (mode : Nat) (x y : Val) : Nat × BitVec 6 :=
  match x, y with
  | .nan _, _ | _, .nan _ => (canonNaN f, 0)
  | .inf _, .inf _ => (canonNaN f, flagNV)
  | .inf a, .fin b _ _ => roundVal f mode (.inf (a != b))
  | .fin a _ _, .inf b => (signBit f (a != b), 0)
  | .fin a m e, .fin b n g =>
    if n = 0 then
      if m = 0 then (canonNaN f, flagNV) else withFlags flagDZ (roundVal f mode (.inf (a != b)))
    else if m = 0 then (signBit f (a != b), 0)
    else roundApprox f mode (divApprox (a != b) m e n g)

/-- SQRT (R218). -/
def sqrtBits (f : Fmt) (mode : Nat) : Val → Nat × BitVec 6
  | .nan _ => (canonNaN f, 0)
  | .inf neg => if neg then (canonNaN f, flagNV) else roundVal f mode (.inf false)
  | .fin neg m e =>
    if m = 0 then (signBit f neg, 0) else if neg then (canonNaN f, flagNV) else roundApprox f mode (sqrtApprox m e)

/-- RCP (R29). -/
def rcpBits (f : Fmt) (mode : Nat) : Val → Nat × BitVec 6
  | .nan _ => (canonNaN f, 0)
  | .inf neg => (signBit f neg, 0)
  | .fin neg m e =>
    if m = 0 then withFlags flagDZ (roundVal f mode (.inf neg)) else roundApprox f mode (divApprox neg 1 0 m e)

/-- RSQ (R29): RSQ of a zero is an infinity of the zero's sign. -/
def rsqBits (f : Fmt) (mode : Nat) : Val → Nat × BitVec 6
  | .nan _ => (canonNaN f, 0)
  | .inf neg => if neg then (canonNaN f, flagNV) else (signBit f false, 0)
  | .fin neg m e =>
    if m = 0 then withFlags flagDZ (roundVal f mode (.inf neg))
    else if neg then (canonNaN f, flagNV) else roundApprox f mode (rsqApprox m e)

/-- EXP2 (R29). -/
def exp2Bits (f : Fmt) (mode : Nat) : Val → Nat × BitVec 6
  | .nan _ => (canonNaN f, 0)
  | .inf neg => if neg then (signBit f false, 0) else roundVal f mode (.inf false)
  | .fin neg m e => roundApprox f mode (exp2Approx neg m e)

/-- LOG2 (R29). -/
def log2Bits (f : Fmt) (mode : Nat) : Val → Nat × BitVec 6
  | .nan _ => (canonNaN f, 0)
  | .inf neg => if neg then (canonNaN f, flagNV) else roundVal f mode (.inf false)
  | .fin neg m e =>
    if m = 0 then withFlags flagDZ (roundVal f mode (.inf true))
    else if neg then (canonNaN f, flagNV) else roundApprox f mode (log2Approx m e)

/-- a x 2^n (R221). -/
def sclVal (n : Int) : Val → Val
  | .fin neg m e => .fin neg m (e + n)
  | v => v

/-- The conversion of R28 between formats of the numeric class; equal formats move bit for bit (R219). -/
def cvtBits (from_ to_ : Fmt) (mode raw : Nat) : Nat × BitVec 6 :=
  if from_ = to_ then (raw, 0)
  else
    let x := valOfBits from_ raw
    if fmtIsFloat to_ then roundSrc to_ mode x
    else if fmtIsFloat from_ then floatToInt to_ mode x
    else fitInt to_ true (valToInt x)

/-- The conditions of R225. -/
def condHolds (c : Nat) (x y : Val) : Bool :=
  if valIsNan x || valIsNan y then c == 1 || c == 6
  else
    match c, cmpVal x y with
    | 0, .eq | 1, .lt | 1, .gt | 2, .lt | 3, .lt | 3, .eq | 4, .gt | 5, .gt | 5, .eq | 7, _ => true
    | _, _ => false

/-- The carry-less product of two numbers below 2^n (R223). -/
def clmNat (a b : Nat) : Nat → Nat
  | 0 => 0
  | n + 1 => if b / 2 ^ n % 2 = 1 then clmNat a b n ^^^ (a * 2 ^ n) else clmNat a b n

/-! ### Element-wise tasks -/

/-- What a task writes to element i of W: raw bits and flags. -/
abbrev ElemOp := State → Entry → Nat → Nat × BitVec 6

def boxA (e : Entry) : RBox := theBox e.boxes.a
def boxB (e : Entry) : RBox := theBox e.boxes.b
def boxC (e : Entry) : RBox := theBox e.boxes.c
def boxW (e : Entry) : RBox := theBox e.boxes.w

def valA (s : State) (e : Entry) (i : Nat) : Val := boxValue s (boxA e) i
def valB (s : State) (e : Entry) (i : Nat) : Val := boxValue s (boxB e) i
def valC (s : State) (e : Entry) (i : Nat) : Val := boxValue s (boxC e) i
def rawA (s : State) (e : Entry) (i : Nat) : Nat := readElem s (boxA e) i

/-- The second operand of "B or IMM" (R212). -/
def rawBimm (s : State) (e : Entry) (i : Nat) : Nat :=
  match e.boxes.b with
  | some b => readElem s b i
  | none => recImm e.record

def modeOf (e : Entry) : Nat := recMod e.record % 4

/-- One operand. -/
def arith1 (g : Val → Val) : ElemOp := fun s e i =>
  let x := valA s e i
  withFlags (snanOf [x]) (fit (boxFmt s (boxW e)) (recMod e.record) (g x))

/-- Two operands. -/
def arith2 (g : Nat → Val → Val → Val × BitVec 6) : ElemOp := fun s e i =>
  let x := valA s e i
  let y := valB s e i
  withFlags (snanOf [x, y]) (fitWith (boxFmt s (boxW e)) (recMod e.record) (g (modeOf e) x y))

def fmaOp : ElemOp := fun s e i =>
  let x := valA s e i
  let y := valB s e i
  let z := valC s e i
  withFlags (snanOf [x, y, z]) (fitWith (boxFmt s (boxW e)) (recMod e.record) (fmaVal (modeOf e) x y z))

def divOp : ElemOp := fun s e i =>
  let x := valA s e i
  let y := valB s e i
  withFlags (snanOf [x, y]) (divBits (boxFmt s (boxW e)) (modeOf e) x y)

/-- A function of one float. -/
def funcOp (g : Fmt → Nat → Val → Nat × BitVec 6) : ElemOp := fun s e i =>
  let x := valA s e i
  withFlags (snanOf [x]) (g (boxFmt s (boxW e)) (modeOf e) x)

/-- SCL: n is the signed low half word of IMM64. -/
def sclOp : ElemOp := fun s e i =>
  roundSrc (boxFmt s (boxW e)) (modeOf e) (sclVal (signedOf 16 (recImm e.record)) (valA s e i))

def cvtOp : ElemOp := fun s e i => cvtBits (boxFmt s (boxA e)) (boxFmt s (boxW e)) (modeOf e) (rawA s e i)

def qntOp : ElemOp := fun s e i =>
  let h := boxHusk s (boxW e)
  let x := valA s e i
  withFlags (snanOf [x]) (c8Quant (getTab s (hkCtab h)) (hkSb h) (modeOf e) x)

def dqOp : ElemOp := fun s e i => roundVal (boxFmt s (boxW e)) (modeOf e) (valA s e i)

/-- An operation on raw bits of w-bit elements: `g w a b`. -/
def bitOp (g : Nat → Nat → Nat → Nat) : ElemOp := fun s e i =>
  let w := boxBits s (boxW e)
  (g w (rawA s e i) (rawBimm s e i) % 2 ^ w, 0)

def notBits (w a : Nat) : Nat := 2 ^ w - 1 - a % 2 ^ w

/-- SHL, SHR, SRA: the amount is IMM64[5:0]. -/
def shiftOp (g : Nat → Nat → Nat → Nat) : ElemOp := fun s e i =>
  let w := boxBits s (boxW e)
  (g w (rawA s e i) (recImm e.record % 64) % 2 ^ w, 0)

def clmOp : ElemOp := fun s e i =>
  let w := boxBits s (boxW e)
  let p := clmNat (rawA s e i) (rawBimm s e i) w
  (if 4 ≤ recMod e.record then p / 2 ^ w % 2 ^ w else p % 2 ^ w, 0)

/-- POPC and CLZ count on A's own width. -/
def countOp (g : Nat → Nat → Nat) : ElemOp := fun s e i => (g (boxBits s (boxA e)) (rawA s e i), 0)

def clzBits (w a : Nat) : Nat := if a = 0 then w else w - 1 - Nat.log2 a

def cmpOp : ElemOp := fun s e i =>
  let x := valA s e i
  let y := valB s e i
  ((condHolds (recImm e.record) x y).toNat, snanOf [x, y])

def selOp : ElemOp := fun s e i =>
  (if readElem s (boxC e) i = 1 then rawA s e i else readElem s (boxB e) i, 0)

/-- IOTA: base and step are signed 32-bit halves of IMM64 (R229). -/
def iotaOp : ElemOp := fun s e i =>
  fit (boxFmt s (boxW e)) (recMod e.record)
    (intVal (signedOf 32 (recImm e.record) + signedOf 32 (recImm e.record / 2 ^ 32) * (i : Int)))

/-! ### Reductions (R227, R30) -/

/-- op' of R227 on raw bits of W's format. -/
def redOp (f : Fmt) (mod op : Nat) (x y : Nat) : Nat × BitVec 6 :=
  let a := valOfBits f x
  let b := valOfBits f y
  match op with
  | 0 => fitWith f mod (addVal (mod % 4) a b)
  | 1 => fitWith f mod (mulVal a b)
  | 2 => fit f mod (minmaxVal false a b)
  | 3 => fit f mod (minmaxVal true a b)
  | 4 => (x &&& y, 0)
  | 5 => (x ||| y, 0)
  | _ => (x ^^^ y, 0)

/-- fit(x[k]) into W's format; AND, OR and XOR take raw bits. -/
def redElem (s : State) (e : Entry) (i : Nat) : Nat × BitVec 6 :=
  if 4 ≤ recImm e.record then (rawA s e i, 0)
  else
    let x := valA s e i
    withFlags (snanOf [x]) (fit (boxFmt s (boxW e)) (recMod e.record) x)

/-- The tree over elements first, first + 1, … of A. -/
def redTree (s : State) (e : Entry) (first n : Nat) : Nat × BitVec 6 :=
  let ys := (List.range n).map (fun k => redElem s e (first + k))
  let fl := ys.foldl (fun f y => f ||| y.2) 0
  let r := treeRed (redOp (boxFmt s (boxW e)) (recMod e.record) (recImm e.record)) n (ys.map Prod.fst) fl
  (r.1.headD 0, r.2)

/-- RED: element i of W reduces row i of A. -/
def vredOp : ElemOp := fun s e i =>
  let n := boxE s (boxA e) 0
  redTree s e (i * n) n

/-- SCAN: element i of W reduces its row up to itself. -/
def vscanOp : ElemOp := fun s e i =>
  let n := max 1 (boxE s (boxA e) 0)
  redTree s e (i / n * n) (i % n + 1)

/-! ### Moves (R219, R231) -/

/-- The element of A that BCST copies to element i of W. -/
def bcstIndex (s : State) (e : Entry) (i : Nat) : Nat :=
  let a := boxA e
  let p := boxIndex s (boxW e) i
  boxLin s a ((List.range 4).foldl (fun q d => dput q d (if boxE s a d = boxE s (boxW e) d then dget p d else 0)) {})

def bcstOp : ElemOp := fun s e i =>
  cvtBits (boxFmt s (boxA e)) (boxFmt s (boxW e)) (modeOf e) (rawA s e (bcstIndex s e i))

/-- The index that element i of B holds. -/
def gthIndex (s : State) (e : Entry) (i : Nat) : Int := intOf (boxFmt s (boxB e)) (readElem s (boxB e) i)

def inRange (v : Int) (n : Nat) : Bool := decide (0 ≤ v) && decide (v < n)

def gthOp : ElemOp := fun s e i =>
  let v := gthIndex s e i
  (if inRange v (boxElems s (boxA e)) then rawA s e v.toNat else 0, 0)

/-! ### Plans of the tasks counted by W (R215) -/

/-- Stages of touches for elements [first, first + count) of W. -/
abbrev Reads := State → Entry → Nat × Nat → List (State → List Touch)

def touchOf (b : RBox) (first count : Nat) : Touch := { box := b, first := first, count := count, write := false }

/-- The read boxes at the same indices. -/
def sameReads : Reads := fun _ e r => [fun _ => (readBoxes e.boxes).map (fun b => touchOf b r.1 r.2)]

def redReads : Reads := fun s e r =>
  let n := boxE s (boxA e) 0
  [fun _ => [touchOf (boxA e) (r.1 * n) (r.2 * n)]]

def scanReads : Reads := fun s e r =>
  let n := max 1 (boxE s (boxA e) 0)
  [fun _ => [touchOf (boxA e) (r.1 / n * n) (r.1 + r.2 - r.1 / n * n)]]

def bcstReads : Reads := fun s e r =>
  [fun _ => (List.range r.2).map (fun k => touchOf (boxA e) (bcstIndex s e (r.1 + k)) 1)]

def gthReads : Reads := fun _ e r =>
  [fun _ => [touchOf (boxB e) r.1 r.2],
   fun s => ((List.range r.2).filter (fun k => inRange (gthIndex s e (r.1 + k)) (boxElems s (boxA e)))).map
     (fun k => touchOf (boxA e) (gthIndex s e (r.1 + k)).toNat 1)]

/-- One unit of W. -/
def elemPortion (s : State) (e : Entry) (f : ElemOp) (r : Nat × Nat) : Portion :=
  let outs := (List.range r.2).map (fun k => (r.1 + k, f s e (r.1 + k)))
  { effects := outs.flatMap (fun o => elemEffects s (boxW e) o.1 o.2.1)
    flags := outs.foldl (fun fl o => fl ||| o.2.2) 0 }

/-- Every row of every read box is held (R240). -/
def readsHeld (s : State) (e : Entry) : Bool := (readBoxes e.boxes).all (winHeld s)

def wPlan (reads : Reads) (f : ElemOp) : Plan := fun e s =>
  if readsHeld s e then
    unitPlan e.index (unitCount (boxBytes s (boxW e)))
      (fun u => reads s e (unitElems s (boxW e) u) ++ [fun s => [unitTouch s (boxW e) u true]])
      (fun s u => elemPortion s e f (unitElems s (boxW e) u)) (fun _ => none) s
  else badPlan { cause := .boxbad } s

/-! ### Plans of the tasks counted by A (R215) -/

/-- Number of set bits of unit u of A's elements in the M1 box b. -/
def onesIn (s : State) (b : RBox) (r : Nat × Nat) : Nat := ((List.range r.2).map (fun k => readElem s b (r.1 + k))).sum

/-- A vote: the count of ones so far is the partial result. -/
def votePlan (deliver : State → Entry → Nat → Nat) : Plan := fun e s =>
  if readsHeld s e then
    partPlan e.index (unitCount (boxBytes s (boxA e))) e.part (fun u => [fun s => [unitTouch s (boxA e) u false]])
      (fun s u n => ({}, n + BitVec.ofNat 64 (onesIn s (boxA e) (unitElems s (boxA e) u))))
      (fun n => some (BitVec.ofNat 64 (deliver s e n.toNat))) s
  else badPlan { cause := .boxbad } s

/-- The moves of unit u of COMP, `n` elements being selected below it: pairs of an element of W and an element of A. -/
def compMoves (s : State) (e : Entry) (u n : Nat) : List (Nat × Nat) :=
  let r := unitElems s (boxA e) u
  ((List.range r.2).filter (fun k => readElem s (boxC e) (r.1 + k) == 1)).zipIdx.map (fun k => (n + k.2, r.1 + k.1))
    |>.filter (fun m => decide (m.1 < boxElems s (boxW e)))

/-- The moves of unit u of SCT. -/
def sctMoves (s : State) (e : Entry) (u _n : Nat) : List (Nat × Nat) :=
  let r := unitElems s (boxA e) u
  ((List.range r.2).filter (fun k => inRange (gthIndex s e (r.1 + k)) (boxElems s (boxW e)))).map
    (fun k => ((gthIndex s e (r.1 + k)).toNat, r.1 + k))

/-- The plan of a move: unit u reads the mask or index box `m` and A, and writes the elements that its moves name. `count`
is what it adds to the partial count. The moves of a unit depend on the count before it, which the touches of its writes take
from the units below. -/
def movePlan (m : Entry → RBox) (moves : State → Entry → Nat → Nat → List (Nat × Nat)) (count : State → Entry → Nat → Nat)
    (deliver : Entry → Word → Option Word) : Plan := fun e s =>
  if readsHeld s e then
    let below (s : State) (u : Nat) : Nat :=
      e.part.toNat + ((List.range (u - e.index)).map (fun k => count s e (e.index + k))).sum
    partPlan e.index (unitCount (boxBytes s (boxA e))) e.part
      (fun u =>
        let r := unitElems s (boxA e) u
        [fun _ => [touchOf (m e) r.1 r.2, touchOf (boxA e) r.1 r.2],
         fun s => (moves s e u (below s u)).map (fun p => { box := boxW e, first := p.1, count := 1, write := true })])
      (fun s u n =>
        ({ effects := (moves s e u n.toNat).flatMap (fun p => elemEffects s (boxW e) p.1 (rawA s e p.2)) },
         n + BitVec.ofNat 64 (count s e u)))
      (deliver e) s
  else badPlan { cause := .boxbad } s

/-! ### HIST (R232) -/

/-- How many elements of A in [lo, hi) hold the value v. -/
def histCount (s : State) (e : Entry) (lo hi v : Nat) : Nat :=
  ((List.range (hi - lo)).filter (fun k => intOf (boxFmt s (boxA e)) (rawA s e (lo + k)) == (v : Int))).length

/-- The unit from which counts are still to be added to what W holds: a restartable record's W stays as it was. -/
def histFrom (e : Entry) : Nat := if recRst e.record then 0 else e.index

/-- W starts from zero. -/
def histClears (e : Entry) : Bool := histFrom e == 0 && decide (recMod e.record < 4)

/-- Bin v once the elements of A below `hi` are counted. -/
def histBin (s : State) (e : Entry) (hi v : Nat) : Nat :=
  ((if histClears e then 0 else readElem s (boxW e) v) +
    histCount s e (unitElems s (boxA e) (histFrom e)).1 hi v) % 2 ^ 32

/-- The bins that unit u writes: those it counts into, and at unit 0 without `acc` every bin. -/
def histBins (s : State) (e : Entry) (u : Nat) : List Nat :=
  let r := unitElems s (boxA e) u
  (List.range (boxElems s (boxW e))).filter (fun v =>
    (u == 0 && decide (recMod e.record < 4)) || histCount s e r.1 (r.1 + r.2) v != 0)

def histPlan : Plan := fun e s =>
  if readsHeld s e then
    let r := unitPlan e.index (unitCount (boxBytes s (boxA e)))
      (fun u =>
        [fun s => [unitTouch s (boxA e) u false],
         fun s => (histBins s e u).map (fun v => { box := boxW e, first := v, count := 1, write := true })])
      (fun s u =>
        let t := unitElems s (boxA e) u
        { effects := (histBins s e u).flatMap (fun v => elemEffects s (boxW e) v (histBin s e (t.1 + t.2) v)) })
      (fun _ => none) s
    (r.1, { r.2 with
      counts := if recXf e.record % 2 = 1 then
          (List.range (boxElems r.1 (boxW e))).map (fun v =>
            BitVec.ofNat 32 (histBin r.1 e (boxElems r.1 (boxA e)) v))
        else [] })
  else badPlan { cause := .boxbad } s

/-! ### The tasks -/

/-- V.ADD. -/
def execVAdd (slot units : Nat) (s : State) : Out := runTask .vadd (wPlan sameReads (arith2 addVal)) slot units s
/-- V.SUB. -/
def execVSub (slot units : Nat) (s : State) : Out := runTask .vsub (wPlan sameReads (arith2 subVal)) slot units s
/-- V.MUL. -/
def execVMul (slot units : Nat) (s : State) : Out :=
  runTask .vmul (wPlan sameReads (arith2 (fun _ => mulVal))) slot units s
/-- V.FMA. -/
def execVFma (slot units : Nat) (s : State) : Out := runTask .vfma (wPlan sameReads fmaOp) slot units s
/-- V.DIV. -/
def execVDiv (slot units : Nat) (s : State) : Out := runTask .vdiv (wPlan sameReads divOp) slot units s
/-- V.SQRT. -/
def execVSqrt (slot units : Nat) (s : State) : Out := runTask .vsqrt (wPlan sameReads (funcOp sqrtBits)) slot units s
/-- V.RCP. -/
def execVRcp (slot units : Nat) (s : State) : Out := runTask .vrcp (wPlan sameReads (funcOp rcpBits)) slot units s
/-- V.RSQ. -/
def execVRsq (slot units : Nat) (s : State) : Out := runTask .vrsq (wPlan sameReads (funcOp rsqBits)) slot units s
/-- V.EXP2. -/
def execVExp2 (slot units : Nat) (s : State) : Out := runTask .vexp2 (wPlan sameReads (funcOp exp2Bits)) slot units s
/-- V.LOG2. -/
def execVLog2 (slot units : Nat) (s : State) : Out := runTask .vlog2 (wPlan sameReads (funcOp log2Bits)) slot units s
/-- V.MIN. -/
def execVMin (slot units : Nat) (s : State) : Out :=
  runTask .vmin (wPlan sameReads (arith2 (fun _ x y => (minmaxVal false x y, 0)))) slot units s
/-- V.MAX. -/
def execVMax (slot units : Nat) (s : State) : Out :=
  runTask .vmax (wPlan sameReads (arith2 (fun _ x y => (minmaxVal true x y, 0)))) slot units s
/-- V.ABS. -/
def execVAbs (slot units : Nat) (s : State) : Out := runTask .vabs (wPlan sameReads (arith1 absVal)) slot units s
/-- V.NEG. -/
def execVNeg (slot units : Nat) (s : State) : Out := runTask .vneg (wPlan sameReads (arith1 negVal)) slot units s
/-- V.CVT. -/
def execVCvt (slot units : Nat) (s : State) : Out := runTask .vcvt (wPlan sameReads cvtOp) slot units s
/-- V.QNT. -/
def execVQnt (slot units : Nat) (s : State) : Out := runTask .vqnt (wPlan sameReads qntOp) slot units s
/-- V.DQ. -/
def execVDq (slot units : Nat) (s : State) : Out := runTask .vdq (wPlan sameReads dqOp) slot units s
/-- V.SCL. -/
def execVScl (slot units : Nat) (s : State) : Out := runTask .vscl (wPlan sameReads sclOp) slot units s
/-- V.AND. -/
def execVAnd (slot units : Nat) (s : State) : Out :=
  runTask .vand (wPlan sameReads (bitOp (fun _ a b => a &&& b))) slot units s
/-- V.OR. -/
def execVOr (slot units : Nat) (s : State) : Out :=
  runTask .vor (wPlan sameReads (bitOp (fun _ a b => a ||| b))) slot units s
/-- V.XOR. -/
def execVXor (slot units : Nat) (s : State) : Out :=
  runTask .vxor (wPlan sameReads (bitOp (fun _ a b => a ^^^ b))) slot units s
/-- V.NOT. -/
def execVNot (slot units : Nat) (s : State) : Out :=
  runTask .vnot (wPlan sameReads (bitOp (fun w a _ => notBits w a))) slot units s
/-- V.SHL. -/
def execVShl (slot units : Nat) (s : State) : Out :=
  runTask .vshl (wPlan sameReads (shiftOp (fun _ a n => a * 2 ^ n))) slot units s
/-- V.SHR. -/
def execVShr (slot units : Nat) (s : State) : Out :=
  runTask .vshr (wPlan sameReads (shiftOp (fun _ a n => a / 2 ^ n))) slot units s
/-- V.SRA. -/
def execVSra (slot units : Nat) (s : State) : Out :=
  runTask .vsra (wPlan sameReads (shiftOp (fun w a n => unsignedOf w (signedOf w a / (2 ^ n : Nat))))) slot units s
/-- V.CLM. -/
def execVClm (slot units : Nat) (s : State) : Out := runTask .vclm (wPlan sameReads clmOp) slot units s
/-- V.POPC. -/
def execVPopc (slot units : Nat) (s : State) : Out := runTask .vpopc (wPlan sameReads (countOp popNat)) slot units s
/-- V.CLZ. -/
def execVClz (slot units : Nat) (s : State) : Out := runTask .vclz (wPlan sameReads (countOp clzBits)) slot units s
/-- V.CMP. -/
def execVCmp (slot units : Nat) (s : State) : Out := runTask .vcmp (wPlan sameReads cmpOp) slot units s
/-- V.SEL. -/
def execVSel (slot units : Nat) (s : State) : Out := runTask .vsel (wPlan sameReads selOp) slot units s
/-- V.RED. -/
def execVRed (slot units : Nat) (s : State) : Out := runTask .vred (wPlan redReads vredOp) slot units s
/-- V.SCAN. -/
def execVScan (slot units : Nat) (s : State) : Out := runTask .vscan (wPlan scanReads vscanOp) slot units s
/-- V.ANY. -/
def execVAny (slot units : Nat) (s : State) : Out :=
  runTask .vany (votePlan (fun _ _ n => (n != 0).toNat)) slot units s
/-- V.ALL. -/
def execVAll (slot units : Nat) (s : State) : Out :=
  runTask .vall (votePlan (fun s e n => (n == boxElems s (boxA e)).toNat)) slot units s
/-- V.CNT. -/
def execVCnt (slot units : Nat) (s : State) : Out :=
  runTask .vcnt (votePlan (fun _ _ n => n)) slot units s
/-- V.IOTA. -/
def execVIota (slot units : Nat) (s : State) : Out := runTask .viota (wPlan sameReads iotaOp) slot units s
/-- V.COMP. -/
def execVComp (slot units : Nat) (s : State) : Out :=
  runTask .vcomp (movePlan boxC compMoves (fun s e u => onesIn s (boxC e) (unitElems s (boxA e) u))
    (fun e n => if recGv e.record then some n else none)) slot units s
/-- V.GTH. -/
def execVGth (slot units : Nat) (s : State) : Out := runTask .vgth (wPlan gthReads gthOp) slot units s
/-- V.SCT. -/
def execVSct (slot units : Nat) (s : State) : Out := runTask .vsct (movePlan boxB sctMoves (fun _ _ _ => 0) (fun _ _ => none)) slot units s
/-- V.HIST. -/
def execVHist (slot units : Nat) (s : State) : Out := runTask .vhist histPlan slot units s
/-- V.BCST. -/
def execVBcst (slot units : Nat) (s : State) : Out := runTask .vbcst (wPlan bcstReads bcstOp) slot units s

end Sys2Proof.Machine
end

