-- ==== Sys2Proof/Machine/Copy.lean ====
section
/-! DEFINITION. The copy tasks on streams, windows and the accumulator (spec/10_copy.md R235 to R251), and the folds that
the Thatch posts itself (spec/07_core.md R162). -/

namespace Sys2Proof.Machine

/-! ### Streams (R237, R241) -/

/-- The bytes of unit u of a stream of n bytes. -/
def unitBytes (n u : Nat) : List Nat := (List.range (min 64 (n - 64 * u))).map (· + 64 * u)

/-- Unit u of W's stream, its byte j given by `f`. -/
def streamPortion (s : State) (w : RBox) (f : Nat → Byte) (u : Nat) : Portion :=
  { effects := (unitBytes (boxBytes s w) u).flatMap (fun j => streamEffects s w j (f j)) }

def readUnit (b : RBox) (u : Nat) (s : State) : List Touch := [unitTouch s b u false]
def writeUnit (b : RBox) (u : Nat) (s : State) : List Touch := [unitTouch s b u true]

/-- Byte j of W's stream receives byte j of A's (R242). -/
def cpyPlan : Plan := fun e s =>
  if readsHeld s e then
    unitPlan e.index (unitCount (boxBytes s (boxW e))) (fun u => [readUnit (boxA e) u, writeUnit (boxW e) u])
      (fun s u => streamPortion s (boxW e) (streamByte s (boxA e)) u) (fun _ => none) s
  else badPlan { cause := .boxbad } s

/-- C.CPY (R242). -/
def execCCpy (slot units : Nat) (s : State) : Out := runTask .cpy cpyPlan slot units s

/-- FOLD (R162): the Thatch's own copy of a rename buffer to its home. -/
def execFold (slot units : Nat) (s : State) : Out :=
  .next <|
    match findEntry s slot with
    | none => s
    | some e => if e.fold then runEntry cpyPlan units e s else s

/-! ### CPYF and CMPB (R243, R244) -/

/-- Word i of a stream. -/
def streamWord (s : State) (b : RBox) (i : Nat) : Nat := leNat ((List.range 8).map (fun k => streamByte s b (8 * i + k)))

/-- The fingerprint of R243, over the words of unit u of a stream added to that of the units below. -/
def fingerUnit (s : State) (b : RBox) (u : Nat) (h : Word) : Word :=
  ((List.range (min 8 (boxBytes s b / 8 - 8 * u))).map (· + 8 * u)).foldl
    (fun h i => h + (BitVec.ofNat 64 (streamWord s b i) ^^^ BitVec.ofNat 64 i)) h

/-- A is read once, copied to W if W is valid, and its fingerprint is the partial result. -/
def cpyfPlan : Plan := fun e s =>
  if readsHeld s e then
    partPlan e.index (unitCount (boxBytes s (boxA e))) e.part
      (fun u => readUnit (boxA e) u :: (match e.boxes.w with | some w => [writeUnit w u] | none => []))
      (fun s u h =>
        ((match e.boxes.w with | some w => streamPortion s w (streamByte s (boxA e)) u | none => {}), fingerUnit s (boxA e) u h))
      some s
  else badPlan { cause := .boxbad } s

/-- C.CPYF (R243). -/
def execCCpyf (slot units : Nat) (s : State) : Out := runTask .cpyf cpyfPlan slot units s

/-- The first byte at which two streams differ, from byte j, of n bytes. -/
def firstDiff (s : State) (a b : RBox) (j : Nat) : Nat → Option Nat
  | 0 => none
  | n + 1 => if streamByte s a j = streamByte s b j then firstDiff s a b (j + 1) n else some j

/-- What CMPB has found behind unit u: the first difference below it stands, else the first in it (R244). -/
def compareUnit (s : State) (a b : RBox) (u : Nat) (v : Word) : Word :=
  if v ≠ 0 then v
  else
    match firstDiff s a b (64 * u) (min 64 (boxBytes s a - 64 * u)) with
    | none => 0
    | some n => BitVec.ofNat 64 (1 + n)

def cmpbPlan : Plan := fun e s =>
  if readsHeld s e then
    partPlan e.index (unitCount (boxBytes s (boxA e))) e.part (fun u => [readUnit (boxA e) u, readUnit (boxB e) u])
      (fun s u v => ({}, compareUnit s (boxA e) (boxB e) u v)) some s
  else badPlan { cause := .boxbad } s

/-- C.CMPB (R244). -/
def execCCmpb (slot units : Nat) (s : State) : Out := runTask .cmpb cmpbPlan slot units s

/-! ### FILL (R245) -/

def fillPlan : Plan := fun e s =>
  unitPlan e.index (unitCount (boxBytes s (boxW e))) (fun u => [writeUnit (boxW e) u])
    (fun s u =>
      let r := unitElems s (boxW e) u
      { effects := (List.range r.2).flatMap (fun k => elemEffects s (boxW e) (r.1 + k) (recImm e.record)) })
    (fun _ => none) s

/-- C.FILL (R245). -/
def execCFill (slot units : Nat) (s : State) : Out := runTask .fill fillPlan slot units s

/-! ### ADV (R246) -/

/-- The outermost extent of a husk. -/
def hkRows (h : Husk) : Nat := hkExt h (hkRank h - 1)

/-- HEAD after an advance. -/
def advHead (r : Rec) (h : Husk) : Nat :=
  let n := recImm r % 2 ^ 16
  if recMod r % 2 = 1 then n else hkHead h + n

/-- The rows that an advance writes: those of the new window that are not held already. -/
def advRows (h : Husk) (new : Nat) : List Nat :=
  ((List.range (hkNrow h)).map (· + new)).filter (fun r =>
    !(decide (hkHead h ≤ r) && decide (r < hkHead h + hkNrow h) && decide (r < hkRows h)))

/-- The 64-byte units of those rows: row and unit within it. -/
def advUnits (h : Husk) (new : Nat) : List (Nat × Nat) :=
  (advRows h new).flatMap (fun r => (List.range (hkRow h / 64)).map (fun k => (r, k)))

/-- Where element k of row r lies in memory. -/
def rowBit (s : State) (h : Husk) (r k : Nat) : Nat := tensorBit s h (dput (densePos h k) (hkRank h - 1) r)

/-- The elements of a row that have a byte in unit k of its dense bytes. -/
def rowElems (h : Husk) (k : Nat) : List Nat :=
  let lo := 512 * k / hkBits h
  let hi := min (extProd h (hkRank h - 1)) ((512 * k + 512 + hkBits h - 1) / hkBits h)
  (List.range (hi - lo)).map (· + lo)

/-- Touch the elements of a unit of a row. -/
def touchRow (h : Husk) (r : Nat) : List Nat → State → Except Fail State
  | [], s => .ok s
  | k :: t, s =>
    let a := rowBit s h r k / 8
    match touchVa false a ((List.range (max 1 (hkBits h / 8))).map (· + a)) s with
    | .error e => .error e
    | .ok s' => touchRow h r t s'

/-- Byte j of a row, dense. R246 does not say what the bytes of a row's slot behind its last element hold: 0 (DESIGN CHOICE, log entry
28). -/
def rowByte (s : State) (h : Husk) (r j : Nat) : Byte :=
  let n := extProd h (hkRank h - 1)
  let bits := hkBits h
  if bits < 8 then
    BitVec.ofNat 8 ((List.range 8).foldl (fun v k =>
      if 8 * j + k < n then v + readLoc s bits (.mem (rowBit s h r (8 * j + k))) * 2 ^ k else v) 0)
  else
    let k := j * 8 / bits
    if k < n then BitVec.ofNat 8 (readLoc s bits (.mem (rowBit s h r k)) / 2 ^ (j * 8 - k * bits)) else 0

/-- One unit of the ring: from memory, or zero beyond the tensor. -/
def advPortion (s : State) (h : Husk) (x : Nat × Nat) : Portion :=
  { effects := (List.range 64).map (fun i =>
      .spad { addr := hkLbase h + x.1 % max 1 (hkNrow h) * hkRow h + 64 * x.2 + i
              data := if x.1 < hkRows h then rowByte s h x.1 (64 * x.2 + i) else 0 }) }

/-- Touch the units of an advance one by one: those that succeed, what stops the next, and the state. -/
def advTouches (h : Husk) : List (Nat × Nat) → State → List (Nat × Nat) × Option Fail × State
  | [], s => ([], none, s)
  | x :: t, s =>
    match (if x.1 < hkRows h then touchRow h x.1 (rowElems h x.2) s else .ok s) with
    | .error e => ([], some e, s)
    | .ok s' =>
      let r := advTouches h t s'
      (x :: r.1, r.2.1, r.2.2)

/-- HEAD is written behind the last unit, when the record is done. -/
def advPlan : Plan := fun e s =>
  let w := boxW e
  let h := boxHusk s w
  let new := advHead e.record h
  if hkRows h < new then badPlan { cause := .boxbad } s
  else
    let r := advTouches h ((advUnits h new).drop e.index) s
    let s' := r.2.2
    let last : List Portion :=
      if r.2.1.isNone then [{ effects := [.head w.hid (BitVec.ofNat 32 new)], step := 0 }] else []
    (s', { units := r.1.map (advPortion s' h) ++ last, cause := failCause r.2.1, waits := failWaits r.2.1 })

/-- C.ADV (R246). -/
def execCAdv (slot units : Nat) (s : State) : Out := runTask .adv advPlan slot units s

/-! ### DRN and SELK (R247, R250) -/

/-- Stop a plan before its first unit that `bad` holds of: a residue mismatch (R182). -/
def stopBefore (p : Nat) (bad : Nat → Bool) (r : State × Work) : State × Work :=
  match (List.range r.2.units.length).find? (fun k => bad (p + k)) with
  | none => r
  | some k => (r.1, { r.2 with units := r.2.units.take k, cause := some { cause := .residue }, waits := false })

/-- The accumulator element that element n of a box is. -/
def accElem (s : State) (a : RBox) (n : Nat) : Acc := getAcc s (accKey s a n)

/-- An element fails the check of W's husk (R36). -/
def drainBad (s : State) (e : Entry) (n : Nat) : Bool := hkRce (boxHusk s (boxW e)) && accMismatch (accElem s (boxA e) n)

def drnPlan : Plan := fun e s =>
  let w := boxW e
  let f := boxFmt s w
  stopBefore e.index (fun u => let r := unitElems s w u; (List.range r.2).any (fun k => drainBad s e (r.1 + k)))
    (unitPlan e.index (unitCount (boxBytes s w)) (fun u => [writeUnit w u])
      (fun s u => elemPortion s e (fun s _ n => drain (accElem s (boxA e) n) f) (unitElems s w u)) (fun _ => none) s)

/-- C.DRN (R247). -/
def execCDrn (slot units : Nat) (s : State) : Out := runTask .drn drnPlan slot units s

/-- F32 bits `x` of column `i` rank above `y` of column `j`. -/
def ranksAbove (x i y j : Nat) : Bool :=
  let a := valOfBits .f32 x
  let b := valOfBits .f32 y
  if valIsNan a then valIsNan b && decide (i < j)
  else if valIsNan b then true
  else
    match cmpVal a b with
    | .gt => true
    | .lt => false
    | .eq => decide (i < j)

/-- Pairs (value, column) in falling rank. -/
def insertRank (p : Nat × Nat) : List (Nat × Nat) → List (Nat × Nat)
  | [] => [p]
  | q :: t => if ranksAbove p.1 p.2 q.1 q.2 then p :: q :: t else q :: insertRank p t

/-- Row i of the accumulator box, drained to F32: values with columns, and flags. -/
def drainRow (s : State) (a : RBox) (i : Nat) : List (Nat × Nat) × BitVec 6 :=
  let n := boxE s a 0
  let vs := (List.range n).map (fun j => (drain (accElem s a (i * n + j)) .f32, j))
  (vs.map (fun v => (v.1.1, v.2)), vs.foldl (fun f v => f ||| v.1.2) 0)

def rankRow (vs : List (Nat × Nat)) : List (Nat × Nat) := vs.foldr insertRank []

/-- Element n of W: pair t of row i. -/
def selkOp : ElemOp := fun s e n =>
  let k := max 1 (boxE s (boxW e) 0)
  let r := drainRow s (boxA e) (n / k)
  (match (rankRow r.1)[n % k]? with
    | some p => p.2 % 2 ^ 16 * 2 ^ 32 + p.1
    | none => 0x0000FFFF7FC00000,
   r.2)

/-- Some element of a row that has a pair in unit u fails the check. -/
def selkBad (s : State) (e : Entry) (u : Nat) : Bool :=
  let k := max 1 (boxE s (boxW e) 0)
  let n := boxE s (boxA e) 0
  let r := unitElems s (boxW e) u
  (List.range r.2).any (fun x => (List.range n).any (fun j => drainBad s e ((r.1 + x) / k * n + j)))

def selkPlan : Plan := fun e s =>
  let w := boxW e
  stopBefore e.index (selkBad s e)
    (unitPlan e.index (unitCount (boxBytes s w)) (fun u => [writeUnit w u])
      (fun s u => elemPortion s e selkOp (unitElems s w u)) (fun _ => none) s)

/-- C.SELK (R250). -/
def execCSelk (slot units : Nat) (s : State) : Out := runTask .selk selkPlan slot units s

/-! ### DRNA and ACCL (R248, R249) -/

/-- Container n of the stream that DRNA writes: the RQ value, or the tag. -/
def drnaValue (s : State) (a : RBox) (n : Nat) : Nat :=
  let el := accElem s a (n / 2)
  if n % 2 = 0 then rqBits el else tagBits el

def drnaPlan : Plan := fun e s =>
  unitPlan e.index (unitCount (boxBytes s (boxW e))) (fun u => [writeUnit (boxW e) u])
    (fun s u => streamPortion s (boxW e) (fun j =>
      BitVec.ofNat 8 (drnaValue s (boxA e) (j / 6) / 2 ^ (8 * (j % 6)))) u)
    (fun _ => none) s

/-- C.DRNA (R248). -/
def execCDrna (slot units : Nat) (s : State) : Out := runTask .drna drnaPlan slot units s

/-- The elements of the accumulator box whose first byte lies in unit u of its stream. -/
def acclElems (s : State) (w : RBox) (u : Nat) : List Nat :=
  (List.range (boxElems s w)).filter (fun n => n * 48 / 512 == u)

def acclPlan : Plan := fun e s =>
  let w := boxW e
  let a := boxA e
  unitPlan e.index (unitCount (boxBytes s w)) (fun u => [fun s => (acclElems s w u).map (fun n => touchOf a (2 * n) 2)])
    (fun s u => { effects := (acclElems s w u).map (fun n =>
      .acc (accKey s w n) (accOfBits (readElem s a (2 * n)) (readElem s a (2 * n + 1)))) })
    (fun _ => none) s

/-- C.ACCL (R249). -/
def execCAccl (slot units : Nat) (s : State) : Out := runTask .accl acclPlan slot units s

end Sys2Proof.Machine
end

