-- ==== Sys2Proof/Machine/Fabric.lean ====
section
/-! DEFINITION. The fabric tasks as their issuer runs them (spec/18_fabric_remote.md R336 to R350). The arrivals of their packets are in
Machine/Arrival.lean. -/

namespace Sys2Proof.Machine

/-! ### Packets (R319, R336, R339) -/

/-- Payload bytes of a packet of 16 flits. -/
def packetBytes : Nat := 16 * 224

/-- Cut a list into pieces of at most n. -/
def piecesOf {α : Type} (n : Nat) : Nat → List α → List (List α)
  | 0, _ => []
  | k + 1, l => if l.length ≤ n then [l] else l.take n :: piecesOf n k (l.drop n)

def pieces {α : Type} (n : Nat) (l : List α) : List (List α) := piecesOf n (l.length + 1) l

/-- A packet of a record, on its route. -/
def packetTo (s : State) (e : Entry) (dst : Nat × Nat) (idx : Nat) (b : PktBody) : Packet :=
  onRoute s
    { srcNode := ownNode s, srcCore := ownCore s, srcSlot := e.slot, dstNode := dst.1, dstCore := dst.2
      asid := s.sys.asid.toNat, idx := idx, body := b }

/-- The portions that send bodies, each with its payload bytes; the index counts flits (R175). -/
def sendPortions (s : State) (e : Entry) (dst : Nat × Nat) (bodies : List (PktBody × Nat)) : List Portion :=
  bodies.zipIdx.map (fun b => { effects := [.send (packetTo s e dst b.2 b.1.1)], step := flitsOf b.1.2 })

/-- The work that sends: what lies behind the progress index. -/
def sendWork (s : State) (e : Entry) (dst : Nat × Nat) (bodies : List (PktBody × Nat)) : State × Work :=
  if routeRefused s dst.1 then badPlan { cause := .remote } s
  else (s, { units := dropUnits e.index (sendPortions s e dst bodies) })

/-! ### Remote memory (R336, R339, R340) -/

def remoteSeg (s : State) (b : RBox) : SegEntry := (segNumber s s.sys.asid (hkSeg (boxHusk s b))).getD {}

/-- The physical address of a virtual one on the segment's node. -/
def remotePa (s : State) (b : RBox) (va : Nat) : Nat :=
  (((segPbase (remoteSeg s b) : Int) + (va : Int) - (segVbase (remoteSeg s b) : Int)) % (2 ^ 48 : Nat)).toNat

/-- The physical bit address of element n of a remote box. -/
def remoteBit (s : State) (b : RBox) (n : Nat) : Nat :=
  let v := tensorBit s (boxHusk s b) (boxPos s b n)
  remotePa s b (v / 8) * 8 + v % 8

/-- Memory on a node is reached in the hold queue of the issuer's mirror core there (R336). -/
def remoteDst (s : State) (b : RBox) : Nat × Nat := (segNode (remoteSeg s b), ownCore s)

/-- The writes of A's stream to W. -/
def remoteWrites (s : State) (w a : RBox) : List ByteWrite :=
  (List.range (boxElems s w)).flatMap (fun n => elemWrites (boxBits s w) (remoteBit s w n) (readElem s a n))

def wrPlan : Plan := fun e s =>
  let w := boxW e
  sendWork s e (remoteDst s w) ((pieces packetBytes (remoteWrites s w (boxA e))).map (fun l => (.write l, l.length)))

/-- F.WR (R339). -/
def execFWr (slot units : Nat) (s : State) : Out := runTask .wr wrPlan slot units s

/-- F.WRP (R339): its pip was obtained at its POST. -/
def execFWrp (slot units : Nat) (s : State) : Out := runTask .wrp wrPlan slot units s

/-- Elements of the box in one packet of an F.RD. -/
def readPer (s : State) (b : RBox) : Nat := max 1 (packetBytes * 8 / boxBits s b)

/-- The elements of packet idx. -/
def readRange (s : State) (b : RBox) (idx : Nat) : List Nat :=
  let n := readPer s b
  ((List.range n).map (· + idx * n)).filter (fun k => decide (k < boxElems s b))

/-- The bytes of element n of a remote box. -/
def remoteBytes (s : State) (b : RBox) (n : Nat) : List Nat :=
  (List.range (max 1 (boxBits s b / 8))).map (· + remoteBit s b n / 8)

/-- The requests of an F.RD: each lists every byte that it reads. -/
def readPackets (s : State) (e : Entry) : List Packet :=
  let a := boxA e
  (List.range ((boxElems s a + readPer s a - 1) / readPer s a)).map (fun i =>
    packetTo s e (remoteDst s a) i (.read ((readRange s a i).flatMap (remoteBytes s a))))

/-- Every request of an F.RD has been sent and answered: it is done (R339). -/
def settleRead (slot : Nat) (s : State) : State :=
  match findEntry s slot with
  | none => s
  | some e =>
    if e.state = .running ∧ e.acks = 0 ∧ (readPackets s e).length ≤ e.index then doneEntry e s else s

/-- A running F.RD sends its next requests; its index counts them. One that finds no route any more fails it (R334, R348). -/
def sendReads (units : Nat) (e : Entry) (s : State) : State :=
  if e.index < (readPackets s e).length ∧ routeRefused s (remoteDst s (boxA e)).1 = true then failRecord e .remote s
  else
    let ps := ((readPackets s e).drop e.index).take units
    settleRead e.slot (toNet ps (putEntry { e with acks := e.acks + ps.length, index := e.index + ps.length } s))

/-- F.RD (R339): the answers come with REMOTE_READ_ARRIVAL. -/
def execFRd (slot units : Nat) (s : State) : Out :=
  .next <|
    match findEntry s slot with
    | none => s
    | some e =>
      if recTask e.record = some .rd ∧ e.fold = false ∧ s.pkg.shut = false then
        if e.state = .running then sendReads units e s
        else if isNext s e then
          let s := startEntry e s
          match findEntry s e.slot with
          | some e => sendReads units e s
          | none => s
        else s
      else s

/-- The atomic operation that MOD[3:0] codes (R55). -/
def amoOp : Nat → AtomOp
  | 0 => .swp | 1 => .add | 2 => .and | 3 => .or | 4 => .xor | 5 => .min | 6 => .max | 7 => .minn | 8 => .maxn | _ => .cas

def amoPlan : Plan := fun e s =>
  let w := boxW e
  sendWork s e (remoteDst s w)
    [(.amo (remoteBit s w 0 / 8) (decide (boxBits s w = 64)) (amoOp (recMod e.record)) (BitVec.ofNat 64 (recImm e.record))
      (BitVec.ofNat 64 (recXf e.record)), 16)]

/-- F.AMO (R340). -/
def execFAmo (slot units : Nat) (s : State) : Out := runTask .amo amoPlan slot units s

/-! ### Semaphores and posts (R341, R342) -/

def semPlan : Plan := fun e s =>
  let imm := recImm e.record
  sendWork s e (bitsOf imm 0 12, bitsOf imm 12 9) [(.sem (bitsOf imm 21 11) (BitVec.ofNat 32 (bitsOf imm 32 32)), 8)]

/-- F.SEM (R341). -/
def execFSem (slot units : Nat) (s : State) : Out := runTask .sem semPlan slot units s

/-- The packet of an F.POST, from its image. -/
def postBody (i : Rec × Boxes) : PktBody := .post i.1 i.2

def postDst (r : Rec) : Nat × Nat := (bitsOf (recXf r) 0 12, bitsOf (recXf r) 12 9)

def postPlan : Plan := fun e s =>
  match e.image with
  | some i => sendWork s e (postDst e.record) [(postBody i, 112)]
  | none => badPlan { cause := .remote } s

/-- F.POST (R342). -/
def execFPost (slot units : Nat) (s : State) : Out := runTask .post postPlan slot units s

/-- A BUSY answer has come back: the packet of an F.POST that is neither on its way nor answered. -/
def busyAnswered (s : State) (e : Entry) : Bool :=
  recTask e.record == some .post && !e.fold && e.acks != 0 && e.busy != 0 &&
    !s.fab.net.any (fun p => p.srcNode == ownNode s && p.srcCore == ownCore s && p.srcSlot == e.slot)

/-- The backoff before retry n + 1: 1, 2, 4 and so on up to 32,768 µs. -/
def backoff (n : Nat) : Nat := 2 ^ min n 15 * 1000

/-- BUSY_RETRY (R166): after its backoff the sender tries again; with no route left the record fails (R334, R348). -/
def execBusyRetry (slot : Nat) (s : State) : Out :=
  .next <|
    match findEntry s slot with
    | none => s
    | some e =>
      if busyAnswered s e && e.retryAt.ule s.pkg.time then
        match e.image with
        | some i =>
          if routeRefused s (postDst e.record).1 then failRecord e .remote s
          else toNet [packetTo s e (postDst e.record) 0 (postBody i)] s
        | none => s
      else s

/-! ### HALO and RED (R343, R344) -/

/-- Bodies that carry a stream of n bytes in packets, each with its first byte. -/
def streamBodies (mk : Nat → List Byte → Bool → PktBody) (bs : List Byte) : List (PktBody × Nat) :=
  let ps := pieces packetBytes bs
  ps.zipIdx.map (fun p => (mk (p.2 * packetBytes) p.1 (p.2 + 1 == ps.length), p.1.length))

def haloPlan : Plan := fun e s =>
  let imm := recImm e.record
  let a := boxA e
  match neighbour s (bitsOf imm 0 2) (bitsOf imm 2 1 == 1) with
  | none => badPlan { cause := .remote } s
  | some n =>
    let sem := if bitsOf imm 3 1 = 1 then some (bitsOf imm 4 11) else none
    sendWork s e (n, ownCore s)
      (streamBodies (fun first bs last => .halo (boxW e) (boxBits s a) (hkFmtCode (boxHusk s a)) first bs last sem) (streamOf s a))

/-- F.HALO (R343). -/
def execFHalo (slot units : Nat) (s : State) : Out := runTask .halo haloPlan slot units s

/-- The combine of R344 for element i: bits and flags. -/
def redCombine (s : State) (e : Entry) (c i : Nat) : Nat × BitVec 6 :=
  let f := boxFmt s (boxW e)
  let op := bitsOf (recImm e.record) 32 3
  let x := rawA s e i
  if 4 ≤ op then (if c = 0 then x else (redOp f (recMod e.record) op (readElem s (boxW e) i) x).1, 0)
  else
    let a := valA s e i
    if c = 0 then withFlags (snanOf [a]) (fit f (recMod e.record) a)
    else
      let w := boxValue s (boxW e) i
      withFlags (snanOf [w, a])
        (match op with
          | 0 => fitWith f (recMod e.record) (addVal (modeOf e) w a)
          | 1 => fitWith f (recMod e.record) (mulVal w a)
          | 2 => fit f (recMod e.record) (minmaxVal false w a)
          | _ => fit f (recMod e.record) (minmaxVal true w a))

/-- The bytes of elements of `bits` bits, packed. -/
def packElems (bits : Nat) (vs : List Nat) : List Byte :=
  if bits < 8 then
    (List.range ((vs.length + 7) / 8)).map (fun j =>
      BitVec.ofNat 8 ((List.range 8).foldl (fun v k => v + vs.getD (8 * j + k) 0 * 2 ^ k) 0))
  else vs.flatMap (leBytes (bits / 8))

/-- The combine goes with the first packet that is sent, or alone at the last node of the axis: it is never interrupted. -/
def withCombine (c : Portion) : List Portion → List Portion
  | [] => [c]
  | p :: t => { p with effects := c.effects ++ p.effects, flags := c.flags } :: t

/-- The box as the mirror core takes it: the same box, never a rename buffer of this core. -/
def mirrorBox (w : RBox) : RBox := { w with rb := none }

/-- F.RED's plan. A route that is refused fails the record behind its combine, which is never interrupted. -/
def redPlan : Plan := fun e s =>
  let imm := recImm e.record
  let w := boxW e
  let axis := bitsOf imm 28 2
  let c := coord (ownNode s) axis
  let more := decide (c + 1 < axisLen s axis)
  let dst := (withCoord (ownNode s) axis (c + 1), ownCore s)
  if e.index = 0 ∧ imm % 2 ^ 16 < s.sys.gepoch.toNat then badPlan { cause := .remote } s
  else
    let outs := (List.range (boxElems s w)).map (redCombine s e c)
    let combine : Portion :=
      { effects := outs.zipIdx.flatMap (fun o => elemEffects s w o.2 o.1.1), flags := outs.foldl (fun f o => f ||| o.2) 0 }
    let stream := if e.index = 0 then packElems (boxBits s w) (outs.map Prod.fst) else streamOf s w
    let sem := if bitsOf imm 27 1 = 1 then some (bitsOf imm 16 11) else none
    let refused := more && routeRefused s dst.1
    let sends := if more && !refused then
        sendPortions s e dst
          (streamBodies (fun first bs last => .red (mirrorBox w) (boxBits s w) (hkFmtCode (boxHusk s w)) first bs last sem) stream)
      else []
    (s, { units := if e.index = 0 then withCombine combine sends else dropUnits e.index sends
          cause := if refused then some { cause := .remote } else none })

/-- F.RED (R344). -/
def execFRed (slot units : Nat) (s : State) : Out := runTask .fred redPlan slot units s

/-! ### The routing engine (R345) -/

/-- The state of the assignment: used slots by expert, and (expert, slot) by token. -/
structure Rte where
  used : List Nat
  ex : List (Option (Nat × Nat))
  deriving DecidableEq, Repr

/-- One choice. -/
def rteStep (s : State) (e : Entry) (st : Rte) (k t : Nat) : Rte :=
  let a := boxA e
  let x := intOf (boxFmt s a) (readElem s a (t * boxE s a 0 + k))
  let n := boxE s (boxB e) 0
  if (st.ex.getD t none).isSome || !inRange x n then st
  else
    let i := x.toNat
    let free := intOf (boxFmt s (boxB e)) (readElem s (boxB e) i)
    if readElem s (boxC e) i ≤ 4095 ∧ ((st.used.getD i 0 : Nat) : Int) < free then
      { used := st.used.set i (st.used.getD i 0 + 1), ex := st.ex.set t (some (i, st.used.getD i 0)) }
    else st

/-- The assignment: rank by rank, in token order. -/
def rteAssign (s : State) (e : Entry) : Rte :=
  let r := boxE s (boxA e) 0
  let t := boxE s (boxA e) 1
  (List.range (r * t)).foldl (fun st i => rteStep s e st (i / max 1 t) (i % max 1 t))
    { used := List.replicate (boxE s (boxB e) 0) 0, ex := List.replicate t none }

/-- An element of W, without its token: NODE, EXPERT and SLOT; they sort as R345 asks. -/
def rteKey (s : State) (e : Entry) (p : Nat × Nat) : Nat :=
  bitsOf (readElem s (boxC e) p.1) 0 12 * 2 ^ 44 + p.1 * 2 ^ 32 + p.2 * 2 ^ 16

def insertNat (v : Nat) : List Nat → List Nat
  | [] => [v]
  | x :: t => if v < x then v :: x :: t else x :: insertNat v t

/-- W: the assigned tokens in order, then the drop list. -/
def rteList (s : State) (e : Entry) (st : Rte) : List Nat :=
  let assigned := st.ex.zipIdx.filterMap (fun x => x.1.map (fun p => rteKey s e p + x.2))
  let dropped := st.ex.zipIdx.filterMap (fun x => if x.1.isNone then some (2 ^ 63 + x.2) else none)
  assigned.foldr insertNat [] ++ dropped

def rtePlan : Plan := fun e s =>
  let st := rteAssign s e
  (s, { units := [{ effects := (rteList s e st).zipIdx.flatMap (fun x => elemEffects s (boxW e) x.2 x.1) }]
        scalar := some (BitVec.ofNat 64 (st.ex.filter Option.isNone).length) })

/-- F.RTE (R345). -/
def execFRte (slot units : Nat) (s : State) : Out := runTask .rte rtePlan slot units s

/-! ### Landing (R339, R349) -/

/-- Every packet of a draining or committed record has been performed. -/
def landed (e : Entry) : Bool := acknowledged e && entryEng e == .f

/-- LANDED_ACK (R349): the destination's acknowledgement comes back; the record's pip lands, and the record retires. -/
def execLandedAck (slot : Nat) (s : State) : Out :=
  .next <|
    match findEntry s slot with
    | none => s
    | some e =>
      if landed e then
        retire e (match e.pip with | some n => landPip n s | none => s)
      else s

end Sys2Proof.Machine
end

