-- ==== Sys2Proof/Machine/System.lean ====
section
/-! DEFINITION. The system instructions (spec/06_strand_memory_system.md R131 to R146): system registers, traps and ERET,
yield, halt, start time, translation removal (spec/13_cluster.md R267, R268), RIDGE (spec/16_package.md R307, R308), SNAP and
SLEEP; and the events that reach the strand from outside: asynchronous causes (R136), pre-emption and forced stops
(spec/07_core.md R176, R180), the debug agent (R286). The save image is in Machine/Save.lean. -/

namespace Sys2Proof.Machine

/-! ### System registers (R131) -/

/-- PKGSTAT (R316). -/
def pkgstatWord (s : State) : Word :=
  let p := s.pkg
  BitVec.ofNat 64 (p.repl.toNat + 2 ^ 3 * p.qf.toNat + 2 ^ 4 * p.lnk.toNat + 2 ^ 5 * (p.ddlStat || p.ddl != 0).toNat + 2 ^ 6 * p.bpf.toNat
    + 2 ^ 7 * p.tlos.toNat + 2 ^ 8 * p.trip.toNat + 2 ^ 16 * p.own.toNat)

/-- RASV (R91): a read at or above the depth gives 0. -/
def rasvWord (s : State) : Word :=
  match s.strand.ras[s.strand.rasi.toNat]? with | some a => a.setWidth 64 | none => 0

/-- A 32-bit register image. -/
def word32 (v : BitVec 32) : Word := v.setWidth 64

/-- The register with a number, as MFS reads it; none for a number that R131 does not assign. -/
def readSys (s : State) (n : Nat) : Option Word :=
  let r := s.sys
  match n with
  | 0x00 => some (statusWord r)
  | 0x01 => some (causeWord r.cause)
  | 0x02 => some (word32 r.epc)
  | 0x03 => some (word32 r.tvec)
  | 0x04 => some r.faddr
  | 0x05 => some (word32 r.etgt)
  | 0x06 => some (xstatWord r.exstat)
  | 0x07 => some r.tcut
  | 0x08 => some (boundsWord r.elb[0])
  | 0x09 => some (boundsWord r.elb[1])
  | 0x0A => some (boundsWord r.elb[2])
  | 0x0B => some (boundsWord r.elb[3])
  | 0x0C => some (xstatWord (xstatNow s))
  | 0x0D => some (r.flags.setWidth 64)
  | 0x0E => some (r.unrec ++ r.recov)
  | 0x10 => some (r.coreid.setWidth 64)
  | 0x11 => some (r.nodeid.setWidth 64)
  | 0x12 => some (r.asid.setWidth 64)
  | 0x13 => some s.pkg.time
  | 0x14 => some (r.rnpool.setWidth 64)
  | 0x15 => some (r.ssgrp.setWidth 64)
  | 0x16 => some r.ytab
  | 0x17 => some (word32 r.preedl)
  | 0x18 => some (word32 r.lattol)
  | 0x19 => some r.rasb
  | 0x1A => some (BitVec.ofNat 64 s.strand.ras.length)
  | 0x1B => some s.strand.rasi
  | 0x1C => some (rasvWord s)
  | 0x1D => some r.prgix
  | 0x20 => some (r.grpid.setWidth 64)
  | 0x21 => some (r.grpn.setWidth 64)
  | 0x22 => some (grpixWord r)
  | 0x23 => some (gstepWord r)
  | 0x24 => some (gepochWord r)
  | 0x25 => some (word32 r.pipexp)
  | 0x26 => some (word32 r.cbrto)
  | 0x27 => some (word32 r.selftestPeriod)
  | 0x28 => some r.traceb
  | 0x29 => some (pkgstatWord s)
  | 0x30 => some (lcWord (getLc s 0))
  | 0x31 => some (lcWord (getLc s 1))
  | 0x32 => some (lcWord (getLc s 2))
  | 0x33 => some (lcWord (getLc s 3))
  | _ => none

/-- Registers that MTS writes at every level. -/
def sysUser (n : Nat) : Bool := n == 0x0C || n == 0x0D || n == 0x14 || n == 0x16

/-- Registers that MTS leaves alone at every level. -/
def sysReadOnly (n : Nat) : Bool :=
  n == 0x10 || n == 0x11 || n == 0x13 || n == 0x29 || n == 0x30 || n == 0x31 || n == 0x32 || n == 0x33

/-- Writing RASD with n (R91): the oldest entries go, or zero entries come in as the oldest. -/
def rasDepth (n : Nat) (ras : List (BitVec 32)) : List (BitVec 32) :=
  let n := min n 16
  if n < ras.length then ras.drop (ras.length - n) else List.replicate (n - ras.length) 0 ++ ras

def writeRasd (v : Word) (s : State) : State :=
  { s with strand := { s.strand with ras := rasDepth v.toNat s.strand.ras } }

def writeRasv (v : Word) (s : State) : State :=
  let i := s.strand.rasi.toNat
  if i < s.strand.ras.length then { s with strand := { s.strand with ras := s.strand.ras.set i (v.setWidth 32) } } else s

/-- RNPOOL (R163): a SIZE above 512, or a pool that would meet a valid husk's footprint, is ignored. -/
def writeRnpool (v : Word) (s : State) : State :=
  let size := v.extractLsb' 0 10
  if 512 < size.toNat || (size != 0 &&
      huskMeets s ((Config.spadBytes - size.toNat * 4096 : Nat) : Int) (Config.spadBytes : Nat)) then s
  else { s with sys := { s.sys with rnpool := size } }

/-- TRACEB (R281): a bad ring turns EN off. -/
def tracebValue (s : State) (v : Word) : Word :=
  let v := v &&& 0xCF00FFFF007FFFC0
  let len := bitsOf v.toNat 32 16
  let off := bitsOf v.toNat 6 17 * 64
  if v.getLsbD 63 && (decide (len < 256) || decide (Config.spadBytes < off + len * 64)
      || meetsPool s (off : Nat) (off + len * 64 : Nat)) then v &&& 0x7FFFFFFFFFFFFFFF
  else v

def writeTraceb (v : Word) (s : State) : State := { s with sys := { s.sys with traceb := tracebValue s v } }

/-- XSTAT (R80): a 0 written to CQO or CQU clears it. -/
def writeXstat (v : Word) (s : State) : State :=
  let x := s.strand.xstat
  withXstat s { x with cqo := x.cqo && v.getLsbD 1, cqu := x.cqu && v.getLsbD 0 }

/-- ASID (R267): the strand's translation buffer is invalidated. -/
def writeAsid (v : Word) (s : State) : State :=
  { s with sys := { s.sys with asid := v.setWidth 13 }, mem := { s.mem with tlb := [] } }

/-- A time limit with a floor of 1,000 ns. -/
def floor1000 (v : Word) : BitVec 32 := if (low32 v).toNat < 1000 then 1000 else low32 v

/-- PIPEXP (R353): at most 1,000,000,000 ns. -/
def pipexpValue (v : Word) : BitVec 32 :=
  let x := floor1000 v
  if 1000000000 < x.toNat then 1000000000 else x

/-- RASB (R92): the reserved bits read zero. A word with SPM = 1 and BASE[35:8] nonzero, or with DEPTH above LIM, is kept as
written (DESIGN CHOICE, log entry 16). -/
def rasbMask : Word := 0x87FFFFEFFFFFFFFF

/-- What a launch packet sets of RASB: SPM, LIM and BASE; DEPTH starts as 0 (R92). -/
def rasbLaunch : Word := 0x87FF000FFFFFFFFF

/-- Write the register with a number from a value, as MTS does once its level and its stall allow it. RASB keeps BASE and DEPTH as
written (DESIGN CHOICE, log entry 16). -/
def writeSys (n : Nat) (v : Word) (s : State) : State :=
  let r := s.sys
  match n with
  | 0x00 => withSys s { r with pl := v.getLsbD 0, ppl := v.getLsbD 1 }
  | 0x01 => withSys s { r with cause := causeOf v }
  | 0x02 => withSys s { r with epc := low32 v }
  | 0x03 => withSys s { r with tvec := low32 v }
  | 0x04 => withSys s { r with faddr := v }
  | 0x05 => withSys s { r with etgt := low32 v }
  | 0x06 => withSys s { r with exstat := xstatOf v }
  | 0x07 => withSys s { r with tcut := v &&& 0x80000000007FFFC0 }
  | 0x08 => withSys s { r with elb := r.elb.set 0 (boundsOf v) }
  | 0x09 => withSys s { r with elb := r.elb.set 1 (boundsOf v) }
  | 0x0A => withSys s { r with elb := r.elb.set 2 (boundsOf v) }
  | 0x0B => withSys s { r with elb := r.elb.set 3 (boundsOf v) }
  | 0x0C => writeXstat v s
  | 0x0D => withSys s { r with flags := v.setWidth 6 }
  | 0x0E => withSys s { r with unrec := v.extractLsb' 32 32, recov := low32 v }
  | 0x12 => writeAsid v s
  | 0x14 => writeRnpool v s
  | 0x15 => withSys s { r with ssgrp := v.setWidth 16 }
  | 0x16 => withSys s { r with ytab := v &&& 0xFF7FFFF8 }
  | 0x17 => withSys s { r with preedl := floor1000 v }
  | 0x18 => withSys s { r with lattol := low32 v }
  | 0x19 => withSys s { r with rasb := v &&& rasbMask }
  | 0x1A => writeRasd v s
  | 0x1B => { s with strand := { s.strand with rasi := v } }
  | 0x1C => writeRasv v s
  | 0x1D => withSys s { r with prgix := v &&& 0xFFFFFFFF000000FF }
  | 0x20 => withSys s { r with grpid := v.setWidth 16 }
  | 0x21 => withSys s { r with grpn := v.setWidth 17 }
  | 0x22 => withSys s { r with grpIx := v.setWidth 16 }
  | 0x23 => withSys s { r with gstepStep := low32 v }
  | 0x24 => withSys s { r with gepoch := v.setWidth 16 }
  | 0x25 => withSys s { r with pipexp := pipexpValue v }
  | 0x26 => withSys s { r with cbrto := floor1000 v }
  | 0x27 => withSys s { r with selftestPeriod := low32 v }
  | 0x28 => writeTraceb v s
  | _ => s

/-- The stalls of an MTS: RNPOOL until no buffer of the pool is live (R163), ASID until every counter is zero and the
replay queue is empty (R267). -/
def mtsWaits (n : Nat) (s : State) : Bool :=
  (n == 0x14 && !(poolUsed s).isEmpty) ||
    (n == 0x12 && (tkc s != 0 || ldc s != 0 || stc s != 0 || cpc s != 0 || !s.mem.replay.isEmpty))

/-- MFS (R131). -/
def execMfs (d : Reg) (r : BitVec 8) (s : State) : Out :=
  issue [d] true 1 (fun s =>
    match readSys s r.toNat with
    | some v => .done (setG s d v)
    | none => .trap { cause := .illegal }) s

/-- MTS (R131): an unassigned number, then the level, then the stall, then the write. -/
def mts (n : Nat) (a : Reg) (s : State) : Out :=
  issue [a] true 1 (fun s =>
    if (readSys s n).isNone then .trap { cause := .illegal }
    else if !s.sys.pl && !sysUser n && !sysReadOnly n then .trap { cause := .priv }
    else if mtsWaits n s then .stall s
    else .done (writeSys n (getG s a) s)) s

def execMts (a : Reg) (r : BitVec 8) (s : State) : Out := mts r.toNat a s
/-- MTS to RNPOOL (R163). -/
def execRnpoolWrite (a : Reg) (s : State) : Out := mts 0x14 a s
/-- MTS to ASID (R267). -/
def execAsidWrite (a : Reg) (s : State) : Out := mts 0x12 a s
/-- MTS to RASD (R91). -/
def execRasdWrite (a : Reg) (s : State) : Out := mts 0x1A a s
/-- MTS to RASV (R91). -/
def execRasvWrite (a : Reg) (s : State) : Out := mts 0x1C a s
/-- MTS to XSTAT (R80). -/
def execXstatWrite (a : Reg) (s : State) : Out := mts 0x0C a s
/-- MTS to TRACEB (R281). -/
def execTracebWrite (a : Reg) (s : State) : Out := mts 0x28 a s

/-! ### Traps and ERET (R138, R140) -/

/-- TRAP (R140). -/
def execTrap (code : BitVec 8) (s : State) : Out :=
  issue [] true 1 (fun _ => .trap { cause := .trap, info := code.setWidth 32 }) s

/-- BRK (R140). -/
def execBrk (tag : BitVec 8) (s : State) : Out :=
  issue [] true 1 (fun _ => .trap { cause := .brk, info := tag.setWidth 32 }) s

/-- The FAULTED record whose cause is still pending stays FAULTED; the others become READY (R173 step 4), and STOPPED
records run again (R178, R284). -/
def restartEntry (pending : List Nat) (e : Entry) : Entry :=
  match e.state with
  | .faulted => if pending.contains e.slot then e else { e with state := .ready }
  | .stopped => { e with state := .running, work := none }
  | _ => e

/-- ERET restarts the queues, unless another engine cause is still to be taken. -/
def restartQueues (s : State) : State :=
  let pending := s.thatch.async.filterMap (fun a => a.recSlot)
  { s with thatch := { s.thatch with
    entries := s.thatch.entries.map (restartEntry pending), stopped := !pending.isEmpty
    wire := if pending.isEmpty then 0 else s.thatch.wire } }

/-- The bounds of the loops that EXSTAT names (R134). -/
def reloadBounds (x : Xstat) (s : State) : State :=
  (activeLoops x).foldl (fun s (l : LoopId) => setBounds s l s.sys.elb[l]) s

/-- The transfer that ERET finds pending (R138): the branch kept with the trap-saved state; or, as EXSTAT.XT and ETGT have it, a
collective branch whose result was known at the trap, or a plain transfer. -/
def returnPend (x : Xstat) (s : State) : Pend :=
  let back (k : PendKind) : Pend := { kind := k, taken := x.xt, target := s.sys.etgt, fall := s.sys.etgt }
  match s.strand.cbrSaved with
  | some p => (match p.kind with | .xfer | .lbrk _ => back .cbrKnown | .cbrKnown | .cbrOpen _ _ => p)
  | none => back .xfer

/-- The last word of the instruction at an address. -/
def lastWordAt (s : State) (a : BitVec 32) : BitVec 32 := if postAt s a then a + 8 else a

/-- ERET's effect (R138). It leaves lc0 to lc3 as the handler left them: R138 names no write of them (DEDUCED, log entry 40).
XSTAT.XT stays as EXSTAT has it where no transfer is pending; a strand whose held stores of a commit have not all issued waits
for them again (R365). -/
def eret (s : State) : State :=
  let x := s.sys.exstat
  let cur := s.strand.xstat
  let s := addCount 1 s
  let s := { s with sys := { s.sys with pl := s.sys.ppl, th := false } }
  let s := withXstat s { x with sk := false, xp := false, xt := x.xt && !x.xp, cqo := x.cqo || cur.cqo, cqu := x.cqu || cur.cqu }
  let s := reloadBounds x s
  let s := retryParked true s
  let p := returnPend x s
  let s := { s with
    strand := { s.strand with
      cbrSaved := none, stalled := false, asleep := false, iterEnd := false, rep := none, pend := none }
    grp := { s.grp with heldWait := true } }
  let s := restartQueues s
  let s := withPc s s.sys.epc
  if x.xp then
    if x.sk then completeSlot p (lastWordAt s s.sys.epc) s else { s with strand := { s.strand with pend := some p } }
  else s

/-- ERET (R138). -/
def execEret (s : State) : Out := issue [] true 1 (privileged (fun s => .jump (eret s))) s

/-! ### Yield, halt, start time (R142, R144, R145) -/

def yieldTaken (n : BitVec 8) (s : State) : Bool :=
  s.sys.pp && s.strand.xstat.depth == 0 && s.strand.pend.isNone && decide (n.toNat ≤ bitsOf s.sys.ytab.toNat 24 8)

/-- YIELD (R142). It stalls while a copy in flight overlaps its doubleword of the yield table (R78). -/
def execYield (n : BitVec 8) (s : State) : Out :=
  issue [] true 1 (fun s =>
    if !yieldTaken n s then .done s
    else
      let off := bitsOf s.sys.ytab.toNat 0 23 + 8 * n.toNat
      if Config.spadBytes < off + 8 then .trap (checkTrap .seg (BitVec.ofNat 64 (2 ^ 63 + off)) 0)
      else if meetsCopy s (BitVec.ofNat 64 (2 ^ 63 + off)) 8 then .stall s
      else
        let e : Word := BitVec.ofNat 64 (readLe s.store.spad off 8)
        let s := clearIssue (addCount 1 s)
        let s := { s with
          sys := { s.sys with
            prgix := BitVec.ofNat 64 (bitsOf e.toNat 32 32 * 2 ^ 32 + n.toNat), epc := s.strand.pc + 1 }
          pkg := { s.pkg with saving := true } }
        .jump (withPc s (low32 e))) s

/-- The husks that have blocks in the cache, rising (R271). -/
def cachedHusks (s : State) : List Nat := s.store.blocks.foldl (fun l b => sinsert (b.1 / 2048) l) []

/-- g1 to g15. -/
def results (s : State) : List Word := (List.range 15).map (fun i => getG s (Fin.ofNat 64 (i + 1)))

/-- The strand halts (R144): the launch ends with its results, or as pre-empted if a save has been taken (R261, R372).
What the window still holds, folds and records of other packages, goes on. -/
def endHalt (s : State) : State :=
  let s := addCount 1 s
  let c : Completion :=
    if s.pkg.saving then .preempted s.sys.prgix (grpixWord s.sys) (gstepWord s.sys) (gepochWord s.sys)
    else .halted (results s)
  { s with
    strand := { s.strand with run := if s.pkg.saving then .preempted else .halted, stalled := false, asleep := false }
    sys := { s.sys with pp := if s.pkg.saving then false else s.sys.pp }
    thatch := { s.thatch with wire := 0 }
    pkg := { s.pkg with
      launch := none, completions := s.pkg.completions ++ [c], preemptBy := none, saving := false, debugReq := false } }

def haltWaits (s : State) : Bool :=
  tkc s != 0 || ldc s != 0 || stc s != 0 || cpc s != 0 || !s.mem.replay.isEmpty

/-- HALT (R144). -/
def execHalt (s : State) : Out :=
  issue [] true 1 (fun s =>
    if haltWaits s then .stall s else withWriteBack (cachedHusks s) s (fun s => .jump (endHalt s))) s

/-- TSTART (R145). -/
def execTstart (a : Reg) (s : State) : Out :=
  issue [a] true 1 (fun s => if (getG s a).ule s.pkg.time then .done s else .stall s) s

/-- TSTART_TIME_REACHED (R145): the TSTART that stalls at the pc meets its bound and completes. -/
def execTstartTimeReached (s : State) : Out :=
  if s.strand.run = .running ∧ s.strand.stalled = true then
    match decodeAt s s.strand.pc with
    | some (.ok (.tstart a)) => if (getG s a).ule s.pkg.time then execTstart a s else .next s
    | _ => .next s
  else .next s

/-! ### MAPINV (R268) -/

/-- Remove translations, then wait for the accesses that used one. A SEG of MAPINV has INFO 0: it makes no access, and R133 gives no
kind (DESIGN CHOICE, log entry 40). -/
def mapinv (p : State → Option (Tlb → Bool)) (regs : List Reg) (a : State → Word) (s : State) : Out :=
  issue regs true 1 (privileged (fun s =>
    match p s with
    | none => .trap { cause := .seg, faddr := some (a s) }
    | some f =>
      let s := invalidate f s
      if memoryPending s then .stall s else .done s)) s

/-- MAPINV kind 0. -/
def execMapinvAddr (a : Reg) (s : State) : Out :=
  mapinv (fun s => some (mapsVa s.sys.asid (getG s a).toNat)) [a] (fun s => getG s a) s

/-- Kind 1: the entries whose range lies in the segment. -/
def inSegment (s : State) (n : Nat) (t : Tlb) : Bool :=
  t.asid == s.sys.asid && (match segNumber s s.sys.asid n with
    | some e => decide (segVbase e < t.va + t.size) && decide (t.va < segVbase e + segLen e)
    | none => false)

/-- MAPINV kind 1. -/
def execMapinvSeg (a : Reg) (s : State) : Out :=
  mapinv (fun s => if (getG s a).toNat < 64 then some (inSegment s (getG s a).toNat) else none) [a] (fun s => getG s a) s

/-- MAPINV kind 2. -/
def execMapinvAsid (a : Reg) (s : State) : Out :=
  mapinv (fun s => if (getG s a).toNat < 8192 then some (fun t => t.asid.toNat == (getG s a).toNat) else none) [a]
    (fun s => getG s a) s

/-- MAPINV kind 3. -/
def execMapinvAll (s : State) : Out := mapinv (fun _ => some (fun _ => true)) [] (fun _ => 0) s

/-! ### RIDGE (R307, R308) -/

/-- The die on the other port of a stack. -/
def otherDie (s : State) (k : Nat) : Nat := if s.pkg.own.getLsbD k then k / 2 else (k / 2 + 1) % 4

/-- The port of a stack at its other die is out of service. -/
def otherPortDown (s : State) (k : Nat) : Bool :=
  if s.pkg.own.getLsbD k then s.pkg.portADown.getLsbD k else s.pkg.portBDown.getLsbD k

/-- The status of a RIDGE: 0 moved, or why it is refused. -/
def ridgeStatus (s : State) (k : Nat) : Nat :=
  if s.pkg.ridging.getLsbD k then 1
  else if s.pkg.dieDown.getLsbD (otherDie s k) || otherPortDown s k then 2
  else if s.pkg.stackError.getLsbD k then 3
  else 0

/-- A translation to an address of a stack. -/
def mapsStack (k : Nat) (t : Tlb) : Bool :=
  t.node.isNone && decide (t.pa < (k + 1) * 2 ^ 36) && decide (k * 2 ^ 36 < t.pa + t.size)

/-- Steps 1 to 4 of a hand-over (R308): requests of other parties are held from now on, a stack in self-refresh wakes, its dirty lines
are written back, and translations to it are removed; the accesses translated through them are still to be performed, and what they
make dirty goes back with the hand-over. -/
def beginRidge (k : BitVec 3) (s : State) : State :=
  let here (key : Nat) : Bool := key / 2 ^ 48 == ownNode s && key % 2 ^ 48 / 2 ^ 36 % 8 == k.toNat
  let s := invalidate (mapsStack k.toNat) (wakeAt (k.toNat * 2 ^ 36) s)
  { s with
    mem := { s.mem with dirty := s.mem.dirty.filter (fun l => !here l) }
    strand := { s.strand with ridgeWait := some k }
    pkg := { s.pkg with ridging := s.pkg.ridging ||| BitVec.ofNat 8 (2 ^ k.toNat) } }

/-- What RIDGE delivers. -/
def ridgeWord (s : State) (k st : Nat) : Word := BitVec.ofNat 64 (ownerDie s k * 2 ^ 8 + st)

/-- A physical address of this package lies in a stack. -/
def inStack (k pa : Nat) : Bool := pa / 2 ^ 36 % 8 == k

/-- An effect goes to a stack. -/
def effectAt (s : State) (k : Nat) : Effect → Bool
  | .mem w => w.addr / 2 ^ 48 == ownNode s && inStack k (w.addr % 2 ^ 48)
  | .setD a => inStack k a
  | _ => false

/-- An access to a stack, translated earlier, is still to be performed: a copy in flight, a planned unit of an ordinary record, or a write
of a restartable one that is done. What a running restartable record keeps in the write-hold area has not been issued (R168; DEDUCED, log
entry 24). -/
def stackPending (k : Nat) (s : State) : Bool :=
  s.strand.copies.any (fun c => c.pages.any (fun p => inStack k p.2)) ||
    s.thatch.entries.any (fun e =>
      if recRst e.record then e.done && e.buffered.any (effectAt s k)
      else match e.work with | some w => w.units.any (fun u => u.effects.any (effectAt s k)) | none => false)

/-- A hand-over that has begun ends once every access translated through a removed entry is performed; until then the strand
stalls, at no boundary (R308). Requests held meanwhile are performed by the new owner behind this step (R309). -/
def endRidge (d : Reg) (k : BitVec 3) (s : State) : Res :=
  if stackPending k.toNat s then .stall s
  else
    let s := handOver k s
    .done (setG s d (ridgeWord s k.toNat 0))

/-- RIDGE (R307, R308). -/
def execRidge (d : Reg) (stk : BitVec 3) (s : State) : Out :=
  issue [d] true 1 (privileged (fun s =>
    if s.strand.ridgeWait = some stk then endRidge d stk s
    else
      let st := ridgeStatus s stk.toNat
      if st = 0 then endRidge d stk (beginRidge stk s) else .done (setG s d (ridgeWord s stk.toNat st)))) s

/-! ### SNAP and SLEEP (R146) -/

/-- SNAP: with the trace off it has no effect. -/
def execSnap (tag : BitVec 8) (s : State) : Out :=
  issue [] true 1 (fun s =>
    if traceOn s then
      let x := s.strand.xstat
      let l := if x.depth = 0 then none else some (innermost x)
      .done (traceSnap 1 tag.toNat (loopDw s l x.depth.toNat) 0 s)
    else .done s) s

/-- SNAPSHOT_WRITTEN (R280): the background write of a snapshot is over; one that waits follows. -/
def execSnapshotWritten (s : State) : Out :=
  .next (match s.prof.queued with
    | [] => { s with prof := { s.prof with busy := false } }
    | r :: t => writeSnap r { s with prof := { s.prof with queued := t } })

/-- What ends a SLEEP: a pending cause, a stop of the debug agent among them (R286), a pre-emption, or an add. -/
def sleepEnds (s : State) : Bool :=
  !s.thatch.async.isEmpty || s.pkg.debugReq || s.sys.pp || (s.strand.asleep && s.strand.semAdded)

/-- SLEEP. -/
def execSleep (s : State) : Out :=
  issue [] true 1 (privileged (fun s =>
    if sleepEnds s then .done s
    else if s.strand.asleep then .stall s
    else .stall { s with strand := { s.strand with asleep := true, semAdded := false } })) s

/-! ### Asynchronous causes (R136) -/

/-- The strand stands at an instruction boundary; it does not while a trap entry waits for the engines (R174). -/
def atBoundary (s : State) : Bool :=
  s.strand.run == .running && !s.strand.asleep && s.strand.ridgeWait.isNone && s.thatch.trapDue.isNone &&
    (match s.strand.rep with | some _ => s.strand.stalled | none => true) &&
    (match s.strand.pend with
     | some p => s.strand.stalled && (match p.kind with | .xfer | .lbrk _ => true | .cbrKnown | .cbrOpen _ _ => false)
     | none => true)

/-- A pending cause that may be taken now; an engine cause waits until every engine has stopped (R173, R174). -/
def takeable (s : State) (a : Async) : Bool := a.recSlot.isNone || !engineRuns s

/-- The strand stands at a SAVEQ that has ended pips: PIP_EXP is taken after it completes (R396). -/
def atSaveq (s : State) : Bool :=
  s.thatch.savePips && (match decodeAt s s.strand.pc with | some (.ok (.saveq _)) => true | _ => false)

/-- A cause that the strand may take at this boundary. -/
def mayTake (s : State) (a : Async) : Bool := takeable s a && !(a.cause == .pipExp && atSaveq s)

/-- The lowest code, the oldest of that code. -/
def firstCause (l : List Async) : Option Async :=
  l.foldl (fun m a =>
    match m with
    | none => some a
    | some b => if causeCode a.cause < causeCode b.cause then some a else some b) none

/-- A stop of the debug agent may be taken now (R286): its debug view, a snapshot, waits while an earlier one is being written
(R280). -/
def debugDue (s : State) : Bool := s.pkg.debugReq && (!s.strand.xstat.pipe || s.strand.iterEnd) && !(viewOn s && s.prof.busy)

/-- The cause of a debug stop. -/
def debugCause : Async := { cause := .brk, info := 0x100, src := 0 }

/-- The cause that the strand takes at this boundary. -/
def nextCause (s : State) : Option Async :=
  if s.sys.th || s.sys.spec || !atBoundary s then none
  else firstCause (s.thatch.async.filter (mayTake s) ++ (if debugDue s then [debugCause] else []))

/-- The record of a cause, for the cut record. -/
def causeSeq (s : State) (a : Async) : Option Nat :=
  match a.recSlot with
  | some k => (findEntry s k).map Entry.seq
  | none => none

/-- Take one asynchronous cause. -/
def takeCause (a : Async) (s : State) : State :=
  let q := causeSeq s a
  let s :=
    if a = debugCause then { s with pkg := { s.pkg with debugReq := false } }
    else { s with thatch := { s.thatch with async := s.thatch.async.erase a } }
  trapEntry { cause := a.cause, info := a.info, faddr := a.faddr, src := a.src } true q s

/-- ASYNC_CAUSE_TAKEN (R136, R137). -/
def execAsyncCauseTaken (s : State) : Out :=
  .next (match nextCause s with | some a => takeCause a s | none => s)

/-! ### Requests from outside -/

/-- DEBUG_STOP_REQUEST (R286). -/
def execDebugStopRequest (s : State) : Out :=
  .next (if live s then { s with pkg := { s.pkg with debugReq := true } } else s)

/-- PREEMPT_REQUEST (R176), a management packet (R314). -/
def execPreemptRequest (s : State) : Out :=
  let s := wakeAll s
  .next (if live s ∧ s.sys.pp = false then
      { s with sys := { s.sys with pp := true }
               pkg := { s.pkg with preemptBy := some (s.pkg.time + word32 s.sys.preedl) } }
    else s)

/-- The deadline of a pre-emption has passed with no save taken (R180), in a save sequence too (R260), and speculation has
resolved (R366). -/
def forcedDue (s : State) : Bool :=
  match s.pkg.preemptBy with
  | some t => t.ule s.pkg.time && !s.sys.spec && atBoundary s
  | none => false

/-- FORCED_STOP (R180): the strand stops at its boundary, engines at an entry boundary or a progress index, restartable
records are aborted; fabric records other than F.HALO and F.RED send on. -/
def execForcedStop (s : State) : Out :=
  .next (if forcedDue s then
      let s := stopRunning s
      { s with strand := { s.strand with run := .stopped }, pkg := { s.pkg with preemptBy := none } }
    else s)

/-- FIRMWARE_RESTORE (R180): everything is restored on this core; the strand then takes PREEMPT. Records stopped by force
run again, unless the queues are stopped for a handler that is still to return. -/
def execFirmwareRestore (s : State) : Out :=
  .next (if s.strand.run = .stopped then
      let s := { s with
        strand := { s.strand with run := .running }
        sys := { s.sys with pp := false }
        thatch := { s.thatch with
          entries := s.thatch.entries.map (fun e =>
            if e.state = .stopped ∧ s.thatch.stopped = false then { e with state := .running, work := none } else e) } }
      releaseAll (raiseAsync { cause := .preempt, info := 0, src := 0 } s)
    else s)

end Sys2Proof.Machine
end

