-- ==== Sys2Proof/Machine/Arrival.lean ====
section
/-! DEFINITION. Packets at their destination and the answers at their issuer (spec/18_fabric_remote.md R336 to R344, R348 to
R352): what a packet performs, refusals, the hold queue, RELEASE, CANCEL and EXPIRED. Destinations on other cores and nodes
are the sparse tables of State (DESIGN CHOICE, log entry 4). -/

namespace Sys2Proof.Machine

/-! ### Packets on their way -/

def ownPacket (s : State) (p : Packet) : Bool := p.srcNode == ownNode s && p.srcCore == ownCore s

/-- The packet reaches this package and this core. -/
def toOwn (s : State) (p : Packet) : Bool := p.dstNode == ownNode s && p.dstCore == ownCore s

/-- A flit of this packet of the package still waits to be sent (R319). -/
def flitsWait (s : State) (p : Packet) : Bool :=
  p.num.isSome && s.links.any (fun (l : Link) => l.queue.any (fun q => q.own == p.num))

/-- A packet of this core has been performed. -/
def ackPacket (p : Packet) (s : State) : State :=
  if ownPacket s p then
    match findEntry s p.srcSlot with
    | some e => putEntry { e with acks := e.acks - 1 } s
    | none => s
  else s

/-- The virtual address of a physical one in the segment of a remote box. -/
def remoteVa (s : State) (b : RBox) (pa : Nat) : Nat :=
  (((segVbase (remoteSeg s b) : Int) + (pa : Int) - (segPbase (remoteSeg s b) : Int)) % (2 ^ 51 : Nat)).toNat

/-- The record of a packet of this core fails with UE: FADDR is the virtual address of the line (R136, R348). -/
def failUe (p : Packet) (b : Entry → RBox) (pa : Nat) (s : State) : State :=
  if ownPacket s p then
    (match findEntry s p.srcSlot with
      | some e => failAt e .ue (some (BitVec.ofNat 64 (remoteVa s (b e) pa / 64 * 64))) s
      | none => s)
  else s

/-- The answer to a refused packet. -/
def refusal (p : Packet) (full : Bool) : Packet :=
  { srcNode := p.dstNode, srcCore := p.dstCore, srcSlot := p.srcSlot, dstNode := p.srcNode, dstCore := p.srcCore
    asid := p.asid, mark := p.mark, idx := p.idx, body := .refused full }

/-- The destination refuses a packet. -/
def refuse (p : Packet) (s : State) : State := if ownPacket s p then toNet [refusal p false] s else s

/-! ### Memory (R339, R340) -/

/-- The destination refuses an address of a packet: bits [47:39] are set, or its home cannot be reached from the die by which
the packet comes in (R287, R306). -/
def addrRefused (s : State) (p : Packet) (pa : Nat) : Bool :=
  decide (2 ^ 39 ≤ pa) || (p.dstNode == ownNode s && !routed s (ingressDie s p) (homeDie s pa))

def cpVa (r : Rec) : Nat := recImm r
def cpFrame (r : Rec) : Nat := recXf r
def cpRemap (r : Rec) : Bool := recMod r % 2 == 1

/-- The entry is a C.CPYPG with a migration under way (R296): it has set MIG, and it has not ended. -/
def migrates (e : Entry) : Bool :=
  recTask e.record == some .cpypg && !e.fold && cpRemap e.record && e.index != 0 && !e.done

/-- A page of an ASID is now in the frame of a physical address. -/
def pageAt (s : State) (asid : BitVec 13) (va pa : Nat) : Bool :=
  match pageWalkOf s asid va with
  | .leaf l => leafPa l va / Config.pageBytes == pa / Config.pageBytes
  | .bad _ _ => false

/-- The page, by its ASID and address, whose frame holds every write to it: one that a sweep of this package has still to copy, as mapped
now, or one that migrates (R253, R296, R301). -/
def frameHeld (s : State) (node pa : Nat) : Option (BitVec 13 × Nat) :=
  if node = ownNode s then
    match (s.mem.sweeps.flatMap (fun w => w.pages.map (fun q => (w.asid, q.va)))).find? (fun q => pageAt s q.1 q.2 pa) with
    | some q => some q
    | none =>
      (s.thatch.entries.find? (fun e => migrates e && pageAt s s.sys.asid (cpVa e.record) pa)).map (fun e => (s.sys.asid, cpVa e.record))
  else none

/-- The bytes of an atomic. -/
def amoBytes (pa : Nat) (wide : Bool) : List Nat := (List.range (if wide then 8 else 4)).map (· + pa)

/-- The addresses that a body writes. -/
def bodyWrites : PktBody → List Nat
  | .write ws => ws.map ByteWrite.addr
  | .amo pa wide _ _ _ => amoBytes pa wide
  | _ => []

/-- The addresses of memory that a body accesses. -/
def bodyTouches : PktBody → List Nat
  | .read bytes => bytes
  | b => bodyWrites b

/-- The first page that holds a packet back. -/
def heldPage (s : State) (p : Packet) : Option (BitVec 13 × Nat) := (bodyWrites p.body).findSome? (frameHeld s p.dstNode)

/-- A packet waits where it has come: for its page, or for the hand-over of its stack (R296, R301, R309). -/
def packetHeld (s : State) (p : Packet) : Bool :=
  (heldPage s p).isSome || (p.dstNode == ownNode s && (bodyTouches p.body).any (ridgingAt s))

/-- An earlier packet of this core on the same route is still to arrive (R335, R351). -/
def overtakes (s : State) (p : Packet) : Bool := s.fab.net.find? (fun q => sameRoute q p && ownPacket s q) != some p

/-- The link port of its die at which a packet of another node comes in: of the group that faces where it comes from, the one that its
nodes select (R334; DEDUCED, log entry 40). -/
def ingressPort (s : State) (p : Packet) : Nat :=
  let a := ingressDie s p
  let c := coord (ownNode s) a
  let from_ := coord p.srcNode a
  let up := (c + axisLen s a - from_) % axisLen s a
  let minus := if axisWraps s a then decide (axisLen s a - up < up) else decide (c < from_)
  (if minus then 0 else 3) + (p.srcNode ^^^ p.dstNode) % 3

/-- The source number of a packet's requests at the controllers of a home die (R290). -/
def packetSource (s : State) (p : Packet) (pa : Nat) : Fin 15 :=
  if p.srcNode = ownNode s then coreSource s p.srcCore pa
  else if ingressDie s p = homeDie s pa then Fin.ofNat 15 (6 + ingressPort s p)
  else coreSource s (128 * ingressDie s p) pa

/-- A core leaves its clock-gated state (R314). -/
def wakeCore (c : Nat) (s : State) : State :=
  { s with pkg := { s.pkg with gated := s.pkg.gated.filter (fun g => match g with
      | .clockGated k => k.val != c
      | _ => true) } }

/-- What a packet for this package asks of its units: each line that it accesses is a request at its home and its controller (R290),
none of a packet that is refused for an address (R287, R306); and one for a core ends the retention of its die, and for a record the
clock gating of the core, whose window it enters (R314). -/
def wakePacket (p : Packet) (s : State) : State :=
  if p.dstNode = ownNode s then
    if p.mark.isSome then wakeDie (p.dstCore / 128) s
    else
    match p.body with
    | .write _ | .read _ | .amo .. =>
      if (bodyTouches p.body).any (addrRefused s p) then s
      else ((bodyTouches p.body).map lineOf).dedup.foldl (fun s l => toController (packetSource s p l) l (wakeAt l s)) s
    | .post .. => wakeCore p.dstCore (wakeDie (p.dstCore / 128) s)
    | _ => wakeDie (p.dstCore / 128) s
  else s

/-- The packet can be here: one of this core is on its way, its flits have all been sent, and it is the first of its route; others
send as they will. -/
def atTarget (s : State) (p : Packet) : Bool :=
  !ownPacket s p || (s.fab.net.contains p && !flitsWait s p)

/-- A packet leaves the fabric, if it has come. -/
def leaveNet (p : Packet) (s : State) : Option State :=
  if atTarget s p && !(ownPacket s p && overtakes s p) then some { s with fab := { s.fab with net := s.fab.net.erase p } } else none

/-- Take a packet from the fabric, with what it asks of the units here. -/
def fromNet (p : Packet) (s : State) : Option State := (leaveNet p s).map (wakePacket p)

/-- A packet that has come and must wait: its page is raised (R253), and it stands behind what waits at the homes of this package. -/
def waitHere (p : Packet) (s : State) : State :=
  let s := match heldPage s p with
    | some q => raiseFor (if p.srcNode = ownNode s then p.srcCore else p.dstCore) q.1 q.2 s
    | none => s
  { s with mem := { s.mem with homeHeld := s.mem.homeHeld ++ [.pkt p] } }

/-- A plain packet arrives, and is performed unless it must wait. -/
def arrive (p : Packet) (f : State → State) (s : State) : Out :=
  .next (if p.mark.isSome then s
    else
      match leaveNet p s with
      | some s' => if packetHeld s' p then waitHere p s' else f (wakePacket p s')
      | none => s)

def performWrite (p : Packet) (ws : List ByteWrite) (s : State) : State :=
  if ws.any (fun w => addrRefused s p w.addr) then refuse p s
  else ackPacket p (memWrite (ws.map (fun w => { w with addr := memKey p.dstNode w.addr })) s)

/-- REMOTE_WRITE_ARRIVAL (R339). -/
def execRemoteWriteArrival (p : Packet) (s : State) : Out :=
  match p.body with
  | .write ws => arrive p (performWrite p ws) s
  | _ => .next s

/-- A consumption of a poisoned line through a fabric port (R289, R298). R298 gives KIND 0 for a strand and 1 for an engine, and names none
for a port: 1 (DESIGN CHOICE, log entry 40). -/
def fabricConsumed (node pa : Nat) (s : State) : State :=
  if node = ownNode s then faqAppend (homeDie s pa) 1 0x1FF pa s else s

/-- The raw bits of element n of a remote box. -/
def remoteRead (s : State) (node : Nat) (b : RBox) (n : Nat) : Nat :=
  let bit := remoteBit s b n
  if boxBits s b < 8 then bitsOf (byteAt s.mem.mem (memKey node (bit / 8))).toNat (bit % 8) (boxBits s b)
  else readLe s.mem.mem (memKey node (bit / 8)) (boxBits s b / 8)

/-- The answer to a read: its elements go into W; a restartable record buffers them (R168). -/
def readAnswer (p : Packet) (e : Entry) (s : State) : State :=
  let es := (readRange s (boxA e) p.idx).flatMap (fun n => elemEffects s (boxW e) n (remoteRead s p.dstNode (boxA e) n))
  let e' : Entry := { e with acks := e.acks - 1, buffered := if recRst e.record then e.buffered ++ es else e.buffered }
  let s := putEntry e' s
  settleRead e.slot (if recRst e.record then s else applyEffects es s)

/-- A read packet is performed. One that covers several poisoned lines makes one entry of the fault-address queue, for the first that it
meets: the packet ends there (R289 does not say; DESIGN CHOICE, log entry 40). -/
def performRead (p : Packet) (bytes : List Nat) (s : State) : State :=
  if bytes.any (addrRefused s p) then refuse p s
  else
    match bytes.find? (fun pa => poisonedAt s (memKey p.dstNode pa)) with
    | some pa => failUe p boxA pa (fabricConsumed p.dstNode pa s)
    | none =>
      if ownPacket s p then (match findEntry s p.srcSlot with | some e => readAnswer p e s | none => s) else s

/-- REMOTE_READ_ARRIVAL (R339). -/
def execRemoteReadArrival (p : Packet) (s : State) : Out :=
  match p.body with
  | .read bytes => arrive p (performRead p bytes) s
  | _ => .next s

/-- The old value comes back to the record. -/
def amoAnswer (p : Packet) (old : Nat) (s : State) : State :=
  if ownPacket s p then
    match findEntry s p.srcSlot with
    | some e => putEntry { e with acks := e.acks - 1, scalar := some (BitVec.ofNat 64 old) } s
    | none => s
  else s

def performAmo (p : Packet) (pa : Nat) (wide : Bool) (op : AtomOp) (b cmp : Word) (s : State) : State :=
  let size := if wide then 8 else 4
  let w := 8 * size
  let k := memKey p.dstNode pa
  if (amoBytes pa wide).any (addrRefused s p) then refuse p s
  else
    match (amoBytes pa wide).find? (fun a => poisonedAt s (memKey p.dstNode a)) with
    | some a => failUe p boxW a (fabricConsumed p.dstNode a s)
    | none =>
      let old := readLe s.mem.mem k size
      let c := cmp.toNat % 2 ^ w
      amoAnswer p old
        (if atomWrites op old c then memWrite (writesOf k (leBytes size (atomNew op w old (b.toNat % 2 ^ w) c))) s else s)

/-- REMOTE_AMO_ARRIVAL (R340). -/
def execRemoteAmoArrival (p : Packet) (s : State) : Out :=
  match p.body with
  | .amo pa wide op b cmp => arrive p (performAmo p pa wide op b cmp) s
  | _ => .next s

/-! ### Cores (R336) -/

def findPeer (s : State) (node core : Nat) : Option Peer := s.fab.peers.find? (fun q => q.node == node && q.core == core)

def isOwn (s : State) (node core : Nat) : Bool := node == ownNode s && core == ownCore s

/-- The core runs a launch of the packet's ASID. -/
def coreRuns (s : State) (p : Packet) : Bool :=
  if isOwn s p.dstNode p.dstCore then live s && s.sys.asid.toNat == p.asid
  else
    match findPeer s p.dstNode p.dstCore with
    | some q => q.asid.toNat == p.asid
    | none => false

/-- The state as the target core sees its husks. -/
def targetView (s : State) (p : Packet) : State :=
  if isOwn s p.dstNode p.dstCore then s
  else
    match findPeer s p.dstNode p.dstCore with
    | some q =>
      { s with
        store := { s.store with husks := q.husks }
        sys := { s.sys with coreid := BitVec.ofNat 9 q.core, asid := q.asid, rnpool := 256 } }
    | none => s

/-- Add to a semaphore of a core. -/
def addSemAt (node core n : Nat) (v : BitVec 32) (s : State) : State :=
  if isOwn s node core then releaseAll (addSem n v s)
  else
    let k := (node * 512 + core) * 2048 + n
    { s with fab := { s.fab with farSems := tset 0 s.fab.farSems k (tget 0 s.fab.farSems k + v) } }

/-- Write bits of a byte of a core's scratchpad. -/
def writeSpadAt (node core : Nat) (w : ByteWrite) (s : State) : State :=
  if isOwn s node core then applyEffect s (.spad w)
  else if w.addr < Config.spadBytes then
    { s with fab := { s.fab with
      farSpad := setMasked s.fab.farSpad { w with addr := (node * 512 + core) * 2 ^ 23 + w.addr } } }
  else s

def performSem (p : Packet) (n : Nat) (v : BitVec 32) (s : State) : State :=
  if coreRuns s p then ackPacket p (addSemAt p.dstNode p.dstCore n v s) else refuse p s

/-- REMOTE_SEM_ARRIVAL (R341, R171). -/
def execRemoteSemArrival (p : Packet) (s : State) : Out :=
  match p.body with
  | .sem n v => arrive p (performSem p n v) s
  | _ => .next s

/-! ### Posts (R342, R166) -/

/-- A box of a remote record breaks the target's husks. -/
def farBoxBad (t : State) (b : RBox) : Bool :=
  if b.acc then (List.range 3).any (fun d => decide (accExt d < dget b.o d + dget b.e d))
  else
    let h := getHusk t b.hid
    !hkV h || (List.range (hkRank h)).any (fun d => decide (hkExt h d < dget b.o d + dget b.e d))

def postRefused (t : State) (r : Rec) (b : Boxes) : Bool :=
  (boxList b).any (farBoxBad t) || (checkEntry r b t).isSome || restartBad r b t

/-- Places left in the target's remote reserve. -/
def reserveLeft (s : State) (p : Packet) : Nat :=
  if isOwn s p.dstNode p.dstCore then 8 - remoteCount s
  else match findPeer s p.dstNode p.dstCore with | some q => q.reserve | none => 0

/-- A BUSY answer: the sender backs off, and after the sixteenth retry the record fails with WINDOW. -/
def busyAnswer (p : Packet) (s : State) : State :=
  if ownPacket s p then
    match findEntry s p.srcSlot with
    | some e =>
      if 16 ≤ e.busy then failRecord e .window s
      else putEntry { e with busy := e.busy + 1, retryAt := s.pkg.time + BitVec.ofNat 64 (backoff e.busy) } s
    | none => s
  else s

/-- A remote record enters the target's window. -/
def enterRemote (p : Packet) (r : Rec) (b : Boxes) (s : State) : State :=
  if isOwn s p.dstNode p.dstCore then
    releaseAll (enter { slot := 0, record := r, boxes := b, seq := 0, state := .pending, own := false, remote := true } 1 s)
  else
    { s with fab := { s.fab with
      peers := s.fab.peers.map (fun q =>
        if q.node = p.dstNode ∧ q.core = p.dstCore then { q with reserve := q.reserve - 1 } else q) } }

def performPost (p : Packet) (r : Rec) (b : Boxes) (s : State) : State :=
  if !coreRuns s p then refuse p s
  else if reserveLeft s p = 0 then busyAnswer p s
  else if postRefused (targetView s p) r b then refuse p s
  else ackPacket p (enterRemote p r b s)

/-- REMOTE_POST_ARRIVAL (R342). -/
def execRemotePostArrival (p : Packet) (s : State) : Out :=
  match p.body with
  | .post r b => arrive p (performPost p r b) s
  | _ => .next s

/-! ### HALO and RED writes (R343, R344) -/

/-- The target refuses a box write: no LOCAL husk of this element size, or the box exceeds it. -/
def boxWriteRefused (t : State) (w : RBox) (bits : Nat) : Bool :=
  let h := boxHusk t w
  !hkV h || hkKind h != kLocal || hkBits h != bits ||
    (List.range (hkRank h)).any (fun d => decide (hkExt h d < dget w.o d + dget w.e d)) || boxElems t w != farElems w.e

/-- The byte writes of a piece of a stream into a box of the target's scratchpad. -/
def boxWrites (t : State) (w : RBox) (first : Nat) (bs : List Byte) : List ByteWrite :=
  (bs.zipIdx.flatMap (fun b => streamEffects t w (first + b.2) b.1)).filterMap
    (fun x => match x with | .spad w => some w | _ => none)

/-- This packet completes its write: the last of a record of this core to be performed, or the last of a stream. -/
def completesWrite (s : State) (p : Packet) (last : Bool) : Bool :=
  if ownPacket s p then
    match findEntry s p.srcSlot with
    | some e => e.acks == 1 && e.waiting.isEmpty && e.bounced.isEmpty && (e.done || last)
    | none => false
  else last

def performBox (p : Packet) (w : RBox) (bits first : Nat) (bs : List Byte) (last : Bool) (sem : Option Nat) (bad : Bool)
    (s : State) : State :=
  let t := targetView s p
  if !coreRuns s p || bad || boxWriteRefused t w bits then refuse p s
  else
    let ends := completesWrite s p last
    let s := (boxWrites t w first bs).foldl (fun s x => writeSpadAt p.dstNode p.dstCore x s) s
    let s := (match sem with | some n => if ends then addSemAt p.dstNode p.dstCore n 1 s else s | none => s)
    ackPacket p s

/-- HALO_WRITE_ARRIVAL (R343): a husk of another format code takes the bits as they stand. -/
def execHaloWriteArrival (p : Packet) (s : State) : Out :=
  match p.body with
  | .halo w bits _ first bs last sem => arrive p (performBox p w bits first bs last sem false) s
  | _ => .next s

/-- The target of F.RED refuses a husk of another format code. -/
def formatDiffers (s : State) (p : Packet) (w : RBox) (fmt : Nat) : Bool := hkFmtCode (boxHusk (targetView s p) w) != fmt

/-- RED_WRITE_ARRIVAL (R344). -/
def execRedWriteArrival (p : Packet) (s : State) : Out :=
  match p.body with
  | .red w bits fmt first bs last sem =>
    arrive p (fun s => performBox p w bits first bs last sem (formatDiffers s p w fmt) s) s
  | _ => .next s

/-! ### The hold queue (R351, R352) -/

/-- Perform a packet that has been released. -/
def performBody (p : Packet) (s : State) : State :=
  match p.body with
  | .write ws => performWrite p ws s
  | .read bytes => performRead p bytes s
  | .amo pa wide op b cmp => performAmo p pa wide op b cmp s
  | .sem n v => performSem p n v s
  | .post r b => performPost p r b s
  | .halo w bits _ first bs last sem => performBox p w bits first bs last sem false s
  | .red w bits fmt first bs last sem => performBox p w bits first bs last sem (formatDiffers s p w fmt) s
  | .release _ | .cancel _ | .expired _ | .refused _ => s

/-- A marked packet addressed to a core, refused before it is held: the core runs no launch of the packet's ASID (R336, R380).
A marked memory write is addressed to memory, and its mirror core only holds it. -/
def coreRefuses (s : State) (p : Packet) : Bool :=
  (match p.body with
    | .sem _ _ | .halo .. => true
    | _ => false) && !coreRuns s p

/-- The packet belongs to the triple (issuer node, issuer core, pip). -/
def ofTriple (node core pip : Nat) (p : Packet) : Bool := p.srcNode == node && p.srcCore == core && p.mark == some pip

def heldBy (node core : Nat) (h : Held) : Bool := h.node == node && h.core == core

/-- The triple of a packet is in the expired table of a core. -/
def tripleExpired (s : State) (node core srcNode srcCore pip : Nat) : Bool :=
  s.fab.expired.any (fun x =>
    x.node == node && x.core == core && x.srcNode == srcNode && x.srcCore == srcCore && x.pip == pip)

/-- EXPIRED travels from the holder to the issuer. -/
def expiredNotice (node core srcNode srcCore pip : Nat) : Packet :=
  { srcNode := node, srcCore := core, srcSlot := 0, dstNode := srcNode, dstCore := srcCore, asid := 0, body := .expired pip }

/-- A marked packet that finds the hold queue full. -/
def bounce (p : Packet) (s : State) : State :=
  if ownPacket s p then
    match findEntry s p.srcSlot with
    | some e => toNet [refusal p true] (putEntry { e with bounced := e.bounced ++ [p] } s)
    | none => s
  else s

/-- MARKED_PACKET_ARRIVAL (R351, R352). -/
def execMarkedPacketArrival (p : Packet) (s : State) : Out :=
  .next <|
    match p.mark, p.body with
    | _, .refused _ => s
    | none, _ => s
    | some pip, _ =>
      match fromNet p s with
      | none => s
      | some s =>
        if tripleExpired s p.dstNode p.dstCore p.srcNode p.srcCore pip then
          toNet [expiredNotice p.dstNode p.dstCore p.srcNode p.srcCore pip] s
        else if coreRefuses s p then refuse p s
        else if 64 ≤ (s.fab.held.filter (heldBy p.dstNode p.dstCore)).length then bounce p s
        else
          { s with fab := { s.fab with
            held := s.fab.held ++ [{ node := p.dstNode, core := p.dstCore, time := s.pkg.time, p := p }] } }

/-- Remove the held packets of a triple at a core, and its entry of the expired table. -/
def dropTriple (node core srcNode srcCore pip : Nat) (s : State) : State :=
  { s with fab := { s.fab with
    held := s.fab.held.filter (fun h => !(heldBy node core h && ofTriple srcNode srcCore pip h.p))
    expired := s.fab.expired.filter (fun x =>
      !(x.node == node && x.core == core && x.srcNode == srcNode && x.srcCore == srcCore && x.pip == pip)) } }

/-- A released packet is performed; one that must wait is here as a plain packet. -/
def releaseOne (s : State) (p : Packet) : State :=
  if packetHeld s p then waitHere { p with mark := none } s
  else performBody p (wakePacket { p with mark := none } s)

/-- RELEASE_ARRIVAL (R351): the held packets of the triple are performed in order of arrival. -/
def execReleaseArrival (p : Packet) (s : State) : Out :=
  .next <|
    match p.body with
    | .release pip =>
      (match fromNet p s with
        | none => s
        | some s =>
          let ps := (s.fab.held.filter (fun h => heldBy p.dstNode p.dstCore h && ofTriple p.srcNode p.srcCore pip h.p)).map Held.p
          ps.foldl releaseOne (dropTriple p.dstNode p.dstCore p.srcNode p.srcCore pip s))
    | _ => s

/-- The records of this core that sent marked packets of a pip to a destination fail with PIP_EXP. -/
def failMarked (dst : Nat × Nat) (pip : Nat) (s : State) : State :=
  (s.thatch.entries.filter (fun e => e.dep == some pip && e.marked.contains dst)).foldl
    (fun s e => match findEntry s e.slot with | some e => failRecord e .pipExp s | none => s) s

/-- CANCEL_ARRIVAL (R351): the held packets of the triple are discarded; their records fail (R348, R396). -/
def execCancelArrival (p : Packet) (s : State) : Out :=
  .next <|
    match p.body with
    | .cancel pip =>
      (match fromNet p s with
        | none => s
        | some s =>
          let s := dropTriple p.dstNode p.dstCore p.srcNode p.srcCore pip s
          if ownPacket s p then failMarked (p.dstNode, p.dstCore) pip s else s)
    | _ => s

/-- PIPEXP of the core that holds a packet. -/
def holderPipexp (s : State) (node core : Nat) : Nat :=
  if isOwn s node core then s.sys.pipexp.toNat
  else match findPeer s node core with | some q => q.pipexp | none => 1000000

/-- How long a packet has been held; the timers stand still in a phase change (R374). -/
def heldFor (s : State) (h : Held) : Nat :=
  (match s.fab.phase with | some f => f.since | none => s.pkg.time).toNat - h.time.toNat

/-- Enter a triple in a core's table of 16; the oldest goes. -/
def enterExpired (x : Expired) (s : State) : State :=
  let mine := s.fab.expired.filter (fun y => y.node == x.node && y.core == x.core)
  let l := if mine.length < 16 then s.fab.expired else s.fab.expired.erase (mine.headD x)
  { s with fab := { s.fab with expired := l ++ [x] } }

/-- Expire a held packet and its triple. -/
def expire (h : Held) (pip : Nat) (s : State) : State :=
  let s := dropTriple h.node h.core h.p.srcNode h.p.srcCore pip s
  let s := enterExpired { node := h.node, core := h.core, srcNode := h.p.srcNode, srcCore := h.p.srcCore, pip := pip } s
  let s := toNet [expiredNotice h.node h.core h.p.srcNode h.p.srcCore pip] s
  if isOwn s h.node h.core then
    raiseAsync { cause := .pipExp, src := 6
                 info := BitVec.ofNat 32 (pip % 256 + 2 ^ 8 * (h.p.srcCore % 512) + 2 ^ 17 * (h.p.srcNode % 4096)) } s
  else s

/-- HOLD_EXPIRY (R352): the i-th held packet has been held for the PIPEXP of its holder. -/
def execHoldExpiry (i : Nat) (s : State) : Out :=
  .next <|
    match s.fab.held[i]? with
    | none => s
    | some h => if holderPipexp s h.node h.core ≤ heldFor s h then expire h (h.p.mark.getD 0) s else s

/-- EXPIRED_ARRIVAL (R352). -/
def execExpiredArrival (p : Packet) (s : State) : Out :=
  .next <|
    match p.body with
    | .expired pip =>
      if toOwn s p && s.fab.net.contains p then
        failMarked (p.srcNode, p.srcCore) pip { s with fab := { s.fab with net := s.fab.net.erase p } }
      else s
    | _ => s

/-! ### Refusals at the issuer (R348, R350) -/

/-- A packet refused at a full hold queue is held in the engine until its pip changes state. -/
def holdBack (q : Packet) (e : Entry) (s : State) : State :=
  putEntry { e with acks := e.acks - 1, bounced := e.bounced.erase q, waiting := e.waiting ++ [{ q with mark := none }] } s

/-- The refusal answers this packet. -/
def answers (p q : Packet) : Bool :=
  q.srcSlot == p.srcSlot && q.idx == p.idx && q.dstNode == p.srcNode && q.dstCore == p.srcCore && q.mark == p.mark

/-- The page that a C.CKPT has under way is to be sent again (R254). -/
def unsend (seq : Nat) (s : State) : State :=
  { s with mem := { s.mem with
    sweeps := s.mem.sweeps.map (fun w => if sweepOf s seq w then { w with sent := none } else w) } }

/-- A packet of a record is refused, or lost: the record meets REMOTE (R326, R348). The page of a C.CKPT is to be sent again (R254); a
C.CKPT that is stopped, or has already met its cause, meets it when it sends the page. -/
def packetFails (e : Entry) (s : State) : State :=
  let e' : Entry := { e with acks := e.acks - 1 }
  if entryEng e = .c then
    let s := unsend e.seq s
    if e.state = .running then engineCause e' { cause := .remote } s else putEntry e' s
  else engineCause e' { cause := .remote } s

/-- What a refusal does to the record of the packet that it answers. -/
def refused (p q : Packet) (full : Bool) (s : State) : State :=
  match findEntry s p.srcSlot with
  | none => s
  | some e => if full then holdBack q e s else packetFails e s

/-- The packet that a refusal in the fabric answers: a bounced one, else the packet itself is gone. -/
def refusedPacket (p : Packet) (s : State) : Packet :=
  match findEntry s p.srcSlot with
  | some e => (e.bounced.find? (answers p)).getD p
  | none => p

/-- REMOTE_REFUSAL_ARRIVAL (R348, R350): the answer of a target of this model, or of one that refuses for reasons of its
own a packet that is still on its way. -/
def execRemoteRefusalArrival (p : Packet) (s : State) : Out :=
  .next <|
    match p.body with
    | .refused full =>
      if !toOwn s p then s
      else if s.fab.net.contains p then
        refused p (refusedPacket p s) full { s with fab := { s.fab with net := s.fab.net.erase p } }
      else
        (match s.fab.net.find? (fun q => ownPacket s q && !flitsWait s q && answers p q && (!full || q.mark.isSome)) with
          | some q => refused p q full { s with fab := { s.fab with net := s.fab.net.erase q } }
          | none => s)
    | _ => s

end Sys2Proof.Machine
end

