-- ==== Sys2Proof/Machine/Consistency.lean ====
section
/-! DEFINITION. Entry consistency (spec/13_cluster.md R272 to R277): synchronisation objects, bindings, ACQ, REL, BIND and
UNBIND. -/

namespace Sys2Proof.Machine

/-- The owner word of this core (R272). -/
def ownerWord (s : State) : Word := BitVec.ofNat 64 (2 ^ 63 + s.sys.nodeid.toNat * 2 ^ 9 + s.sys.coreid.toNat)

/-- OBJ of an object's address (R274). -/
def objKey (a : Word) : Nat := bitsOf a.toNat 0 51

/-- The husks bound to an object, oldest binding first. -/
def boundTo (s : State) (a : Word) : List Nat := (s.store.bindings.filter (fun b => b.1 == objKey a)).map Prod.snd

/-- The object's checks (R273), and the stall of an atomic on its page; then what the form does with its physical address
and leaf. A form that reads the object meets UE at a poisoned line (R289) and is a request at its home (R290); BIND and UNBIND do not
read it. -/
def withObject (reads : Bool) (a : Reg) (s : State) (f : Nat → Option Nat → State → Res) : Res :=
  let addr := getG s a
  if addr.getLsbD 63 then .trap (checkTrap .seg addr 2)
  else
    match check addr 8 2 s with
    | .bad c => .trap (accessTrap c addr 2)
    | .spad _ => .trap (checkTrap .seg addr 2)
    | .held => .stall s
    | .mem pa mig sw leaf s' =>
      if sw then .stall (raisePage addr.toNat s')
      else if meetsCopy s addr 8 || pageParked s addr.toNat || mig || !s.grp.issuing.isEmpty then .stall s'
      else if reads && poisonedAt s (memKey (ownNode s) pa) then .trap { accessTrap .ue addr 2 with line := some pa }
      else f pa leaf s'

/-- The object's value. -/
def objectWord (s : State) (pa : Nat) : Word := BitVec.ofNat 64 (readLe s.mem.mem (memKey (ownNode s) pa) 8)

/-- Write the object. -/
def setObject (pa : Nat) (leaf : Option Nat) (v : Word) (s : State) : State := storeMem pa 8 v leaf s

/-- A stall in a later step of ACQ, and a cause there, find the object held: the instruction executes again (R273). -/
def heldStall (s : State) : Res → Res
  | .trap _ | .trapIn _ _ => .stall s
  | r => r

/-- ACQ once this core holds the object (R275). -/
def acqHusks (a : Reg) (s : State) : Res :=
  let bound := boundTo s (getG s a)
  if bound.any (namesHusk s) then .stall s
  else
    withWriteBack bound s (fun s =>
      let s := bound.foldl (fun s n => settleBlocks n true s) s
      if ldc s = 0 then .done s else .stall s)

/-- ACQ (R275). -/
def execAcq (_sc : Scope) (a : Reg) (s : State) : Out :=
  issue [a] true 1 (fun s =>
    withObject true a s (fun pa leaf s =>
      let old := objectWord s pa
      let s := requestAt pa s
      if old = ownerWord s then acqHusks a s
      else if old = 0 then
        let s := setObject pa leaf (ownerWord s) s
        heldStall s (acqHusks a s)
      else .stall s)) s

/-- ACQ_RETRY_TIMEOUT (R275): 1 us has passed at an ACQ that stalls; it tries again. -/
def execAcqRetryTimeout (s : State) : Out :=
  if s.strand.run = .running ∧ s.strand.stalled = true then
    match decodeAt s s.strand.pc with
    | some (.ok (.acq sc a)) => execAcq sc a s
    | _ => .next s
  else .next s

/-- REL (R276). -/
def execRel (sc : Scope) (a : Reg) (s : State) : Out :=
  issue [a] true 1 (fun s =>
    withObject true a s (fun pa leaf s =>
      let bound := boundTo s (getG s a)
      if bound.any (namesHusk s) then .stall s
      else
        withWriteBack bound s (fun s =>
          if !s.mem.replay.isEmpty || !releaseReady sc s then .stall s
          else if objectWord s pa = ownerWord s then .done (setObject pa leaf 0 (requestAt pa s))
          else .done (requestAt pa s)))) s

/-- Husk n can be bound: it is a valid MEM husk with MC = 1. -/
def bindable (s : State) (n : Nat) : Bool :=
  decide (n ≤ 1023) && hkV (getHusk s n) && hkKind (getHusk s n) == kMem && hkMc (getHusk s n)

/-- Set or clear BND and OBJ of a husk (R151). -/
def markBound (n obj : Nat) (on : Bool) (s : State) : State :=
  let h := getHusk s n
  setHusk n { h with
    d0 := BitVec.ofNat 64 (setBit 14 on h.d0.toNat), d7 := BitVec.ofNat 64 obj } s

/-- The object and the husk of BIND and UNBIND: the checks of R274. -/
def withBinding (a b : Reg) (s : State) (f : Nat → State → Res) : Res :=
  withObject false a s (fun _ _ s =>
    let n := (getG s b).toNat
    if !bindable s n then huskbad else if namesHusk s n then .stall s else f n s)

/-- BIND (R274). -/
def execBind (a b : Reg) (s : State) : Out :=
  issue [a, b] true 1 (fun s =>
    withBinding a b s (fun n s =>
      let key := objKey (getG s a)
      let h := getHusk s n
      if hkBnd h && hkObj h == key then .done s
      else if hkBnd h || decide (64 ≤ s.store.bindings.length) || decide (16 ≤ (boundTo s (getG s a)).length) then huskbad
      else
        withWriteBack [n] s (fun s =>
          let s := markBound n key true (settleBlocks n true s)
          .done { s with store := { s.store with bindings := s.store.bindings ++ [(key, n)] } }))) s

/-- UNBIND (R274): the blocks keep their states. -/
def execUnbind (a b : Reg) (s : State) : Out :=
  issue [a, b] true 1 (fun s =>
    withBinding a b s (fun n s =>
      let h := getHusk s n
      if !(hkBnd h && hkObj h == objKey (getG s a)) then huskbad
      else
        withWriteBack [n] s (fun s =>
          let s := markBound n 0 false s
          .done { s with store := { s.store with bindings := s.store.bindings.filter (fun b => b.2 != n) } }))) s

end Sys2Proof.Machine
end

