-- ==== Sys2Proof/Machine/Groups.lean ====
section
/-! DEFINITION. Collective groups (spec/19_fabric_groups.md R356 to R374): CBR, CBRX, CSTEP and GABORT, the reduction at the
root, the resolution of a branch, steps, aborts, and the phase fence. -/

namespace Sys2Proof.Machine

/-- Send a message of the group. -/
def sendMsg (m : GroupMsg) (s : State) : State := { s with grp := { s.grp with msgs := s.grp.msgs ++ [m] } }

def dropMsg (m : GroupMsg) (s : State) : State := { s with grp := { s.grp with msgs := s.grp.msgs.erase m } }

/-- The root of a group, if it stands on this package: the launch of its member 0 has placed it (R358). -/
def rootOf (s : State) (gid : BitVec 16) : Option Root := s.grp.roots.find? (fun r => r.gid == gid)

def rootHere (s : State) (gid : BitVec 16) : Bool := (rootOf s gid).isSome

/-- The root of this member's group is on this package. -/
def hosted (s : State) : Bool := s.sys.grpn != 0 && rootHere s s.sys.grpid

/-- A group whose member this core runs. -/
def ownGroup (s : State) (gid : BitVec 16) : Bool := s.sys.grpn != 0 && gid == s.sys.grpid

/-- The group of a message. -/
def msgGid : GroupMsg → BitVec 16
  | .contrib c => c.gid
  | .result g _ _ _ | .timeout g _ _ _ | .commit g _ _ | .expiry g _ _ => g
  | .mark m => m.gid
  | .abortUp t | .abortDown t => t.gid

/-- Contributions and marks go up, results and step commits come down, each in order (R381). -/
def goesUp : GroupMsg → Bool
  | .contrib _ | .mark _ => true
  | _ => false

def comesDown : GroupMsg → Bool
  | .result .. | .commit .. => true
  | _ => false

/-- The message is on its way, and no message of its group and kind stands before it. -/
def isFirst (kind : GroupMsg → Bool) (m : GroupMsg) (s : State) : Bool :=
  if kind m then s.grp.msgs.find? (fun x => kind x && msgGid x == msgGid m) == some m else s.grp.msgs.contains m

/-- A message from the root may arrive: if the root is here it must have sent it, and none before it is still to arrive. -/
def sentHere (s : State) (m : GroupMsg) : Bool := !rootHere s (msgGid m) || isFirst comesDown m s

/-- A message to the root may arrive: one of this member's must be on its way, and none before it. -/
def toRoot (s : State) (own : Bool) (m : GroupMsg) : Bool := !own || isFirst goesUp m s

/-- This member is the one of a group and index. -/
def ownMember (s : State) (gid ix : BitVec 16) : Bool := ownGroup s gid && ix == s.sys.grpIx

/-- A message that waits in flight while a phase fence is in progress (R374). -/
def waitInFlight (m : GroupMsg) (s : State) : State := if s.grp.msgs.contains m then s else sendMsg m s

/-! ### CBR and CBRX (R359, R360) -/

/-- Contribute a bit to the next instance. -/
def contribute (red : Red) (b : Bool) (s : State) : State :=
  let i := s.sys.grpCi
  let s := sendMsg (.contrib { gid := s.sys.grpid, inst := i, gen := s.grp.gen, ix := s.sys.grpIx, red := red, vote := b }) s
  { s with
    sys := { s.sys with grpCi := i + 1 }
    grp := { s.grp with
      openAt := s.grp.openAt ++ [(i, s.pkg.time)], stepAt := s.grp.stepAt ++ [(i, s.sys.gstepLocal)] } }

/-- A branch whose result is known waits behind its shadow slot. -/
def knownPend (t : Tb) (r : Bool) (s : State) : Pend :=
  { kind := .cbrKnown, taken := r, target := getTb s t, fall := afterSlot s }

/-- CBR (R359). -/
def execCbr (t : Tb) (c : Cond) (neg : Bool) (red : Red) (hint : Bool) (s : State) : Out :=
  issue [] true 1 (transferPlace (fun s =>
    let b := getC s c != neg
    if s.sys.grpn = 0 then .jump (pendTransfer (knownPend t b s) s)
    else if s.sys.grpXc then
      .jump (pendTransfer (knownPend t s.sys.grpXr s) { s with sys := { s.sys with grpXc := false } })
    else
      .jump (pendTransfer
        { kind := .cbrOpen hint s.sys.grpCi, taken := hint, target := getTb s t, fall := afterSlot s }
        (contribute red b s)))) s

/-- CBRX (R360): it stalls until its result has come, which it then finds in XC and XR. -/
def execCbrx (t : Tb) (c : Cond) (neg : Bool) (red : Red) (s : State) : Out :=
  issue [] true 1 (transferPlace (fun s =>
    let b := getC s c != neg
    if s.sys.grpn = 0 then .jump (pendTransfer (knownPend t b s) s)
    else if s.sys.grpXc then .jump (pendTransfer (knownPend t s.sys.grpXr s) s)
    else if s.grp.cbrx.isSome then .stall s
    else
      let i := s.sys.grpCi
      let s := contribute red b s
      .stall { s with grp := { s.grp with cbrx := some i } })) s

/-! ### Commit and squash (R365) -/

/-- Step 3 of a commit, once every held entry has issued: its records are ordinary restartable ones; those that are done commit, those
held may be released. -/
def endHeld (s : State) : State :=
  if s.grp.issuing.isEmpty && s.thatch.entries.any Entry.owed then
    let done := s.thatch.entries.filter (fun e => e.owed && e.state == .committing && e.done)
    let s := { s with thatch := { s.thatch with
      entries := s.thatch.entries.map (fun e => if e.owed then { e with owed := false, heldAhead := false } else e) } }
    releaseAll (done.foldl (fun s e => match findEntry s e.slot with | some x => commitEntry x s | none => s) s)
  else s

/-- The snapshots of loops left while the strand ran ahead happen now (R280, R365). -/
def snapHeld (s : State) : State :=
  s.grp.heldSnaps.foldl (fun s r => traceSnap r.kind r.tag r.dw3 r.dw4 s) { s with grp := { s.grp with heldSnaps := [] } }

/-- Commit: the speculation is over; held entries issue in order; then step 3. -/
def commit (s : State) : State :=
  let s := snapHeld { s with
    sys := { s.sys with spec := false }
    grp := { s.grp with spec := none, issuing := s.grp.issuing ++ s.grp.hold, hold := [], heldWait := true }
    strand := { s.strand with loads := s.strand.loads.map (fun l => { l with ahead := false }) }
    thatch := { s.thatch with entries := s.thatch.entries.map (fun e => if e.ahead then { e with ahead := false, owed := true } else e) } }
  endHeld (drainHeld s.grp.issuing s)

/-- A read box in one of these buffers is again the box that it was redirected from. -/
def homeBox (offs : List Nat) (b : RBox) : RBox :=
  if b.rb.any (fun r => offs.contains r.off) then { b with rb := none } else b

/-- A record reads one of these buffers. -/
def readsBuffer (offs : List Nat) (e : Entry) : Bool :=
  (readBoxes e.boxes).any (fun b => b.rb.any (fun r => offs.contains r.off))

/-- The read boxes of a record at home. -/
def homeReads (offs : List Nat) (e : Entry) : Entry :=
  { e with boxes := { e.boxes with
    a := e.boxes.a.map (homeBox offs), b := e.boxes.b.map (homeBox offs), c := e.boxes.c.map (homeBox offs) } }

/-- Buffers of the squashed records are gone: what other parties' records read in them they read at home, behind the older writes and
ahead of the younger ones there (DEDUCED, log entry 40). `older` are the entries before the list, each with whether it has come home. -/
def comeHome (offs : List Nat) (s : State) : List (Entry × Bool) → List Entry → List Entry
  | _, [] => []
  | older, e :: t =>
    let h := homeReads offs e
    let moved := readsBuffer offs e
    let edges := older.flatMap (fun x =>
      (if moved then writeEdges s (readBoxes h.boxes) none x.1 else []) ++ (if x.2 then readEdges s (trackedW h) x.1 else []))
    { h with edges := h.edges ++ edges } :: comeHome offs s (older ++ [(h, moved)]) t

/-- Every speculative record is freed with its rename buffer, and a pip that it obtained fails. -/
def freeAhead (s : State) : State :=
  let gone := s.thatch.entries.filter (fun e => e.ahead)
  let s := gone.foldl (fun s e => match e.pip with | some n => failPip n (pipRetired e s) | none => s) s
  let lost (d : DirEntry) : Bool := gone.any (fun e => e.slot == d.foldSlot)
  let offs := (s.thatch.dir.filter lost).map DirEntry.off
  { s with thatch := { s.thatch with
    entries := comeHome offs s [] (s.thatch.entries.filter (fun e => !e.ahead))
    dir := s.thatch.dir.filter (fun d => !lost d) } }

/-- Restore the checkpoint (R361). -/
def restoreCheckpoint (cp : Checkpoint) (s : State) : State :=
  let x := s.strand.xstat
  { s with
    strand := { s.strand with
      g := cp.g, c := cp.c, tb := cp.tb, lc := cp.lc, bounds := cp.bounds, ras := cp.ras
      xstat := { cp.xstat with cqo := cp.xstat.cqo || x.cqo, cqu := cp.xstat.cqu || x.cqu }
      pend := none, rep := none, stalled := false, asleep := false, iterEnd := false
      loads := s.strand.loads.filter (fun l => !l.ahead) }
    store := { s.store with boxes := cp.boxes }
    sys := { s.sys with spec := false }
    grp := { s.grp with spec := none, hold := [], heldSnaps := [] } }

/-- Squash: continue at the target for a result of 1, at the fall-through address for 0, with the loop effects of R84. -/
def squash (cp : Checkpoint) (r : Bool) (s : State) : State :=
  let s := restoreCheckpoint cp (freeAhead s)
  releaseAll (if r then transferTo 2 4 cp.target s else afterWord 4 (cp.fall - 1) s)

/-! ### Results and timeouts -/

/-- A branch of this instance that is still open behind its shadow slot becomes known. -/
def settleOpen (i : BitVec 32) (r : Bool) (p : Pend) : Pend :=
  match p.kind with
  | .cbrOpen _ j => if i = j then { p with kind := .cbrKnown, taken := r } else p
  | _ => p

/-- The result of an instance reaches this member: the running-ahead strand resolves, a branch behind its slot is known, a
CBRX has its result. A timeout squashes whatever the hint says (R367). -/
def resolveInstance (i : BitVec 32) (r timeout : Bool) (s : State) : State :=
  let s := { s with
    grp := { s.grp with
      openAt := s.grp.openAt.filter (fun o => o.1 != i), stepAt := s.grp.stepAt.filter (fun o => o.1 != i)
      told := s.grp.told.filter (fun j => j != i) }
    strand := { s.strand with pend := s.strand.pend.map (settleOpen i r), cbrSaved := s.strand.cbrSaved.map (settleOpen i r) } }
  let s :=
    if s.grp.cbrx = some i then
      { s with grp := { s.grp with cbrx := none }, sys := { s.sys with grpXc := true, grpXr := r } }
    else s
  match s.grp.spec with
  | some cp => if cp.inst = i then (if r = cp.hint ∧ timeout = false then commit s else squash cp r s) else s
  | none => s

/-- This member waits for the result of an instance. -/
def isOpen (s : State) (i : BitVec 32) : Bool := s.grp.openAt.any (fun o => o.1 == i)

/-- A step that this member had marked before it contributed to the instance has not committed here yet: the commit of a root elsewhere
comes before the result (R381). A root here sends both down in the order in which it forms them: where another member votes before its own
CSTEP the two sentences of R381 part (DESIGN CHOICE, log entry 40). -/
def stepOwed (s : State) (i : BitVec 32) : Bool :=
  s.grp.stepAt.any (fun o => o.1 == i && decide (0 < (o.2 - s.sys.gstepStep).toInt))

/-- A result of this member's group, for an instance that it waits for. -/
def resultMine (s : State) (gid : BitVec 16) (i : BitVec 32) (gen : Nat) : Bool :=
  ownGroup s gid && gen == s.grp.gen && isOpen s i

/-- BRANCH_RESULT_ARRIVAL (R365): `n` names the instance and its group. -/
def execBranchResultArrival (n : GroupNo) (gen : Nat) (r : Bool) (s : State) : Out :=
  let m : GroupMsg := .result n.gid n.no gen r
  .next (if sentHere s m = false then s
    else if resultMine s n.gid n.no gen then
      (if !rootHere s n.gid && stepOwed s n.no then waitInFlight m s else resolveInstance n.no r false (dropMsg m s))
    else dropMsg m s)

/-- The instance lies ahead of this member's next contribution. -/
def notContributed (s : State) (i : BitVec 32) : Bool := decide (0 ≤ (i - s.sys.grpCi).toInt)

/-- This member's part of a timeout (R367). -/
def memberTimeout (i : BitVec 32) (mismatch : Bool) (s : State) : State :=
  let s :=
    if notContributed s i then { s with sys := { s.sys with grpCi := i + 1, grpXc := true, grpXr := false } }
    else resolveInstance i false true s
  raiseAsync { cause := .cbrTimeout, info := BitVec.ofNat 32 (i.toNat % 2 ^ 31 + 2 ^ 31 * mismatch.toNat), src := 6 } s

/-! ### The root (R358, R367, R369) -/

/-- The reduction of N contributions. -/
def reduce (red : Red) (n : Nat) (votes : List Bool) : Bool :=
  match red with
  | .and => votes.all (fun v => v)
  | .or => votes.any (fun v => v)
  | .maj => decide (n < 2 * (votes.filter (fun v => v)).length)

/-- Replace the root of its group. -/
def withRoot (r : Root) (s : State) : State :=
  { s with grp := { s.grp with roots := s.grp.roots.map (fun x => if x.gid = r.gid then r else x) } }

/-- Instance j is not after i, in the half of the numbers before i that a wrap of CI leaves, or little after it. -/
def notAfter (j i : BitVec 32) : Bool := decide (0 ≤ (i - j + 65536).toInt)

/-- The root ends an instance. An ended instance is remembered until the numbers come round to it again. -/
def endInstance (r : Root) (i : BitVec 32) (m : GroupMsg) (s : State) : State :=
  sendMsg m (withRoot { r with
    ended := i :: r.ended.filter (fun j => notAfter j i), contribs := r.contribs.filter (fun c => c.inst != i) } s)

/-- The root does not take a contribution: of another generation, of an instance that has ended, or a second one of that member. -/
def rootDrops (r : Root) (c : Contrib) : Bool :=
  c.gen != r.gen || r.ended.contains c.inst || r.contribs.any (fun x => x.inst == c.inst && x.ix == c.ix)

/-- The root takes a contribution: of this generation, of an instance not ended, the first of that member. -/
def rootTakes (r : Root) (c : Contrib) (s : State) : State :=
  if rootDrops r c then s
  else
    let cs := r.contribs ++ [c]
    let of := cs.filter (fun x => x.inst == c.inst)
    let r : Root := { r with contribs := cs }
    if of.any (fun x => x.red != c.red) then endInstance r c.inst (.timeout r.gid c.inst r.gen true) s
    else if of.length = r.n then endInstance r c.inst (.result r.gid c.inst r.gen (reduce c.red r.n (of.map Contrib.vote))) s
    else withRoot r s

/-- CONTRIBUTION_ARRIVAL (R358): the root is the package's, whatever launch this core runs now. -/
def execContributionArrival (c : Contrib) (s : State) : Out :=
  let m : GroupMsg := .contrib c
  .next (if s.sys.gepochPf then waitInFlight m s
    else if toRoot s (ownMember s c.gid c.ix) m then
      let s := dropMsg m s
      match rootOf s c.gid with
      | some r => rootTakes r c s
      | none => s
    else s)

/-- An open contribution of this member has waited CBRTO (R357); the timer stands while a phase fence is in progress. -/
def expiredInstance (s : State) : Option (BitVec 32) :=
  if s.sys.gepochPf then none
  else (s.grp.openAt.find? (fun o => (o.2 + word32 s.sys.cbrto).ule s.pkg.time && !s.grp.told.contains o.1)).map Prod.fst

/-- The root ends an instance for the group after an expiry, unless it has ended (R367). -/
def rootExpires (r : Root) (i : BitVec 32) (s : State) : State :=
  if r.ended.contains i then s else endInstance r i (.timeout r.gid i r.gen false) s

/-- The root of this member's group. -/
def ownRoot (s : State) : Option Root := if s.sys.grpn = 0 then none else rootOf s s.sys.grpid

/-- CBRTO_EXPIRY (R367): this member tells the root, here or on another package. -/
def execCbrtoExpiry (s : State) : Out :=
  .next (match expiredInstance s with
    | some i =>
      (match ownRoot s with
        | some r => rootExpires r i s
        | none => sendMsg (.expiry s.sys.grpid i s.grp.gen) { s with grp := { s.grp with told := i :: s.grp.told } })
    | none => s)

/-- INSTANCE_TIMEOUT_ARRIVAL (R367): at a member the root's timeout; a notice of this member to a root elsewhere goes on its
way; and at a root of that group here that has sent no such timeout, the expiry that another member tells it (DEDUCED, log entry 4). -/
def execInstanceTimeoutArrival (n : GroupNo) (gen : Nat) (mismatch : Bool) (s : State) : Out :=
  let m : GroupMsg := .timeout n.gid n.no gen mismatch
  .next (if s.grp.msgs.contains (.expiry n.gid n.no gen) && !mismatch then dropMsg (.expiry n.gid n.no gen) s
    else
      match (if s.grp.msgs.contains m then none else rootOf s n.gid) with
      | some r => if gen = r.gen ∧ mismatch = false then rootExpires r n.no s else s
      | none =>
        if ownGroup s n.gid && gen == s.grp.gen && (isOpen s n.no || notContributed s n.no) then memberTimeout n.no mismatch (dropMsg m s)
        else dropMsg m s)

/-- The root holds the marks of every member for a step. -/
def stepComplete (r : Root) (st : BitVec 32) : Bool :=
  decide ((r.marks.filter (fun m => m.step == st)).length = r.n)

/-- Commit steps in order while they are complete. -/
def commitSteps : Nat → Root → State → State
  | 0, r, s => withRoot r s
  | n + 1, r, s =>
    let st := r.step + 1
    if stepComplete r st then
      commitSteps n { r with step := st, marks := r.marks.filter (fun m => m.step != st) } (sendMsg (.commit r.gid st r.gen) s)
    else withRoot r s

/-- STEP_MARK_ARRIVAL (R369). -/
def execStepMarkArrival (m : StepMark) (s : State) : Out :=
  .next (if s.sys.gepochPf then waitInFlight (.mark m) s
    else if toRoot s (ownMember s m.gid m.ix) (.mark m) then
      let s := dropMsg (.mark m) s
      match rootOf s m.gid with
      | some r => if m.gen = r.gen ∧ r.marks.contains m = false then commitSteps 16 { r with marks := r.marks ++ [m] } s else s
      | none => s
    else s)

/-- STEP_COMMIT_ARRIVAL (R369): steps commit in order; `n` names the step and its group. -/
def execStepCommitArrival (n : GroupNo) (gen : Nat) (s : State) : Out :=
  let m : GroupMsg := .commit n.gid n.no gen
  .next (if sentHere s m = false then s
    else if gen = s.grp.gen ∧ ownGroup s n.gid = true ∧ n.no = s.sys.gstepStep + 1 then
      let s := dropMsg m s
      { s with sys := { s.sys with gstepStep := n.no } }
    else dropMsg m s)

/-! ### CSTEP and GABORT (R369, R370) -/

/-- CSTEP. -/
def execCstep (s : State) : Out :=
  issue [] true 1 (fun s =>
    if tkc s != 0 || !s.mem.replay.isEmpty || !releaseReady .fabric s then .stall s
    else if !(s.sys.gstepLocal - s.sys.gstepStep).ult 16 then .stall s
    else
      let l := s.sys.gstepLocal + 1
      let s := { s with sys := { s.sys with gstepLocal := l } }
      if s.sys.grpn = 0 then .done { s with sys := { s.sys with gstepStep := s.sys.gstepStep + 1 } }
      else .done (sendMsg (.mark { gid := s.sys.grpid, gen := s.grp.gen, ix := s.sys.grpIx, step := l }) s)) s

/-- GABORT (R370). With GRPN = 0 the strand is a group of one (R359) without a root, and R370 is silent: it does nothing (DESIGN CHOICE,
log entry 40). -/
def execGabort (s : State) : Out := issue [] true 1 (fun s => .done (abortGroup (s.sys.grpIx.setWidth 32) s)) s

/-- ABORT_TOKEN_AT_ROOT (R370): the root begins a new generation and sends the token on; a token of an older generation is
merged into the abort that ended it. -/
def execAbortTokenAtRoot (t : AbortToken) (s : State) : Out :=
  let m : GroupMsg := .abortUp t
  .next (if s.sys.gepochPf then waitInFlight m s else
    let s := dropMsg m s
    match rootOf s t.gid with
    | some r =>
      if t.gen = r.gen then
        sendMsg (.abortDown { t with step := r.step })
          (withRoot { r with gen := r.gen + 1, contribs := [], marks := [], ended := [] } s)
      else s
    | none => s)

/-- An open branch of the old generation is not taken. -/
def closeOpen (p : Pend) : Pend :=
  match p.kind with
  | .cbrOpen _ _ => { p with kind := .cbrKnown, taken := false }
  | _ => p

/-- Step 1: speculation is squashed with no transfer. -/
def squashForAbort (s : State) : State :=
  let s := (match s.grp.spec with | some cp => squash cp false s | none => s)
  { s with strand := { s.strand with pend := s.strand.pend.map closeOpen, cbrSaved := s.strand.cbrSaved.map closeOpen } }

/-- Step 2: every unretired record is freed; a pending engine cause stays, without its record. -/
def freeWindow (s : State) : State :=
  let s := s.thatch.entries.foldl (fun s e => pipRetired e s) s
  { s with thatch := { s.thatch with
    entries := [], dir := [], stopped := true, async := s.thatch.async.map (fun a => { a with recSlot := none }) } }

/-- Step 3: pips in flight fail, and this core's held packets are discarded. -/
def failPips (s : State) : State :=
  let s := (s.fab.pips.map Prod.fst).foldl (fun s n => failPip n s) s
  { s with fab := { s.fab with held := s.fab.held.filter (fun h => !(h.node == ownNode s && h.core == ownCore s)) } }

/-- ABORT_TOKEN_ARRIVAL (R370). -/
def execAbortTokenArrival (t : AbortToken) (s : State) : Out :=
  let m : GroupMsg := .abortDown t
  .next (if s.sys.gepochPf then waitInFlight m s
    else if sentHere s m = true ∧ t.gen = s.grp.gen ∧ ownGroup s t.gid = true then
      let s := dropMsg m s
      let s := failPips (freeWindow (squashForAbort s))
      let s := { s with
        grp := { s.grp with gen := s.grp.gen + 1, openAt := [], stepAt := [], told := [], cbrx := none }
        sys := { s.sys with grpCi := 0, grpXc := false, gstepStep := t.step, gstepLocal := t.step } }
      raiseAsync { cause := .abort, info := t.info, src := 6 } s
    else dropMsg m s)

/-! ### The phase fence (R374) -/

/-- PHASE, a management packet (R314): PF is set on every core. -/
def execPhase (epoch : BitVec 16) (s : State) : Out :=
  let s := wakeAll s
  .next (if s.fab.phase.isSome then s
    else { s with
      fab := { s.fab with phase := some { epoch := epoch, drained := false, since := s.pkg.time } }
      sys := { s.sys with gepochPf := true } })

/-- What must be over before the package answers DRAINED, for the change to epoch `ep`. -/
def phaseBusy (ep : BitVec 16) (s : State) : Bool :=
  s.thatch.entries.any (fun e =>
    entryEng e == .f && !e.fold &&
      ((recTask e.record == some .fred && decide (recImm e.record % 2 ^ 16 < ep.toNat)) ||
        e.state == .running || e.state == .draining || e.state == .committing)) ||
    s.fab.pips.any (fun p => p.2.state == .inflight) || s.fab.held.any (fun h => h.node == ownNode s)

/-- DRAINED_ANSWER. -/
def execDrainedAnswer (s : State) : Out :=
  .next (match s.fab.phase with
    | some p =>
      if p.drained || phaseBusy p.epoch s then s
      else { s with
        fab := { s.fab with phase := some { p with drained := true } }
        pkg := { s.pkg with answers := s.pkg.answers ++ [.drained p.epoch] } }
    | none => s)

/-- A timer started at `t` stood still from the beginning of a fence, or from its own start within it, until now. -/
def shiftTimer (since now t : Word) : Word := if since.ule t then now else t + (now - since)

/-- PHASE_DONE, a management packet: the new epoch; the timers go on where they stood. -/
def execPhaseDone (s : State) : Out :=
  let s := wakeAll s
  .next (match s.fab.phase with
    | some p =>
      if p.drained then
        let shift := shiftTimer p.since s.pkg.time
        let s := { s with
          fab := { s.fab with phase := none, held := s.fab.held.map (fun (h : Held) => { h with time := shift h.time }) }
          grp := { s.grp with openAt := s.grp.openAt.map (fun (o : BitVec 32 × Word) => (o.1, shift o.2)) } }
        releaseAll { s with sys := { s.sys with
          gepochPf := false, gepoch := if live s then p.epoch else s.sys.gepoch } }
      else s
    | none => s)

end Sys2Proof.Machine
end

