-- ==== Sys2Proof/Machine/Integer.lean ====
section
/-! DEFINITION. The integer instructions of spec/05_strand_integer_control.md R99 to R104: register and immediate
arithmetic, constants and bit fields. None traps on its operands. -/

namespace Sys2Proof.Machine

/-- A two-operand ALU word (R99). -/
def alu2 (op : Word → Word → Word) (d a b : Reg) (s : State) : Out :=
  issue [d, a, b] false 1 (fun s => .done (setG s d (op (getG s a) (getG s b)))) s

/-- A one-operand ALU word. -/
def alu1 (op : Word → Word) (d a : Reg) (s : State) : Out :=
  issue [d, a] false 1 (fun s => .done (setG s d (op (getG s a)))) s

/-- ADD (R99). -/
def opAdd (a b : Word) : Word := a + b

def execAdd (d a b : Reg) (s : State) : Out := alu2 opAdd d a b s

/-- SUB (R99). -/
def opSub (a b : Word) : Word := a - b

def execSub (d a b : Reg) (s : State) : Out := alu2 opSub d a b s

/-- MUL (R99). -/
def opMul (a b : Word) : Word := a * b

def execMul (d a b : Reg) (s : State) : Out := alu2 opMul d a b s

/-- MULH: bits [127:64] of the signed product (R99). -/
def opMulh (a b : Word) : Word := BitVec.ofInt 64 (a.toInt * b.toInt / 2 ^ 64)

def execMulh (d a b : Reg) (s : State) : Out := alu2 opMulh d a b s

/-- MULHN: bits [127:64] of the unsigned product (R99). -/
def opMulhn (a b : Word) : Word := BitVec.ofNat 64 (a.toNat * b.toNat / 2 ^ 64)

def execMulhn (d a b : Reg) (s : State) : Out := alu2 opMulhn d a b s

/-- DIV (R100). -/
def opDiv (a b : Word) : Word := divS a b

def execDiv (d a b : Reg) (s : State) : Out := alu2 opDiv d a b s

/-- DIVN (R100). -/
def opDivn (a b : Word) : Word := divU a b

def execDivn (d a b : Reg) (s : State) : Out := alu2 opDivn d a b s

/-- REM (R100). -/
def opRem (a b : Word) : Word := remS a b

def execRem (d a b : Reg) (s : State) : Out := alu2 opRem d a b s

/-- REMN (R100). -/
def opRemn (a b : Word) : Word := remU a b

def execRemn (d a b : Reg) (s : State) : Out := alu2 opRemn d a b s

/-- AND (R99). -/
def opAnd (a b : Word) : Word := a &&& b

def execAnd (d a b : Reg) (s : State) : Out := alu2 opAnd d a b s

/-- OR (R99). -/
def opOr (a b : Word) : Word := a ||| b

def execOr (d a b : Reg) (s : State) : Out := alu2 opOr d a b s

/-- XOR (R99). -/
def opXor (a b : Word) : Word := a ^^^ b

def execXor (d a b : Reg) (s : State) : Out := alu2 opXor d a b s

/-- ANDN (R99). -/
def opAndn (a b : Word) : Word := a &&& ~~~b

def execAndn (d a b : Reg) (s : State) : Out := alu2 opAndn d a b s

/-- SLL (R99). -/
def opSll (a b : Word) : Word := a <<< amount b

def execSll (d a b : Reg) (s : State) : Out := alu2 opSll d a b s

/-- SRL (R99). -/
def opSrl (a b : Word) : Word := a >>> amount b

def execSrl (d a b : Reg) (s : State) : Out := alu2 opSrl d a b s

/-- SRA (R99). -/
def opSra (a b : Word) : Word := a.sshiftRight (amount b)

def execSra (d a b : Reg) (s : State) : Out := alu2 opSra d a b s

/-- ROL (R99). -/
def opRol (a b : Word) : Word := a.rotateLeft (amount b)

def execRol (d a b : Reg) (s : State) : Out := alu2 opRol d a b s

/-- ROR (R99). -/
def opRor (a b : Word) : Word := a.rotateRight (amount b)

def execRor (d a b : Reg) (s : State) : Out := alu2 opRor d a b s

/-- MIN, signed (R99). -/
def opMin (a b : Word) : Word := if a.sle b then a else b

def execMin (d a b : Reg) (s : State) : Out := alu2 opMin d a b s

/-- MAX, signed (R99). -/
def opMax (a b : Word) : Word := if a.sle b then b else a

def execMax (d a b : Reg) (s : State) : Out := alu2 opMax d a b s

/-- MINN, unsigned (R99). -/
def opMinn (a b : Word) : Word := if a.ule b then a else b

def execMinn (d a b : Reg) (s : State) : Out := alu2 opMinn d a b s

/-- MAXN, unsigned (R99). -/
def opMaxn (a b : Word) : Word := if a.ule b then b else a

def execMaxn (d a b : Reg) (s : State) : Out := alu2 opMaxn d a b s

/-- CLMUL (R99). -/
def opClmul (a b : Word) : Word := (clprod a b).setWidth 64

def execClmul (d a b : Reg) (s : State) : Out := alu2 opClmul d a b s

/-- CLMULH (R99). -/
def opClmulh (a b : Word) : Word := (clprod a b >>> 64).setWidth 64

def execClmulh (d a b : Reg) (s : State) : Out := alu2 opClmulh d a b s

/-- ADDW (R99). -/
def opAddw (a b : Word) : Word := ((a + b).setWidth 32).signExtend 64

def execAddw (d a b : Reg) (s : State) : Out := alu2 opAddw d a b s

/-- SUBW (R99). -/
def opSubw (a b : Word) : Word := ((a - b).setWidth 32).signExtend 64

def execSubw (d a b : Reg) (s : State) : Out := alu2 opSubw d a b s

/-- CLZ (R99). -/
def execClz (d a : Reg) (s : State) : Out := alu1 (fun a => clzW a) d a s

/-- CTZ (R99). -/
def execCtz (d a : Reg) (s : State) : Out := alu1 (fun a => ctzW a) d a s

/-- POPC (R99). -/
def execPopc (d a : Reg) (s : State) : Out := alu1 (fun a => popcW a) d a s

/-- BSWAP (R99). -/
def execBswap (d a : Reg) (s : State) : Out := alu1 (fun a => bswapW a) d a s

/-- ADDI (R101). -/
def execAddi (d a : Reg) (imm : BitVec 14) (s : State) : Out := alu1 (fun a => opAdd a (sextW imm)) d a s

/-- ANDI (R101). -/
def execAndi (d a : Reg) (imm : BitVec 14) (s : State) : Out := alu1 (fun a => opAnd a (sextW imm)) d a s

/-- ORI (R101). -/
def execOri (d a : Reg) (imm : BitVec 14) (s : State) : Out := alu1 (fun a => opOr a (sextW imm)) d a s

/-- XORI (R101). -/
def execXori (d a : Reg) (imm : BitVec 14) (s : State) : Out := alu1 (fun a => opXor a (sextW imm)) d a s

/-- SLLI (R102). -/
def execSlli (d a : Reg) (n : BitVec 6) (s : State) : Out := alu1 (fun a => opSll a (zextW n)) d a s

/-- SRLI (R102). -/
def execSrli (d a : Reg) (n : BitVec 6) (s : State) : Out := alu1 (fun a => opSrl a (zextW n)) d a s

/-- SRAI (R102). -/
def execSrai (d a : Reg) (n : BitVec 6) (s : State) : Out := alu1 (fun a => opSra a (zextW n)) d a s

/-- RORI (R102). -/
def execRori (d a : Reg) (n : BitVec 6) (s : State) : Out := alu1 (fun a => opRor a (zextW n)) d a s

/-- LUI (R103): sext(IMM20 << 12, 32). -/
def execLui (d : Reg) (imm : BitVec 20) (s : State) : Out :=
  issue [d] false 1 (fun s => .done (setG s d ((imm ++ (0 : BitVec 12) : BitVec 32).signExtend 64))) s

/-- LIH (R103): IMM20 becomes g[D][63:44]. -/
def execLih (d : Reg) (imm : BitVec 20) (s : State) : Out :=
  issue [d] false 1 (fun s => .done (setG s d (imm ++ (getG s d).setWidth 44))) s

/-- BFX (R104). -/
def execBfx (d a : Reg) (signed : Bool) (pos len1 : BitVec 6) (s : State) : Out :=
  alu1 (fun a => bfxW a signed pos len1) d a s

/-- BFI (R104), which reads g[D]. -/
def execBfi (d a : Reg) (pos len1 : BitVec 6) (s : State) : Out :=
  issue [d, a] false 1 (fun s => .done (setG s d (bfiW (getG s d) (getG s a) pos len1))) s

end Sys2Proof.Machine
end

