-- ==== Sys2Proof/Machine/Pages.lean ====
section
/-! DEFINITION. The page tasks (spec/10_copy.md R252, R253; spec/14_die.md R296 to R301): C.CPYPG with its migration,
C.CKPT with its sweep and the copy of each swept page, and the bad-page list. -/

namespace Sys2Proof.Machine

/-! ### Pages -/

/-- The lines of a frame. -/
def frameLines (pa : Nat) : List Nat := (List.range 512).map (fun k => pa + 64 * k)

/-- Poisoned lines of a frame of this package, from line `k` on. -/
def poisonedLines (s : State) (pa k : Nat) : List Nat :=
  ((frameLines pa).drop k).filter (fun l => poisonedAt s (memKey (ownNode s) l))

/-- Append one fault-address queue entry for each line. -/
def faqLines (kind : BitVec 3) (ls : List Nat) (s : State) : State :=
  ls.foldl (fun s l => faqAppend (homeDie s l) kind s.sys.coreid l s) s

/-! ### The bad-page list (R299) -/

/-- The share of a frame: that of its stack's port-A die. -/
def bplShare (frame : Nat) : Fin 4 := Fin.ofNat 4 (frame * Config.pageBytes / 2 ^ 36 % 8 / 2)

/-- Add a frame [47:15]; one that finds its share full is not added, and an entry of kind 5 names it (R299). A full share
sets BPF, and with it REPL (R316). -/
def bplInsert (frame : Nat) (core : BitVec 9) (s : State) : State :=
  let d := bplShare frame
  let l := s.mem.bpl[d]
  if l.contains frame then s
  else
    let full := decide (1024 ≤ l.length)
    let s' :=
      if full then faqAppend (homeDie s (frame * Config.pageBytes)) 5 core (frame * Config.pageBytes) s
      else { s with mem := { s.mem with bpl := s.mem.bpl.set d (sinsert frame l) } }
    if 1023 ≤ l.length then { s' with pkg := { s'.pkg with bpf := true, repl := true } } else s'

/-! ### C.CPYPG (R252, R296, R297) -/

/-- A write to the frame fails: the address has bits above [38], or its home cannot be reached (R287). -/
def frameBad (s : State) (frame : Nat) : Bool := decide (2 ^ 39 ≤ frame) || !reachesHome s frame

/-- The copy of line k. -/
def lineCopy (s : State) (src frame k : Nat) : Portion :=
  { effects := (writesOf (memKey (ownNode s) (frame + 64 * k)) (bytesAt s.mem.mem (memKey (ownNode s) (src + 64 * k)) 64)).map
      .mem }

/-- The rest of a copy from its index: all lines, or none with the status that says why. -/
def pageWork (s : State) (e : Entry) (src : Nat) : Work :=
  let frame := cpFrame e.record
  let rest : List Portion := [{ step := 512 - e.index }]
  if !(poisonedLines s src e.index).isEmpty then { units := rest, scalar := some 1 }
  else if frameBad s frame then { units := rest, scalar := some 2 }
  else { units := (List.range (512 - e.index)).map (fun k => lineCopy s src frame (e.index + k)), scalar := some 0 }

/-- Mark a translation migrating, or end it (R296). -/
def setMig (on : Bool) (l : Leaf) (va : Nat) (s : State) : State :=
  invalidate (mapsVa s.sys.asid va) (setPte l.at_ (setBit 60 on) s)

/-- Another C.CPYPG has a migration under way through this leaf. A MIG bit that a program wrote is none (R293). -/
def migrating (s : State) (slot : Nat) (l : Leaf) : Bool :=
  s.thatch.entries.any (fun f =>
    f.slot != slot && migrates f && (pageLeaf s (cpVa f.record)).map Leaf.at_ == some l.at_)

/-- The requests of a copy from its index: this core reads each line and, if it is copied, writes it (R290). -/
def copyRequests (e : Entry) (src : Nat) (copied : Bool) (s : State) : State :=
  ((frameLines src).drop e.index ++ (if copied then (frameLines (cpFrame e.record)).drop e.index else [])).foldl (fun s l => requestAt l s) s

/-- A record that waits. -/
def waitPlan (s : State) : State × Work := (s, { waits := true })

/-- The plan of a C.CPYPG. Its walk, its reads and its writes wait for the hand-over of a stack that they go to (R309). -/
def cpypgPlan : Plan := fun e s =>
  let va := cpVa e.record
  let bad (c : Cause) : State × Work := badPlan { cause := c, faddr := some (BitVec.ofNat 64 va) } s
  if s.pkg.ridging ≠ 0 ∧ tablesRidge s va = true then waitPlan s
  else
    match pageWalk s va with
    | .bad c _ => bad c
    | .leaf l =>
      if e.index = 0 ∧ (migrating s e.slot l ∨ pteSw l.pte) then waitPlan s
      else if e.index = 0 ∧ cpRemap e.record ∧ memoryPending s then waitPlan s
      else if 2 ^ 39 ≤ leafPa l va then bad .seg
      else if !reachesHome s (leafPa l va) then bad .owner
      else if ridgingAt s (leafPa l va) || ridgingAt s (cpFrame e.record) then waitPlan s
      else
        let w := pageWork s e (leafPa l va)
        let s := pageRequestsAt va s
        let s := copyRequests e (leafPa l va) (w.scalar == some 0) s
        (if e.index = 0 ∧ cpRemap e.record then setMig true l va s else s, w)

/-- The leaf points at the frame, and MIG is clear, in one update. -/
def remapPte (frame v : Nat) : Nat :=
  setBit 60 false (v - bitsOf v 15 33 * 2 ^ 15 + bitsOf frame 15 33 * 2 ^ 15)

/-- A failed copy leaves undefined bytes in the destination frame: free values (DESIGN CHOICE, log entry 8). -/
def spoilFrame (frame : Nat) (s : State) : State :=
  if 2 ^ 39 ≤ frame then s
  else
    memWrite (writesOf (memKey (ownNode s) frame) ((List.range Config.pageBytes).map (Config.failedCopyByte s.freeCount)))
      { s with freeCount := s.freeCount + 1 }

/-- An address of a frame that has moved. -/
def movedAddr (src dst a : Nat) : Nat :=
  if a / Config.pageBytes = src / Config.pageBytes then dst + a % Config.pageBytes else a

/-- The writes of a packet that waits, moved with their page. -/
def movedBody (src dst : Nat) : PktBody → PktBody
  | .write ws => .write (ws.map (fun w => { w with addr := movedAddr src dst w.addr }))
  | .amo pa wide op b cmp => .amo (movedAddr src dst pa) wide op b cmp
  | b => b

/-- A write that waits, moved with its page. -/
def movedItem (src dst : Nat) : HomeItem → HomeItem
  | .req q => (match q.op with | .read => .req q | .write _ | .amo .. => .req { q with pa := movedAddr src dst q.pa })
  | .pkt p => .pkt { p with body := movedBody src dst p.body }

/-- Writes that wait for a migration proceed to the page as mapped (R296 step 6). -/
def moveWaiting (src dst : Nat) (s : State) : State :=
  { s with mem := { s.mem with homeHeld := s.mem.homeHeld.map (movedItem src dst) } }

/-- What the end of the copy does, by its status (R252, R297). The entry of a frame whose address has a bit of [47:39] set, and so no home,
goes to the queue of the die that bits [38:36] name (DESIGN CHOICE, log entry 40). -/
def endPage (e : Entry) (s : State) : State :=
  let va := cpVa e.record
  let frame := cpFrame e.record
  match pageLeaf s va with
  | none => s
  | some l =>
    let src := leafPa l va
    let clear (s : State) : State := if cpRemap e.record then setMig false l va s else s
    if e.scalar = some 0 then
      if cpRemap e.record then moveWaiting src frame (invalidate (mapsVa s.sys.asid va) (setPte l.at_ (remapPte frame) s)) else s
    else if e.scalar = some 1 then
      let ls := poisonedLines s src 0
      clear (bplInsert (src / Config.pageBytes) s.sys.coreid (faqLines 2 ls (spoilFrame frame s)))
    else clear (faqAppend (homeDie s frame) 3 s.sys.coreid frame (spoilFrame frame s))

/-- The copy of a page has ended in this step. -/
def pageEnds (slot : Nat) (before after : State) : Option Entry :=
  match findEntry before slot, findEntry after slot with
  | some e, some e' => if e.state ≠ .draining ∧ e'.state = .draining then some e' else none
  | _, _ => none

/-- C.CPYPG (R252). Marking and the first line are one step: a record that has begun has index 1 or more. -/
def execCCpypg (slot units : Nat) (s : State) : Out :=
  match runTask .cpypg cpypgPlan slot (units + 1) s with
  | .next s' =>
    (match pageEnds slot s s' with
      | some e => if recTask e.record = some .cpypg then .next (endPage e s') else .next s'
      | none => .next s')
  | o => o

/-! ### C.CKPT (R253, R300, R301) -/

/-- The named segments, rising, each with its place in the image. -/
def ckptSegs (s : State) (mask : Nat) : List (SegEntry × Nat) :=
  ((maskSegs mask).foldl (fun acc i =>
    match segNumber s s.sys.asid i with
    | some e => (acc.1 ++ [(e, acc.2)], acc.2 + segLen e)
    | none => acc) (([], 0) : List (SegEntry × Nat) × Nat)).1

/-- The target segment and the byte offset of the image in it. -/
def ckptTarget (s : State) (r : Rec) : SegEntry := (segNumber s s.sys.asid (bitsOf (recXf r) 0 6)).getD {}
def ckptOff (r : Rec) : Nat := bitsOf (recXf r) 15 33 * Config.pageBytes

/-- A page in a list that rises by address. -/
def insertPage (p : SweepPage) : List SweepPage → List SweepPage
  | [] => [p]
  | q :: t => if p.va < q.va then p :: q :: t else q :: insertPage p t

/-- What the sweep's reads of the tables of a segment meet: a table that does not exist, whose home is not reached, or that is poisoned
is a cause at the page; an unmapped page is none (R173, R289, R292, R306). -/
def segCauses (s : State) (x : SegEntry × Nat) : List (Cause × Nat) :=
  (List.range (segLen x.1 / Config.pageBytes)).filterMap (fun k =>
    let va := segVbase x.1 + k * Config.pageBytes
    match walkSeg s x.1 va with
    | .leaf _ | .bad .page _ => none
    | .bad c _ => some (c, va))

/-- The cause that the sweep meets first, in order of address. -/
def sweepCause (s : State) (r : Rec) : Option (Cause × Nat) :=
  ((ckptSegs s (recImm r)).flatMap (segCauses s)).foldl (fun m x =>
    match m with
    | some y => if x.2 < y.2 then some x else m
    | none => some x) none

/-- The pages of a segment that a sweep takes: those of leaves that `take` picks. -/
def segPages (s : State) (r : Rec) (take : Nat → Bool) (x : SegEntry × Nat) : List SweepPage :=
  (List.range (segLen x.1 / Config.pageBytes)).filterMap (fun k =>
    let va := segVbase x.1 + k * Config.pageBytes
    match walk s x.1 va with
    | some l =>
      if take l.pte then
        some { leaf := l.at_, va := va, src := leafPa l va
               dst := segVbase (ckptTarget s r) + ckptOff r + x.2 + k * Config.pageBytes }
      else none
    | none => none)

def sweepPages (s : State) (r : Rec) (take : Nat → Bool) : List SweepPage :=
  ((ckptSegs s (recImm r)).flatMap (segPages s r take)).foldr insertPage []

/-- SW is set and D cleared in every leaf of the set, and their translations go (R301 step 1). -/
def markSweep (ps : List SweepPage) (s : State) : State :=
  let ls := (ps.map SweepPage.leaf).dedup
  let s := ls.foldl (fun s a => setPte a (fun v => setBit 59 true (setBit 58 false v)) s) s
  invalidate (fun t => match t.leaf with | some a => ls.contains a | none => false) s

def findSweep (s : State) (seq : Nat) : Option Sweep := s.mem.sweeps.find? (sweepOf s seq)

def dropSweep (seq : Nat) (s : State) : State :=
  { s with mem := { s.mem with sweeps := s.mem.sweeps.filter (fun x => !sweepOf s seq x) } }

def putSweep (w : Sweep) (s : State) : State :=
  let s := dropSweep w.seq s
  { s with mem := { s.mem with sweeps := s.mem.sweeps ++ [w] } }

/-- The record has copied its last page (R253). -/
def endSweep (w : Sweep) (e : Entry) (s : State) : State :=
  doneEntry { e with scalar := some (BitVec.ofNat 64 (w.copied % 2 ^ 32 + w.poisoned % 2 ^ 32 * 2 ^ 32)) } (dropSweep w.seq s)

/-- The addresses of the pages of a segment. -/
def segVas (e : SegEntry) : List Nat := (List.range (segLen e / Config.pageBytes)).map (fun k => segVbase e + k * Config.pageBytes)

/-- The lines of the tables that a sweep reads: each is a request once (R290, R314). -/
def sweepReads (s : State) (r : Rec) : List Nat :=
  (((ckptSegs s (recImm r)).filter (fun x => segPg x.1)).flatMap (fun x =>
    (segVas x.1).flatMap (fun va => (walkReads s va 3 (segPbase x.1)).map lineOf))).dedup

/-- A table that a sweep reads stands in a stack whose hand-over is under way (R309). -/
def sweepRidges (s : State) (r : Rec) : Bool :=
  s.pkg.ridging != 0 && (ckptSegs s (recImm r)).any (fun x =>
    segPg x.1 && (segVas x.1).any (fun va => walkRidges s va 3 (segPbase x.1)))

/-- The pages that a record takes at its sweep point: those whose leaf has D = 1 (R253 calls a page dirty from its mapping; R291 and R301
take its D bit: DEDUCED, log entry 28), with what a sweep has left marked; a record that runs again without its sweep takes what is still
marked, and counts on. -/
def takenPages (e : Entry) (s : State) : List SweepPage :=
  let marked := sweepPages s e.record pteSw
  if e.index = 0 ∧ (e.restored = false ∨ marked = []) then sweepPages s e.record (fun v => pteD v || pteSw v) else marked

/-- Take the set of pages; a table that cannot be read is a cause. -/
def beginSweep (e : Entry) (s : State) : State :=
  match sweepCause s e.record with
  | some (c, va) => engineCause e { cause := c, faddr := some (BitVec.ofNat 64 va) } s
  | none =>
    let ps := takenPages e s
    let w : Sweep := { asid := s.sys.asid, seq := e.seq, pages := ps, raised := [], copied := e.index, poisoned := e.part.toNat }
    let s := markSweep ps (requestsAt (sweepReads s e.record) s)
    if ps = [] then endSweep w e s else putSweep w s

/-- A running C.CKPT: it takes its sweep point once every earlier access is performed, and its tables stand in no stack whose hand-over
is under way (R309). -/
def sweepTurn (e : Entry) (s : State) : State :=
  match findSweep s e.seq with
  | some w => if w.pages = [] then endSweep w e s else s
  | none => if memoryPending s || sweepRidges s e.record then s else beginSweep e s

/-- C.CKPT (R253): its pages are copied by CKPT_PAGE_COPIED. -/
def execCCkpt (slot _units : Nat) (s : State) : Out :=
  .next <|
    match findEntry s slot with
    | none => s
    | some e =>
      if recTask e.record = some .ckpt ∧ e.fold = false ∧ s.pkg.shut = false then
        if e.state = .running then sweepTurn e s
        else if isNext s e then
          let s := startEntry e s
          match findEntry s e.slot with
          | some e => sweepTurn e s
          | none => s
        else s
      else s

/-- The page that is copied next: the first raised, else the lowest (R301). -/
def nextPage (w : Sweep) : Option SweepPage :=
  match w.raised.findSome? (fun r => w.pages.find? (fun p => pageOf p.va == r.1)) with
  | some p => some p
  | none => w.pages.head?

/-- The page in progress, or the next one: a page raised meanwhile follows it. -/
def pageInProgress (w : Sweep) : Option SweepPage :=
  match w.sent with
  | some va => w.pages.find? (fun p => p.va == va)
  | none => nextPage w

/-- Translate the target's bytes of a page for writing: physical lines and leaves. -/
def targetLines (va : Nat) : List Nat → State → Except Fail (List (Nat × Nat × Option Nat) × State)
  | [], s => .ok ([], s)
  | k :: t, s =>
    match engXBy (fun _ s => s) (va + 64 * k) 1 s with
    | .bad c => .error (.cause c (va + 64 * k))
    | .wait => .error (.wait (va + 64 * k))
    | .ok pa leaf s' =>
      match targetLines va t s' with
      | .error e => .error e
      | .ok (l, s'') => .ok ((k, pa, leaf) :: l, s'')

/-- Copy one line to a target of this package, with its poison. -/
def sweepLine (src : Nat) (s : State) (x : Nat × Nat × Option Nat) : State :=
  let from_ := memKey (ownNode s) (src + 64 * x.1)
  let to_ := memKey (ownNode s) x.2.1
  let bad := poisonedAt s from_
  let s := memWrite (writesOf to_ (bytesAt s.mem.mem from_ 64)) (markDirty x.2.2 s)
  if bad then poisonLine to_ s else s

/-- The packets of a page to a target on another node; its poisoned lines are poisoned there. -/
def sweepPackets (s : State) (e : Entry) (tgt : SegEntry) (src va : Nat) : List Packet :=
  let dst : Nat → Nat := fun k => segPbase tgt + (va - segVbase tgt) + 64 * k
  let ws := ((List.range 512).filter (fun k => !poisonedAt s (memKey (ownNode s) (src + 64 * k)))).flatMap (fun k =>
    writesOf (dst k) (bytesAt s.mem.mem (memKey (ownNode s) (src + 64 * k)) 64))
  (pieces packetBytes ws).zipIdx.map (fun l => packetTo s e (segNode tgt, ownCore s) (e.index * 16 + l.2) (.write l.1))

def poisonAway (s : State) (tgt : SegEntry) (src va : Nat) : State :=
  (poisonedLines s src 0).foldl (fun s l =>
    poisonLine (memKey (segNode tgt) (segPbase tgt + (va - segVbase tgt) + (l - src))) s) s

/-- A page has been copied: its entries of the fault-address queue, SW and a MIG that a program wrote (R293), the index, and the
end of the sweep. -/
def pageSwept (w : Sweep) (p : SweepPage) (src slot : Nat) (s : State) : State :=
  let bad := poisonedLines s src 0
  let s := faqLines 4 bad s
  let rest := w.pages.filter (fun q => q.va != p.va)
  let s := if rest.any (fun q => q.leaf == p.leaf) then s else setPte p.leaf (fun v => setBit 60 false (setBit 59 false v)) s
  let w' : Sweep :=
    { w with sent := none, pages := rest, raised := w.raised.filter (fun r => r.1 != pageOf p.va), copied := w.copied + 1
             poisoned := if bad.isEmpty then w.poisoned else w.poisoned + 1 }
  match findEntry s slot with
  | none => s
  | some e =>
    let e : Entry := { e with index := e.index + 1, part := BitVec.ofNat 64 w'.poisoned }
    let s := putSweep w' (putEntry e s)
    if rest = [] then endSweep w' e s else s

/-- The source of the requests of a page's copy for a line: background, or the cluster whose store is held if the page has been raised
(R290, R301). -/
def pageSource (s : State) (w : Sweep) (p : SweepPage) (l : Nat) : Fin 15 :=
  match w.raised.find? (fun r => r.1 == pageOf p.va) with
  | some r => coreSource s r.2 l
  | none => background

/-- The requests of a page's copy, behind those of its walk. -/
def pageRequests (w : Sweep) (p : SweepPage) (lines : List Nat) (s : State) : State :=
  lines.foldl (fun s l => toController (pageSource s w p l) l (wakeAt l s)) (pageRequestsAt p.va s)

/-- Send a page to a target on another node: it counts as copied once the target has acknowledged its packets (R253). -/
def sendPage (w : Sweep) (p : SweepPage) (e : Entry) (tgt : SegEntry) (src : Nat) (s : State) : State :=
  if w.sent = some p.va then
    if e.acks = 0 then pageSwept w p src e.slot (poisonAway s tgt src p.dst) else s
  else if e.acks ≠ 0 then s
  else if routeRefused s (segNode tgt) then engineCause e { cause := .remote } s
  else putSweep { w with sent := some p.va } (sendAll e.slot (sweepPackets s e tgt src p.dst) (pageRequests w p (frameLines src) s))

/-- Copy a page to a target of this package. -/
def copyHere (w : Sweep) (p : SweepPage) (e : Entry) (src : Nat) (s : State) : State :=
  match targetLines p.dst (List.range 512) s with
  | .error (.cause c va) => engineCause e { cause := c, faddr := some (BitVec.ofNat 64 va) } s
  | .error (.wait va) => raisePage va s
  | .ok (ls, s') =>
    pageSwept w p src e.slot (ls.foldl (sweepLine src) (pageRequests w p (frameLines src ++ ls.map (fun l => l.2.1)) s'))

/-- Copy a page of the sweep. Its walk and its reads wait for the hand-over of a stack that they go to (R309). -/
def copyPage (w : Sweep) (p : SweepPage) (e : Entry) (s : State) : State :=
  let tgt := ckptTarget s e.record
  let bad (c : Cause) : State := engineCause e { cause := c, faddr := some (BitVec.ofNat 64 p.va) } s
  if s.pkg.ridging ≠ 0 ∧ tablesRidge s p.va = true then s
  else
    match pageWalk s p.va with
    | .bad c _ => bad c
    | .leaf l =>
      let src := leafPa l p.va
      if migrating s e.slot l then s
      else if 2 ^ 39 ≤ src then bad .seg
      else if !reachesHome s src then bad .owner
      else if ridgingAt s src then s
      else if segRn tgt then sendPage w p e tgt src s
      else copyHere w p e src s

/-- CKPT_PAGE_COPIED (R301): the next page of the sweep is copied. -/
def execCkptPageCopied (slot : Nat) (s : State) : Out :=
  .next <|
    match findEntry s slot with
    | none => s
    | some e =>
      if recTask e.record = some .ckpt ∧ e.fold = false ∧ e.state = .running ∧ s.pkg.shut = false then
        match findSweep s e.seq with
        | none => s
        | some w => (match pageInProgress w with | some p => copyPage w p e s | none => s)
      else s

end Sys2Proof.Machine
end

