-- ==== Sys2Proof/Machine/Launch.lean ====
section
/-! DEFINITION. Launches (spec/16_package.md R313, R317; spec/13_cluster.md R265; spec/20_program_dispatch.md R376;
spec/21_program_relaxation.md R380; spec/22_assembly_reference.md R390 to R393): acceptance and refusal, the start, the
resumption of a pre-empted launch (spec/12_program_field_splitter.md R261, spec/19_fabric_groups.md R372), late starts (R373),
and the end of a launch by the host. -/

namespace Sys2Proof.Machine

/-! ### The segment table (R265) -/

/-- A reserved bit of an entry is set. -/
def segReserved (e : SegEntry) : Bool :=
  bitsOf e.d0.toNat 51 13 != 0 || bitsOf e.d0.toNat 4 11 != 0 || bitsOf e.d1.toNat 52 12 != 0 || bitsOf e.d1.toNat 0 15 != 0
    || bitsOf e.d2.toNat 60 3 != 0 || bitsOf e.d2.toNat 0 15 != 0 || e.d3 != 0

/-- Two entries overlap. -/
def segMeet (e f : SegEntry) : Bool := rangesMeet (segVbase e) (segLen e) (segVbase f) (segLen f)

/-- An entry that the launch refuses, beside the entries of other numbers. -/
def segBad (l : List (Nat × SegEntry)) (x : Nat × SegEntry) : Bool :=
  let e := x.2
  segReserved e || (segPg e && segRn e) ||
    (segV e && (segLen e == 0 || decide (2 ^ 51 < segVbase e + segLen e) ||
      l.any (fun y => y.1 != x.1 && segV y.2 && segMeet e y.2)))

/-- The lowest number of the items that `bad` picks. -/
def lowest {α : Type} (bad : Nat × α → Bool) (l : List (Nat × α)) : Option Nat :=
  l.foldl (fun m x => if bad x then (match m with | some k => some (min k x.1) | none => some x.1) else m) none

/-- The table with the bases that the host gives (R391). -/
def placed (p : CoreItems) : List (Nat × SegEntry) :=
  p.segs.map (fun (x : Nat × SegEntry) =>
    match p.place.find? (fun y => y.1 == x.1) with
    | some y =>
      (x.1, { x.2 with d2 := BitVec.ofNat 64 (x.2.d2.toNat - bitsOf x.2.d2.toNat 15 33 * 2 ^ 15 + bitsOf y.2 15 33 * 2 ^ 15) })
    | none => x)

/-! ### What a launch loads -/

/-- A list of pairs as a table. -/
def tableOf {α : Type} [DecidableEq α] (d : α) (l : List (Nat × α)) : Table α := l.foldl (fun t x => tset d t x.1 x.2) []

def huskOfWords (l : List Word) : Husk :=
  { d0 := l.getD 0 0, d1 := l.getD 1 0, d2 := l.getD 2 0, d3 := l.getD 3 0
    d4 := l.getD 4 0, d5 := l.getD 5 0, d6 := l.getD 6 0, d7 := l.getD 7 0 }

def launchHusks (p : CoreItems) : List (Nat × Husk) := p.husks.map (fun x => (x.1, huskOfWords x.2))

/-- The self descriptor (R77). -/
def selfWord (s : State) (p : CoreItems) : Word :=
  BitVec.ofNat 64 (ownCore s + ownNode s * 2 ^ 12 + p.asid.toNat * 2 ^ 24 + p.group.isSome.toNat * 2 ^ 37)

/-- g1 to g15 and g62 (R76); the others are zero. -/
def launchRegs (s : State) (p : CoreItems) (args : List Word) : Vector Word 64 :=
  Vector.ofFn (fun i : Fin 64 =>
    if i = 62 then selfWord s p else if 1 ≤ i.val ∧ i.val ≤ 15 then args.getD (i.val - 1) 0 else 0)

/-- The system registers at launch: those of the packet, the identity of the core, the phase fence in progress, and every
other at its reset value. -/
def launchSys (s : State) (p : CoreItems) : SysRegs :=
  let g : GroupInit := p.group.getD { id := 0, n := 0, ix := 0, epoch := 0, budget := 0 }
  { SysRegs.reset with
    coreid := s.sys.coreid, nodeid := s.sys.nodeid, gepochPf := s.sys.gepochPf
    asid := p.asid, pl := p.pl, tvec := p.tvec, tcut := p.tcut &&& 0x80000000007FFFC0
    preedl := floor1000 (p.preedl.setWidth 64), lattol := p.lattol, rasb := p.rasb &&& rasbLaunch
    grpid := g.id, grpn := BitVec.ofNat 17 g.n, grpIx := g.ix, gepoch := g.epoch }

/-- An ASID of a launch of the cluster, this core's among them. -/
def clusterUses (s : State) (a : Nat) : Bool :=
  (live s && a == s.sys.asid.toNat) ||
    s.fab.peers.any (fun q => q.node == ownNode s && q.core / 16 == ownCore s / 16 && q.asid.toNat == a)

/-- The map unit loads a segment table. It holds those of 16 ASIDs (R266): one that no launch of the cluster uses leaves, one that no
saved sweep needs before the others (DESIGN CHOICE, log entry 10). -/
def loadSegs (p : CoreItems) (s : State) : Table (List (Nat × SegEntry)) :=
  let t := tset [] s.mem.segs p.asid.toNat (placed p)
  let spare := t.filter (fun x => x.1 != p.asid.toNat && !clusterUses s x.1)
  let swept (x : Nat × List (Nat × SegEntry)) : Bool := s.mem.sweeps.any (fun w => w.asid.toNat == x.1)
  if t.length ≤ 16 then t
  else match spare.filter (fun x => !swept x) ++ spare with | x :: _ => tset [] t x.1 [] | [] => t

/-- The core loaded for a launch: the strand, the registers, the segment table, tables and husks, an empty window, and the number of
the packet. The sweeps of launches that have been saved (R253), the scratchpad, the accumulators, the semaphores, the hold queue, the
roots that stand here and the messages on their way stand. -/
def loadCore (p : CoreItems) (args : List Word) (pc : BitVec 32) (s : State) : State :=
  let s := { s with
    strand := { Strand.reset with
      g := launchRegs s p args, pc := pc, run := .waiting
      text := p.text.foldl (fun t x => kset t x.1 x.2) [], textLines := p.textLines }
    sys := launchSys s p
    store := { s.store with
      husks := tableOf {} (launchHusks p), tabs := tableOf [] p.tabs, boxes := Store.reset.boxes, blocks := [], bindings := [] }
    thatch := { Thatch.reset with
      nextSlot := s.thatch.nextSlot, partnersReduced := s.thatch.partnersReduced, partsReady := s.thatch.partsReady
      partnersStart := s.thatch.partnersStart, heldBy := s.thatch.heldBy, partsDue := s.thatch.partsDue }
    mem := { s.mem with
      segs := loadSegs p s, tlb := []
      mapCache := s.mem.mapCache.filter (fun t => t.asid != p.asid), replay := [] }
    fab := { s.fab with pips := [] }
    grp := { Group.reset with
      msgs := s.grp.msgs, roots := s.grp.roots, gen := (p.group.map GroupInit.gen).getD 0, budget := (p.group.map GroupInit.budget).getD 0 }
    pkg := { s.pkg with
      launch := some { start := p.start, budget := (p.group.map GroupInit.budget).getD 0, accepted := s.pkg.time }
      launchNo := s.pkg.launches, preemptBy := none, saving := false, debugReq := false }
    prof := Profile.reset }
  writeTraceb p.traceb s

/-- The tables and husks of the image are checked as HKTAB and HKLD check them, the tables first (R390). -/
def launchBad (p : CoreItems) (s : State) : Option Completion :=
  let l := placed p
  match lowest (segBad l) l with
  | some n => some (.refused (some n) none)
  | none =>
    if p.tabs.any (fun t => !tabValid t.2) then some (.refused none none)
    else
      match lowest (fun x => huskBad (loadCore p [] 0 s) x.2) (launchHusks p) with
      | some n => some (.refused none (some n))
      | none =>
        match p.groupSize with
        | some n => if p.group.map GroupInit.n = some n then none else some (.refused none none)
        | none => none

/-- The package takes launches: bring-up is complete, and no trip has shut it down (R315, R318). -/
def packageTakes (s : State) : Bool := s.pkg.broughtUp && !s.pkg.shut

/-- The package takes a launch, and the core is free: no launch, and no fold or started record of an earlier one (DEDUCED, log entry
12). -/
def canAccept (s : State) : Bool :=
  packageTakes s && !live s &&
    !s.thatch.entries.any (fun e => e.fold || e.state == .running || e.state == .draining || e.state == .committing)

/-- A package of another node as its own map unit sees it. -/
def asNode (node : BitVec 12) (s : State) : State := { s with sys := { s.sys with nodeid := node } }

/-- One byte of memory data (R376), placed by the packet's own segment table: of a segment on a node, of a plain segment of the
package that accepts the launch, or of a pageable one. -/
def placeByte (node : BitVec 12) (l : List (Nat × SegEntry)) (s : State) (x : Nat × Nat × Byte) : State :=
  let put (n pa : Nat) (s : State) : State := memWrite [{ addr := memKey n pa, data := x.2.2 }] s
  match l.find? (fun e => e.1 == x.1 && segV e.2) with
  | none => s
  | some (_, e) =>
    if segRn e then put (segNode e) (segPbase e + x.2.1) s
    else if segPg e then
      (match walk (asNode node s) e (segVbase e + x.2.1) with
       | some f => put node.toNat (leafPa f (segVbase e + x.2.1)) s
       | none => s)
    else put node.toNat (segPbase e + x.2.1) s

/-- The data of a packet, written once at its acceptance, by a segment table of its own (R376, R380). -/
def placeData (node : BitVec 12) (p : LaunchPkt) (l : List (Nat × SegEntry)) (s : State) : State :=
  let s := p.pages.foldl (fun s (x : Nat × Byte) => memWrite [{ addr := memKey node.toNat x.1, data := x.2 }] s) s
  p.data.foldl (placeByte node l) s

/-- A message that goes to a root. -/
def forRoot : GroupMsg → Bool
  | .contrib _ | .mark _ | .abortUp _ | .expiry .. => true
  | .result .. | .timeout .. | .commit .. | .abortDown _ => false

/-- The package of member 0 holds the root of the group, a new one with each launch of that member (R358). -/
def newRoot (g : GroupInit) (s : State) : State :=
  let root : Root := { gid := g.id, n := g.n, gen := 0, contribs := [], ended := [], marks := [], step := 0 }
  if g.ix = 0 then { s with grp := { s.grp with roots := s.grp.roots.filter (fun r => r.gid != g.id) ++ [root] } } else s

/-- A launch of a member begins its group anew; messages of an earlier launch of the group for this member, and for the root that its
launch places, are gone (DESIGN CHOICE, log entry 40). -/
def placeRoot (p : CoreItems) (s : State) : State :=
  match p.group with
  | some g =>
    let s := newRoot g s
    { s with grp := { s.grp with msgs := s.grp.msgs.filter (fun m => msgGid m != g.id || (forRoot m && g.ix != 0)) } }
  | none => s

/-- A launch of member 0 on another core of this package places the root here too (R358). Messages to an earlier root of the group are
gone, unless a member runs on this core, whose messages they are (DESIGN CHOICE, log entry 40). -/
def placeRootFor (p : CoreItems) (s : State) : State :=
  match p.group with
  | some g =>
    let mine := live s && ownGroup s g.id
    let s := newRoot g s
    { s with grp := { s.grp with msgs := s.grp.msgs.filter (fun m => msgGid m != g.id || !forRoot m || g.ix != 0 || mine) } }
  | none => s

/-- A completion for the host. -/
def complete (c : Completion) (s : State) : State := { s with pkg := { s.pkg with completions := s.pkg.completions ++ [c] } }

/-- The package takes the launch of this core, or refuses it; whether it has taken it. -/
def acceptLaunch (p : CoreItems) (s : State) : State × Bool :=
  match launchBad p s with
  | some c => (complete c s, false)
  | none =>
    let s := loadCore p p.args 0 s
    (placeRoot p { s with
      mem := { s.mem with sweeps := s.mem.sweeps.filter (fun w => w.asid != p.asid) }
      store := { s.store with
        spad := p.spad.foldl (fun m (x : Nat × Byte) => setByte m x.1 x.2) s.store.spad, acc := [], sems := [] }
      grp := { s.grp with gen := 0 } }, true)

/-- The completion of a refusal for another core of this package. -/
def refusedFor (core : BitVec 9) : Completion → Completion
  | .refused seg husk => .refusedAt core seg husk
  | c => c

/-- What the fabric, the cluster and the map unit see of another core that a packet launches or resumes (DESIGN CHOICE, log entry 4):
its ASID, its husks, the number of the packet; a core of this cluster brings its segment table into the map unit (R266). The table of the
ASID that this core's own launch uses stays as that launch was placed (R391; DESIGN CHOICE, log entry 10). -/
def notePeer (p : CoreItems) (node : BitVec 12) (core : BitVec 9) (s : State) : State :=
  let q : Peer :=
    { node := node.toNat, core := core.toNat, asid := p.asid, husks := tableOf {} (launchHusks p), launch := s.pkg.launches }
  let s := { s with fab := { s.fab with peers := s.fab.peers.filter (fun x => !(x.node == q.node && x.core == q.core)) ++ [q] } }
  if q.node = ownNode s ∧ q.core / 16 = ownCore s / 16 ∧ ¬(live s = true ∧ p.asid = s.sys.asid) then
    { s with mem := { s.mem with segs := loadSegs p s, mapCache := s.mem.mapCache.filter (fun t => t.asid != p.asid) } }
  else s

/-- Its scratchpad data, its semaphores, which are zero, and, of a core of this package, its accumulators, which are at their reset
value (R185, R380). -/
def fillPeer (p : CoreItems) (node : BitVec 12) (core : BitVec 9) (s : State) : State :=
  let at_ := node.toNat * 512 + core.toNat
  { s with fab := { s.fab with
    farSpad := p.spad.foldl (fun m (x : Nat × Byte) => setByte m (at_ * 2 ^ 23 + x.1) x.2) s.fab.farSpad
    farSems := s.fab.farSems.filter (fun x => x.1 / 2048 != at_)
    farAcc := if node.toNat = ownNode s then s.fab.farAcc.filter (fun x => x.1 / 65536 != core.toNat) else s.fab.farAcc } }

/-- A package of the pod takes the launch of another core, or its resumption (R317, R375, R380; DESIGN CHOICE, log entry 4). Of this
package's cores it answers a refusal, and it takes none before bring-up or after a trip (R315, R318). A packet that names a core of
cluster 6 or 7, which does not occur (R4), is taken like any other (DESIGN CHOICE, log entry 4). -/
def acceptElsewhere (resume : Bool) (p : CoreItems) (node : BitVec 12) (core : BitVec 9) (s : State) : State × Bool :=
  let here := decide (node.toNat = ownNode s)
  if here && !packageTakes s then (s, false)
  else
    match launchBad p s with
    | some c => (if here then complete (refusedFor core c) s else s, false)
    | none =>
      let s := notePeer p node core s
      (if resume then s else fillPeer p node core (if here then placeRootFor p s else s), true)

/-- The node and the core that an item list names. -/
def coreOf (p : CoreItems) (s : State) : BitVec 12 × BitVec 9 := p.core.getD (s.sys.nodeid, s.sys.coreid)

/-- The packet launches one of the cores that it names; the first that is taken places the data. -/
def launchCore (p : LaunchPkt) (acc : State × Bool) (c : CoreItems) : State × Bool :=
  let s := acc.1
  let at_ := coreOf c s
  let r := if at_ = (s.sys.nodeid, s.sys.coreid) then (if canAccept s then acceptLaunch c s else (s, false))
    else acceptElsewhere false c at_.1 at_.2 s
  (if r.2 && !acc.2 then placeData at_.1 p (placed c) r.1 else r.1, acc.2 || r.2)

/-- A packet is the next one of the package. -/
def nextLaunch (s : State) : State := wakeAll { s with pkg := { s.pkg with launches := s.pkg.launches + 1 } }

/-- LAUNCH_PACKET (R317, R376, R380): of this core and of others of the pod. -/
def execLaunchPacket (p : LaunchPkt) (s : State) : Out :=
  .next ((p.toCoreItems :: p.others).foldl (launchCore p) (nextLaunch s, false)).1

/-! ### Resumption -/

/-- The membership registers that the resuming packet restores (R372). -/
def restoreMember (m : Option (Word × Word × Word)) (r : SysRegs) : SysRegs :=
  match m with
  | none => r
  | some (ix, st, ep) =>
    { r with
      grpIx := ix.setWidth 16, grpCi := ix.extractLsb' 16 32, grpXc := ix.getLsbD 48, grpXr := ix.getLsbD 49
      gstepLocal := st.extractLsb' 32 32, gstepStep := st.setWidth 32, gepoch := ep.setWidth 16 }

/-- This core resumes a launch, or the package refuses it. -/
def resumeHere (p : CoreItems) (restore : BitVec 32) (s : State) : State :=
  match launchBad p s with
  | some c => complete c s
  | none =>
    let s := loadCore p [] restore s
    { s with sys := restoreMember p.members s.sys }

/-- The packet resumes one of the cores that it names. -/
def resumeCore (restore : BitVec 32) (s : State) (c : CoreItems) : State :=
  let at_ := coreOf c s
  if at_ = (s.sys.nodeid, s.sys.coreid) then (if canAccept s then resumeHere c restore s else s)
  else (acceptElsewhere true c at_.1 at_.2 s).1

/-- RESUME_PACKET (R261): as a launch, but g1 to g15 are zero, nothing is written to scratchpad, accumulators, semaphores
or memory, and the strand starts at the restore address; on this core or on another. -/
def execResumePacket (p : LaunchPkt) (restore : BitVec 32) (s : State) : Out :=
  .next ((p.toCoreItems :: p.others).foldl (resumeCore restore) (nextLaunch s))

/-! ### The start -/

/-- How late a member accepted after its start time begins (R373). -/
def lateness (l : Launch) (now : Word) : Nat := if l.start.ult l.accepted then now.toNat - l.start.toNat else 0

/-- What a late start does to a member of a group. -/
def lateStart (l : Launch) (s : State) : State :=
  let d := lateness l s.pkg.time
  if s.sys.grpn = 0 ∨ d = 0 then s
  else if d ≤ l.budget then
    raiseAsync { cause := .lateStart, info := BitVec.ofNat 32 (min d 0xFFFFFFFF), src := 0 } s
  else abortGroup 0xFFFFFFFF s

/-- LAUNCH_START (R313, R373): TIME has reached the start time. -/
def execLaunchStart (s : State) : Out :=
  .next (match s.strand.run, s.pkg.launch with
    | .waiting, some l =>
      if l.start.ule s.pkg.time then lateStart l { s with strand := { s.strand with run := .running } } else s
    | _, _ => s)

/-- HOST_ENDS_LAUNCH (R374): the host ends a launch that no rule will end, by a management packet (R314). -/
def execHostEndsLaunch (s : State) : Out :=
  let s := wakeAll s
  .next (if live s then endLaunch .ended .ended s else s)

end Sys2Proof.Machine
end

