-- ==== Sys2Proof/Machine/Cipher.lean ====
section
/-! DEFINITION. The checks and the cipher of a flit (spec/17_fabric_links.md R319, R327): CRC-64 of ECMA-182, and AES-256-GCM
of FIPS 197 and NIST SP 800-38D. Bytes are natural numbers below 256; a key, an IV and a tag are byte strings. -/

namespace Sys2Proof.Machine

/-! ### CRC-64 (R319) -/

/-- One bit of the remainder, most significant bit first. -/
def crcStep (c : Nat) : Nat := if c / 2 ^ 63 % 2 = 1 then (c * 2 % 2 ^ 64) ^^^ 0x42F0E1EBA9EA3693 else c * 2 % 2 ^ 64

/-- Take in one byte. -/
def crcByte (c b : Nat) : Nat := (List.range 8).foldl (fun c _ => crcStep c) (c ^^^ (b * 2 ^ 56))

def crc64 (bs : List Nat) : Nat := bs.foldl crcByte 0

/-! ### AES-256 (FIPS 197) -/

/-- Multiply by x in GF(2^8). -/
def xtime (a : Nat) : Nat := if a / 128 % 2 = 1 then (a * 2 % 256) ^^^ 0x1B else a * 2 % 256

/-- The product in GF(2^8), over `n` bits of b. -/
def gmulN : Nat → Nat → Nat → Nat
  | 0, _, _ => 0
  | n + 1, a, b => (if b % 2 = 1 then a else 0) ^^^ gmulN n (xtime a) (b / 2)

def gmul (a b : Nat) : Nat := gmulN 8 a b

/-- The multiplicative inverse, a^254. -/
def ginv (a : Nat) : Nat :=
  let a2 := gmul a a
  let a4 := gmul a2 a2
  let a8 := gmul a4 a4
  let a16 := gmul a8 a8
  let a32 := gmul a16 a16
  let a64 := gmul a32 a32
  let a128 := gmul a64 a64
  gmul a2 (gmul a4 (gmul a8 (gmul a16 (gmul a32 (gmul a64 a128)))))

def rotByte (a n : Nat) : Nat := (a * 2 ^ n % 256) + a / 2 ^ (8 - n)

/-- SubBytes of one byte. -/
def sbox (a : Nat) : Nat :=
  let b := ginv a
  b ^^^ rotByte b 1 ^^^ rotByte b 2 ^^^ rotByte b 3 ^^^ rotByte b 4 ^^^ 0x63

def xorBytes (a b : List Nat) : List Nat := List.zipWith (· ^^^ ·) a b

/-- The key schedule: words of four bytes, the newest first; `i` is the number of the next word. -/
def expandFrom : Nat → Nat → Nat → List (List Nat) → List (List Nat)
  | 0, _, _, ws => ws
  | n + 1, i, rcon, ws =>
    let prev := ws.headD []
    let t :=
      if i % 8 = 0 then xorBytes ((prev.drop 1 ++ prev.take 1).map sbox) [rcon, 0, 0, 0]
      else if i % 8 = 4 then prev.map sbox
      else prev
    expandFrom n (i + 1) (if i % 8 = 0 then xtime rcon else rcon) (xorBytes (ws.getD 7 []) t :: ws)

/-- The fifteen round keys of a 32-byte key. -/
def roundKeys (key : List Nat) : List (List Nat) :=
  let first := (List.range 8).map (fun i => (key.drop (4 * i)).take 4)
  let ws := (expandFrom 52 8 1 first.reverse).reverse
  (List.range 15).map (fun r => ((ws.drop (4 * r)).take 4).flatten)

/-- ShiftRows on the 16 bytes of a state, column by column. -/
def shiftRows (st : List Nat) : List Nat := (List.range 16).map (fun i => st.getD ((i + 4 * (i % 4)) % 16) 0)

def mixColumn (c : List Nat) : List Nat :=
  (List.range 4).map (fun i =>
    gmul 2 (c.getD i 0) ^^^ gmul 3 (c.getD ((i + 1) % 4) 0) ^^^ c.getD ((i + 2) % 4) 0 ^^^ c.getD ((i + 3) % 4) 0)

def mixColumns (st : List Nat) : List Nat := (List.range 4).flatMap (fun i => mixColumn ((st.drop (4 * i)).take 4))

/-- Rounds with the keys that are left; the last has no MixColumns. -/
def aesRounds (st : List Nat) : List (List Nat) → List Nat
  | [] => st
  | [k] => xorBytes (shiftRows (st.map sbox)) k
  | k :: ks => aesRounds (xorBytes (mixColumns (shiftRows (st.map sbox))) k) ks

/-- Encrypt one block. -/
def aesBlock (ks : List (List Nat)) (block : List Nat) : List Nat :=
  match ks with
  | [] => block
  | k :: ks => aesRounds (xorBytes block k) ks

/-! ### GCM (SP 800-38D) -/

/-- A byte string as a number, the first byte most significant. -/
def beNat (bs : List Nat) : Nat := bs.foldl (fun v b => v * 256 + b) 0

/-- The `n` bytes of a number, the most significant first. -/
def beBytes : Nat → Nat → List Nat
  | 0, _ => []
  | n + 1, v => (v / 256 ^ n % 256) :: beBytes n v

/-- Multiply blocks: bits of x from the most significant, `n` left. -/
def blockMul : Nat → Nat → Nat → Nat → Nat
  | 0, _, _, z => z
  | n + 1, x, v, z =>
    blockMul n x (if v % 2 = 1 then v / 2 ^^^ (0xE1 * 2 ^ 120) else v / 2) (if x / 2 ^ n % 2 = 1 then z ^^^ v else z)

def ghashMul (x y : Nat) : Nat := blockMul 128 x y 0

/-- Blocks of 16 bytes, the last padded with zeros. -/
def blocksOf (n : Nat) (bs : List Nat) : List Nat :=
  (List.range n).map (fun i => let b := (bs.drop (16 * i)).take 16; beNat (b ++ List.replicate (16 - b.length) 0))

def ghash (h : Nat) (blocks : List Nat) : Nat := blocks.foldl (fun y b => ghashMul (y ^^^ b) h) 0

/-- The counter block with number i after a 96-bit IV. -/
def ctrBlock (iv : List Nat) (i : Nat) : List Nat := iv ++ beBytes 4 i

/-- The key stream of `n` blocks from counter 2 on. -/
def gcmStream (ks : List (List Nat)) (iv : List Nat) (n : Nat) : List Nat :=
  (List.range n).flatMap (fun i => aesBlock ks (ctrBlock iv (i + 2)))

/-- Encryption and decryption of a text of whole or partial blocks. -/
def gcmCrypt (key iv text : List Nat) : List Nat :=
  xorBytes text (gcmStream (roundKeys key) iv ((text.length + 15) / 16))

/-- The tag over the associated data and the ciphertext. -/
def gcmTag (key iv aad cipher : List Nat) : List Nat :=
  let ks := roundKeys key
  let h := beNat (aesBlock ks (List.replicate 16 0))
  let y := ghash h (blocksOf ((aad.length + 15) / 16) aad ++ blocksOf ((cipher.length + 15) / 16) cipher
    ++ [aad.length * 8 * 2 ^ 64 + cipher.length * 8])
  xorBytes (beBytes 16 y) (aesBlock ks (ctrBlock iv 1))

end Sys2Proof.Machine
end

