-- ==== Sys2Proof/Machine/Package.lean ====
section
/-! DEFINITION. The package (spec/16_package.md R311 to R318; spec/14_die.md R288 to R290, R298, R299; spec/13_cluster.md
R266): translation fills, the home die cache and the stack controllers, time, power states, throttles, bring-up and the
management interface. -/

namespace Sys2Proof.Machine

def withPkg (p : Package) (s : State) : State := { s with pkg := p }

/-- An answer to the host. -/
def answer (a : Answer) (s : State) : State := { s with pkg := { s.pkg with answers := s.pkg.answers ++ [a] } }

/-! ### Translation fills (R120, R266) -/

/-- TRANSLATION_FILL: a buffer walks a page and keeps what it finds; a walk that reads a table in a stack whose hand-over is under way is
held (R309). -/
def execTranslationFill (map : Bool) (va : Nat) (write : Bool) (s : State) : Out :=
  let kind := if write then 1 else 0
  .next (if walkHeld (!map) kind va s then s
    else
      match xlate map s.sys.asid va kind s with
      | .ok _ _ _ _ s' => s'
      | .bad _ => missRequests (!map) kind va s)

/-! ### The home die cache and the controllers (R288 to R290) -/

/-- The error correction at an access (R289). -/
def eccFinds (die pa : Nat) (e : Ecc) (s : State) : State :=
  match e with
  | .clean => s
  | .corrected =>
    let d : Fin 4 := Fin.ofNat 4 die
    { s with pkg := { s.pkg with cecnt := s.pkg.cecnt.set d (s.pkg.cecnt[d] + 1) } }
  | .uncorrectable => poisonLine (memKey (ownNode s) pa) s

/-- The line of a read or an atomic is poisoned: the consumer receives UE and the queue an entry. -/
def homePoisoned (q : HomeReq) (s : State) : State :=
  answer (.homeUe q.pa) (faqAppend (homeDie s q.pa) (if q.engine then 1 else 0) (BitVec.ofNat 9 q.core) q.pa s)

/-- Perform a request at its home. -/
def homePerform (q : HomeReq) (s : State) : State :=
  let k := memKey (ownNode s) q.pa
  match q.op with
  | .write d => memWrite (writesOf k d) s
  | .read => if poisonedAt s k then homePoisoned q s else answer (.homeData q.pa (bytesAt s.mem.mem k q.size)) s
  | .amo op b cmp =>
    if poisonedAt s k then homePoisoned q s
    else
      let w := 8 * q.size
      let old := readLe s.mem.mem k q.size
      let c := cmp.toNat % 2 ^ w
      answer (.homeData q.pa (leBytes q.size old))
        (if atomWrites op old c then memWrite (writesOf k (leBytes q.size (atomNew op w old (b.toNat % 2 ^ w) c))) s else s)

def homeWrites : HomeOp → Bool
  | .read => false
  | .write _ | .amo .. => true

/-- The request is performed: a request at its home and its controller. -/
def homeNow (q : HomeReq) (s : State) : State :=
  homePerform q (toController q.src q.pa (wakeAt q.pa (eccFinds (homeDie s q.pa) q.pa q.ecc s)))

/-- The page that holds a request back. -/
def homePage (s : State) (q : HomeReq) : Option (BitVec 13 × Nat) := if homeWrites q.op then frameHeld s (ownNode s) q.pa else none

/-- A request waits at its home: for its page, or for the hand-over of its stack (R296, R301, R308, R309). -/
def homeWaits (s : State) (q : HomeReq) : Bool := ridgingAt s q.pa || (homePage s q).isSome

/-- A request is held; a write to a page of a sweep raises the page (R253). -/
def homeHold (q : HomeReq) (s : State) : State :=
  let s := match homePage s q with
    | some x => raiseFor (if q.core < 0x1FF then q.core else ownCore s) x.1 x.2 s
    | none => s
  { s with mem := { s.mem with homeHeld := s.mem.homeHeld ++ [.req q] } }

/-- HOME_ACCESS (R288, R306): a request of another party for a line of this package. -/
def execHomeAccess (q : HomeReq) (s : State) : Out :=
  .next (if 2 ^ 39 ≤ q.pa then s
    else if !routed s q.fromDie (homeDie s q.pa) then answer (.homeOwner q.pa) s
    else if homeWaits s q then homeHold q s
    else homeNow q s)

/-- What waits at its home must wait on. -/
def itemWaits (s : State) : HomeItem → Bool
  | .req q => homeWaits s q
  | .pkt p => packetHeld s p

/-- What waited at its home is performed. -/
def itemNow : HomeItem → State → State
  | .req q, s => homeNow q s
  | .pkt p, s => performBody p (wakePacket p s)

/-- Requests and packets that need wait no longer are performed, in their order of arrival, by the owner that the stack now has (R308 step
6, R309). -/
def releaseHome (s : State) : State :=
  s.mem.homeHeld.foldl (fun s x =>
    if itemWaits s x then s else itemNow x { s with mem := { s.mem with homeHeld := s.mem.homeHeld.erase x } }) s

/-- Mark each source's oldest waiting requests: 32 of each, 4 of background copy. -/
def formBatch (c : Mc) : Mc :=
  c.waiting.foldl (fun (m : Mc) r =>
    let n := (m.marked.filter (fun x => x.src == r.src)).length
    if n < (if r.src = background then 4 else 32) then { m with marked := m.marked ++ [r] }
    else { m with waiting := m.waiting ++ [r] }) { waiting := [], marked := [] }

/-- The marked request that is served next: the oldest of another source than background copy that no older request to its line
precedes; if none is ready, the oldest. -/
def nextServed (l : List McReq) : Option McReq :=
  match l.zipIdx.find? (fun x => x.1.src != background && !(l.take x.2).any (fun y => y.line == x.1.line)) with
  | some x => some x.1
  | none => l.head?

/-- The first `n` marked requests are served. -/
def serve : Nat → List McReq → List McReq
  | 0, l => l
  | n + 1, l => match nextServed l with | some r => serve n (l.erase r) | none => []

/-- MC_BATCH (R290): serve marked requests; when none remains, form a batch. -/
def execMcBatch (stk : Fin 8) (served : Nat) (s : State) : Out :=
  let c := s.mem.mc[stk]
  let m := serve served c.marked
  let c' : Mc := if m = [] then formBatch { c with marked := [] } else { c with marked := m }
  .next { s with mem := { s.mem with mc := s.mem.mc.set stk c' } }

/-! ### Throttles (R315) -/

/-- The unit of a throttle record. -/
def throttleBody (l : ThLog) : List Byte :=
  leBytes 8 l.r.dies.toNat ++ leBytes 8 (l.oldClk.toNat + 2 ^ 32 * l.r.newClk.toNat)
    ++ leBytes 8 (l.oldMv.toNat + 2 ^ 32 * l.r.newMv.toNat) ++ leBytes 8 (l.oldLim.toNat + 2 ^ 32 * l.r.newLim.toNat)
    ++ leBytes 8 l.r.measured.toNat ++ leBytes 24 0

/-- A change of clock, voltage or limit: the log, the oldest overwritten, and the trace of a core of the affected dies. -/
def throttleRecord (t : ThrottleRec) (s : State) : State :=
  let p := s.pkg
  let l : ThLog := { r := t, oldClk := p.clk, oldMv := p.mv, oldLim := p.lim }
  let log := p.thlog ++ [l]
  let s := withPkg { p with clk := t.newClk, mv := t.newMv, lim := t.newLim, thlog := log.drop (log.length - 1024) } s
  if traceOn s && t.dies.getLsbD (ownDie s) then traceRecord 4 t.cause.val 0 0 0 0 1 (throttleBody l) s else s

/-- The trigger of a cause (R3, R315): thermal above 105 °C; current above the platform's limit, at most 6,000 A, and inside the
core rail's margin, from 2,460 W at 0.42 V; budget above PWRBUD. The spec gives the floor of droop no number. -/
def throttleDue (t : ThrottleRec) (s : State) : Bool :=
  match t.cause with
  | 0 => decide (1050 < t.measured.toNat)
  | 1 => decide (min 6000 s.pkg.curLimit < t.measured.toNat) && decide (2460000 ≤ t.measured.toNat * 420)
  | 2 => true
  | 3 => decide (s.pkg.pwrbud < t.measured.toNat)

/-- THROTTLE. -/
def execThrottle (t : ThrottleRec) (s : State) : Out :=
  .next (if throttleDue t s then
      let s := throttleRecord t s
      withPkg { s.pkg with throttled := s.pkg.throttled ++ [(t.cause, t.dies)] } s
    else s)

/-- THROTTLE_LIFT: a record with the cause of a throttle in force of these dies, which ends. -/
def execThrottleLift (t : ThrottleRec) (s : State) : Out :=
  .next (if s.pkg.throttled.contains (t.cause, t.dies) then
      let s := throttleRecord t s
      withPkg { s.pkg with throttled := s.pkg.throttled.erase (t.cause, t.dies) } s
    else s)

/-- Links go down and nothing runs; bring-up is needed again. -/
def tripped (s : State) : State :=
  { s with
    strand := { s.strand with run := if live s then .tripped else s.strand.run }
    thatch := { s.thatch with stopped := true }
    links := s.links.map (fun (l : Link) => { l with state := .down })
    pkg := { s.pkg with trip := true, repl := true, broughtUp := false, shut := true } }

/-- THERMAL_TRIP: a junction above 115 °C. -/
def execThermalTrip (deciC : Nat) (s : State) : Out := .next (if 1150 < deciC then tripped s else s)

/-- PACKAGE_RESET: the host resets the package. What is not of the package, what is non-volatile, the memory's cells and the
facts of the hardware stand (DESIGN CHOICE, log entry 9). -/
def execPackageReset (s : State) : Out :=
  .next { State.reset with
    sys := { SysRegs.reset with coreid := s.sys.coreid, nodeid := s.sys.nodeid }
    store := { Store.reset with spad := s.store.spad, failing := s.store.failing }
    thatch := { Thatch.reset with
      nextSlot := s.thatch.nextSlot, partnersReduced := s.thatch.partnersReduced, partsReady := s.thatch.partsReady
      partnersStart := s.thatch.partnersStart, heldBy := s.thatch.heldBy }
    mem := { MemSys.reset with mem := s.mem.mem, poison := s.mem.poison, bpl := s.mem.bpl }
    fab := { Fabric.reset with
      peers := s.fab.peers, net := s.fab.net.filter (fun p => !flitsWait s p), farSpad := s.fab.farSpad, farAcc := s.fab.farAcc, farSems := s.fab.farSems }
    pkg := { Package.reset with
      broughtUp := false, time := s.pkg.time, completions := s.pkg.completions, answers := s.pkg.answers
      curLimit := s.pkg.curLimit, dieDown := s.pkg.dieDown, portADown := s.pkg.portADown, portBDown := s.pkg.portBDown, stackError := s.pkg.stackError }
    agenda := s.agenda, pace := s.pace, freeCount := s.freeCount }

/-! ### Power states (R314) -/

/-- LATTOL of the launch on this core; a core without a launch tolerates any latency. -/
def tolerates (s : State) (ns : Nat) : Bool := !live s || decide (ns ≤ s.sys.lattol.toNat)

/-- The cores of a die (R4). -/
def coresOf (d : Nat) : List Nat := (List.range 96).map (fun i => d * 128 + i)

/-- Fabric ingress is pending for a core of the die. -/
def ingressPending (s : State) (d : Nat) : Bool :=
  let comes (p : Packet) : Bool := p.dstNode == ownNode s && p.dstCore / 128 == d
  s.fab.net.any comes || s.mem.homeHeld.any (fun x => match x with | .pkt p => comes p | .req _ => false)

def coreGated (s : State) (c : Nat) : Bool :=
  s.pkg.gated.any (fun g => match g with | .clockGated k => k.val == c | _ => false)

/-- What waits at its home goes to a stack. -/
def itemAt (k : Nat) : HomeItem → Bool
  | .req q => q.pa / 2 ^ 36 % 8 == k
  | .pkt p => (bodyTouches p.body).any (fun a => a / 2 ^ 36 % 8 == k)

/-- The condition of a state: of the other cores of the package it is a fact that the event carries (DESIGN CHOICE, log entry 4). -/
def mayEnter (s : State) : PowerState → Bool
  | .clockGated c =>
    if c.val = ownCore s then
      (!live s || s.strand.asleep) && s.thatch.entries.isEmpty && tolerates s 50
    else true
  | .retention d =>
    (coresOf d.val).all (coreGated s) && (if d.val = ownDie s then tolerates s 20000 else true) && !ingressPending s d.val
  | .selfRefresh k =>
    let d := ownerDie s k.val
    s.pkg.gated.contains (.retention (Fin.ofNat 4 d)) && (if d = ownDie s then tolerates s 200000 else true) &&
      s.mem.mc[k].waiting.isEmpty && s.mem.mc[k].marked.isEmpty && !s.mem.homeHeld.any (itemAt k.val)

/-- POWER_STATE_ENTRY. -/
def execPowerStateEntry (p : PowerState) (s : State) : Out :=
  .next (if mayEnter s p && !s.pkg.gated.contains p then withPkg { s.pkg with gated := s.pkg.gated ++ [p] } s else s)

/-- A unit leaves its state; a core that wakes takes its die out of rail retention. -/
def wakes (p g : PowerState) : Bool :=
  match p, g with
  | .clockGated c, .retention d => c.val / 128 == d.val
  | _, _ => p == g

/-- WAKE_EVENT. -/
def execWakeEvent (p : PowerState) (s : State) : Out :=
  .next (withPkg { s.pkg with gated := s.pkg.gated.filter (fun g => !(g == p || wakes p g)) } s)

/-! ### Time and bring-up (R312, R318) -/

/-- PTP_MESSAGE, of the package's domain: an offset to remove by slewing; above 100 µs it sets TLOS. -/
def execPtpMessage (offset : Int) (s : State) : Out :=
  .next (withPkg { s.pkg with timeOff := offset, tlos := s.pkg.tlos || decide (100000 < offset.natAbs) } s)

/-- The clock goes on by one step: slewing removes at most 200 ppm, one nanosecond for every 5,000. -/
def tick (s : State) : State :=
  let run := s.pkg.slew + s.pace
  let a : Int := min (s.pkg.timeOff.natAbs : Int) (run / 5000 : Nat)
  let d : Int := if s.pkg.timeOff < 0 then -a else a
  withPkg { s.pkg with time := s.pkg.time + BitVec.ofInt 64 (s.pace + d), timeOff := s.pkg.timeOff - d, slew := run % 5000 } s

/-- A frame's keys in this package's memory. -/
def inFrame (s : State) (frame k : Nat) : Bool :=
  k / 2 ^ 48 == ownNode s && k % 2 ^ 48 / Config.pageBytes == frame

/-- Every line of a listed frame is written as zero with poison (R299). -/
def poisonFrame (s : State) (frame : Nat) : State :=
  let s := { s with mem := { s.mem with mem := s.mem.mem.filter (fun (c : Host.Cell) => !inFrame s frame c.1) } }
  (frameLines (frame * Config.pageBytes)).foldl (fun s l => poisonLine (memKey (ownNode s) l) s) s

/-- A number of one of two nodes becomes that of the other. -/
def swapNode (a b n : Nat) : Nat := if n = a then b else if n = b then a else n

/-- The same key at the other node, where each node has `w` keys. -/
def rekey (a b w k : Nat) : Nat := swapNode a b (k / w) * w + k % w

/-- The package takes another node id: what this model keys by node follows. -/
def renode (n : BitVec 12) (s : State) : State :=
  if n = s.sys.nodeid then s
  else
    let f := rekey s.sys.nodeid.toNat n.toNat
    { s with
      sys := { s.sys with nodeid := n }
      mem := { s.mem with
        mem := s.mem.mem.foldl (fun m (c : Host.Cell) => setByte m (f (2 ^ 48) c.1) c.2) []
        poison := s.mem.poison.foldl (fun l k => sinsert (f (2 ^ 48) k) l) []
        dirty := s.mem.dirty.foldl (fun l k => sinsert (f (2 ^ 48) k) l) [] }
      fab := { s.fab with
        peers := s.fab.peers.map (fun (q : Peer) => { q with node := swapNode s.sys.nodeid.toNat n.toNat q.node })
        farSpad := s.fab.farSpad.foldl (fun m (c : Host.Cell) => setByte m (f (512 * 2 ^ 23) c.1) c.2) []
        farSems := s.fab.farSems.foldl (fun m x => tset 0 m (f (512 * 2048) x.1) x.2) [] } }

/-- NODE of PODCFG follows the node id (R332). -/
def podcfgWith (v : Word) (n : BitVec 12) : Word := (v &&& 0xF00FF000) ||| n.setWidth 64

/-- Links trained at bring-up: those that fail are retired, an edge of an axis that is no ring stays down (R332), and the others name
the node at their other end (R324). -/
def bringLinks (s : State) (down : BitVec 24) (now : Word) : Vector Link 24 :=
  Vector.ofFn (fun p : Fin 24 =>
    { Link.reset with
      state := if edgePort s p then .down else if down.getLsbD p.val then .retired else .up
      peer := BitVec.ofNat 12 ((neighbour s (portAxis p) (portMinus p)).getD 0)
      since := now, drained := now })

/-- POWER_ON (R318): steps 1 to 7, the self-test of every core's array among them; a step that fails sets its PKGSTAT bit. A part shut
down by a trip must be reset first (R315). -/
def execPowerOn (b : BringUp) (s : State) : Out :=
  .next (if s.pkg.broughtUp || s.pkg.shut then s
    else
      let s := renode b.node s
      let p := s.pkg
      let s := { s with fab := { s.fab with podcfg := podcfgWith s.fab.podcfg b.node } }
      let others := b.badOthers.filter (fun x => x.1 != s.sys.coreid && x.2 != 0)
      let bad := b.badQuads != 0 || !others.isEmpty
      let s := { s with
        links := bringLinks s b.linksDown (if b.lock then b.time else p.time)
        store := { s.store with fenced := b.badQuads }
        thatch := { s.thatch with
          partnersReduced := s.thatch.partnersReduced || others.any (fun x => x.1.toNat / 4 == ownCore s / 4) }
        pkg := { p with
          broughtUp := true, own := 0, stackError := b.stacksFailed, ddl := b.dieLinksDown
          ddlStat := p.ddlStat || b.dieLinksDown != 0
          lnk := p.lnk || b.linksDown != 0
          qf := p.qf || bad
          repl := p.repl || b.dieLinksDown != 0 || b.linksDown != 0 || bad
          tlos := p.tlos || !b.lock
          time := if b.lock then b.time else p.time
          timeOff := 0
          ptpDomain := b.domain
          fencemap := others.foldl (fun (t : Table (BitVec 4)) (x : BitVec 9 × BitVec 4) => tset 0 t x.1.toNat x.2)
            (tset 0 p.fencemap (ownCore s) b.badQuads) } }
      s.mem.bpl.toList.flatten.foldl poisonFrame s)

/-! ### The management interface (R316) -/

/-- A register that the host reads through the management interface, with no effect. -/
inductive HostReg where
  | pkgstat
  | pwrbud
  | cecnt (die : Fin 4)
  | faq (die : Fin 4)
  | bpl (die : Fin 4)
  | podcfg
  | link (port : Fin 24)

/-- STATE of a link (R324). -/
def linkCode : LinkState → Nat
  | .down => 0 | .training => 1 | .up => 2 | .retraining => 3 | .retired => 4 | .planned => 5

/-- RXV or TXV. -/
def validBits (v : Vector KeySlot 2) : Nat := v[0].valid.toNat + 2 * v[1].valid.toNat

/-- The status register of a link end (R324). -/
def linkWord (l : Link) : Word :=
  BitVec.ofNat 64 (l.rtcnt.toNat * 2 ^ 40 + l.bkt.toNat * 2 ^ 36 + l.kwarn.toNat * 2 ^ 35 + l.khold.toNat * 2 ^ 34
    + validBits l.rx * 2 ^ 32 + validBits l.tx * 2 ^ 30 + l.txks.toNat * 2 ^ 29 + l.enreq.toNat * 2 ^ 28 + l.spd.toNat * 2 ^ 22
    + l.wid.toNat * 2 ^ 20 + linkCode l.state * 2 ^ 16 + l.peer.toNat)

/-- What a read of the management interface gives (R316, R324, R332): the words of the register. A read changes nothing, so it is
no event. -/
def hostRead (s : State) : HostReg → List Word
  | .pkgstat => [pkgstatWord s]
  | .pwrbud => [BitVec.ofNat 64 s.pkg.pwrbud]
  | .cecnt d => [BitVec.ofNat 64 s.pkg.cecnt[d]]
  | .faq d =>
    let q := s.mem.faq[d]
    let w := (q.entries.head?.map faqWords).getD (0, 0)
    [w.1, w.2, BitVec.ofNat 64 q.overflow]
  | .bpl d => s.mem.bpl[d].map (BitVec.ofNat 64)
  | .podcfg => [s.fab.podcfg]
  | .link p => [linkWord s.links[p]]

/-- PWRBUD_WRITE: 1,000 to 3,000 W; another value is not taken. -/
def execPwrbudWrite (w : Nat) (s : State) : Out :=
  let s := wakeAll s
  .next (if 1000 ≤ w ∧ w ≤ 3000 then withPkg { s.pkg with pwrbud := w } s else s)

/-- CECNT_CLEAR: read and clear. -/
def execCecntClear (die : Fin 4) (s : State) : Out :=
  let s := wakeAll s
  .next (answer (.cecnt die s.pkg.cecnt[die]) (withPkg { s.pkg with cecnt := s.pkg.cecnt.set die 0 } s))

/-- FAQ_POP: the head entry and the overflow count. -/
def execFaqPop (die : Fin 4) (s : State) : Out :=
  let s := wakeAll s
  let q := s.mem.faq[die]
  .next (answer (.faq die (q.entries.head?.map faqWords) q.overflow)
    { s with mem := { s.mem with faq := s.mem.faq.set die { q with entries := q.entries.tail } } })

/-- BPL_ADD. -/
def execBplAdd (frame : Nat) (s : State) : Out := .next (bplInsert frame 0x1FF (wakeAll s))

/-- BPL_REMOVE. -/
def execBplRemove (frame : Nat) (s : State) : Out :=
  let s := wakeAll s
  let d := bplShare frame
  .next { s with mem := { s.mem with bpl := s.mem.bpl.set d (serase frame s.mem.bpl[d]) } }

/-- THLOG_READ. -/
def execThlogRead (s : State) : Out := .next (answer (.thlog s.pkg.thlog) (wakeAll s))

/-- FENCEMAP_READ. -/
def execFencemapRead (s : State) : Out := .next (answer (.fencemap s.pkg.fencemap) (wakeAll s))

/-- PKGSTAT_CLEAR: the host reads PKGSTAT and clears the bits of the mask; OWN follows the stacks. -/
def execPkgstatClear (mask : Word) (s : State) : Out :=
  let s := wakeAll s
  let p := s.pkg
  .next (answer (.pkgstat (pkgstatWord s)) (withPkg { p with
    trip := p.trip && !mask.getLsbD 8, tlos := p.tlos && !mask.getLsbD 7, bpf := p.bpf && !mask.getLsbD 6
    ddlStat := p.ddlStat && !mask.getLsbD 5, lnk := p.lnk && !mask.getLsbD 4, qf := p.qf && !mask.getLsbD 3
    repl := p.repl && !mask.getLsbD 0 } s))

end Sys2Proof.Machine
end

