-- ==== Sys2Proof/Machine/Links.lean ====
section
/-! DEFINITION. Links (spec/17_fabric_links.md R319 to R335): flits, delivery and replay, retrains, the leaky bucket,
retirement, keys and their switch, circuit moves, and the pod's shape. Packets between other nodes pass through here; what
this core's own packets ask is in Machine/Fabric.lean and Machine/Arrival.lean (DESIGN CHOICE, log entry 4). -/

namespace Sys2Proof.Machine

/-! ### Flits (R319) -/

/-- Bits [lo + n - 1 : lo] of a flit. -/
def flitBits (raw : BitVec 2048) (lo n : Nat) : Nat := bitsOf raw.toNat lo n

def flitAck (raw : BitVec 2048) : BitVec 16 := raw.extractLsb' 112 16
def flitSeq (raw : BitVec 2048) : BitVec 16 := raw.extractLsb' 96 16
def flitCtr (raw : BitVec 2048) : Nat := flitBits raw 64 32
def flitType (raw : BitVec 2048) : Nat := flitBits raw 28 4
def flitKs (raw : BitVec 2048) : Bool := raw.getLsbD 23
def flitEnc (raw : BitVec 2048) : Bool := raw.getLsbD 22
def flitNak (raw : BitVec 2048) : Bool := raw.getLsbD 21
def flitPayload (raw : BitVec 2048) : BitVec 1792 := raw.extractLsb' 128 1792

/-- Bytes of a number, least significant first, as numbers. -/
def natBytes : Nat → Nat → List Nat
  | 0, _ => []
  | n + 1, v => (v % 256) :: natBytes n (v / 256)

def ofNatBytes : List Nat → Nat
  | [] => 0
  | b :: t => b + 256 * ofNatBytes t

def headerBytes (raw : BitVec 2048) : List Nat := natBytes 16 (flitBits raw 0 128)
def payloadBytes (raw : BitVec 2048) : List Nat := natBytes 224 (flitPayload raw).toNat
def tagBytes (raw : BitVec 2048) : List Nat := natBytes 16 (flitBits raw 1920 128)

def flitData : Nat := 1
def flitCtrl : Nat := 2
def flitMarker : Nat := 3
def flitTrain : Nat := 4

/-- A flit from its header, payload and tag. -/
def packFlit (header payload tag : Nat) : BitVec 2048 := BitVec.ofNat 2048 (header + payload * 2 ^ 128 + tag * 2 ^ 1920)

/-- The tag of a plain flit: the CRC, then zeros. -/
def plainTag (header payload : Nat) : Nat := crc64 (natBytes 16 header ++ natBytes 224 payload)

def plainFlit (header payload : Nat) : BitVec 2048 := packFlit header payload (plainTag header payload)

/-- The IV: salt, then counter (R327). -/
def ivOf (k : KeySlot) (ctr : Nat) : List Nat := beBytes 4 k.salt.toNat ++ beBytes 8 ctr

def keyBytes (k : KeySlot) : List Nat := beBytes 32 k.key.toNat

/-- An encrypted flit. -/
def cipherFlit (k : KeySlot) (ctr header payload : Nat) : BitVec 2048 :=
  let c := gcmCrypt (keyBytes k) (ivOf k ctr) (natBytes 224 payload)
  packFlit header (ofNatBytes c) (ofNatBytes (gcmTag (keyBytes k) (ivOf k ctr) (natBytes 16 header) c))

/-- The header of a DATA or MARKER flit. -/
def dataHeader (q : FlitReq) (type seq ctr : Nat) (ks enc : Bool) : Nat :=
  seq * 2 ^ 96 + ctr % 2 ^ 32 * 2 ^ 64 + q.dst.toNat * 2 ^ 52 + q.src.toNat * 2 ^ 40 + q.len.toNat * 2 ^ 32 + type * 2 ^ 28
    + q.vc.toNat * 2 ^ 26 + q.first.toNat * 2 ^ 25 + q.last.toNat * 2 ^ 24 + ks.toNat * 2 ^ 23 + enc.toNat * 2 ^ 22

/-- A CTRL flit: ACK, NAK, and in payload byte 0, its one valid byte, the receive slots that are valid. -/
def ctrlFlit (l : Link) (nak : Bool) : BitVec 2048 :=
  plainFlit (l.rxSeq.toNat * 2 ^ 112 + 1 * 2 ^ 32 + flitCtrl * 2 ^ 28 + nak.toNat * 2 ^ 21) (validBits l.rx)

def sendCtrl (nak : Bool) (l : Link) : Link :=
  { l with ctrl := l.ctrl ++ [ctrlFlit l nak], nakOut := l.nakOut || nak }

/-! ### One link of the state -/

def withLink (p : Fin 24) (l : Link) (s : State) : State := { s with links := s.links.set p l }

def slotIx (b : Bool) : Fin 2 := if b then 1 else 0

/-- The active transmit slot. -/
def txSlot (l : Link) : KeySlot := l.tx[slotIx l.txks]

/-- A slot has no invocation left for a DATA flit: the last counter value, 0xFFFF_FFFF, is the marker's, which is encrypted under
the old slot too (R328, R329; DEDUCED, log entry 40). -/
def exhausted (k : KeySlot) : Bool := decide (2 ^ 32 - 1 ≤ k.ctr)

/-- KHOLD, KWARN, and the switch at exhaustion (R328). -/
def settleKeys (l : Link) : Link :=
  let k := txSlot l
  let other := l.tx[slotIx (!l.txks)]
  let out := k.valid && exhausted k
  { l with
    kwarn := k.valid && decide (2 ^ 31 ≤ k.ctr)
    khold := out || (l.enreq && !k.valid && !other.valid)
    switching := l.switching || (out && other.valid && l.peerRx.getLsbD (slotIx (!l.txks)).val) }

/-! ### Whole packets that pass through (R334) -/

/-- The flits of a virtual channel: its buffer (R335). -/
def ofVc (v : BitVec 2) (q : List FlitReq) : List FlitReq := q.filter (fun r => r.vc == v)

/-- The given flits, of one packet, go to the front of the buffer of their virtual channel: behind the rest of a packet whose first flits
are sent. -/
def insertAhead (fs q : List FlitReq) : List FlitReq :=
  match fs with
  | [] => q
  | f :: _ =>
    let mine := ofVc f.vc q
    let head := mine.takeWhile (fun r => !r.first)
    head ++ fs ++ mine.drop head.length ++ q.filter (fun r => r.vc != f.vc)

/-- A whole packet that arrived for another node goes on; one that finds no route is refused (R334). -/
def forward (port : Fin 24) (pkt : List FlitReq) (s : State) : State :=
  match pkt.head? with
  | none => s
  | some f =>
    if f.dst.toNat = ownNode s then s
    else
      match routePort s f.src.toNat f.dst.toNat with
      | none => withLink port { s.links[port] with failed := s.links[port].failed ++ [pkt] } s
      | some p =>
        let p := queuePort s p f.src f.dst
        queueFlits p (pkt.map (fun r => { r with vc := datelineVc s port p r.vc })) s

/-! ### Sending (R321, R327 to R329) -/

/-- A new DATA or MARKER flit enters the replay buffer and goes out. -/
def sendNew (q : FlitReq) (now : Word) (l : Link) : Link :=
  let k := txSlot l
  let enc := k.valid
  let type := if q.marker then flitMarker else flitData
  let h := dataHeader q type l.nextSeq.toNat (if enc then k.ctr else 0) (enc && l.txks) enc
  let raw := if enc then cipherFlit k k.ctr h q.payload.toNat else plainFlit h q.payload.toNat
  { l with
    tx := if enc then l.tx.set (slotIx l.txks) { k with ctr := k.ctr + 1 } else l.tx
    buffer := l.buffer ++ [{ seq := l.nextSeq, raw := raw, last := q.last, req := q }]
    nextSeq := l.nextSeq + 1
    advanced := if l.buffer = [] then now else l.advanced
    sent := l.sent ++ [raw] }

/-- The marker of a switch, under the old slot; the next flit is under the new one. -/
def sendMarker (now : Word) (l : Link) : Link :=
  let new := !l.txks
  let q : FlitReq :=
    { dst := 0, src := 0, vc := 0, first := false, last := false, len := 1, marker := true
      payload := BitVec.ofNat 1792 new.toNat }
  { sendNew q now l with txks := new, switching := false }

/-- Send a buffered flit again, unchanged. -/
def sendAgain (n : BitVec 16) (rest : List (BitVec 16)) (l : Link) : Link :=
  let raw := ((l.buffer.find? (fun f => f.seq == n)).map SentFlit.raw).getD 0
  { l with
    resend := rest, sent := l.sent ++ [raw]
    buffer := l.buffer.map (fun f => if f.seq = n then { f with resent := true } else f) }

/-- The switch may go out: the new slot is loaded and the peer has shown it valid. -/
def markerReady (l : Link) : Bool :=
  l.switching && (txSlot l).valid && decide ((txSlot l).ctr < 2 ^ 32) && l.tx[slotIx (!l.txks)].valid && l.peerRx.getLsbD (slotIx (!l.txks)).val

/-- The next flit of a link that is up: CTRL, then replays, then a marker, then new DATA, of the virtual channel that is served. Which one
that is is the device's own choice: the event names it (R335; DESIGN CHOICE, log entry 37). -/
def transmit (vc : BitVec 2) (now : Word) (l : Link) : Link :=
  match l.ctrl with
  | c :: rest => { l with ctrl := rest, sent := l.sent ++ [c] }
  | [] =>
    match l.resend with
    | n :: rest => sendAgain n rest l
    | [] =>
      if l.moving.isSome || decide (512 ≤ l.buffer.length) then l
      else if markerReady l then settleKeys (sendMarker now l)
      else if l.khold then l
      else
        match ofVc vc l.queue with
        | [] => l
        | q :: _ => settleKeys (sendNew q now { l with queue := l.queue.erase q })

/-- FLIT_TRANSMIT (R321, R335). -/
def execFlitTransmit (pv : PortVc) (s : State) : Out :=
  let l := s.links[pv.port]
  .next (if l.state = .up then withLink pv.port (transmit pv.vc s.pkg.time l) s else s)

/-! ### Retrains and retirement (R322 to R326) -/

/-- Retire the link: steps 1 to 3 of R326. -/
def retireLink (port : Fin 24) (s : State) : State :=
  let l := s.links[port]
  let s := withLink port { l with state := .retired, partialPkt := Vector.replicate 4 [], noticeDue := true, since := s.pkg.time } s
  let s := { s with pkg := { s.pkg with lnk := true, repl := true } }
  answer (.linkNotice port l.rxSeq) s

/-- One retrain for RTCNT and the bucket; an overflow retires the link. -/
def countRetrain (port : Fin 24) (st : LinkState) (s : State) : State :=
  let l := s.links[port]
  let l : Link := { l with
    state := st, since := s.pkg.time
    rtcnt := if l.rtcnt = 255 then 255 else l.rtcnt + 1
    bkt := if l.bkt = 8 then 8 else l.bkt + 1 }
  let full := s.links[port].bkt == 8
  let s := withLink port l s
  if full then retireLink port s else s

/-- The sender acts on a NAK, or as if it had one: every buffered flit goes again; the first missing one, resent before,
has failed a replay, and the third failure retrains the link. -/
def replayFrom (port : Fin 24) (s : State) : State :=
  let l := s.links[port]
  match l.buffer with
  | [] => s
  | f :: rest =>
    let f' : SentFlit := if f.resent then { f with fails := f.fails + 1, resent := false } else f
    let l : Link := { l with
      buffer := f' :: rest, resend := l.buffer.map SentFlit.seq, advanced := s.pkg.time }
    let s := withLink port l s
    if 3 ≤ f'.fails then
      countRetrain port .retraining (withLink port { l with buffer := { f' with fails := 0 } :: rest } s)
    else s

/-- Flits up to `a` are acknowledged. -/
def ackUpTo (a : BitVec 16) (now : Word) (l : Link) : Link :=
  let n := (a - l.acked).toNat
  if n = 0 ∨ l.buffer.length < n then l
  else
    let kept := (l.buffer.take n).foldl (fun k f =>
      if f.req.marker then k else if f.last then k.filter (fun r => r.vc != f.req.vc) else k ++ [f.req]) l.kept
    { l with
      acked := a, buffer := l.buffer.drop n, kept := kept, advanced := now
      resend := l.resend.filter (fun q => (l.buffer.drop n).any (fun f => f.seq == q)) }

/-! ### Receiving (R320, R321, R329) -/

/-- The whole counter of an encrypted flit: its low bits, with the high bits of the slot's own count (R327). -/
def fullCounter (k : KeySlot) (lo : Nat) : Nat :=
  let hi := k.ctr / 2 ^ 32
  let c := k.ctr % 2 ^ 32
  if c + 2 ^ 31 < lo ∧ 0 < hi then (hi - 1) * 2 ^ 32 + lo
  else if lo + 2 ^ 31 < c then (hi + 1) * 2 ^ 32 + lo
  else hi * 2 ^ 32 + lo

/-- The slot that a flit names. -/
def rxSlotOf (l : Link) (raw : BitVec 2048) : KeySlot := l.rx[slotIx (flitKs raw)]

/-- The CRC or the tag is right. -/
def tagGood (l : Link) (raw : BitVec 2048) : Bool :=
  if flitEnc raw then
    let k := rxSlotOf l raw
    k.valid && gcmTag (keyBytes k) (ivOf k (fullCounter k (flitCtr raw))) (headerBytes raw) (payloadBytes raw) == tagBytes raw
  else flitBits raw 1920 128 == plainTag (flitBits raw 0 128) (flitPayload raw).toNat

def carriesSeq (raw : BitVec 2048) : Bool := flitType raw == flitData || flitType raw == flitMarker

/-- A flit is corrupted (R320). -/
def flitBad (l : Link) (raw : BitVec 2048) (fecOk : Bool) : Bool :=
  !fecOk || decide (5 ≤ flitType raw) || flitBits raw 0 21 != 0 || (carriesSeq raw && !flitEnc raw && l.enreq) || !tagGood l raw

/-- The payload, decrypted. -/
def openPayload (l : Link) (raw : BitVec 2048) : BitVec 1792 :=
  if flitEnc raw then
    let k := rxSlotOf l raw
    BitVec.ofNat 1792 (ofNatBytes (gcmCrypt (keyBytes k) (ivOf k (fullCounter k (flitCtr raw))) (payloadBytes raw)))
  else flitPayload raw

def flitReqOf (l : Link) (raw : BitVec 2048) : FlitReq :=
  { dst := raw.extractLsb' 52 12, src := raw.extractLsb' 40 12, vc := raw.extractLsb' 26 2, first := raw.getLsbD 25
    last := raw.getLsbD 24, len := raw.extractLsb' 32 8, marker := flitType raw == flitMarker, payload := openPayload l raw }

/-- The slot's count goes past the flit's counter. -/
def countRx (raw : BitVec 2048) (l : Link) : Link :=
  if flitEnc raw then
    let k := rxSlotOf l raw
    { l with rx := l.rx.set (slotIx (flitKs raw)) { k with ctr := max k.ctr (fullCounter k (flitCtr raw) + 1) } }
  else l

/-- The buffer of a flit's virtual channel (R335). -/
def vcIx (q : FlitReq) : Fin 4 := Fin.ofNat 4 q.vc.toNat

/-- The next flit in order is accepted: a marker ends the old slot, a LAST flit hands the packet of its virtual
channel up. -/
def acceptFlit (port : Fin 24) (raw : BitVec 2048) (s : State) : State :=
  let l := s.links[port]
  let q := flitReqOf l raw
  let l := countRx raw { l with rxSeq := flitSeq raw, nakOut := false }
  if q.marker then
    let old := slotIx (!q.payload.getLsbD 0)
    withLink port (sendCtrl false { l with rx := l.rx.set old { l.rx[old] with valid := false } }) s
  else if q.last then
    let pkt := l.partialPkt[vcIx q] ++ [q]
    let l : Link := sendCtrl false { l with partialPkt := l.partialPkt.set (vcIx q) [], delivered := l.delivered ++ [pkt] }
    forward port pkt (withLink port l s)
  else withLink port (sendCtrl false { l with partialPkt := l.partialPkt.set (vcIx q) (l.partialPkt[vcIx q] ++ [q]) }) s

/-- A corrupted flit: NAK for the next SEQ, silence for a later one while a NAK is outstanding, nothing for CTRL and IDLE. -/
def badFlit (raw : BitVec 2048) (l : Link) : Link :=
  if flitType raw = 0 ∨ flitType raw = flitCtrl ∨ flitType raw = flitTrain then l
  else if l.nakOut ∧ flitSeq raw ≠ l.rxSeq + 1 then l
  else sendCtrl true l

/-- A link that starts over: sequence numbers as at reset. -/
def freshLink (l : Link) : Link :=
  { l with nextSeq := 0, acked := 0xFFFF, rxSeq := 0xFFFF, nakOut := false, partialPkt := Vector.replicate 4 [] }

/-- STATE 5: keys and counters are cleared, and the link starts over with its new peer. -/
def planned (peer : BitVec 12) (now : Word) (l : Link) : Link :=
  settleKeys (freshLink { l with
    state := .planned, peer := peer, tx := Vector.replicate 2 {}, rx := Vector.replicate 2 {}, peerRx := 0
    switching := false, moving := none, ctrl := [], since := now })

/-- A circuit move takes the link down once its replay buffer is empty (R333). -/
def endMove (now : Word) (l : Link) : Link :=
  match l.moving with
  | some peer => if l.buffer = [] then planned peer now l else l
  | none => l

/-- A CTRL flit: the peer's slots, the acknowledgement, a circuit move that waited for it, a replay. -/
def takeCtrl (port : Fin 24) (raw : BitVec 2048) (s : State) : State :=
  let l := ackUpTo (flitAck raw) s.pkg.time s.links[port]
  let s := withLink port (endMove s.pkg.time (settleKeys { l with peerRx := raw.extractLsb' 128 2 })) s
  if flitNak raw then replayFrom port s else s

/-- An intact DATA or MARKER flit. -/
def takeData (port : Fin 24) (raw : BitVec 2048) (s : State) : State :=
  let l := s.links[port]
  if flitSeq raw = l.rxSeq + 1 then acceptFlit port raw s
  else if (l.rxSeq - flitSeq raw).toNat < 2 ^ 15 then withLink port (sendCtrl false l) s
  else if l.nakOut then s
  else withLink port (sendCtrl true l) s

/-- FLIT_ARRIVAL (R320, R321). A TRAIN flit on a link that is up begins a retrain that the peer asks for (R323; DEDUCED, log entry
40). -/
def execFlitArrival (port : Fin 24) (raw : BitVec 2048) (fecOk : Bool) (s : State) : Out :=
  let l := s.links[port]
  .next (if l.state ≠ .up then s
    else if flitBad l raw fecOk then withLink port (badFlit raw l) s
    else if flitType raw = flitCtrl then takeCtrl port raw s
    else if flitType raw = flitTrain then countRetrain port .retraining s
    else if carriesSeq raw then takeData port raw s
    else s)

/-- ACK_TIMEOUT (R321): 2 µs without an advance while flits are buffered. -/
def execAckTimeout (port : Fin 24) (s : State) : Out :=
  let l := s.links[port]
  .next (if l.state = .up ∧ l.buffer ≠ [] ∧ (l.advanced + 2000).ule s.pkg.time then replayFrom port s else s)

/-! ### Training (R323) -/

/-- The end whose lane map is announced: the lower node id, or the lower port if the ids are equal. -/
def mapOf (a b : LaneView) : BitVec 24 :=
  if a.node < b.node ∨ (a.node = b.node ∧ a.port < b.port) then a.lanes else b.lanes

/-- Training ends: the link comes up with the views resolved, and its buffer goes again. -/
def linkUp (peer : BitVec 12) (wid : Fin 3) (spd : Fin 2) (lanes : BitVec 24) (now : Word) (l : Link) : Link :=
  { l with
    state := .up, peer := peer, wid := BitVec.ofNat 2 wid.val, spd := BitVec.ofNat 2 spd.val, lanes := lanes
    resend := l.buffer.map SentFlit.seq, since := now, advanced := now }

/-- RETRAIN_COMPLETE: the ends' views of width, speed and lane map. -/
def execRetrainComplete (port : Fin 24) (mine peer : LaneView) (verified : Bool) (s : State) : Out :=
  let l := s.links[port]
  let agree := mine.wid == peer.wid && mine.spd == peer.spd && mine.lanes == peer.lanes
  .next (if l.state ≠ .training ∧ l.state ≠ .retraining then s
    else if agree then withLink port (linkUp peer.node mine.wid mine.spd mine.lanes s.pkg.time l) s
    else if verified then
      withLink port (linkUp peer.node (max mine.wid peer.wid) (max mine.spd peer.spd) (mapOf mine peer) s.pkg.time l) s
    else countRetrain port .down s)

/-- TRAINING_RESTART: 1 ms after the link went down; or a link in planned down trains with its new peer (R333). A port without a
circuit stays down (R332). -/
def execTrainingRestart (port : Fin 24) (s : State) : Out :=
  let l := s.links[port]
  .next (if edgePort s port then s
    else if l.state = .planned ∨ (l.state = .down ∧ s.pkg.broughtUp = true ∧ (l.since + 1000000).ule s.pkg.time) then
      withLink port { l with state := .training, since := s.pkg.time } s
    else s)

/-- BUCKET_DRAIN (R325): every 10 minutes of TIME while up. -/
def execBucketDrain (port : Fin 24) (s : State) : Out :=
  let l := s.links[port]
  .next (if l.state = .up ∧ (l.drained + 600000000000).ule s.pkg.time then
      withLink port { l with bkt := if l.bkt = 0 then 0 else l.bkt - 1, drained := s.pkg.time } s
    else s)

/-! ### After a retirement (R326) -/

/-- The flits of a retired link that its packets still need, with whether each lies beyond the SEQ of the notice. -/
def sentFlits (l : Link) (seq : BitVec 16) : List (FlitReq × Bool) :=
  l.kept.map (fun q => (q, false)) ++
    (l.buffer.filter (fun f => !f.req.marker)).map (fun f => (f.req, decide ((seq - f.seq).toNat ≥ 2 ^ 15)))

/-- Of the flits of one virtual channel, drop the packets whose LAST flit does not lie beyond the SEQ; what stays is sent again whole. -/
def beyond : List (FlitReq × Bool) → List FlitReq → List FlitReq
  | [], acc => acc
  | (q, late) :: t, acc =>
    if q.last then (if late then acc ++ [q] ++ t.map Prod.fst else beyond t []) else beyond t (acc ++ [q])

/-- Cut flits into packets. -/
def packetsOfFlits : List FlitReq → List FlitReq → List (List FlitReq)
  | [], acc => if acc = [] then [] else [acc]
  | q :: t, acc => if q.last then (acc ++ [q]) :: packetsOfFlits t [] else packetsOfFlits t (acc ++ [q])

/-- The flits of a virtual channel that a retired link still has to send again. -/
def againOf (l : Link) (seq : BitVec 16) (v : BitVec 2) : List FlitReq :=
  beyond ((sentFlits l seq).filter (fun x => x.1.vc == v)) []

/-- The packets of each virtual channel, in that channel's order, from its flits. -/
def packetsByVc (f : BitVec 2 → List FlitReq) : List (List FlitReq) :=
  (List.range 4).flatMap (fun v => packetsOfFlits (f (BitVec.ofNat 2 v)) [])

/-- What goes over other links once the notice has come: what is sent again, then what still waits. -/
def toReroute (l : Link) (seq : BitVec 16) : List (List FlitReq) := packetsByVc (fun v => againOf l seq v ++ ofVc v l.queue)

/-- The flits of a channel that wait behind the first flits of their packet. -/
def begunOf (l : Link) (v : BitVec 2) : List FlitReq := (ofVc v l.queue).takeWhile (fun r => !r.first)

/-- Without a notice, the packets that would go again, and those that are begun, are lost; whole ones that wait are not. -/
def toLose (l : Link) : List (List FlitReq) := packetsByVc (fun v => againOf l l.acked v ++ begunOf l v)

def toKeep (l : Link) : List (List FlitReq) := packetsByVc (fun v => (ofVc v l.queue).drop (begunOf l v).length)

/-- The virtual channel of a packet that takes another port than one of a retired link: the dateline bit of the hop that it now
makes, or one that it has kept from an earlier hop of the axis (R335). -/
def reroutedVc (s : State) (old new : Fin 24) (vc : BitVec 2) : BitVec 2 :=
  (vc &&& 2) ||| (if crosses s new || (vc.getLsbD 0 && !crosses s old) then 1 else 0)

/-- The port of a packet of a retired link: another of its direction group, else as it is routed now. -/
def otherPort (s : State) (port : Fin 24) (src dst : Nat) : Option (Fin 24) :=
  match groupPort (groupPorts s (portAxis port) (portMinus port)) src dst with
  | some p => some p
  | none => routePort s src dst

/-- The body of a packet that a record sends. -/
def ofRecord : PktBody → Bool
  | .release _ | .cancel _ | .expired _ | .refused _ => false
  | _ => true

/-- A packet of this package is lost: its record fails with REMOTE (R326, R348). -/
def losePacket (s : State) (p : Packet) : State :=
  let s := { s with fab := { s.fab with net := s.fab.net.erase p } }
  if ownPacket s p && ofRecord p.body then (match findEntry s p.srcSlot with | some e => packetFails e s | none => s) else s

/-- The packet of this package that flits belong to. -/
def packetOf (s : State) (f : FlitReq) : Option Packet := s.fab.net.find? (fun p => p.num.isSome && p.num == f.own)

/-- A packet that finds no link fails: one of this package at its record, another at this link. -/
def failPacket (port : Fin 24) (pkt : List FlitReq) (s : State) : State :=
  match pkt.head?.bind (packetOf s) with
  | some p => losePacket s p
  | none => withLink port { s.links[port] with failed := s.links[port].failed ++ [pkt] } s

/-- A packet of this package goes by another port. -/
def movePacket (own : Option Nat) (port : Fin 24) (vc : BitVec 2) (s : State) : State :=
  { s with fab := { s.fab with
    net := s.fab.net.map (fun p => if p.num.isSome && p.num == own then { p with port := some port, vc := vc } else p) } }

/-- Send a whole packet again over another link, ahead of what is queued there; one that finds no link fails. -/
def rerouteOne (port : Fin 24) (s : State) (pkt : List FlitReq) : State :=
  match pkt.head? with
  | none => s
  | some f =>
    match otherPort s port f.src.toNat f.dst.toNat with
    | some p =>
      let pkt := pkt.map (fun (r : FlitReq) => { r with vc := reroutedVc s port p r.vc })
      movePacket f.own p (reroutedVc s port p f.vc) (withLink p { s.links[p] with queue := insertAhead pkt s.links[p].queue } s)
    | none => failPacket port pkt s

/-- Send whole packets again over the other links of the group, in their order. -/
def reroute (port : Fin 24) (pkts : List (List FlitReq)) (s : State) : State := pkts.reverse.foldl (rerouteOne port) s

/-- The sender of a retired link holds nothing more. -/
def emptied (l : Link) : Link := { l with queue := [], buffer := [], kept := [], resend := [], ctrl := [], noticeDue := false }

/-- The link goes back into training: with BKT clear and sequence numbers as at reset. -/
def backInService (now : Word) (l : Link) : Link :=
  freshLink { l with bkt := 0, state := .training, since := now, drained := now, restart := false }

/-- The retirement is complete: a link whose BKT the host has cleared meanwhile goes back into training. -/
def endRetire (port : Fin 24) (s : State) : State :=
  let l := s.links[port]
  if l.restart then withLink port (backInService s.pkg.time l) s else s

/-- LINK_STATE_NOTICE: the peer's notice names the last SEQ that it accepted. A notice for a link that this end has not retired has no
effect (R326 does not say; DESIGN CHOICE, log entry 40). -/
def execLinkStateNotice (port : Fin 24) (seq : BitVec 16) (s : State) : Out :=
  let l := s.links[port]
  .next (if l.state = .retired ∧ l.noticeDue = true then
      endRetire port (reroute port (toReroute l seq) (withLink port (emptied l) s))
    else s)

/-- NOTICE_TIMEOUT: no notice within 1 ms; the packets that would go again fail, this package's own among them with REMOTE at
their records, those still queued take another link. -/
def execNoticeTimeout (port : Fin 24) (s : State) : Out :=
  let l := s.links[port]
  .next (if l.state = .retired ∧ l.noticeDue = true ∧ (l.since + 1000000).ule s.pkg.time then
      let s := (toLose l).foldl (fun s pkt => failPacket port pkt s) (withLink port (emptied l) s)
      endRetire port (reroute port (toKeep l) s)
    else s)

/-- BKT_CLEAR: the host returns a retired link to service, once the steps of its retirement are complete (DEDUCED, log entry
40). -/
def execBktClear (port : Fin 24) (s : State) : Out :=
  let s := wakeAll s
  let l := s.links[port]
  .next (if l.state = .retired then
      if l.noticeDue then withLink port { l with restart := true } s else withLink port (backInService s.pkg.time l) s
    else withLink port { l with bkt := 0 } s)

/-! ### Keys (R327 to R329) -/

/-- A transmit slot is loaded. The first one to be loaded becomes the active slot (DEDUCED, log entry 40). -/
def loadTx (slot : Bool) (k : KeySlot) (l : Link) : Link :=
  settleKeys { l with
    tx := l.tx.set (slotIx slot) k
    txks := if validBits l.tx = 0 then slot else l.txks }

/-- KEY_SLOT_LOAD: a load into the active transmit slot, or into a receive slot in use, is refused. -/
def execKeySlotLoad (port : Fin 24) (tx : Bool) (slot : Bool) (key : BitVec 256) (salt : BitVec 32) (s : State) : Out :=
  let s := wakeAll s
  let l := s.links[port]
  let k : KeySlot := { valid := true, key := key, salt := salt, ctr := 0 }
  .next (if tx then
      if slot = l.txks ∧ (txSlot l).valid = true then s else withLink port (loadTx slot k l) s
    else if l.rx[slotIx slot].valid then s
    else withLink port (sendCtrl false { l with rx := l.rx.set (slotIx slot) k }) s)

/-- SLOT_SWITCH: the host orders a switch of transmit slot. -/
def execSlotSwitch (port : Fin 24) (s : State) : Out :=
  let s := wakeAll s
  .next (withLink port { s.links[port] with switching := true } s)

/-- ENREQ_WRITE. -/
def execEnreqWrite (port : Fin 24) (on : Bool) (s : State) : Out :=
  let s := wakeAll s
  .next (withLink port (settleKeys { s.links[port] with enreq := on }) s)

/-! ### Circuits and the pod (R331 to R333) -/

/-- The port is optical: the - ports of an even coordinate, the + ports of an odd one. -/
def optical (s : State) (port : Fin 24) : Bool :=
  (port.val / 3 % 2 == 1) == (coord (ownNode s) (port.val / 6) % 2 == 0)

/-- CIRCUIT_MOVE (R333): no new flit is sent; with the replay buffer empty the link goes down as planned. -/
def execCircuitMove (port : Fin 24) (peer : BitVec 12) (s : State) : Out :=
  let l := s.links[port]
  .next (if !optical s port || l.state != .up then s
    else if l.buffer = [] then withLink port (planned peer s.pkg.time l) s
    else withLink port { l with moving := some peer } s)

/-- A link whose port has no circuit in the pod's shape goes down. -/
def dropEdge (s : State) (p : Fin 24) : Link :=
  let l := s.links[p]
  if edgePort s p then { l with state := .down, since := s.pkg.time } else l

/-- PODCFG_WRITE (R332): the reserved bits read zero, NODE is the package's node id, and the ports at the edge of an axis that is
no ring are down. -/
def execPodcfgWrite (v : Word) (s : State) : Out :=
  let s := renode (v.setWidth 12) (wakeAll s)
  let s := { s with fab := { s.fab with podcfg := podcfgWith v (v.setWidth 12) } }
  .next { s with links := Vector.ofFn (dropEdge s) }

end Sys2Proof.Machine
end

