-- ==== Sys2Proof/Machine/Matrix.lean ====
section
/-! DEFINITION. The matrix tasks (spec/08_matrix_transpose.md R185 to R200): one scale per row and per column, the products
of a stripe, M.MM, M.MMQ, M.MMG, M.MZ and M.MST. -/

namespace Sys2Proof.Machine

/-! ### One scale per row and per column (R186) -/

/-- `scale` of R186. -/
inductive Scale where
  | poison
  | none
  | at_ (e : Int) (q : List Int)
  deriving DecidableEq, Repr

/-- The conversion that a format gives a vector by itself. -/
def ownScale (h : Husk) (v : List Val) : B12 :=
  match hkFmt h with
  | .s8 | .n8 => { poison := false, e := 10, q := v.map (b12Elem 10) }
  | .c8 =>
    if v.any (fun x => !valFinite x) then { poison := true, e := 0, q := [] }
    else { poison := false, e := hkSb h, q := v.map (b12Elem (hkSb h)) }
  | _ => b12 v

def valZero : Val → Bool
  | .fin _ m _ => m == 0
  | _ => false

/-- Convert a vector against the scales its elements already hold. -/
def scaleOf (h : Husk) (v : List Val) (stored : List Int) : Scale :=
  let own := ownScale h v
  if own.poison then .poison
  else
    match stored with
    | [] => if v.all valZero then .none else .at_ own.e own.q
    | x :: xs =>
      if xs.any (fun y => y != x) then .poison
      else
        let q := v.map (b12Elem x)
        if q.any (fun y => decide (2047 < y.natAbs)) then .poison else .at_ x q

/-! ### Accumulation (R187) -/

/-- An accumulator element of a core: this one's own store, or that of another core of the package (R195). -/
def coreAcc (s : State) (core : Option Nat) (k : Nat) : Acc :=
  match core with
  | none => getAcc s k
  | some c => tget {} s.fab.farAcc (c * 65536 + k)

def accEffect (core : Option Nat) (k : Nat) (v : Acc) : Effect :=
  match core with
  | none => .acc k v
  | some c => .farAcc (c * 65536 + k) v

def dot (p q : List Int) : Int := (p.zipWith (fun x y => x * y) q).sum

/-- `accumulate` of R187: the element after it, and the flags. -/
def accumulate (el : Acc) (k : Nat) (ra cb : Scale) : Acc × BitVec 6 :=
  if el.po then (el, 0)
  else
    let bad : Acc × BitVec 6 := ({ el with po := true, empty := false }, flagNV)
    match ra, cb with
    | .poison, _ | _, .poison => bad
    | .none, _ | _, .none => if 8191 < el.kc.toNat + k then bad else (el, 0)
    | .at_ e p, .at_ f q =>
      if 8191 < el.kc.toNat + k then bad
      else
        let a := accAdd el (dot p q)
        ({ a with
            er := if el.empty then BitVec.ofInt 9 e else el.er
            ec := if el.empty then BitVec.ofInt 9 f else el.ec
            empty := false, kc := BitVec.ofNat 13 (el.kc.toNat + k) }, 0)

/-- The exponents that non-empty elements hold. -/
def storedOf (f : Acc → Int) (els : List Acc) : List Int :=
  (els.filter (fun a => !a.empty && !a.po)).map f

/-- One M.MM to compute: into which core's accumulator store, from which row of A, column and plane of B. -/
structure Quarter where
  core : Option Nat
  row : Nat
  col : Nat
  deriving DecidableEq, Repr

/-- Row i of A, and column j of plane g of B. -/
def rowVals (s : State) (a : RBox) (i : Nat) : List Val :=
  (List.range (boxE s a 0)).map (fun k => boxValue s a (i * boxE s a 0 + k))

def colVals (s : State) (b : RBox) (j g : Nat) : List Val :=
  let n := boxE s b 0
  let kk := boxE s b 1
  (List.range kk).map (fun k => boxValue s b (j + n * (k + kk * g)))

/-- NV for the signalling NaNs that a vector holds (R18). -/
def snanFlag (v : List Val) : BitVec 6 := if v.any valSnan then flagNV else 0

/-- A row of the tile: its accumulator keys, over columns 0 to N - 1. -/
def tileKey (s : State) (w : RBox) (i j : Nat) : Nat := accKey s w (i * boxE s w 0 + j)

/-- The scale of a column of B, with values `v` under husk `h`, against the rows [lo, hi) of column j of a core's tile. -/
def colScale (s : State) (w : RBox) (core : Option Nat) (h : Husk) (v : List Val) (j lo hi : Nat) : Scale × BitVec 6 :=
  let st := storedOf (fun a => a.ec.toInt) ((List.range (hi - lo)).map (fun i => coreAcc s core (tileKey s w (lo + i) j)))
  (scaleOf h v st, snanFlag v)

/-- The column scales of a quarter against the rows [lo, hi) of the tile, with plane g of B. -/
def colScales (s : State) (w b : RBox) (q : Quarter) (g lo hi : Nat) : List (Scale × BitVec 6) :=
  (List.range (boxE s w 0)).map (fun j => colScale s w q.core (boxHusk s b) (colVals s b (q.col + j) g) j lo hi)

/-- Row i of a core's tile, from a row of A with values `v` under husk `h`, against column scales: its effects and flags. -/
def tileRow (s : State) (w : RBox) (core : Option Nat) (h : Husk) (v : List Val) (i : Nat) (cols : List (Scale × BitVec 6)) :
    Portion :=
  let keys := (List.range (boxE s w 0)).map (tileKey s w i)
  let els := keys.map (coreAcc s core)
  let ra := scaleOf h v (storedOf (fun x => x.er.toInt) els)
  let outs := els.zipWith (fun el c => accumulate el v.length ra c.1) cols
  { effects := keys.zipWith (fun k o => accEffect core k o.1) outs
    flags := outs.foldl (fun f o => f ||| o.2) (snanFlag v ||| cols.foldl (fun f c => f ||| c.2) 0)
    step := 1 }

/-- Row i of a quarter, against column scales. -/
def rowPortion (s : State) (w a : RBox) (q : Quarter) (i : Nat) (cols : List (Scale × BitVec 6)) : Portion :=
  tileRow s w q.core (boxHusk s a) (rowVals s a (q.row + i)) i cols

/-- Several rows as one portion. -/
def joinPortions (step : Nat) (ps : List Portion) : Portion :=
  { effects := ps.flatMap Portion.effects, flags := unitFlags ps, step := step }

/-! ### Stripes (R188) -/

def stripes (rows : Nat) : Nat := (rows + 15) / 16

def stripeRows (rows u : Nat) : List Nat := (List.range (min 16 (rows - 16 * u))).map (fun i => 16 * u + i)

/-- The groups of M.MMG: the offsets. -/
def groupOffsets (s : State) (c : RBox) : List Nat :=
  (List.range (boxE s c 0)).map (fun n => readElem s c n)

/-- The offsets are not those of a concatenation of groups (R197). -/
def offsetsBad (offs : List Nat) (rows : Nat) : Bool :=
  offs.headD 1 != 0 || offs.getLastD 1 != rows || (offs.zip offs.tail).any (fun p => decide (p.2 < p.1))

/-- The group of row i: the largest g with off[g] ≤ i, below G. -/
def groupOf (offs : List Nat) (i : Nat) : Nat := (offs.dropLast.filter (fun o => decide (o ≤ i))).length - 1

/-- No quadrant is good (R183). -/
def arrayGone (s : State) : Bool := s.store.fenced == 15

def arrayCause : EngineCause := { cause := .residue, info := some 0xFFFFFFFF }

/-- The work of a matrix product: before its first stripe it converts B whole. A product that stopped and runs on converts B again,
against the elements that are not POISONed then: what a column that it has poisoned below its index does to the rows above it is
taken from those elements anew (R188; DEDUCED, log entry 40). The planes of B of groups without rows are touched, and set no NV
(R197; DEDUCED, log entry 40). -/
def productPlan (qs : List Quarter) (groups : State → RBox → Option (List Nat)) (e : Entry) (s : State) : State × Work :=
  let w := theBox e.boxes.w
  let a := theBox e.boxes.a
  let b := theBox e.boxes.b
  let c := theBox e.boxes.c
  let rows := boxE s w 1
  let p := e.index / 16
  let k := boxE s a 0
  let touch (u : Nat) : List (State → List Touch) :=
    [fun s =>
      (if u = p then [{ box := b, first := 0, count := boxElems s b, write := false }] else [])
        ++ qs.map (fun q => { box := a, first := (q.row + 16 * u) * k, count := (stripeRows rows u).length * k, write := false })]
  if arrayGone s then badPlan arrayCause s
  else if !(winHeld s a && winHeld s b) then badPlan { cause := .boxbad } s
  else
    match groups s c with
    | none => badPlan { cause := .boxbad } s
    | some offs =>
      unitPlan p (stripes rows) touch
        (fun s u =>
          joinPortions (stripeRows rows u).length
            (qs.flatMap (fun q => (stripeRows rows u).map (fun i =>
              let g := groupOf offs i
              rowPortion s w a q i (colScales s w b q g (offs.getD g 0) (offs.getD (g + 1) 0))))))
        (fun _ => none) s

/-- One group of all rows. -/
def oneGroup (rows : Nat) : State → RBox → Option (List Nat) := fun _ _ => some [0, rows]

def mmPlan : Plan := fun e s => productPlan [{ core := none, row := 0, col := 0 }] (oneGroup (boxE s (theBox e.boxes.w) 1)) e s

/-- M.MM (R193). -/
def execMMm (slot units : Nat) (s : State) : Out := runTask .mm mmPlan slot units s

/-- The quad of this core: the lead at position 0, then the others in increasing core number (R195). -/
def quadCores (s : State) : List Nat :=
  let me := ownCore s
  me :: ((List.range 4).map (fun i => me / 4 * 4 + i)).filter (fun c => c != me)

/-- The four quarters of an M.MMQ. -/
def quarters (s : State) (w : RBox) : List Quarter :=
  (quadCores s).zipIdx.map (fun c =>
    { core := if c.2 = 0 then none else some c.1
      row := c.2 / 2 % 2 * boxE s w 1, col := c.2 % 2 * boxE s w 0 })

/-- The quarter of this core in an M.MMQ that another core leads (R196): its part, with the operands that the lead's husks locate. C8
operands are decoded with the companding tables of the core that this model holds, as lead for all four quarters and as partner for its
own (R195 does not say whose; DESIGN CHOICE, log entry 40). -/
def quarterPlan (p : Part) (e : Entry) (s : State) : State × Work :=
  let rows := boxE s p.w 1
  let vals (h : Husk) (l : List Nat) : List Val := l.map (valueOf s h)
  unitPlan (e.index / 16) (stripes rows) (fun _ => [])
    (fun s u =>
      let cols := (List.range (boxE s p.w 0)).map (fun j => colScale s p.w none p.huskB (vals p.huskB (p.cols.getD j [])) j 0 rows)
      joinPortions (stripeRows rows u).length
        ((stripeRows rows u).map (fun i => tileRow s p.w none p.huskA (vals p.huskA (p.rows.getD i [])) i cols)))
    (fun _ => none) s

/-- The lead's own quarter and those of its partners, in lockstep: one record, one index; or this core's part. -/
def mmqPlan : Plan := fun e s =>
  let w := theBox e.boxes.w
  match e.quarter with
  | some p => quarterPlan p e s
  | none =>
  if quadReduced s && !arrayGone s then badPlan { cause := .residue, info := some (BitVec.ofNat 32 e.seq) } s
  else productPlan (quarters s w) (oneGroup (boxE s w 1)) e s

/-- M.MMQ (R195, R196), as its lead runs it, and a part as its partner does. -/
def execMMmq (slot units : Nat) (s : State) : Out := runTask .mmq mmqPlan slot units s

def mmgPlan : Plan := fun e s =>
  let w := theBox e.boxes.w
  productPlan [{ core := none, row := 0, col := 0 }]
    (fun s c => let offs := groupOffsets s c; if offsetsBad offs (boxE s w 1) then none else some offs) e s

/-- M.MMG (R197); the swap of R198 changes only time. -/
def execMMmg (slot units : Nat) (s : State) : Out := runTask .mmg mmgPlan slot units s

def mzPlan : Plan := fun e s =>
  let w := theBox e.boxes.w
  let rows := boxE s w 1
  if arrayGone s then badPlan arrayCause s
  else
    unitPlan (e.index / 16) (stripes rows) (fun _ => [])
      (fun s u =>
        { effects := (stripeRows rows u).flatMap (fun i => (List.range (boxE s w 0)).map (fun j => .acc (tileKey s w i j) {}))
          step := (stripeRows rows u).length })
      (fun _ => none) s

/-- M.MZ (R199). -/
def execMMz (slot units : Nat) (s : State) : Out := runTask .mz mzPlan slot units s

/-- The status word of M.MST (R200). -/
def mstWord (before after : BitVec 4) : Nat := (~~~after).toNat + 16 * (after &&& ~~~before).toNat

def mstPlan : Plan := fun e s =>
  let w := theBox e.boxes.w
  if arrayGone s then badPlan arrayCause s
  else
    let s' := selfTest s
    (s', { units := [{ effects := elemEffects s' w 0 (mstWord s.store.fenced s'.store.fenced), step := boxE s w 1 }] })

/-- M.MST (R200). -/
def execMMst (slot units : Nat) (s : State) : Out := runTask .mst mstPlan slot units s

end Sys2Proof.Machine
end

