-- ==== Sys2Proof/Machine/Save.lean ====
section
/-! DEFINITION. SAVEQ and RESTQ and the save image (spec/06_strand_memory_system.md R143, spec/07_core.md R177 to R179,
spec/12_program_field_splitter.md R260, spec/18_fabric_remote.md R396). -/

namespace Sys2Proof.Machine

/-- Bytes of the image. -/
def imageSize : Nat := 16384

/-- Pad a byte string with zeros, or cut it, to a length. -/
def padTo (n : Nat) (bs : List Byte) : List Byte := bs.take n ++ List.replicate (n - bs.length) 0

/-- The position of the entry of a slot among the image's entries; an entry that has retired is given its fold's
position. -/
def positionOf (es : List Entry) (slot other : Nat) : Nat :=
  match es.findIdx? (fun e => e.slot == slot) with
  | some i => i
  | none => (es.findIdx? (fun e => e.slot == other)).getD 0

/-- A rename-directory entry, 32 bytes. -/
def dirImage (es : List Entry) (d : DirEntry) : List Byte :=
  boxImage false (some d.home) ++ leBytes 4 (d.off % 2 ^ 23 + 2 ^ 30 * d.isOpen.toNat + 2 ^ 31)
    ++ leBytes 1 (positionOf es d.recSlot d.foldSlot) ++ leBytes 1 (positionOf es d.foldSlot d.foldSlot) ++ leBytes 6 0

/-- The engines in the order of their blocks. -/
def engines : List Engine := [.m, .v, .x, .c, .f]

/-- Tasks that keep a partial result: votes and counts, COMP, the fingerprint and the comparison, and the poisoned pages of a sweep
(R215, R241, R253). -/
def keepsPart (r : Rec) : Bool :=
  match recTask r with
  | some .vany | some .vall | some .vcnt | some .vcomp | some .cpyf | some .cmpb | some .ckpt => true
  | _ => false

/-- The record has a partial result below its index, whatever its state. -/
def usesPart (e : Entry) : Bool := e.index != 0 && keepsPart e.record && !e.fold

/-- The records of an engine whose partial results its block holds. -/
def partsIn (es : List Entry) (g : Engine) : List Entry := es.filter (fun e => usesPart e && entryEng e == g)

/-- A block holds the first seven; a record beyond them is saved with index 0, and runs from its start (DESIGN CHOICE, log entry 8). -/
def capParts (es : List Entry) : List Entry :=
  es.map (fun e =>
    if usesPart e && ((partsIn es (entryEng e)).take 7).all (fun f => f.slot != e.slot) then { e with index := 0, part := 0 } else e)

/-- The entries of the image, in post order: not the parts of other cores' M.MMQ, whose index the lead saves (R196; DEDUCED, log
entry 4). -/
def imageEntries (s : State) : List Entry := capParts (bySeq (s.thatch.entries.filter (fun e => e.quarter.isNone)))

/-- A number that stands for the records of an engine that its block belongs to: their window images, one after another. -/
def stoppedKey (images : List Nat) : Nat := images.foldr (fun k n => k + 2 ^ 1024 * n) 0

/-- The window images of the entries that an engine's block belongs to: those stopped, and those with a partial result. -/
def stoppedImages (es : List Entry) (g : Engine) : List Nat :=
  (es.filter (fun e => (e.state == .stopped || usesPart e) && entryEng e == g)).map (fun e => leNat (entryImage e))

/-- The partial results that an engine's block holds (R215, R241). -/
def stoppedParts (es : List Entry) (g : Engine) : List Word := (partsIn es g).map Entry.part

/-- Byte `i` of engine block `n` for the records that `key` stands for and their partial results: the device's own contents, free
values (DESIGN CHOICE, log entry 8). The first 56 bytes hide the partial results, the others depend on them. -/
def blockByte (key n : Nat) (parts : List Word) (i : Nat) : Byte :=
  if i < 56 then Config.engineBlock (2 * key) n i ^^^ BitVec.ofNat 8 ((parts.getD (i / 8) 0).toNat / 2 ^ (8 * (i % 8)))
  else Config.engineBlock (2 * (key * 2 ^ 448 + leNat (((parts.take 7).flatMap (fun v => leBytes 8 v.toNat)))) + 1) n i

/-- The partial result number `k` that the first bytes of a block hide. -/
def blockPart (key n : Nat) (b : List Byte) (k : Nat) : Word :=
  BitVec.ofNat 64 (leNat (((b.drop (8 * k)).take 8).zipIdx.map (fun x => x.1 ^^^ Config.engineBlock (2 * key) n (8 * k + x.2))))

def blockParts (key n : Nat) (b : List Byte) : List Word := (List.range 7).map (blockPart key n b)

def blockBytes (key n : Nat) (parts : List Word) : List Byte := (List.range 64).map (blockByte key n parts)

/-- The block of engine `g`, number `n`. -/
def engineBlockBytes (es : List Entry) (n : Nat) (g : Engine) : List Byte :=
  blockBytes (stoppedKey (stoppedImages es g)) n (stoppedParts es g)

/-- The save image (R177), from the entries in post order. -/
def saveImage (s : State) : List Byte :=
  let es := imageEntries s
  leBytes 8 0x9401 ++ leBytes 8 s.sys.coreid.toNat ++ leBytes 8 s.thatch.nextSeq ++ leBytes 8 s.sys.rnpool.toNat
    ++ leBytes 8 es.length ++ leBytes 8 (tkc s) ++ leBytes 16 0
    ++ padTo 8192 (es.flatMap entryImage)
    ++ s.store.boxes.toList.flatMap boxRegImage
    ++ (engines.zipIdx.flatMap (fun g => engineBlockBytes es g.2 g.1))
    ++ padTo 1024 (s.thatch.dir.flatMap (dirImage es))
    ++ leBytes 8 s.strand.cq.length ++ leBytes 56 0 ++ padTo 256 (s.strand.cq.flatMap (fun v => leBytes 4 v.toNat))
    ++ leBytes 8 s.strand.ras.length ++ padTo 128 (s.strand.ras.flatMap (fun v => leBytes 8 v.toNat))
    ++ leBytes 8 s.sys.rasb.toNat ++ leBytes 48 0 ++ leBytes 4224 0

/-! ### Access to the image -/

/-- Where the units of the image lie: in scratchpad, or at physical addresses with their leaves; and whether one must
wait for a migrating or unswept page. -/
inductive ImageAt where
  | spad (off : Nat)
  | mem (units : List (Nat × Option Nat)) (held : Bool)

/-- Check units of 64 bytes from an address on (R143): the physical places, and whether one must wait; or a cause and its address, with
the state in which the units before it have been translated. A unit that a hand-over holds waits, and so do those behind it (R309). -/
def checkUnits (kind : Nat) (addr : Word) : Nat → State → Except (Cause × Word × State) (List (Nat × Option Nat) × Bool × State)
  | 0, s => .ok ([], false, s)
  | n + 1, s =>
    match check addr 64 kind s with
    | .bad c => .error (c, addr, s)
    | .held => .ok ([], true, s)
    | .spad off =>
      match checkUnits kind (addr + 64) n s with
      | .error e => .error e
      | .ok (us, h, s') => .ok ((off, none) :: us, h, s')
    | .mem pa mig sw leaf s' =>
      match checkUnits kind (addr + 64) n s' with
      | .error e => .error e
      | .ok (us, h, s'') => .ok ((pa, leaf) :: us, (kind == 1 && (mig || sw)) || h, s'')

/-- The image's place (R143): a multiple of 64, every unit checked. The image may lie in a page that holds a parked store: R122 and R294
name loads, atomics and stores as what waits for one (DESIGN CHOICE, log entry 40). -/
def imageAt (kind : Nat) (addr : Word) (s : State) : Except (Trap × State) (ImageAt × State) :=
  if addr.toNat % 64 ≠ 0 then .error (checkTrap .align addr kind, s)
  else
    match checkUnits kind addr 256 s with
    | .error (c, a, s') => .error (accessTrap c a kind, s')
    | .ok (us, h, s') =>
      if addr.getLsbD 63 then .ok (.spad (bitsOf addr.toNat 0 23), s') else .ok (.mem us h, s')

/-- A unit of the image must wait. -/
def imageHeld : ImageAt → Bool
  | .mem _ h => h
  | .spad _ => false

/-- Write the image: each unit in memory is a request at its home (R290). -/
def writeImage (p : ImageAt) (bs : List Byte) (s : State) : State :=
  match p with
  | .spad off => putSpad s off bs
  | .mem us _ =>
    us.zipIdx.foldl (fun s u =>
      memWrite (writesOf (memKey (ownNode s) u.1.1) ((bs.drop (64 * u.2)).take 64)) (markDirty u.1.2 (requestAt u.1.1 s))) s

def readImage (p : ImageAt) (s : State) : List Byte :=
  match p with
  | .spad off => bytesAt s.store.spad off imageSize
  | .mem us _ => us.flatMap (fun u => bytesAt s.mem.mem (memKey (ownNode s) u.1) 64)

/-- The requests of the read of an image. -/
def imageRequests (p : ImageAt) (s : State) : State :=
  match p with
  | .spad _ => s
  | .mem us _ => requestsAt (us.map Prod.fst) s

/-- The first unit of the image that lies in a poisoned line. -/
def imagePoison (p : ImageAt) (s : State) : Option Nat :=
  match p with
  | .spad _ => none
  | .mem us _ => us.findIdx? (fun u => poisonedAt s (memKey (ownNode s) u.1))

/-- The physical address of a unit of the image. -/
def imageLine (p : ImageAt) (i : Nat) : Option Nat :=
  match p with
  | .spad _ => none
  | .mem us _ => (us[i]?).map Prod.fst

/-! ### SAVEQ (R178) -/

/-- The record will be left unretired by the save. -/
def savedEntry (e : Entry) : Bool :=
  match e.state with
  | .pending | .ready | .stopped | .faulted => true
  | .running => !sendsOn e
  | .draining | .committing => false

/-- Steps 1 and 2: stop the queues and, at their indices, the records that are to be saved; end their pips (R178, R396). -/
def saveBegin (s : State) : State :=
  let s := stopQueues { s with thatch := { s.thatch with savePips := true } }
  (s.thatch.entries.filter savedEntry).foldl (fun s e => match e.pip with | some n => failPip n s | none => s) s

/-- A CANCEL of a pip is on its way to a destination that has marked packets of this record: the record is still to fail (R396). -/
def awaitsCancel (s : State) (e : Entry) : Bool :=
  match e.dep with
  | some n => e.marked.any (fun d => s.fab.net.any (fun p =>
      p.srcNode == ownNode s && p.srcCore == ownCore s && packetDst p == d && p.body == .cancel n))
  | none => false

/-- A marked packet of the record is on its way: its hold queue may still be full (R350, R352). -/
def markedInFlight (s : State) (e : Entry) : Bool :=
  s.fab.net.any (fun p => p.srcNode == ownNode s && p.srcCore == ownCore s && p.srcSlot == e.slot && p.mark.isSome)

/-- Step 3: a record that must retire first, or fail; and one with packets that it still holds back, that were refused at a full hold
queue, or that may still be refused there, since its index counts them as sent (R350, R396). -/
def saveWaits (s : State) : Bool :=
  s.thatch.entries.any (fun e =>
    e.state == .draining || e.state == .committing || (e.state == .running && sendsOn e) || awaitsCancel s e ||
      !e.waiting.isEmpty || !e.bounced.isEmpty || markedInFlight s e)

/-- Steps 4 to 6; a pre-emption's save is taken. A page of a sweep whose packets are not all acknowledged is copied again (R253). The
pips of the saved records have ended, and become FREE once no record carries them (R349, R396). -/
def saveEnd (p : ImageAt) (s : State) : State :=
  let s := { s with thatch := { s.thatch with entries := s.thatch.entries.map stopEntry } }
  let s := writeImage p (saveImage s) s
  let s := s.thatch.entries.foldl (fun s e => pipRetired e s) s
  { s with
    mem := { s.mem with sweeps := s.mem.sweeps.map (fun w => if w.asid = s.sys.asid then { w with sent := none } else w) }
    thatch := { s.thatch with entries := [], dir := [], stopped := false, savePips := false }
    pkg := { s.pkg with preemptBy := if s.pkg.saving then none else s.pkg.preemptBy } }

/-- SAVEQ. -/
def execSaveq (a : Reg) (s : State) : Out :=
  issue [a] true 1 (fun s =>
    let addr := getG s a
    match imageAt 1 addr s with
    | .error (t, s') => .trapIn t s'
    | .ok (p, s) =>
      if imageHeld p || meetsCopy s addr imageSize then .stall s
      else
        let s := saveBegin s
        if saveWaits s then .stall s else .done (saveEnd p s)) s

/-! ### RESTQ (R179) -/

/-- A slice of the image as a number. -/
def imgNat (img : List Byte) (off n : Nat) : Nat := leNat ((img.drop off).take n)

/-- A saved entry, as the image holds it: record, four boxes, state byte, flags, index, sequence number. -/
structure Saved where
  record : Rec
  boxes : Boxes
  state : Nat
  flags : BitVec 6
  index : Nat
  seq : Nat
  /-- its 128 bytes, read little-endian -/
  key : Nat
  deriving DecidableEq, Repr

def savedAt (img : List Byte) (i : Nat) : Saved :=
  let b := (img.drop (64 + 128 * i)).take 128
  let r : Rec := BitVec.ofNat 256 (imgNat b 0 32)
  { record := r
    boxes := { w := boxOfImage (recVW r) ((b.drop 32).take 20), a := boxOfImage (recVA r) ((b.drop 52).take 20)
               b := boxOfImage (recVB r) ((b.drop 72).take 20), c := boxOfImage (recVC r) ((b.drop 92).take 20) }
    state := imgNat b 112 1, flags := BitVec.ofNat 6 (imgNat b 113 1), index := imgNat b 116 4, seq := imgNat b 120 8
    key := imgNat b 0 128 }

def insertSaved (e : Saved) : List Saved → List Saved
  | [] => [e]
  | x :: t => if e.seq < x.seq then e :: x :: t else x :: insertSaved e t

/-- The saved entries in post order. -/
def savedEntries (img : List Byte) : List Saved :=
  ((List.range (min 64 (imgNat img 32 8))).map (savedAt img)).foldr insertSaved []

def savedFold (v : Saved) : Bool := v.state / 128 % 2 == 1
def savedRemote (v : Saved) : Bool := v.state / 64 % 2 == 1

/-- The live entries of the saved directory: home box, buffer, OPEN. -/
def savedDir (img : List Byte) : List (RBox × Nat × Bool) :=
  (List.range 32).filterMap (fun i =>
    let b := (img.drop (0x2980 + 32 * i)).take 32
    let w := imgNat b 20 4
    if w / 2 ^ 31 % 2 = 1 then
      (boxOfImage true (b.take 20)).map (fun h => ({ h with rb := none }, w % 2 ^ 23, decide (w / 2 ^ 30 % 2 = 1)))
    else none)

/-- A rename-buffer box gets its home coordinates from the directory. -/
def rehome (dir : List (RBox × Nat × Bool)) (b : RBox) : RBox :=
  match b.rb with
  | none => b
  | some r =>
    match dir.find? (fun d => d.2.1 == r.off && d.1.hid == b.hid) with
    | some d => { b with o := d.1.o, e := d.1.e, rb := some { off := r.off, o := d.1.o, e := d.1.e } }
    | none => b

/-- The check of a resolved box against the husk table now (R143). -/
def restBoxBad (s : State) (b : RBox) : Option Cause :=
  if b.acc then (if (List.range 3).any (fun d => decide (accExt d < dget b.o d + dget b.e d)) then some .boxbad else none)
  else
    let h := getHusk s b.hid
    if !hkV h then some .huskbad
    else if (List.range (hkRank h)).any (fun d => decide (hkExt h d < dget b.o d + dget b.e d)) then some .boxbad
    else
      match b.rb with
      | some r => if r.off < poolLo s || Config.spadBytes < r.off + bufDense s b r then some .boxbad else none
      | none => none

/-- The boxes of a saved entry that are checked: the W of F.HALO was never resolved here. -/
def savedBoxes (v : Saved) : List RBox :=
  if recTask v.record = some .halo ∧ savedFold v = false then readBoxes v.boxes else boxList v.boxes

def firstCauseOf {α : Type} (f : α → Option Cause) : List α → Option Cause
  | [] => none
  | x :: t => match f x with | some c => some c | none => firstCauseOf f t

/-- The first box of the image that is refused. -/
def restBad (s : State) (dir : List (RBox × Nat × Bool)) (vs : List Saved) : Option Cause :=
  firstCauseOf (fun v => firstCauseOf (fun b => restBoxBad s (rehome dir b)) (savedBoxes v)) vs

/-- The engine's number among the blocks. -/
def engineIx (g : Engine) : Nat := engines.findIdx (fun h => h == g)

/-- The engine that runs a saved entry. -/
def savedEng (v : Saved) : Engine := if savedFold v then .c else (engOfCode (recEng v.record)).getD .m

/-- The block of a saved entry's engine, and the number that stands for the engine's stopped records. -/
def savedBlock (img : List Byte) (v : Saved) : List Byte := (img.drop (0x2840 + 64 * engineIx (savedEng v))).take 64

/-- A saved entry has a partial result below its index. -/
def savedUses (v : Saved) : Bool := v.index != 0 && keepsPart v.record && !savedFold v

/-- Its engine block belongs to it. -/
def blockUser (v : Saved) : Bool := v.state % 64 == 4 || savedUses v

def savedKey (img : List Byte) (v : Saved) : Nat :=
  stoppedKey (((savedEntries img).filter (fun x => blockUser x && savedEng x == savedEng v)).map Saved.key)

/-- The place of a saved entry among those of its engine with a partial result. -/
def partIx (img : List Byte) (v : Saved) : Nat :=
  ((savedEntries img).filter (fun x => savedUses x && savedEng x == savedEng v)).findIdx (fun x => x.seq == v.seq)

/-- The partial result that a restored entry resumes with, whatever the state it was saved in (R215, R241). -/
def savedPart (img : List Byte) (v : Saved) : Word :=
  if savedUses v then blockPart (savedKey img v) (engineIx (savedEng v)) (savedBlock img v) (partIx img v) else 0

/-- An entry's engine block in the image is none that SAVEQ writes for the records that it belongs to. -/
def blockAltered (img : List Byte) (v : Saved) : Bool :=
  let key := savedKey img v
  let n := engineIx (savedEng v)
  blockUser v && savedBlock img v != blockBytes key n (blockParts key n (savedBlock img v))

/-- The image of a restored F.POST: read again at its offset, its boxes from the restored registers. -/
def restImage (s : State) (r : Rec) : Option (Rec × Boxes) := postedImage s r

/-- Re-enter one saved entry PENDING, its edges by R160, its renames from the directory. That a restartable record has been run again
after a residue mismatch (R182) is no part of the image: the restored record may be run again once more (DESIGN CHOICE, log entry 40). -/
def restEntry (img : List Byte) (dir : List (RBox × Nat × Bool)) (s : State) (v : Saved) : State :=
  let re (b : Option RBox) : Option RBox := b.map (rehome dir)
  let b : Boxes := { w := re v.boxes.w, a := re v.boxes.a, b := re v.boxes.b, c := re v.boxes.c }
  let b := if savedFold v then b else redirectAll s b
  let slot := s.thatch.nextSlot
  let bad := blockAltered img v
  let e : Entry :=
    { slot := slot, record := v.record, boxes := b, seq := v.seq, state := .pending, index := v.index
      fold := savedFold v, remote := savedRemote v, own := !savedRemote v, flags := v.flags, restored := true
      image := if savedFold v then none else restImage s v.record, part := savedPart img v
      altered := if bad then some s.freeCount else none }
  let w := trackedW e
  let e : Entry := { e with
    edges := s.thatch.entries.flatMap (fun x => writeEdges s (readBoxes b) w x ++ readEdges s w x) }
  let closed := closeDir s w s.thatch.dir
  let made : List DirEntry :=
    match b.w, b.a with
    | some h, some ab =>
      (match ab.rb with
        | some r =>
          if e.fold then
            [{ home := h, off := r.off, bytes := bufBytes s h
               recSlot := ((s.thatch.entries.find? (fun x => match x.boxes.w with
                 | some y => (match y.rb with | some q => q.off == r.off | none => false) | none => false)).map Entry.slot).getD slot
               foldSlot := slot, isOpen := true }]
          else []
        | none => [])
    | _, _ => []
  let s := pushEntry e s
  { s with
    thatch := { s.thatch with dir := closed ++ made, nextSlot := slot + 1 }
    freeCount := if bad then s.freeCount + 1 else s.freeCount }

/-- The state after the image has been accepted. -/
def restore (img : List Byte) (s : State) : State :=
  let dir := savedDir img
  let vs := savedEntries img
  let ras := (List.range (min 16 (imgNat img 0x2EC0 8))).map (fun i => BitVec.ofNat 32 (imgNat img (0x2EC8 + 8 * i) 8))
  let cq := (List.range (min 64 (imgNat img 0x2D80 8))).map (fun i => BitVec.ofNat 32 (imgNat img (0x2DC0 + 4 * i) 4))
  let boxes : Vector BoxReg 64 := Vector.ofFn (fun i : Fin 64 => boxRegOf ((img.drop (0x2040 + 32 * i.val)).take 32))
  let s := { s with
    store := { s.store with boxes := boxes }
    strand := { s.strand with ras := ras, cq := cq }
    sys := { s.sys with rasb := BitVec.ofNat 64 (imgNat img (0x2EC0 + 8 * 17) 8) &&& rasbMask }
    thatch := { s.thatch with nextSeq := max s.thatch.nextSeq (imgNat img 16 8) } }
  let s := vs.foldl (restEntry img dir) s
  let s := { s with thatch := { s.thatch with
    dir := s.thatch.dir.map (fun d =>
      match dir.find? (fun x => x.2.1 == d.off) with | some x => { d with isOpen := x.2.2 } | none => d) } }
  releaseAll s

/-- RESTQ: it waits until TKC = 0 and the folds of this core are over, then checks the image, then restores it. -/
def execRestq (a : Reg) (s : State) : Out :=
  issue [a] true 1 (fun s =>
    let addr := getG s a
    match imageAt 0 addr s with
    | .error (t, s') => .trapIn t s'
    | .ok (p, s) =>
      if imageHeld p || meetsCopy s addr imageSize || tkc s != 0 || localCount s != 0 then .stall s
      else
        match imagePoison p s with
        | some i => .trap { accessTrap .ue (addr + BitVec.ofNat 64 (64 * i)) 0 with line := imageLine p i }
        | none =>
          let img := readImage p s
          if imgNat img 0 8 ≠ 0x9401 then .trap { cause := .taskbad }
          else
            match restBad s (savedDir img) (savedEntries img) with
            | some c => .trap { cause := c }
            | none => .done (restore img (imageRequests p s))) s

end Sys2Proof.Machine
end

