-- ==== Sys2Proof/Machine/Transpose.lean ====
section
/-! DEFINITION. The transpose tasks (spec/08_matrix_transpose.md R202 to R206): X.XPOSE, X.XPERM and X.XREV move elements
bit for bit, one result row at a time. -/

namespace Sys2Proof.Machine

/-- The offset in A that W's element at offset i receives: `j[p[d]] = i[d]` (R204). -/
def permIndex (p : Nat) (i : Dims) : Dims :=
  (List.range 4).foldl (fun j d => dput j (permOf p d) (dget i d)) {}

/-- XREV: `j[d] = E[d] - 1 - i[d]` where R[d] = 1. -/
def revIndex (s : State) (a : RBox) (r : Nat) (i : Dims) : Dims :=
  (List.range 4).foldl (fun j d => dput j d (if bitsOf r d 1 = 1 then boxE s a d - 1 - dget i d else dget i d)) {}

/-- Row u of the result: E0 elements of W along dimension 0 (R205). -/
def rowMove (s : State) (w a : RBox) (f : Dims → Dims) (u : Nat) : Portion :=
  let n := boxE s w 0
  { effects := (List.range n).flatMap (fun x =>
      let k := u * n + x
      elemEffects s w k (readElem s a (boxLin s a (f (boxIndex s w k))))) }

/-- The plan of a transpose: every row of the source must be held (R206, R240). -/
def xPlan (f : State → Entry → Dims → Dims) : Plan := fun e s =>
  let w := theBox e.boxes.w
  let a := theBox e.boxes.a
  if !winHeld s a then badPlan { cause := .boxbad } s
  else
    unitPlan e.index (boxElems s w / max 1 (boxE s w 0)) (fun _ => []) (fun s u => rowMove s w a (f s e) u)
      (fun _ => none) s

/-- X.XPOSE: XPERM with P = 0xE1. -/
def execXXpose (slot units : Nat) (s : State) : Out := runTask .xpose (xPlan (fun _ _ => permIndex 0xE1)) slot units s

/-- X.XPERM. -/
def execXXperm (slot units : Nat) (s : State) : Out :=
  runTask .xperm (xPlan (fun _ e => permIndex (recImm e.record % 256))) slot units s

/-- X.XREV. -/
def execXXrev (slot units : Nat) (s : State) : Out :=
  runTask .xrev (xPlan (fun s e => revIndex s (theBox e.boxes.a) (recImm e.record % 16))) slot units s

end Sys2Proof.Machine
end

