-- ==== Sys2Proof/Machine/Dispatch.lean ====
section
/-! DEFINITION. The dispatch: one arm for each constructor of `Instr`, each one direct call of a meaning. -/

namespace Sys2Proof.Machine

/-- The meaning of one step of the part. -/
def exec (i : Instr) (s : State) : Host.Outcome State Fault Refusal :=
  match i with
  | .add d a b => Sys2Proof.Machine.execAdd d a b s
  | .sub d a b => Sys2Proof.Machine.execSub d a b s
  | .mul d a b => Sys2Proof.Machine.execMul d a b s
  | .mulh d a b => Sys2Proof.Machine.execMulh d a b s
  | .mulhn d a b => Sys2Proof.Machine.execMulhn d a b s
  | .div d a b => Sys2Proof.Machine.execDiv d a b s
  | .divn d a b => Sys2Proof.Machine.execDivn d a b s
  | .rem d a b => Sys2Proof.Machine.execRem d a b s
  | .remn d a b => Sys2Proof.Machine.execRemn d a b s
  | .and d a b => Sys2Proof.Machine.execAnd d a b s
  | .or d a b => Sys2Proof.Machine.execOr d a b s
  | .xor d a b => Sys2Proof.Machine.execXor d a b s
  | .andn d a b => Sys2Proof.Machine.execAndn d a b s
  | .sll d a b => Sys2Proof.Machine.execSll d a b s
  | .srl d a b => Sys2Proof.Machine.execSrl d a b s
  | .sra d a b => Sys2Proof.Machine.execSra d a b s
  | .rol d a b => Sys2Proof.Machine.execRol d a b s
  | .ror d a b => Sys2Proof.Machine.execRor d a b s
  | .min d a b => Sys2Proof.Machine.execMin d a b s
  | .max d a b => Sys2Proof.Machine.execMax d a b s
  | .minn d a b => Sys2Proof.Machine.execMinn d a b s
  | .maxn d a b => Sys2Proof.Machine.execMaxn d a b s
  | .clz d a => Sys2Proof.Machine.execClz d a s
  | .ctz d a => Sys2Proof.Machine.execCtz d a s
  | .popc d a => Sys2Proof.Machine.execPopc d a s
  | .bswap d a => Sys2Proof.Machine.execBswap d a s
  | .clmul d a b => Sys2Proof.Machine.execClmul d a b s
  | .clmulh d a b => Sys2Proof.Machine.execClmulh d a b s
  | .addw d a b => Sys2Proof.Machine.execAddw d a b s
  | .subw d a b => Sys2Proof.Machine.execSubw d a b s
  | .addi d a imm => Sys2Proof.Machine.execAddi d a imm s
  | .andi d a imm => Sys2Proof.Machine.execAndi d a imm s
  | .ori d a imm => Sys2Proof.Machine.execOri d a imm s
  | .xori d a imm => Sys2Proof.Machine.execXori d a imm s
  | .slli d a n => Sys2Proof.Machine.execSlli d a n s
  | .srli d a n => Sys2Proof.Machine.execSrli d a n s
  | .srai d a n => Sys2Proof.Machine.execSrai d a n s
  | .rori d a n => Sys2Proof.Machine.execRori d a n s
  | .lui d imm => Sys2Proof.Machine.execLui d imm s
  | .lih d imm => Sys2Proof.Machine.execLih d imm s
  | .bfx d a signed pos len1 => Sys2Proof.Machine.execBfx d a signed pos len1 s
  | .bfi d a pos len1 => Sys2Proof.Machine.execBfi d a pos len1 s
  | .cmp c cc a b => Sys2Proof.Machine.execCmp c cc a b s
  | .cmpi c cc a imm => Sys2Proof.Machine.execCmpi c cc a imm s
  | .sel d a b neg c => Sys2Proof.Machine.execSel d a b neg c s
  | .cand c x y => Sys2Proof.Machine.execCand c x y s
  | .cor c x y => Sys2Proof.Machine.execCor c x y s
  | .cxor c x y => Sys2Proof.Machine.execCxor c x y s
  | .candn c x y => Sys2Proof.Machine.execCandn c x y s
  | .ptg t disp => Sys2Proof.Machine.execPtg t disp s
  | .ptr t a => Sys2Proof.Machine.execPtr t a s
  | .br t => Sys2Proof.Machine.execBr t s
  | .brc t c neg => Sys2Proof.Machine.execBrc t c neg s
  | .call t => Sys2Proof.Machine.execCall t s
  | .callc t c neg => Sys2Proof.Machine.execCallc t c neg s
  | .ret => Sys2Proof.Machine.execRet s
  | .lbrk l c neg => Sys2Proof.Machine.execLbrk l c neg s
  | .loop l len cnt => Sys2Proof.Machine.execLoop l len cnt s
  | .loopReg l len g => Sys2Proof.Machine.execLoopReg l len g s
  | .loopCq l len => Sys2Proof.Machine.execLoopCq l len s
  | .loops l len stg cnt => Sys2Proof.Machine.execLoops l len stg cnt s
  | .loopsReg l len stg g => Sys2Proof.Machine.execLoopsReg l len stg g s
  | .loopsCq l len stg => Sys2Proof.Machine.execLoopsCq l len stg s
  | .rep n sd sa sb => Sys2Proof.Machine.execRep n sd sa sb s
  | .cqpush a => Sys2Proof.Machine.execCqpush a s
  | .cqpop d => Sys2Proof.Machine.execCqpop d s
  | .cqclr => Sys2Proof.Machine.execCqclr s
  | .cqlen d => Sys2Proof.Machine.execCqlen d s
  | .ldb d a imm => Sys2Proof.Machine.execLdb d a imm s
  | .ldbn d a imm => Sys2Proof.Machine.execLdbn d a imm s
  | .ldh d a imm => Sys2Proof.Machine.execLdh d a imm s
  | .ldhn d a imm => Sys2Proof.Machine.execLdhn d a imm s
  | .ldw d a imm => Sys2Proof.Machine.execLdw d a imm s
  | .ldwn d a imm => Sys2Proof.Machine.execLdwn d a imm s
  | .ldd d a imm => Sys2Proof.Machine.execLdd d a imm s
  | .stb d a imm => Sys2Proof.Machine.execStb d a imm s
  | .sth d a imm => Sys2Proof.Machine.execSth d a imm s
  | .stw d a imm => Sys2Proof.Machine.execStw d a imm s
  | .std d a imm => Sys2Proof.Machine.execStd d a imm s
  | .spl g slot => Sys2Proof.Machine.execSpl g slot s
  | .fil g slot => Sys2Proof.Machine.execFil g slot s
  | .lda d a b => Sys2Proof.Machine.execLda d a b s
  | .sta d a b => Sys2Proof.Machine.execSta d a b s
  | .atomSwp d a b w32 scope => Sys2Proof.Machine.execAtomSwp d a b w32 scope s
  | .atomAdd d a b w32 scope => Sys2Proof.Machine.execAtomAdd d a b w32 scope s
  | .atomAnd d a b w32 scope => Sys2Proof.Machine.execAtomAnd d a b w32 scope s
  | .atomOr d a b w32 scope => Sys2Proof.Machine.execAtomOr d a b w32 scope s
  | .atomXor d a b w32 scope => Sys2Proof.Machine.execAtomXor d a b w32 scope s
  | .atomMin d a b w32 scope => Sys2Proof.Machine.execAtomMin d a b w32 scope s
  | .atomMax d a b w32 scope => Sys2Proof.Machine.execAtomMax d a b w32 scope s
  | .atomMinn d a b w32 scope => Sys2Proof.Machine.execAtomMinn d a b w32 scope s
  | .atomMaxn d a b w32 scope => Sys2Proof.Machine.execAtomMaxn d a b w32 scope s
  | .atomCas d a b w32 scope => Sys2Proof.Machine.execAtomCas d a b w32 scope s
  | .fenceSc scope => Sys2Proof.Machine.execFenceSc scope s
  | .fenceAcq scope => Sys2Proof.Machine.execFenceAcq scope s
  | .fenceRel scope => Sys2Proof.Machine.execFenceRel scope s
  | .fenceRq => Sys2Proof.Machine.execFenceRq s
  | .fencePip => Sys2Proof.Machine.execFencePip s
  | .semadd n g => Sys2Proof.Machine.execSemadd n g s
  | .semaddi n imm => Sys2Proof.Machine.execSemaddi n imm s
  | .semwait n g => Sys2Proof.Machine.execSemwait n g s
  | .semwaiti n imm => Sys2Proof.Machine.execSemwaiti n imm s
  | .semset n g => Sys2Proof.Machine.execSemset n g s
  | .semrd n g => Sys2Proof.Machine.execSemrd n g s
  | .post rec => Sys2Proof.Machine.execPost rec s
  | .postm a => Sys2Proof.Machine.execPostm a s
  | .waitc t l n cp => Sys2Proof.Machine.execWaitc t l n cp s
  | .bxh x a imm => Sys2Proof.Machine.execBxh x a imm s
  | .bxo x dim a imm => Sys2Proof.Machine.execBxo x dim a imm s
  | .bxe x dim a imm => Sys2Proof.Machine.execBxe x dim a imm s
  | .bxs x dim a imm => Sys2Proof.Machine.execBxs x dim a imm s
  | .bxc x a => Sys2Proof.Machine.execBxc x a s
  | .bxz x => Sys2Proof.Machine.execBxz x s
  | .hkld h a imm => Sys2Proof.Machine.execHkld h a imm s
  | .hkst h a imm => Sys2Proof.Machine.execHkst h a imm s
  | .hkinv h imm => Sys2Proof.Machine.execHkinv h imm s
  | .hktab h a imm => Sys2Proof.Machine.execHktab h a imm s
  | .acq scope a => Sys2Proof.Machine.execAcq scope a s
  | .rel scope a => Sys2Proof.Machine.execRel scope a s
  | .bind a b => Sys2Proof.Machine.execBind a b s
  | .unbind a b => Sys2Proof.Machine.execUnbind a b s
  | .cbr t c neg red hint => Sys2Proof.Machine.execCbr t c neg red hint s
  | .cbrx t c neg red => Sys2Proof.Machine.execCbrx t c neg red s
  | .cstep => Sys2Proof.Machine.execCstep s
  | .gabort => Sys2Proof.Machine.execGabort s
  | .mfs d r => Sys2Proof.Machine.execMfs d r s
  | .mts a r => Sys2Proof.Machine.execMts a r s
  | .trap code => Sys2Proof.Machine.execTrap code s
  | .eret => Sys2Proof.Machine.execEret s
  | .yield n => Sys2Proof.Machine.execYield n s
  | .saveq a => Sys2Proof.Machine.execSaveq a s
  | .restq a => Sys2Proof.Machine.execRestq a s
  | .halt => Sys2Proof.Machine.execHalt s
  | .brk tag => Sys2Proof.Machine.execBrk tag s
  | .tstart a => Sys2Proof.Machine.execTstart a s
  | .mapinvAddr a => Sys2Proof.Machine.execMapinvAddr a s
  | .mapinvSeg a => Sys2Proof.Machine.execMapinvSeg a s
  | .mapinvAsid a => Sys2Proof.Machine.execMapinvAsid a s
  | .mapinvAll => Sys2Proof.Machine.execMapinvAll s
  | .ridge d stk => Sys2Proof.Machine.execRidge d stk s
  | .snap tag => Sys2Proof.Machine.execSnap tag s
  | .sleep => Sys2Proof.Machine.execSleep s
  | .mMm slot units => Sys2Proof.Machine.execMMm slot units s
  | .mMmq slot units => Sys2Proof.Machine.execMMmq slot units s
  | .mMmg slot units => Sys2Proof.Machine.execMMmg slot units s
  | .mMz slot units => Sys2Proof.Machine.execMMz slot units s
  | .mMst slot units => Sys2Proof.Machine.execMMst slot units s
  | .xXpose slot units => Sys2Proof.Machine.execXXpose slot units s
  | .xXperm slot units => Sys2Proof.Machine.execXXperm slot units s
  | .xXrev slot units => Sys2Proof.Machine.execXXrev slot units s
  | .vAdd slot units => Sys2Proof.Machine.execVAdd slot units s
  | .vSub slot units => Sys2Proof.Machine.execVSub slot units s
  | .vMul slot units => Sys2Proof.Machine.execVMul slot units s
  | .vFma slot units => Sys2Proof.Machine.execVFma slot units s
  | .vDiv slot units => Sys2Proof.Machine.execVDiv slot units s
  | .vSqrt slot units => Sys2Proof.Machine.execVSqrt slot units s
  | .vRcp slot units => Sys2Proof.Machine.execVRcp slot units s
  | .vRsq slot units => Sys2Proof.Machine.execVRsq slot units s
  | .vExp2 slot units => Sys2Proof.Machine.execVExp2 slot units s
  | .vLog2 slot units => Sys2Proof.Machine.execVLog2 slot units s
  | .vMin slot units => Sys2Proof.Machine.execVMin slot units s
  | .vMax slot units => Sys2Proof.Machine.execVMax slot units s
  | .vAbs slot units => Sys2Proof.Machine.execVAbs slot units s
  | .vNeg slot units => Sys2Proof.Machine.execVNeg slot units s
  | .vCvt slot units => Sys2Proof.Machine.execVCvt slot units s
  | .vQnt slot units => Sys2Proof.Machine.execVQnt slot units s
  | .vDq slot units => Sys2Proof.Machine.execVDq slot units s
  | .vScl slot units => Sys2Proof.Machine.execVScl slot units s
  | .vAnd slot units => Sys2Proof.Machine.execVAnd slot units s
  | .vOr slot units => Sys2Proof.Machine.execVOr slot units s
  | .vXor slot units => Sys2Proof.Machine.execVXor slot units s
  | .vNot slot units => Sys2Proof.Machine.execVNot slot units s
  | .vShl slot units => Sys2Proof.Machine.execVShl slot units s
  | .vShr slot units => Sys2Proof.Machine.execVShr slot units s
  | .vSra slot units => Sys2Proof.Machine.execVSra slot units s
  | .vClm slot units => Sys2Proof.Machine.execVClm slot units s
  | .vPopc slot units => Sys2Proof.Machine.execVPopc slot units s
  | .vClz slot units => Sys2Proof.Machine.execVClz slot units s
  | .vCmp slot units => Sys2Proof.Machine.execVCmp slot units s
  | .vSel slot units => Sys2Proof.Machine.execVSel slot units s
  | .vRed slot units => Sys2Proof.Machine.execVRed slot units s
  | .vScan slot units => Sys2Proof.Machine.execVScan slot units s
  | .vAny slot units => Sys2Proof.Machine.execVAny slot units s
  | .vAll slot units => Sys2Proof.Machine.execVAll slot units s
  | .vCnt slot units => Sys2Proof.Machine.execVCnt slot units s
  | .vIota slot units => Sys2Proof.Machine.execVIota slot units s
  | .vComp slot units => Sys2Proof.Machine.execVComp slot units s
  | .vGth slot units => Sys2Proof.Machine.execVGth slot units s
  | .vSct slot units => Sys2Proof.Machine.execVSct slot units s
  | .vHist slot units => Sys2Proof.Machine.execVHist slot units s
  | .vBcst slot units => Sys2Proof.Machine.execVBcst slot units s
  | .cCpy slot units => Sys2Proof.Machine.execCCpy slot units s
  | .cCpyf slot units => Sys2Proof.Machine.execCCpyf slot units s
  | .cCmpb slot units => Sys2Proof.Machine.execCCmpb slot units s
  | .cFill slot units => Sys2Proof.Machine.execCFill slot units s
  | .cAdv slot units => Sys2Proof.Machine.execCAdv slot units s
  | .cDrn slot units => Sys2Proof.Machine.execCDrn slot units s
  | .cDrna slot units => Sys2Proof.Machine.execCDrna slot units s
  | .cAccl slot units => Sys2Proof.Machine.execCAccl slot units s
  | .cSelk slot units => Sys2Proof.Machine.execCSelk slot units s
  | .cCpypg slot units => Sys2Proof.Machine.execCCpypg slot units s
  | .cCkpt slot units => Sys2Proof.Machine.execCCkpt slot units s
  | .fWr slot units => Sys2Proof.Machine.execFWr slot units s
  | .fWrp slot units => Sys2Proof.Machine.execFWrp slot units s
  | .fRd slot units => Sys2Proof.Machine.execFRd slot units s
  | .fAmo slot units => Sys2Proof.Machine.execFAmo slot units s
  | .fPost slot units => Sys2Proof.Machine.execFPost slot units s
  | .fSem slot units => Sys2Proof.Machine.execFSem slot units s
  | .fRte slot units => Sys2Proof.Machine.execFRte slot units s
  | .fRed slot units => Sys2Proof.Machine.execFRed slot units s
  | .fHalo slot units => Sys2Proof.Machine.execFHalo slot units s
  | .rnpoolWrite a => Sys2Proof.Machine.execRnpoolWrite a s
  | .asidWrite a => Sys2Proof.Machine.execAsidWrite a s
  | .rasdWrite a => Sys2Proof.Machine.execRasdWrite a s
  | .rasvWrite a => Sys2Proof.Machine.execRasvWrite a s
  | .xstatWrite a => Sys2Proof.Machine.execXstatWrite a s
  | .tracebWrite a => Sys2Proof.Machine.execTracebWrite a s
  | .fold slot units => Sys2Proof.Machine.execFold slot units s
  | .writeAcknowledgement slot => Sys2Proof.Machine.execWriteAcknowledgement slot s
  | .selftest => Sys2Proof.Machine.execSelftest s
  | .asyncCauseTaken => Sys2Proof.Machine.execAsyncCauseTaken s
  | .loadComplete k => Sys2Proof.Machine.execLoadComplete k s
  | .copyRetire k => Sys2Proof.Machine.execCopyRetire k s
  | .debugStopRequest => Sys2Proof.Machine.execDebugStopRequest s
  | .preemptRequest => Sys2Proof.Machine.execPreemptRequest s
  | .forcedStop => Sys2Proof.Machine.execForcedStop s
  | .firmwareRestore => Sys2Proof.Machine.execFirmwareRestore s
  | .launchPacket p => Sys2Proof.Machine.execLaunchPacket p s
  | .launchStart => Sys2Proof.Machine.execLaunchStart s
  | .resumePacket p restore => Sys2Proof.Machine.execResumePacket p restore s
  | .translationFill map va write => Sys2Proof.Machine.execTranslationFill map va write s
  | .homeAccess q => Sys2Proof.Machine.execHomeAccess q s
  | .mcBatch stk served => Sys2Proof.Machine.execMcBatch stk served s
  | .ckptPageCopied slot => Sys2Proof.Machine.execCkptPageCopied slot s
  | .throttle t => Sys2Proof.Machine.execThrottle t s
  | .throttleLift t => Sys2Proof.Machine.execThrottleLift t s
  | .thermalTrip deciC => Sys2Proof.Machine.execThermalTrip deciC s
  | .powerStateEntry p => Sys2Proof.Machine.execPowerStateEntry p s
  | .wakeEvent p => Sys2Proof.Machine.execWakeEvent p s
  | .ptpMessage offset => Sys2Proof.Machine.execPtpMessage offset s
  | .powerOn b => Sys2Proof.Machine.execPowerOn b s
  | .pwrbudWrite w => Sys2Proof.Machine.execPwrbudWrite w s
  | .cecntClear die => Sys2Proof.Machine.execCecntClear die s
  | .faqPop die => Sys2Proof.Machine.execFaqPop die s
  | .bplAdd frame => Sys2Proof.Machine.execBplAdd frame s
  | .bplRemove frame => Sys2Proof.Machine.execBplRemove frame s
  | .thlogRead => Sys2Proof.Machine.execThlogRead s
  | .fencemapRead => Sys2Proof.Machine.execFencemapRead s
  | .pkgstatClear mask => Sys2Proof.Machine.execPkgstatClear mask s
  | .flitTransmit pv => Sys2Proof.Machine.execFlitTransmit pv s
  | .flitArrival port raw fecOk => Sys2Proof.Machine.execFlitArrival port raw fecOk s
  | .ackTimeout port => Sys2Proof.Machine.execAckTimeout port s
  | .retrainComplete port mine peer verified => Sys2Proof.Machine.execRetrainComplete port mine peer verified s
  | .trainingRestart port => Sys2Proof.Machine.execTrainingRestart port s
  | .bucketDrain port => Sys2Proof.Machine.execBucketDrain port s
  | .linkStateNotice port seq => Sys2Proof.Machine.execLinkStateNotice port seq s
  | .noticeTimeout port => Sys2Proof.Machine.execNoticeTimeout port s
  | .bktClear port => Sys2Proof.Machine.execBktClear port s
  | .keySlotLoad port tx slot key salt => Sys2Proof.Machine.execKeySlotLoad port tx slot key salt s
  | .slotSwitch port => Sys2Proof.Machine.execSlotSwitch port s
  | .enreqWrite port on => Sys2Proof.Machine.execEnreqWrite port on s
  | .circuitMove port peer => Sys2Proof.Machine.execCircuitMove port peer s
  | .podcfgWrite v => Sys2Proof.Machine.execPodcfgWrite v s
  | .remoteWriteArrival p => Sys2Proof.Machine.execRemoteWriteArrival p s
  | .remoteReadArrival p => Sys2Proof.Machine.execRemoteReadArrival p s
  | .remoteAmoArrival p => Sys2Proof.Machine.execRemoteAmoArrival p s
  | .remoteSemArrival p => Sys2Proof.Machine.execRemoteSemArrival p s
  | .remotePostArrival p => Sys2Proof.Machine.execRemotePostArrival p s
  | .busyRetry slot => Sys2Proof.Machine.execBusyRetry slot s
  | .haloWriteArrival p => Sys2Proof.Machine.execHaloWriteArrival p s
  | .redWriteArrival p => Sys2Proof.Machine.execRedWriteArrival p s
  | .landedAck slot => Sys2Proof.Machine.execLandedAck slot s
  | .markedPacketArrival p => Sys2Proof.Machine.execMarkedPacketArrival p s
  | .releaseArrival p => Sys2Proof.Machine.execReleaseArrival p s
  | .cancelArrival p => Sys2Proof.Machine.execCancelArrival p s
  | .holdExpiry k => Sys2Proof.Machine.execHoldExpiry k s
  | .expiredArrival p => Sys2Proof.Machine.execExpiredArrival p s
  | .contributionArrival c => Sys2Proof.Machine.execContributionArrival c s
  | .branchResultArrival inst gen r => Sys2Proof.Machine.execBranchResultArrival inst gen r s
  | .cbrtoExpiry => Sys2Proof.Machine.execCbrtoExpiry s
  | .instanceTimeoutArrival inst gen mismatch => Sys2Proof.Machine.execInstanceTimeoutArrival inst gen mismatch s
  | .stepMarkArrival m => Sys2Proof.Machine.execStepMarkArrival m s
  | .stepCommitArrival step gen => Sys2Proof.Machine.execStepCommitArrival step gen s
  | .abortTokenAtRoot t => Sys2Proof.Machine.execAbortTokenAtRoot t s
  | .abortTokenArrival t => Sys2Proof.Machine.execAbortTokenArrival t s
  | .phase epoch => Sys2Proof.Machine.execPhase epoch s
  | .drainedAnswer => Sys2Proof.Machine.execDrainedAnswer s
  | .phaseDone => Sys2Proof.Machine.execPhaseDone s
  | .illegal w => Sys2Proof.Machine.execIllegal w s
  | .fetchOutsideImage addr => Sys2Proof.Machine.execFetchOutsideImage addr s
  | .tstartTimeReached => Sys2Proof.Machine.execTstartTimeReached s
  | .acqRetryTimeout => Sys2Proof.Machine.execAcqRetryTimeout s
  | .snapshotWritten => Sys2Proof.Machine.execSnapshotWritten s
  | .packageReset => Sys2Proof.Machine.execPackageReset s
  | .hostEndsLaunch => Sys2Proof.Machine.execHostEndsLaunch s
  | .remoteRefusalArrival p => Sys2Proof.Machine.execRemoteRefusalArrival p s

end Sys2Proof.Machine
end

