-- ==== Sys2Proof/Machine/Fetch.lean ====
section
/-! DEFINITION. What the part does next: fetching the strand's instruction (spec/04_strand.md R79, R87), the events that are
ready inside the part, what follows every step without an instruction of its own, and the placing of an instruction at the
program counter. -/

namespace Sys2Proof.Machine

/-! ### Fetch (R79, R87) -/

/-- The first address behind `a` of the eight words of an inline record that lies outside the image: the address that its fetch
names (R79). -/
def missingAfter (s : State) (a : BitVec 32) : BitVec 32 :=
  ((List.range 8).map (fun k => a + 1 + BitVec.ofNat 32 k)).find? (fun b => (textAt s b).isNone) |>.getD (a + 1)

/-- What a fetch gives that is no instruction: an address outside the image, a word that is ILLEGAL, or a word whose line of memory is
poisoned or has a home that cannot be reached. -/
inductive NoInstr where
  | outside (a : BitVec 32)
  | illegal (w : BitVec 32)
  | poisoned (a : BitVec 32) (line : Nat)
  | unreached (a : BitVec 32)
  deriving DecidableEq, Repr

/-- What the fetch of a word of the image meets at its line of memory: no route to its home, or poison (R289, R306). The fetch asks the
strand's own image store, and is no request at a controller (DESIGN CHOICE, log entry 9). -/
def lineFault (s : State) (a : BitVec 32) : Option NoInstr :=
  match List.lookup (a.toNat / 16) s.strand.textLines with
  | none => none
  | some pa =>
    if !reachesHome s pa then some (.unreached a)
    else if poisonedAt s (memKey (ownNode s) pa) then some (.poisoned a pa)
    else none

/-- What the first such word of the instruction at an address meets, of the words that the image holds. -/
def faultyWord (s : State) (a : BitVec 32) : Option NoInstr :=
  (((List.range (if postAt s a then 9 else 1)).map (fun k => a + BitVec.ofNat 32 k)).takeWhile (fun b =>
    (textAt s b).isSome)).findSome? (lineFault s)

/-- A fetch at an address. An inline POST whose record runs past the image traps SEG at the first missing word (R79). -/
def fetchAt (s : State) (a : BitVec 32) : Except NoInstr Instr :=
  match faultyWord s a with
  | some f => .error f
  | none =>
    match decodeAt s a with
    | none => .error (.outside a)
    | some (.error .truncated) => .error (.outside (missingAfter s a))
    | some (.error _) => .error (.illegal ((textAt s a).getD 0))
    | some (.ok i) => .ok i

/-- What the strand issues next: the word at the pc, or the repetition in progress. -/
def nextInstr (s : State) : Except NoInstr Instr :=
  match s.strand.rep with
  | some r => (fetchAt s (s.strand.pc + 1)).map (repStep r)
  | none => fetchAt s s.strand.pc

/-- What the strand does at a word that is no instruction. -/
def noInstr (f : NoInstr) (s : State) : Out :=
  match f with
  | .outside a => execFetchOutsideImage a s
  | .illegal w => execIllegal w s
  | .poisoned a line => execFetchPoisoned a line s
  | .unreached a => execFetchUnreached a s

/-! ### Events that are ready (DESIGN CHOICE, log entry 5) -/

/-- The step of the engine that runs a record, performing `n` units. -/
def taskStep (e : Entry) (n : Nat) : Option (State → Out) :=
  if e.fold then some (execFold e.slot n)
  else
    (recTask e.record).map (fun t =>
      match t with
      | .mm => execMMm e.slot n | .mmq => execMMmq e.slot n | .mmg => execMMmg e.slot n | .mz => execMMz e.slot n
      | .mst => execMMst e.slot n
      | .xpose => execXXpose e.slot n | .xperm => execXXperm e.slot n | .xrev => execXXrev e.slot n
      | .vadd => execVAdd e.slot n | .vsub => execVSub e.slot n | .vmul => execVMul e.slot n | .vfma => execVFma e.slot n
      | .vdiv => execVDiv e.slot n | .vsqrt => execVSqrt e.slot n | .vrcp => execVRcp e.slot n | .vrsq => execVRsq e.slot n
      | .vexp2 => execVExp2 e.slot n | .vlog2 => execVLog2 e.slot n | .vmin => execVMin e.slot n | .vmax => execVMax e.slot n
      | .vabs => execVAbs e.slot n | .vneg => execVNeg e.slot n | .vcvt => execVCvt e.slot n | .vqnt => execVQnt e.slot n
      | .vdq => execVDq e.slot n | .vscl => execVScl e.slot n | .vand => execVAnd e.slot n | .vor => execVOr e.slot n
      | .vxor => execVXor e.slot n | .vnot => execVNot e.slot n | .vshl => execVShl e.slot n | .vshr => execVShr e.slot n
      | .vsra => execVSra e.slot n | .vclm => execVClm e.slot n | .vpopc => execVPopc e.slot n | .vclz => execVClz e.slot n
      | .vcmp => execVCmp e.slot n | .vsel => execVSel e.slot n | .vred => execVRed e.slot n | .vscan => execVScan e.slot n
      | .vany => execVAny e.slot n | .vall => execVAll e.slot n | .vcnt => execVCnt e.slot n | .viota => execVIota e.slot n
      | .vcomp => execVComp e.slot n | .vgth => execVGth e.slot n | .vsct => execVSct e.slot n | .vhist => execVHist e.slot n
      | .vbcst => execVBcst e.slot n
      | .cpy => execCCpy e.slot n | .cpyf => execCCpyf e.slot n | .cmpb => execCCmpb e.slot n | .fill => execCFill e.slot n
      | .adv => execCAdv e.slot n | .drn => execCDrn e.slot n | .drna => execCDrna e.slot n | .accl => execCAccl e.slot n
      | .selk => execCSelk e.slot n | .cpypg => execCCpypg e.slot n | .ckpt => execCCkpt e.slot n
      | .wr => execFWr e.slot n | .wrp => execFWrp e.slot n | .rd => execFRd e.slot n | .amo => execFAmo e.slot n
      | .post => execFPost e.slot n | .sem => execFSem e.slot n | .rte => execFRte e.slot n | .fred => execFRed e.slot n
      | .halo => execFHalo e.slot n)

/-- The arrival of a packet. -/
def arrivalOf (p : Packet) : State → Out :=
  match p.body with
  | .release _ => execReleaseArrival p
  | .cancel _ => execCancelArrival p
  | .expired _ => execExpiredArrival p
  | .refused _ => execRemoteRefusalArrival p
  | .write _ => if p.mark.isSome then execMarkedPacketArrival p else execRemoteWriteArrival p
  | .read _ => execRemoteReadArrival p
  | .amo .. => execRemoteAmoArrival p
  | .sem .. => if p.mark.isSome then execMarkedPacketArrival p else execRemoteSemArrival p
  | .post .. => execRemotePostArrival p
  | .halo .. => if p.mark.isSome then execMarkedPacketArrival p else execHaloWriteArrival p
  | .red .. => execRedWriteArrival p

/-- The arrival of a message of the group. -/
def messageOf : GroupMsg → State → Out
  | .contrib c => execContributionArrival c
  | .result gid i g r => execBranchResultArrival ⟨gid, i⟩ g r
  | .timeout gid i g m => execInstanceTimeoutArrival ⟨gid, i⟩ g m
  | .expiry gid i g => execInstanceTimeoutArrival ⟨gid, i⟩ g false
  | .mark m => execStepMarkArrival m
  | .commit gid st g => execStepCommitArrival ⟨gid, st⟩ g
  | .abortUp t => execAbortTokenAtRoot t
  | .abortDown t => execAbortTokenArrival t

/-- What can happen to an entry of the window. -/
def entryEvents (e : Entry) : List (State → Out) :=
  [execLandedAck e.slot, execWriteAcknowledgement e.slot, execCkptPageCopied e.slot, execBusyRetry e.slot] ++ (taskStep e (2 ^ 20)).toList

/-- Events that may be ready inside the part, in the order in which this model takes them. -/
def eventsOf (s : State) : List (State → Out) :=
  [execLaunchStart, execLoadComplete 0, execCopyRetire 0, execSelftest] ++ s.fab.net.map arrivalOf
    ++ (bySeq s.thatch.entries).flatMap entryEvents
    ++ s.grp.msgs.map messageOf
    ++ (List.range s.fab.held.length).map execHoldExpiry
    ++ [execCbrtoExpiry, execDrainedAnswer, execForcedStop, execSnapshotWritten]
    ++ ((List.range 96).map (fun p => execFlitTransmit { port := Fin.ofNat 24 (p / 4), vc := BitVec.ofNat 2 p }))
    ++ [execFirmwareRestore] ++ ((List.range 8).map (fun k => execMcBatch (Fin.ofNat 8 k) s.mem.mc[(Fin.ofNat 8 k : Fin 8)].marked.length))

/-- The event changes the state. -/
def changes (s : State) (f : State → Out) : Bool :=
  match f s with
  | .next t => decide (t ≠ s)
  | _ => false

/-- The event that the part takes when the strand does not issue; a part that has shut down takes none (R315). -/
def nextEvent (s : State) : Option (State → Out) :=
  if s.strand.run = .tripped ∨ s.pkg.shut = true then none else (eventsOf s).find? (changes s)

/-- A strand that stalled tries again after an event: the event itself finds it at the boundary of its stall (R136). -/
def unstall (s : State) : State := { s with strand := { s.strand with stalled := false } }

/-! ### What follows every step -/

/-- A core that issues, and its die, are in no power state (R314). -/
def awake (s : State) : State :=
  if s.strand.run = .running ∧ s.strand.asleep = false then
    withPkg { s.pkg with gated := s.pkg.gated.filter (fun g => match g with
      | .clockGated c => c.val != ownCore s
      | .retention d => d.val != ownDie s
      | .selfRefresh _ => true) } s
  else s

/-- A trap entry that waits is completed once every engine has stopped, requests that waited at their home go (R309: ahead of all
others), the entries of a commit issue and the commit ends behind them, parked stores are retried, the stall wire holds or frees an
M.MMQ, parts of an M.MMQ enter, records whose edges are met are released, pips with no user are freed, packets that wait for their pip
go. -/
def settleCore (s : State) : State :=
  let s := releaseHome (completeTrap s)
  let s := retryParked false (endHeld (drainHeld s.grp.issuing s))
  awake (sendWaiting (freePips (releaseAll (enterParts (holdQuad s)))))

/-- What follows every step, and the clock goes on; in a package that has shut down only the clock does (R315). -/
def settle (s : State) : State := tick (if s.pkg.shut then s else settleCore s)

/-- Settle a next state. -/
def settled : Out → Out
  | .next s => .next (settle s)
  | o => o

/-- A next state in which the strand tries again. -/
def retried : Out → Out
  | .next s => .next (unstall s)
  | o => o

/-! ### Placing an instruction -/

/-- The words of `w` from `a` on, `n` of them. -/
def placeWords : Nat → BitVec 32 → Nat → Table (BitVec 32) → Table (BitVec 32)
  | 0, _, _, t => t
  | n + 1, a, w, t => placeWords n (a + 1) (w / 2 ^ 32) (kset t a.toNat (BitVec.ofNat 32 w))

/-- The state whose next step fetches and runs the instruction: its words at the pc, the strand running and at a boundary,
no event or cause before it. -/
def placedAtPc (s : State) (nbits w : Nat) : State :=
  { s with
    strand := { s.strand with
      text := placeWords 9 s.strand.pc (w % 2 ^ nbits) s.strand.text, textLines := []
      run := .running, stalled := false, asleep := false, pend := none, rep := none }
    prof := { s.prof with queued := [] }
    thatch := { s.thatch with async := [], trapDue := none }
    pkg := { s.pkg with debugReq := false }
    agenda := [] }

end Sys2Proof.Machine
end

