-- ==== Sys2Proof/Machine/Step.lean ====
section
/-! DEFINITION. One step of the part: the next event of the agenda; a pending cause that the strand takes; the strand's next
instruction; or, when the strand cannot issue, an event that is ready inside the part (DESIGN CHOICE, log entry 5). -/

namespace Sys2Proof.Machine

/-- The strand's next instruction runs. It stalls while a snapshot of the word before it waits to be written (R280), and while a trap
entry waits for the engines (R174). -/
def runNext (s : State) : Host.Outcome State Fault Refusal :=
  if s.prof.queued ≠ [] ∨ s.thatch.trapDue.isSome = true then .next (stallAt s)
  else
    match nextInstr s with
    | .ok i => exec i s
    | .error f => noInstr f s

/-- One step. -/
def step (s : State) : Host.Outcome State Fault Refusal :=
  match s.agenda with
  | i :: rest => settled (exec i { s with agenda := rest })
  | [] =>
    if (nextCause s).isSome then settled (execAsyncCauseTaken s)
    else if s.strand.run = .running ∧ s.strand.stalled = false then settled (runNext s)
    else
      match nextEvent s with
      | some f => settled (retried (f s))
      | none => if s.strand.run = .running then settled (runNext s) else .next (settle s)

/-- The state with that instruction where the strand fetches next. -/
def State.withFetchWord (s : State) (nbits w : Nat) : State := placedAtPc s nbits w

end Sys2Proof.Machine
end

