-- ==== Sys2Proof/Safety.lean ====
section
/-! DEFINITION. What counts as a safe run, and the words in which claims speak of an instruction that issues, of a task that runs, of
the shapes of number formats and of the records of the trace ring. Causes are traps, which the strand takes
(spec/06_strand_memory_system.md R136, R137), so a safe step is one that answers a next state. -/

namespace Sys2Proof.Machine

/-- The outcome is a next state: no fault and no refusal. -/
def completes (o : Out) : Prop := ∃ t, o = .next t

/-- Nothing keeps the instruction at the pc, which reads or writes `regs`, from acting: its word is in no inactive stage of
a LOOPS (R83), no committed store is still to issue (R365), it does not stop at speculation (R362), and none of its
registers is pending (R78, R169). -/
def Ready (regs : List Reg) (stops : Bool) (s : State) : Prop :=
  inactiveWord s = false ∧ heldFirst s = false ∧ (s.sys.spec && stops) = false ∧
    regs.any (regPending s) = false

/-- No hardware loop is active, no transfer is pending behind a shadow slot, and no repeat is in progress: control goes on
behind the instruction. -/
def Straight (s : State) : Prop := s.strand.xstat.depth = 0 ∧ s.strand.pend = none ∧ s.strand.rep = none

/-- A transfer may stand here: not in a shadow slot, not the last word of a segment (R65, R83). -/
def TransferPlace (s : State) : Prop := s.strand.pend = none ∧ lastOfSegment s = false

/-- The bytes of memory and of the pod read as before. -/
def SameMemory (s t : State) : Prop :=
  (∀ a, byteAt t.mem.mem a = byteAt s.mem.mem a) ∧ (∀ a, byteAt t.fab.farSpad a = byteAt s.fab.farSpad a)

/-- The scratchpad reads as before. -/
def SameSpad (s t : State) : Prop := ∀ a, byteAt t.store.spad a = byteAt s.store.spad a

/-- The stores of the core beside the scratchpad stand: accumulators, husks, tables, boxes, semaphores, cache, bindings. -/
def SameStore (s t : State) : Prop := { t.store with spad := s.store.spad } = s.store

/-- The system registers stand; behind the shadow slot of an open collective branch the strand begins to run ahead, which
STATUS.SPEC shows (R359). -/
def SameSys (s t : State) : Prop := { t.sys with spec := s.sys.spec } = s.sys

/-- What a register-only instruction leaves as it was, beside general registers and condition bits: targets, return
addresses, spill slots, the count queue, loads and copies, the trap-saved and system registers, the stores of the core, the
window, memory, the fabric, links and package. The scratchpad stands while the trace is off (R281). -/
def RestStands (s t : State) : Prop :=
  t.strand.tb = s.strand.tb ∧ t.strand.ras = s.strand.ras ∧ t.strand.rasi = s.strand.rasi ∧
    t.strand.spill = s.strand.spill ∧ t.strand.cq = s.strand.cq ∧ t.strand.loads = s.strand.loads ∧
    t.strand.copies = s.strand.copies ∧ t.strand.text = s.strand.text ∧ t.strand.run = s.strand.run ∧
    SameSys s t ∧ SameStore s t ∧ t.thatch = s.thatch ∧ t.mem = s.mem ∧ t.fab = s.fab ∧ t.links = s.links ∧
    t.pkg = s.pkg ∧ (traceOn s = false → t.store.spad = s.store.spad)

/-- The float formats (R16, R17, R19): significand width with the hidden bit, width, and the exponents of the smallest normal and of the
largest number. -/
def floatShapes : List (Fmt × Nat × Nat × Int × Int) :=
  [(.f32, 24, 32, -126, 127), (.f16, 11, 16, -14, 15), (.bf16, 8, 16, -126, 127), (.f8, 4, 8, -6, 8)]

/-- The integer formats (R16, R20): width, and the ends of their range. -/
def intShapes : List (Fmt × Nat × Int × Int) :=
  [(.s8, 8, -2 ^ 7, 2 ^ 7 - 1), (.n8, 8, 0, 2 ^ 8 - 1), (.s16, 16, -2 ^ 15, 2 ^ 15 - 1), (.n16, 16, 0, 2 ^ 16 - 1),
   (.s32, 32, -2 ^ 31, 2 ^ 31 - 1), (.n32, 32, 0, 2 ^ 32 - 1), (.s64, 64, -2 ^ 63, 2 ^ 63 - 1), (.n64, 64, 0, 2 ^ 64 - 1)]

/-- A magnitude rounds away from zero: `r / 2^k` of its last place lies beyond, and that place is odd or not (R25). -/
def awayBy (mode : Nat) (neg odd : Bool) (r k : Nat) : Bool :=
  decide (0 < r) && match mode with
    | 0 => decide (2 ^ k < 2 * r) || (decide (2 * r = 2 ^ k) && odd)
    | 1 => false
    | 2 => neg
    | _ => !neg

/-- The trace ring of a state (R281): its offset and its length in units. -/
def ringOff (s : State) : Nat := s.sys.traceb.toNat / 2 ^ 6 % 2 ^ 17 * 64
def ringLen (s : State) : Nat := s.sys.traceb.toNat / 2 ^ 32 % 2 ^ 16

/-- The ring has a length and a place that R281 allows, in a scratchpad that is in its canonical form. -/
def RingFits (s : State) : Prop := memWf s.store.spad ∧ 256 ≤ ringLen s ∧ ringOff s + ringLen s * 64 ≤ 0x600000

/-- From `s` to `t` one trace record has been written: its header's doublewords and its body stand in the next units of the ring, and no
other byte of the scratchpad has changed (R281, R282). -/
def RingHolds (s t : State) (header : List Nat) (body : List Byte) : Prop :=
  let unit (k : Nat) : Nat := ringOff s + (s.prof.unitNo + k) % ringLen s * 64
  (∀ k < 8, readLe t.store.spad (unit 0 + 8 * k) 8 = header.getD k 0 % 2 ^ 64) ∧
    (∀ j < body.length, byteAt t.store.spad (unit (1 + j / 64) + j % 64) = body.getD j 0) ∧
    (∀ a, (∀ k ≤ body.length / 64, a < unit k ∨ unit k + 64 ≤ a) → byteAt t.store.spad a = byteAt s.store.spad a) ∧
    t.prof.unitNo = s.prof.unitNo + 1 + body.length / 64 ∧ t.prof.recNo = s.prof.recNo + 1

/-- A matrix of conflict counts as a snapshot of `s` may find it: no count below the one that is listed, none beyond 24 bits (R279). -/
def Counted (s : State) (m : List Nat) : Prop :=
  m.length = 640 ∧ ∀ i < 640, (tget 0 s.prof.conflicts i).toNat ≤ m.getD i 0 ∧ m.getD i 0 < 2 ^ 24

/-- From `s` to `t` the record of a snapshot of kind 1 or 2 has been written: its header and the 30 units of its matrix, which starts
again from zero (R279, R280, R282). -/
def SnapWritten (s t : State) (kind tag dw3 dw4 : Nat) : Prop :=
  t.prof.conflicts = [] ∧ t.prof.busy = true ∧ ∃ m, Counted s m ∧
    RingHolds s t [s.prof.recNo.toNat + 2 ^ 32 * 30 + 2 ^ 48 * tag + 2 ^ 56 * kind, s.pkg.time.toNat, s.strand.icount.toNat, dw3, dw4,
      0, 0, 0] (m.flatMap (leBytes 3))

/-- Doubleword 3 of a header that names loop `l`, with `depth` loops active behind the event (R282). -/
def namedLoop (s : State) (l : LoopId) (depth : Nat) : Nat :=
  let x := s.strand.xstat
  2 ^ 32 * s.strand.lc[l].j.toNat + 2 ^ 19 * l.val + 2 ^ 15 * depth +
    (if x.pipe = true ∧ x.pid.toNat = l.val then 2 ^ 24 * x.q.toNat + 2 ^ 21 * x.stg.toNat + 2 ^ 18 else 0)

/-- The register that a register-only instruction writes: integer arithmetic, constants, fields and SEL (R99 to R106). -/
def integerDest : Instr → Option Reg
  | .add d _ _ | .sub d _ _ | .mul d _ _ | .mulh d _ _ | .mulhn d _ _ | .div d _ _ | .divn d _ _ | .rem d _ _
  | .remn d _ _ | .and d _ _ | .or d _ _ | .xor d _ _ | .andn d _ _ | .sll d _ _ | .srl d _ _ | .sra d _ _
  | .rol d _ _ | .ror d _ _ | .min d _ _ | .max d _ _ | .minn d _ _ | .maxn d _ _ | .clz d _ | .ctz d _ | .popc d _
  | .bswap d _ | .clmul d _ _ | .clmulh d _ _ | .addw d _ _ | .subw d _ _ | .addi d _ _ | .andi d _ _ | .ori d _ _
  | .xori d _ _ | .slli d _ _ | .srli d _ _ | .srai d _ _ | .rori d _ _ | .lui d _ | .lih d _ | .bfx d _ _ _ _
  | .bfi d _ _ _ | .sel d _ _ _ _ => some d
  | _ => none

/-- The condition bit that a comparison or a CND word writes (R105, R107). -/
def conditionDest : Instr → Option Cond
  | .cmp c _ _ _ | .cmpi c _ _ _ | .cand c _ _ | .cor c _ _ | .cxor c _ _ | .candn c _ _ => some c
  | _ => none

/-- The step of a task's engine at the record in a slot, performing `n` units. -/
def taskInstr (t : Task) (slot n : Nat) : Instr :=
  match t with
  | .mm => .mMm slot n | .mmq => .mMmq slot n | .mmg => .mMmg slot n | .mz => .mMz slot n | .mst => .mMst slot n
  | .xpose => .xXpose slot n | .xperm => .xXperm slot n | .xrev => .xXrev slot n | .vadd => .vAdd slot n
  | .vsub => .vSub slot n | .vmul => .vMul slot n | .vfma => .vFma slot n | .vdiv => .vDiv slot n
  | .vsqrt => .vSqrt slot n | .vrcp => .vRcp slot n | .vrsq => .vRsq slot n | .vexp2 => .vExp2 slot n
  | .vlog2 => .vLog2 slot n | .vmin => .vMin slot n | .vmax => .vMax slot n | .vabs => .vAbs slot n
  | .vneg => .vNeg slot n | .vcvt => .vCvt slot n | .vqnt => .vQnt slot n | .vdq => .vDq slot n
  | .vscl => .vScl slot n | .vand => .vAnd slot n | .vor => .vOr slot n | .vxor => .vXor slot n
  | .vnot => .vNot slot n | .vshl => .vShl slot n | .vshr => .vShr slot n | .vsra => .vSra slot n
  | .vclm => .vClm slot n | .vpopc => .vPopc slot n | .vclz => .vClz slot n | .vcmp => .vCmp slot n
  | .vsel => .vSel slot n | .vred => .vRed slot n | .vscan => .vScan slot n | .vany => .vAny slot n
  | .vall => .vAll slot n | .vcnt => .vCnt slot n | .viota => .vIota slot n | .vcomp => .vComp slot n
  | .vgth => .vGth slot n | .vsct => .vSct slot n | .vhist => .vHist slot n | .vbcst => .vBcst slot n
  | .cpy => .cCpy slot n | .cpyf => .cCpyf slot n | .cmpb => .cCmpb slot n | .fill => .cFill slot n
  | .adv => .cAdv slot n | .drn => .cDrn slot n | .drna => .cDrna slot n | .accl => .cAccl slot n
  | .selk => .cSelk slot n | .cpypg => .cCpypg slot n | .ckpt => .cCkpt slot n | .wr => .fWr slot n
  | .wrp => .fWrp slot n | .rd => .fRd slot n | .amo => .fAmo slot n | .post => .fPost slot n | .sem => .fSem slot n
  | .rte => .fRte slot n | .fred => .fRed slot n | .halo => .fHalo slot n

/-- The record of task `t` in a slot runs on its engine, which has planned nothing for it yet; the part has not shut down (R315), and
the stall wire holds no M.MMQ (R196, R264). -/
def Runs (t : Task) (slot : Nat) (e : Entry) (s : State) : Prop :=
  findEntry s slot = some e ∧ recTask e.record = some t ∧ e.fold = false ∧ e.state = .running ∧ e.work = none ∧
    e.altered = none ∧ s.pkg.shut = false ∧ (isQuad e && wireHeld s) = false

/-- What an access that its check refuses leaves in the memory system: the requests of its walk (R290, R314) and, for UE, the entry of
the poisoned table line (R289). -/
def refusedAccess (c : Cause) (kind : Nat) (addr : Word) (s : State) : State :=
  let w := if c = .align then s else missRequests true kind addr.toNat s
  if c = .ue then (match walkPoison w addr.toNat with | some pa => consumed false pa w | none => w) else w

/-- The canonical form of every byte store and sparse table of the state. -/
def Canonical (s : State) : Prop :=
  memWf s.mem.mem ∧ memWf s.store.spad ∧ memWf s.fab.farSpad

end Sys2Proof.Machine
end

