-- ==== Sys2Proof/Certificates/Slice0/Obligations.lean ====
section
/-! DEFINITION. The statements about this model: what decoding, a step, and every instruction and event do. -/

open Sys2Proof Sys2Proof.Machine

/-! ### Encoding (spec/03_encoding.md) -/

/-- Words written out from the spec's encodings and its own examples, one or more for each family. -/
def Obligations.WordsDecode : Prop :=
  -- ALU: MAJ 0x01, D 16, A 17, B 18, SUB 0x01 and 0x16
  decodeTableWord 32 (0x01 * 2 ^ 26 + 16 * 2 ^ 20 + 17 * 2 ^ 14 + 18 * 2 ^ 8 + 0x01) = some (.sub 16 17 18) ∧
  decodeTableWord 32 (0x01 * 2 ^ 26 + 16 * 2 ^ 20 + 17 * 2 ^ 14 + 0x16) = some (.clz 16 17) ∧
  -- immediates, constants, fields
  decodeTableWord 32 0x08000000 = some (.addi 0 0 0) ∧
  decodeTableWord 32 0x19046003 = some (.srai 16 17 3) ∧
  decodeTableWord 32 (0x07 * 2 ^ 26 + 16 * 2 ^ 20 + 0x80012) = some (.lui 16 0x80012) ∧
  decodeTableWord 32 0x25045203 = some (.bfx 16 17 true 8 3) ∧
  decodeTableWord 32 0x29148103 = some (.bfi 17 18 4 3) ∧
  -- conditions and targets
  decodeTableWord 32 0x2C920880 = some (.cmp 1 .lt 16 17) ∧
  decodeTableWord 32 0x308A0001 = some (.cmpi 1 .ne 16 1) ∧
  decodeTableWord 32 0x31B2803F = some (.cmpi 3 .bs 20 63) ∧
  decodeTableWord 32 0x3504520A = some (.sel 16 17 18 true 2) ∧
  decodeTableWord 32 0x39828000 = some (.cand 3 1 2) ∧
  decodeTableWord 32 0x418A0000 = some (.ptr 3 40) ∧
  -- transfers, loops, repeats, the count queue
  decodeTableWord 32 (0x11 * 2 ^ 26 + 3 * 2 ^ 23 + 2 * 2 ^ 20 + 2 ^ 19 + 2 ^ 16) = some (.brc 3 2 true) ∧
  decodeTableWord 32 0x48005004 = some (.loop 0 5 4) ∧
  decodeTableWord 32 0x4A406013 = some (.loopReg 2 6 19) ∧
  decodeTableWord 32 0x4D004203 = some (.loops 1 4 1 3) ∧
  decodeTableWord 32 0x54048000 = some (.cqpush 18) ∧
  -- memory, atomics, fences, semaphores
  decodeTableWord 32 (0x1C * 2 ^ 26 + 16 * 2 ^ 20 + 17 * 2 ^ 14 + 8) = some (.ldd 16 17 8) ∧
  decodeTableWord 32 0x85481400 = some (.fil 20 5) ∧
  decodeTableWord 32 (0x23 * 2 ^ 26 + 16 * 2 ^ 20 + 17 * 2 ^ 14 + 18 * 2 ^ 8 + 2 ^ 7 + 3 * 2 ^ 4 + 9) =
    some (.atomCas 16 17 18 true .package) ∧
  decodeTableWord 32 (0x24 * 2 ^ 26 + 2 * 2 ^ 22 + 4 * 2 ^ 19) = some (.fenceRel .fabric) ∧
  decodeTableWord 32 (0x25 * 2 ^ 26 + 3 * 2 ^ 23 + 2047 * 2 ^ 12 + 63) = some (.semwaiti 2047 63) ∧
  -- the window, boxes, husks, entry consistency, groups, the system
  decodeTableWord 288 (0x26 * 2 ^ 26 + 2 ^ 32 * 5) = some (.post 5) ∧
  decodeTableWord 32 (0x28 * 2 ^ 26 + 1 * 2 ^ 23 + 63 * 2 ^ 17 + 3 * 2 ^ 15 + 9 * 2 ^ 9 + 511) = some (.bxo 63 3 9 511) ∧
  decodeTableWord 32 (0x29 * 2 ^ 26 + 3 * 2 ^ 20 + 7 * 2 ^ 14 + 8 * 2 ^ 8 + 15) = some (.hktab 7 8 15) ∧
  decodeTableWord 32 (0x2A * 2 ^ 26 + 1 * 2 ^ 24 + 2 * 2 ^ 21 + 9 * 2 ^ 14) = some (.rel .die 9) ∧
  decodeTableWord 32 (0x2B * 2 ^ 26 + 5 * 2 ^ 20 + 6 * 2 ^ 17 + 2 ^ 16 + 2 * 2 ^ 14 + 2 ^ 13) =
    some (.cbr 5 6 true .maj true) ∧
  decodeTableWord 32 0xB0200005 = some (.trap 5) ∧
  decodeTableWord 32 0xB0800001 = some (.brk 1) ∧
  decodeTableWord 32 0 = none

/-- Decoding the words of a well-formed instruction gives it back, whatever words follow. -/
def Obligations.DecodeOfEncode : Prop :=
  ∀ (i : Instr) (ws rest : List Nat), i.wf = true → encode i = some ws → decodeWords (ws ++ rest) = .ok (i, rest)

/-- A word that decodes is the word of its instruction: no bit of a word is dropped, and no two words mean one
instruction. -/
def Obligations.EncodeOfDecode : Prop :=
  ∀ (w : Nat) (r : Option Rec) (i : Instr), w < 2 ^ 32 → decodeWord w r = .ok i → encodeWord i = some w

/-! ### Steps -/

/-- A strand that is at no pending cause, with no event before it, runs the instruction that its words decode to; a repeat in
progress runs the repetition of the word behind its REP. While a snapshot of the word before it waits to be written, and while a
trap entry waits for what runs below its cut record, the strand stalls. The order of a step (agenda, pending cause, strand) and what
settles behind it are the model's choice (log entry 5); that a word waits while a second snapshot of the word before it is still to
be written is log entry 40, and that the strand stalls while a trap entry waits is log entry 38 (DEDUCED beside R174). -/
def Obligations.StepRunsDecoded : Prop :=
  ∀ (s : State) (i : Instr), s.agenda = [] → nextCause s = none → s.strand.run = .running → s.strand.stalled = false →
    (s.prof.queued = [] → s.thatch.trapDue = none →
      (s.strand.rep = none → faultyWord s s.strand.pc = none → decodeAt s s.strand.pc = some (.ok i) →
        step s = settled (exec i s)) ∧
      (∀ r, s.strand.rep = some r → faultyWord s (s.strand.pc + 1) = none → decodeAt s (s.strand.pc + 1) = some (.ok i) →
        step s = settled (exec (repStep r i) s))) ∧
    (s.prof.queued ≠ [] ∨ s.thatch.trapDue ≠ none → step s = .next (settle (stallAt s)))

/-- A word that is no instruction, and a fetch outside the image, are ILLEGAL and SEG with INFO 5, an inline POST whose record runs past
the image SEG with EPC and FADDR its first missing word (R79), a word whose line of memory is poisoned UE, with FADDR that word and an
entry of the fault-address queue (R289), and a word whose line has a home that cannot be reached OWNER, with FADDR that word (R306).
Under speculation (R362), and before the stores of a commit have issued (R365), they stall the strand. The order of a step is the
model's choice (log entry 5); which lines of memory a fetch asks is log entry 9; the causes of a fetch in an inactive segment are log
entry 40. -/
def Obligations.StepAtNoInstruction : Prop :=
  (∀ (s : State), s.agenda = [] → nextCause s = none → s.strand.run = .running → s.strand.stalled = false →
     s.strand.rep = none → s.prof.queued = [] → s.thatch.trapDue = none → s.sys.spec = false → heldFirst s = false →
     (∀ e, faultyWord s s.strand.pc = none → decodeAt s s.strand.pc = some (.error e) → e ≠ .truncated →
       step s = .next (settle (trapEntry { cause := .illegal } false none s))) ∧
     (∀ k : Nat, k < 8 → faultyWord s s.strand.pc = none → decodeAt s s.strand.pc = some (.error .truncated) →
       (∀ j, j < k → textAt s (s.strand.pc + 1 + BitVec.ofNat 32 j) ≠ none) →
       textAt s (s.strand.pc + 1 + BitVec.ofNat 32 k) = none →
       step s = .next (settle (trapEntry
         { cause := .seg, info := 5, faddr := some ((s.strand.pc + 1 + BitVec.ofNat 32 k).setWidth 64) } false none
         (withPc s (s.strand.pc + 1 + BitVec.ofNat 32 k))))) ∧
     (textAt s s.strand.pc = none →
       step s = .next (settle (trapEntry { cause := .seg, info := 5, faddr := some (s.strand.pc.setWidth 64) } false none s))) ∧
     (∀ line, textAt s s.strand.pc ≠ none → List.lookup (s.strand.pc.toNat / 16) s.strand.textLines = some line →
       (reachesHome s line = false → step s = .next (settle (trapEntry
         { cause := .owner, info := 5, faddr := some (s.strand.pc.setWidth 64) } false none s))) ∧
       (reachesHome s line = true → poisonedAt s (memKey s.sys.nodeid.toNat line) = true → step s = .next (settle (trapEntry
         { cause := .ue, info := 5, faddr := some (s.strand.pc.setWidth 64), line := some line } false none
         (consumed false line s)))))) ∧
  -- a word of an inline record behind its POST
  (∀ (s : State) (k line : Nat), postAt s s.strand.pc = true → k < 9 →
     (∀ j, j ≤ k → textAt s (s.strand.pc + BitVec.ofNat 32 j) ≠ none) →
     (∀ j, j < k → lineFault s (s.strand.pc + BitVec.ofNat 32 j) = none) →
     let a : BitVec 32 := s.strand.pc + BitVec.ofNat 32 k
     List.lookup (a.toNat / 16) s.strand.textLines = some line →
     (reachesHome s line = false → faultyWord s s.strand.pc = some (.unreached a)) ∧
     (reachesHome s line = true → poisonedAt s (memKey s.sys.nodeid.toNat line) = true →
       faultyWord s s.strand.pc = some (.poisoned a line))) ∧
  (∀ (s : State) (w a : BitVec 32),
     (s.sys.spec = false → heldFirst s = false →
       exec (.illegal w) s = .next (trapEntry { cause := .illegal } false none s) ∧
       exec (.fetchOutsideImage a) s =
         .next (trapEntry { cause := .seg, info := 5, faddr := some (a.setWidth 64) } false none (withPc s a))) ∧
     (s.sys.spec = true ∨ heldFirst s = true →
       exec (.illegal w) s = .next (stallAt s) ∧ exec (.fetchOutsideImage a) s = .next (stallAt s)))

/-- No instruction, no event and no step ends in a fault or a refusal. That no step ends in a fault or a refusal is a property of
the model, which takes every cause as a trap. -/
def Obligations.EveryStepCompletes : Prop := (∀ (i : Instr) (s : State), completes (exec i s)) ∧ ∀ s, completes (step s)

/-- Every step keeps the byte stores in their canonical form: memory, the scratchpad and the scratchpads of other cores. The
canonical form is the model's choice (log entry 2); the pairs are sorted by address and none is zero. -/
def Obligations.StepKeepsCanonical : Prop := ∀ s t : State, Canonical s → step s = .next t → Canonical t

/-- Reset memory has that form. The canonical form is the model's choice (log entry 2). -/
def Obligations.ResetCanonical : Prop := Canonical State.reset

/-- The reset values that the spec states. -/
def Obligations.ResetValues : Prop :=
  let s := State.reset
  (∀ r, getG s r = 0) ∧ (∀ c, getC s c = decide (c = 0)) ∧ (∀ t, getTb s t = 0) ∧ (∀ n, getSpill s n = 0) ∧
    s.strand.ras = [] ∧ s.strand.cq = [] ∧ s.strand.loads = [] ∧ s.strand.copies = [] ∧ s.strand.xstat = {} ∧
    s.strand.icount = 0 ∧ s.sys.spec = false ∧ s.sys.pp = false ∧ s.sys.th = false ∧ s.sys.cause = {} ∧
    s.sys.exstat = {} ∧ s.sys.flags = 0 ∧ s.sys.rnpool = 256 ∧ s.sys.preedl = 100000 ∧ s.sys.pipexp = 1000000 ∧
    s.sys.cbrto = 10000000 ∧ s.sys.selftestPeriod = 4096 ∧ s.sys.traceb = 0 ∧ s.thatch.entries = [] ∧
    (∀ n, getSem s n = 0) ∧ (∀ n, hkV (getHusk s n) = false) ∧ (∀ x : Bx, (getBox s x).bv = decide (62 ≤ x.val))

/-! ### Registers, completion and control -/

/-- g0 reads 0 and c0 reads 1; a write to either is discarded; every other register holds what was written last. -/
def Obligations.RegisterAccess : Prop :=
  (∀ s : State, getG s 0 = 0 ∧ getC s 0 = true) ∧
  (∀ (s : State) (v : Word) (b : Bool), setG s 0 v = s ∧ setC s 0 b = s) ∧
  (∀ (s : State) (n r : Reg) (v : Word), n ≠ 0 → getG (setG s n v) r = if r = n then v else getG s r) ∧
  (∀ (s : State) (n r : Cond) (b : Bool), n ≠ 0 → getC (setC s n b) r = if r = n then b else getC s r)

/-- Completing an instruction of `size` words that has made of `s` the state `u` moves control on behind it, and all but the issue
state of `u` stands, the scratchpad too while the trace is off. Only while a snapshot is being written, and only where the
completion takes another one, does the instruction stall unissued instead (R280). What happens where a snapshot meets one that is
still being written follows log entry 40. -/
def Obligations.CompletionFrame : Prop :=
  ∀ (size : BitVec 32) (s u : State),
    let t := finish size s (.done u)
    let a := advance size u
    (a.strand.g = u.strand.g ∧ a.strand.c = u.strand.c ∧ a.strand.bounds = u.strand.bounds ∧ RestStands u a) ∧
    (s.prof.busy = false → t = a) ∧
    (s.prof.busy = true → a.prof.snaps = s.prof.snaps → t = a) ∧
    (s.prof.busy = true → a.prof.snaps ≠ s.prof.snaps → t = stallAt s) ∧
    (traceOn u = false → a.prof.snaps = u.prof.snaps)

/-- Where control goes behind a completed instruction: to the next word; back to the first word of a body with iterations
left; behind a body at its last iteration, where the loop ends and its register keeps its values, or back to the first word
of the next outer loop; to the target of a pending transfer, ending the loops that it leaves, or its fall-through; to the next
repetition. The strand instruction count grows by one, by two for the first repetition (R78). -/
def Obligations.CompletionControl : Prop :=
  ∀ (size : BitVec 32) (s : State),
    let t := advance size s
    let l := innermost s.strand.xstat
    let outer : LoopId := Fin.ofNat 4 (s.strand.xstat.nest.toNat / 4)
    let last : BitVec 32 := s.strand.pc + (size - 1)
    (Straight s → t.strand.pc = s.strand.pc + size ∧ t.strand.icount = s.strand.icount + 1) ∧
    -- the last word of the innermost body
    (s.strand.rep = none → s.strand.pend = none → s.strand.xstat.depth ≠ 0 → (getBounds s l).last = last →
      ((getLc s l).j.toNat + 1 < loopTotal s l → t.strand.pc = (getBounds s l).first ∧
        getLc t l = { getLc s l with j := (getLc s l).j + 1 } ∧ t.strand.xstat.depth = s.strand.xstat.depth) ∧
      (loopTotal s l ≤ (getLc s l).j.toNat + 1 → s.strand.xstat.depth = 1 ∨ (getBounds s outer).last ≠ last →
        t.strand.pc = s.strand.pc + size ∧ t.strand.xstat.depth = s.strand.xstat.depth - 1 ∧
          t.strand.xstat.nest = s.strand.xstat.nest >>> 2 ∧ t.strand.lc = s.strand.lc) ∧
      (loopTotal s l ≤ (getLc s l).j.toNat + 1 → s.strand.xstat.depth ≠ 1 → outer ≠ l → (getBounds s outer).last = last →
        (getLc s outer).j.toNat + 1 < loopTotal s outer →
        t.strand.pc = (getBounds s outer).first ∧ t.strand.xstat.depth = s.strand.xstat.depth - 1 ∧
          getLc t outer = { getLc s outer with j := (getLc s outer).j + 1 } ∧ getLc t l = getLc s l)) ∧
    -- a transfer behind its shadow slot
    (∀ p, s.strand.rep = none → s.strand.pend = some p → s.strand.xstat.depth.toNat ≤ 4 →
      let leaves (ls : List LoopId) := ls.dropWhile (fun o => !inBody (getBounds s o) p.target)
      (p.kind = .xfer ∨ p.kind = .cbrKnown → p.taken = true → t.strand.pc = p.target ∧ t.strand.pend = none ∧
        t.strand.lc = s.strand.lc ∧ activeLoops t.strand.xstat = leaves (activeLoops s.strand.xstat)) ∧
      (∀ k, p.kind = .lbrk k → p.taken = true → t.strand.pc = p.target ∧ t.strand.pend = none ∧ t.strand.lc = s.strand.lc ∧
        activeLoops t.strand.xstat = leaves (((activeLoops s.strand.xstat).dropWhile (fun o => o != k)).drop 1)) ∧
      ((∀ h i, p.kind ≠ .cbrOpen h i) → p.taken = false →
        t = advance size { s with strand := { s.strand with pend := none } })) ∧
    (∀ r, s.strand.rep = some r → r.k < r.n →
      t.strand.pc = s.strand.pc ∧ t.strand.rep = some { r with k := r.k + 1 } ∧
        t.strand.icount = s.strand.icount + (if r.k = 0 then 2 else 1))

/-! ### Integer instructions (spec/05_strand_integer_control.md) -/

/-- The ALU words but division (R99): g[D] holds the value of the table, for two operands and for one. -/
def Obligations.AluResults : Prop :=
  (∀ (s : State) (d a b : Reg), Ready [d, a, b] false s →
     let x := getG s a
     let y := getG s b
     let n := y.toNat % 64
     let is (i : Instr) (v : Word) : Prop := exec i s = .next (finish 1 s (.done (setG s d v)))
     is (.add d a b) (x + y) ∧ is (.sub d a b) (x - y) ∧ is (.mul d a b) (x * y) ∧
     is (.mulh d a b) (BitVec.ofInt 64 ((x.toInt * y.toInt) / 2 ^ 64)) ∧
     is (.mulhn d a b) (BitVec.ofNat 64 (x.toNat * y.toNat / 2 ^ 64)) ∧
     is (.and d a b) (x &&& y) ∧ is (.or d a b) (x ||| y) ∧ is (.xor d a b) (x ^^^ y) ∧ is (.andn d a b) (x &&& ~~~y) ∧
     is (.sll d a b) (x <<< n) ∧ is (.srl d a b) (x >>> n) ∧ is (.sra d a b) (x.sshiftRight n) ∧
     is (.rol d a b) ((x <<< n) ||| (x >>> ((64 - n) % 64))) ∧ is (.ror d a b) ((x >>> n) ||| (x <<< ((64 - n) % 64))) ∧
     is (.min d a b) (if x.toInt ≤ y.toInt then x else y) ∧ is (.max d a b) (if x.toInt ≤ y.toInt then y else x) ∧
     is (.minn d a b) (if x.toNat ≤ y.toNat then x else y) ∧ is (.maxn d a b) (if x.toNat ≤ y.toNat then y else x) ∧
     is (.addw d a b) (BitVec.signExtend 64 ((x + y).setWidth 32)) ∧
     is (.subw d a b) (BitVec.signExtend 64 ((x - y).setWidth 32)) ∧
     (∃ v : Word, is (.clmul d a b) v ∧ ∀ k < 64, v.getLsbD k =
       decide (((List.range (k + 1)).filter (fun i => y.getLsbD i && x.getLsbD (k - i))).length % 2 = 1)) ∧
     (∃ v : Word, is (.clmulh d a b) v ∧ ∀ k < 64, v.getLsbD k =
       decide (((List.range 64).filter (fun i => y.getLsbD i && decide (i ≤ k + 64) && x.getLsbD (k + 64 - i))).length % 2 = 1))) ∧
  (∀ (s : State) (d a : Reg), Ready [d, a] false s →
     let x := getG s a
     let is (i : Instr) (v : Word) : Prop := exec i s = .next (finish 1 s (.done (setG s d v)))
     (x = 0 → is (.clz d a) 64 ∧ is (.ctz d a) 64) ∧
     (∀ k < 64, x.getLsbD k = true → (∀ j, k < j → x.getLsbD j = false) → is (.clz d a) (BitVec.ofNat 64 (63 - k))) ∧
     (∀ k < 64, x.getLsbD k = true → (∀ j, j < k → x.getLsbD j = false) → is (.ctz d a) (BitVec.ofNat 64 k)) ∧
     is (.popc d a) (BitVec.ofNat 64 ((List.range 64).filter (fun i => x.getLsbD i)).length) ∧
     ∃ v : Word, is (.bswap d a) v ∧ ∀ i < 8, v.extractLsb' (8 * (7 - i)) 8 = x.extractLsb' (8 * i) 8)

/-- Division (R100), the borderline pairs included: it never traps and never changes FLAGS. -/
def Obligations.DivisionResults : Prop :=
  ∀ (s : State) (d a b : Reg), Ready [d, a, b] false s →
    let x := getG s a
    let y := getG s b
    let is (i : Instr) (v : Word) : Prop := exec i s = .next (finish 1 s (.done (setG s d v)))
    (y = 0 → is (.div d a b) 0xFFFFFFFFFFFFFFFF ∧ is (.rem d a b) x ∧ is (.divn d a b) 0xFFFFFFFFFFFFFFFF ∧
      is (.remn d a b) x) ∧
    (x.toInt = -(2 ^ 63) → y.toInt = -1 → is (.div d a b) x ∧ is (.rem d a b) 0) ∧
    (y ≠ 0 → ¬(x.toInt = -(2 ^ 63) ∧ y.toInt = -1) → ∃ q r : Word, is (.div d a b) q ∧ is (.rem d a b) r ∧
      q.toInt = x.toInt.tdiv y.toInt ∧ r.toInt = x.toInt - q.toInt * y.toInt) ∧
    (y ≠ 0 → ∃ q r : Word, is (.divn d a b) q ∧ is (.remn d a b) r ∧ q.toNat = x.toNat / y.toNat ∧
      r.toNat = x.toNat - q.toNat * y.toNat) ∧
    (∀ i ∈ [Instr.div d a b, .rem d a b, .divn d a b, .remn d a b], ∀ t, exec i s = .next t → t.sys.flags = s.sys.flags)

/-- Immediates, constants and bit fields (R101 to R104). -/
def Obligations.ImmediateResults : Prop :=
  (∀ (s : State) (d a : Reg) (i : BitVec 14) (n : BitVec 6) (u : BitVec 20),
     let x := getG s a
     let is (i : Instr) (v : Word) : Prop := exec i s = .next (finish 1 s (.done (setG s d v)))
     (Ready [d, a] false s →
       is (.addi d a i) (x + i.signExtend 64) ∧ is (.andi d a i) (x &&& i.signExtend 64) ∧
       is (.ori d a i) (x ||| i.signExtend 64) ∧ is (.xori d a i) (x ^^^ i.signExtend 64) ∧
       is (.slli d a n) (x <<< n.toNat) ∧ is (.srli d a n) (x >>> n.toNat) ∧ is (.srai d a n) (x.sshiftRight n.toNat) ∧
       is (.rori d a n) ((x >>> n.toNat) ||| (x <<< ((64 - n.toNat) % 64)))) ∧
     (Ready [d] false s →
       is (.lui d u) (BitVec.signExtend 64 (u.setWidth 32 <<< 12)) ∧
       ∃ v : Word, is (.lih d u) v ∧ v.extractLsb' 44 20 = u ∧ v.extractLsb' 0 44 = (getG s d).extractLsb' 0 44)) ∧
  (∀ (s : State) (d a : Reg) (pos len1 : BitVec 6), Ready [d, a] false s →
     let x := getG s a
     let len := len1.toNat + 1
     let is (i : Instr) (v : Word) : Prop := exec i s = .next (finish 1 s (.done (setG s d v)))
     is (.bfx d a false pos len1) ((x >>> pos.toNat) &&& BitVec.ofNat 64 (2 ^ len - 1)) ∧
     (∃ v : Word, is (.bfx d a true pos len1) v ∧
       ∀ k < 64, v.getLsbD k = x.getLsbD (pos.toNat + min k (len - 1))) ∧
     ∃ v : Word, is (.bfi d a pos len1) v ∧
       ∀ k < 64, v.getLsbD k =
         if pos.toNat ≤ k ∧ k < pos.toNat + len then x.getLsbD (k - pos.toNat) else (getG s d).getLsbD k)

/-- Comparisons, SEL and the CND words (R105, R47, R106, R107). -/
def Obligations.ConditionResults : Prop :=
  ∀ (s : State) (c p q : Cond) (d a b : Reg) (imm : BitVec 13) (neg : Bool),
    let is (i : Instr) (v : Bool) : Prop := exec i s = .next (finish 1 s (.done (setC s c v)))
    let holds (cc : Cmp) (x y : Word) : Bool :=
      match cc with
      | .eq => decide (x = y) | .ne => decide (x ≠ y)
      | .lt => decide (x.toInt < y.toInt) | .ge => decide (y.toInt ≤ x.toInt)
      | .ltn => decide (x.toNat < y.toNat) | .gen => decide (y.toNat ≤ x.toNat)
      | .bs => x.getLsbD (y.toNat % 64) | .bc => !x.getLsbD (y.toNat % 64)
    (Ready [a, b] false s → ∀ cc, is (.cmp c cc a b) (holds cc (getG s a) (getG s b))) ∧
    (Ready [a] false s → ∀ cc, is (.cmpi c cc a imm) (holds cc (getG s a) (imm.signExtend 64))) ∧
    (Ready [d, a, b] false s → exec (.sel d a b neg p) s =
      .next (finish 1 s (.done (setG s d (if (getC s p ^^ neg) = true then getG s a else getG s b))))) ∧
    (Ready [] false s →
      is (.cand c p q) (getC s p && getC s q) ∧ is (.cor c p q) (getC s p || getC s q) ∧
      is (.cxor c p q) (getC s p ^^ getC s q) ∧ is (.candn c p q) (getC s p && !getC s q))

/-- The frame of the integer instructions and of the instructions that write a condition bit, in every state and for every
form. -/
def Obligations.RegisterFrame : Prop :=
  (∀ (i : Instr) (d : Reg) (s t : State), integerDest i = some d → exec i s = .next t →
     (∀ r, r ≠ d → getG t r = getG s r) ∧ t.strand.c = s.strand.c ∧ RestStands s t) ∧
  (∀ (i : Instr) (c : Cond) (s t : State), conditionDest i = some c → exec i s = .next t →
     (∀ x, x ≠ c → getC t x = getC s x) ∧ t.strand.g = s.strand.g ∧ RestStands s t)

/-! ### Targets, transfers, loops, repeats and the count queue -/

/-- PTG and PTR (R108, R109): a value above 32 bits traps SEG with FADDR = g[A] and writes nothing. That this SEG has INFO 0 is the
model's choice (log entry 40). -/
def Obligations.TargetResults : Prop :=
  ∀ (s : State) (t : Tb) (disp : BitVec 23) (a : Reg),
    (Ready [] false s → exec (.ptg t disp) s = .next (finish 1 s (.done (setTb s t (s.strand.pc + disp.signExtend 32))))) ∧
    (Ready [a] false s → (getG s a).toNat < 2 ^ 32 →
      exec (.ptr t a) s = .next (finish 1 s (.done (setTb s t ((getG s a).setWidth 32))))) ∧
    (Ready [a] false s → 2 ^ 32 ≤ (getG s a).toNat → s.sys.spec = false →
      exec (.ptr t a) s = .next (trapEntry { cause := .seg, faddr := some (getG s a) } false none s))

/-- The transfers (R110): each waits behind its shadow slot with its target and whether it is taken; CALL and a taken CALLC
push the address behind the slot, RET pops. Their traps (R65, R92, R110): in a shadow slot, in the last word of a segment,
with a full and with an empty return-address store. -/
def Obligations.TransferResults : Prop :=
  (∀ (s : State) (t : Tb) (c : Cond) (neg : Bool) (l : LoopId), Ready [] false s → TransferPlace s →
     let n : BitVec 32 := s.strand.pc + (if postAt s (s.strand.pc + 1) then 10 else 2)
     let goes (u : State) (taken : Bool) (target : BitVec 32) (kind : PendKind) : Host.Outcome State Fault Refusal :=
       .next (pendTransfer { kind := kind, taken := taken, target := target, fall := n } u)
     let pushed : State := { s with strand := { s.strand with ras := s.strand.ras ++ [n] } }
     exec (.br t) s = goes s true (getTb s t) .xfer ∧
     exec (.brc t c neg) s = goes s (getC s c ^^ neg) (getTb s t) .xfer ∧
     (s.strand.ras.length < 16 → exec (.call t) s = goes pushed true (getTb s t) .xfer) ∧
     ((getC s c ^^ neg) = false → exec (.callc t c neg) s = goes s false (getTb s t) .xfer) ∧
     ((getC s c ^^ neg) = true → s.strand.ras.length < 16 → exec (.callc t c neg) s = goes pushed true (getTb s t) .xfer) ∧
     (∀ ras a, s.strand.ras = ras ++ [a] →
       exec .ret s = goes { s with strand := { s.strand with ras := ras } } true a .xfer) ∧
     exec (.lbrk l c neg) s =
       goes s ((getC s c ^^ neg) && loopActive s l) ((getBounds s l).last + 1) (.lbrk l)) ∧
  (∀ (s : State) (t : Tb) (c : Cond) (neg : Bool) (l : LoopId), Ready [] false s → s.sys.spec = false →
     let traps (i : Instr) (c : Cause) : Prop := exec i s = .next (trapEntry { cause := c } false none s)
     (s.strand.pend ≠ none → ∀ i ∈ [Instr.br t, .brc t c neg, .call t, .callc t c neg, .ret, .lbrk l c neg],
       traps i .illegal) ∧
     (s.strand.pend = none → lastOfSegment s = true →
       ∀ i ∈ [Instr.br t, .brc t c neg, .call t, .callc t c neg, .ret, .lbrk l c neg], traps i .loopShape) ∧
     (TransferPlace s → 16 ≤ s.strand.ras.length → traps (.call t) .rasOver ∧
       ((getC s c ^^ neg) = true → traps (.callc t c neg) .rasOver)) ∧
     (TransferPlace s → s.strand.ras = [] → traps .ret .rasEmpty))

/-- The loop instructions (R82, R83, R113): with a count the loop becomes the innermost active one and control goes to its first
word; with none it goes behind the body. LOOPS caps its count at 0xFFFFFFF8. In a shadow slot they are ILLEGAL; a loop already
active, a body that leaves the body of an active loop or a segment of an active LOOPS, a LOOPS whose length is 0 or no multiple of
its stages, and one inside a LOOPS, are LOOP_SHAPE, whatever the count. LOOP_SHAPE of a body past the last word address, and of a
LOOPS with LEN = 0, follow log entry 40. -/
def Obligations.LoopStarts : Prop :=
  ∀ (s : State) (l : LoopId) (len : BitVec 10) (cnt : BitVec 12) (cnt9 : BitVec 9) (stg : BitVec 3) (g : Reg),
    let b : Bounds := { first := s.strand.pc + 1, last := s.strand.pc + len.setWidth 32 }
    let cap (c : BitVec 32) : BitVec 32 := if 0xFFFFFFF8 < c.toNat then 0xFFFFFFF8 else c
    let starts (i : Instr) (u : State) (pipe : Bool) (stages : Nat) (c : BitVec 32) : Prop :=
      s.strand.pend = none → loopMisshapen s l b pipe len.toNat stages = false →
      (c ≠ 0 → exec i s = .next (withPc (pushLoop l b pipe stages c (clearIssue (addCount 1 u))) b.first)) ∧
      (c = 0 → exec i s = .next (snapGuard s (afterWord 4 b.last (setLc (clearIssue (addCount 1 u)) l { j := 0, cnt := 0 }))))
    let stops (i : Instr) (pipe : Bool) (stages : Nat) : Prop := s.sys.spec = false →
      let traps (c : Cause) : Prop := exec i s = .next (trapEntry { cause := c } false none s)
      (s.strand.pend ≠ none → traps .illegal) ∧
      (s.strand.pend = none → loopActive s l = true → traps .loopShape) ∧
      (∀ o ∈ activeLoops s.strand.xstat, s.strand.pend = none →
        (¬((getBounds s o).first ≤ b.first ∧ b.last ≤ (getBounds s o).last) → traps .loopShape) ∧
        (isPipe s.strand.xstat o = true → (getBounds s o).first ≤ b.first → b.last ≤ (getBounds s o).last →
          (let seg := max 1 (((getBounds s o).last.toNat + 1 - (getBounds s o).first.toNat) / (s.strand.xstat.stg.toNat + 1))
           (s.strand.pc.toNat - (getBounds s o).first.toNat) / seg ≠ (b.last.toNat - (getBounds s o).first.toNat) / seg) →
          traps .loopShape)) ∧
      (s.strand.pend = none → pipe = true → len = 0 ∨ len.toNat % stages ≠ 0 ∨ s.strand.xstat.pipe = true → traps .loopShape)
    (Ready [] false s → starts (.loop l len cnt) s false 1 (cnt.setWidth 32) ∧
      starts (.loops l len stg cnt9) s true (stg.toNat + 1) (cnt9.setWidth 32) ∧
      stops (.loop l len cnt) false 1 ∧ stops (.loops l len stg cnt9) true (stg.toNat + 1)) ∧
    (Ready [g] false s → starts (.loopReg l len g) s false 1 ((getG s g).setWidth 32) ∧
      starts (.loopsReg l len stg g) s true (stg.toNat + 1) (cap ((getG s g).setWidth 32)) ∧
      stops (.loopReg l len g) false 1 ∧ stops (.loopsReg l len stg g) true (stg.toNat + 1)) ∧
    (Ready [] true s → stops (.loopCq l len) false 1 ∧ stops (.loopsCq l len stg) true (stg.toNat + 1) ∧
      ∀ c u, cqPop s = some (c, u) → starts (.loopCq l len) u false 1 c ∧
        starts (.loopsCq l len stg) u true (stg.toNat + 1) (cap c))

/-- REP (R51, R87, R116, R117): a word that it may repeat is repeated from repetition XSTAT.REPK on; any other word is ILLEGAL; as the
last word of a loop's body REP is LOOP_SHAPE, before the end of the image SEG. It may repeat the words of the ALU, SEL, CQ, ASYNC and
ATOM majors, of the RI and of the MEM majors, where each repetition's register numbers, by the fields of the word, stay in 0 to 63, and
a step is zero for a field that the operation does not use. Repetition k has the fields D + k·SD, A + k·SA and B + k·SB, and every other
bit of the word. Where a repeat with REPK above N begins follows log entry 40. -/
def Obligations.RepeatStarts : Prop :=
  (∀ (s : State) (n : BitVec 6) (sd sa sb : BitVec 4), Ready [] false s → s.strand.pend = none →
     (∀ i, decodeAt s (s.strand.pc + 1) = some (.ok i) → repOk n.toNat sd sa sb i = true → lastOfBody s = false →
       ∃ t : State, exec (.rep n sd sa sb) s = .next t ∧
         t.strand.rep = some { k := if s.strand.xstat.repk.toNat ≤ n.toNat then s.strand.xstat.repk.toNat else 0
                               n := n.toNat, sd := sd, sa := sa, sb := sb } ∧
         t.strand.pc = s.strand.pc ∧ t.strand.g = s.strand.g ∧ t.strand.c = s.strand.c ∧ RestStands s t) ∧
     (s.sys.spec = false →
       (∀ i, decodeAt s (s.strand.pc + 1) = some (.ok i) → repOk n.toNat sd sa sb i = false →
         exec (.rep n sd sa sb) s = .next (trapEntry { cause := .illegal } false none s)) ∧
       (∀ i, decodeAt s (s.strand.pc + 1) = some (.ok i) → repOk n.toNat sd sa sb i = true → lastOfBody s = true →
         exec (.rep n sd sa sb) s = .next (trapEntry { cause := .loopShape } false none s)) ∧
       (textAt s (s.strand.pc + 1) = none → lastOfBody s = false → exec (.rep n sd sa sb) s = .next (trapEntry
         { cause := .seg, info := 5, faddr := some ((s.strand.pc + 1).setWidth 64) } false none s)))) ∧
  -- the words that it may repeat, and their repetitions
  (∀ (i : Instr) (w n k : Nat) (sd sa sb : BitVec 4), encodeWord i = some w →
    let maj := w / 2 ^ 26
    let sub := w % 2 ^ 8
    let range (st : BitVec 4) (lo : Nat) : Prop :=
      let x : Int := (w / 2 ^ lo % 64 : Nat)
      0 ≤ x + n * st.toInt ∧ x + n * st.toInt ≤ 63
    let oneSource : Prop := maj = 0x01 ∧ sub ∈ [0x16, 0x17, 0x18, 0x19]
    (repOk n sd sa sb i = true ↔
      (maj ∈ [0x01, 0x0D, 0x22, 0x23] ∧ ¬oneSource ∧ range sd 20 ∧ range sa 14 ∧ range sb 8) ∨
      ((oneSource ∨ maj ∈ [0x02, 0x03, 0x04, 0x05, 0x06, 0x09, 0x0A] ∨ (0x16 ≤ maj ∧ maj ≤ 0x20)) ∧
        range sd 20 ∧ range sa 14 ∧ sb = 0) ∨
      (maj = 0x15 ∧ sub = 0 ∧ sd = 0 ∧ range sa 14 ∧ sb = 0) ∨
      (maj = 0x15 ∧ (sub = 1 ∨ sub = 3) ∧ range sd 20 ∧ sa = 0 ∧ sb = 0) ∨
      (maj = 0x15 ∧ sub = 2 ∧ sd = 0 ∧ sa = 0 ∧ sb = 0)) ∧
    (repOk n sd sa sb i = true → k ≤ n → ∃ v, encodeWord (repStep { k := k, n := n, sd := sd, sa := sa, sb := sb } i) = some v ∧
      (v : Int) = w + k * (sd.toInt * 2 ^ 20 + sa.toInt * 2 ^ 14 + sb.toInt * 2 ^ 8)))

/-- The count queue (R88 to R90, R119). -/
def Obligations.QueueResults : Prop :=
  ∀ (s : State) (a d : Reg),
    let with' (q : List (BitVec 32)) : State := { s with strand := { s.strand with cq := q } }
    (Ready [a] true s → s.strand.cq.length < 64 → s.strand.xstat.cqo = false →
      exec (.cqpush a) s = .next (finish 1 s (.done (with' (s.strand.cq ++ [(getG s a).setWidth 32]))))) ∧
    (Ready [a] true s → s.strand.cq.length = 64 →
      exec (.cqpush a) s = .next (finish 1 s (.done (withXstat s { s.strand.xstat with cqo := true })))) ∧
    (Ready [d] true s → ∀ v q, s.strand.cq = v :: q →
      exec (.cqpop d) s = .next (finish 1 s (.done (setG (with' q) d (v.setWidth 64))))) ∧
    (Ready [d] true s → s.strand.cq = [] → s.thatch.entries.any deliversCounts = false →
      exec (.cqpop d) s = .next (finish 1 s (.done (setG (withXstat s { s.strand.xstat with cqu := true }) d 0)))) ∧
    (Ready [d] true s → s.strand.cq = [] → s.thatch.entries.any deliversCounts = true →
      exec (.cqpop d) s = .next (stallAt s)) ∧
    (Ready [] true s → exec .cqclr s = .next (finish 1 s (.done (with' [])))) ∧
    (Ready [d] true s → exec (.cqlen d) s = .next (finish 1 s (.done (setG s d (BitVec.ofNat 64 s.strand.cq.length)))))

/-! ### Loads, stores, spill slots, copies, atomics, fences (spec/06_strand_memory_system.md) -/

/-- The address check (R120): a scratchpad address whose middle bits are set, or beyond 6 MiB, is SEG; an address that is no
multiple of the access size is ALIGN; both before any translation. Behind it a frame that this package does not reach is OWNER (R306), and
an access to a stack that is being handed over, or whose walk reads a table there, is held (R309; that the walk is held is DEDUCED, log
entry 24). -/
def Obligations.AddressChecks : Prop :=
  ∀ (s : State) (addr : Word) (size kind : Nat),
    (addr.getLsbD 63 = true →
      (addr.toNat / 2 ^ 23 % 2 ^ 40 ≠ 0 → check addr size kind s = .bad .seg) ∧
      (addr.toNat / 2 ^ 23 % 2 ^ 40 = 0 → addr.toNat % 2 ^ 23 % size ≠ 0 → check addr size kind s = .bad .align) ∧
      (addr.toNat / 2 ^ 23 % 2 ^ 40 = 0 → addr.toNat % 2 ^ 23 % size = 0 → 0x600000 < addr.toNat % 2 ^ 23 + size →
        check addr size kind s = .bad .seg) ∧
      (addr.toNat / 2 ^ 23 % 2 ^ 40 = 0 → addr.toNat % 2 ^ 23 % size = 0 → addr.toNat % 2 ^ 23 + size ≤ 0x600000 →
        check addr size kind s = .spad (addr.toNat % 2 ^ 23))) ∧
    (addr.getLsbD 63 = false →
      (addr.toNat / 2 ^ 51 % 2 ^ 12 ≠ 0 → check addr size kind s = .bad .seg) ∧
      (addr.toNat / 2 ^ 51 % 2 ^ 12 = 0 → addr.toNat % size ≠ 0 → check addr size kind s = .bad .align) ∧
      (addr.toNat / 2 ^ 51 % 2 ^ 12 = 0 → addr.toNat % size = 0 → segFind s s.sys.asid addr.toNat = none →
        check addr size kind s = .bad .seg) ∧
      (addr.toNat / 2 ^ 51 % 2 ^ 12 = 0 → addr.toNat % size = 0 →
        (∀ c, xlate false s.sys.asid addr.toNat kind s = .bad c →
          check addr size kind s = if walkHeld true kind addr.toNat s = true then .held else .bad c) ∧
        (∀ pa mig sw leaf u, xlate false s.sys.asid addr.toNat kind s = .ok pa mig sw leaf u →
          (reachesHome s pa = false → check addr size kind s = .bad .owner) ∧
          (reachesHome s pa = true → ridgingAt s pa = true ∨ walkHeld true kind addr.toNat s = true → check addr size kind s = .held) ∧
          (reachesHome s pa = true → ridgingAt s pa = false → walkHeld true kind addr.toNat s = false →
            check addr size kind s = .mem pa mig sw leaf u))))

/-- A load, store or atomic whose check fails traps with its cause, which is never BRK; FADDR holds the address and INFO the kind
(R133, R136); the table reads of its walk are requests at their homes (R290, R314), and a UE of a page table enters the fault-address
queue (R289); a store that meets PAGE or WPROT, or that comes behind a parked store of its page, parks instead (R122, R294). One that a
hand-over holds stalls (R309). That an uncorrectable line of a page table is the precise UE of the access, and that OWNER sets FADDR,
follow log entry 40. -/
def Obligations.AccessTraps : Prop :=
  ∀ (s : State) (d a b : Reg) (imm : BitVec 14) (w32 : Bool) (sc : Scope) (c : Cause), s.sys.spec = false → c ≠ .brk →
    let ea := getG s a + imm.signExtend 64
    let traps (i : Instr) (addr : Word) (kind : Nat) : Prop := exec i s = .next (trapEntry
      { cause := c, info := BitVec.ofNat 32 kind, faddr := some addr, access := some true } false none (refusedAccess c kind addr s))
    (Ready [d, a] false s →
      (check ea 1 0 s = .bad c → traps (.ldb d a imm) ea 0 ∧ traps (.ldbn d a imm) ea 0) ∧
      (check ea 2 0 s = .bad c → traps (.ldh d a imm) ea 0 ∧ traps (.ldhn d a imm) ea 0) ∧
      (check ea 4 0 s = .bad c → traps (.ldw d a imm) ea 0 ∧ traps (.ldwn d a imm) ea 0) ∧
      (check ea 8 0 s = .bad c → traps (.ldd d a imm) ea 0) ∧
      (c = .align ∨ (pageParked s ea.toNat = false ∧ c ≠ .page ∧ c ≠ .wprot) →
        (check ea 1 1 s = .bad c → traps (.stb d a imm) ea 1) ∧ (check ea 2 1 s = .bad c → traps (.sth d a imm) ea 1) ∧
        (check ea 4 1 s = .bad c → traps (.stw d a imm) ea 1) ∧ (check ea 8 1 s = .bad c → traps (.std d a imm) ea 1))) ∧
    (Ready [d, a, b] true s → check (getG s a) (if w32 then 4 else 8) 2 s = .bad c →
      ∀ i ∈ [Instr.atomSwp d a b w32 sc, .atomAdd d a b w32 sc, .atomAnd d a b w32 sc, .atomOr d a b w32 sc,
             .atomXor d a b w32 sc, .atomMin d a b w32 sc, .atomMax d a b w32 sc, .atomMinn d a b w32 sc,
             .atomMaxn d a b w32 sc, .atomCas d a b w32 sc], traps i (getG s a) 2) ∧
    -- an access that a hand-over holds stalls at its instruction
    (let stalls (i : Instr) : Prop := exec i s = .next (stallAt s)
     (Ready [d, a] false s →
      (check ea 1 0 s = .held → stalls (.ldb d a imm) ∧ stalls (.ldbn d a imm)) ∧
      (check ea 2 0 s = .held → stalls (.ldh d a imm) ∧ stalls (.ldhn d a imm)) ∧
      (check ea 4 0 s = .held → stalls (.ldw d a imm) ∧ stalls (.ldwn d a imm)) ∧ (check ea 8 0 s = .held → stalls (.ldd d a imm)) ∧
      (check ea 1 1 s = .held → stalls (.stb d a imm)) ∧ (check ea 2 1 s = .held → stalls (.sth d a imm)) ∧
      (check ea 4 1 s = .held → stalls (.stw d a imm)) ∧ (check ea 8 1 s = .held → stalls (.std d a imm))) ∧
     (Ready [d, a, b] true s → check (getG s a) (if w32 then 4 else 8) 2 s = .held →
      ∀ i ∈ [Instr.atomSwp d a b w32 sc, .atomAdd d a b w32 sc, .atomAnd d a b w32 sc, .atomOr d a b w32 sc,
             .atomXor d a b w32 sc, .atomMin d a b w32 sc, .atomMax d a b w32 sc, .atomMinn d a b w32 sc,
             .atomMaxn d a b w32 sc, .atomCas d a b w32 sc], stalls i))

/-- What a strand read of scratchpad or of translated memory gives: its bytes, little-endian, where no held store and no
copy in flight meets it, by a request at their home (R290); a poisoned line of memory instead marks the value uncorrectable and enters
the fault-address queue (R121, R122, R289). -/
def Obligations.StrandReads : Prop :=
  ∀ (s : State) (addr : Word) (size kind : Nat), heldAll s = [] → meetsCopy s addr size = false →
    (∀ off, check addr size kind s = .spad off →
      strandRead addr size kind s = .bytes ((List.range size).map (fun i => byteAt s.store.spad (off + i))) s) ∧
    (∀ pa mig sw leaf u, check addr size kind s = .mem pa mig sw leaf u → pageParked s addr.toNat = false →
      (poisonedAt s (memKey s.sys.nodeid.toNat pa) = false →
        strandRead addr size kind s =
          .bytes ((List.range size).map (fun i => byteAt s.mem.mem (memKey s.sys.nodeid.toNat pa + i))) (requestAt pa u)) ∧
      (poisonedAt s (memKey s.sys.nodeid.toNat pa) = true → 0 < size →
        strandRead addr size kind s = .ue (consumed false pa (requestAt pa u))))

/-- The loads (R121): n bytes at g[A] + sext(IMM14), sign-extended or zero-extended, become outstanding for g[D]; LOAD_COMPLETE
(R122) writes the value to g[D], or for an uncorrectable one raises UE with FADDR its address and leaves g[D] alone. A load reads
its bytes at issue by the model's choice (log entry 6). -/
def Obligations.LoadResults : Prop :=
  (∀ (s : State) (d a : Reg) (imm : BitVec 14), Ready [d, a] false s → s.strand.loads.length < 16 →
     let ea := getG s a + imm.signExtend 64
     let gives (i : Instr) (n : Nat) (signed : Bool) : Prop := ∀ bs u, strandRead ea n 0 s = .bytes bs u →
       ∃ v : Word, (∀ k, k < 64 → v.getLsbD k =
           if k < 8 * n then (leNat bs).testBit k else signed && (leNat bs).testBit (8 * n - 1)) ∧
         exec i s = .next (finish 1 s (.done (pushLoad
           { d := d, value := v, ue := false, addr := ea, kind := 0, ahead := s.sys.spec } u)))
     gives (.ldb d a imm) 1 true ∧ gives (.ldbn d a imm) 1 false ∧ gives (.ldh d a imm) 2 true ∧
       gives (.ldhn d a imm) 2 false ∧ gives (.ldw d a imm) 4 true ∧ gives (.ldwn d a imm) 4 false ∧
       gives (.ldd d a imm) 8 false) ∧
  (∀ (s : State) (i : Nat) (l : Load), s.strand.loads[i]? = some l → s.grp.spec = none →
     let u : State := { s with strand := { s.strand with loads := s.strand.loads.eraseIdx i } }
     (l.ue = false → exec (.loadComplete i) s = .next (setG u l.d l.value)) ∧
     (l.ue = true → live s = true → exec (.loadComplete i) s = .next { u with thatch := { u.thatch with
       async := u.thatch.async ++ [{ cause := .ue, info := BitVec.ofNat 32 l.kind, src := 0, faddr := some l.addr }] } }))

/-- The stores (R121): the low n bytes of g[D], little-endian, to the scratchpad, or to memory at the translated address, a request at
its home (R290), after the leaf's D (R292). A store is performed at its issue by the model's choice (log entry 6). -/
def Obligations.StoreResults : Prop :=
  ∀ (s : State) (d a : Reg) (imm : BitVec 14), Ready [d, a] false s → s.sys.spec = false → s.grp.issuing = [] →
    s.mem.replay.length < 32 → stc s < 64 →
    let ea := getG s a + imm.signExtend 64
    let stores (i : Instr) (n : Nat) : Prop := meetsCopy s ea n = false →
      (∀ off, check ea n 1 s = .spad off →
        exec i s = .next (finish 1 s (.done (putSpad s off (leBytes n ((getG s d).toNat % 2 ^ (8 * n))))))) ∧
      (∀ pa leaf u, check ea n 1 s = .mem pa false false leaf u → pageParked s ea.toNat = false →
        let w := requestAt pa u
        exec i s = .next (finish 1 s (.done
          (memWrite (writesOf (memKey w.sys.nodeid.toNat pa) (leBytes n ((getG s d).toNat % 2 ^ (8 * n)))) (markDirty leaf w)))))
    stores (.stb d a imm) 1 ∧ stores (.sth d a imm) 2 ∧ stores (.stw d a imm) 4 ∧ stores (.std d a imm) 8

/-- The frame of a store in scratchpad: the bytes of the scratchpad outside the stored ones, memory and every register read as
before; the bytes stored read as the register's. A store is performed at its issue by the model's choice (log entry 6). -/
def Obligations.StoreFrame : Prop :=
  ∀ (s t : State) (d a : Reg) (imm : BitVec 14) (off : Nat), Canonical s → traceOn s = false → s.prof.busy = false →
    Ready [d, a] false s → s.sys.spec = false → s.grp.issuing = [] → s.mem.replay.length < 32 → stc s < 64 →
    let ea := getG s a + imm.signExtend 64
    let framed (i : Instr) (n : Nat) : Prop := meetsCopy s ea n = false → check ea n 1 s = .spad off → exec i s = .next t →
      (∀ x, x < off ∨ off + n ≤ x → byteAt t.store.spad x = byteAt s.store.spad x) ∧
      (∀ k < n, byteAt t.store.spad (off + k) = (getG s d).extractLsb' (8 * k) 8) ∧
      t.mem = s.mem ∧ t.fab = s.fab ∧ t.strand.g = s.strand.g ∧ t.strand.c = s.strand.c ∧ SameStore s t ∧ SameSys s t
    framed (.stb d a imm) 1 ∧ framed (.sth d a imm) 2 ∧ framed (.stw d a imm) 4 ∧ framed (.std d a imm) 8

/-- A store that meets PAGE or WPROT parks in the replay queue and raises its cause asynchronously; one that meets a migrating
or an unswept page, or a page that already holds a parked store, parks without a cause. A store that parks has made the requests of
its walk (R290, R314), and raises its page in the sweeps of its ASID that have still to copy it (R122, R253, R294). -/
def Obligations.StoreParks : Prop :=
  ∀ (s : State) (d a : Reg) (imm : BitVec 14), Ready [d, a] false s → s.sys.spec = false → s.grp.issuing = [] →
    s.mem.replay.length < 32 → stc s < 64 →
    let ea := getG s a + imm.signExtend 64
    let parks (i : Instr) (n : Nat) : Prop := meetsCopy s ea n = false →
      let parked (r : ParkReason) (u : State) : State :=
        let p : Parked :=
          { id := u.mem.nextPark, va := ea.toNat, size := n
            data := BitVec.ofNat 64 ((getG s d).toNat % 2 ^ (8 * n)), reason := r }
        let raise (w : Sweep) : Sweep :=
          if w.asid = u.sys.asid ∧ w.pages.any (fun q => pageOf q.va == pageOf ea.toNat) = true ∧ w.raised.any (fun r => r.1 == pageOf ea.toNat) = false then
            { w with raised := w.raised ++ [(pageOf ea.toNat, u.sys.coreid.toNat)] }
          else w
        { u with mem := { u.mem with
          replay := u.mem.replay ++ [p], nextPark := u.mem.nextPark + 1, sweeps := u.mem.sweeps.map raise } }
      let is (u : State) : Prop := exec i s = .next (finish 1 s (.done u))
      let asked := missRequests true 1 ea.toNat s
      (pageParked s ea.toNat = false →
        (check ea n 1 s = .bad .page → is (raiseParked .page asked.mem.nextPark ea.toNat (parked .page asked))) ∧
        (check ea n 1 s = .bad .wprot → is (raiseParked .wprot asked.mem.nextPark ea.toNat (parked .wprot asked))) ∧
        (∀ pa sw leaf u, check ea n 1 s = .mem pa true sw leaf u → is (parked .mig u)) ∧
        (∀ pa leaf u, check ea n 1 s = .mem pa false true leaf u → is (parked .sw u))) ∧
      (pageParked s ea.toNat = true →
        (∀ c, check ea n 1 s = .bad c → c ≠ .align → is (parked .order asked)) ∧
        (∀ pa mig sw leaf u, check ea n 1 s = .mem pa mig sw leaf u → is (parked .order u)))
    parks (.stb d a imm) 1 ∧ parks (.sth d a imm) 2 ∧ parks (.stw d a imm) 4 ∧ parks (.std d a imm) 8

/-- SPL and FIL (R123); under speculation SPL enters the hold buffer, which holds 64 entries, those of a commit that are still to
issue among them, and stalls where it is full (R363). That those entries count follows log entry 40. -/
def Obligations.SpillResults : Prop :=
  ∀ (s : State) (g : Reg) (n : BitVec 9), Ready [g] false s →
    (s.sys.spec = false → s.grp.issuing = [] →
      exec (.spl g n) s = .next (finish 1 s (.done (setSpill s n (getG s g))))) ∧
    (s.sys.spec = true → (heldAll s).length < 64 → exec (.spl g n) s =
      .next (finish 1 s (.done { s with grp := { s.grp with hold := s.grp.hold ++ [.spl n.toNat (getG s g)] } }))) ∧
    (s.sys.spec = true → 64 ≤ (heldAll s).length → exec (.spl g n) s = .next (stallAt s)) ∧
    (heldAll s = [] → exec (.fil g n) s = .next (finish 1 s (.done (setG s g (getSpill s n))))) ∧
    ∀ (m : BitVec 9) (v : Word), (s.strand.spill.map Prod.fst).Pairwise (· < ·) →
      getSpill (setSpill s n v) m = if m = n then v else getSpill s m

/-- LDA and STA (R124): a count of 0 has no effect; a copy whose operands are multiples of 8, inside the scratchpad and translated
enters the scoreboard with its range. COPY_RETIRE performs it and takes it off the scoreboard: a copy into the scratchpad writes, for
each unit of 8 bytes, the bytes of memory, or zero where the line is uncorrectable; a copy out marks its pages and writes memory. One
that is refused traps with nothing started (R124 steps 2 to 5): SEG above 1 MiB, for an operand on the wrong side of bit 63, and for a
scratchpad range that leaves the scratchpad; ALIGN for an operand that is no multiple of 8; the cause of the first page of memory that
the check refuses, with FADDR its first unit, behind the walks of the pages before it (R290); an STA that meets a migrating or unswept
page stalls and raises its pages (R253), and a copy of a page that a hand-over holds stalls (R309). Each line of a copy is a request at
its home (R290). A copy is performed whole at its retirement by the model's choice (log entry 6), and so is which address the causes of
steps 2 to 4 give in FADDR (log entry 17, DEDUCED); that a copy over a page that holds a parked store starts is log entry 40. -/
def Obligations.CopyResults : Prop :=
  (∀ (s : State) (d a b : Reg), Ready [d, a, b] true s → cpc s < 16 →
     let issues (i : Instr) (toSpad : Bool) (sp va : Word) (kind : Nat) : Prop :=
       (getG s b = 0 → exec i s = .next (finish 1 s (.done s))) ∧
       (∀ ps u, getG s b ≠ 0 → (getG s b).toNat ≤ 0x100000 → (getG s b).toNat % 8 = 0 → sp.getLsbD 63 = true →
         va.getLsbD 63 = false → sp.toNat % 8 = 0 → va.toNat % 8 = 0 → sp.toNat / 2 ^ 23 % 2 ^ 40 = 0 →
         sp.toNat % 2 ^ 23 + (getG s b).toNat ≤ 0x600000 →
         copyPages kind (pageStarts va.toNat (getG s b).toNat) s = .ok ps false u →
         exec i s = .next (finish 1 s (.done { u with strand := { u.strand with
           copies := u.strand.copies ++ [{ toSpad := toSpad, off := sp.toNat % 2 ^ 23, va := va.toNat
                                           len := (getG s b).toNat, pages := ps, asid := s.sys.asid }] } })))
     let refuses (i : Instr) (sp va : Word) (kind : Nat) : Prop := getG s b ≠ 0 →
       let n := (getG s b).toNat
       let traps (c : Cause) (addr : Word) (u : State) : Prop := exec i s =
         .next (trapEntry { cause := c, info := BitVec.ofNat 32 kind, faddr := some addr } false none u)
       let sides := n ≤ 0x100000 ∧ sp.getLsbD 63 = true ∧ va.getLsbD 63 = false
       let aligned := (getG s d).toNat % 8 = 0 ∧ (getG s a).toNat % 8 = 0 ∧ n % 8 = 0
       let fits := sp.toNat / 2 ^ 23 % 2 ^ 40 = 0 ∧ sp.toNat % 2 ^ 23 + n ≤ 0x600000
       (0x100000 < n → traps .seg va s) ∧ (n ≤ 0x100000 → sp.getLsbD 63 = false ∨ va.getLsbD 63 = true → traps .seg va s) ∧
       (sides → (getG s d).toNat % 8 ≠ 0 → traps .align (getG s d) s) ∧
       (sides → (getG s d).toNat % 8 = 0 → (getG s a).toNat % 8 ≠ 0 → traps .align (getG s a) s) ∧
       (sides → (getG s d).toNat % 8 = 0 → (getG s a).toNat % 8 = 0 → n % 8 ≠ 0 → traps .align (getG s b) s) ∧
       (sides → aligned → sp.toNat / 2 ^ 23 % 2 ^ 40 ≠ 0 ∨ 0x600000 ≤ sp.toNat % 2 ^ 23 → traps .seg sp s) ∧
       (sides → aligned → sp.toNat / 2 ^ 23 % 2 ^ 40 = 0 → sp.toNat % 2 ^ 23 < 0x600000 → 0x600000 < sp.toNat % 2 ^ 23 + n →
         traps .seg (BitVec.ofNat 64 (2 ^ 63 + 0x600000)) s) ∧
       (sides → aligned → fits → ∀ c x u, copyPages kind (pageStarts va.toNat n) s = .bad c x u → c ≠ .brk →
         exec i s = .next (trapEntry { cause := c, info := BitVec.ofNat 32 kind, faddr := some (BitVec.ofNat 64 x), access := some true }
           false none (refusedAccess c kind (BitVec.ofNat 64 x) u))) ∧
       (sides → aligned → fits → ∀ u, copyPages kind (pageStarts va.toNat n) s = .wait u → exec i s = .next (stallAt u)) ∧
       (sides → aligned → fits → ∀ ps u, copyPages kind (pageStarts va.toNat n) s = .ok ps true u →
         exec i s = .next (stallAt ((pageStarts va.toNat n).foldl (fun t x => raisePage x t) u)))
     issues (.lda d a b) true (getG s d) (getG s a) 3 ∧ issues (.sta d a b) false (getG s a) (getG s d) 4 ∧
       refuses (.lda d a b) (getG s d) (getG s a) 3 ∧ refuses (.sta d a b) (getG s a) (getG s d) 4) ∧
  (∀ (s : State) (i : Nat) (c : Copy), s.strand.copies[i]? = some c →
     let lines := ((copyUnits c).map (fun i => copyPa c (c.va + i))).filter (fun pa => pa % 64 == 0 || pa == copyPa c c.va)
     let u : State := lines.foldl (fun t pa => requestAt pa t)
       { s with strand := { s.strand with copies := s.strand.copies.eraseIdx i } }
     (c.toSpad = true → exec (.copyRetire i) s =
       .next ((copyUnits c).foldl (ldaUnit c) ((copyUnits c).foldl (ldaPoison c) u))) ∧
     (c.toSpad = false → exec (.copyRetire i) s =
       .next (memWrite ((copyUnits c).flatMap (fun i =>
           writesOf (memKey u.sys.nodeid.toNat (copyPa c (c.va + i))) (bytesAt u.store.spad (c.off + i) 8)))
         (c.pages.foldl (fun s p => markDirty (leafOf s c.asid (p.1 * 0x8000)) s) u))))

/-- The atomics (R126, R127): the old value becomes outstanding for g[D]; the location takes the new one, in the scratchpad
or at the translated address, a request at its home (R290); a CAS that compares unequal writes nothing. An atomic is performed in the
step of its issue by the model's choice (log entry 6). -/
def Obligations.AtomicResults : Prop :=
  ∀ (s : State) (d a b : Reg) (w32 : Bool) (sc : Scope), Ready [d, a, b] true s → s.strand.loads.length < 16 →
    s.grp.issuing = [] →
    let size := if w32 then 4 else 8
    let w := 8 * size
    let addr := getG s a
    let y := (getG s b).toNat % 2 ^ w
    let key (pa : Nat) := memKey s.sys.nodeid.toNat pa
    let out (old : Nat) (u : State) : State :=
      finish 1 s (.done (pushLoad
        { d := d, value := BitVec.ofNat 64 old, ue := false, addr := addr, kind := 2, ahead := false } u))
    let acts (i : Instr) (f : Nat → Option Nat) : Prop := meetsCopy s addr size = false →
      (∀ off, check addr size 2 s = .spad off →
        let old := readLe s.store.spad off size
        exec i s = .next (out old (match f old with | some v => putSpad s off (leBytes size v) | none => s))) ∧
      (∀ pa leaf u, check addr size 2 s = .mem pa false false leaf u → pageParked s addr.toNat = false →
        poisonedAt s (key pa) = false →
        let old := readLe s.mem.mem (key pa) size
        let r := requestAt pa u
        exec i s = .next (out old (match f old with
          | some v => memWrite (writesOf (memKey r.sys.nodeid.toNat pa) (leBytes size (BitVec.ofNat 64 v).toNat)) (markDirty leaf r)
          | none => r)))
    let sg (v : Nat) : Int := signedOf w v
    acts (.atomSwp d a b w32 sc) (fun _ => some y) ∧
    acts (.atomAdd d a b w32 sc) (fun x => some ((x + y) % 2 ^ w)) ∧
    acts (.atomAnd d a b w32 sc) (fun x => some (x &&& y)) ∧
    acts (.atomOr d a b w32 sc) (fun x => some (x ||| y)) ∧
    acts (.atomXor d a b w32 sc) (fun x => some (x ^^^ y)) ∧
    acts (.atomMin d a b w32 sc) (fun x => some (if sg x ≤ sg y then x else y)) ∧
    acts (.atomMax d a b w32 sc) (fun x => some (if sg y ≤ sg x then x else y)) ∧
    acts (.atomMinn d a b w32 sc) (fun x => some (min x y)) ∧
    acts (.atomMaxn d a b w32 sc) (fun x => some (max x y)) ∧
    acts (.atomCas d a b w32 sc) (fun x => if x = (getG s d).toNat % 2 ^ w then some y else none)

/-- The fences (R129) and WAITC (R94, R172): each completes when its condition holds and stalls until then; the top value of a
field of WAITC bounds nothing. Only the WAITC clause is the cited rule; the fences are stated beside it. -/
def Obligations.FenceResults : Prop :=
  (∀ (s : State) (sc : Scope), Ready [] true s →
     let fences (i : Instr) (ready : Prop) : Prop :=
       (ready → exec i s = .next (finish 1 s (.done s))) ∧ (¬ready → exec i s = .next (stallAt s))
     let performed := s.strand.loads = [] ∧ stc s = 0 ∧ (sc = .fabric → s.thatch.entries.any fabricWrites = false)
     fences (.fenceSc sc) performed ∧ fences (.fenceRel sc) performed ∧ fences (.fenceAcq sc) (s.strand.loads = []) ∧
       fences .fenceRq (s.mem.replay = []) ∧ fences .fencePip (∀ p ∈ s.fab.pips, p.2.state ≠ .inflight)) ∧
  (∀ (s : State) (t : BitVec 6) (l st cp : BitVec 4), Ready [] (t != 63) s →
     let ok := (t = 63 ∨ tkc s ≤ t.toNat) ∧ (l = 15 ∨ ldc s ≤ l.toNat) ∧ (st = 15 ∨ stc s ≤ st.toNat) ∧
       (cp = 15 ∨ cpc s ≤ cp.toNat)
     (ok → exec (.waitc t l st cp) s = .next (finish 1 s (.done s))) ∧
     (¬ok → exec (.waitc t l st cp) s = .next (stallAt s)))

/-- Semaphores (R170): an add wraps, a set writes, a wait compares as signed numbers, a read sign-extends. An add and a set wait
for the held stores of a commit that are still to issue, and proceed with parked ones (R294); both may release records. That the
SEM forms proceed with parked stores, and wait for the stores of a commit that are still to issue, is the model's reading (log
entry 25, DEDUCED, with log entry 6). -/
def Obligations.SemaphoreResults : Prop :=
  ∀ (s : State) (n : BitVec 11) (g : Reg) (imm : BitVec 6),
    let v := getSem s n.toNat
    let added (x : BitVec 32) : State :=
      releaseAll (let u := setSem n.toNat (v + x) s; { u with strand := { u.strand with semAdded := true } })
    let waits (i : Instr) (x : Int) : Prop :=
      (x ≤ v.toInt → exec i s = .next (finish 1 s (.done s))) ∧ (v.toInt < x → exec i s = .next (stallAt s))
    (Ready [g] true s →
      (s.grp.issuing = [] → exec (.semadd n g) s = .next (finish 1 s (.done (added ((getG s g).setWidth 32)))) ∧
        exec (.semset n g) s = .next (finish 1 s (.done (releaseAll (setSem n.toNat ((getG s g).setWidth 32) s))))) ∧
      (s.grp.issuing ≠ [] → exec (.semadd n g) s = .next (stallAt s) ∧ exec (.semset n g) s = .next (stallAt s)) ∧
      waits (.semwait n g) ((getG s g).setWidth 32).toInt ∧
      exec (.semrd n g) s = .next (finish 1 s (.done (setG s g (v.signExtend 64))))) ∧
    (Ready [] true s →
      (s.grp.issuing = [] → exec (.semaddi n imm) s = .next (finish 1 s (.done (added (imm.signExtend 32))))) ∧
      (s.grp.issuing ≠ [] → exec (.semaddi n imm) s = .next (stallAt s)) ∧
      waits (.semwaiti n imm) imm.toNat)

/-! ### The window, boxes and husks (spec/07_core.md) -/

/-- POST and POSTM (R58, R159): a record that the checks accept and that need not wait enters the window behind the others with its
boxes, alone or, where its W is renamed, with the fold of its buffer behind it; TKC grows by one; each register that its box fields name
is stepped once, behind it those of the image of an F.POST; the pip that it obtains is in flight and its number is delivered; then
records that nothing holds are released. A record that the checks refuse traps with their cause; one that must wait stalls, and an
F.POST over whose image a copy is in flight waits for it behind the checks of its fields (R125, R342). POSTM reads its image from the
scratchpad, and traps SEG at any other address; a POST that leaves a loop's body is LOOP_SHAPE. Which record the checks refuse, and with
which cause: TASKBAD by its fields (R68, R69), PRIV (R70), BOXBAD and HUSKBAD by the resolution of its boxes in the order W, A, B, C
(R157), the checks of its task's entry in their stages (R192, R203, R213, R236, R338), and TASKBAD of a restartable record that is too
big (R159). The conditions under which a POST waits, and where among the checks, follow log entry 18 (DEDUCED); BOXBAD of a record that
writes the cut record follows log entry 40. -/
def Obligations.PostResults : Prop :=
  (∀ (s : State) (r : Rec) (a : Reg), s.sys.spec = false →
     let traps (i : Instr) (t : Trap) : Prop := exec i s = .next (trapEntry t false none s)
     let posts (i : Instr) (size : BitVec 32) (r : Rec) (u : State) : Prop :=
       (∀ b, checkRecord r u = .ok b → postWaits u r b = false →
         let pip := if obtainsPip r then freePip u else none
         let img := postedImage u r
         let e : Entry :=
           { slot := 0, record := r, boxes := b, seq := 0, state := .pending, pip := pip, dep := boundDep u r, image := img }
         let w := stepBoxes r (enter e 2 u)
         let x := match img with | some i => stepBoxes i.1 w | none => w
         let y := match pip with | some n => obtainPip r n u.thatch.nextSeq x | none => x
         let t := releaseAll y
         exec i s = .next (finish size s (.done t)) ∧ tkc t = tkc u + 1 ∧
         (∃ n ∈ t.thatch.entries, n.slot = u.thatch.nextSlot ∧ n.seq = u.thatch.nextSeq ∧ n.record = r ∧
           (n.state = .pending ∨ n.state = .ready) ∧ n.pip = pip ∧ n.boxes = { redirectAll u b with w := n.boxes.w } ∧
           ((n.boxes.w = b.w ∧ t.thatch.entries.length = u.thatch.entries.length + 1 ∧
               t.thatch.nextSeq = u.thatch.nextSeq + 1) ∨
             (∃ d ∈ t.thatch.dir, ∃ f ∈ t.thatch.entries, d.recSlot = n.slot ∧ d.foldSlot = n.slot + 1 ∧ b.w = some d.home ∧
               n.boxes.w = some { d.home with rb := some { off := d.off, o := d.home.o, e := d.home.e } } ∧
               f.slot = n.slot + 1 ∧ f.fold = true ∧ f.boxes.w = some d.home ∧ f.boxes.a = n.boxes.w ∧
               t.thatch.entries.length = u.thatch.entries.length + 2 ∧ t.thatch.nextSeq = u.thatch.nextSeq + 2))) ∧
         (img = none → ∀ x : Bx, getBox t x = if x.val ∈ boxRegs r then stepBox (getBox u x) else getBox u x) ∧
         (∀ n, pip = some n → getPip t n = { state := .inflight, seq := u.thatch.nextSeq } ∧
           (recGres r ≠ 0 → getG t (recGres r) = BitVec.ofNat 64 n)) ∧
         (pip = none → t.strand.g = u.strand.g)) ∧
       (∀ b, checkRecord r u = .ok b → postWaits u r b = true → exec i s = .next (stallAt u)) ∧
       (imageMeets u r = true → fieldsBad r = false → (taskPriv r && !u.sys.pl) = false → exec i s = .next (stallAt u)) ∧
       (imageMeets u r = false ∨ fieldsBad r = true ∨ (taskPriv r && !u.sys.pl) = true →
         ∀ c, checkRecord r u = .error c → c ≠ .brk → traps i { cause := c })
     (Ready [] false s → (postLeavesBody s = false → posts (.post r) 9 r s) ∧
       (postLeavesBody s = true → traps (.post r) { cause := .loopShape })) ∧
     (Ready [a] false s →
       ((getG s a).getLsbD 63 = true → ∀ bs u, strandRead (getG s a) 32 0 s = .bytes bs u →
         u.sys.spec = false → posts (.postm a) 1 (BitVec.ofNat 256 (leNat bs)) u) ∧
       ((getG s a).getLsbD 63 = false → traps (.postm a) { cause := .seg, faddr := some (getG s a) }))) ∧
  -- the checks of a record, in their order (R44): its fields, its privilege, its boxes, its task's entry, the size of a restartable one
  (∀ (s : State) (r : Rec),
    let f (lo n : Nat) : Nat := r.toNat / 2 ^ lo % 2 ^ n
    let eng := f 8 3
    let top := f 0 8
    -- the tasks: engine; TOP; boxes required and allowed besides (W 8, A 4, B 2, C 1); the assigned bits of MOD, IMM64 and XF; GV
    let all := 2 ^ 64 - 1
    let rows : List (Nat × List Nat × Nat × Nat × Nat × Nat × Nat × Nat) :=
      [(0, [0x01, 0x02], 14, 0, 0, 0, 0, 0), (0, [0x03], 15, 0, 0, 0xFF, 0, 0), (0, [0x04, 0x05], 8, 0, 0, 0, 0, 0),
       (1, [0x01, 0x02, 0x03, 0x0B, 0x0C], 14, 0, 7, 0, 0, 0), (1, [0x04], 15, 0, 7, 0, 0, 0), (1, [0x05], 14, 0, 3, 0, 0, 0),
       (1, [0x06, 0x07, 0x08, 0x09, 0x0A, 0x0F, 0x10, 0x11, 0x45], 12, 0, 3, 0, 0, 0), (1, [0x0D, 0x0E], 12, 0, 7, 0, 0, 0),
       (1, [0x12], 12, 0, 3, 0xFFFF, 0, 0), (1, [0x20, 0x21, 0x22], 12, 2, 0, all, 0, 0), (1, [0x23, 0x28, 0x29], 12, 0, 0, 0, 0, 0),
       (1, [0x24, 0x25, 0x26], 12, 0, 0, 0x3F, 0, 0), (1, [0x27], 12, 2, 4, all, 0, 0), (1, [0x30], 14, 0, 0, 7, 0, 0),
       (1, [0x31], 15, 0, 0, 0, 0, 0), (1, [0x38, 0x39], 12, 0, 7, 7, 0, 0), (1, [0x3A, 0x3B, 0x3C], 4, 0, 0, 0, 0, 1),
       (1, [0x40], 8, 0, 7, all, 0, 0), (1, [0x41], 13, 0, 0, 0, 0, 2), (1, [0x42, 0x43], 14, 0, 0, 0, 0, 0),
       (1, [0x44], 12, 0, 4, 0, 1, 0),
       (2, [0x01], 12, 0, 0, 0, 0, 0), (2, [0x02], 12, 0, 0, 0xFF, 0, 0), (2, [0x03], 12, 0, 0, 0xF, 0, 0),
       (3, [0x01, 0x06, 0x07, 0x08, 0x09], 12, 0, 0, 0, 0, 0), (3, [0x02], 4, 8, 0, 0, 0, 1), (3, [0x03], 6, 0, 0, 0, 0, 1),
       (3, [0x04], 8, 0, 0, all, 0, 0), (3, [0x05], 8, 0, 1, 0xFFFF, 0, 0),
       (3, [0x0A], 0, 0, 1, 0x7FFFFFFFF8000, 0xFFFFFFFFF8000, 2), (3, [0x0B], 0, 0, 0, all, 0xFFFFFFFF803F, 2),
       (4, [0x01], 12, 0, 0, 0, 0x1FF, 0), (4, [0x02], 12, 0, 0, 0, 0x1FF, 1), (4, [0x03], 12, 0, 0, 0, 0, 0),
       (4, [0x04], 8, 0, 0xF, all, all, 2), (4, [0x05], 0, 0, 0, 0x7FFFFF, 0x1FFFFF, 0), (4, [0x06], 0, 0, 0, all, 0x1FF, 0),
       (4, [0x07], 15, 0, 0, 0, 0, 2), (4, [0x08], 12, 0, 7, 0x73FFFFFFF, 0, 0), (4, [0x09], 12, 0, 0, 0x7FFF, 0x1FF, 2)]
    (f 13 3 ≠ 0 ∨ f 103 25 ≠ 0 → fieldsBad r = true) ∧
    ((∀ x ∈ rows, x.1 = eng → top ∉ x.2.1) → fieldsBad r = true) ∧
    (∀ tops req opt mod imm xf gv, (eng, tops, req, opt, mod, imm, xf, gv) ∈ rows → top ∈ tops → f 13 3 = 0 → f 103 25 = 0 →
      (fieldsBad r = true ↔
        (∃ k < 4, (f (44 + k) 1 = 0 ∧ (f (20 + 6 * k) 6 ≠ 0 ∨ req / 2 ^ (3 - k) % 2 = 1)) ∨
          (f (44 + k) 1 = 1 ∧ (req + opt) / 2 ^ (3 - k) % 2 = 0)) ∨
        (f 54 1 = 0 ∧ (f 48 6 ≠ 0 ∨ gv = 1)) ∨ (f 54 1 = 1 ∧ gv = 0) ∨
        (f 55 1 = 0 ∧ (f 56 11 ≠ 0 ∨ f 67 16 ≠ 0)) ∨ (f 83 1 = 0 ∧ (f 84 11 ≠ 0 ∨ f 95 8 ≠ 0)) ∨
        f 16 4 &&& mod ≠ f 16 4 ∨ f 128 64 &&& imm ≠ f 128 64 ∨ f 192 64 &&& xf ≠ f 192 64)) ∧
    (let priv : Prop := eng = 3 ∧ (top = 0x0A ∨ top = 0x0B)
     (fieldsBad r = true → checkRecord r s = .error .taskbad) ∧
     (fieldsBad r = false → priv → s.sys.pl = false → checkRecord r s = .error .priv) ∧
     (fieldsBad r = false → (priv → s.sys.pl = true) →
       let halo : Prop := eng = 4 ∧ top = 0x09
       let box (k : Nat) : BoxReg := getBox s (Fin.ofNat 64 (f (20 + 6 * k) 6))
       let husk (k : Nat) : Husk := getHusk s (box k).hid
       let exceeds (k rank : Nat) (ext : Nat → Nat) : Prop := ∃ d < rank, ext d < dget (box k).o d + dget (box k).e d
       -- the cause that the resolution of box field k meets; the W of F.HALO is resolved without its husk (R343)
       let refused (k : Nat) (c : Cause) : Prop := f (44 + k) 1 = 1 ∧
         (((box k).bv = false ∧ c = .boxbad) ∨
          ((box k).bv = true ∧ ¬(k = 0 ∧ halo) ∧
           (((box k).acc = true ∧ exceeds k 3 (fun d => [256, 128, 2].getD d 0) ∧ c = .boxbad) ∨
            ((box k).acc = false ∧ hkV (husk k) = false ∧ c = .huskbad) ∨
            ((box k).acc = false ∧ hkV (husk k) = true ∧ exceeds k (hkRank (husk k)) (hkExt (husk k)) ∧ c = .boxbad))))
       let got (k : Nat) : Option RBox := if f (44 + k) 1 = 1 then
         some { acc := (box k).acc, hid := if (box k).acc then 0 else (box k).hid, o := (box k).o, e := (box k).e } else none
       let b : Boxes := { w := got 0, a := got 1, b := got 2, c := got 3 }
       let inSpad (x : RBox) : Prop := x.acc = false ∧
         (hkKind (getHusk s x.hid) = 0 ∨ hkKind (getHusk s x.hid) = 3 ∨ (hkKind (getHusk s x.hid) = 2 ∧ hkMc (getHusk s x.hid) = true))
       let inMemory (x : RBox) : Prop := x.acc = false ∧
         (hkKind (getHusk s x.hid) = 1 ∨ (hkKind (getHusk s x.hid) = 2 ∧ hkMc (getHusk s x.hid) = false))
       let footprint (x : RBox) : Nat := ((if hkKind (getHusk s x.hid) = 3 then
         hkLend (getHusk s x.hid) - hkLbase (getHusk s x.hid) else boxBytes s x) + 63) / 64 * 64
       -- a restartable record needs its W in the pool, and at most 256 KiB of the write-hold area
       let tooBig : Prop := f 11 1 = 1 ∧ ∃ x, b.w = some x ∧
         ((¬halo ∧ inSpad x ∧ s.sys.rnpool.toNat * 4096 < footprint x) ∨
          (halo ∧ 262144 < boxBytes s (b.a.getD {})) ∨ (eng = 4 ∧ top = 0x08 ∧ 262144 < boxBytes s x) ∨
          (¬halo ∧ ¬(eng = 4 ∧ top = 0x08) ∧ inMemory x ∧ 262144 < boxBytes s x))
       (∀ k c, k < 4 → refused k c → (∀ j d, j < k → ¬refused j d) → checkRecord r s = .error c) ∧
       ((∀ k c, k < 4 → ¬refused k c) →
         (∀ c, checkEntry r b s = some c → checkRecord r s = .error c) ∧
         (checkEntry r b s = none →
           (tooBig → checkRecord r s = .error .taskbad) ∧
           (¬tooBig → cutBad r b s = true → checkRecord r s = .error .boxbad) ∧
           (¬tooBig → cutBad r b s = false → checkRecord r s = .ok b)))))) ∧
  -- the checks of an entry, for one task of each engine and every fabric task: TASKBAD, then BOXBAD, then HUSKBAD
  (∀ (s : State) (r : Rec) (w a v c : RBox),
    let f (lo n : Nat) : Nat := r.toNat / 2 ^ lo % 2 ^ n
    let is (eng top : Nat) : Prop := f 8 3 = eng ∧ f 0 8 = top
    let h (x : RBox) : Husk := getHusk s x.hid
    let kind (k : Nat) (x : RBox) : Prop := x.acc = false ∧ hkKind (h x) = k
    let cached (x : RBox) : Prop := kind 2 x ∧ hkMc (h x) = true
    let remote (x : RBox) : Prop := kind 2 x ∧ ∃ e, segNumber s s.sys.asid (hkSeg (h x)) = some e ∧ segRn e = true
    -- the ring of a WIN husk is too small (R240)
    let ring (x : RBox) : Prop := kind 3 x ∧ (hkNrow (h x) = 0 ∨ hkLend (h x) < hkLbase (h x) + hkNrow (h x) * hkRow (h x))
    let e (x : RBox) (d : Nat) : Nat := boxE s x d
    let same (x y : RBox) : Prop := ∀ d < 4, e x d = e y d
    let meets (x y : RBox) : Prop := overlap s x y = true
    let fmt (x : RBox) : Fmt := boxFmt s x
    let num (x : RBox) : Prop := fmtIsFloat (fmt x) = true ∨ fmtIsInt (fmt x) = true
    let bits (x : RBox) : Nat := boxBits s x
    let none_ (x : RBox) : Prop := x.acc = true ∨ boxEmpty s x = true
    let staged (o : Option Cause) (t b k : Prop) : Prop :=
      (t → o = some .taskbad) ∧ (¬t → b → o = some .boxbad) ∧ (¬t → ¬b → k → o = some .huskbad) ∧ (¬t → ¬b → ¬k → o = none)
    let wa : Boxes := { w := some w, a := some a, b := none, c := none }
    let wab : Boxes := { w := some w, a := some a, b := some v, c := none }
    -- M.MM and M.MMQ (R192)
    (∀ q, (is 0 1 ∧ q = 1) ∨ (is 0 2 ∧ q = 2) → staged (checkEntry r wab s) False
      (w.acc = false ∨ a.acc = true ∨ v.acc = true ∨ boxEmpty s w = true ∨ boxEmpty s a = true ∨ boxEmpty s v = true ∨ e w 2 ≠ 1 ∨
        e a 2 ≠ 1 ∨ e a 3 ≠ 1 ∨ e v 2 ≠ 1 ∨ e v 3 ≠ 1 ∨ e a 1 ≠ q * e w 1 ∨ e v 0 ≠ q * e w 0 ∨ e a 0 ≠ e v 1 ∨ 2048 < e a 0)
      (∃ x ∈ [a, v], fmt x ∉ [.f32, .f16, .bf16, .f8, .c8, .s8, .n8] ∨ kind 1 x ∨ ring x)) ∧
    -- X.XPOSE (R203)
    (is 2 1 → staged (checkEntry r wa s) False
      (w.acc = true ∨ a.acc = true ∨ e w 0 ≠ e a 1 ∨ e w 1 ≠ e a 0 ∨ e w 2 ≠ e a 2 ∨ e w 3 ≠ e a 3 ∨ meets w a ∨
        (boxRank s w = 1 ∧ boxRank s a = 1))
      (¬(kind 0 a ∨ kind 3 a) ∨ ¬kind 0 w ∨ ring a ∨ fmt w = .rq ∨ fmt a = .rq ∨ bits w ≠ bits a)) ∧
    -- V.ADD, V.SUB, V.MUL, V.MIN and V.MAX (R213): W may be the same box as one that it reads, and overlap none (R210)
    ((∃ t ∈ [0x01, 0x02, 0x03, 0x0B, 0x0C], is 1 t) → staged (checkEntry r wab s) False
      (none_ w ∨ none_ a ∨ none_ v ∨ ¬same w a ∨ ¬same w v ∨ ∃ x ∈ [a, v], meets w x ∧ sameBox s w x = false)
      (¬(kind 0 w ∨ cached w) ∨ (∃ x ∈ [a, v], ¬(kind 0 x ∨ kind 3 x ∨ cached x) ∨ ring x) ∨ ¬num w ∨ ¬num a ∨ ¬num v ∨
        (fmtIsInt (fmt w) = true ∧ (fmtIsInt (fmt a) = false ∨ fmtIsInt (fmt v) = false)))) ∧
    -- C.CPY (R236, R238, R242)
    (is 3 1 → staged (checkEntry r wa s) False
      (none_ w ∨ none_ a ∨ boxElems s w ≠ boxElems s a ∨ meets w a)
      (¬(kind 0 w ∨ kind 1 w ∨ kind 2 w) ∨ (∃ x ∈ [w, a], (kind 1 x ∧ hkPeer (h x) = s.sys.coreid.toNat) ∨ ring x) ∨
        bits w ≠ bits a)) ∧
    -- the fabric tasks (R338 to R344)
    (let dep : Prop := f 200 1 = 0 ∧ f 192 8 ≠ 0
     let absent (core : Nat) : Prop := 6 ≤ core / 16 % 8
     (is 4 1 ∨ is 4 2 → staged (checkEntry r wa s) dep
       (none_ w ∨ none_ a ∨ boxElems s w ≠ boxElems s a ∨ meets w a)
       (fmt w = .rq ∨ fmt a = .rq ∨ bits w ≠ bits a ∨ ¬remote w ∨ ¬kind 0 a)) ∧
     (is 4 3 → staged (checkEntry r wa s) False
       (none_ w ∨ none_ a ∨ boxElems s w ≠ boxElems s a ∨ meets w a)
       (fmt w = .rq ∨ fmt a = .rq ∨ bits w ≠ bits a ∨ ¬kind 0 w ∨ ¬remote a)) ∧
     (is 4 4 → staged (checkEntry r { w := some w, a := none, b := none, c := none } s)
       (9 < f 16 4 ∨ (f 16 4 ≠ 9 ∧ f 192 64 ≠ 0) ∨
         (w.acc = false ∧ bits w = 32 ∧ (2 ^ 32 ≤ f 128 64 ∨ 2 ^ 32 ≤ f 192 64)))
       (none_ w ∨ boxElems s w ≠ 1) (¬remote w ∨ fmt w ∉ [.s32, .n32, .s64, .n64])) ∧
     (is 4 5 →
       let off := f 128 64
       let img := postImage r s
       let g (lo n : Nat) : Nat := img.toNat / 2 ^ lo % 2 ^ n
       let o := checkEntry r { w := none, a := none, b := none, c := none } s
       let bad : Prop := off % 32 ≠ 0 ∨ 0x600000 < off + 32 ∨ fieldsBad img = true ∨ g 8 3 = 4 ∨ g 54 1 = 1 ∨ absent (f 204 9)
       let priv : Prop := g 8 3 = 3 ∧ (g 0 8 = 0x0A ∨ g 0 8 = 0x0B)
       (bad → o = some .taskbad) ∧ (¬bad → priv → s.sys.pl = false → o = some .priv) ∧
       (¬bad → (priv → s.sys.pl = true) →
         let unset : Prop := ∃ k < 4, g (44 + k) 1 = 1 ∧ (getBox s (Fin.ofNat 64 (g (20 + 6 * k) 6))).bv = false
         (unset → o = some .boxbad) ∧ (¬unset → o = none))) ∧
     (is 4 6 → staged (checkEntry r { w := none, a := none, b := none, c := none } s) (dep ∨ absent (f 140 9)) False False) ∧
     (is 4 7 → staged (checkEntry r { w := some w, a := some a, b := some v, c := some c } s) False
       (none_ w ∨ none_ a ∨ none_ v ∨ none_ c ∨ 8 < e a 0 ∨ 4096 < e a 1 ∨ e a 2 ≠ 1 ∨ e a 3 ≠ 1 ∨ boxRank s v ≠ 1 ∨ 4096 < e v 0 ∨
         boxRank s c ≠ 1 ∨ e c 0 ≠ e v 0 ∨ boxRank s w ≠ 1 ∨ e w 0 ≠ e a 1 ∨ meets w a)
       (¬kind 0 w ∨ ¬kind 0 a ∨ ¬kind 0 v ∨ ¬kind 0 c ∨ fmtIsInt (fmt a) = false ∨ fmt v ∉ [.n32, .s32] ∨ fmt c ≠ .n32 ∨
         fmt w ≠ .n64)) ∧
     (is 4 8 → staged (checkEntry r wa s) (f 160 3 = 7 ∨ (f 155 1 = 0 ∧ f 144 11 ≠ 0))
       (none_ w ∨ none_ a ∨ ¬same w a ∨ meets w a)
       (¬kind 0 w ∨ ¬kind 0 a ∨
         (f 160 3 < 4 ∧ (¬num w ∨ ¬num a ∨ (fmtIsInt (fmt w) = true ∧ fmtIsInt (fmt a) = false))) ∨
         (4 ≤ f 160 3 ∧ (fmtIsInt (fmt w) = false ∨ fmtIsInt (fmt a) = false ∨ bits w ≠ bits a)))) ∧
     (is 4 9 →
       -- the elements of a box whose husk is not known here
       let last := if w.e.x3 ≠ 0 then 4 else if w.e.x2 ≠ 0 then 3 else if w.e.x1 ≠ 0 then 2 else 1
       staged (checkEntry r wa s) dep
         (w.acc = true ∨ none_ a ∨ ((List.range last).map (dget w.e)).foldl (fun x y => x * y) 1 ≠ boxElems s a)
         (¬kind 0 a ∨ fmt a = .rq))))

/-- The window (R158, R160 to R164, R168, R395). A record that enters while no rename buffer is live and no earlier record still reads
what it writes is a new entry behind the others, its number and post sequence number those of the window's counters, with an edge on the
write of each entry whose W meets one of its boxes. In general its read boxes inside an open home box are redirected to that buffer, and it
has an edge on each write that meets one of its boxes, and on each read, not done, of what it writes; where R161 renames it, it keeps
its write edges alone and writes the lowest free range of the pool, with a fold behind it that waits for it and for those readers; its W
closes the directory entries that it meets. A PENDING record is READY once its edges are satisfied and its wait is met; an engine starts
the best of its READY records that can start, high priority first, then the lower post sequence number. What a started renamed record
finds in its buffer is log entry 15 (DEDUCED). That a READY record outside its ready queue starts where none of the 16 in it can, and that
a record that leaves the ready queue and comes back keeps its count, follow log entry 40. When the parts of an M.MMQ are READY and can
start is data of State (log entry 4). -/
def Obligations.EnteredRecord : Prop :=
  (∀ (e : Entry) (room : Nat) (s : State), s.thatch.dir = [] →
    (∀ x ∈ s.thatch.entries, readEdges s (trackedW e) x = []) →
    let t := enter e room s
    ∃ n : Entry, t.thatch.entries = s.thatch.entries ++ [n] ∧ n.slot = s.thatch.nextSlot ∧ n.seq = s.thatch.nextSeq ∧
      n.state = .pending ∧ n.record = e.record ∧ n.boxes = e.boxes ∧ t.thatch.nextSlot = s.thatch.nextSlot + 1 ∧
      t.thatch.nextSeq = s.thatch.nextSeq + 1 ∧
      (∀ x ∈ s.thatch.entries, { kind := .write, slot := x.slot } ∈ n.edges ↔
        ∃ y ∈ s.thatch.entries, y.slot = x.slot ∧ ∃ w, trackedW y = some w ∧
          ((readBoxes e.boxes).any (fun b => overlap s b w) = true ∨ ∃ v, trackedW e = some v ∧ overlap s v w = true))) ∧
  -- the box that a read box becomes: in the first open directory entry that holds it
  (∀ (s : State) (b : RBox),
    (∀ (i : Nat) (d : DirEntry), s.thatch.dir[i]? = some d → d.isOpen = true → insideBox s b d.home = true →
      (∀ (j : Nat) (x : DirEntry), j < i → s.thatch.dir[j]? = some x → (x.isOpen && insideBox s b x.home) = false) →
      redirect s b = { b with rb := some { off := d.off, o := d.home.o, e := d.home.e } }) ∧
    ((∀ d ∈ s.thatch.dir, (d.isOpen && insideBox s b d.home) = false) → redirect s b = b)) ∧
  -- entry, with its renaming
  (∀ (e : Entry) (room : Nat) (s : State),
    let t := enter e room s
    let boxes := redirectAll s e.boxes
    let writes (ed : Edge) : Prop := ed.kind = .write ∧ ∃ x ∈ s.thatch.entries, ed.slot = x.slot ∧ ∃ w, trackedW x = some w ∧
      ((∃ b ∈ readBoxes boxes, overlap s b w = true) ∨ ∃ v, trackedW e = some v ∧ overlap s v w = true)
    let reads (ed : Edge) : Prop := ed.kind = .read ∧ ∃ x ∈ s.thatch.entries, ed.slot = x.slot ∧ x.done = false ∧
      ∃ v, trackedW e = some v ∧ ∃ b ∈ readBoxes x.boxes, overlap s v b = true
    let closed : List DirEntry := s.thatch.dir.map (fun (d : DirEntry) =>
      if (match trackedW e with | some w => overlap s w d.home | none => false) then { d with isOpen := false } else d)
    -- the conditions of R161, and room in the directory and in the local part
    let renames (w : RBox) (off : Nat) : Prop := trackedW e = some w ∧ w.acc = false ∧ hkKind (getHusk s w.hid) = 0 ∧
      (∃ ed : Edge, reads ed) ∧ (∀ x ∈ s.thatch.entries, ∀ v, trackedW x = some v → overlap s w v = false) ∧
      s.thatch.dir.length < 32 ∧ localCount s + room ≤ 56 ∧ poolFind s ((boxBytes s w + 63) / 64 * 64) = some off
    ((∀ (w : RBox) (off : Nat), ¬renames w off) → ∃ n : Entry, t.thatch.entries = s.thatch.entries ++ [n] ∧ n.slot = s.thatch.nextSlot ∧
      n.seq = s.thatch.nextSeq ∧ n.state = .pending ∧ n.record = e.record ∧ n.boxes = boxes ∧
      (∀ ed : Edge, ed ∈ n.edges ↔ writes ed ∨ reads ed) ∧ t.thatch.dir = closed ∧ t.thatch.nextSlot = s.thatch.nextSlot + 1 ∧
      t.thatch.nextSeq = s.thatch.nextSeq + 1) ∧
    (∀ (w : RBox) (off : Nat), renames w off → let buf : RBox := { w with rb := some { off := off, o := w.o, e := w.e } }
      ∃ n f : Entry, t.thatch.entries = s.thatch.entries ++ [n, f] ∧ n.slot = s.thatch.nextSlot ∧ n.seq = s.thatch.nextSeq ∧
        n.state = .pending ∧ n.record = e.record ∧ n.boxes = { boxes with w := some buf } ∧ (∀ ed : Edge, ed ∈ n.edges ↔ writes ed) ∧
        f.slot = n.slot + 1 ∧ f.seq = n.seq + 1 ∧ f.state = .pending ∧ f.fold = true ∧ f.boxes = { w := some w, a := some buf } ∧
        (∀ ed : Edge, ed ∈ f.edges ↔ ed = { kind := .write, slot := n.slot } ∨ reads ed) ∧
        t.thatch.dir = closed ++ [{ home := w, off := off, bytes := (boxBytes s w + 63) / 64 * 64, recSlot := n.slot
                                    foldSlot := f.slot, isOpen := true }] ∧
        t.thatch.nextSlot = s.thatch.nextSlot + 2 ∧ t.thatch.nextSeq = s.thatch.nextSeq + 2)) ∧
  -- the lowest free range of the pool
  (∀ (s : State) (bytes : Nat),
    let free (a : Nat) : Prop := 0x600000 - s.sys.rnpool.toNat * 4096 ≤ a ∧ a + bytes ≤ 0x600000 ∧
      (∀ d ∈ s.thatch.dir, a + bytes ≤ d.off ∨ d.off + d.bytes ≤ a) ∧
      ∀ x ∈ s.thatch.entries, ∀ p, x.priv = some p → a + bytes ≤ p.1 ∨ p.1 + p.2 ≤ a
    (∀ a, poolFind s bytes = some a → free a ∧ ∀ b, free b → a ≤ b) ∧ (poolFind s bytes = none → ∀ b, ¬free b)) ∧
  -- release
  (∀ (s : State) (e : Entry),
    let complete (x : Entry) : Prop :=
      if recRst x.record = true then
        x.state = .committing ∧ x.done = true ∧ x.buffered = [] ∧ x.ahead = false ∧ x.owed = false
      else x.done = true
    let here (w : RBox) : Prop := w.acc = true ∨ hkKind (getHusk s w.hid) = 0 ∨ hkKind (getHusk s w.hid) = 3 ∨
      (hkKind (getHusk s w.hid) = 2 ∧ hkMc (getHusk s w.hid) = true)
    let satisfied (ed : Edge) : Prop := ∀ x, findEntry s ed.slot = some x →
      (ed.kind = .read → x.done = true) ∧ (ed.kind = .write → ∃ w, x.boxes.w = some w ∧ complete x ∧ here w)
    let epochOk : Prop := recTask e.record = some .fred → e.fold = false → recImm e.record % 2 ^ 16 ≤ s.sys.gepoch.toNat
    let quadOk : Prop := recTask e.record = some .mmq → e.fold = false → e.quarter = none → s.thatch.partsReady = true
    (mayRelease s e = true ↔ e.state = .pending ∧ e.heldAhead = false ∧ (∀ ed ∈ e.edges, satisfied ed) ∧ quadOk ∧ epochOk ∧
      (recWv e.record = true → wireHeld s = false ∧ (recWthr e.record : Int) ≤ (getSem s (recWsem e.record)).toInt)) ∧
    (e ∈ s.thatch.entries → (if mayRelease s e = true then { e with state := .ready } else e) ∈ (releaseAll s).thatch.entries)) ∧
  -- what an engine starts
  (∀ (s : State) (e : Entry),
    let eng (x : Entry) : Engine × Bool := (entryEng x, !x.fold && recTask x.record == some .ckpt)
    let high (x : Entry) : Prop := recPri x.record = true ∨ x.fold = true ∨ x.promoted = true
    let foot (w : RBox) : Nat :=
      ((if hkKind (getHusk s w.hid) = 3 then hkLend (getHusk s w.hid) - hkLbase (getHusk s w.hid) else boxBytes s w) + 63) / 64 * 64
    let inSpad (w : RBox) : Prop := w.acc = false ∧ (hkKind (getHusk s w.hid) = 0 ∨ hkKind (getHusk s w.hid) = 3 ∨
      (hkKind (getHusk s w.hid) = 2 ∧ hkMc (getHusk s w.hid) = true))
    -- a restartable record takes the shadow of its bank, or a private buffer for its W unless it is renamed
    let bank (b : Nat) : Prop := ∃ w, e.boxes.w = some w ∧ w.acc = true ∧ recRst e.record = true ∧ e.fold = false ∧ b = w.o.x2
    let buffer (k : Nat) : Prop := ∃ w, trackedW e = some w ∧ recRst e.record = true ∧ e.fold = false ∧ w.rb = none ∧ inSpad w ∧
      k = foot w
    (canStart s e = true ↔ e.state = .ready ∧ s.thatch.stopped = false ∧ s.thatch.heldBy = 0 ∧ s.strand.run ≠ .stopped ∧
      (∀ x ∈ s.thatch.entries, x.state = .running → eng x ≠ eng e) ∧
      (∀ b : Nat, bank b → ∀ x ∈ s.thatch.entries, x.slot ≠ e.slot → x.shadow ≠ some b) ∧
      (∀ k : Nat, buffer k → ∃ off, poolFind s k = some off) ∧ (entryEng e = .m → s.store.testDue = false) ∧
      ((eng e).2 = true → ∀ x ∈ s.thatch.entries, (eng x).2 = true → x.slot ≠ e.slot → x.state ≠ .draining ∧ x.state ≠ .faulted ∧
        x.index = 0 ∧ ∀ w ∈ s.mem.sweeps, ¬(w.seq = x.seq ∧ w.asid = s.sys.asid)) ∧
      (entryEng e = .f → (s.thatch.entries.filter (fun x => entryEng x == .f && x.state == .draining)).length < 32 ∧
        (s.sys.gepochPf = true → recTask e.record = some .fred ∧ recImm e.record % 2 ^ 16 ≤ s.sys.gepoch.toNat))) ∧
    (isNext s e = true ↔ canStart s e = true ∧ ∀ x ∈ s.thatch.entries, x.slot ≠ e.slot → canStart s x = true → eng x = eng e →
      ¬((high x ∧ ¬high e) ∨ ((high x ↔ high e) ∧ x.seq < e.seq))) ∧
    -- the engine starts it, and what it has planned follows in the same step
    (∀ slot n : Nat, findEntry s slot = some e → e.state = .ready → s.pkg.shut = false →
      (∀ t, recTask e.record = some t → e.fold = false → t ≠ .mmq →
        (isNext s e = true → exec (taskInstr t slot n) s = exec (taskInstr t slot n) (startEntry e s)) ∧
        (isNext s e = false → exec (taskInstr t slot n) s = .next s)) ∧
      (e.fold = true → (isNext s e = true → exec (.fold slot n) s = exec (.fold slot n) (startEntry e s)) ∧
        (isNext s e = false → exec (.fold slot n) s = .next s)) ∧
      (recTask e.record = some .mmq → e.fold = false → e.quarter = none → wireHeld s = false →
        (isNext s e = true → s.thatch.partnersStart = true →
          exec (.mMmq slot n) s = exec (.mMmq slot n) (startEntry e s)) ∧
        (isNext s e = false ∨ s.thatch.partnersStart = false → exec (.mMmq slot n) s = .next s))) ∧
    (∀ slot : Nat, findEntry s slot = some e →
      let t := startEntry e s
      ∃ x : Entry, findEntry t slot = some x ∧ x.state = .running ∧ x.record = e.record ∧ x.boxes = e.boxes ∧ x.index = e.index ∧
        x.seq = e.seq ∧ (∀ b : Nat, bank b → x.shadow = some b) ∧ ((∀ b, ¬bank b) → x.shadow = none) ∧
        (∀ k : Nat, buffer k → x.priv = (poolFind s k).map (fun off => (off, k))) ∧ ((∀ k, ¬buffer k) → x.priv = none) ∧
        t.strand = s.strand ∧ t.mem = s.mem ∧ t.thatch.dir = s.thatch.dir ∧
        ((∀ w, e.boxes.w = some w → w.rb = none) ∨ e.index ≠ 0 ∨ e.fold = true → t.store = s.store) ∧
        (∀ (w : RBox) (r : Buf), e.boxes.w = some w → w.rb = some r → e.index = 0 → e.fold = false →
          t.store = (putSpad s r.off (streamOf s { w with rb := none })).store) ∧
        -- a high-priority start counts against the low-priority records of the engine's ready queue, its 16 best READY records
        ∀ y ∈ s.thatch.entries, y.slot ≠ slot → s.thatch.entries.Pairwise (fun a b => a.slot ≠ b.slot) →
          let better (a b : Entry) : Bool := decide (high a ∧ ¬high b) || (decide (high a ↔ high b) && decide (a.seq < b.seq))
          let queued : Prop := y.state = .ready ∧
            (s.thatch.entries.filter (fun z => z.state == .ready && entryEng z == entryEng y && better z y)).length < 16
          (high e ∧ entryEng y = entryEng e ∧ queued ∧ ¬high y →
            findEntry t y.slot = some { y with passed := y.passed + 1, promoted := decide (256 ≤ y.passed + 1) }) ∧
          (¬(high e ∧ entryEng y = entryEng e ∧ queued ∧ ¬high y) → findEntry t y.slot = some y)))

/-- The box instructions (R155, R156). -/
def Obligations.BoxResults : Prop :=
  ∀ (s : State) (x y : Bx) (dim : BitVec 2) (a : Reg) (imm : BitVec 9),
    let v := getG s a + imm.setWidth 64
    let b := getBox s x
    let is (i : Instr) (n : BoxReg) : Prop := exec i s = .next (finish 1 s (.done (setBox s x n)))
    let traps (i : Instr) (c : Cause) : Prop := s.sys.spec = false →
      exec i s = .next (trapEntry { cause := c } false none s)
    (Ready [a] false s →
      (v.toNat ≤ 1023 → hkV (getHusk s v.toNat) = true → is (.bxh x a imm)
        { bv := true, acc := false, hid := v.toNat, o := {}, e := hkWhole (getHusk s v.toNat), s := {} }) ∧
      (v.toNat ≤ 1023 → hkV (getHusk s v.toNat) = false → traps (.bxh x a imm) .huskbad) ∧
      (v.toNat = 1024 ∨ v.toNat = 1025 → is (.bxh x a imm)
        { bv := true, acc := true, hid := 0, o := { x2 := v.toNat - 1024 }, e := { x0 := 256, x1 := 128, x2 := 1 }, s := {} }) ∧
      (1025 < v.toNat → traps (.bxh x a imm) .boxbad) ∧
      (b.bv = false → ∀ i ∈ [Instr.bxo x dim a imm, .bxe x dim a imm, .bxs x dim a imm], traps i .boxbad) ∧
      (b.bv = true → bregRank s b = none → ∀ i ∈ [Instr.bxo x dim a imm, .bxe x dim a imm, .bxs x dim a imm], traps i .huskbad) ∧
      (∀ r, b.bv = true → bregRank s b = some r → r ≤ dim.toNat →
        ∀ i ∈ [Instr.bxo x dim a imm, .bxe x dim a imm, .bxs x dim a imm], traps i .boxbad) ∧
      (∀ r, b.bv = true → bregRank s b = some r → dim.toNat < r →
        (v.toNat ≤ 65535 → is (.bxo x dim a imm) { b with o := dput b.o dim.toNat v.toNat } ∧
          is (.bxe x dim a imm) { b with e := dput b.e dim.toNat v.toNat }) ∧
        (65535 < v.toNat → traps (.bxo x dim a imm) .boxbad ∧ traps (.bxe x dim a imm) .boxbad) ∧
        (-32768 ≤ v.toInt → v.toInt ≤ 32767 →
          is (.bxs x dim a imm) { b with s := dput b.s dim.toNat (v.toInt % 65536).toNat }) ∧
        (v.toInt < -32768 ∨ 32767 < v.toInt → traps (.bxs x dim a imm) .boxbad))) ∧
    (b.acc = true → bregRank s b = some 3) ∧
    (b.acc = false → bregRank s b =
      if (getHusk s b.hid).d0.getLsbD 15 = true then some (((getHusk s b.hid).d0.extractLsb' 4 2).toNat + 1) else none) ∧
    [0xA0020005, 0xA082A808, 0xA1020004, 0xA1828008, 0xA2040200, 0xA2840000].map (decodeTableWord 32) =
      [some (.bxh 1 0 5), some (.bxo 1 1 20 8), some (.bxe 1 0 0 4), some (.bxs 1 1 0 8), some (.bxc 2 1), some (.bxz 2)] ∧
    (Ready [] false s → is (.bxc x y) (getBox s y) ∧ is (.bxz x) { b with bv := false })

/-- The husk instructions (R152 to R154), of a husk that no record names, with nothing to write back: an image is loaded, and
every block is invalid; an image is stored; V is cleared; a companding table is loaded. Their refusals: a number above 1,023, or
above 15 for a table, a bound husk, and an image or table that the checks refuse, are HUSKBAD; an address that is none of the
scratchpad, or lies outside it, is SEG, one that is no multiple of the image ALIGN. One that a record names stalls. -/
def Obligations.HuskResults : Prop :=
  ∀ (s : State) (h a : Reg) (imm : BitVec 8) (off : Nat),
    let n := (getG s h + imm.setWidth 64).toNat
    (Ready [h, a] true s → (getG s a).getLsbD 63 = true →
      (n ≤ 1023 → namesHusk s n = false → meetsCopy s (getG s a) 64 = false →
        (check (getG s a) 64 0 s = .spad off → hkBnd (getHusk s n) = false →
          huskBad s (huskOf (bytesAt s.store.spad off 64)) = false → dirtyBytes s n = [] →
          exec (.hkld h a imm) s =
            .next (finish 1 s (.done (setHusk n (huskOf (bytesAt s.store.spad off 64)) (settleBlocks n true s))))) ∧
        (check (getG s a) 64 1 s = .spad off →
          exec (.hkst h a imm) s = .next (finish 1 s (.done (putSpad s off (huskBytes (getHusk s n))))))) ∧
      (n ≤ 15 → namesTab s n = false → meetsCopy s (getG s a) 128 = false → check (getG s a) 128 0 s = .spad off →
        let tab := (List.range 16).map (fun i => BitVec.ofNat 64 (readLe s.store.spad (off + 8 * i) 8))
        tabValid tab = true → exec (.hktab h a imm) s =
          .next (finish 1 s (.done { s with store := { s.store with tabs := tset [] s.store.tabs n tab } })))) ∧
    (Ready [h] true s → n ≤ 1023 → namesHusk s n = false → hkBnd (getHusk s n) = false → dirtyBytes s n = [] →
      exec (.hkinv h imm) s = .next (finish 1 s (.done (setHusk n
        { getHusk s n with d0 := (getHusk s n).d0 &&& 0xFFFFFFFFFFFF7FFF } (settleBlocks n true s))))) ∧
    (s.sys.spec = false →
      let traps (i : Instr) (t : Trap) : Prop := exec i s = .next (trapEntry t false none s)
      let refuses (i : Instr) (limit size kind : Nat) (names : Bool) : Prop :=
        (limit < n → traps i { cause := .huskbad }) ∧
        (n ≤ limit → (getG s a).getLsbD 63 = false →
          traps i { cause := .seg, info := BitVec.ofNat 32 kind, faddr := some (getG s a) }) ∧
        (∀ c, n ≤ limit → (getG s a).getLsbD 63 = true → check (getG s a) size kind s = .bad c → c = .seg ∨ c = .align →
          traps i { cause := c, info := BitVec.ofNat 32 kind, faddr := some (getG s a) }) ∧
        (n ≤ limit → (getG s a).getLsbD 63 = true → check (getG s a) size kind s = .spad off → names = true →
          exec i s = .next (stallAt s))
      (Ready [h, a] true s →
        refuses (.hkld h a imm) 1023 64 0 (namesHusk s n) ∧ refuses (.hkst h a imm) 1023 64 1 (namesHusk s n) ∧
        refuses (.hktab h a imm) 15 128 0 (namesTab s n) ∧
        (n ≤ 1023 → (getG s a).getLsbD 63 = true → namesHusk s n = false → meetsCopy s (getG s a) 64 = false →
          check (getG s a) 64 0 s = .spad off →
          hkBnd (getHusk s n) = true ∨ huskBad s (huskOf (bytesAt s.store.spad off 64)) = true →
          traps (.hkld h a imm) { cause := .huskbad }) ∧
        (n ≤ 15 → (getG s a).getLsbD 63 = true → namesTab s n = false → meetsCopy s (getG s a) 128 = false →
          check (getG s a) 128 0 s = .spad off →
          tabValid ((List.range 16).map (fun i => BitVec.ofNat 64 (readLe s.store.spad (off + 8 * i) 8))) = false →
          traps (.hktab h a imm) { cause := .huskbad })) ∧
      (Ready [h] true s → (1023 < n → traps (.hkinv h imm) { cause := .huskbad }) ∧
        (n ≤ 1023 → namesHusk s n = true → exec (.hkinv h imm) s = .next (stallAt s)) ∧
        (n ≤ 1023 → namesHusk s n = false → hkBnd (getHusk s n) = true → traps (.hkinv h imm) { cause := .huskbad })))

/-- Entry consistency (R272 to R277). ACQ of a free object takes it, and completes at one that this core owns, once no record names a
husk bound to it and no load is outstanding, with every bound husk written back and its blocks invalid; it stalls at an object that
another owns. REL writes the bound husks back, which stay valid, and, once every earlier access is performed at its scope and no store
is parked, frees an object that this core owns, and leaves another alone. Either is a request at the object's home (R290), and traps UE
at a poisoned line (R289). BIND binds a valid cached husk to the object behind its write-back, its blocks invalid, or completes where it
is bound to it; UNBIND writes back and ends that. HUSKBAD: a husk that is none of these; at BIND one bound to another object, a 65th
binding and the 17th of an object; at UNBIND one that is not bound to the object. All stall while an unretired record names the husk, and
while the object's page is held; an object that is no doubleword of memory traps as the address check says. What ACQ does before it
waits, and which forms meet a poisoned object, follow log entry 23; that all wait for a hand-over is log entry 24 (DEDUCED beside
R309); that every element of a husk is checked before any is written is log entry 14 (DEDUCED). -/
def Obligations.EntryConsistencyResults : Prop :=
  (∀ (s u : State) (a b : Reg) (sc : Scope) (pa : Nat) (leaf : Option Nat),
    (getG s a).getLsbD 63 = false → check (getG s a) 8 2 s = .mem pa false false leaf u →
    meetsCopy s (getG s a) 8 = false → pageParked s (getG s a).toNat = false → s.grp.issuing = [] →
    let owner (t : State) : Word := BitVec.ofNat 64 (2 ^ 63 + t.sys.nodeid.toNat * 2 ^ 9 + t.sys.coreid.toNat)
    let n := (getG u b).toNat
    let w := requestAt pa u
    let held := setObject pa leaf (owner w) w
    let traps (i : Instr) (t : Trap) : Prop := exec i s = .next (trapEntry t false none (consumedBy t s))
    let done (i : Instr) (t : State) : Prop := exec i s = .next (finish 1 s (.done t))
    let stalls (i : Instr) (t : State) : Prop := exec i s = .next (stallAt t)
    let bound (t : State) : List Nat := boundTo t (getG t a)
    let empty (ns : List Nat) (t : State) : State := ns.foldl (fun t n => settleBlocks n true t) t
    -- the write-back of husks succeeds, and gives `v`; or meets a cause in the first of them
    let written (ns : List Nat) (t v : State) : Prop := ∃ k, writeBackAll (dirtyHusks t ns) t = (k, none, v)
    let refused (ns : List Nat) (t : State) (c : Cause) (va : Nat) : Prop :=
      ∃ v, writeBackAll (dirtyHusks t ns) t = (0, some (.cause c va), v)
    let unwritten (c : Cause) (va : Nat) : Trap :=
      { cause := c, info := 1, faddr := some (BitVec.ofNat 64 va), access := some false }
    (Ready [a] true s → poisonedAt s (memKey s.sys.nodeid.toNat pa) = true → s.sys.spec = false →
      ∀ i ∈ [Instr.acq sc a, .rel sc a], exec i s = .next (trapEntry
        { cause := .ue, info := 2, faddr := some (getG s a), line := some pa, access := some true } false none
        (consumed false pa (requestAt pa (missRequests true 2 (getG s a).toNat s))))) ∧
    (Ready [a] true s → poisonedAt s (memKey s.sys.nodeid.toNat pa) = false →
      -- an object with no bound husk
      (boundTo u (getG u a) = [] →
        (objectWord u pa = owner u → u.strand.loads = [] → done (.acq sc a) w) ∧
        (objectWord u pa = 0 → u.strand.loads = [] → boundTo held (getG held a) = [] → held.strand.loads = [] →
          done (.acq sc a) held) ∧
        (u.mem.replay = [] → releaseReady sc u = true → objectWord u pa = owner u →
          done (.rel sc a) (setObject pa leaf 0 w)) ∧
        (u.mem.replay = [] → releaseReady sc u = true → objectWord u pa ≠ owner u → done (.rel sc a) w)) ∧
      (objectWord u pa ≠ 0 → objectWord u pa ≠ owner u → stalls (.acq sc a) w) ∧
      -- ACQ of an object that this core owns, or takes, with any husks bound to it
      (let takes (t : State) : Prop :=
         ((bound t).any (namesHusk t) = true → stalls (.acq sc a) t) ∧
         ((bound t).any (namesHusk t) = false → ∀ v, written (bound t) t v →
           (v.strand.loads = [] → done (.acq sc a) (empty (bound t) v)) ∧
           (v.strand.loads ≠ [] → stalls (.acq sc a) (empty (bound t) v)))
       (objectWord u pa = owner u → takes w ∧ ((bound w).any (namesHusk w) = false → ∀ c va, c ≠ .brk →
         refused (bound w) w c va → traps (.acq sc a) (unwritten c va))) ∧
       (objectWord u pa = 0 → takes held ∧ ((bound held).any (namesHusk held) = false → ∀ c va,
         refused (bound held) held c va → stalls (.acq sc a) held))) ∧
      -- REL
      ((bound u).any (namesHusk u) = true → stalls (.rel sc a) u) ∧
      ((bound u).any (namesHusk u) = false →
        (∀ c va, c ≠ .brk → refused (bound u) u c va → traps (.rel sc a) (unwritten c va)) ∧
        ∀ v, written (bound u) u v →
          (v.mem.replay ≠ [] ∨ releaseReady sc v = false → stalls (.rel sc a) v) ∧
          (v.mem.replay = [] → releaseReady sc v = true →
            (objectWord v pa = owner v → done (.rel sc a) (setObject pa leaf 0 (requestAt pa v))) ∧
            (objectWord v pa ≠ owner v → done (.rel sc a) (requestAt pa v))))) ∧
    (Ready [a, b] true s →
      let h := getHusk u n
      let cached : Prop := n ≤ 1023 ∧ hkV h = true ∧ hkKind h = kMem ∧ hkMc h = true
      let key := objKey (getG u a)
      let bad (i : Instr) : Prop := traps i { cause := .huskbad }
      let binds (v : State) : State :=
        let t := markBound n key true (settleBlocks n true v)
        { t with store := { t.store with bindings := t.store.bindings ++ [(key, n)] } }
      let unbinds (v : State) : State :=
        let t := markBound n 0 false v
        { t with store := { t.store with bindings := t.store.bindings.filter (fun x => x.2 != n) } }
      (¬cached → bad (.bind a b) ∧ bad (.unbind a b)) ∧
      (cached → namesHusk u n = true → stalls (.bind a b) u ∧ stalls (.unbind a b) u) ∧
      (cached → namesHusk u n = false →
        (hkBnd h = true → hkObj h = key → done (.bind a b) u ∧
          (∀ v, written [n] u v → done (.unbind a b) (unbinds v) ∧ (key, n) ∉ (unbinds v).store.bindings) ∧
          (∀ c va, c ≠ .brk → refused [n] u c va → traps (.unbind a b) (unwritten c va))) ∧
        (hkBnd h = true → hkObj h ≠ key → bad (.bind a b) ∧ bad (.unbind a b)) ∧
        (hkBnd h = false → bad (.unbind a b)) ∧
        (hkBnd h = false → 64 ≤ u.store.bindings.length ∨ 16 ≤ (bound u).length → bad (.bind a b)) ∧
        (hkBnd h = false → u.store.bindings.length < 64 → (bound u).length < 16 →
          (∀ v, written [n] u v → done (.bind a b) (binds v)) ∧
          (∀ c va, c ≠ .brk → refused [n] u c va → traps (.bind a b) (unwritten c va)))))) ∧
  -- what a write-back leaves: nothing where nothing is dirty, and nothing dirty
  (∀ (t : State) (ns : List Nat), (∀ n ∈ ns, dirtyBytes t n = []) → writeBackAll (dirtyHusks t ns) t = (0, none, t)) ∧
  (∀ (t v : State) (ns : List Nat) (k : Nat), writeBackAll (dirtyHusks t ns) t = (k, none, v) → k = (dirtyHusks t ns).length ∧
    v.store.bindings = t.store.bindings ∧ v.store.husks = t.store.husks ∧ v.strand = t.strand ∧
    ∀ n ∈ ns, dirtyBytes v n = []) ∧
  -- the object's own checks (R273)
  (∀ (s : State) (a b : Reg) (sc : Scope) (i : Instr),
    (Ready [a] true s ∧ (i = .acq sc a ∨ i = .rel sc a)) ∨ (Ready [a, b] true s ∧ (i = .bind a b ∨ i = .unbind a b)) →
    ((getG s a).getLsbD 63 = true →
      exec i s = .next (trapEntry { cause := .seg, info := 2, faddr := some (getG s a) } false none s)) ∧
    ((getG s a).getLsbD 63 = false →
      (∀ c, c ≠ .brk → check (getG s a) 8 2 s = .bad c → exec i s = .next (trapEntry
        { cause := c, info := 2, faddr := some (getG s a), access := some true } false none (refusedAccess c 2 (getG s a) s))) ∧
      (check (getG s a) 8 2 s = .held → exec i s = .next (stallAt s)) ∧
      (∀ pa mig leaf u, check (getG s a) 8 2 s = .mem pa mig true leaf u →
        exec i s = .next (stallAt (raisePage (getG s a).toNat u))) ∧
      (∀ pa mig leaf u, check (getG s a) 8 2 s = .mem pa mig false leaf u →
        mig = true ∨ meetsCopy s (getG s a) 8 = true ∨ pageParked s (getG s a).toNat = true ∨ s.grp.issuing ≠ [] →
        exec i s = .next (stallAt u))))

/-! ### Engine tasks (spec/08_matrix_transpose.md to spec/10_copy.md, spec/18_fabric_remote.md) -/

/-- The matrix and transpose tasks: a running record that its engine has planned nothing for performs `n` units. A unit of a
product is a stripe of 16 rows, of each of which element j receives the products of A's row with B's column j (R187, R193 to
R197): a poisoned element stays as it is; a poisoned scale, or more than 8,191 products, poisons it with NV; else the exact sum of
the products is added to its residues, its scale is set while it is empty, and KC counts. M.MZ clears the elements of a stripe
(R199), M.MST writes what a self-test finds (R200), a unit of a transpose is a row of moved elements (R202 to R204). A core with
no array faults with RESIDUE, a product whose window does not hold its rows, or whose offsets are none, with BOXBAD. A part of an
M.MMQ that another core leads runs one quarter, from the operands that came with it; the stall wire stops an M.MMQ at its stripe
boundary, and an engine of a part that has shut down does nothing (R196, R264, R315). That the remaining units are planned when the
engine turns to the record is the model's choice (log entry 20); that a part comes with its operands is log entries 4 and 9, and that
the planes of B of groups without rows are read for M.MMG is log entry 40 (DEDUCED beside R197). -/
def Obligations.MatrixTransposeTasks : Prop :=
  (∀ (slot n : Nat) (s : State) (e : Entry),
    let does (i : Instr) (t : Task) (p : State × Work) : Prop := Runs t slot e s → exec i s = .next (doUnits n p.2 e p.1)
    let fails (c : EngineCause) : State × Work := (s, { cause := some c })
    let gone : EngineCause := { cause := .residue, info := some 0xFFFFFFFF }
    let w := theBox e.boxes.w
    let a := theBox e.boxes.a
    let b := theBox e.boxes.b
    let one : List Quarter := [{ core := none, row := 0, col := 0 }]
    let rows := boxE s w 1
    let k := boxE s a 0
    let stripe (u : Nat) : List Nat := (List.range (min 16 (rows - 16 * u))).map (fun i => 16 * u + i)
    let product (qs : List Quarter) (offs : List Nat) : State × Work :=
      unitPlan (e.index / 16) ((rows + 15) / 16)
        (fun u => [fun s =>
          (if u = e.index / 16 then [{ box := b, first := 0, count := boxElems s b, write := false }] else []) ++
            qs.map (fun q => { box := a, first := (q.row + 16 * u) * k, count := (stripe u).length * k, write := false })])
        (fun s u => joinPortions (stripe u).length (qs.flatMap (fun q => (stripe u).map (fun i =>
          rowPortion s w a q i (colScales s w b q (groupOf offs i)
            (offs.getD (groupOf offs i) 0) (offs.getD (groupOf offs i + 1) 0))))))
        (fun _ => none) s
    let products (i : Instr) (t : Task) (qs : List Quarter) (offs : Option (List Nat)) : Prop :=
      (arrayGone s = true → does i t (fails gone)) ∧
      (arrayGone s = false → (winHeld s a && winHeld s b) = false → does i t (fails { cause := .boxbad })) ∧
      (arrayGone s = false → winHeld s a = true → winHeld s b = true →
        (∀ o, offs = some o → does i t (product qs o)) ∧ (offs = none → does i t (fails { cause := .boxbad })))
    products (.mMm slot n) .mm one (some [0, rows]) ∧
    (e.quarter = none → quadReduced s = false → products (.mMmq slot n) .mmq (quarters s w) (some [0, rows])) ∧
    (e.quarter = none → quadReduced s = true → arrayGone s = false → does (.mMmq slot n) .mmq
      (fails { cause := .residue, info := some (BitVec.ofNat 32 e.seq) })) ∧
    (∀ p, e.quarter = some p →
      let rows := boxE s p.w 1
      let stripe (u : Nat) : List Nat := (List.range (min 16 (rows - 16 * u))).map (fun i => 16 * u + i)
      let vals (h : Husk) (l : List Nat) : List Val := l.map (valueOf s h)
      does (.mMmq slot n) .mmq (unitPlan (e.index / 16) ((rows + 15) / 16) (fun _ => [])
        (fun s u => joinPortions (stripe u).length ((stripe u).map (fun i =>
          tileRow s p.w none p.huskA (vals p.huskA (p.rows.getD i [])) i ((List.range (boxE s p.w 0)).map (fun j =>
            colScale s p.w none p.huskB (vals p.huskB (p.cols.getD j [])) j 0 rows)))))
        (fun _ => none) s)) ∧
    (findEntry s slot = some e → recTask e.record = some .mmq → e.fold = false → e.state = .running → s.pkg.shut = false →
      wireHeld s = true → exec (.mMmq slot n) s = .next (releaseAll (holdQuad s)) ∧
        ∃ x : Entry, findEntry (holdQuad s) slot = some x ∧ x = stopEntry e) ∧
    (s.pkg.shut = true → exec (.mMmq slot n) s = .next s ∧ exec (.mMm slot n) s = .next s ∧ exec (.mMmg slot n) s = .next s) ∧
    (let offs := (List.range (boxE s (theBox e.boxes.c) 0)).map (readElem s (theBox e.boxes.c))
     products (.mMmg slot n) .mmg one (if offsetsBad offs rows then none else some offs)) ∧
    (arrayGone s = true → does (.mMz slot n) .mz (fails gone) ∧ does (.mMst slot n) .mst (fails gone)) ∧
    (arrayGone s = false → does (.mMz slot n) .mz (unitPlan (e.index / 16) ((rows + 15) / 16) (fun _ => [])
      (fun s u =>
        { effects := (stripe u).flatMap (fun i => (List.range (boxE s w 0)).map (fun j => .acc (tileKey s w i j) {}))
          step := (stripe u).length }) (fun _ => none) s)) ∧
    (arrayGone s = false → does (.mMst slot n) .mst (selfTest s,
      { units := [{ effects := elemEffects (selfTest s) w 0
                      ((15 - (selfTest s).store.fenced.toNat) +
                        16 * ((selfTest s).store.fenced &&& ~~~s.store.fenced).toNat), step := rows }] })) ∧
    (let moves (f : Dims → Dims) : State × Work := xPlan (fun _ _ => f) e s
     does (.xXpose slot n) .xpose (moves (fun i => { x0 := i.x1, x1 := i.x0, x2 := i.x2, x3 := i.x3 })) ∧
     does (.xXperm slot n) .xperm (moves (fun i => (List.range 4).foldl (fun j d =>
       dput j (recImm e.record / 4 ^ d % 4) (dget i d)) {})) ∧
     does (.xXrev slot n) .xrev (xPlan (fun s e i => (List.range 4).foldl (fun j d =>
       dput j d (if recImm e.record / 2 ^ d % 2 = 1 then boxE s (theBox e.boxes.a) d - 1 - dget i d else dget i d)) {}) e s))) ∧
  -- a row of a product, and the scale of a column
  (∀ (s : State) (w a b : RBox) (q : Quarter) (i j g lo hi : Nat) (cols : List (Scale × BitVec 6)) (c : Scale × BitVec 6),
    let old (i j : Nat) : Acc := coreAcc s q.core (accKey s w (i * boxE s w 0 + j))
    (cols.length = boxE s w 0 → cols[j]? = some c →
      let ra := scaleOf (boxHusk s a) ((List.range (boxE s a 0)).map (fun k => boxValue s a ((q.row + i) * boxE s a 0 + k)))
        (storedOf (fun x => x.er.toInt) ((List.range (boxE s w 0)).map (old i)))
      (rowPortion s w a q i cols).effects[j]? = some (accEffect q.core (accKey s w (i * boxE s w 0 + j))
        (accumulate (old i j) (boxE s a 0) ra c.1).1)) ∧
    (j < boxE s w 0 → ((colScales s w b q g lo hi)[j]?).map Prod.fst = some (scaleOf (boxHusk s b)
      ((List.range (boxE s b 1)).map (fun k => boxValue s b (q.col + j + boxE s b 0 * (k + boxE s b 1 * g))))
      (storedOf (fun x => x.ec.toInt) ((List.range (hi - lo)).map (fun i => old (lo + i) j)))))) ∧
  -- what is added to an element
  (∀ (el : Acc) (k : Nat) (ra cb : Scale),
    let t := accumulate el k ra cb
    (el.po = true → t = (el, 0)) ∧
    (el.po = false → ra = .poison ∨ cb = .poison ∨ 8191 < el.kc.toNat + k →
      t = ({ el with po := true, empty := false }, flagNV)) ∧
    (el.po = false → el.kc.toNat + k ≤ 8191 → ra ≠ .poison → cb ≠ .poison → ra = .none ∨ cb = .none → t = (el, 0)) ∧
    (∀ e f p q, ra = .at_ e p → cb = .at_ f q → el.po = false → el.kc.toNat + k ≤ 8191 →
      let x := (p.zipWith (fun u v => u * v) q).sum
      t.2 = 0 ∧ t.1.po = false ∧ t.1.empty = false ∧ t.1.kc.toNat = el.kc.toNat + k ∧
      t.1.er = (if el.empty then BitVec.ofInt 9 e else el.er) ∧ t.1.ec = (if el.empty then BitVec.ofInt 9 f else el.ec) ∧
      (t.1.ra.toNat : Int) = ((el.ra.toNat : Int) + x) % 4093 ∧ (t.1.rb.toNat : Int) = ((el.rb.toNat : Int) + x) % 4095 ∧
      (t.1.rc.toNat : Int) = ((el.rc.toNat : Int) + x) % 4096 ∧ (t.1.rk.toNat : Int) = ((el.rk.toNat : Int) + x) % 251))

/-- The vector tasks (R215 to R233): a running record that its engine has planned nothing for performs `n` units; element i of W
receives what its task makes of the elements it reads. V.ANY, V.ALL and V.CNT count the ones of A, unit by unit, and deliver
whether there is one, whether all are, and how many; V.COMP writes the elements of A that C selects, one behind the other, and
delivers their number, V.SCT each where B says; of V.HIST, unit u writes the bins that it counts into, each with its old count or
zero and the elements of A up to the end of the unit that hold its number, and the counts are delivered if XF asks. That the
remaining units are planned when the engine turns to the record is the model's choice (log entry 20). The numbers: each code of a
float format is its value, and rounds to itself; between two codes a value rounds by its mode, with ties to even, NX, and UF below the
normal numbers; beyond the largest it is an infinity or the largest number with OF and NX; a NaN is the canonical one (R17 to R19, R25,
R27). Conversion to an integer rounds and saturates (R28); sums and products are exact, with the sign of a zero sum and NV as R18 gives;
quotients and roots are rounded once (R217, R218, R29); a reduction is the tree of R30; C8 follows its table (R23, R24), of several odd
codes that tie the least (DESIGN CHOICE, log entry 40). EXP2 and LOG2 are pinned where they are exact and EXP2 at a half; elsewhere they
follow log entry 11. -/
def Obligations.VectorTasks : Prop :=
  flagNV = 1 ∧ flagDZ = 2 ∧ flagOF = 4 ∧ flagUF = 8 ∧ flagNX = 16 ∧ flagSAT = 32 ∧
  -- the codes of a float format, and rounding to it
  (∀ (f : Fmt) (p w : Nat) (emin emax : Int) (mode : Nat) (neg : Bool), (f, p, w, emin, emax) ∈ floatShapes → mode < 4 →
    let sign := if neg then 2 ^ (w - 1) else 0
    let infinite := if f = .f8 then 0x7E else (2 ^ (w - p) - 1) * 2 ^ (p - 1)
    let top := if f = .f8 then 0x7E else infinite - 1
    let huge : Nat × BitVec 6 :=
      (sign + (if mode = 1 ∨ (mode = 2 ∧ neg = false) ∨ (mode = 3 ∧ neg = true) then top else infinite), flagOF ||| flagNX)
    (∀ c ≤ top,
      let m := if c < 2 ^ (p - 1) then c else 2 ^ (p - 1) + c % 2 ^ (p - 1)
      let q : Int := emin - ((p - 1 : Nat) : Int) + ((max 1 (c / 2 ^ (p - 1)) - 1 : Nat) : Int)
      valOfBits f (sign + c) = .fin neg m q ∧ roundVal f mode (.fin neg m q) = (sign + c, 0) ∧
      ∀ k r : Nat, 0 < r → r < 2 ^ k →
        let up := (awayBy mode neg (c % 2 == 1) r k).toNat
        roundVal f mode (.fin neg (m * 2 ^ k + r) (q - (k : Int))) = if top < c + up then huge else
          (sign + c + up, if c + up < 2 ^ (p - 1) then flagNX ||| flagUF else flagNX)) ∧
    (∀ (m : Nat) (e : Int), 0 < m → emax < e + (Nat.log2 m : Int) → roundVal f mode (.fin neg m e) = huge) ∧
    roundVal f mode (.inf neg) = (sign + infinite, if f = .f8 then flagOF else 0) ∧
    (∀ b, roundVal f mode (.nan b) = (if f = .f8 then 0x7F else infinite + 2 ^ (p - 2), 0)) ∧
    (f = .f8 → valOfBits f (sign + 0x7F) = .nan false) ∧
    (f ≠ .f8 → valOfBits f (sign + infinite) = .inf neg ∧
      ∀ r, 0 < r → r < 2 ^ (p - 1) → valOfBits f (sign + infinite + r) = .nan (decide (r < 2 ^ (p - 2)))) ∧
    -- what is left below an approximation only tells that the value lies beyond
    (∀ (m : Nat) (e : Int), 2 ^ 26 ≤ m → roundFin f mode neg m e true = roundVal f mode (.fin neg (2 * m + 1) (e - 1)))) ∧
  -- integers
  (∀ (mode : Nat) (neg : Bool) (y k r : Nat), r < 2 ^ k →
    roundInt mode neg (y * 2 ^ k + r) (-(k : Int)) false =
      ((if neg then -1 else 1) * ((y + (awayBy mode neg (y % 2 == 1) r k).toNat : Nat) : Int), decide (r ≠ 0))) ∧
  (∀ (f : Fmt) (w : Nat) (lo hi : Int) (mode : Nat), (f, w, lo, hi) ∈ intShapes →
    let code (v : Int) : Nat := (v % 2 ^ w).toNat
    (∀ v, lo ≤ v → v ≤ hi → valOfBits f (code v) = .fin (decide (v < 0)) v.natAbs 0) ∧
    (∀ b, floatToInt f mode (.nan b) = (0, flagNV)) ∧
    (∀ neg, floatToInt f mode (.inf neg) = (code (if neg then lo else hi), flagNV ||| flagSAT)) ∧
    (∀ neg m e, let r := roundInt mode neg m e false
      floatToInt f mode (.fin neg m e) = if r.1 < lo then (code lo, flagNV ||| flagSAT) else
        if hi < r.1 then (code hi, flagNV ||| flagSAT) else (code r.1, if r.2 then flagNX else 0)) ∧
    (∀ (mod : Nat) (v : Int), fit f mod (.fin (decide (v < 0)) v.natAbs 0) =
      if 4 ≤ mod ∧ v < lo then (code lo, flagSAT) else if 4 ≤ mod ∧ hi < v then (code hi, flagSAT) else (code v, 0))) ∧
  (∀ (f : Fmt) (p w : Nat) (emin emax : Int) (mod : Nat) (v : Val), (f, p, w, emin, emax) ∈ floatShapes →
    fit f mod v = roundVal f (mod % 4) v) ∧
  -- sums, products and comparisons of values
  (∀ (mode : Nat) (a b : Bool) (m n : Nat) (e g : Int),
    let k := min e g
    let x : Int := (if a then -1 else 1) * ((m * 2 ^ (e - k).toNat : Nat) : Int)
    let y : Int := (if b then -1 else 1) * ((n * 2 ^ (g - k).toNat : Nat) : Int)
    addVal mode (.fin a m e) (.fin b n g) =
      (if x + y = 0 then .fin (if a = b then a else decide (mode = 2)) 0 0 else .fin (decide (x + y < 0)) (x + y).natAbs k, 0) ∧
    addVal mode (.inf a) (.inf b) = (if a = b then (.inf a, 0) else (.nan false, flagNV)) ∧
    addVal mode (.inf a) (.fin b n g) = (.inf a, 0) ∧ addVal mode (.fin b n g) (.inf a) = (.inf a, 0) ∧
    mulVal (.fin a m e) (.fin b n g) = (.fin (a != b) (m * n) (e + g), 0) ∧ mulVal (.inf a) (.inf b) = (.inf (a != b), 0) ∧
    mulVal (.inf a) (.fin b n g) = (if n = 0 then (.nan false, flagNV) else (.inf (a != b), 0)) ∧
    mulVal (.fin b n g) (.inf a) = (if n = 0 then (.nan false, flagNV) else (.inf (b != a), 0)) ∧
    (∀ (q : Bool) (v : Val), addVal mode (.nan q) v = (.nan false, 0) ∧ addVal mode v (.nan q) = (.nan false, 0) ∧
      mulVal (.nan q) v = (.nan false, 0) ∧ mulVal v (.nan q) = (.nan false, 0) ∧
      minmaxVal a (.nan q) v = .nan false ∧ minmaxVal a v (.nan q) = .nan false) ∧
    cmpVal (.fin a m e) (.fin b n g) = compare x y ∧
    -- -0 is below +0
    minmaxVal false (.fin a m e) (.fin b n g) =
      (if x < y ∨ (x = y ∧ a = true) then .fin a m e else .fin b n g) ∧
    minmaxVal true (.fin a m e) (.fin b n g) =
      (if y < x ∨ (x = y ∧ a = false) then .fin a m e else .fin b n g)) ∧
  -- quotients and roots: the integer below, whether anything is left, and far more places than any format has
  (∀ (neg : Bool) (m n : Nat) (e g : Int), 0 < m → 0 < n →
    let d := divApprox neg m e n g
    let x := m * 2 ^ (e - g - d.e).toNat
    let q := sqrtApprox m e
    let y := m * 2 ^ (e - 2 * q.e).toNat
    let r := rsqApprox m e
    let z := 2 ^ (-e - 2 * r.e).toNat
    d.neg = neg ∧ 2 ^ 64 ≤ d.m ∧ d.e ≤ e - g ∧ d.m * n ≤ x ∧ x < (d.m + 1) * n ∧ d.sticky = decide (d.m * n ≠ x) ∧
    q.neg = false ∧ 2 ^ 64 ≤ q.m ∧ 2 * q.e ≤ e ∧ q.m ^ 2 ≤ y ∧ y < (q.m + 1) ^ 2 ∧ q.sticky = decide (q.m ^ 2 ≠ y) ∧
    r.neg = false ∧ 2 ^ 64 ≤ r.m ∧ 2 * r.e ≤ -e ∧ r.m ^ 2 * m ≤ z ∧ z < (r.m + 1) ^ 2 * m ∧ r.sticky = decide (r.m ^ 2 * m ≠ z)) ∧
  (∀ (neg : Bool) (m t : Nat) (e : Int),
    (m < 4096 → exp2Approx neg m 0 =
      { neg := false, m := 1, e := (if neg then -(m : Int) else (m : Int)), sticky := false }) ∧
    (m < 4096 → m % 2 = 1 → let h := exp2Approx neg m (-1)
      h.neg = false ∧ h.m ^ 2 ≤ 2 ^ 641 ∧ 2 ^ 641 < (h.m + 1) ^ 2 ∧
        h.e = (if neg then -((m / 2 : Nat) : Int) - 1 else ((m / 2 : Nat) : Int)) - 320 ∧ h.sticky = true) ∧
    log2Approx (2 ^ t) e =
      { neg := decide (e + (t : Int) < 0), m := (e + (t : Int)).natAbs, e := 0, sticky := false }) ∧
  (∀ (f : Fmt) (mode : Nat) (a b : Bool) (m n : Nat) (e g : Int),
    let sign (x : Bool) : Nat := if x then 2 ^ (fmtBits f - 1) else 0
    let nan : Nat × BitVec 6 := ((roundVal f mode (.nan false)).1, flagNV)
    let zeroDiv (x : Bool) : Nat × BitVec 6 := withFlags flagDZ (roundVal f mode (.inf x))
    let rounded (x : Approx) : Nat × BitVec 6 := roundFin f mode x.neg x.m x.e x.sticky
    divBits f mode (.fin a m e) (.fin b n g) = (if n = 0 then (if m = 0 then nan else zeroDiv (a != b))
      else if m = 0 then (sign (a != b), 0) else rounded (divApprox (a != b) m e n g)) ∧
    divBits f mode (.inf a) (.inf b) = nan ∧ divBits f mode (.inf a) (.fin b n g) = roundVal f mode (.inf (a != b)) ∧
    divBits f mode (.fin a m e) (.inf b) = (sign (a != b), 0) ∧
    sqrtBits f mode (.fin a m e) = (if m = 0 then (sign a, 0) else if a then nan else rounded (sqrtApprox m e)) ∧
    sqrtBits f mode (.inf a) = (if a then nan else roundVal f mode (.inf false)) ∧
    rcpBits f mode (.fin a m e) = (if m = 0 then zeroDiv a else rounded (divApprox a 1 0 m e)) ∧ rcpBits f mode (.inf a) = (sign a, 0) ∧
    rsqBits f mode (.fin a m e) = (if m = 0 then zeroDiv a else if a then nan else rounded (rsqApprox m e)) ∧
    rsqBits f mode (.inf a) = (if a then nan else (0, 0)) ∧
    exp2Bits f mode (.fin a m e) = rounded (exp2Approx a m e) ∧
    exp2Bits f mode (.inf a) = (if a then (0, 0) else roundVal f mode (.inf false)) ∧
    log2Bits f mode (.fin a m e) = (if m = 0 then zeroDiv true else if a then nan else rounded (log2Approx m e)) ∧
    log2Bits f mode (.inf a) = (if a then nan else roundVal f mode (.inf false))) ∧
  -- the tree of a reduction
  (∀ (op : Nat → Nat → Nat × BitVec 6) (fuel : Nat) (xs : List Nat) (fl : BitVec 6),
    (xs.length ≤ 1 → treeRed op fuel xs fl = (xs, fl)) ∧
    (∀ t, 2 ^ t < xs.length → xs.length ≤ 2 ^ (t + 1) →
      let at_ (i : Nat) : Nat := xs.getD i 0
      treeRed op (fuel + 1) xs fl = treeRed op fuel
        ((List.range (2 ^ t)).map (fun i => if i + 2 ^ t < xs.length then (op (at_ i) (at_ (i + 2 ^ t))).1 else at_ i))
        ((List.range (xs.length - 2 ^ t)).foldl (fun g i => g ||| (op (at_ i) (at_ (i + 2 ^ t))).2) fl))) ∧
  (∀ (op : Nat → Nat → Nat × BitVec 6) (x : Fin 6 → Nat),
    let g (a b : Nat) : Nat := (op a b).1
    (treeRed op 6 [x 0, x 1, x 2, x 3, x 4, x 5] 0).1 = [g (g (g (x 0) (x 4)) (x 2)) (g (g (x 1) (x 5)) (x 3))]) ∧
  (∀ (s : State) (e : Entry) (first n : Nat),
    let f := boxFmt s (boxW e)
    let op := recImm e.record
    let elem (i : Nat) : Nat × BitVec 6 := if 4 ≤ op then (rawA s e i, 0) else
      withFlags (if valSnan (valA s e i) then flagNV else 0) (fit f (recMod e.record) (valA s e i))
    let ys := (List.range n).map (fun k => elem (first + k))
    let r := treeRed (redOp f (recMod e.record) op) n (ys.map Prod.fst) (ys.foldl (fun g y => g ||| y.2) 0)
    redTree s e first n = (r.1.headD 0, r.2)) ∧
  (∀ (f : Fmt) (mod x y : Nat),
    let a := valOfBits f x
    let b := valOfBits f y
    let fitted (v : Val × BitVec 6) : Nat × BitVec 6 := withFlags v.2 (fit f mod v.1)
    redOp f mod 0 x y = fitted (addVal (mod % 4) a b) ∧ redOp f mod 1 x y = fitted (mulVal a b) ∧
    redOp f mod 2 x y = fit f mod (minmaxVal false a b) ∧ redOp f mod 3 x y = fit f mod (minmaxVal true a b) ∧
    redOp f mod 4 x y = (x &&& y, 0) ∧ redOp f mod 5 x y = (x ||| y, 0) ∧ redOp f mod 6 x y = (x ^^^ y, 0)) ∧
  -- companded codes
  (∀ (tab : List Word) (sb : Int), tabValid tab = true →
    let cb (j : Nat) : Nat := (tab.getD j 0).toNat % 2 ^ 8
    let q (c : Nat) : Nat := decodeCode tab c
    let code (neg : Bool) (c : Nat) : Nat := if neg ∧ c ≠ 0 then 256 - c else c
    (∀ c j, c ≤ 127 → j < 16 → cb j ≤ c → (∀ i, j < i → i < 16 → c < cb i) →
      q c = (tab.getD j 0).toNat / 2 ^ 8 % 2 ^ 12 + ((tab.getD j 0).toNat / 2 ^ 20 % 2 ^ 16 * (c - cb j) + 8) / 16) ∧
    c8Value tab sb 0x80 = .nan false ∧
    (∀ c, c ≤ 127 → c8Value tab sb c = .fin false (q c) (sb - 10) ∧
      (0 < c → c8Value tab sb (256 - c) = .fin true (q c) (sb - 10))) ∧
    (∀ mode b, c8Quant tab sb mode (.nan b) = (0x80, 0)) ∧
    (∀ mode neg, c8Quant tab sb mode (.inf neg) = (code neg 127, flagOF)) ∧
    (∀ mode neg e, c8Quant tab sb mode (.fin neg 0 e) = (0, 0)) ∧
    (∀ (mode : Nat) (neg : Bool) (m : Nat) (e : Int), mode < 4 → 0 < m →
      let r := c8Quant tab sb mode (.fin neg m e)
      -- a code's number and the value's, over one power of two
      let k := e + 10 - sb
      let x (c : Nat) : Int := (q c * 2 ^ (-k).toNat : Nat)
      let u : Int := (m * 2 ^ k.toNat : Nat)
      let towardsZero : Prop := mode = 1 ∨ (mode = 2 ∧ neg = false) ∨ (mode = 3 ∧ neg = true)
      (x 127 < u → r = (code neg 127, flagOF ||| flagNX)) ∧
      (u ≤ x 127 → ∃ c, c ≤ 127 ∧ r = (code neg c, if x c = u then 0 else flagNX) ∧
        (mode = 0 → ∀ d, d ≤ 127 → (x c - u).natAbs < (x d - u).natAbs ∨ ((x c - u).natAbs = (x d - u).natAbs ∧
          (c % 2 < d % 2 ∨ (c % 2 = d % 2 ∧ c ≤ d)))) ∧
        (towardsZero → x c ≤ u ∧ ∀ d, d ≤ 127 → x d ≤ u → d ≤ c) ∧
        (mode ≠ 0 → ¬towardsZero → u ≤ x c ∧ ∀ d, d ≤ 127 → u ≤ x d → c ≤ d)))) ∧
  -- the tasks
  ∀ (slot n : Nat) (s : State) (e : Entry),
    let runs (i : Instr) (t : Task) (p : Plan) : Prop :=
      Runs t slot e s → exec i s = .next (doUnits n (p e s).2 e (p e s).1)
    let each (i : Instr) (t : Task) (f : ElemOp) : Prop := runs i t (wPlan sameReads f)
    let f (s : State) (e : Entry) : Fmt := boxFmt s (boxW e)
    let md (e : Entry) : Nat := recMod e.record
    let bits (s : State) (e : Entry) : Nat := boxBits s (boxW e)
    -- arithmetic on exact values, rounded once to W's format
    let two (g : Nat → Val → Val → Val × BitVec 6) : ElemOp := fun s e i =>
      withFlags (snanOf [valA s e i, valB s e i]) (fitWith (f s e) (md e) (g (md e % 4) (valA s e i) (valB s e i)))
    let one (g : Fmt → Nat → Val → Nat × BitVec 6) : ElemOp := fun s e i =>
      withFlags (snanOf [valA s e i]) (g (f s e) (md e % 4) (valA s e i))
    each (.vAdd slot n) .vadd (two addVal) ∧
    each (.vSub slot n) .vsub (two (fun m x y => addVal m x (negVal y))) ∧
    each (.vMul slot n) .vmul (two (fun _ x y => mulVal x y)) ∧
    each (.vFma slot n) .vfma (fun s e i =>
      withFlags (snanOf [valA s e i, valB s e i, valC s e i])
        (fitWith (f s e) (md e) (fmaVal (md e % 4) (valA s e i) (valB s e i) (valC s e i)))) ∧
    each (.vDiv slot n) .vdiv (fun s e i =>
      withFlags (snanOf [valA s e i, valB s e i]) (divBits (f s e) (md e % 4) (valA s e i) (valB s e i))) ∧
    each (.vSqrt slot n) .vsqrt (one sqrtBits) ∧ each (.vRcp slot n) .vrcp (one rcpBits) ∧
    each (.vRsq slot n) .vrsq (one rsqBits) ∧ each (.vExp2 slot n) .vexp2 (one exp2Bits) ∧
    each (.vLog2 slot n) .vlog2 (one log2Bits) ∧
    each (.vMin slot n) .vmin (two (fun _ x y => (minmaxVal false x y, 0))) ∧
    each (.vMax slot n) .vmax (two (fun _ x y => (minmaxVal true x y, 0))) ∧
    each (.vAbs slot n) .vabs (fun s e i => withFlags (snanOf [valA s e i]) (fit (f s e) (md e) (absVal (valA s e i)))) ∧
    each (.vNeg slot n) .vneg (fun s e i => withFlags (snanOf [valA s e i]) (fit (f s e) (md e) (negVal (valA s e i)))) ∧
    -- conversions and scales
    each (.vCvt slot n) .vcvt (fun s e i => cvtBits (boxFmt s (boxA e)) (f s e) (md e % 4) (rawA s e i)) ∧
    each (.vQnt slot n) .vqnt (fun s e i => withFlags (snanOf [valA s e i])
      (c8Quant (getTab s (hkCtab (boxHusk s (boxW e)))) (hkSb (boxHusk s (boxW e))) (md e % 4) (valA s e i))) ∧
    each (.vDq slot n) .vdq (fun s e i => roundVal (f s e) (md e % 4) (valA s e i)) ∧
    each (.vScl slot n) .vscl (fun s e i =>
      roundSrc (f s e) (md e % 4) (sclVal (signedOf 16 (recImm e.record)) (valA s e i))) ∧
    -- raw bits
    each (.vAnd slot n) .vand (fun s e i => ((rawA s e i &&& rawBimm s e i) % 2 ^ bits s e, 0)) ∧
    each (.vOr slot n) .vor (fun s e i => ((rawA s e i ||| rawBimm s e i) % 2 ^ bits s e, 0)) ∧
    each (.vXor slot n) .vxor (fun s e i => ((rawA s e i ^^^ rawBimm s e i) % 2 ^ bits s e, 0)) ∧
    each (.vNot slot n) .vnot (fun s e i => ((2 ^ bits s e - 1 - rawA s e i % 2 ^ bits s e) % 2 ^ bits s e, 0)) ∧
    each (.vShl slot n) .vshl (fun s e i => (rawA s e i * 2 ^ (recImm e.record % 64) % 2 ^ bits s e, 0)) ∧
    each (.vShr slot n) .vshr (fun s e i => (rawA s e i / 2 ^ (recImm e.record % 64) % 2 ^ bits s e, 0)) ∧
    each (.vSra slot n) .vsra (fun s e i =>
      (unsignedOf (bits s e) (signedOf (bits s e) (rawA s e i) / (2 ^ (recImm e.record % 64) : Nat)) % 2 ^ bits s e, 0)) ∧
    each (.vClm slot n) .vclm (fun s e i =>
      let p := clmNat (rawA s e i) (rawBimm s e i) (bits s e)
      (if 4 ≤ md e then p / 2 ^ bits s e % 2 ^ bits s e else p % 2 ^ bits s e, 0)) ∧
    each (.vPopc slot n) .vpopc (fun s e i => (popNat (boxBits s (boxA e)) (rawA s e i), 0)) ∧
    each (.vClz slot n) .vclz (fun s e i =>
      (if rawA s e i = 0 then boxBits s (boxA e) else boxBits s (boxA e) - 1 - Nat.log2 (rawA s e i), 0)) ∧
    -- comparison, selection, reductions, moves
    each (.vCmp slot n) .vcmp (fun s e i =>
      ((condHolds (recImm e.record) (valA s e i) (valB s e i)).toNat, snanOf [valA s e i, valB s e i])) ∧
    each (.vSel slot n) .vsel (fun s e i =>
      (if readElem s (boxC e) i = 1 then rawA s e i else readElem s (boxB e) i, 0)) ∧
    each (.vIota slot n) .viota (fun s e i =>
      fit (f s e) (md e) (intVal (signedOf 32 (recImm e.record) + signedOf 32 (recImm e.record / 2 ^ 32) * (i : Int)))) ∧
    runs (.vRed slot n) .vred (wPlan redReads (fun s e i =>
      redTree s e (i * boxE s (boxA e) 0) (boxE s (boxA e) 0))) ∧
    runs (.vScan slot n) .vscan (wPlan scanReads (fun s e i =>
      redTree s e (i / max 1 (boxE s (boxA e) 0) * max 1 (boxE s (boxA e) 0)) (i % max 1 (boxE s (boxA e) 0) + 1))) ∧
    -- the tasks counted by A: each unit's effects, and the partial result behind it
    (let parts (i : Instr) (t : Task) (touch : Nat → List (State → List Touch))
         (portion : State → Nat → Word → Portion × Word) (deliver : Word → Option Word) : Prop :=
       Runs t slot e s →
         (readsHeld s e = false → exec i s = .next (doUnits n { cause := some { cause := .boxbad } } e s)) ∧
         (readsHeld s e = true →
           let p := partPlan e.index (unitCount (boxBytes s (boxA e))) e.part touch portion deliver s
           exec i s = .next (doUnits n p.2 e p.1))
     let inUnit (s : State) (u : Nat) : List Nat :=
       (List.range (unitElems s (boxA e) u).2).map (· + (unitElems s (boxA e) u).1)
     let ones (s : State) (b : RBox) (u : Nat) : Nat := ((inUnit s u).map (readElem s b)).sum
     let vote (i : Instr) (t : Task) (f : Nat → Nat) : Prop := parts i t (fun u => [fun s => [unitTouch s (boxA e) u false]])
       (fun s u c => ({}, c + BitVec.ofNat 64 (ones s (boxA e) u))) (fun c => some (BitVec.ofNat 64 (f c.toNat)))
     let moves (i : Instr) (t : Task) (m : RBox) (pairs : State → Nat → Nat → List (Nat × Nat)) (count : State → Nat → Nat)
         (deliver : Word → Option Word) : Prop := parts i t
       (fun u =>
         [fun _ => [touchOf m (unitElems s (boxA e) u).1 (unitElems s (boxA e) u).2,
                    touchOf (boxA e) (unitElems s (boxA e) u).1 (unitElems s (boxA e) u).2],
          fun t => (pairs t u (e.part.toNat + ((List.range (u - e.index)).map (fun k => count t (e.index + k))).sum)).map
            (fun p => { box := boxW e, first := p.1, count := 1, write := true })])
       (fun s u c => ({ effects := (pairs s u c.toNat).flatMap (fun p => elemEffects s (boxW e) p.1 (rawA s e p.2)) },
         c + BitVec.ofNat 64 (count s u))) deliver
     vote (.vAny slot n) .vany (fun c => (c != 0).toNat) ∧
     vote (.vAll slot n) .vall (fun c => (c == boxElems s (boxA e)).toNat) ∧
     vote (.vCnt slot n) .vcnt (fun c => c) ∧
     moves (.vComp slot n) .vcomp (boxC e)
       (fun s u c => (((inUnit s u).filter (fun k => readElem s (boxC e) k == 1)).zipIdx.map (fun k => (c + k.2, k.1))).filter
         (fun p => decide (p.1 < boxElems s (boxW e))))
       (fun s u => ones s (boxC e) u) (fun c => if recGv e.record then some c else none) ∧
     moves (.vSct slot n) .vsct (boxB e)
       (fun s u _ => ((inUnit s u).filter (fun k => decide (0 ≤ gthIndex s e k) &&
         decide (gthIndex s e k < boxElems s (boxW e)))).map (fun k => ((gthIndex s e k).toNat, k)))
       (fun _ _ => 0) (fun _ => none)) ∧
    runs (.vGth slot n) .vgth (wPlan gthReads (fun s e i =>
      (if 0 ≤ gthIndex s e i ∧ gthIndex s e i < boxElems s (boxA e) then rawA s e (gthIndex s e i).toNat else 0, 0))) ∧
    (Runs .vhist slot e s →
      let start := if recRst e.record then 0 else e.index
      let count (s : State) (lo hi v : Nat) : Nat :=
        ((List.range (hi - lo)).filter (fun k => intOf (boxFmt s (boxA e)) (rawA s e (lo + k)) == (v : Int))).length
      let bin (s : State) (hi v : Nat) : Nat :=
        ((if start = 0 ∧ md e < 4 then 0 else readElem s (boxW e) v) + count s (unitElems s (boxA e) start).1 hi v) % 2 ^ 32
      let bins (s : State) (u : Nat) : List Nat := (List.range (boxElems s (boxW e))).filter (fun v =>
        (u == 0 && decide (md e < 4)) ||
          count s (unitElems s (boxA e) u).1 ((unitElems s (boxA e) u).1 + (unitElems s (boxA e) u).2) v != 0)
      let p := unitPlan e.index (unitCount (boxBytes s (boxA e)))
        (fun u => [fun s => [unitTouch s (boxA e) u false],
                   fun s => (bins s u).map (fun v => { box := boxW e, first := v, count := 1, write := true })])
        (fun s u => { effects := (bins s u).flatMap (fun v =>
          elemEffects s (boxW e) v (bin s ((unitElems s (boxA e) u).1 + (unitElems s (boxA e) u).2) v)) })
        (fun _ => none) s
      (readsHeld s e = false → exec (.vHist slot n) s = .next (doUnits n { cause := some { cause := .boxbad } } e s)) ∧
      (readsHeld s e = true → exec (.vHist slot n) s = .next (doUnits n
        { p.2 with counts := if recXf e.record % 2 = 1 then
            (List.range (boxElems p.1 (boxW e))).map (fun v => BitVec.ofNat 32 (bin p.1 (boxElems p.1 (boxA e)) v)) else [] }
        e p.1))) ∧
    runs (.vBcst slot n) .vbcst (wPlan bcstReads (fun s e i =>
      cvtBits (boxFmt s (boxA e)) (f s e) (md e % 4) (rawA s e (bcstIndex s e i))))

/-- The copy tasks on streams, windows and the accumulator (R242 to R250), the folds (R162) and the fabric tasks (R339 to R345): a
running record that its engine has planned nothing for performs `n` units. C.CPY and a fold write each byte of W's stream from A's;
C.CPYF does so where W is valid and sums the fingerprint of A; C.CMPB finds the first byte that differs; C.FILL writes IMM to each
element; C.ADV fills the rows that enter the window and then sets HEAD; C.DRN rounds accumulator elements into W, C.DRNA writes their
containers and tags, C.ACCL loads them, C.SELK writes the ranked pairs of each row; C.DRN and C.SELK stop before an element whose check
fails. Whatever sum within R34's range an element's residues stand for, the drain reconstructs it and rounds it once; a poisoned element
drains as NaN with NV, and the check sees a residue that does not fit (R34 to R37). F.RTE writes the assigned tokens in order and then
the dropped ones, and delivers how many were dropped; F.RED combines A into W and sends W's stream on; the others send their packets; a
send that finds no route any more fails its record with REMOTE (R334, R348). That the remaining units are planned when the engine turns
to the record is the model's choice (log entry 20), and so are the packets' sizes, 16 bytes for F.AMO, 112 for F.POST, 8 for F.SEM and
one flit for 224 bytes (log entry 37); what C.ADV writes beyond the extent, and behind the last element of a row, follows log entry 28.
-/
def Obligations.CopyFabricTasks : Prop :=
  -- an element of the accumulator that holds the residues of a sum, and its drain
  (∀ (a : Acc) (x : Int), -34326190080 < x → x ≤ 34326190080 → (a.ra.toNat : Int) = x % 4093 → (a.rb.toNat : Int) = x % 4095 →
    (a.rc.toNat : Int) = x % 4096 →
    let e := a.er.toInt + a.ec.toInt - 20
    let w := (roundInt 0 (decide (x < 0)) x.natAbs e false).1
    let held := if w < -2 ^ 31 then -2 ^ 31 else if 2 ^ 31 - 1 < w then 2 ^ 31 - 1 else w
    crt a.ra.toNat a.rb.toNat a.rc.toNat = x ∧
    (a.po = false → (accMismatch a = true ↔ (a.rk.toNat : Int) ≠ x % 251)) ∧
    (a.po = false → a.empty = false → (∀ f ∈ [Fmt.f32, .f16, .bf16], drain a f = roundVal f 0 (.fin (decide (x < 0)) x.natAbs e)) ∧
      drain a .s32 = ((held % 2 ^ 32).toNat, (if held = w then 0 else flagSAT) |||
        (if held = w ∧ (roundInt 0 (decide (x < 0)) x.natAbs e false).2 = false then 0 else flagNX)))) ∧
  (∀ a : Acc,
    (a.po = true → accMismatch a = false ∧ drain a .s32 = (0, flagNV) ∧ drain a .f32 = (0x7FC00000, flagNV) ∧
      drain a .f16 = (0x7E00, flagNV) ∧ drain a .bf16 = (0x7FC0, flagNV)) ∧
    (a.po = false → a.empty = true → ∀ f ∈ [Fmt.f32, .f16, .bf16, .s32], drain a f = (0, 0)) ∧
    (a.po = false → 4093 ≤ a.ra.toNat ∨ 4095 ≤ a.rb.toNat ∨ 251 ≤ a.rk.toNat → accMismatch a = true)) ∧
  (∀ (slot n : Nat) (s : State) (e : Entry),
    let w := boxW e
    let a := boxA e
    let imm := recImm e.record
    let does (i : Instr) (t : Task) (p : State × Work) : Prop := Runs t slot e s → exec i s = .next (doUnits n p.2 e p.1)
    let whenHeld (i : Instr) (t : Task) (p : State × Work) : Prop :=
      (readsHeld s e = true → does i t p) ∧ (readsHeld s e = false → does i t (s, { cause := some { cause := .boxbad } }))
    let sends (i : Instr) (t : Task) (dst : Nat × Nat) (bodies : List (PktBody × Nat)) : Prop :=
      (routeRefused s dst.1 = false → does i t (s, { units := dropUnits e.index (sendPortions s e dst bodies) })) ∧
      (routeRefused s dst.1 = true → does i t (s, { cause := some { cause := .remote } }))
    let inUnit (b : RBox) (s : State) (u : Nat) : List Nat := (List.range (min 64 (boxBytes s b - 64 * u))).map (· + 64 * u)
    let toW (f : State → Nat → Byte) (s : State) (u : Nat) : Portion :=
      { effects := (inUnit w s u).flatMap (fun j => streamEffects s w j (f s j)) }
    let reads (b : RBox) (u : Nat) (s : State) : List Touch := [unitTouch s b u false]
    let writes (b : RBox) (u : Nat) (s : State) : List Touch := [unitTouch s b u true]
    let byW (touch : Nat → List (State → List Touch)) (portion : State → Nat → Portion) : State × Work :=
      unitPlan e.index (unitCount (boxBytes s w)) touch portion (fun _ => none) s
    let byA (touch : Nat → List (State → List Touch)) (portion : State → Nat → Word → Portion × Word) : State × Work :=
      partPlan e.index (unitCount (boxBytes s a)) e.part touch portion some s
    let copy := byW (fun u => [reads a u, writes w u]) (toW (fun s => streamByte s a))
    whenHeld (.cCpy slot n) .cpy copy ∧
    (findEntry s slot = some e → e.fold = true → e.state = .running → e.work = none → e.altered = none → s.pkg.shut = false →
      (readsHeld s e = true → exec (.fold slot n) s = .next (doUnits n copy.2 e copy.1)) ∧
      (readsHeld s e = false → exec (.fold slot n) s = .next (doUnits n { cause := some { cause := .boxbad } } e s))) ∧
    (let finger (s : State) (u : Nat) (h : Word) : Word :=
       ((List.range (min 8 (boxBytes s a / 8 - 8 * u))).map (· + 8 * u)).foldl (fun h i =>
         h + (BitVec.ofNat 64 (leNat ((List.range 8).map (fun k => streamByte s a (8 * i + k)))) ^^^ BitVec.ofNat 64 i)) h
     (∀ x, e.boxes.w = some x → whenHeld (.cCpyf slot n) .cpyf (byA (fun u => [reads a u, writes x u])
       (fun s u h => ({ effects := (inUnit x s u).flatMap (fun j => streamEffects s x j (streamByte s a j)) }, finger s u h)))) ∧
     (e.boxes.w = none → whenHeld (.cCpyf slot n) .cpyf (byA (fun u => [reads a u]) (fun s u h => ({}, finger s u h))))) ∧
    whenHeld (.cCmpb slot n) .cmpb (byA (fun u => [reads a u, reads (boxB e) u])
      (fun s u v => ({}, compareUnit s a (boxB e) u v))) ∧
    does (.cFill slot n) .fill (byW (fun u => [writes w u])
      (fun s u => { effects := (List.range (unitElems s w u).2).flatMap (fun k =>
        elemEffects s w ((unitElems s w u).1 + k) imm) })) ∧
    (let h := boxHusk s w
     let new := if recMod e.record % 2 = 1 then imm % 2 ^ 16 else hkHead h + imm % 2 ^ 16
     let rows := ((List.range (hkNrow h)).map (· + new)).filter (fun r =>
       !(decide (hkHead h ≤ r) && decide (r < hkHead h + hkNrow h) && decide (r < hkRows h)))
     let r := advTouches h ((rows.flatMap (fun r => (List.range (hkRow h / 64)).map (fun k => (r, k)))).drop e.index) s
     (hkRows h < new → does (.cAdv slot n) .adv (s, { cause := some { cause := .boxbad } })) ∧
     (new ≤ hkRows h → does (.cAdv slot n) .adv (r.2.2,
       { units := r.1.map (fun x => { effects := (List.range 64).map (fun i =>
           .spad { addr := hkLbase h + x.1 % max 1 (hkNrow h) * hkRow h + 64 * x.2 + i
                   data := if x.1 < hkRows h then rowByte r.2.2 h x.1 (64 * x.2 + i) else 0 }) }) ++
           (if r.2.1.isNone then [{ effects := [.head w.hid (BitVec.ofNat 32 new)], step := 0 }] else [])
         cause := failCause r.2.1, waits := failWaits r.2.1 }))) ∧
    (let checked (i : Instr) (t : Task) (bad : Nat → Bool) (f : ElemOp) : Prop :=
       let p := byW (fun u => [writes w u]) (fun s u => elemPortion s e f (unitElems s w u))
       ((∀ k, k < p.2.units.length → bad (e.index + k) = false) → does i t p) ∧
       (∀ k, k < p.2.units.length → bad (e.index + k) = true → (∀ j, j < k → bad (e.index + j) = false) →
         does i t (p.1, { p.2 with units := p.2.units.take k, cause := some { cause := .residue }, waits := false }))
     let mismatch (x : Nat) : Bool := hkRce (boxHusk s w) && accMismatch (accElem s a x)
     let row := max 1 (boxE s w 0)
     checked (.cDrn slot n) .drn
       (fun u => (List.range (unitElems s w u).2).any (fun k => mismatch ((unitElems s w u).1 + k)))
       (fun t _ x => drain (accElem t a x) (boxFmt s w)) ∧
     checked (.cSelk slot n) .selk
       (fun u => (List.range (unitElems s w u).2).any (fun k => (List.range (boxE s a 0)).any (fun j =>
         mismatch (((unitElems s w u).1 + k) / row * boxE s a 0 + j))))
       (fun t _ x =>
         let k := max 1 (boxE t w 0)
         let d (j : Nat) : Nat × BitVec 6 := drain (accElem t a (x / k * boxE t a 0 + j)) .f32
         let js := List.range (boxE t a 0)
         ((match (rankRow (js.map (fun j => ((d j).1, j))))[x % k]? with
           | some p => p.2 % 2 ^ 16 * 2 ^ 32 + p.1
           | none => 0x0000FFFF7FC00000), js.foldl (fun f j => f ||| (d j).2) 0))) ∧
    does (.cDrna slot n) .drna (byW (fun u => [writes w u]) (toW (fun s j =>
      let el := accElem s a (j / 6 / 2)
      BitVec.ofNat 8 ((if j / 6 % 2 = 0 then rqBits el else tagBits el) / 2 ^ (8 * (j % 6)))))) ∧
    (let mine (s : State) (u : Nat) : List Nat := (List.range (boxElems s w)).filter (fun x => x * 48 / 512 == u)
     does (.cAccl slot n) .accl (byW (fun u => [fun s => (mine s u).map (fun x => touchOf a (2 * x) 2)])
       (fun s u => { effects := (mine s u).map (fun x =>
         .acc (accKey s w x) (accOfBits (readElem s a (2 * x)) (readElem s a (2 * x + 1)))) }))) ∧
    -- the fabric tasks
    (let ws := (pieces 3584 (remoteWrites s w a)).map (fun l => (PktBody.write l, l.length))
     sends (.fWr slot n) .wr (remoteDst s w) ws ∧ sends (.fWrp slot n) .wrp (remoteDst s w) ws) ∧
    (Runs .rd slot e s →
      let ps := ((readPackets s e).drop e.index).take n
      ((readPackets s e).length ≤ e.index ∨ routeRefused s (remoteDst s a).1 = false → exec (.fRd slot n) s = .next (settleRead slot
        (toNet ps (putEntry { e with acks := e.acks + ps.length, index := e.index + ps.length } s)))) ∧
      (e.index < (readPackets s e).length → routeRefused s (remoteDst s a).1 = true →
        exec (.fRd slot n) s = .next (failRecord e .remote s))) ∧
    sends (.fAmo slot n) .amo (remoteDst s w)
      [(.amo (remoteBit s w 0 / 8) (decide (boxBits s w = 64)) (amoOp (recMod e.record))
        (BitVec.ofNat 64 imm) (BitVec.ofNat 64 (recXf e.record)), 16)] ∧
    (∀ i, e.image = some i →
      sends (.fPost slot n) .post (recXf e.record % 2 ^ 12, recXf e.record / 2 ^ 12 % 2 ^ 9) [(.post i.1 i.2, 112)]) ∧
    sends (.fSem slot n) .sem (imm % 2 ^ 12, imm / 2 ^ 12 % 2 ^ 9)
      [(.sem (imm / 2 ^ 21 % 2 ^ 11) (BitVec.ofNat 32 (imm / 2 ^ 32 % 2 ^ 32)), 8)] ∧
    (∀ m, neighbour s (imm % 4) (imm / 4 % 2 == 1) = some m →
      sends (.fHalo slot n) .halo (m, s.sys.coreid.toNat) (streamBodies (fun first bs last =>
        .halo w (boxBits s a) (hkFmtCode (boxHusk s a)) first bs last
          (if imm / 2 ^ 3 % 2 = 1 then some (imm / 2 ^ 4 % 2 ^ 11) else none)) (streamOf s a))) ∧
    (let st := rteAssign s e
     does (.fRte slot n) .rte (s,
       { units := [{ effects := (rteList s e st).zipIdx.flatMap (fun x => elemEffects s w x.2 x.1) }]
         scalar := some (BitVec.ofNat 64 (st.ex.filter Option.isNone).length) }) ∧
     ∃ placed : List Nat, placed.Pairwise (· ≤ ·) ∧
       placed.Perm ((List.range st.ex.length).filterMap (fun t => (st.ex.getD t none).map (fun p =>
         readElem s (boxC e) p.1 % 2 ^ 12 * 2 ^ 44 + p.1 * 2 ^ 32 + p.2 * 2 ^ 16 + t))) ∧
       rteList s e st = placed ++ ((List.range st.ex.length).filter (fun t => (st.ex.getD t none).isNone)).map (2 ^ 63 + ·)) ∧
    (let axis := imm / 2 ^ 28 % 4
     let c := coord (ownNode s) axis
     let dst := (withCoord (ownNode s) axis (c + 1), ownCore s)
     let outs := (List.range (boxElems s w)).map (redCombine s e c)
     let combine : Portion :=
       { effects := outs.zipIdx.flatMap (fun o => elemEffects s w o.2 o.1.1), flags := outs.foldl (fun f o => f ||| o.2) 0 }
     let bodies (bs : List Byte) : List (PktBody × Nat) := streamBodies (fun first b last =>
       .red { w with rb := none } (boxBits s w) (hkFmtCode (boxHusk s w)) first b last
         (if imm / 2 ^ 27 % 2 = 1 then some (imm / 2 ^ 16 % 2 ^ 11) else none)) bs
     let on := sendPortions s e dst (bodies (packElems (boxBits s w) (outs.map Prod.fst)))
     (e.index = 0 → imm % 2 ^ 16 < s.sys.gepoch.toNat →
       does (.fRed slot n) .fred (s, { cause := some { cause := .remote } })) ∧
     (e.index = 0 → s.sys.gepoch.toNat ≤ imm % 2 ^ 16 →
       (axisLen s axis ≤ c + 1 → does (.fRed slot n) .fred (s, { units := [combine] })) ∧
       (c + 1 < axisLen s axis → routeRefused s dst.1 = true →
         does (.fRed slot n) .fred (s, { units := [combine], cause := some { cause := .remote } })) ∧
       (c + 1 < axisLen s axis → routeRefused s dst.1 = false → ∀ p t, on = p :: t → does (.fRed slot n) .fred (s,
         { units := { p with effects := combine.effects ++ p.effects, flags := combine.flags } :: t }))) ∧
     (e.index ≠ 0 → c + 1 < axisLen s axis → routeRefused s dst.1 = false → does (.fRed slot n) .fred (s,
       { units := dropUnits e.index (sendPortions s e dst (bodies (streamOf s w))) })))) ∧
  -- what C.CMPB finds in a unit, one choice of F.RTE, and one element of F.RED
  (∀ (s : State) (a b : RBox) (u : Nat) (v : Word),
    (v ≠ 0 → compareUnit s a b u v = v) ∧
    (v = 0 → (∀ j, 64 * u ≤ j → j < 64 * u + 64 → j < boxBytes s a → streamByte s a j = streamByte s b j) →
      compareUnit s a b u v = 0) ∧
    (∀ j, v = 0 → 64 * u ≤ j → j < 64 * u + 64 → j < boxBytes s a → streamByte s a j ≠ streamByte s b j →
      (∀ i, 64 * u ≤ i → i < j → streamByte s a i = streamByte s b i) →
      compareUnit s a b u v = BitVec.ofNat 64 (1 + j))) ∧
  (∀ (s : State) (e : Entry) (st : Rte) (k t : Nat),
    let x := intOf (boxFmt s (boxA e)) (readElem s (boxA e) (t * boxE s (boxA e) 0 + k))
    let free := intOf (boxFmt s (boxB e)) (readElem s (boxB e) x.toNat)
    let used := st.used.getD x.toNat 0
    let open_ : Prop := st.ex.getD t none = none ∧ 0 ≤ x ∧ x < boxE s (boxB e) 0 ∧ readElem s (boxC e) x.toNat ≤ 4095 ∧
      (used : Int) < free
    (open_ → rteStep s e st k t = { used := st.used.set x.toNat (used + 1), ex := st.ex.set t (some (x.toNat, used)) }) ∧
    (¬open_ → rteStep s e st k t = st)) ∧
  (∀ (s : State) (e : Entry) (c i : Nat),
    let f := boxFmt s (boxW e)
    let op := recImm e.record / 2 ^ 32 % 8
    let x := valA s e i
    let y := boxValue s (boxW e) i
    (4 ≤ op → redCombine s e c i =
      (if c = 0 then rawA s e i else (redOp f (recMod e.record) op (readElem s (boxW e) i) (rawA s e i)).1, 0)) ∧
    (op < 4 → c = 0 → redCombine s e c i = withFlags (snanOf [x]) (fit f (recMod e.record) x)) ∧
    (c ≠ 0 → (op = 0 → redCombine s e c i =
        withFlags (snanOf [y, x]) (fitWith f (recMod e.record) (addVal (recMod e.record % 4) y x))) ∧
      (op = 1 → redCombine s e c i = withFlags (snanOf [y, x]) (fitWith f (recMod e.record) (mulVal y x))) ∧
      (op = 2 → redCombine s e c i = withFlags (snanOf [y, x]) (fit f (recMod e.record) (minmaxVal false y x))) ∧
      (op = 3 → redCombine s e c i = withFlags (snanOf [y, x]) (fit f (recMod e.record) (minmaxVal true y x)))))

/-- Progress (R175, R168): with units left, an ordinary record that sends no packet has its index advanced by the steps of the
units performed, and goes on running; a restartable one keeps their effects to itself. Behind its last unit, a record that sends no
packet is done (R167, R168): the effects of an ordinary one are in the stores, and it drains or is gone; a restartable one commits all
that it kept at once, unless it ran ahead or its branch's held entries come first, when it waits with its effects still its own. A residue
mismatch of a restartable record discards its effects and starts it again at index 0, a second one, and one of an ordinary record, faults
it and stops the engines (R182). The list of planned units is the model's own (log entry 20). -/
def Obligations.TaskProgress : Prop :=
  (∀ (n : Nat) (w : Work) (e : Entry) (s : State), findEntry s e.slot = some e → n < w.units.length →
    let now := w.units.take n
    let t := doUnits n w e s
    (recRst e.record = true → t.store = s.store ∧ t.mem = s.mem ∧ t.fab = s.fab ∧ t.strand = s.strand ∧ t.sys = s.sys ∧
      ∃ x : Entry, findEntry t e.slot = some x ∧ x.state = e.state ∧ x.done = e.done ∧
        x.buffered = e.buffered ++ now.flatMap Portion.effects) ∧
    (recRst e.record = false → packetsOf (now.flatMap Portion.effects) = [] →
      t.strand = s.strand ∧ ∃ x : Entry, findEntry t e.slot = some x ∧ x.state = e.state ∧
        x.index = e.index + (now.map Portion.step).sum ∧ x.work = some { w with units := w.units.drop n })) ∧
  (∀ (n : Nat) (w : Work) (e : Entry) (s : State), findEntry s e.slot = some e → w.units.length ≤ n → e.fold = false →
    let own := w.units.flatMap Portion.effects
    let all := if recRst e.record = true then e.buffered ++ own else own
    let t := doUnits n w e s
    let index := e.index + (w.units.map Portion.step).sum
    let spadOf (es : List Effect) : List Host.Cell :=
      es.foldl (fun m x => match x with | .spad b => if b.addr < 0x600000 then setMasked m b else m | _ => m) s.store.spad
    let accOf (es : List Effect) : List (Nat × Acc) :=
      es.foldl (fun m x => match x with | .acc k v => tset {} m k v | _ => m) s.store.acc
    let memOf (es : List Effect) : List Host.Cell :=
      es.foldl (fun m x => match x with | .mem b => setMasked m b | _ => m) s.mem.mem
    let kept : Prop := t.store.spad = s.store.spad ∧ t.store.acc = s.store.acc ∧ t.mem.mem = s.mem.mem ∧ t.fab.farSpad = s.fab.farSpad
    (w.cause = none → w.waits = false → packetsOf all = [] →
      let performed : Prop := t.store.spad = spadOf all ∧ t.store.acc = accOf all ∧
        ((∀ l, Effect.setD l ∉ all) → t.mem.mem = memOf all)
      (recRst e.record = true →
        ((e.ahead = true ∨ e.owed = true) → t.store = s.store ∧ t.mem = s.mem ∧ t.fab = s.fab ∧ t.strand = s.strand ∧ t.sys = s.sys ∧
          ∃ x : Entry, findEntry t e.slot = some x ∧ x.state = .committing ∧ x.done = true ∧ x.buffered = all) ∧
        (e.ahead = false → e.owed = false → performed ∧
          ((drains all = true ∨ e.acks ≠ 0 ∨ e.waiting ≠ []) → ∃ x : Entry, findEntry t e.slot = some x ∧ x.state = .committing ∧
            x.done = true ∧ x.buffered = [] ∧ x.priv = none ∧ x.shadow = none) ∧
          (drains all = false → e.acks = 0 → e.waiting = [] → findEntry t e.slot = none))) ∧
      (recRst e.record = false → performed ∧
        let outside : Prop := entryEng e ≠ .f ∧ ∃ v, trackedW e = some v ∧ v.acc = false ∧
          ((hkKind (getHusk s v.hid) = 1) ∨ (hkKind (getHusk s v.hid) = 2 ∧ hkMc (getHusk s v.hid) = false))
        let ends : Prop := e.acks ≠ 0 ∨ e.waiting ≠ [] ∨ outside ∨ recTask e.record = some .ckpt ∨ recTask e.record = some .cpypg
        (ends → ∃ x : Entry, findEntry t e.slot = some x ∧ x.state = .draining ∧ x.done = true ∧ x.index = index) ∧
        (¬ends → findEntry t e.slot = none))) ∧
    (∀ c : EngineCause, w.cause = some c → c.cause = .residue → c.info = none → entryEng e ≠ .f →
      t.store.testDue = true ∧
      (recRst e.record = true → e.rerun = false → kept ∧ t.thatch.stopped = s.thatch.stopped ∧
        ∃ x : Entry, findEntry t e.slot = some x ∧ (x.state = .pending ∨ x.state = .ready) ∧ x.index = 0 ∧ x.done = false ∧ x.buffered = [] ∧
          x.work = none ∧ x.rerun = true) ∧
      (recRst e.record = true → e.rerun = true → kept ∧ t.thatch.stopped = true ∧
        ∃ x : Entry, findEntry t e.slot = some x ∧ x.state = .faulted ∧ x.index = 0 ∧ x.buffered = [] ∧ x.unrec = true) ∧
      (recRst e.record = false → packetsOf own = [] → t.thatch.stopped = true ∧
        ∃ x : Entry, findEntry t e.slot = some x ∧ x.state = .faulted ∧ x.index = index ∧ x.unrec = true)))

/-- The events of a started record. Its retirement merges its flags, adds its signal and frees its entry, and TKC falls by the one
that it counted (R167): at the last acknowledgement of a draining or committed record whose pip is not in flight, one that has moved
a page once no access to its old frame is pending (R296); and at the landed acknowledgement of a fabric record, whose pip lands with
RELEASE to each listed destination (R349). A record with acknowledgements to come stays. An F.POST that was answered BUSY sends its
packet again after its backoff (R166), or fails with REMOTE where no route is left (R334). The page of a sweep that is in progress is
copied, or goes to a target on another node and counts once it is acknowledged (R253, R301); it waits while another migrates it, and
while a stack in which it or a table of its walk stands is handed over. A self-test fences the quadrants that fail (R183). When a record
counts as acknowledged follows log entry 30; the order of a sweep and a page for another node follow log entry 28, the wait of a moved
page log entry 29; that an engine's unit, and so the page of a sweep, is not begun while a hand-over holds a request of it is log entry
24 (DEDUCED beside R309). That every self-test starts the count of SELFTEST_PERIOD afresh is log entry 40. -/
def Obligations.EngineEvents : Prop :=
  (∀ (slot : Nat) (s : State) (e : Entry), findEntry s slot = some e →
    -- what stands behind a retirement of the record, with the pip table that `pips` gives
    let retires (i : Instr) (pips : Nat → Pip) : Prop := ∃ t : State, exec i s = .next t ∧
      (∀ x ∈ t.thatch.entries, x.slot ≠ slot) ∧
      tkc t + ((s.thatch.entries.filter (fun x => x.slot == slot)).filter countsTkc).length = tkc s ∧
      (e.quarter = none → t.sys.flags = s.sys.flags ||| e.flags ∧
        (recSigv e.record = true → e.fold = false →
          t.store.sems = tset 0 s.store.sems (recSigsem e.record)
            (getSem s (recSigsem e.record) + BitVec.ofInt 32 (recSigadd e.record))) ∧
        (recSigv e.record = false ∨ e.fold = true → t.store.sems = s.store.sems) ∧
        (∀ n, e.pip = some n → getPip t n = { pips n with retired := true }) ∧
        (e.pip = none → t.fab.pips = s.fab.pips))
    (acknowledged e = true → pipOpen s e = false → sweeping s e = false →
      (movedPageWaits s e = false → retires (.writeAcknowledgement slot) (getPip s)) ∧
      (movedPageWaits s e = true → exec (.writeAcknowledgement slot) s = .next s)) ∧
    (acknowledged e = true → pipOpen s e = true → exec (.writeAcknowledgement slot) s = .next s) ∧
    (acknowledged e = false → exec (.writeAcknowledgement slot) s = .next s ∧ exec (.landedAck slot) s = .next s) ∧
    (acknowledged e = true → entryEng e = .f → retires (.landedAck slot) (fun n =>
      if (getPip s n).state = .inflight then { getPip s n with state := .landed, dests := [] } else getPip s n)) ∧
    (∀ n, e.pip = some n → (getPip s n).state = .inflight → acknowledged e = true → entryEng e = .f → e.quarter = none →
      ∃ t : State, exec (.landedAck slot) s = .next t ∧ t.fab.net = (toNet ((getPip s n).dests.map (fun d =>
        control s d (.release n))) s).fab.net) ∧
    (busyAnswered s e = true → ∀ i, e.image = some i →
      (e.retryAt.toNat ≤ s.pkg.time.toNat →
        (routeRefused s (postDst e.record).1 = false →
          exec (.busyRetry slot) s = .next (toNet [packetTo s e (postDst e.record) 0 (.post i.1 i.2)] s)) ∧
        (routeRefused s (postDst e.record).1 = true →
          exec (.busyRetry slot) s = .next (failRecord e .remote s))) ∧
      (s.pkg.time.toNat < e.retryAt.toNat → exec (.busyRetry slot) s = .next s)) ∧
    (busyAnswered s e = false → exec (.busyRetry slot) s = .next s) ∧
    (Runs .ckpt slot e s → ∀ w p, findSweep s e.seq = some w → pageInProgress w = some p →
      let is (t : State) : Prop := exec (.ckptPageCopied slot) s = .next t
      let fails (c : Cause) : Prop := is (engineCause e { cause := c, faddr := some (BitVec.ofNat 64 p.va) } s)
      (s.pkg.ridging ≠ 0 → tablesRidge s p.va = true → is s) ∧
      (s.pkg.ridging = 0 ∨ tablesRidge s p.va = false → (∀ c line, pageWalk s p.va = .bad c line → fails c) ∧
       ∀ l, pageWalk s p.va = .leaf l →
        let src := l.base + p.va % l.size
        let tgt := ckptTarget s e.record
        (migrating s slot l = true → is s) ∧
        (migrating s slot l = false → 2 ^ 39 ≤ src → fails .seg) ∧
        (migrating s slot l = false → src < 2 ^ 39 → reachesHome s src = false → fails .owner) ∧
        (migrating s slot l = false → src < 2 ^ 39 → reachesHome s src = true → ridgingAt s src = true → is s) ∧
        (migrating s slot l = false → src < 2 ^ 39 → reachesHome s src = true → ridgingAt s src = false →
          (segRn tgt = false →
            (∀ ls t, targetLines p.dst (List.range 512) s = .ok (ls, t) → is (pageSwept w p src slot
              (ls.foldl (sweepLine src) (pageRequests w p (frameLines src ++ ls.map (fun x => x.2.1)) t)))) ∧
            (∀ c va, targetLines p.dst (List.range 512) s = .error (.cause c va) →
              is (engineCause e { cause := c, faddr := some (BitVec.ofNat 64 va) } s)) ∧
            (∀ va, targetLines p.dst (List.range 512) s = .error (.wait va) → is (raisePage va s))) ∧
          (segRn tgt = true →
            (w.sent = some p.va → e.acks = 0 → is (pageSwept w p src slot (poisonAway s tgt src p.dst))) ∧
            (w.sent = some p.va → e.acks ≠ 0 → is s) ∧
            (w.sent ≠ some p.va → e.acks ≠ 0 → is s) ∧
            (w.sent ≠ some p.va → e.acks = 0 → routeRefused s (segNode tgt) = true →
              is (engineCause e { cause := .remote } s)) ∧
            (w.sent ≠ some p.va → e.acks = 0 → routeRefused s (segNode tgt) = false →
              is (putSweep { w with sent := some p.va }
                (sendAll slot (sweepPackets s e tgt src p.dst) (pageRequests w p (frameLines src) s)))))))) ∧
    (testReady s = true → ∃ t : State, exec .selftest s = .next t ∧ t.store.fenced = s.store.fenced ||| s.store.failing ∧
      t.store.testDue = false ∧ t.store.mCount = 0 ∧ t.strand = s.strand ∧ t.mem = s.mem ∧
      (t.store.fenced ≠ 0 → t.pkg.qf = true ∧ t.pkg.repl = true)) ∧
    (testReady s = false → exec .selftest s = .next s)) ∧
  -- a swept page, with pages left: it counts, and leaves the sweep; a poisoned one counts as such too
  (∀ (w : Sweep) (p : SweepPage) (src slot : Nat) (s : State) (e : Entry), findEntry s slot = some e →
    let rest := w.pages.filter (fun q => q.va != p.va)
    let poisoned := w.poisoned + (if poisonedLines s src 0 = [] then 0 else 1)
    rest ≠ [] →
      let t := pageSwept w p src slot s
      w.asid = s.sys.asid →
      findSweep t w.seq = some { w with
        sent := none, pages := rest, raised := w.raised.filter (fun r => r.1 != pageOf p.va), copied := w.copied + 1
        poisoned := poisoned } ∧
      (∃ x : Entry, findEntry t slot = some x ∧ x.index = e.index + 1 ∧ x.part = BitVec.ofNat 64 poisoned ∧ x.state = e.state))

/-! ### System registers, traps and the system instructions (spec/06_strand_memory_system.md) -/

/-- MFS and MTS (R131): a number that is not assigned is ILLEGAL at either; MFS reads; MTS at the level that a register asks for
writes it, once what it stalls on is over, and reads back under the register's mask, with its read-only fields as they were and within
its bounds; a plain register leaves every other one alone; the rows of the table that write one register are its MTS, RNPOOL and XSTAT
at either level. RASI with all its 64 bits, RASV at or beyond the depth, RASB as
written and SSGRP with all its bits are the model's reading (log entry 16, DEDUCED). -/
def Obligations.SpecialRegisters : Prop :=
  ∀ (s : State) (d a : Reg) (r : BitVec 8),
    let n := r.toNat
    let masks : List (Nat × Word) :=
      [(0x02, 0xFFFFFFFF), (0x03, 0xFFFFFFFF), (0x04, 0xFFFFFFFFFFFFFFFF), (0x05, 0xFFFFFFFF), (0x07, 0x80000000007FFFC0),
       (0x0D, 0x3F), (0x0E, 0xFFFFFFFFFFFFFFFF), (0x15, 0xFFFF), (0x16, 0xFF7FFFF8), (0x18, 0xFFFFFFFF),
       (0x19, 0x87FFFFEFFFFFFFFF), (0x1B, 0xFFFFFFFFFFFFFFFF), (0x1D, 0xFFFFFFFF000000FF), (0x20, 0xFFFF),
       (0x21, 0x1FFFF), (0x27, 0xFFFFFFFF), (0x01, 0xFFFFFFFF0000733F), (0x06, 0xFFFFFFFF0000000F), (0x08, 0xFFFFFFFFFFFFFFFF),
       (0x09, 0xFFFFFFFFFFFFFFFF), (0x0A, 0xFFFFFFFFFFFFFFFF), (0x0B, 0xFFFFFFFFFFFFFFFF)]
    -- the registers of which MTS writes some fields and leaves the others, and those with bounds on their value
    let fields : List (Nat × Word) := [(0x00, 0x3), (0x22, 0xFFFF), (0x23, 0xFFFFFFFF), (0x24, 0xFFFF)]
    let bounded : List (Nat × Nat × Nat) := [(0x17, 1000, 2 ^ 32 - 1), (0x25, 1000, 1000000000), (0x26, 1000, 2 ^ 32 - 1)]
    let alone (k : Nat) (v : Word) : Prop := ∀ j, j ≠ k → readSys (writeSys k v s) j = readSys s j
    (Ready [d] true s → (∀ v, readSys s n = some v → exec (.mfs d r) s = .next (finish 1 s (.done (setG s d v)))) ∧
      (readSys s n = none → s.sys.spec = false →
        exec (.mfs d r) s = .next (trapEntry { cause := .illegal } false none s))) ∧
    (Ready [a] true s → (readSys s n = none → s.sys.spec = false →
        exec (.mts a r) s = .next (trapEntry { cause := .illegal } false none s)) ∧
      (readSys s n ≠ none → mtsWaits n s = false → (s.sys.pl = true ∨ sysUser n = true ∨ sysReadOnly n = true) →
        exec (.mts a r) s = .next (finish 1 s (.done (writeSys n (getG s a) s))))) ∧
    (∀ m ∈ masks, ∀ v, readSys (writeSys m.1 v s) m.1 = some (v &&& m.2) ∧
      ∀ k, k ≠ m.1 → (m.1 = 0x1B → k ≠ 0x1C) → readSys (writeSys m.1 v s) k = readSys s k) ∧
    (∀ m ∈ fields, ∀ v old, readSys s m.1 = some old →
      readSys (writeSys m.1 v s) m.1 = some ((old &&& ~~~m.2) ||| (v &&& m.2)) ∧ alone m.1 v) ∧
    (∀ m ∈ bounded, ∀ v, readSys (writeSys m.1 v s) m.1 = some (BitVec.ofNat 64 (min m.2.2 (max m.2.1 (v.toNat % 2 ^ 32)))) ∧
      alone m.1 v) ∧
    (∀ k v, sysReadOnly k = true → writeSys k v s = s) ∧
    (∀ p ∈ [(Instr.xstatWrite a, (0x0C : BitVec 8)), (.asidWrite a, 0x12), (.rnpoolWrite a, 0x14), (.rasdWrite a, 0x1A),
            (.rasvWrite a, 0x1C), (.tracebWrite a, 0x28)], exec p.1 s = exec (.mts a p.2) s) ∧
    (Ready [a] true s →
      let is (i : Instr) (u : State) : Prop := exec i s = .next (finish 1 s (.done u))
      let v := getG s a
      (poolUsed s = [] → (v.extractLsb' 0 10).toNat = 0 →
        is (.rnpoolWrite a) { s with sys := { s.sys with rnpool := 0 } }) ∧
      (poolUsed s = [] → 512 < (v.extractLsb' 0 10).toNat → is (.rnpoolWrite a) s) ∧
      (poolUsed s = [] → 0 < (v.extractLsb' 0 10).toNat → (v.extractLsb' 0 10).toNat ≤ 512 →
        let meets := huskMeets s ((0x600000 - (v.extractLsb' 0 10).toNat * 4096 : Nat) : Int) (0x600000 : Nat)
        (meets = false → is (.rnpoolWrite a) { s with sys := { s.sys with rnpool := v.extractLsb' 0 10 } }) ∧
        (meets = true → is (.rnpoolWrite a) s)) ∧
      (poolUsed s ≠ [] → exec (.rnpoolWrite a) s = .next (stallAt s)) ∧
      is (.xstatWrite a) (withXstat s { s.strand.xstat with
        cqo := s.strand.xstat.cqo && v.getLsbD 1, cqu := s.strand.xstat.cqu && v.getLsbD 0 })) ∧
    (Ready [a] true s → s.sys.pl = true →
      let is (i : Instr) (u : State) : Prop := exec i s = .next (finish 1 s (.done u))
      let v := getG s a
      let zeros (k : Nat) : List (BitVec 32) := List.replicate k 0
      (tkc s = 0 → ldc s = 0 → stc s = 0 → cpc s = 0 → s.mem.replay = [] → is (.asidWrite a)
        { s with sys := { s.sys with asid := v.setWidth 13 }, mem := { s.mem with tlb := [] } }) ∧
      (let k := min v.toNat 16
       (k ≤ s.strand.ras.length → is (.rasdWrite a)
          { s with strand := { s.strand with ras := s.strand.ras.drop (s.strand.ras.length - k) } }) ∧
        (s.strand.ras.length < k → is (.rasdWrite a)
          { s with strand := { s.strand with ras := zeros (k - s.strand.ras.length) ++ s.strand.ras } })) ∧
      (s.strand.rasi.toNat < s.strand.ras.length → is (.rasvWrite a)
        { s with strand := { s.strand with ras := s.strand.ras.set s.strand.rasi.toNat (v.setWidth 32) } }) ∧
      (s.strand.ras.length ≤ s.strand.rasi.toNat → is (.rasvWrite a) s) ∧
      (let w := v &&& 0xCF00FFFF007FFFC0
       let off := (w.toNat / 2 ^ 6 % 2 ^ 17) * 64
       let len := w.toNat / 2 ^ 32 % 2 ^ 16
       let fits := 256 ≤ len ∧ off + len * 64 ≤ 0x600000 ∧ meetsPool s (off : Nat) (off + len * 64 : Nat) = false
       (v.getLsbD 63 = false ∨ fits → is (.tracebWrite a) { s with sys := { s.sys with traceb := w } }) ∧
        (v.getLsbD 63 = true → ¬fits → is (.tracebWrite a)
          { s with sys := { s.sys with traceb := w &&& 0x7FFFFFFFFFFFFFFF } })))

/-- Taking a trap (R80, R136, R137): the saved registers, the level, the fields of XSTAT that are cleared, and control at TVEC; the
other fields of XSTAT, registers, loop registers and memory stand. Synchronous and asynchronous traps differ in CAUSE.ASYNC. The record
of a debug view holds each entry in post-sequence order and each semaphore that one names (R282, R284); that the units of its snapshot
follow that body is log entry 40 (DEDUCED). With TCUT.EN = 1 the entry writes its cut record, once every engine has stopped and every
load, atomic and copy below its count has completed, and the queues stay stopped (R93, R174). A BRK that writes a debug view first stops
the queues as SAVEQ does (R284). That an asynchronous cause ends the wait for held stores follows log entry 40; that the whole entry,
and with it the handler, waits for what runs below the record follows log entry 38 (DEDUCED); that EXSTAT.XT and ETGT show the hint of a
pending CBR with an open result, and what stays of a collective branch whose slot traps, follow log entry 13 (DEDUCED). -/
def Obligations.TrapTaken : Prop :=
  (∀ (t : Trap) (async : Bool) (q : Option Nat) (s : State), s.sys.th = false → t.cause ≠ .brk →
    s.sys.tcut.getLsbD 63 = true →
    let u := trapEntry t async q s
    let off := s.sys.tcut.toNat / 2 ^ 6 % 2 ^ 17 * 64
    let cause : CauseReg := { info := t.info, src := t.src, dbl := false, async := async, code := causeCode t.cause }
    let cut (g : Engine) : List Byte := leBytes 8 ((s.thatch.entries.filter (fun e => !e.done && entryEng e == g)).foldl
      (fun m e => min m e.seq) s.thatch.nextSeq)
    let runs : Prop := engineRuns s = true ∨ s.strand.loads ≠ [] ∨ s.strand.copies ≠ []
    (¬runs → u.thatch = { s.thatch with stopped := true } ∧ u.strand.pc = s.sys.tvec ∧ u.sys.th = true ∧
      u.sys.cause = cause ∧ u.store = (putSpad s off (leBytes 8 s.strand.icount.toNat ++ cut .m ++ cut .v ++ cut .x ++ cut .c ++
        cut .f ++ leBytes 8 (q.getD (2 ^ 64 - 1)) ++ leBytes 8 (causeWord cause).toNat)).store) ∧
    (runs → u.strand.pc = s.strand.pc ∧ u.sys = s.sys ∧ u.strand.stalled = true ∧ u.thatch.stopped = true ∧
      u.store = s.store ∧ completeTrap u = u ∧
      ∀ v : State, v.thatch.trapDue = u.thatch.trapDue → v.sys.th = false → engineRuns v = false → v.strand.loads = [] →
        v.strand.copies = [] → completeTrap v =
          trapEntry { t with line := none, access := none } async q { v with thatch := { v.thatch with trapDue := none } })) ∧
  -- a BRK that writes a debug view: its queues are stopped, whether the entry waits or not
  (∀ (t : Trap) (async : Bool) (q : Option Nat) (s : State), s.sys.th = false → t.cause = .brk → viewOn s = true →
    let u := trapEntry t async q s
    u.thatch.stopped = true ∧ u.thatch.entries = s.thatch.entries.map (fun e => if sendsOn e then e else stopEntry e)) ∧
  -- the record of the debug view
  (∀ (tag : Nat) (s : State), viewOn s = true → RingFits s → s.thatch.entries.length ≤ 64 → ∃ (es : List Entry) (sems m : List Nat),
    es.Perm s.thatch.entries ∧ es.Pairwise (fun x y => x.seq ≤ y.seq) ∧ sems.Pairwise (· < ·) ∧
    (∀ n, n ∈ sems ↔ ∃ e ∈ es, (recWv e.record = true ∧ recWsem e.record = n) ∨ (recSigv e.record = true ∧ recSigsem e.record = n)) ∧
    Counted s m ∧
    let adds (n : Nat) : List Entry := es.filter (fun e => recSigv e.record && recSigsem e.record == n)
    let view := es.flatMap entryImage ++ sems.flatMap (fun (n : Nat) => leBytes 4 n ++ leBytes 4 (getSem s n).toNat ++
      leBytes 4 (((adds n).map (fun e : Entry => recSigadd e.record)).sum % 2 ^ 32).toNat ++ leBytes 4 (adds n).length)
    let units := 2 * es.length + (sems.length + 3) / 4
    RingHolds s (debugView tag s) [s.prof.recNo.toNat + 2 ^ 32 * (units + 30) + 2 ^ 48 * tag + 2 ^ 56 * 3, s.pkg.time.toNat,
        s.strand.icount.toNat, (if s.sys.exstat.depth = 0 then 0 else
          namedLoop { s with strand := { s.strand with xstat := s.sys.exstat } } (Fin.ofNat 4 s.sys.exstat.nest.toNat)
            s.sys.exstat.depth.toNat),
        s.sys.epc.toNat, (causeWord s.sys.cause).toNat, es.length + 2 ^ 32 * sems.length, 0]
      (view ++ leBytes (64 * units - view.length) 0 ++ m.flatMap (leBytes 3))) ∧
  ∀ (t : Trap) (async : Bool) (q : Option Nat) (s : State), s.sys.th = false → t.cause ≠ .brk →
    s.sys.tcut.getLsbD 63 = false →
    let u := trapEntry t async q s
    u.sys.epc = s.strand.pc ∧ u.sys.exstat = { xstatNow s with sk := false } ∧
    u.sys.cause = { info := t.info, src := t.src, dbl := false, async := async, code := causeCode t.cause } ∧
    u.sys.faddr = t.faddr.getD s.sys.faddr ∧ u.sys.ppl = s.sys.pl ∧ u.sys.pl = true ∧ u.sys.th = true ∧
    u.sys.elb = (activeLoops s.strand.xstat).foldl (fun v l => v.set l (getBounds s l)) s.sys.elb ∧
    u.sys.etgt = (match s.strand.pend with | some p => if p.taken then p.target else p.fall | none => s.sys.etgt) ∧
    u.strand.cbrSaved = (match s.strand.pend with
      | some p => (match p.kind with
        | .cbrOpen _ _ => some p | .cbrKnown => some { p with kind := .xfer } | .xfer => none | .lbrk _ => none)
      | none => none) ∧
    u.strand.pc = s.sys.tvec ∧ u.strand.xstat = { s.strand.xstat with
      depth := 0, pipe := false, q := 0, repk := 0, xp := false, xt := false, sk := false } ∧
    u.strand.pend = none ∧ u.strand.rep = none ∧ u.strand.stalled = false ∧ u.strand.g = s.strand.g ∧
    u.strand.c = s.strand.c ∧ u.strand.tb = s.strand.tb ∧ u.strand.lc = s.strand.lc ∧ u.strand.ras = s.strand.ras ∧
    u.strand.cq = s.strand.cq ∧ u.strand.loads = s.strand.loads ∧ u.strand.copies = s.strand.copies ∧
    u.strand.icount = s.strand.icount ∧ u.store = s.store ∧ u.thatch = s.thatch ∧ u.mem = s.mem ∧ u.fab = s.fab ∧
    u.pkg = s.pkg ∧ u.grp = { s.grp with heldWait := false }

/-- A synchronous cause while STATUS.TH = 1 stops the strand without changing EPC, EXSTAT or FADDR, sets CAUSE.DBL and writes
the new code into CAUSE.CODE, and the launch ends in error; an asynchronous cause stays pending (R139). -/
def Obligations.DoubleTrap : Prop :=
  ∀ (t : Trap) (q : Option Nat) (s : State), s.sys.th = true →
    let u := trapEntry t false q s
    let cause : CauseReg := { s.sys.cause with dbl := true, code := causeCode t.cause }
    u.strand.run = .error ∧ u.sys.epc = s.sys.epc ∧ u.sys.exstat = s.sys.exstat ∧ u.sys.faddr = s.sys.faddr ∧
    u.sys.cause = cause ∧ u.pkg.launch = none ∧
    u.pkg.completions = s.pkg.completions ++ [.error (causeWord cause) (s.sys.epc.setWidth 64) s.sys.tcut] ∧
    u.strand.g = s.strand.g ∧ u.strand.pc = s.strand.pc ∧ nextCause s = none ∧ exec .asyncCauseTaken s = .next s

/-- TRAP and BRK raise their causes with INFO = IMM8 (R140); a BRK that writes a debug view stalls while an earlier snapshot is
being written (R280). ERET at the privileged level restores the level and the loop state and continues at EPC, or completes the
pending transfer (R138): behind its shadow slot at EPC, or at once where the trap came behind the slot's word, with the loop
effects of R82 and R84 in the active loops; the bounds of the loops that EXSTAT names come from ELB0 to ELB3 (R134); the queues
start again, and held stores of a commit that are still to issue hold instructions back again (R365). A collective branch whose result
was known when its slot trapped is one again behind the ERET (log entry 13, DEDUCED). That ERET leaves lc0 to lc3, and the stall of a BRK
behind a snapshot, follow log entry 40. -/
def Obligations.TrapsAndReturn : Prop :=
  ∀ (s : State) (code : BitVec 8), Ready [] true s → s.sys.spec = false →
    exec (.trap code) s = .next (trapEntry { cause := .trap, info := code.setWidth 32 } false none s) ∧
    (s.prof.busy = false ∨ viewOn s = false ∨ s.sys.th = true →
      exec (.brk code) s = .next (trapEntry { cause := .brk, info := code.setWidth 32 } false none s)) ∧
    (s.prof.busy = true → viewOn s = true → s.sys.th = false → exec (.brk code) s = .next (stallAt s)) ∧
    (s.sys.pl = true → s.prof.busy = false → s.mem.replay = [] → s.thatch.async = [] →
      (∀ b, s.strand.cbrSaved = some b → b.kind = .xfer) →
      let x := s.sys.exstat
      let next : BitVec 32 := s.sys.epc + (if postAt s s.sys.epc then 9 else 1)
      let l := innermost x
      ∃ u : State, exec .eret s = .next u ∧ u.sys.pl = s.sys.ppl ∧ u.sys.th = false ∧ u.strand.g = s.strand.g ∧
        u.strand.c = s.strand.c ∧ u.thatch.stopped = false ∧ u.thatch.wire = 0 ∧ u.grp.heldWait = true ∧ u.strand.rep = none ∧
        u.strand.icount = s.strand.icount + 1 ∧
        -- the loops that EXSTAT names get their bounds back, the others keep theirs
        (∀ o, getBounds u o = if o ∈ activeLoops x then s.sys.elb[o] else getBounds s o) ∧
        (x.depth = 0 ∨ x.xp = false ∨ x.sk = false → u.store = s.store ∧ u.strand.lc = s.strand.lc ∧
          u.strand.xstat = { x with sk := false, xp := false, xt := x.xt && !x.xp
                                    cqo := x.cqo || s.strand.xstat.cqo, cqu := x.cqu || s.strand.xstat.cqu }) ∧
        (x.xp = false → u.strand.pc = s.sys.epc ∧ u.strand.pend = none) ∧
        (x.xp = true → x.sk = false → u.strand.pc = s.sys.epc ∧
          u.strand.pend = some { kind := if s.strand.cbrSaved = none then .xfer else .cbrKnown, taken := x.xt
                                 target := s.sys.etgt, fall := s.sys.etgt }) ∧
        (x.xp = true → x.sk = true → u.strand.pend = none) ∧
        (x.xp = true → x.sk = true → x.depth = 0 → u.strand.pc = if x.xt then s.sys.etgt else next) ∧
        -- behind the slot of a transfer, in active loops: the taken transfer leaves those whose body does not hold its target
        (x.xp = true → x.sk = true → x.xt = true → x.depth.toNat ≤ 4 → u.strand.pc = s.sys.etgt ∧ u.strand.lc = s.strand.lc ∧
          activeLoops u.strand.xstat = (activeLoops x).dropWhile (fun o => !inBody s.sys.elb[o] s.sys.etgt)) ∧
        -- and one that is not taken goes on as after the slot's word: next, back, or out of the loop
        (x.xp = true → x.sk = true → x.xt = false → x.depth ≠ 0 →
          (s.sys.elb[l].last ≠ next - 1 → u.strand.pc = next ∧ u.strand.xstat.depth = x.depth ∧ u.strand.lc = s.strand.lc) ∧
          (s.sys.elb[l].last = next - 1 → (getLc s l).j.toNat + 1 < (getLc s l).cnt.toNat + stagesOf x l - 1 →
            u.strand.pc = s.sys.elb[l].first ∧ u.strand.xstat.depth = x.depth ∧
              getLc u l = { getLc s l with j := (getLc s l).j + 1 }) ∧
          (s.sys.elb[l].last = next - 1 → (getLc s l).cnt.toNat + stagesOf x l - 1 ≤ (getLc s l).j.toNat + 1 → x.depth = 1 →
            u.strand.pc = next ∧ u.strand.xstat.depth = 0 ∧ u.strand.lc = s.strand.lc)))

/-- A privileged operation outside the privileged level traps PRIV (R64); for MTS, by the register written (R131). -/
def Obligations.PrivilegedTraps : Prop :=
  ∀ (s : State) (d a : Reg) (k : BitVec 3) (r : BitVec 8), s.sys.pl = false → s.sys.spec = false →
    let traps (i : Instr) : Prop := exec i s = .next (trapEntry { cause := .priv } false none s)
    (Ready [] true s → ∀ i ∈ [Instr.eret, .sleep, .mapinvAll], traps i) ∧
    (Ready [d] true s → traps (.ridge d k)) ∧
    (Ready [a] true s → (∀ i ∈ [Instr.mapinvAddr a, .mapinvSeg a, .mapinvAsid a, .asidWrite a, .rasdWrite a, .rasvWrite a,
      .tracebWrite a], traps i) ∧
      (readSys s r.toNat ≠ none → sysUser r.toNat = false → sysReadOnly r.toNat = false → traps (.mts a r)))

/-- The level rises to privileged only by taking a trap, which STATUS.TH then shows and which leaves control at TVEC, or with
a new launch. In a step that takes no event of the agenda it is a trap: one that is taken, or the deferred entry of the cut record, which
what follows every step completes. That the whole entry waits for what runs below the record is log entry 38 (DEDUCED). -/
def Obligations.LevelRises : Prop :=
  (∀ (i : Instr) (s t : State), s.sys.pl = false → exec i s = .next t → t.sys.pl = true →
    (s.sys.th = false ∧ t.sys.th = true ∧ t.strand.pc = s.sys.tvec) ∨ (∃ p, i = .launchPacket p) ∨
      ∃ p a, i = .resumePacket p a) ∧
  (∀ s : State, s.sys.pl = false → (settle s).sys.pl = true → (∃ d, s.thatch.trapDue = some d ∧
    (settle s).sys.cause.code = causeCode d.cause) ∧ (settle s).sys.th = true ∧ (settle s).strand.pc = s.sys.tvec ∧
    (settle s).thatch.trapDue = none) ∧
  (∀ s t : State, s.agenda = [] → s.sys.pl = false → step s = .next t → t.sys.pl = true →
    (s.sys.th = false ∨ s.thatch.trapDue ≠ none) ∧ t.sys.th = true ∧ t.strand.pc = s.sys.tvec)

/-- YIELD, HALT, TSTART, SNAP and SLEEP (R142, R144 to R146). A YIELD is taken while a pre-emption is requested, outside loops
and shadow slots, for a number that YTAB has; an entry beyond the scratchpad is SEG. HALT waits for every counter and the replay
queue. SLEEP ends with a pending cause, a stop of the debug agent, a pre-emption or an add to a semaphore; that it marks the
strand asleep in one step and completes in a later one, and that TSTART compares at each try, is log entry 18. A YIELD whose
doubleword of the yield table meets a copy in flight stalls (R78). The record of a SNAP, and of the end of a loop that TRACEB.SLM names,
stands in the ring with its header and its 30 units, and no other byte of the scratchpad changes (R281, R282); a second snapshot of a word
waits (DEDUCED, log entry 40); that Q and STG are zero where the loop named is a plain LOOP is the model's reading (log entry 40). -/
def Obligations.StrandSystem : Prop :=
  -- a loop ends
  (∀ (s : State) (how : Nat),
    let l : LoopId := Fin.ofNat 4 s.strand.xstat.nest.toNat
    let u := endLoop how s
    let dw3 := namedLoop s l (s.strand.xstat.depth.toNat - 1)
    (s.sys.traceb.getLsbD 63 = false ∨ s.sys.traceb.getLsbD (56 + l.val) = false → u.store = s.store ∧ u.prof = s.prof) ∧
    (s.sys.traceb.getLsbD 63 = true → s.sys.traceb.getLsbD (56 + l.val) = true → s.sys.spec = false →
      (s.prof.busy = false → RingFits s → SnapWritten s u 2 0 dw3 how) ∧
      (s.prof.busy = true → u.store = s.store ∧
        u.prof.queued = s.prof.queued ++ [{ kind := 2, tag := 0, dw3 := dw3, dw4 := how }]))) ∧
  ∀ (s : State) (n : BitVec 8) (a : Reg),
    let done (i : Instr) : Prop := exec i s = .next (finish 1 s (.done s))
    let stalls (i : Instr) : Prop := exec i s = .next (stallAt s)
    let off := s.sys.ytab.toNat % 2 ^ 23 + 8 * n.toNat
    let entry := readLe s.store.spad off 8
    let taken : Prop := s.sys.pp = true ∧ s.strand.xstat.depth = 0 ∧ s.strand.pend = none ∧
      n.toNat ≤ s.sys.ytab.toNat / 2 ^ 24 % 2 ^ 8
    let waits : Prop := tkc s ≠ 0 ∨ ldc s ≠ 0 ∨ stc s ≠ 0 ∨ cpc s ≠ 0 ∨ s.mem.replay ≠ []
    let wakes : Prop := s.thatch.async ≠ [] ∨ s.pkg.debugReq = true ∨ s.sys.pp = true ∨
      (s.strand.asleep = true ∧ s.strand.semAdded = true)
    (Ready [] true s →
      (¬taken → done (.yield n)) ∧
      (taken → off + 8 ≤ 0x600000 → meetsCopy s (BitVec.ofNat 64 (2 ^ 63 + off)) 8 = true → stalls (.yield n)) ∧
      (taken → off + 8 ≤ 0x600000 → meetsCopy s (BitVec.ofNat 64 (2 ^ 63 + off)) 8 = false → s.prof.busy = false → ∃ u : State, exec (.yield n) s = .next u ∧
        u.strand.pc = BitVec.ofNat 32 entry ∧ u.sys.epc = s.strand.pc + 1 ∧ u.pkg.saving = true ∧
        u.sys.prgix = BitVec.ofNat 64 (entry / 2 ^ 32 % 2 ^ 32 * 2 ^ 32 + n.toNat) ∧ u.strand.g = s.strand.g ∧
        u.store = s.store ∧ u.pkg.preemptBy = s.pkg.preemptBy) ∧
      (taken → 0x600000 < off + 8 → s.sys.spec = false → exec (.yield n) s = .next (trapEntry
        { cause := .seg, info := 0, faddr := some (BitVec.ofNat 64 (2 ^ 63 + off)) } false none s)) ∧
      (waits → stalls .halt) ∧
      (¬waits → dirtyHusks s (cachedHusks s) = [] → s.prof.busy = false → ∃ u : State, exec .halt s = .next u ∧
        u.pkg.launch = none ∧
        (s.pkg.saving = false → u.strand.run = .halted ∧ u.pkg.completions = s.pkg.completions ++
          [.halted ((List.range 15).map (fun i => getG s (Fin.ofNat 64 (i + 1))))]) ∧
        (s.pkg.saving = true → u.strand.run = .preempted ∧ u.pkg.completions = s.pkg.completions ++
          [.preempted s.sys.prgix (grpixWord s.sys) (gstepWord s.sys) (gepochWord s.sys)])) ∧
      (traceOn s = false → done (.snap n)) ∧
      (traceOn s = true → s.prof.busy = false → ∃ u : State, exec (.snap n) s = .next u ∧
        u.strand.icount = s.strand.icount + countOf s ∧ u.prof.busy = true ∧
        (RingFits s → SnapWritten s u 1 n.toNat (if s.strand.xstat.depth = 0 then 0
          else namedLoop s (Fin.ofNat 4 s.strand.xstat.nest.toNat) s.strand.xstat.depth.toNat) 0)) ∧
      (traceOn s = true → s.prof.busy = true → stalls (.snap n)) ∧
      (s.sys.pl = true → (wakes → done .sleep) ∧ (¬wakes → s.strand.asleep = true → stalls .sleep) ∧
        (¬wakes → s.strand.asleep = false → exec .sleep s =
          .next { s with strand := { s.strand with asleep := true, semAdded := false, stalled := true } }))) ∧
    (Ready [a] true s →
      ((getG s a).toNat ≤ s.pkg.time.toNat → done (.tstart a)) ∧ (s.pkg.time.toNat < (getG s a).toNat → stalls (.tstart a)))

/-- SAVEQ, RESTQ (R143), MAPINV (R268) and RIDGE (R307, R308): SAVEQ whose image may be written stops the engines, writes the image of
R177 (its header, the window in post order, the box registers, the count queue, the return-address store with RASB) and frees the window
(R178); RESTQ of an image that it accepts brings back the box registers, the count queue, the return-address store with RASB and the
saved entries in post order, PENDING or released anew, and with them TKC (R179); MAPINV leaves no translation that it names and
completes once no access that used one is pending. RIDGE refuses with the status of its reason, or begins a hand-over: the stack wakes,
its dirty lines go back, no translation to it is left, and once no access to it through one is pending its owner bit flips, and RIDGE
delivers its new owner. What RIDGE and MAPINV wait for, and that a RIDGE that waits is not interrupted, follow log entries 24 and 29;
that SAVEQ and RESTQ wait for a hand-over is log entry 24 (DEDUCED beside R309); what RESTQ waits for follows log entry 19, and so do
fields of an image that exceed their store; the entries that an image leaves out or saves from their start follow log entries 4 and 8;
that a page of a sweep whose packets are not all acknowledged is sent again after a save follows log entry 28; and that SEG of MAPINV
has INFO 0 is the model's choice (log entry 40). -/
def Obligations.SaveMapRidge : Prop :=
  ∀ (s : State) (d a : Reg) (k : BitVec 3),
    -- a unit that a hand-over holds, or whose page is migrating or still to be swept, or a copy in flight, stalls either
    (Ready [a] true s → ∀ p u,
      let held : Bool := match p with | .mem _ h => h | .spad _ => false
      (held = true ∨ meetsCopy u (getG s a) 16384 = true →
        (imageAt 1 (getG s a) s = .ok (p, u) → exec (.saveq a) s = .next (stallAt u)) ∧
        (imageAt 0 (getG s a) s = .ok (p, u) → exec (.restq a) s = .next (stallAt u)))) ∧
    -- one that the check refuses traps behind the walks of the units before it
    (Ready [a] true s → s.sys.spec = false → ∀ t u, t.cause ≠ .brk →
      (imageAt 1 (getG s a) s = .error (t, u) → exec (.saveq a) s = .next (trapEntry t false none (consumedBy t u))) ∧
      (imageAt 0 (getG s a) s = .error (t, u) → exec (.restq a) s = .next (trapEntry t false none (consumedBy t u)))) ∧
    (Ready [a] true s → ∀ p u held, imageAt 1 (getG s a) s = .ok (p, u) →
      held = (match p with | .mem _ h => h | .spad _ => false) → held = false → meetsCopy u (getG s a) 16384 = false →
      (saveWaits (saveBegin u) = false → exec (.saveq a) s = .next (finish 1 s (.done (saveEnd p (saveBegin u)))) ∧
        let b := saveBegin u
        let v : State := { b with thatch := { b.thatch with entries := b.thatch.entries.map stopEntry } }
        let img := saveImage v
        let t := saveEnd p b
        let es := imageEntries v
        t.thatch.entries = [] ∧ t.thatch.dir = [] ∧ tkc t = 0 ∧ t.strand = u.strand ∧
          t.store = (writeImage p img v).store ∧ t.mem = { (writeImage p img v).mem with
            sweeps := s.mem.sweeps.map (fun x => if x.asid = s.sys.asid then { x with sent := none } else x) } ∧ img.length = 16384 ∧
          imgNat img 0 8 = 0x9401 ∧ imgNat img 8 8 = u.sys.coreid.toNat ∧ imgNat img 0x18 8 = u.sys.rnpool.toNat ∧
          imgNat img 0x20 8 = es.length % 2 ^ 64 ∧
          (∀ k e, k < 64 → es[k]? = some e → (img.drop (0x40 + 128 * k)).take 128 = entryImage e) ∧
          (∀ x : Bx, (img.drop (0x2040 + 32 * x.val)).take 32 = boxRegImage (getBox u x)) ∧
          imgNat img 0x2D80 8 = u.strand.cq.length % 2 ^ 64 ∧
          (∀ k v, k < 64 → u.strand.cq[k]? = some v → imgNat img (0x2DC0 + 4 * k) 4 = v.toNat) ∧
          imgNat img 0x2EC0 8 = u.strand.ras.length % 2 ^ 64 ∧
          (∀ k v, k < 16 → u.strand.ras[k]? = some v → imgNat img (0x2EC8 + 8 * k) 8 = v.toNat) ∧
          imgNat img 0x2F48 8 = u.sys.rasb.toNat) ∧
      (saveWaits (saveBegin u) = true → exec (.saveq a) s = .next (stallAt (saveBegin u)))) ∧
    (Ready [a] true s → ∀ p u, imageAt 0 (getG s a) s = .ok (p, u) →
      (match p with | .mem _ h => h | .spad _ => false) = false → meetsCopy u (getG s a) 16384 = false → tkc u = 0 →
      localCount u = 0 → imagePoison p u = none → imgNat (readImage p u) 0 8 = 0x9401 →
      restBad u (savedDir (readImage p u)) (savedEntries (readImage p u)) = none →
      let img := readImage p u
      let asked := imageRequests p u
      let t := restore img asked
      let vs := savedEntries img
      exec (.restq a) s = .next (finish 1 s (.done t)) ∧
        (∀ x : Bx, getBox t x = boxRegOf ((img.drop (0x2040 + 32 * x.val)).take 32)) ∧
        t.strand.cq = (List.range (min 64 (imgNat img 0x2D80 8))).map (fun i => BitVec.ofNat 32 (imgNat img (0x2DC0 + 4 * i) 4)) ∧
        t.strand.ras = (List.range (min 16 (imgNat img 0x2EC0 8))).map (fun i => BitVec.ofNat 32 (imgNat img (0x2EC8 + 8 * i) 8)) ∧
        t.sys.rasb = BitVec.ofNat 64 (imgNat img 0x2F48 8) &&& 0x87FFFFEFFFFFFFFF ∧
        t.thatch.entries.map (fun e => (e.record, e.seq, e.index, e.flags, e.fold, e.remote)) =
          u.thatch.entries.map (fun e => (e.record, e.seq, e.index, e.flags, e.fold, e.remote)) ++
            vs.map (fun v => (v.record, v.seq, v.index, v.flags, savedFold v, savedRemote v)) ∧
        (∀ e ∈ t.thatch.entries.drop u.thatch.entries.length, (e.state = .pending ∨ e.state = .ready) ∧ e.work = none) ∧
        tkc t = (vs.filter (fun v => !savedFold v && !savedRemote v)).length ∧
        t.strand.g = u.strand.g ∧ t.strand.c = u.strand.c ∧ t.mem = asked.mem ∧ t.store.spad = u.store.spad) ∧
    (s.sys.pl = true →
      let removes (i : Instr) (f : Tlb → Bool) : Prop :=
        let u := invalidate f s
        (memoryPending u = false → exec i s = .next (finish 1 s (.done u))) ∧
        (memoryPending u = true → exec i s = .next (stallAt u)) ∧
        u.mem.tlb.any f = false ∧ u.mem.mapCache.any f = false ∧ (∀ t ∈ s.mem.tlb, f t = false → t ∈ u.mem.tlb)
      (Ready [a] true s →
        removes (.mapinvAddr a) (fun t => t.asid == s.sys.asid && decide (t.va ≤ (getG s a).toNat) &&
          decide ((getG s a).toNat < t.va + t.size)) ∧
        ((getG s a).toNat < 64 → removes (.mapinvSeg a) (inSegment s (getG s a).toNat)) ∧
        ((getG s a).toNat < 8192 → removes (.mapinvAsid a) (fun t => t.asid.toNat == (getG s a).toNat)) ∧
        (64 ≤ (getG s a).toNat → s.sys.spec = false → exec (.mapinvSeg a) s =
          .next (trapEntry { cause := .seg, faddr := some (getG s a) } false none s)) ∧
        (8192 ≤ (getG s a).toNat → s.sys.spec = false → exec (.mapinvAsid a) s =
          .next (trapEntry { cause := .seg, faddr := some (getG s a) } false none s))) ∧
      (Ready [] true s → removes .mapinvAll (fun _ => true)) ∧
      (Ready [d] true s →
        let own := s.pkg.own.getLsbD k.toNat
        let refused : Nat :=
          if s.pkg.ridging.getLsbD k.toNat then 1
          else if s.pkg.dieDown.getLsbD (if own then k.toNat / 2 else (k.toNat / 2 + 1) % 4) ||
            (if own then s.pkg.portADown.getLsbD k.toNat else s.pkg.portBDown.getLsbD k.toNat) then 2
          else if s.pkg.stackError.getLsbD k.toNat then 3
          else 0
        let begun := if s.strand.ridgeWait = some k then s else beginRidge k s
        let moved := handOver k begun
        -- an access to the stack that an earlier translation let through is still to be performed
        let into (pa : Nat) : Bool := pa / 2 ^ 36 % 8 == k.toNat
        let effect (s : State) (x : Effect) : Bool := match x with
          | .mem w => w.addr / 2 ^ 48 == s.sys.nodeid.toNat && into (w.addr % 2 ^ 48)
          | .setD a => into a
          | _ => false
        let pending (s : State) : Bool :=
          s.strand.copies.any (fun c => c.pages.any (fun p => into p.2)) ||
          s.thatch.entries.any (fun e => if recRst e.record then e.done && e.buffered.any (effect s) else
            match e.work with | some w => w.units.any (fun u => u.effects.any (effect s)) | none => false)
        (s.strand.ridgeWait ≠ some k → refused ≠ 0 → exec (.ridge d k) s =
          .next (finish 1 s (.done (setG s d (BitVec.ofNat 64 (ownerDie s k.toNat * 2 ^ 8 + refused)))))) ∧
        (s.strand.ridgeWait = some k ∨ refused = 0 →
          (pending begun = true → exec (.ridge d k) s = .next (stallAt begun)) ∧
          (pending begun = false → exec (.ridge d k) s =
            .next (finish 1 s (.done (setG moved d (BitVec.ofNat 64 (ownerDie moved k.toNat * 2 ^ 8)))))) ∧
          moved.pkg.own = s.pkg.own ^^^ BitVec.ofNat 8 (2 ^ k.toNat) ∧ moved.strand.ridgeWait = none ∧
          moved.pkg.ridging.getLsbD k.toNat = false ∧ moved.mem.mem = s.mem.mem ∧
          ∀ a ∈ moved.mem.dirty, ¬(a / 2 ^ 48 = s.sys.nodeid.toNat ∧ a % 2 ^ 48 / 2 ^ 36 % 8 = k.toNat)) ∧
        (let b := beginRidge k s
         b.strand.ridgeWait = some k ∧ b.pkg.ridging.getLsbD k.toNat = true ∧ b.mem.tlb.any (mapsStack k.toNat) = false ∧
           b.mem.mapCache.any (mapsStack k.toNat) = false ∧ b.mem.mem = s.mem.mem ∧
           ∀ j : Fin 8, j.val = k.toNat → b.pkg.gated.contains (.selfRefresh j) = false)))

/-- CBR, CBRX, CSTEP and GABORT (R359, R360, R369, R370). That GABORT of a core with GRPN = 0 has no effect is the model's choice (log
entry 40). -/
def Obligations.GroupInstructions : Prop :=
  ∀ (s : State) (t : Tb) (c : Cond) (neg : Bool) (red : Red) (hint : Bool), Ready [] true s →
    let vote : Bool := getC s c ^^ neg
    let n : BitVec 32 := s.strand.pc + (if postAt s (s.strand.pc + 1) then 10 else 2)
    let goes (i : Instr) (u : State) (taken : Bool) (kind : PendKind) : Prop :=
      exec i s = .next (pendTransfer { kind := kind, taken := taken, target := getTb s t, fall := n } u)
    let sent : State := { s with
      sys := { s.sys with grpCi := s.sys.grpCi + 1 }
      grp := { s.grp with
        msgs := s.grp.msgs ++
          [.contrib { gid := s.sys.grpid, inst := s.sys.grpCi, gen := s.grp.gen, ix := s.sys.grpIx, red := red, vote := vote }]
        openAt := s.grp.openAt ++ [(s.sys.grpCi, s.pkg.time)]
        stepAt := s.grp.stepAt ++ [(s.sys.grpCi, s.sys.gstepLocal)] } }
    (TransferPlace s →
      (s.sys.grpn = 0 → goes (.cbr t c neg red hint) s vote .cbrKnown ∧ goes (.cbrx t c neg red) s vote .cbrKnown) ∧
      (s.sys.grpn ≠ 0 → s.sys.grpXc = true →
        goes (.cbr t c neg red hint) { s with sys := { s.sys with grpXc := false } } s.sys.grpXr .cbrKnown ∧
        goes (.cbrx t c neg red) s s.sys.grpXr .cbrKnown) ∧
      (s.sys.grpn ≠ 0 → s.sys.grpXc = false → goes (.cbr t c neg red hint) sent hint (.cbrOpen hint s.sys.grpCi) ∧
        (s.grp.cbrx = none → exec (.cbrx t c neg red) s =
          .next (stallAt { sent with grp := { sent.grp with cbrx := some s.sys.grpCi } })) ∧
        (s.grp.cbrx ≠ none → exec (.cbrx t c neg red) s = .next (stallAt s)))) ∧
    (let ready := tkc s = 0 ∧ s.mem.replay = [] ∧ releaseReady .fabric s = true ∧
        (s.sys.gstepLocal - s.sys.gstepStep).toNat < 16
     let l := s.sys.gstepLocal + 1
     (¬ready → exec .cstep s = .next (stallAt s)) ∧
     (ready → s.sys.grpn = 0 → exec .cstep s = .next (finish 1 s (.done
        { s with sys := { s.sys with gstepLocal := l, gstepStep := s.sys.gstepStep + 1 } }))) ∧
     (ready → s.sys.grpn ≠ 0 → exec .cstep s = .next (finish 1 s (.done
        { s with
          sys := { s.sys with gstepLocal := l }
          grp := { s.grp with msgs := s.grp.msgs ++
            [.mark { gid := s.sys.grpid, gen := s.grp.gen, ix := s.sys.grpIx, step := l }] } })))) ∧
    (s.sys.grpn = 0 → exec .gabort s = .next (finish 1 s (.done s))) ∧
    (s.sys.grpn ≠ 0 → exec .gabort s = .next (finish 1 s (.done { s with grp := { s.grp with msgs := s.grp.msgs ++
      [.abortUp { gid := s.sys.grpid, gen := s.grp.gen, info := s.sys.grpIx.setWidth 32, step := s.sys.gstepStep }] } })))

/-! ### Events -/

/-- The events of a group (R358, R365, R367, R369, R370, R374, R381), each of the group that its message names. Contributions, marks and
abort tokens wait in flight while a phase fence is in progress; a member's contributions and marks arrive in the order in which it sent
them, the root's results and commits in the order in which it sent those, and a result of a root elsewhere never before the commit of a
step that this member had marked before it contributed. The last contribution of an instance lets the root send the reduction of all
votes; a result resolves a CBRX, and commits or squashes a strand that runs ahead; an expiry is told to the root, which ends the
instance for the group; the last mark of a step commits it; aborts; and the phase fence, in which the timers stand. Messages of a group
are data of State, taken by their arrival events, and so is the expiry that a member tells the root (log entry 4); which ended instances
a root remembers follows log entry 40. -/
def Obligations.GroupEvents : Prop :=
  ∀ (s : State),
    let g := s.sys.grpid
    let open_ := s.sys.gepochPf = false
    let inFlight (i : Instr) (m : GroupMsg) : Prop := s.sys.gepochPf = true →
      exec i s = .next (if s.grp.msgs.contains m then s else { s with grp := { s.grp with msgs := s.grp.msgs ++ [m] } })
    let mine (gid ix : BitVec 16) (m : GroupMsg) : Prop :=
      ownMember s gid ix = false ∨ s.grp.msgs.find? (fun x => goesUp x && msgGid x == gid) = some m
    let ends (r : Root) (i : BitVec 32) (t : State) : Prop := ∃ x, rootOf t r.gid = some x ∧
      x.ended = i :: r.ended.filter (fun j => notAfter j i) ∧ x.gen = r.gen ∧ x.n = r.n
    (∀ c, inFlight (.contributionArrival c) (.contrib c)) ∧ (∀ m, inFlight (.stepMarkArrival m) (.mark m)) ∧
    (∀ k, inFlight (.abortTokenAtRoot k) (.abortUp k)) ∧ (∀ k, inFlight (.abortTokenArrival k) (.abortDown k)) ∧
    (∀ (c : Contrib) (r : Root), open_ → mine c.gid c.ix (.contrib c) → rootOf s c.gid = some r → c.gen = r.gen →
      r.ended.contains c.inst = false → r.contribs.any (fun x => x.inst == c.inst && x.ix == c.ix) = false →
      let of := (r.contribs ++ [c]).filter (fun x => x.inst == c.inst)
      let yes := (of.filter (fun x => x.vote)).length
      (of.any (fun x => x.red != c.red) = false → of.length = r.n →
        ∃ t : State, exec (.contributionArrival c) s = .next t ∧
          t.grp.msgs = s.grp.msgs.erase (.contrib c) ++ [.result c.gid c.inst r.gen
            (match c.red with | .and => decide (yes = of.length) | .or => decide (0 < yes) | .maj => decide (r.n < 2 * yes))] ∧
          ends r c.inst t ∧ t.strand = s.strand) ∧
      (of.any (fun x => x.red != c.red) = true → ∃ t : State, exec (.contributionArrival c) s = .next t ∧
        t.grp.msgs = s.grp.msgs.erase (.contrib c) ++ [.timeout c.gid c.inst r.gen true] ∧ ends r c.inst t)) ∧
    (∀ c : Contrib, open_ → ownMember s c.gid c.ix = true →
      s.grp.msgs.find? (fun x => goesUp x && msgGid x == c.gid) ≠ some (.contrib c) →
      exec (.contributionArrival c) s = .next s) ∧
    (∀ i b, sentHere s (.result g i s.grp.gen b) = true → s.sys.grpn ≠ 0 → isOpen s i = true →
      let arrival : Instr := .branchResultArrival ⟨g, i⟩ s.grp.gen b
      let gone := s.grp.openAt.filter (fun o => o.1 != i)
      let owed : Bool := !rootHere s g && stepOwed s i
      (owed = true → exec arrival s = .next (if s.grp.msgs.contains (.result g i s.grp.gen b) then s else
        { s with grp := { s.grp with msgs := s.grp.msgs ++ [.result g i s.grp.gen b] } })) ∧
      (owed = false → s.grp.cbrx = some i → s.grp.spec = none → ∃ t : State, exec arrival s = .next t ∧
        t.sys.grpXc = true ∧ t.sys.grpXr = b ∧ t.grp.cbrx = none ∧ t.grp.openAt = gone) ∧
      (∀ cp, owed = false → s.grp.cbrx = none → s.grp.spec = some cp → cp.inst = i → b = cp.hint → s.grp.hold = [] →
        s.grp.issuing = [] → ∃ t : State, exec arrival s = .next t ∧ t.sys.spec = false ∧ t.grp.spec = none ∧
          (s.thatch.entries = [] → t.strand.g = s.strand.g ∧ t.strand.pc = s.strand.pc)) ∧
      (∀ cp, owed = false → s.grp.cbrx = none → s.grp.spec = some cp → cp.inst = i → b ≠ cp.hint → cp.xstat.depth = 0 →
        ∃ t : State, exec arrival s = .next t ∧ t.sys.spec = false ∧ t.grp.spec = none ∧
          t.grp.hold = [] ∧ t.grp.heldSnaps = [] ∧ t.strand.g = cp.g ∧ t.strand.c = cp.c ∧ t.strand.tb = cp.tb ∧ t.strand.ras = cp.ras ∧
          t.store.boxes = cp.boxes ∧ t.strand.pc = (if b then cp.target else cp.fall) ∧
          ∀ e ∈ t.thatch.entries, e.ahead = false)) ∧
    (∀ gid i gen b, sentHere s (.result gid i gen b) = false → exec (.branchResultArrival ⟨gid, i⟩ gen b) s = .next s) ∧
    -- a result or a commit of another group, or for no member, goes by
    (∀ gid i gen b, sentHere s (.result gid i gen b) = true → gid ≠ g ∨ s.sys.grpn = 0 →
      exec (.branchResultArrival ⟨gid, i⟩ gen b) s = .next { s with grp := { s.grp with
        msgs := s.grp.msgs.erase (.result gid i gen b) } }) ∧
    (∀ gid st gen, sentHere s (.commit gid st gen) = true → gid ≠ g ∨ s.sys.grpn = 0 →
      exec (.stepCommitArrival ⟨gid, st⟩ gen) s = .next { s with grp := { s.grp with
        msgs := s.grp.msgs.erase (.commit gid st gen) } }) ∧
    (∀ i, expiredInstance s = some i →
      (∀ r, ownRoot s = some r → r.ended.contains i = false → ∃ t : State, exec .cbrtoExpiry s = .next t ∧
        t.grp.msgs = s.grp.msgs ++ [.timeout r.gid i r.gen false] ∧ ends r i t) ∧
      (ownRoot s = none → exec .cbrtoExpiry s = .next { s with grp := { s.grp with
        told := i :: s.grp.told, msgs := s.grp.msgs ++ [.expiry g i s.grp.gen] } })) ∧
    (∀ i m, s.grp.msgs.contains (.expiry g i s.grp.gen) = false ∨ m = true →
      rootOf s g = none ∨ s.grp.msgs.contains (.timeout g i s.grp.gen m) = true → s.sys.grpn ≠ 0 → notContributed s i = true →
      live s = true → ∃ t : State, exec (.instanceTimeoutArrival ⟨g, i⟩ s.grp.gen m) s = .next t ∧ t.sys.grpCi = i + 1 ∧
        t.sys.grpXc = true ∧ t.sys.grpXr = false ∧ t.thatch.async = s.thatch.async ++
          [{ cause := .cbrTimeout, info := BitVec.ofNat 32 (i.toNat % 2 ^ 31 + 2 ^ 31 * m.toNat), src := 6 }]) ∧
    (∀ gid i r, s.grp.msgs.contains (.expiry gid i r.gen) = false → s.grp.msgs.contains (.timeout gid i r.gen false) = false →
      rootOf s gid = some r → r.ended.contains i = false → ∃ t : State, exec (.instanceTimeoutArrival ⟨gid, i⟩ r.gen false) s = .next t ∧
        t.grp.msgs = s.grp.msgs ++ [.timeout gid i r.gen false] ∧ ends r i t ∧ t.strand = s.strand ∧ t.sys = s.sys) ∧
    (∀ i cp, rootOf s g = none → s.grp.msgs.contains (.expiry g i s.grp.gen) = false → s.sys.grpn ≠ 0 → isOpen s i = true →
      notContributed s i = false → s.grp.spec = some cp → cp.inst = i → cp.xstat.depth = 0 →
      ∃ t : State, exec (.instanceTimeoutArrival ⟨g, i⟩ s.grp.gen false) s = .next t ∧ t.sys.spec = false ∧ t.strand.g = cp.g ∧
        t.strand.pc = cp.fall) ∧
    (∀ (m : StepMark) (r : Root), open_ → mine m.gid m.ix (.mark m) → rootOf s m.gid = some r → m.gen = r.gen →
      r.marks.contains m = false →
      let marks := r.marks ++ [m]
      let first : Root := { r with step := r.step + 1, marks := marks.filter (fun x => x.step != r.step + 1) }
      (stepComplete { r with marks := marks } (r.step + 1) = false →
        ∃ t : State, exec (.stepMarkArrival m) s = .next t ∧ rootOf t m.gid = some { r with marks := marks } ∧
          t.grp.msgs = s.grp.msgs.erase (.mark m)) ∧
      (stepComplete { r with marks := marks } (r.step + 1) = true → stepComplete first (r.step + 2) = false →
        ∃ t : State, exec (.stepMarkArrival m) s = .next t ∧ rootOf t m.gid = some first ∧
          t.grp.msgs = s.grp.msgs.erase (.mark m) ++ [.commit m.gid (r.step + 1) r.gen])) ∧
    (∀ st, sentHere s (.commit g st s.grp.gen) = true → s.sys.grpn ≠ 0 → st = s.sys.gstepStep + 1 →
      ∃ t : State, exec (.stepCommitArrival ⟨g, st⟩ s.grp.gen) s = .next t ∧ t.sys.gstepStep = st ∧ t.strand = s.strand) ∧
    (∀ (k : AbortToken) (r : Root), open_ → rootOf s k.gid = some r → k.gen = r.gen →
      ∃ t : State, exec (.abortTokenAtRoot k) s = .next t ∧
        rootOf t k.gid = some { r with gen := r.gen + 1, contribs := [], marks := [], ended := [] } ∧
        t.grp.msgs = s.grp.msgs.erase (.abortUp k) ++ [.abortDown { k with step := r.step }]) ∧
    (∀ k : AbortToken, open_ → sentHere s (.abortDown k) = true → k.gen = s.grp.gen → k.gid = g →
      s.sys.grpn ≠ 0 → s.grp.spec = none → live s = true → ∃ t : State, exec (.abortTokenArrival k) s = .next t ∧
        t.thatch.entries = [] ∧ t.thatch.dir = [] ∧ t.grp.gen = s.grp.gen + 1 ∧ t.grp.openAt = [] ∧ t.sys.grpCi = 0 ∧
        t.sys.gstepStep = k.step ∧ t.sys.gstepLocal = k.step ∧
        { cause := .abort, info := k.info, src := 6 } ∈ t.thatch.async) ∧
    (∀ ep, s.fab.phase = none → ∃ t : State, exec (.phase ep) s = .next t ∧ t.sys.gepochPf = true ∧
      t.fab.phase = some { epoch := ep, drained := false, since := s.pkg.time } ∧ t.pkg.gated = []) ∧
    (∀ p, s.fab.phase = some p →
      (p.drained = false → phaseBusy p.epoch s = false → ∃ t : State, exec .drainedAnswer s = .next t ∧
        t.fab.phase = some { p with drained := true } ∧ t.pkg.answers = s.pkg.answers ++ [.drained p.epoch]) ∧
      (p.drained = true → ∃ t : State, exec .phaseDone s = .next t ∧ t.fab.phase = none ∧ t.sys.gepochPf = false ∧
        (live s = true → t.sys.gepoch = p.epoch) ∧
        t.grp.openAt = s.grp.openAt.map (fun o =>
          (o.1, if p.since.toNat ≤ o.2.toNat then s.pkg.time else o.2 + (s.pkg.time - p.since)))))

/-- The events of the strand (R136, R145, R176, R180, R275, R280, R286): the cause of the lowest code that may be taken is taken
as a trap, a stop of the debug agent as a BRK with INFO 0x100, which waits while a snapshot that it would follow is being written;
requests to stop and to pre-empt; a forced stop and its
restoration; the ends of a TSTART and of an ACQ that stalls, which tries again; the end of a snapshot, behind which one that waits
is written. What a forced stop leaves and clears, and the retries of TSTART, follow log entry 18; the order of snapshots follows
log entry 40. -/
def Obligations.StrandEvents : Prop :=
  ∀ (s : State),
    let debug : Async := { cause := .brk, info := 0x100, src := 0 }
    let debugMay : Prop := s.pkg.debugReq = true ∧ (s.strand.xstat.pipe = false ∨ s.strand.iterEnd = true) ∧
      ¬(viewOn s = true ∧ s.prof.busy = true)
    (∀ a, nextCause s = some a →
      s.sys.th = false ∧ s.sys.spec = false ∧
      (∀ b ∈ s.thatch.async, mayTake s b = true → causeCode a.cause ≤ causeCode b.cause) ∧
      (debugMay → causeCode a.cause ≤ causeCode .brk) ∧
      (a ≠ debug → exec .asyncCauseTaken s = .next (trapEntry
        { cause := a.cause, info := a.info, faddr := a.faddr, src := a.src } true (causeSeq s a)
        { s with thatch := { s.thatch with async := s.thatch.async.erase a } })) ∧
      (a = debug → exec .asyncCauseTaken s = .next (trapEntry { cause := .brk, info := 0x100 } true none
        { s with pkg := { s.pkg with debugReq := false } }))) ∧
    (nextCause s = none → exec .asyncCauseTaken s = .next s) ∧
    (s.sys.th = false → s.sys.spec = false → atBoundary s = true → debugMay →
      (∀ b ∈ s.thatch.async, mayTake s b = false) → nextCause s = some debug) ∧
    (live s = true → exec .debugStopRequest s = .next { s with pkg := { s.pkg with debugReq := true } }) ∧
    (live s = true → s.sys.pp = false → ∃ t : State, exec .preemptRequest s = .next t ∧ t.sys.pp = true ∧
      t.pkg.preemptBy = some (s.pkg.time + s.sys.preedl.setWidth 64) ∧ t.pkg.gated = []) ∧
    (∀ by_, s.pkg.preemptBy = some by_ → by_.toNat ≤ s.pkg.time.toNat → s.sys.spec = false → atBoundary s = true →
      ∃ t : State, exec .forcedStop s = .next t ∧ t.strand.run = .stopped ∧ t.pkg.preemptBy = none ∧
        t.strand.g = s.strand.g ∧ t.strand.pc = s.strand.pc ∧
        ∀ e ∈ t.thatch.entries, e.state = .running → sendsOn e = true) ∧
    (s.strand.run = .stopped → ∃ t : State, exec .firmwareRestore s = .next t ∧ t.strand.run = .running ∧ t.sys.pp = false ∧
      t.thatch.async = s.thatch.async ++ [{ cause := .preempt, info := 0, src := 0 }]) ∧
    (¬(s.strand.run = .running ∧ s.strand.stalled = true) →
      exec .tstartTimeReached s = .next s ∧ exec .acqRetryTimeout s = .next s) ∧
    (s.strand.run = .running → s.strand.stalled = true → ∀ a, Ready [a] true s →
      (decodeAt s s.strand.pc = some (.ok (.tstart a)) →
        ((getG s a).toNat ≤ s.pkg.time.toNat → exec .tstartTimeReached s = .next (finish 1 s (.done s))) ∧
        (s.pkg.time.toNat < (getG s a).toNat → exec .tstartTimeReached s = .next s)) ∧
      (∀ sc pa leaf u, decodeAt s s.strand.pc = some (.ok (.acq sc a)) → (getG s a).getLsbD 63 = false →
        check (getG s a) 8 2 s = .mem pa false false leaf u → meetsCopy s (getG s a) 8 = false →
        pageParked s (getG s a).toNat = false → s.grp.issuing = [] →
        poisonedAt s (memKey s.sys.nodeid.toNat pa) = false → boundTo u (getG u a) = [] → u.strand.loads = [] →
        let mine : Word := BitVec.ofNat 64 (2 ^ 63 + u.sys.nodeid.toNat * 2 ^ 9 + u.sys.coreid.toNat)
        let w := requestAt pa u
        (objectWord u pa = mine → exec .acqRetryTimeout s = .next (finish 1 s (.done w))) ∧
        (objectWord u pa = 0 → exec .acqRetryTimeout s = .next (finish 1 s (.done (setObject pa leaf mine w)))) ∧
        (objectWord u pa ≠ 0 → objectWord u pa ≠ mine → exec .acqRetryTimeout s = .next (stallAt w)))) ∧
    (s.prof.queued = [] → exec .snapshotWritten s = .next { s with prof := { s.prof with busy := false } }) ∧
    (∀ r rs, s.prof.queued = r :: rs → ∃ t : State, exec .snapshotWritten s = .next t ∧ t.prof.queued = rs ∧ t.prof.busy = true ∧
      t.prof.recNo = s.prof.recNo + 1 ∧ t.prof.conflicts = [] ∧ t.strand = s.strand ∧ t.mem = s.mem ∧
      (RingFits s → SnapWritten s t r.kind r.tag r.dw3 r.dw4))

/-- Launches (R76, R77, R185, R266, R313, R315, R317, R318, R358, R261, R372 to R376, R380): a launch that the package takes and whose
image passes its checks loads the registers of R76 and waits for its start time, and its data are written once, however many cores the
packet names; member 0, on any core of the package, brings a root for its group; a refused one is answered, of another core of the
package too; one of another core of the pod makes that core one that the fabric and the cluster reach, with its accumulators and
semaphores reset; a resumed one has no arguments, writes nothing and starts at the restore address, on this core or on another; before
bring-up and after a trip no launch is taken; the strand starts when TIME reaches the start, a member of a group that is late with
LATE_START, or with an abort beyond its budget; the host ends a launch, which completes a hand-over under way; the host resets the
package. A management packet ends every power state first (R314). Which launches are taken, and what a package reset keeps, follow log
entries 9 and 12; a launch of another core follows log entry 4, lateness log entry 33; that the registers which the packet does not
name, RNPOOL and STATUS.TH among them, take their reset values is log entry 32 (DEDUCED beside R76); which segment table stays where two
launches of the cluster share an ASID is log entry 10. -/
def Obligations.LaunchEvents : Prop :=
  ∀ (s : State) (p : LaunchPkt) (addr : BitVec 32),
    let u : State := { s with pkg := { s.pkg with gated := [], launches := s.pkg.launches + 1 } }
    let c := p.toCoreItems
    let own : Prop := c.core = none ∨ c.core = some (s.sys.nodeid, s.sys.coreid)
    let told (x : Completion) : State := { u with pkg := { u.pkg with completions := s.pkg.completions ++ [x] } }
    (own → canAccept u = true → launchBad c u = none →
      (∃ t : State, exec (.launchPacket p) s = .next t ∧ t.strand.run = .waiting ∧ t.strand.pc = 0 ∧
        (∀ i : Fin 64, 1 ≤ i.val → i.val ≤ 15 → getG t i = c.args.getD (i.val - 1) 0) ∧
        (∀ i : Fin 64, 15 < i.val → i ≠ 62 → getG t i = 0) ∧ t.sys.asid = c.asid ∧ t.sys.pl = c.pl ∧ t.sys.tvec = c.tvec ∧
        t.sys.th = false ∧ t.sys.rnpool = 256 ∧ t.store.acc = [] ∧ t.store.sems = [] ∧ t.thatch.entries = [] ∧
        t.pkg.launch.map Launch.start = some c.start ∧ t.pkg.launchNo = s.pkg.launches + 1 ∧
        t.mem.mem = (placeData s.sys.nodeid p (placed c) u).mem.mem ∧
        (∀ g, c.group = some g →
          (g.ix = 0 → rootOf t g.id = some
            { gid := g.id, n := g.n, gen := 0, contribs := [], ended := [], marks := [], step := 0 }) ∧
          (g.ix ≠ 0 → t.grp.roots = s.grp.roots))) ∧
      (∃ t : State, exec (.resumePacket p addr) s = .next t ∧ t.strand.run = .waiting ∧ t.strand.pc = addr ∧
        (∀ i : Fin 64, i ≠ 62 → getG t i = 0) ∧ t.store.acc = s.store.acc ∧ t.store.sems = s.store.sems ∧
        t.store.spad = s.store.spad ∧ t.mem.mem = s.mem.mem ∧ t.grp.roots = s.grp.roots ∧
        (∀ ix st ep, c.members = some (ix, st, ep) → t.sys.grpIx = ix.setWidth 16 ∧ t.sys.grpCi = ix.extractLsb' 16 32 ∧
          t.sys.gstepStep = st.setWidth 32 ∧ t.sys.gepoch = ep.setWidth 16))) ∧
    (p.others = [] → own →
      (canAccept u = true → ∀ x, launchBad c u = some x →
        exec (.launchPacket p) s = .next (told x) ∧ exec (.resumePacket p addr) s = .next (told x)) ∧
      (canAccept u = false → exec (.launchPacket p) s = .next u ∧ exec (.resumePacket p addr) s = .next u)) ∧
    (s.pkg.shut = true ∨ s.pkg.broughtUp = false ∨ live s = true → canAccept u = false) ∧
    (∀ n k, c.core = some (n, k) → ¬own → p.others = [] →
      (n = s.sys.nodeid → s.pkg.shut = true ∨ s.pkg.broughtUp = false →
        exec (.launchPacket p) s = .next u ∧ exec (.resumePacket p addr) s = .next u) ∧
      (n ≠ s.sys.nodeid ∨ packageTakes s = true →
        let met (t : State) : Prop := t.strand = s.strand ∧ t.store = s.store ∧
          (∃ q ∈ t.fab.peers, q.node = n.toNat ∧ q.core = k.toNat ∧ q.asid = c.asid ∧ q.launch = s.pkg.launches + 1) ∧
          (n = s.sys.nodeid → k.toNat / 16 = s.sys.coreid.toNat / 16 → ¬(live s = true ∧ c.asid = s.sys.asid) → (s.mem.segs.map Prod.fst).Pairwise (· < ·) →
            tget [] t.mem.segs c.asid.toNat = placed c)
        (launchBad c u = none →
          (∃ t : State, exec (.launchPacket p) s = .next t ∧ met t ∧ t.mem.mem = (placeData n p (placed c) u).mem.mem ∧
            (n = s.sys.nodeid → (∀ x ∈ t.fab.farAcc, x.1 / 65536 ≠ k.toNat) ∧ ∀ g, c.group = some g →
              (g.ix = 0 → rootOf t g.id = some
                { gid := g.id, n := g.n, gen := 0, contribs := [], ended := [], marks := [], step := 0 }) ∧
              (g.ix ≠ 0 → t.grp.roots = s.grp.roots)) ∧
            (∀ x ∈ t.fab.farSems, x.1 / 2048 ≠ n.toNat * 512 + k.toNat)) ∧
          (∃ t : State, exec (.resumePacket p addr) s = .next t ∧ met t ∧ t.mem.mem = s.mem.mem ∧ t.fab.farAcc = s.fab.farAcc ∧
            t.fab.farSems = s.fab.farSems ∧ t.fab.farSpad = s.fab.farSpad)) ∧
        (∀ seg husk, launchBad c u = some (.refused seg husk) →
          let r : State := if n = s.sys.nodeid then told (.refusedAt k seg husk) else u
          exec (.launchPacket p) s = .next r ∧ exec (.resumePacket p addr) s = .next r))) ∧
    (∀ l, s.strand.run = .waiting → s.pkg.launch = some l →
      let started : State := { s with strand := { s.strand with run := .running } }
      let late : Nat := if l.start.toNat < l.accepted.toNat then s.pkg.time.toNat - l.start.toNat else 0
      (s.pkg.time.toNat < l.start.toNat → exec .launchStart s = .next s) ∧
      (l.start.toNat ≤ s.pkg.time.toNat → s.sys.grpn = 0 ∨ late = 0 → exec .launchStart s = .next started) ∧
      (l.start.toNat ≤ s.pkg.time.toNat → s.sys.grpn ≠ 0 → late ≠ 0 →
        (late ≤ l.budget → exec .launchStart s = .next { started with thatch := { s.thatch with async := s.thatch.async ++
          [{ cause := .lateStart, info := BitVec.ofNat 32 (min late 0xFFFFFFFF), src := 0 }] } }) ∧
        (l.budget < late → exec .launchStart s = .next { started with grp := { s.grp with msgs := s.grp.msgs ++
          [.abortUp { gid := s.sys.grpid, gen := s.grp.gen, info := 0xFFFFFFFF, step := s.sys.gstepStep }] } }))) ∧
    (live s = true → ∃ t : State, exec .hostEndsLaunch s = .next t ∧ t.strand.run = .ended ∧ t.pkg.launch = none ∧
      t.pkg.completions = s.pkg.completions ++ [.ended] ∧ t.pkg.gated = [] ∧ t.thatch.entries = [] ∧ t.thatch.wire = 0 ∧
      t.mem.replay = [] ∧ (∀ w, w ∈ t.mem.sweeps ↔ w ∈ s.mem.sweeps ∧ w.asid ≠ s.sys.asid) ∧ t.strand.ridgeWait = none ∧
      t.pkg.own = (match s.strand.ridgeWait with | some k => s.pkg.own ^^^ BitVec.ofNat 8 (2 ^ k.toNat) | none => s.pkg.own)) ∧
    (live s = false → exec .hostEndsLaunch s = .next { s with pkg := { s.pkg with gated := [] } }) ∧
    (∃ t : State, exec .packageReset s = .next t ∧ t.strand = State.reset.strand ∧ t.pkg.broughtUp = false ∧ t.pkg.shut = false ∧
      t.mem.mem = s.mem.mem ∧ t.mem.bpl = s.mem.bpl ∧ t.pkg.launch = none ∧ t.mem.segs = [] ∧
      t.grp = State.reset.grp ∧ t.links = State.reset.links)

/-- The package and its management interface (R3, R266, R287 to R290, R298, R299, R301, R306, R308, R309, R311 to R318): a request of
another party at the home of its line is performed, refused, or held while its stack is handed over or its page is to be copied, and
what was held is performed in its order of arrival; the fills of translations, whose table reads are requests; the batches of a stack
controller; throttles, each in force until it is lifted; the trip; power states; time; bring-up; and the host's registers. Triggers and
refusals that the spec gives no number for follow log entry 34; the facts of bring-up follow log entry 9; that a write of another party
waits at its home while its frame migrates or is still to be swept follows log entry 37 (DEDUCED), and that a request, and the walk of a
fill, waits for a hand-over follows log entry 24 (DEDUCED beside R309). -/
def Obligations.PackageEvents : Prop :=
  ∀ (s : State),
    -- a management packet ends every power state
    let u : State := { s with pkg := { s.pkg with gated := [] } }
    (∀ (m : Bool) va (w : Bool), let kind := if w then 1 else 0
      (walkHeld (!m) kind va s = true → exec (.translationFill m va w) s = .next s) ∧
      (walkHeld (!m) kind va s = false →
        (∀ v pa mig sw leaf, xlate m s.sys.asid va kind s = .ok pa mig sw leaf v → exec (.translationFill m va w) s = .next v) ∧
        (∀ c, xlate m s.sys.asid va kind s = .bad c → exec (.translationFill m va w) s = .next (missRequests (!m) kind va s)))) ∧
    (∀ q : HomeReq,
      let key := memKey s.sys.nodeid.toNat q.pa
      let answered (a : Answer) (t : State) : Prop :=
        exec (.homeAccess q) s = .next t ∧ t.pkg.answers = s.pkg.answers ++ [a]
      (2 ^ 39 ≤ q.pa → exec (.homeAccess q) s = .next s) ∧
      (q.pa < 2 ^ 39 → routed s q.fromDie (homeDie s q.pa) = false →
        ∃ t, answered (.homeOwner q.pa) t ∧ t.mem = s.mem) ∧
      (homeWaits s q = true ↔ ridgingAt s q.pa = true ∨
        (homeWrites q.op = true ∧ (frameHeld s s.sys.nodeid.toNat q.pa).isSome = true)) ∧
      (q.pa < 2 ^ 39 → routed s q.fromDie (homeDie s q.pa) = true → homeWaits s q = true →
        ∃ t : State, exec (.homeAccess q) s = .next t ∧ t.mem.homeHeld = s.mem.homeHeld ++ [.req q] ∧ t.mem.mem = s.mem.mem ∧
          t.pkg.answers = s.pkg.answers ∧ ∀ a va, homeWrites q.op = true → frameHeld s s.sys.nodeid.toNat q.pa = some (a, va) →
            t.mem.sweeps = (raiseFor (if q.core < 0x1FF then q.core else s.sys.coreid.toNat) a va s).mem.sweeps) ∧
      (q.pa < 2 ^ 39 → routed s q.fromDie (homeDie s q.pa) = true → homeWaits s q = false →
        (q.op = .read → q.ecc = .clean → poisonedAt s key = false →
          ∃ t, answered (.homeData q.pa ((List.range q.size).map (fun i => byteAt s.mem.mem (key + i)))) t ∧
            t.mem.mem = s.mem.mem) ∧
        (q.op = .read → poisonedAt s key = true ∨ q.ecc = .uncorrectable →
          ∃ t, answered (.homeUe q.pa) t ∧ t.mem.mem = s.mem.mem) ∧
        (∀ d, q.op = .write d → q.ecc = .clean →
          ∃ t : State, exec (.homeAccess q) s = .next t ∧ t.mem.mem = (memWrite (writesOf key d) s).mem.mem ∧
            t.pkg.answers = s.pkg.answers) ∧
        (∀ op b cmp, q.op = .amo op b cmp → q.ecc = .clean → poisonedAt s key = false →
          let old := readLe s.mem.mem key q.size
          ∃ t, answered (.homeData q.pa (leBytes q.size old)) t ∧
            (atomWrites op old (cmp.toNat % 2 ^ (8 * q.size)) = false → t.mem.mem = s.mem.mem)))) ∧
    -- what waits at its home: alone there, it is performed once it must wait no longer
    (∀ x, s.mem.homeHeld = [x] → (itemWaits s x = true → releaseHome s = s) ∧ (itemWaits s x = false →
      releaseHome s = itemNow x { s with mem := { s.mem with homeHeld := [] } })) ∧
    (∀ k n, ∃ t : State, exec (.mcBatch k n) s = .next t ∧
      let m := serve n (s.mem.mc[k]).marked
      m.length = (s.mem.mc[k]).marked.length - n ∧
      (m = [] → t.mem.mc[k] = formBatch { s.mem.mc[k] with marked := [] }) ∧
      (m ≠ [] → t.mem.mc[k] = { s.mem.mc[k] with marked := m })) ∧
    (∀ l r, nextServed l = some r → r ∈ l ∧ (r.src = background → ∀ (i : Nat) x, l[i]? = some x →
      x.src = background ∨ ∃ j y, j < i ∧ l[j]? = some y ∧ y.line = x.line)) ∧
    (∀ t : ThrottleRec, traceOn s = false →
      let log := s.pkg.thlog ++ [{ r := t, oldClk := s.pkg.clk, oldMv := s.pkg.mv, oldLim := s.pkg.lim }]
      let logged (inForce : List (Fin 4 × BitVec 4)) : State := { s with pkg := { s.pkg with
        clk := t.newClk, mv := t.newMv, lim := t.newLim, thlog := log.drop (log.length - 1024), throttled := inForce } }
      (throttleDue t s = true → exec (.throttle t) s = .next (logged (s.pkg.throttled ++ [(t.cause, t.dies)]))) ∧
      (throttleDue t s = false → exec (.throttle t) s = .next s) ∧
      (s.pkg.throttled.contains (t.cause, t.dies) = true →
        exec (.throttleLift t) s = .next (logged (s.pkg.throttled.erase (t.cause, t.dies)))) ∧
      (s.pkg.throttled.contains (t.cause, t.dies) = false → exec (.throttleLift t) s = .next s) ∧
      (t.cause = 0 → (throttleDue t s = true ↔ 1050 < t.measured.toNat)) ∧
      (t.cause = 1 → (throttleDue t s = true ↔
        min 6000 s.pkg.curLimit < t.measured.toNat ∧ 2460000 ≤ t.measured.toNat * 420)) ∧
      (t.cause = 3 → (throttleDue t s = true ↔ s.pkg.pwrbud < t.measured.toNat))) ∧
    (∀ d, (1150 < d → ∃ t : State, exec (.thermalTrip d) s = .next t ∧ t.pkg.trip = true ∧ t.pkg.repl = true ∧
        t.pkg.broughtUp = false ∧ t.pkg.shut = true ∧ (live s = true → t.strand.run = .tripped) ∧
        ∀ k : Fin 24, (t.links[k]).state = .down) ∧
      (d ≤ 1150 → exec (.thermalTrip d) s = .next s)) ∧
    (∀ p, mayEnter s p = true → s.pkg.gated.contains p = false →
      exec (.powerStateEntry p) s = .next { s with pkg := { s.pkg with gated := s.pkg.gated ++ [p] } }) ∧
    (∀ p, ∃ t : State, exec (.wakeEvent p) s = .next t ∧ t.pkg.gated.contains p = false ∧ t.strand = s.strand) ∧
    (∀ o : Int, ∃ t : State, exec (.ptpMessage o) s = .next t ∧ t.pkg.timeOff = o ∧ t.pkg.time = s.pkg.time ∧
      t.pkg.tlos = (s.pkg.tlos || decide (100000 < o.natAbs))) ∧
    (∀ b : BringUp, (s.pkg.broughtUp = true ∨ s.pkg.shut = true → exec (.powerOn b) s = .next s) ∧
      (s.pkg.broughtUp = false → s.pkg.shut = false → (∀ d : Fin 4, s.mem.bpl[d] = []) →
        ∃ t : State, exec (.powerOn b) s = .next t ∧ t.pkg.broughtUp = true ∧ t.pkg.own = 0 ∧ t.store.fenced = b.badQuads ∧
          t.sys.nodeid = b.node ∧ t.pkg.ptpDomain = b.domain ∧
          -- step 7: the arrays of this core and of the others of the package
          (let failed := b.badQuads ≠ 0 ∨ ∃ x ∈ b.badOthers, x.1 ≠ s.sys.coreid ∧ x.2 ≠ 0
           (failed → t.pkg.qf = true ∧ t.pkg.repl = true) ∧ (¬failed → t.pkg.qf = s.pkg.qf)) ∧
          (b.badOthers = [] → t.thatch.partnersReduced = s.thatch.partnersReduced) ∧
          (∀ x, b.badOthers = [x] → x.1 ≠ s.sys.coreid → x.2 ≠ 0 →
            t.thatch.partnersReduced = (s.thatch.partnersReduced || decide (x.1.toNat / 4 = s.sys.coreid.toNat / 4)) ∧
              t.pkg.fencemap = tset 0 (tset 0 s.pkg.fencemap s.sys.coreid.toNat b.badQuads) x.1.toNat x.2) ∧
          t.fab.podcfg = (s.fab.podcfg &&& 0xF00FF000) ||| b.node.setWidth 64 ∧
          (∀ p : Fin 24, (t.links[p]).state =
            if edgePort t p then .down else if b.linksDown.getLsbD p.val then .retired else .up) ∧
          (∀ (p : Fin 24) n, neighbour t (portAxis p) (portMinus p) = some n → (t.links[p]).peer = BitVec.ofNat 12 n) ∧
          (b.lock = true → t.pkg.time = b.time) ∧ (b.lock = false → t.pkg.tlos = true))) ∧
    (∀ w, (1000 ≤ w → w ≤ 3000 → exec (.pwrbudWrite w) s = .next { u with pkg := { u.pkg with pwrbud := w } }) ∧
      (w < 1000 ∨ 3000 < w → exec (.pwrbudWrite w) s = .next u)) ∧
    (∀ d : Fin 4, ∃ t : State, exec (.cecntClear d) s = .next t ∧ t.pkg.cecnt[d] = 0 ∧
      t.pkg.answers = s.pkg.answers ++ [.cecnt d s.pkg.cecnt[d]]) ∧
    (∀ d : Fin 4, ∃ t : State, exec (.faqPop d) s = .next t ∧ (t.mem.faq[d]).entries = (s.mem.faq[d]).entries.tail ∧
      t.pkg.answers = s.pkg.answers ++ [.faq d ((s.mem.faq[d]).entries.head?.map (fun e =>
        (BitVec.ofNat 64 (2 ^ 63 + e.kind.toNat * 2 ^ 60 + e.core.toNat * 2 ^ 48 + e.pa), e.time))) (s.mem.faq[d]).overflow]) ∧
    (∀ f, (s.mem.bpl[bplShare f]).contains f = false → (s.mem.bpl[bplShare f]).length < 1024 →
      ∃ t : State, exec (.bplAdd f) s = .next t ∧ t.mem.bpl[bplShare f] = sinsert f s.mem.bpl[bplShare f]) ∧
    (∀ f, ∃ t : State, exec (.bplRemove f) s = .next t ∧ t.mem.bpl[bplShare f] = serase f s.mem.bpl[bplShare f]) ∧
    (let told (i : Instr) (a : Answer) : Prop :=
       exec i s = .next { u with pkg := { u.pkg with answers := s.pkg.answers ++ [a] } }
     told .thlogRead (.thlog s.pkg.thlog) ∧ told .fencemapRead (.fencemap s.pkg.fencemap)) ∧
    (∀ m, ∃ t : State, exec (.pkgstatClear m) s = .next t ∧ t.pkg.answers = s.pkg.answers ++ [.pkgstat (pkgstatWord s)] ∧
      t.pkg.own = s.pkg.own ∧ t.pkg.gated = [] ∧ t.pkg.trip = (s.pkg.trip && !m.getLsbD 8) ∧
      t.pkg.tlos = (s.pkg.tlos && !m.getLsbD 7) ∧ t.pkg.bpf = (s.pkg.bpf && !m.getLsbD 6) ∧
      t.pkg.ddlStat = (s.pkg.ddlStat && !m.getLsbD 5) ∧ t.pkg.lnk = (s.pkg.lnk && !m.getLsbD 4) ∧
      t.pkg.qf = (s.pkg.qf && !m.getLsbD 3) ∧ t.pkg.repl = (s.pkg.repl && !m.getLsbD 0))

/-- Links (R320 to R335): what goes out and comes in on a link that is up, each virtual channel's packet apart from the others', replays
and acknowledgements, each channel with buffers of its own, training, and a retrain that the peer asks for, the leaky bucket, retirement
with its notice, behind which every packet takes another link or is lost, keys and their switch, circuit moves, and the pod's shape. The
states of a link at their edges follow log entry 36; the first slot that is loaded, KHOLD at the last counter value, BKT_CLEAR of a
retired link and a TRAIN flit on a link that is up follow log entry 40; which virtual channel a link serves next, and the place of a
packet of a retired link, follow log entry 37. -/
def Obligations.LinkEvents : Prop :=
  ∀ (s : State) (p : Fin 24),
    let l := s.links[p]
    let now := s.pkg.time
    let becomes (i : Instr) (m : Link) : Prop := exec i s = .next { s with links := s.links.set p m }
    -- a management packet ends every power state
    let u : State := { s with pkg := { s.pkg with gated := [] } }
    let managed (i : Instr) (m : Link) : Prop := exec i s = .next { u with links := s.links.set p m }
    -- sending: a CTRL flit, a replay, a marker, a new flit
    (l.state = .up →
      (∀ c cs v, l.ctrl = c :: cs → becomes (.flitTransmit ⟨p, v⟩) { l with ctrl := cs, sent := l.sent ++ [c] }) ∧
      (l.ctrl = [] → ∀ n ns v, l.resend = n :: ns → ∃ m, becomes (.flitTransmit ⟨p, v⟩) m ∧ m.resend = ns ∧
        m.sent = l.sent ++ [((l.buffer.find? (fun f => f.seq == n)).map SentFlit.raw).getD 0] ∧
        m.buffer.map SentFlit.raw = l.buffer.map SentFlit.raw) ∧
      (l.ctrl = [] → l.resend = [] → ∀ v, l.moving ≠ none ∨ 512 ≤ l.buffer.length → becomes (.flitTransmit ⟨p, v⟩) l) ∧
      (l.ctrl = [] → l.resend = [] → l.moving = none → l.buffer.length < 512 → ∀ v,
        (markerReady l = true → ∃ m, becomes (.flitTransmit ⟨p, v⟩) m ∧ m.txks = !l.txks ∧ m.queue = l.queue ∧
          m.nextSeq = l.nextSeq + 1) ∧
        (markerReady l = false → l.khold = true → becomes (.flitTransmit ⟨p, v⟩) l) ∧
        -- a flit of the channel that is served: the others' flits, which may stand before it, wait
        (markerReady l = false → l.khold = false →
          (∀ os q qs, l.queue = os ++ q :: qs → (∀ o ∈ os, o.vc ≠ v) → q.vc = v → ∃ m, becomes (.flitTransmit ⟨p, v⟩) m ∧
            m.queue = os ++ qs ∧ m.nextSeq = l.nextSeq + 1 ∧ m.buffer.map SentFlit.req = l.buffer.map SentFlit.req ++ [q]) ∧
          ((∀ o ∈ l.queue, o.vc ≠ v) → becomes (.flitTransmit ⟨p, v⟩) l)))) ∧
    (l.state ≠ .up → (∀ v, exec (.flitTransmit ⟨p, v⟩) s = .next s) ∧ ∀ raw ok, exec (.flitArrival p raw ok) s = .next s) ∧
    -- receiving
    (∀ raw ok, l.state = .up → flitBad l raw ok = false → carriesSeq raw = true → flitType raw ≠ flitCtrl →
      (flitSeq raw ≠ l.rxSeq + 1 → (l.rxSeq - flitSeq raw).toNat < 2 ^ 15 →
        becomes (.flitArrival p raw ok) (sendCtrl false l)) ∧
      (flitSeq raw ≠ l.rxSeq + 1 → 2 ^ 15 ≤ (l.rxSeq - flitSeq raw).toNat → l.nakOut = false →
        becomes (.flitArrival p raw ok) (sendCtrl true l)) ∧
      (flitSeq raw = l.rxSeq + 1 → ∃ t : State, exec (.flitArrival p raw ok) s = .next t ∧
        (raw.getLsbD 24 = false → (t.links[p]).rxSeq = flitSeq raw) ∧
        (flitType raw = flitData → let q := flitReqOf l raw
          (q.last = false → (t.links[p]).partialPkt = l.partialPkt.set (vcIx q) (l.partialPkt[vcIx q] ++ [q])) ∧
          (q.last = true → (t.links[p]).partialPkt = l.partialPkt.set (vcIx q) [] ∧
            (t.links[p]).delivered = l.delivered ++ [l.partialPkt[vcIx q] ++ [q]])))) ∧
    (∀ raw ok, l.state = .up → flitBad l raw ok = false → flitType raw = flitTrain →
      (l.bkt ≠ 8 → becomes (.flitArrival p raw ok) { l with
        state := .retraining, since := now, rtcnt := if l.rtcnt = 255 then 255 else l.rtcnt + 1, bkt := l.bkt + 1 }) ∧
      (l.bkt = 8 → ∃ t : State, exec (.flitArrival p raw ok) s = .next t ∧ (t.links[p]).state = .retired ∧
        (t.links[p]).noticeDue = true ∧ t.pkg.lnk = true)) ∧
    (∀ raw ok, l.state = .up → flitBad l raw ok = true → flitSeq raw = l.rxSeq + 1 → carriesSeq raw = true →
      becomes (.flitArrival p raw ok) (sendCtrl true l)) ∧
    (∀ raw ok, l.state = .up → flitBad l raw ok = false → flitType raw = flitCtrl → flitNak raw = false →
      let m := settleKeys { ackUpTo (flitAck raw) now l with peerRx := raw.extractLsb' 128 2 }
      (l.moving = none ∨ (ackUpTo (flitAck raw) now l).buffer ≠ [] → becomes (.flitArrival p raw ok) m) ∧
      (∀ peer, l.moving = some peer → (ackUpTo (flitAck raw) now l).buffer = [] →
        ∃ x, becomes (.flitArrival p raw ok) x ∧ x.state = .planned ∧ x.peer = peer ∧ x.moving = none)) ∧
    -- replay, training, the bucket
    (∀ f fs, l.state = .up → l.buffer = f :: fs → l.resend = [] → f.resent = false → f.fails = 0 →
      ((l.advanced + 2000).toNat ≤ now.toNat → becomes (.ackTimeout p)
        { l with resend := l.buffer.map SentFlit.seq, advanced := now }) ∧
      (now.toNat < (l.advanced + 2000).toNat → exec (.ackTimeout p) s = .next s)) ∧
    (∀ a b v, (l.state = .training ∨ l.state = .retraining) → a.wid = b.wid → a.spd = b.spd → a.lanes = b.lanes →
      ∃ m, becomes (.retrainComplete p a b v) m ∧ m.state = .up ∧ m.peer = b.node ∧ m.lanes = a.lanes ∧
        m.resend = l.buffer.map SentFlit.seq ∧ m.drained = l.drained) ∧
    (l.state = .planned → (edgePort s p = false → becomes (.trainingRestart p) { l with state := .training, since := now }) ∧
      (edgePort s p = true → exec (.trainingRestart p) s = .next s)) ∧
    (l.state = .up → (l.drained + 600000000000).toNat ≤ now.toNat →
      becomes (.bucketDrain p) { l with bkt := if l.bkt = 0 then 0 else l.bkt - 1, drained := now }) ∧
    -- retirement
    (l.state = .retired → l.noticeDue = true → l.buffer = [] →
      let late : Bool := decide ((l.since + 1000000).toNat ≤ now.toNat)
      let bare : Link := { l with queue := [], buffer := [], kept := [], resend := [], ctrl := [], noticeDue := false }
      let left : State := { s with links := s.links.set p bare }
      (l.queue = [] → l.kept = [] →
        (∀ seq,
          (l.restart = false → becomes (.linkStateNotice p seq) bare) ∧
          (l.restart = true → ∃ m, becomes (.linkStateNotice p seq) m ∧ m.state = .training ∧ m.bkt = 0 ∧ m.nextSeq = 0)) ∧
        (late = true → l.restart = false → becomes (.noticeTimeout p) bare)) ∧
      -- a packet that had not begun takes another link, ahead of what is queued there
      (∀ f, l.queue = [f] → l.kept = [] → f.first = true → f.last = true → ∀ n,
        otherPort left p f.src.toNat f.dst.toNat = some n →
        let sent (t : State) : Prop :=
          (t.links[n]).queue = insertAhead [{ f with vc := reroutedVc left p n f.vc }] (left.links[n]).queue
        (∀ seq, ∃ t : State, exec (.linkStateNotice p seq) s = .next t ∧ sent t) ∧
        (late = true → ∃ t : State, exec (.noticeTimeout p) s = .next t ∧ sent t)) ∧
      -- one that had begun is lost for want of a notice: of this package's, the record meets REMOTE
      (∀ f q e, l.queue = [] → l.kept = [f] → f.last = false → late = true → l.restart = false →
        packetOf s f = some q → ownPacket s q = true → ofRecord q.body = true → findEntry s q.srcSlot = some e →
        let gone : State := { left with fab := { s.fab with net := s.fab.net.erase q } }
        let e' : Entry := { e with acks := e.acks - 1 }
        (entryEng e ≠ .c → exec (.noticeTimeout p) s = .next (engineCause e' { cause := .remote } gone)) ∧
        -- a C.CKPT sends its page again; one that is stopped meets the cause then
        (entryEng e = .c → e.state = .running →
          exec (.noticeTimeout p) s = .next (engineCause e' { cause := .remote } (unsend e.seq gone))) ∧
        (entryEng e = .c → e.state ≠ .running → exec (.noticeTimeout p) s = .next (putEntry e' (unsend e.seq gone))))) ∧
    (l.state ≠ .retired ∨ l.noticeDue = false →
      exec (.noticeTimeout p) s = .next s ∧ ∀ seq, exec (.linkStateNotice p seq) s = .next s) ∧
    (l.state = .retired → (l.noticeDue = true → managed (.bktClear p) { l with restart := true }) ∧
      (l.noticeDue = false → ∃ m, managed (.bktClear p) m ∧ m.bkt = 0 ∧ m.state = .training ∧ m.nextSeq = 0 ∧
        m.rxSeq = 0xFFFF)) ∧
    (l.state ≠ .retired → managed (.bktClear p) { l with bkt := 0 }) ∧
    -- keys
    (∀ slot key salt, ((txSlot l).valid = true → exec (.keySlotLoad p true l.txks key salt) s = .next u) ∧
      ((slot ≠ l.txks ∨ (txSlot l).valid = false) → ∃ m, managed (.keySlotLoad p true slot key salt) m ∧
        (m.tx[slotIx slot]).key = key ∧ (m.tx[slotIx slot]).valid = true ∧ (m.tx[slotIx slot]).ctr = 0 ∧
        m.txks = if (l.tx[0]).valid = false ∧ (l.tx[1]).valid = false then slot else l.txks) ∧
      ((l.rx[slotIx slot]).valid = true → exec (.keySlotLoad p false slot key salt) s = .next u) ∧
      ((l.rx[slotIx slot]).valid = false → ∃ m, managed (.keySlotLoad p false slot key salt) m ∧
        (m.rx[slotIx slot]).key = key ∧ (m.rx[slotIx slot]).valid = true ∧ m.ctrl.length = l.ctrl.length + 1)) ∧
    managed (.slotSwitch p) { l with switching := true } ∧
    (∀ on, ∃ m, managed (.enreqWrite p on) m ∧ m.enreq = on ∧
      m.khold = (((txSlot l).valid && decide (2 ^ 32 - 1 ≤ (txSlot l).ctr)) || (on && !(l.tx[0]).valid && !(l.tx[1]).valid))) ∧
    -- circuits and the pod
    (∀ peer, (optical s p = false ∨ l.state ≠ .up → exec (.circuitMove p peer) s = .next s) ∧
      (optical s p = true → l.state = .up → (l.buffer = [] → ∃ m, becomes (.circuitMove p peer) m ∧
          m.state = .planned ∧ m.peer = peer) ∧
        (l.buffer ≠ [] → becomes (.circuitMove p peer) { l with moving := some peer }))) ∧
    (∀ v, ∃ t : State, exec (.podcfgWrite v) s = .next t ∧ t.sys.nodeid = v.setWidth 12 ∧
      t.fab.podcfg = (v &&& 0xF00FF000) ||| (v.setWidth 12).setWidth 64 ∧ t.strand = s.strand ∧
      t.links[p] = if edgePort t p then { l with state := .down, since := now } else l)

/-- Packets at their destination (R336 to R344, R348 to R352): a plain packet on its way whose flits have gone, the first of its route,
is performed there, which makes a request at the home of each line that it accesses and ends the power states of what it reaches (R290,
R314); one that writes a page of a sweep or of a migration, or reaches a stack whose hand-over is under way, has come, and stands behind
what waits at the homes of the package, in its order of arrival (R296, R301, R308, R309); a read of this core brings its elements into W
(R339), an atomic the old value; what the destination refuses comes back, and fails its record with REMOTE, or with UE at a poisoned
line; marked packets are held, released, cancelled or expire, and one that finds the hold queue full waits at its issuer. Other cores
and nodes are data of State (log entries 4 and 37); which packets keep their order, and the KIND of a fabric port's consumption, follow
log entry 40; that a write waits for a page that migrates or is still to be swept follows log entry 37, and that a packet waits for a
hand-over log entry 24. -/
def Obligations.ArrivalEvents : Prop :=
  ∀ (s : State) (p : Packet),
    let erased : State := { s with fab := { s.fab with net := s.fab.net.erase p } }
    let taken : State := wakePacket p erased
    let at_ (pa : Nat) := memKey p.dstNode pa
    let sorted : Prop := (s.store.sems.map Prod.fst).Pairwise (· < ·)
    -- a plain packet that waits where it has come: for its page, which it raises, or for the hand-over of its stack
    (s.fab.net.contains p = true → p.mark = none → packetHeld s p = true →
      ownPacket s p = false ∨ (flitsWait s p = false ∧ overtakes s p = false) →
      let raised : State := match heldPage s p with
        | some x => raiseFor (if p.srcNode = s.sys.nodeid.toNat then p.srcCore else p.dstCore) x.1 x.2 erased
        | none => erased
      let waits : State := { raised with mem := { raised.mem with homeHeld := s.mem.homeHeld ++ [.pkt p] } }
      (∀ ws, p.body = .write ws → exec (.remoteWriteArrival p) s = .next waits) ∧
      (∀ bs, p.body = .read bs → exec (.remoteReadArrival p) s = .next waits) ∧
      (∀ pa wide op b cmp, p.body = .amo pa wide op b cmp → exec (.remoteAmoArrival p) s = .next waits)) ∧
    -- a packet of another core, on its way
    (s.fab.net.contains p = true → ownPacket s p = false → p.mark = none →
      (∀ ws, p.body = .write ws → packetHeld s p = false → ws.any (fun w => addrRefused s p w.addr) = false →
        exec (.remoteWriteArrival p) s = .next (memWrite (ws.map (fun w => { w with addr := at_ w.addr })) taken)) ∧
      (∀ bs, p.body = .read bs → packetHeld s p = false → bs.any (addrRefused s p) = false →
        (∀ pa ∈ bs, poisonedAt s (at_ pa) = false) → exec (.remoteReadArrival p) s = .next taken) ∧
      (∀ pa wide op b cmp, p.body = .amo pa wide op b cmp → packetHeld s p = false →
        let size := if wide then 8 else 4
        let old := readLe s.mem.mem (at_ pa) size
        let c := cmp.toNat % 2 ^ (8 * size)
        (∀ k, k < size → addrRefused s p (k + pa) = false ∧ poisonedAt s (at_ (k + pa)) = false) →
        (atomWrites op old c = true → exec (.remoteAmoArrival p) s = .next (memWrite (writesOf (at_ pa)
          (leBytes size (atomNew op (8 * size) old (b.toNat % 2 ^ (8 * size)) c))) taken)) ∧
        (atomWrites op old c = false → exec (.remoteAmoArrival p) s = .next taken)) ∧
      (∀ n v, p.body = .sem n v → isOwn s p.dstNode p.dstCore = true → coreRuns s p = true → sorted →
        ∃ t : State, exec (.remoteSemArrival p) s = .next t ∧ getSem t n = getSem s n + v ∧ (∀ k, k ≠ n → getSem t k = getSem s k)) ∧
      (∀ r b, p.body = .post r b → coreRuns s p = false → exec (.remotePostArrival p) s = .next taken) ∧
      (∀ r b, p.body = .post r b → isOwn s p.dstNode p.dstCore = true → coreRuns s p = true → reserveLeft s p ≠ 0 →
        postRefused taken r b = false → s.thatch.dir = [] → (∀ x ∈ s.thatch.entries, readEdges taken (b.w) x = []) →
        recTask r ≠ some .halo → ∃ t : State, exec (.remotePostArrival p) s = .next t ∧
          t.thatch.entries.length = s.thatch.entries.length + 1) ∧
      (∀ w bits fmt first bs last sem, p.body = .halo w bits fmt first bs last sem →
        (coreRuns s p = false → exec (.haloWriteArrival p) s = .next taken) ∧
        (isOwn s p.dstNode p.dstCore = true → coreRuns s p = true → boxWriteRefused taken w bits = false →
          let written := (boxWrites taken w first bs).foldl (fun s x => applyEffect s (.spad x)) taken
          (sem = none ∨ last = false → exec (.haloWriteArrival p) s = .next written) ∧
          (∀ n, sem = some n → last = true → sorted → ∃ t : State, exec (.haloWriteArrival p) s = .next t ∧
            t.store.spad = written.store.spad ∧ getSem t n = getSem s n + 1))) ∧
      (∀ w bits fmt first bs last sem, p.body = .red w bits fmt first bs last sem → isOwn s p.dstNode p.dstCore = true →
        coreRuns s p = true → boxWriteRefused taken w bits = false → hkFmtCode (boxHusk taken w) = fmt →
        (sem = none ∨ last = false) → exec (.redWriteArrival p) s =
          .next ((boxWrites taken w first bs).foldl (fun s x => applyEffect s (.spad x)) taken))) ∧
    -- a packet of this core: once its flits have gone (R319), in the order of its route, with its answer
    (s.fab.net.contains p = true → ownPacket s p = true → flitsWait s p = true → exec (.remoteWriteArrival p) s = .next s ∧
      exec (.remoteReadArrival p) s = .next s ∧ exec (.markedPacketArrival p) s = .next s) ∧
    (s.fab.net.contains p = true → ownPacket s p = true → overtakes s p = true →
      exec (.remoteWriteArrival p) s = .next s ∧ exec (.remoteReadArrival p) s = .next s ∧
        exec (.remoteSemArrival p) s = .next s) ∧
    (∀ e, s.fab.net.contains p = true → ownPacket s p = true → flitsWait s p = false → overtakes s p = false → p.mark = none →
      packetHeld s p = false → findEntry s p.srcSlot = some e →
      (∀ ws, p.body = .write ws → ws.any (fun w => addrRefused s p w.addr) = false → exec (.remoteWriteArrival p) s =
        .next (putEntry { e with acks := e.acks - 1 } (memWrite (ws.map (fun w => { w with addr := at_ w.addr })) taken))) ∧
      (∀ bs, p.body = .read bs →
        (bs.any (addrRefused s p) = true → exec (.remoteReadArrival p) s = .next (toNet [refusal p false] taken)) ∧
        (bs.any (addrRefused s p) = false → (∀ pa ∈ bs, poisonedAt s (at_ pa) = false) →
          let es := (readRange taken (boxA e) p.idx).flatMap (fun n =>
            elemEffects taken (boxW e) n (remoteRead taken p.dstNode (boxA e) n))
          (recRst e.record = false → exec (.remoteReadArrival p) s =
            .next (settleRead p.srcSlot (applyEffects es (putEntry { e with acks := e.acks - 1 } taken)))) ∧
          (recRst e.record = true → exec (.remoteReadArrival p) s =
            .next (settleRead p.srcSlot (putEntry { e with acks := e.acks - 1, buffered := e.buffered ++ es } taken)))) ∧
        (∀ pa, bs.any (addrRefused s p) = false → bs.find? (fun x => poisonedAt s (at_ x)) = some pa →
          let t := fabricConsumed p.dstNode pa taken
          exec (.remoteReadArrival p) s =
            .next (failAt e .ue (some (BitVec.ofNat 64 (remoteVa t (boxA e) pa / 64 * 64))) t))) ∧
      (∀ pa wide op b cmp, p.body = .amo pa wide op b cmp →
        (∀ k, k < (if wide then 8 else 4) → addrRefused s p (k + pa) = false ∧ poisonedAt s (at_ (k + pa)) = false) →
        ∃ t : State, exec (.remoteAmoArrival p) s = .next t ∧ ∃ x : Entry, findEntry t p.srcSlot = some x ∧
          x.scalar = some (BitVec.ofNat 64 (readLe s.mem.mem (at_ pa) (if wide then 8 else 4))) ∧ x.acks = e.acks - 1)) ∧
    -- a marked packet on its way, and what becomes of it
    (∀ pip, s.fab.net.contains p = true → (ownPacket s p = false ∨ (flitsWait s p = false ∧ overtakes s p = false)) →
      p.mark = some pip →
      (∀ full, p.body ≠ .refused full) →
      (tripleExpired s p.dstNode p.dstCore p.srcNode p.srcCore pip = true → exec (.markedPacketArrival p) s =
        .next (toNet [expiredNotice p.dstNode p.dstCore p.srcNode p.srcCore pip] taken)) ∧
      (tripleExpired s p.dstNode p.dstCore p.srcNode p.srcCore pip = false →
        (coreRefuses s p = true →
          exec (.markedPacketArrival p) s = .next (if ownPacket s p then toNet [refusal p false] taken else taken)) ∧
        (coreRefuses s p = false → (s.fab.held.filter (heldBy p.dstNode p.dstCore)).length < 64 →
          exec (.markedPacketArrival p) s = .next { taken with fab := { taken.fab with held := s.fab.held ++
            [{ node := p.dstNode, core := p.dstCore, time := s.pkg.time, p := p }] } }) ∧
        (∀ e, coreRefuses s p = false → 64 ≤ (s.fab.held.filter (heldBy p.dstNode p.dstCore)).length →
          ownPacket s p = true → findEntry s p.srcSlot = some e → exec (.markedPacketArrival p) s =
            .next (toNet [refusal p true] (putEntry { e with bounced := e.bounced ++ [p] } taken))))) ∧
    (∀ pip, s.fab.net.contains p = true → (ownPacket s p = false ∨ (flitsWait s p = false ∧ overtakes s p = false)) →
      let dropped := dropTriple p.dstNode p.dstCore p.srcNode p.srcCore pip taken
      (p.body = .release pip → exec (.releaseArrival p) s = .next (((s.fab.held.filter (fun h =>
        heldBy p.dstNode p.dstCore h && ofTriple p.srcNode p.srcCore pip h.p)).map Held.p).foldl releaseOne dropped)) ∧
      (p.body = .cancel pip → exec (.cancelArrival p) s =
        .next (if ownPacket s p then failMarked (p.dstNode, p.dstCore) pip dropped else dropped))) ∧
    (∀ i h, s.fab.held[i]? = some h →
      (holderPipexp s h.node h.core ≤ heldFor s h → ∃ t : State, exec (.holdExpiry i) s = .next t ∧
        t.fab.held.any (fun x => heldBy h.node h.core x && ofTriple h.p.srcNode h.p.srcCore (h.p.mark.getD 0) x.p) = false) ∧
      (heldFor s h < holderPipexp s h.node h.core → exec (.holdExpiry i) s = .next s)) ∧
    (∀ pip, p.body = .expired pip → toOwn s p = true → s.fab.net.contains p = true →
      exec (.expiredArrival p) s = .next (failMarked (p.srcNode, p.srcCore) pip erased)) ∧
    -- a refusal at the issuer
    (∀ full, p.body = .refused full → toOwn s p = true → s.fab.net.contains p = true →
      let is (t : State) : Prop := exec (.remoteRefusalArrival p) s = .next t
      (findEntry s p.srcSlot = none → is erased) ∧
      (∀ e, findEntry s p.srcSlot = some e →
        let q := (e.bounced.find? (answers p)).getD p
        (full = true → is (putEntry { e with
          acks := e.acks - 1, bounced := e.bounced.erase q, waiting := e.waiting ++ [{ q with mark := none }] } erased)) ∧
        (full = false → entryEng e ≠ .c → is (engineCause { e with acks := e.acks - 1 } { cause := .remote } erased)) ∧
        (full = false → entryEng e = .c → e.state = .running →
          is (engineCause { e with acks := e.acks - 1 } { cause := .remote } (unsend e.seq erased))) ∧
        -- a C.CKPT that is stopped sends its page again, and meets the cause then
        (full = false → entryEng e = .c → e.state ≠ .running → is (putEntry { e with acks := e.acks - 1 } (unsend e.seq erased))))) ∧
    (p.body = .refused false → toOwn s p = true → s.fab.net.contains p = false →
      (s.fab.net.find? (fun q => ownPacket s q && !flitsWait s q && answers p q) = none → exec (.remoteRefusalArrival p) s = .next s) ∧
      (∀ q e, s.fab.net.find? (fun q => ownPacket s q && !flitsWait s q && answers p q) = some q → findEntry s p.srcSlot = some e →
        entryEng e ≠ .c → exec (.remoteRefusalArrival p) s = .next (engineCause { e with acks := e.acks - 1 }
          { cause := .remote } { s with fab := { s.fab with net := s.fab.net.erase q } })))

/-- The page tasks (R252, R253, R296, R297, R300, R301). C.CPYPG faults with the cause of its walk, and waits while another migrates the
page or a sweep has it, while a stack in which the page, its frame or a table of its walk stands is handed over, and, before it marks
the page, for every earlier access; else it marks the page migrating and copies its lines, with a request for each table read and for
each line that it reads and writes (R290, R314), or reads the lines and writes none where one is poisoned (status 1) or the frame
refused (status 2); behind the copy, the page is remapped in one update, and the writes that waited for it proceed to the new frame, or
the mark is taken back with the entries that say why. C.CKPT waits for every earlier access and while a table that it reads is in a
stack that is handed over, then faults with the first cause that its reads of the tables meet (R173), or takes its pages, sets SW and
clears D in their leaves; behind the last page it is done and delivers how many pages it copied and how many of them were poisoned. That
the remaining lines are planned at once is the model's choice (log entry 20); the waits follow log entry 29, and that both tasks wait
for a hand-over log entry 24 (DEDUCED beside R309); the edges of both tasks and which pages are dirty follow log entry 28; which queue
takes the entry of a frame with no home is log entry 40. -/
def Obligations.PageTasks : Prop :=
  ∀ (slot n : Nat) (s : State) (e : Entry),
    (Runs .cpypg slot e s →
      let va := recImm e.record
      let frame := recXf e.record
      let moves := recMod e.record % 2 = 1
      let ends (p : State × Work) : Prop :=
        let t := doUnits (n + 1) p.2 e p.1
        (pageEnds slot s t = none → exec (.cCpypg slot n) s = .next t) ∧
        (∀ x, pageEnds slot s t = some x → recTask x.record = some .cpypg → exec (.cCpypg slot n) s = .next (endPage x t))
      let fails (c : Cause) : Prop := ends (s, { cause := some { cause := c, faddr := some (BitVec.ofNat 64 va) } })
      (s.pkg.ridging ≠ 0 → tablesRidge s va = true → ends (s, { waits := true })) ∧
      (s.pkg.ridging = 0 ∨ tablesRidge s va = false → (∀ c line, pageWalk s va = .bad c line → fails c) ∧
       ∀ l, pageWalk s va = .leaf l →
        let waits := (e.index = 0 ∧ (migrating s slot l = true ∨ pteSw l.pte = true)) ∨
          (e.index = 0 ∧ moves ∧ memoryPending s = true)
        let src := l.base + va % l.size
        (waits → ends (s, { waits := true })) ∧
        (¬waits → 2 ^ 39 ≤ src → fails .seg) ∧
        (¬waits → src < 2 ^ 39 → reachesHome s src = false → fails .owner) ∧
        (¬waits → src < 2 ^ 39 → reachesHome s src = true → ridgingAt s src = true ∨ ridgingAt s frame = true →
          ends (s, { waits := true })) ∧
        (¬waits → src < 2 ^ 39 → reachesHome s src = true → ridgingAt s src = false → ridgingAt s frame = false →
          let walked := pageRequestsAt va s
          let mark (t : State) : State :=
            if e.index = 0 ∧ moves then invalidate (mapsVa s.sys.asid va) (setPte l.at_ (setBit 60 true) t) else t
          let none_ (status : Word) : Work := { units := [{ step := 512 - e.index }], scalar := some status }
          let asked : State := ((frameLines src).drop e.index ++ (frameLines frame).drop e.index).foldl (fun t x => requestAt x t) walked
          let readAll : State := ((frameLines src).drop e.index).foldl (fun t x => requestAt x t) walked
          (poisonedLines s src e.index ≠ [] → ends (mark readAll, none_ 1)) ∧
          (poisonedLines s src e.index = [] → frameBad s frame = true → ends (mark readAll, none_ 2)) ∧
          (poisonedLines s src e.index = [] → frameBad s frame = false → ends (mark asked,
            { units := (List.range (512 - e.index)).map (fun k =>
                { effects := (writesOf (memKey (ownNode s) (frame + 64 * (e.index + k)))
                    (bytesAt s.mem.mem (memKey (ownNode s) (src + 64 * (e.index + k))) 64)).map .mem })
              scalar := some 0 }))))) ∧
    (∀ l, pageLeaf s (recImm e.record) = some l →
      let va := recImm e.record
      let src := l.base + va % l.size
      let moves := recMod e.record % 2 = 1
      let back (s : State) : State :=
        if moves then invalidate (mapsVa s.sys.asid va) (setPte l.at_ (setBit 60 false) s) else s
      (e.scalar = some 0 → moves →
        let mapped := invalidate (mapsVa s.sys.asid va) (setPte l.at_ (remapPte (recXf e.record)) s)
        let t := endPage e s
        t = moveWaiting src (recXf e.record) mapped ∧ t.mem.mem = mapped.mem.mem ∧ t.mem.tlb = mapped.mem.tlb ∧
          -- a write that waits at its home for the page proceeds to its new frame
          (∀ (i : Nat) (q : HomeReq) (d : List Byte), s.mem.homeHeld[i]? = some (.req q) → q.op = .write d → t.mem.homeHeld[i]? =
            some (.req (if q.pa / 0x8000 = src / 0x8000 then { q with pa := recXf e.record + q.pa % 0x8000 } else q))) ∧
          ∀ (i : Nat) (p : Packet) (ws : List ByteWrite), s.mem.homeHeld[i]? = some (.pkt p) → p.body = .write ws →
            t.mem.homeHeld[i]? = some (.pkt { p with body := .write (ws.map (fun x =>
              { x with addr := if x.addr / 0x8000 = src / 0x8000 then recXf e.record + x.addr % 0x8000 else x.addr })) })) ∧
      (e.scalar = some 0 → ¬moves → endPage e s = s) ∧
      (e.scalar = some 1 → endPage e s = back (bplInsert (src / 0x8000) s.sys.coreid
        (faqLines 2 (poisonedLines s src 0) (spoilFrame (recXf e.record) s)))) ∧
      (e.scalar = some 2 → endPage e s = back (faqAppend (homeDie s (recXf e.record)) 3 s.sys.coreid (recXf e.record)
        (spoilFrame (recXf e.record) s)))) ∧
    (Runs .ckpt slot e s →
      let marks := sweepPages s e.record pteSw
      let ps := if e.index = 0 ∧ (e.restored = false ∨ marks = []) then sweepPages s e.record (fun v => pteD v || pteSw v) else marks
      let leaves := (ps.map SweepPage.leaf).dedup
      let marked := invalidate (fun t => match t.leaf with | some a => leaves.contains a | none => false)
        (leaves.foldl (fun s a => setPte a (fun v => setBit 59 true (setBit 58 false v)) s) (requestsAt (sweepReads s e.record) s))
      let ends (w : Sweep) (s : State) : State :=
        doneEntry { e with scalar := some (BitVec.ofNat 64 (w.copied % 2 ^ 32 + w.poisoned % 2 ^ 32 * 2 ^ 32)) }
          { s with mem := { s.mem with sweeps := s.mem.sweeps.filter (fun x => !(x.seq == w.seq && x.asid == s.sys.asid)) } }
      let new : Sweep := { asid := s.sys.asid, seq := e.seq, pages := ps, raised := [], copied := e.index, poisoned := e.part.toNat }
      let waits : Prop := memoryPending s = true ∨ sweepRidges s e.record = true
      let is (t : State) : Prop := exec (.cCkpt slot n) s = .next t
      (findSweep s e.seq = none →
        (waits → is s) ∧
        (¬waits → ∀ c va, sweepCause s e.record = some (c, va) →
          is (engineCause e { cause := c, faddr := some (BitVec.ofNat 64 va) } s)) ∧
        (¬waits → sweepCause s e.record = none → ps = [] → is (ends new marked)) ∧
        (¬waits → sweepCause s e.record = none → ps ≠ [] → is { marked with mem := { marked.mem with
          sweeps := marked.mem.sweeps.filter (fun x => !(x.seq == e.seq && x.asid == marked.sys.asid)) ++ [new] } })) ∧
      (∀ w, findSweep s e.seq = some w → (w.pages = [] → is (ends w s)) ∧ (w.pages ≠ [] → is s)))
end

