-- ==== Sys2Proof/Laws/State.lean ====
section
/-! SUPPORT. What each update of the state leaves in each field: one lemma for each, so that no proof unfolds an update. -/

namespace Sys2Proof.Machine

/-! ### Register reads after register writes (R71) -/

theorem getG_zero (s : State) : getG s 0 = 0 := by simp [getG]

theorem getG_setG (s : State) (n r : Reg) (v : Word) :
    getG (setG s n v) r = if r = 0 then 0 else if r = n then v else getG s r := by
  unfold getG setG
  split
  · rfl
  · split
    · subst_vars; rename_i h; split
      · contradiction
      · rfl
    · dsimp only
      split
      · subst_vars; simp
      · rename_i h
        have : n.val ≠ r.val := fun e => h (Fin.ext e.symm)
        simp [this]

@[simp] theorem getG_setG_same (s : State) (n : Reg) (v : Word) (h : n ≠ 0) : getG (setG s n v) n = v := by
  simp [getG_setG, h]

@[simp] theorem getG_setG_ne (s : State) (n r : Reg) (v : Word) (h : r ≠ n) : getG (setG s n v) r = getG s r := by
  rw [getG_setG, if_neg h]
  split
  · subst_vars; exact (getG_zero s).symm
  · rfl

theorem setG_zero (s : State) (v : Word) : setG s 0 v = s := by simp [setG]

theorem getC_zero (s : State) : getC s 0 = true := by simp [getC]

theorem getC_setC (s : State) (n r : Cond) (v : Bool) :
    getC (setC s n v) r = if r = 0 then true else if r = n then v else getC s r := by
  unfold getC setC
  split
  · rfl
  · split
    · subst_vars; rename_i h; split
      · contradiction
      · rfl
    · dsimp only
      split
      · subst_vars; simp
      · rename_i h
        have : n.val ≠ r.val := fun e => h (Fin.ext e.symm)
        simp [this]

theorem setC_zero (s : State) (v : Bool) : setC s 0 v = s := by simp [setC]

/-! ### setG -/

@[simp] theorem setG_sys (s : State) (n : Reg) (v : Word) : (setG s n v).sys = s.sys := by unfold setG; split <;> rfl
@[simp] theorem setG_store (s : State) (n : Reg) (v : Word) : (setG s n v).store = s.store := by unfold setG; split <;> rfl
@[simp] theorem setG_thatch (s : State) (n : Reg) (v : Word) : (setG s n v).thatch = s.thatch := by unfold setG; split <;> rfl
@[simp] theorem setG_mem (s : State) (n : Reg) (v : Word) : (setG s n v).mem = s.mem := by unfold setG; split <;> rfl
@[simp] theorem setG_fab (s : State) (n : Reg) (v : Word) : (setG s n v).fab = s.fab := by unfold setG; split <;> rfl
@[simp] theorem setG_grp (s : State) (n : Reg) (v : Word) : (setG s n v).grp = s.grp := by unfold setG; split <;> rfl
@[simp] theorem setG_links (s : State) (n : Reg) (v : Word) : (setG s n v).links = s.links := by unfold setG; split <;> rfl
@[simp] theorem setG_pkg (s : State) (n : Reg) (v : Word) : (setG s n v).pkg = s.pkg := by unfold setG; split <;> rfl
@[simp] theorem setG_prof (s : State) (n : Reg) (v : Word) : (setG s n v).prof = s.prof := by unfold setG; split <;> rfl
@[simp] theorem setG_agenda (s : State) (n : Reg) (v : Word) : (setG s n v).agenda = s.agenda := by unfold setG; split <;> rfl
@[simp] theorem setG_pace (s : State) (n : Reg) (v : Word) : (setG s n v).pace = s.pace := by unfold setG; split <;> rfl
@[simp] theorem setG_freeCount (s : State) (n : Reg) (v : Word) : (setG s n v).freeCount = s.freeCount := by unfold setG; split <;> rfl
@[simp] theorem setG_tb (s : State) (n : Reg) (v : Word) : (setG s n v).strand.tb = s.strand.tb := by unfold setG; split <;> rfl
@[simp] theorem setG_c (s : State) (n : Reg) (v : Word) : (setG s n v).strand.c = s.strand.c := by unfold setG; split <;> rfl
@[simp] theorem setG_lc (s : State) (n : Reg) (v : Word) : (setG s n v).strand.lc = s.strand.lc := by unfold setG; split <;> rfl
@[simp] theorem setG_bounds (s : State) (n : Reg) (v : Word) : (setG s n v).strand.bounds = s.strand.bounds := by unfold setG; split <;> rfl
@[simp] theorem setG_pc (s : State) (n : Reg) (v : Word) : (setG s n v).strand.pc = s.strand.pc := by unfold setG; split <;> rfl
@[simp] theorem setG_ras (s : State) (n : Reg) (v : Word) : (setG s n v).strand.ras = s.strand.ras := by unfold setG; split <;> rfl
@[simp] theorem setG_rasi (s : State) (n : Reg) (v : Word) : (setG s n v).strand.rasi = s.strand.rasi := by unfold setG; split <;> rfl
@[simp] theorem setG_spill (s : State) (n : Reg) (v : Word) : (setG s n v).strand.spill = s.strand.spill := by unfold setG; split <;> rfl
@[simp] theorem setG_cq (s : State) (n : Reg) (v : Word) : (setG s n v).strand.cq = s.strand.cq := by unfold setG; split <;> rfl
@[simp] theorem setG_xstat (s : State) (n : Reg) (v : Word) : (setG s n v).strand.xstat = s.strand.xstat := by unfold setG; split <;> rfl
@[simp] theorem setG_pend (s : State) (n : Reg) (v : Word) : (setG s n v).strand.pend = s.strand.pend := by unfold setG; split <;> rfl
@[simp] theorem setG_rep (s : State) (n : Reg) (v : Word) : (setG s n v).strand.rep = s.strand.rep := by unfold setG; split <;> rfl
@[simp] theorem setG_loads (s : State) (n : Reg) (v : Word) : (setG s n v).strand.loads = s.strand.loads := by unfold setG; split <;> rfl
@[simp] theorem setG_copies (s : State) (n : Reg) (v : Word) : (setG s n v).strand.copies = s.strand.copies := by unfold setG; split <;> rfl
@[simp] theorem setG_icount (s : State) (n : Reg) (v : Word) : (setG s n v).strand.icount = s.strand.icount := by unfold setG; split <;> rfl
@[simp] theorem setG_run (s : State) (n : Reg) (v : Word) : (setG s n v).strand.run = s.strand.run := by unfold setG; split <;> rfl
@[simp] theorem setG_stalled (s : State) (n : Reg) (v : Word) : (setG s n v).strand.stalled = s.strand.stalled := by unfold setG; split <;> rfl
@[simp] theorem setG_asleep (s : State) (n : Reg) (v : Word) : (setG s n v).strand.asleep = s.strand.asleep := by unfold setG; split <;> rfl
@[simp] theorem setG_semAdded (s : State) (n : Reg) (v : Word) : (setG s n v).strand.semAdded = s.strand.semAdded := by unfold setG; split <;> rfl
@[simp] theorem setG_iterEnd (s : State) (n : Reg) (v : Word) : (setG s n v).strand.iterEnd = s.strand.iterEnd := by unfold setG; split <;> rfl
@[simp] theorem setG_cbrSaved (s : State) (n : Reg) (v : Word) : (setG s n v).strand.cbrSaved = s.strand.cbrSaved := by unfold setG; split <;> rfl
@[simp] theorem setG_ridgeWait (s : State) (n : Reg) (v : Word) : (setG s n v).strand.ridgeWait = s.strand.ridgeWait := by unfold setG; split <;> rfl
@[simp] theorem setG_text (s : State) (n : Reg) (v : Word) : (setG s n v).strand.text = s.strand.text := by unfold setG; split <;> rfl
@[simp] theorem setG_textLines (s : State) (n : Reg) (v : Word) : (setG s n v).strand.textLines = s.strand.textLines := by unfold setG; split <;> rfl

/-! ### setC -/

@[simp] theorem setC_sys (s : State) (n : Cond) (v : Bool) : (setC s n v).sys = s.sys := by unfold setC; split <;> rfl
@[simp] theorem setC_store (s : State) (n : Cond) (v : Bool) : (setC s n v).store = s.store := by unfold setC; split <;> rfl
@[simp] theorem setC_thatch (s : State) (n : Cond) (v : Bool) : (setC s n v).thatch = s.thatch := by unfold setC; split <;> rfl
@[simp] theorem setC_mem (s : State) (n : Cond) (v : Bool) : (setC s n v).mem = s.mem := by unfold setC; split <;> rfl
@[simp] theorem setC_fab (s : State) (n : Cond) (v : Bool) : (setC s n v).fab = s.fab := by unfold setC; split <;> rfl
@[simp] theorem setC_grp (s : State) (n : Cond) (v : Bool) : (setC s n v).grp = s.grp := by unfold setC; split <;> rfl
@[simp] theorem setC_links (s : State) (n : Cond) (v : Bool) : (setC s n v).links = s.links := by unfold setC; split <;> rfl
@[simp] theorem setC_pkg (s : State) (n : Cond) (v : Bool) : (setC s n v).pkg = s.pkg := by unfold setC; split <;> rfl
@[simp] theorem setC_prof (s : State) (n : Cond) (v : Bool) : (setC s n v).prof = s.prof := by unfold setC; split <;> rfl
@[simp] theorem setC_agenda (s : State) (n : Cond) (v : Bool) : (setC s n v).agenda = s.agenda := by unfold setC; split <;> rfl
@[simp] theorem setC_pace (s : State) (n : Cond) (v : Bool) : (setC s n v).pace = s.pace := by unfold setC; split <;> rfl
@[simp] theorem setC_freeCount (s : State) (n : Cond) (v : Bool) : (setC s n v).freeCount = s.freeCount := by unfold setC; split <;> rfl
@[simp] theorem setC_g (s : State) (n : Cond) (v : Bool) : (setC s n v).strand.g = s.strand.g := by unfold setC; split <;> rfl
@[simp] theorem setC_tb (s : State) (n : Cond) (v : Bool) : (setC s n v).strand.tb = s.strand.tb := by unfold setC; split <;> rfl
@[simp] theorem setC_lc (s : State) (n : Cond) (v : Bool) : (setC s n v).strand.lc = s.strand.lc := by unfold setC; split <;> rfl
@[simp] theorem setC_bounds (s : State) (n : Cond) (v : Bool) : (setC s n v).strand.bounds = s.strand.bounds := by unfold setC; split <;> rfl
@[simp] theorem setC_pc (s : State) (n : Cond) (v : Bool) : (setC s n v).strand.pc = s.strand.pc := by unfold setC; split <;> rfl
@[simp] theorem setC_ras (s : State) (n : Cond) (v : Bool) : (setC s n v).strand.ras = s.strand.ras := by unfold setC; split <;> rfl
@[simp] theorem setC_rasi (s : State) (n : Cond) (v : Bool) : (setC s n v).strand.rasi = s.strand.rasi := by unfold setC; split <;> rfl
@[simp] theorem setC_spill (s : State) (n : Cond) (v : Bool) : (setC s n v).strand.spill = s.strand.spill := by unfold setC; split <;> rfl
@[simp] theorem setC_cq (s : State) (n : Cond) (v : Bool) : (setC s n v).strand.cq = s.strand.cq := by unfold setC; split <;> rfl
@[simp] theorem setC_xstat (s : State) (n : Cond) (v : Bool) : (setC s n v).strand.xstat = s.strand.xstat := by unfold setC; split <;> rfl
@[simp] theorem setC_pend (s : State) (n : Cond) (v : Bool) : (setC s n v).strand.pend = s.strand.pend := by unfold setC; split <;> rfl
@[simp] theorem setC_rep (s : State) (n : Cond) (v : Bool) : (setC s n v).strand.rep = s.strand.rep := by unfold setC; split <;> rfl
@[simp] theorem setC_loads (s : State) (n : Cond) (v : Bool) : (setC s n v).strand.loads = s.strand.loads := by unfold setC; split <;> rfl
@[simp] theorem setC_copies (s : State) (n : Cond) (v : Bool) : (setC s n v).strand.copies = s.strand.copies := by unfold setC; split <;> rfl
@[simp] theorem setC_icount (s : State) (n : Cond) (v : Bool) : (setC s n v).strand.icount = s.strand.icount := by unfold setC; split <;> rfl
@[simp] theorem setC_run (s : State) (n : Cond) (v : Bool) : (setC s n v).strand.run = s.strand.run := by unfold setC; split <;> rfl
@[simp] theorem setC_stalled (s : State) (n : Cond) (v : Bool) : (setC s n v).strand.stalled = s.strand.stalled := by unfold setC; split <;> rfl
@[simp] theorem setC_asleep (s : State) (n : Cond) (v : Bool) : (setC s n v).strand.asleep = s.strand.asleep := by unfold setC; split <;> rfl
@[simp] theorem setC_semAdded (s : State) (n : Cond) (v : Bool) : (setC s n v).strand.semAdded = s.strand.semAdded := by unfold setC; split <;> rfl
@[simp] theorem setC_iterEnd (s : State) (n : Cond) (v : Bool) : (setC s n v).strand.iterEnd = s.strand.iterEnd := by unfold setC; split <;> rfl
@[simp] theorem setC_cbrSaved (s : State) (n : Cond) (v : Bool) : (setC s n v).strand.cbrSaved = s.strand.cbrSaved := by unfold setC; split <;> rfl
@[simp] theorem setC_ridgeWait (s : State) (n : Cond) (v : Bool) : (setC s n v).strand.ridgeWait = s.strand.ridgeWait := by unfold setC; split <;> rfl
@[simp] theorem setC_text (s : State) (n : Cond) (v : Bool) : (setC s n v).strand.text = s.strand.text := by unfold setC; split <;> rfl
@[simp] theorem setC_textLines (s : State) (n : Cond) (v : Bool) : (setC s n v).strand.textLines = s.strand.textLines := by unfold setC; split <;> rfl

/-! ### setTb -/

@[simp] theorem setTb_sys (s : State) (t : Tb) (v : BitVec 32) : (setTb s t v).sys = s.sys := rfl
@[simp] theorem setTb_store (s : State) (t : Tb) (v : BitVec 32) : (setTb s t v).store = s.store := rfl
@[simp] theorem setTb_thatch (s : State) (t : Tb) (v : BitVec 32) : (setTb s t v).thatch = s.thatch := rfl
@[simp] theorem setTb_mem (s : State) (t : Tb) (v : BitVec 32) : (setTb s t v).mem = s.mem := rfl
@[simp] theorem setTb_fab (s : State) (t : Tb) (v : BitVec 32) : (setTb s t v).fab = s.fab := rfl
@[simp] theorem setTb_grp (s : State) (t : Tb) (v : BitVec 32) : (setTb s t v).grp = s.grp := rfl
@[simp] theorem setTb_links (s : State) (t : Tb) (v : BitVec 32) : (setTb s t v).links = s.links := rfl
@[simp] theorem setTb_pkg (s : State) (t : Tb) (v : BitVec 32) : (setTb s t v).pkg = s.pkg := rfl
@[simp] theorem setTb_prof (s : State) (t : Tb) (v : BitVec 32) : (setTb s t v).prof = s.prof := rfl
@[simp] theorem setTb_agenda (s : State) (t : Tb) (v : BitVec 32) : (setTb s t v).agenda = s.agenda := rfl
@[simp] theorem setTb_pace (s : State) (t : Tb) (v : BitVec 32) : (setTb s t v).pace = s.pace := rfl
@[simp] theorem setTb_freeCount (s : State) (t : Tb) (v : BitVec 32) : (setTb s t v).freeCount = s.freeCount := rfl
@[simp] theorem setTb_g (s : State) (t : Tb) (v : BitVec 32) : (setTb s t v).strand.g = s.strand.g := rfl
@[simp] theorem setTb_tb (s : State) (t : Tb) (v : BitVec 32) : (setTb s t v).strand.tb = s.strand.tb.set t v := rfl
@[simp] theorem setTb_c (s : State) (t : Tb) (v : BitVec 32) : (setTb s t v).strand.c = s.strand.c := rfl
@[simp] theorem setTb_lc (s : State) (t : Tb) (v : BitVec 32) : (setTb s t v).strand.lc = s.strand.lc := rfl
@[simp] theorem setTb_bounds (s : State) (t : Tb) (v : BitVec 32) : (setTb s t v).strand.bounds = s.strand.bounds := rfl
@[simp] theorem setTb_pc (s : State) (t : Tb) (v : BitVec 32) : (setTb s t v).strand.pc = s.strand.pc := rfl
@[simp] theorem setTb_ras (s : State) (t : Tb) (v : BitVec 32) : (setTb s t v).strand.ras = s.strand.ras := rfl
@[simp] theorem setTb_rasi (s : State) (t : Tb) (v : BitVec 32) : (setTb s t v).strand.rasi = s.strand.rasi := rfl
@[simp] theorem setTb_spill (s : State) (t : Tb) (v : BitVec 32) : (setTb s t v).strand.spill = s.strand.spill := rfl
@[simp] theorem setTb_cq (s : State) (t : Tb) (v : BitVec 32) : (setTb s t v).strand.cq = s.strand.cq := rfl
@[simp] theorem setTb_xstat (s : State) (t : Tb) (v : BitVec 32) : (setTb s t v).strand.xstat = s.strand.xstat := rfl
@[simp] theorem setTb_pend (s : State) (t : Tb) (v : BitVec 32) : (setTb s t v).strand.pend = s.strand.pend := rfl
@[simp] theorem setTb_rep (s : State) (t : Tb) (v : BitVec 32) : (setTb s t v).strand.rep = s.strand.rep := rfl
@[simp] theorem setTb_loads (s : State) (t : Tb) (v : BitVec 32) : (setTb s t v).strand.loads = s.strand.loads := rfl
@[simp] theorem setTb_copies (s : State) (t : Tb) (v : BitVec 32) : (setTb s t v).strand.copies = s.strand.copies := rfl
@[simp] theorem setTb_icount (s : State) (t : Tb) (v : BitVec 32) : (setTb s t v).strand.icount = s.strand.icount := rfl
@[simp] theorem setTb_run (s : State) (t : Tb) (v : BitVec 32) : (setTb s t v).strand.run = s.strand.run := rfl
@[simp] theorem setTb_stalled (s : State) (t : Tb) (v : BitVec 32) : (setTb s t v).strand.stalled = s.strand.stalled := rfl
@[simp] theorem setTb_asleep (s : State) (t : Tb) (v : BitVec 32) : (setTb s t v).strand.asleep = s.strand.asleep := rfl
@[simp] theorem setTb_semAdded (s : State) (t : Tb) (v : BitVec 32) : (setTb s t v).strand.semAdded = s.strand.semAdded := rfl
@[simp] theorem setTb_iterEnd (s : State) (t : Tb) (v : BitVec 32) : (setTb s t v).strand.iterEnd = s.strand.iterEnd := rfl
@[simp] theorem setTb_cbrSaved (s : State) (t : Tb) (v : BitVec 32) : (setTb s t v).strand.cbrSaved = s.strand.cbrSaved := rfl
@[simp] theorem setTb_ridgeWait (s : State) (t : Tb) (v : BitVec 32) : (setTb s t v).strand.ridgeWait = s.strand.ridgeWait := rfl
@[simp] theorem setTb_text (s : State) (t : Tb) (v : BitVec 32) : (setTb s t v).strand.text = s.strand.text := rfl
@[simp] theorem setTb_textLines (s : State) (t : Tb) (v : BitVec 32) : (setTb s t v).strand.textLines = s.strand.textLines := rfl

/-! ### setLc -/

@[simp] theorem setLc_sys (s : State) (l : LoopId) (v : LoopReg) : (setLc s l v).sys = s.sys := rfl
@[simp] theorem setLc_store (s : State) (l : LoopId) (v : LoopReg) : (setLc s l v).store = s.store := rfl
@[simp] theorem setLc_thatch (s : State) (l : LoopId) (v : LoopReg) : (setLc s l v).thatch = s.thatch := rfl
@[simp] theorem setLc_mem (s : State) (l : LoopId) (v : LoopReg) : (setLc s l v).mem = s.mem := rfl
@[simp] theorem setLc_fab (s : State) (l : LoopId) (v : LoopReg) : (setLc s l v).fab = s.fab := rfl
@[simp] theorem setLc_grp (s : State) (l : LoopId) (v : LoopReg) : (setLc s l v).grp = s.grp := rfl
@[simp] theorem setLc_links (s : State) (l : LoopId) (v : LoopReg) : (setLc s l v).links = s.links := rfl
@[simp] theorem setLc_pkg (s : State) (l : LoopId) (v : LoopReg) : (setLc s l v).pkg = s.pkg := rfl
@[simp] theorem setLc_prof (s : State) (l : LoopId) (v : LoopReg) : (setLc s l v).prof = s.prof := rfl
@[simp] theorem setLc_agenda (s : State) (l : LoopId) (v : LoopReg) : (setLc s l v).agenda = s.agenda := rfl
@[simp] theorem setLc_pace (s : State) (l : LoopId) (v : LoopReg) : (setLc s l v).pace = s.pace := rfl
@[simp] theorem setLc_freeCount (s : State) (l : LoopId) (v : LoopReg) : (setLc s l v).freeCount = s.freeCount := rfl
@[simp] theorem setLc_g (s : State) (l : LoopId) (v : LoopReg) : (setLc s l v).strand.g = s.strand.g := rfl
@[simp] theorem setLc_tb (s : State) (l : LoopId) (v : LoopReg) : (setLc s l v).strand.tb = s.strand.tb := rfl
@[simp] theorem setLc_c (s : State) (l : LoopId) (v : LoopReg) : (setLc s l v).strand.c = s.strand.c := rfl
@[simp] theorem setLc_lc (s : State) (l : LoopId) (v : LoopReg) : (setLc s l v).strand.lc = s.strand.lc.set l v := rfl
@[simp] theorem setLc_bounds (s : State) (l : LoopId) (v : LoopReg) : (setLc s l v).strand.bounds = s.strand.bounds := rfl
@[simp] theorem setLc_pc (s : State) (l : LoopId) (v : LoopReg) : (setLc s l v).strand.pc = s.strand.pc := rfl
@[simp] theorem setLc_ras (s : State) (l : LoopId) (v : LoopReg) : (setLc s l v).strand.ras = s.strand.ras := rfl
@[simp] theorem setLc_rasi (s : State) (l : LoopId) (v : LoopReg) : (setLc s l v).strand.rasi = s.strand.rasi := rfl
@[simp] theorem setLc_spill (s : State) (l : LoopId) (v : LoopReg) : (setLc s l v).strand.spill = s.strand.spill := rfl
@[simp] theorem setLc_cq (s : State) (l : LoopId) (v : LoopReg) : (setLc s l v).strand.cq = s.strand.cq := rfl
@[simp] theorem setLc_xstat (s : State) (l : LoopId) (v : LoopReg) : (setLc s l v).strand.xstat = s.strand.xstat := rfl
@[simp] theorem setLc_pend (s : State) (l : LoopId) (v : LoopReg) : (setLc s l v).strand.pend = s.strand.pend := rfl
@[simp] theorem setLc_rep (s : State) (l : LoopId) (v : LoopReg) : (setLc s l v).strand.rep = s.strand.rep := rfl
@[simp] theorem setLc_loads (s : State) (l : LoopId) (v : LoopReg) : (setLc s l v).strand.loads = s.strand.loads := rfl
@[simp] theorem setLc_copies (s : State) (l : LoopId) (v : LoopReg) : (setLc s l v).strand.copies = s.strand.copies := rfl
@[simp] theorem setLc_icount (s : State) (l : LoopId) (v : LoopReg) : (setLc s l v).strand.icount = s.strand.icount := rfl
@[simp] theorem setLc_run (s : State) (l : LoopId) (v : LoopReg) : (setLc s l v).strand.run = s.strand.run := rfl
@[simp] theorem setLc_stalled (s : State) (l : LoopId) (v : LoopReg) : (setLc s l v).strand.stalled = s.strand.stalled := rfl
@[simp] theorem setLc_asleep (s : State) (l : LoopId) (v : LoopReg) : (setLc s l v).strand.asleep = s.strand.asleep := rfl
@[simp] theorem setLc_semAdded (s : State) (l : LoopId) (v : LoopReg) : (setLc s l v).strand.semAdded = s.strand.semAdded := rfl
@[simp] theorem setLc_iterEnd (s : State) (l : LoopId) (v : LoopReg) : (setLc s l v).strand.iterEnd = s.strand.iterEnd := rfl
@[simp] theorem setLc_cbrSaved (s : State) (l : LoopId) (v : LoopReg) : (setLc s l v).strand.cbrSaved = s.strand.cbrSaved := rfl
@[simp] theorem setLc_ridgeWait (s : State) (l : LoopId) (v : LoopReg) : (setLc s l v).strand.ridgeWait = s.strand.ridgeWait := rfl
@[simp] theorem setLc_text (s : State) (l : LoopId) (v : LoopReg) : (setLc s l v).strand.text = s.strand.text := rfl
@[simp] theorem setLc_textLines (s : State) (l : LoopId) (v : LoopReg) : (setLc s l v).strand.textLines = s.strand.textLines := rfl

/-! ### setBounds -/

@[simp] theorem setBounds_sys (s : State) (l : LoopId) (v : Bounds) : (setBounds s l v).sys = s.sys := rfl
@[simp] theorem setBounds_store (s : State) (l : LoopId) (v : Bounds) : (setBounds s l v).store = s.store := rfl
@[simp] theorem setBounds_thatch (s : State) (l : LoopId) (v : Bounds) : (setBounds s l v).thatch = s.thatch := rfl
@[simp] theorem setBounds_mem (s : State) (l : LoopId) (v : Bounds) : (setBounds s l v).mem = s.mem := rfl
@[simp] theorem setBounds_fab (s : State) (l : LoopId) (v : Bounds) : (setBounds s l v).fab = s.fab := rfl
@[simp] theorem setBounds_grp (s : State) (l : LoopId) (v : Bounds) : (setBounds s l v).grp = s.grp := rfl
@[simp] theorem setBounds_links (s : State) (l : LoopId) (v : Bounds) : (setBounds s l v).links = s.links := rfl
@[simp] theorem setBounds_pkg (s : State) (l : LoopId) (v : Bounds) : (setBounds s l v).pkg = s.pkg := rfl
@[simp] theorem setBounds_prof (s : State) (l : LoopId) (v : Bounds) : (setBounds s l v).prof = s.prof := rfl
@[simp] theorem setBounds_agenda (s : State) (l : LoopId) (v : Bounds) : (setBounds s l v).agenda = s.agenda := rfl
@[simp] theorem setBounds_pace (s : State) (l : LoopId) (v : Bounds) : (setBounds s l v).pace = s.pace := rfl
@[simp] theorem setBounds_freeCount (s : State) (l : LoopId) (v : Bounds) : (setBounds s l v).freeCount = s.freeCount := rfl
@[simp] theorem setBounds_g (s : State) (l : LoopId) (v : Bounds) : (setBounds s l v).strand.g = s.strand.g := rfl
@[simp] theorem setBounds_tb (s : State) (l : LoopId) (v : Bounds) : (setBounds s l v).strand.tb = s.strand.tb := rfl
@[simp] theorem setBounds_c (s : State) (l : LoopId) (v : Bounds) : (setBounds s l v).strand.c = s.strand.c := rfl
@[simp] theorem setBounds_lc (s : State) (l : LoopId) (v : Bounds) : (setBounds s l v).strand.lc = s.strand.lc := rfl
@[simp] theorem setBounds_bounds (s : State) (l : LoopId) (v : Bounds) : (setBounds s l v).strand.bounds = s.strand.bounds.set l v := rfl
@[simp] theorem setBounds_pc (s : State) (l : LoopId) (v : Bounds) : (setBounds s l v).strand.pc = s.strand.pc := rfl
@[simp] theorem setBounds_ras (s : State) (l : LoopId) (v : Bounds) : (setBounds s l v).strand.ras = s.strand.ras := rfl
@[simp] theorem setBounds_rasi (s : State) (l : LoopId) (v : Bounds) : (setBounds s l v).strand.rasi = s.strand.rasi := rfl
@[simp] theorem setBounds_spill (s : State) (l : LoopId) (v : Bounds) : (setBounds s l v).strand.spill = s.strand.spill := rfl
@[simp] theorem setBounds_cq (s : State) (l : LoopId) (v : Bounds) : (setBounds s l v).strand.cq = s.strand.cq := rfl
@[simp] theorem setBounds_xstat (s : State) (l : LoopId) (v : Bounds) : (setBounds s l v).strand.xstat = s.strand.xstat := rfl
@[simp] theorem setBounds_pend (s : State) (l : LoopId) (v : Bounds) : (setBounds s l v).strand.pend = s.strand.pend := rfl
@[simp] theorem setBounds_rep (s : State) (l : LoopId) (v : Bounds) : (setBounds s l v).strand.rep = s.strand.rep := rfl
@[simp] theorem setBounds_loads (s : State) (l : LoopId) (v : Bounds) : (setBounds s l v).strand.loads = s.strand.loads := rfl
@[simp] theorem setBounds_copies (s : State) (l : LoopId) (v : Bounds) : (setBounds s l v).strand.copies = s.strand.copies := rfl
@[simp] theorem setBounds_icount (s : State) (l : LoopId) (v : Bounds) : (setBounds s l v).strand.icount = s.strand.icount := rfl
@[simp] theorem setBounds_run (s : State) (l : LoopId) (v : Bounds) : (setBounds s l v).strand.run = s.strand.run := rfl
@[simp] theorem setBounds_stalled (s : State) (l : LoopId) (v : Bounds) : (setBounds s l v).strand.stalled = s.strand.stalled := rfl
@[simp] theorem setBounds_asleep (s : State) (l : LoopId) (v : Bounds) : (setBounds s l v).strand.asleep = s.strand.asleep := rfl
@[simp] theorem setBounds_semAdded (s : State) (l : LoopId) (v : Bounds) : (setBounds s l v).strand.semAdded = s.strand.semAdded := rfl
@[simp] theorem setBounds_iterEnd (s : State) (l : LoopId) (v : Bounds) : (setBounds s l v).strand.iterEnd = s.strand.iterEnd := rfl
@[simp] theorem setBounds_cbrSaved (s : State) (l : LoopId) (v : Bounds) : (setBounds s l v).strand.cbrSaved = s.strand.cbrSaved := rfl
@[simp] theorem setBounds_ridgeWait (s : State) (l : LoopId) (v : Bounds) : (setBounds s l v).strand.ridgeWait = s.strand.ridgeWait := rfl
@[simp] theorem setBounds_text (s : State) (l : LoopId) (v : Bounds) : (setBounds s l v).strand.text = s.strand.text := rfl
@[simp] theorem setBounds_textLines (s : State) (l : LoopId) (v : Bounds) : (setBounds s l v).strand.textLines = s.strand.textLines := rfl

/-! ### setSpill -/

@[simp] theorem setSpill_sys (s : State) (n : BitVec 9) (v : Word) : (setSpill s n v).sys = s.sys := rfl
@[simp] theorem setSpill_store (s : State) (n : BitVec 9) (v : Word) : (setSpill s n v).store = s.store := rfl
@[simp] theorem setSpill_thatch (s : State) (n : BitVec 9) (v : Word) : (setSpill s n v).thatch = s.thatch := rfl
@[simp] theorem setSpill_mem (s : State) (n : BitVec 9) (v : Word) : (setSpill s n v).mem = s.mem := rfl
@[simp] theorem setSpill_fab (s : State) (n : BitVec 9) (v : Word) : (setSpill s n v).fab = s.fab := rfl
@[simp] theorem setSpill_grp (s : State) (n : BitVec 9) (v : Word) : (setSpill s n v).grp = s.grp := rfl
@[simp] theorem setSpill_links (s : State) (n : BitVec 9) (v : Word) : (setSpill s n v).links = s.links := rfl
@[simp] theorem setSpill_pkg (s : State) (n : BitVec 9) (v : Word) : (setSpill s n v).pkg = s.pkg := rfl
@[simp] theorem setSpill_prof (s : State) (n : BitVec 9) (v : Word) : (setSpill s n v).prof = s.prof := rfl
@[simp] theorem setSpill_agenda (s : State) (n : BitVec 9) (v : Word) : (setSpill s n v).agenda = s.agenda := rfl
@[simp] theorem setSpill_pace (s : State) (n : BitVec 9) (v : Word) : (setSpill s n v).pace = s.pace := rfl
@[simp] theorem setSpill_freeCount (s : State) (n : BitVec 9) (v : Word) : (setSpill s n v).freeCount = s.freeCount := rfl
@[simp] theorem setSpill_g (s : State) (n : BitVec 9) (v : Word) : (setSpill s n v).strand.g = s.strand.g := rfl
@[simp] theorem setSpill_tb (s : State) (n : BitVec 9) (v : Word) : (setSpill s n v).strand.tb = s.strand.tb := rfl
@[simp] theorem setSpill_c (s : State) (n : BitVec 9) (v : Word) : (setSpill s n v).strand.c = s.strand.c := rfl
@[simp] theorem setSpill_lc (s : State) (n : BitVec 9) (v : Word) : (setSpill s n v).strand.lc = s.strand.lc := rfl
@[simp] theorem setSpill_bounds (s : State) (n : BitVec 9) (v : Word) : (setSpill s n v).strand.bounds = s.strand.bounds := rfl
@[simp] theorem setSpill_pc (s : State) (n : BitVec 9) (v : Word) : (setSpill s n v).strand.pc = s.strand.pc := rfl
@[simp] theorem setSpill_ras (s : State) (n : BitVec 9) (v : Word) : (setSpill s n v).strand.ras = s.strand.ras := rfl
@[simp] theorem setSpill_rasi (s : State) (n : BitVec 9) (v : Word) : (setSpill s n v).strand.rasi = s.strand.rasi := rfl
@[simp] theorem setSpill_spill (s : State) (n : BitVec 9) (v : Word) : (setSpill s n v).strand.spill = tset 0 s.strand.spill n.toNat v := rfl
@[simp] theorem setSpill_cq (s : State) (n : BitVec 9) (v : Word) : (setSpill s n v).strand.cq = s.strand.cq := rfl
@[simp] theorem setSpill_xstat (s : State) (n : BitVec 9) (v : Word) : (setSpill s n v).strand.xstat = s.strand.xstat := rfl
@[simp] theorem setSpill_pend (s : State) (n : BitVec 9) (v : Word) : (setSpill s n v).strand.pend = s.strand.pend := rfl
@[simp] theorem setSpill_rep (s : State) (n : BitVec 9) (v : Word) : (setSpill s n v).strand.rep = s.strand.rep := rfl
@[simp] theorem setSpill_loads (s : State) (n : BitVec 9) (v : Word) : (setSpill s n v).strand.loads = s.strand.loads := rfl
@[simp] theorem setSpill_copies (s : State) (n : BitVec 9) (v : Word) : (setSpill s n v).strand.copies = s.strand.copies := rfl
@[simp] theorem setSpill_icount (s : State) (n : BitVec 9) (v : Word) : (setSpill s n v).strand.icount = s.strand.icount := rfl
@[simp] theorem setSpill_run (s : State) (n : BitVec 9) (v : Word) : (setSpill s n v).strand.run = s.strand.run := rfl
@[simp] theorem setSpill_stalled (s : State) (n : BitVec 9) (v : Word) : (setSpill s n v).strand.stalled = s.strand.stalled := rfl
@[simp] theorem setSpill_asleep (s : State) (n : BitVec 9) (v : Word) : (setSpill s n v).strand.asleep = s.strand.asleep := rfl
@[simp] theorem setSpill_semAdded (s : State) (n : BitVec 9) (v : Word) : (setSpill s n v).strand.semAdded = s.strand.semAdded := rfl
@[simp] theorem setSpill_iterEnd (s : State) (n : BitVec 9) (v : Word) : (setSpill s n v).strand.iterEnd = s.strand.iterEnd := rfl
@[simp] theorem setSpill_cbrSaved (s : State) (n : BitVec 9) (v : Word) : (setSpill s n v).strand.cbrSaved = s.strand.cbrSaved := rfl
@[simp] theorem setSpill_ridgeWait (s : State) (n : BitVec 9) (v : Word) : (setSpill s n v).strand.ridgeWait = s.strand.ridgeWait := rfl
@[simp] theorem setSpill_text (s : State) (n : BitVec 9) (v : Word) : (setSpill s n v).strand.text = s.strand.text := rfl
@[simp] theorem setSpill_textLines (s : State) (n : BitVec 9) (v : Word) : (setSpill s n v).strand.textLines = s.strand.textLines := rfl

/-! ### withPc -/

@[simp] theorem withPc_sys (s : State) (a : BitVec 32) : (withPc s a).sys = s.sys := rfl
@[simp] theorem withPc_store (s : State) (a : BitVec 32) : (withPc s a).store = s.store := rfl
@[simp] theorem withPc_thatch (s : State) (a : BitVec 32) : (withPc s a).thatch = s.thatch := rfl
@[simp] theorem withPc_mem (s : State) (a : BitVec 32) : (withPc s a).mem = s.mem := rfl
@[simp] theorem withPc_fab (s : State) (a : BitVec 32) : (withPc s a).fab = s.fab := rfl
@[simp] theorem withPc_grp (s : State) (a : BitVec 32) : (withPc s a).grp = s.grp := rfl
@[simp] theorem withPc_links (s : State) (a : BitVec 32) : (withPc s a).links = s.links := rfl
@[simp] theorem withPc_pkg (s : State) (a : BitVec 32) : (withPc s a).pkg = s.pkg := rfl
@[simp] theorem withPc_prof (s : State) (a : BitVec 32) : (withPc s a).prof = s.prof := rfl
@[simp] theorem withPc_agenda (s : State) (a : BitVec 32) : (withPc s a).agenda = s.agenda := rfl
@[simp] theorem withPc_pace (s : State) (a : BitVec 32) : (withPc s a).pace = s.pace := rfl
@[simp] theorem withPc_freeCount (s : State) (a : BitVec 32) : (withPc s a).freeCount = s.freeCount := rfl
@[simp] theorem withPc_g (s : State) (a : BitVec 32) : (withPc s a).strand.g = s.strand.g := rfl
@[simp] theorem withPc_tb (s : State) (a : BitVec 32) : (withPc s a).strand.tb = s.strand.tb := rfl
@[simp] theorem withPc_c (s : State) (a : BitVec 32) : (withPc s a).strand.c = s.strand.c := rfl
@[simp] theorem withPc_lc (s : State) (a : BitVec 32) : (withPc s a).strand.lc = s.strand.lc := rfl
@[simp] theorem withPc_bounds (s : State) (a : BitVec 32) : (withPc s a).strand.bounds = s.strand.bounds := rfl
@[simp] theorem withPc_pc (s : State) (a : BitVec 32) : (withPc s a).strand.pc = a := rfl
@[simp] theorem withPc_ras (s : State) (a : BitVec 32) : (withPc s a).strand.ras = s.strand.ras := rfl
@[simp] theorem withPc_rasi (s : State) (a : BitVec 32) : (withPc s a).strand.rasi = s.strand.rasi := rfl
@[simp] theorem withPc_spill (s : State) (a : BitVec 32) : (withPc s a).strand.spill = s.strand.spill := rfl
@[simp] theorem withPc_cq (s : State) (a : BitVec 32) : (withPc s a).strand.cq = s.strand.cq := rfl
@[simp] theorem withPc_xstat (s : State) (a : BitVec 32) : (withPc s a).strand.xstat = s.strand.xstat := rfl
@[simp] theorem withPc_pend (s : State) (a : BitVec 32) : (withPc s a).strand.pend = s.strand.pend := rfl
@[simp] theorem withPc_rep (s : State) (a : BitVec 32) : (withPc s a).strand.rep = s.strand.rep := rfl
@[simp] theorem withPc_loads (s : State) (a : BitVec 32) : (withPc s a).strand.loads = s.strand.loads := rfl
@[simp] theorem withPc_copies (s : State) (a : BitVec 32) : (withPc s a).strand.copies = s.strand.copies := rfl
@[simp] theorem withPc_icount (s : State) (a : BitVec 32) : (withPc s a).strand.icount = s.strand.icount := rfl
@[simp] theorem withPc_run (s : State) (a : BitVec 32) : (withPc s a).strand.run = s.strand.run := rfl
@[simp] theorem withPc_stalled (s : State) (a : BitVec 32) : (withPc s a).strand.stalled = s.strand.stalled := rfl
@[simp] theorem withPc_asleep (s : State) (a : BitVec 32) : (withPc s a).strand.asleep = s.strand.asleep := rfl
@[simp] theorem withPc_semAdded (s : State) (a : BitVec 32) : (withPc s a).strand.semAdded = s.strand.semAdded := rfl
@[simp] theorem withPc_iterEnd (s : State) (a : BitVec 32) : (withPc s a).strand.iterEnd = s.strand.iterEnd := rfl
@[simp] theorem withPc_cbrSaved (s : State) (a : BitVec 32) : (withPc s a).strand.cbrSaved = s.strand.cbrSaved := rfl
@[simp] theorem withPc_ridgeWait (s : State) (a : BitVec 32) : (withPc s a).strand.ridgeWait = s.strand.ridgeWait := rfl
@[simp] theorem withPc_text (s : State) (a : BitVec 32) : (withPc s a).strand.text = s.strand.text := rfl
@[simp] theorem withPc_textLines (s : State) (a : BitVec 32) : (withPc s a).strand.textLines = s.strand.textLines := rfl

/-! ### withXstat -/

@[simp] theorem withXstat_sys (s : State) (x : Xstat) : (withXstat s x).sys = s.sys := rfl
@[simp] theorem withXstat_store (s : State) (x : Xstat) : (withXstat s x).store = s.store := rfl
@[simp] theorem withXstat_thatch (s : State) (x : Xstat) : (withXstat s x).thatch = s.thatch := rfl
@[simp] theorem withXstat_mem (s : State) (x : Xstat) : (withXstat s x).mem = s.mem := rfl
@[simp] theorem withXstat_fab (s : State) (x : Xstat) : (withXstat s x).fab = s.fab := rfl
@[simp] theorem withXstat_grp (s : State) (x : Xstat) : (withXstat s x).grp = s.grp := rfl
@[simp] theorem withXstat_links (s : State) (x : Xstat) : (withXstat s x).links = s.links := rfl
@[simp] theorem withXstat_pkg (s : State) (x : Xstat) : (withXstat s x).pkg = s.pkg := rfl
@[simp] theorem withXstat_prof (s : State) (x : Xstat) : (withXstat s x).prof = s.prof := rfl
@[simp] theorem withXstat_agenda (s : State) (x : Xstat) : (withXstat s x).agenda = s.agenda := rfl
@[simp] theorem withXstat_pace (s : State) (x : Xstat) : (withXstat s x).pace = s.pace := rfl
@[simp] theorem withXstat_freeCount (s : State) (x : Xstat) : (withXstat s x).freeCount = s.freeCount := rfl
@[simp] theorem withXstat_g (s : State) (x : Xstat) : (withXstat s x).strand.g = s.strand.g := rfl
@[simp] theorem withXstat_tb (s : State) (x : Xstat) : (withXstat s x).strand.tb = s.strand.tb := rfl
@[simp] theorem withXstat_c (s : State) (x : Xstat) : (withXstat s x).strand.c = s.strand.c := rfl
@[simp] theorem withXstat_lc (s : State) (x : Xstat) : (withXstat s x).strand.lc = s.strand.lc := rfl
@[simp] theorem withXstat_bounds (s : State) (x : Xstat) : (withXstat s x).strand.bounds = s.strand.bounds := rfl
@[simp] theorem withXstat_pc (s : State) (x : Xstat) : (withXstat s x).strand.pc = s.strand.pc := rfl
@[simp] theorem withXstat_ras (s : State) (x : Xstat) : (withXstat s x).strand.ras = s.strand.ras := rfl
@[simp] theorem withXstat_rasi (s : State) (x : Xstat) : (withXstat s x).strand.rasi = s.strand.rasi := rfl
@[simp] theorem withXstat_spill (s : State) (x : Xstat) : (withXstat s x).strand.spill = s.strand.spill := rfl
@[simp] theorem withXstat_cq (s : State) (x : Xstat) : (withXstat s x).strand.cq = s.strand.cq := rfl
@[simp] theorem withXstat_xstat (s : State) (x : Xstat) : (withXstat s x).strand.xstat = x := rfl
@[simp] theorem withXstat_pend (s : State) (x : Xstat) : (withXstat s x).strand.pend = s.strand.pend := rfl
@[simp] theorem withXstat_rep (s : State) (x : Xstat) : (withXstat s x).strand.rep = s.strand.rep := rfl
@[simp] theorem withXstat_loads (s : State) (x : Xstat) : (withXstat s x).strand.loads = s.strand.loads := rfl
@[simp] theorem withXstat_copies (s : State) (x : Xstat) : (withXstat s x).strand.copies = s.strand.copies := rfl
@[simp] theorem withXstat_icount (s : State) (x : Xstat) : (withXstat s x).strand.icount = s.strand.icount := rfl
@[simp] theorem withXstat_run (s : State) (x : Xstat) : (withXstat s x).strand.run = s.strand.run := rfl
@[simp] theorem withXstat_stalled (s : State) (x : Xstat) : (withXstat s x).strand.stalled = s.strand.stalled := rfl
@[simp] theorem withXstat_asleep (s : State) (x : Xstat) : (withXstat s x).strand.asleep = s.strand.asleep := rfl
@[simp] theorem withXstat_semAdded (s : State) (x : Xstat) : (withXstat s x).strand.semAdded = s.strand.semAdded := rfl
@[simp] theorem withXstat_iterEnd (s : State) (x : Xstat) : (withXstat s x).strand.iterEnd = s.strand.iterEnd := rfl
@[simp] theorem withXstat_cbrSaved (s : State) (x : Xstat) : (withXstat s x).strand.cbrSaved = s.strand.cbrSaved := rfl
@[simp] theorem withXstat_ridgeWait (s : State) (x : Xstat) : (withXstat s x).strand.ridgeWait = s.strand.ridgeWait := rfl
@[simp] theorem withXstat_text (s : State) (x : Xstat) : (withXstat s x).strand.text = s.strand.text := rfl
@[simp] theorem withXstat_textLines (s : State) (x : Xstat) : (withXstat s x).strand.textLines = s.strand.textLines := rfl

/-! ### clearIssue -/

@[simp] theorem clearIssue_sys (s : State) : (clearIssue s).sys = s.sys := rfl
@[simp] theorem clearIssue_store (s : State) : (clearIssue s).store = s.store := rfl
@[simp] theorem clearIssue_thatch (s : State) : (clearIssue s).thatch = s.thatch := rfl
@[simp] theorem clearIssue_mem (s : State) : (clearIssue s).mem = s.mem := rfl
@[simp] theorem clearIssue_fab (s : State) : (clearIssue s).fab = s.fab := rfl
@[simp] theorem clearIssue_grp (s : State) : (clearIssue s).grp = s.grp := rfl
@[simp] theorem clearIssue_links (s : State) : (clearIssue s).links = s.links := rfl
@[simp] theorem clearIssue_pkg (s : State) : (clearIssue s).pkg = s.pkg := rfl
@[simp] theorem clearIssue_prof (s : State) : (clearIssue s).prof = s.prof := rfl
@[simp] theorem clearIssue_agenda (s : State) : (clearIssue s).agenda = s.agenda := rfl
@[simp] theorem clearIssue_pace (s : State) : (clearIssue s).pace = s.pace := rfl
@[simp] theorem clearIssue_freeCount (s : State) : (clearIssue s).freeCount = s.freeCount := rfl
@[simp] theorem clearIssue_g (s : State) : (clearIssue s).strand.g = s.strand.g := rfl
@[simp] theorem clearIssue_tb (s : State) : (clearIssue s).strand.tb = s.strand.tb := rfl
@[simp] theorem clearIssue_c (s : State) : (clearIssue s).strand.c = s.strand.c := rfl
@[simp] theorem clearIssue_lc (s : State) : (clearIssue s).strand.lc = s.strand.lc := rfl
@[simp] theorem clearIssue_bounds (s : State) : (clearIssue s).strand.bounds = s.strand.bounds := rfl
@[simp] theorem clearIssue_pc (s : State) : (clearIssue s).strand.pc = s.strand.pc := rfl
@[simp] theorem clearIssue_ras (s : State) : (clearIssue s).strand.ras = s.strand.ras := rfl
@[simp] theorem clearIssue_rasi (s : State) : (clearIssue s).strand.rasi = s.strand.rasi := rfl
@[simp] theorem clearIssue_spill (s : State) : (clearIssue s).strand.spill = s.strand.spill := rfl
@[simp] theorem clearIssue_cq (s : State) : (clearIssue s).strand.cq = s.strand.cq := rfl
@[simp] theorem clearIssue_xstat (s : State) : (clearIssue s).strand.xstat = { s.strand.xstat with repk := 0 } := rfl
@[simp] theorem clearIssue_pend (s : State) : (clearIssue s).strand.pend = s.strand.pend := rfl
@[simp] theorem clearIssue_rep (s : State) : (clearIssue s).strand.rep = s.strand.rep := rfl
@[simp] theorem clearIssue_loads (s : State) : (clearIssue s).strand.loads = s.strand.loads := rfl
@[simp] theorem clearIssue_copies (s : State) : (clearIssue s).strand.copies = s.strand.copies := rfl
@[simp] theorem clearIssue_icount (s : State) : (clearIssue s).strand.icount = s.strand.icount := rfl
@[simp] theorem clearIssue_run (s : State) : (clearIssue s).strand.run = s.strand.run := rfl
@[simp] theorem clearIssue_stalled (s : State) : (clearIssue s).strand.stalled = false := rfl
@[simp] theorem clearIssue_asleep (s : State) : (clearIssue s).strand.asleep = false := rfl
@[simp] theorem clearIssue_semAdded (s : State) : (clearIssue s).strand.semAdded = s.strand.semAdded := rfl
@[simp] theorem clearIssue_iterEnd (s : State) : (clearIssue s).strand.iterEnd = false := rfl
@[simp] theorem clearIssue_cbrSaved (s : State) : (clearIssue s).strand.cbrSaved = s.strand.cbrSaved := rfl
@[simp] theorem clearIssue_ridgeWait (s : State) : (clearIssue s).strand.ridgeWait = s.strand.ridgeWait := rfl
@[simp] theorem clearIssue_text (s : State) : (clearIssue s).strand.text = s.strand.text := rfl
@[simp] theorem clearIssue_textLines (s : State) : (clearIssue s).strand.textLines = s.strand.textLines := rfl

/-! ### addCount -/

@[simp] theorem addCount_sys (n : BitVec 64) (s : State) : (addCount n s).sys = s.sys := rfl
@[simp] theorem addCount_store (n : BitVec 64) (s : State) : (addCount n s).store = s.store := rfl
@[simp] theorem addCount_thatch (n : BitVec 64) (s : State) : (addCount n s).thatch = s.thatch := rfl
@[simp] theorem addCount_mem (n : BitVec 64) (s : State) : (addCount n s).mem = s.mem := rfl
@[simp] theorem addCount_fab (n : BitVec 64) (s : State) : (addCount n s).fab = s.fab := rfl
@[simp] theorem addCount_grp (n : BitVec 64) (s : State) : (addCount n s).grp = s.grp := rfl
@[simp] theorem addCount_links (n : BitVec 64) (s : State) : (addCount n s).links = s.links := rfl
@[simp] theorem addCount_pkg (n : BitVec 64) (s : State) : (addCount n s).pkg = s.pkg := rfl
@[simp] theorem addCount_prof (n : BitVec 64) (s : State) : (addCount n s).prof = s.prof := rfl
@[simp] theorem addCount_agenda (n : BitVec 64) (s : State) : (addCount n s).agenda = s.agenda := rfl
@[simp] theorem addCount_pace (n : BitVec 64) (s : State) : (addCount n s).pace = s.pace := rfl
@[simp] theorem addCount_freeCount (n : BitVec 64) (s : State) : (addCount n s).freeCount = s.freeCount := rfl
@[simp] theorem addCount_g (n : BitVec 64) (s : State) : (addCount n s).strand.g = s.strand.g := rfl
@[simp] theorem addCount_tb (n : BitVec 64) (s : State) : (addCount n s).strand.tb = s.strand.tb := rfl
@[simp] theorem addCount_c (n : BitVec 64) (s : State) : (addCount n s).strand.c = s.strand.c := rfl
@[simp] theorem addCount_lc (n : BitVec 64) (s : State) : (addCount n s).strand.lc = s.strand.lc := rfl
@[simp] theorem addCount_bounds (n : BitVec 64) (s : State) : (addCount n s).strand.bounds = s.strand.bounds := rfl
@[simp] theorem addCount_pc (n : BitVec 64) (s : State) : (addCount n s).strand.pc = s.strand.pc := rfl
@[simp] theorem addCount_ras (n : BitVec 64) (s : State) : (addCount n s).strand.ras = s.strand.ras := rfl
@[simp] theorem addCount_rasi (n : BitVec 64) (s : State) : (addCount n s).strand.rasi = s.strand.rasi := rfl
@[simp] theorem addCount_spill (n : BitVec 64) (s : State) : (addCount n s).strand.spill = s.strand.spill := rfl
@[simp] theorem addCount_cq (n : BitVec 64) (s : State) : (addCount n s).strand.cq = s.strand.cq := rfl
@[simp] theorem addCount_xstat (n : BitVec 64) (s : State) : (addCount n s).strand.xstat = s.strand.xstat := rfl
@[simp] theorem addCount_pend (n : BitVec 64) (s : State) : (addCount n s).strand.pend = s.strand.pend := rfl
@[simp] theorem addCount_rep (n : BitVec 64) (s : State) : (addCount n s).strand.rep = s.strand.rep := rfl
@[simp] theorem addCount_loads (n : BitVec 64) (s : State) : (addCount n s).strand.loads = s.strand.loads := rfl
@[simp] theorem addCount_copies (n : BitVec 64) (s : State) : (addCount n s).strand.copies = s.strand.copies := rfl
@[simp] theorem addCount_icount (n : BitVec 64) (s : State) : (addCount n s).strand.icount = s.strand.icount + n := rfl
@[simp] theorem addCount_run (n : BitVec 64) (s : State) : (addCount n s).strand.run = s.strand.run := rfl
@[simp] theorem addCount_stalled (n : BitVec 64) (s : State) : (addCount n s).strand.stalled = s.strand.stalled := rfl
@[simp] theorem addCount_asleep (n : BitVec 64) (s : State) : (addCount n s).strand.asleep = s.strand.asleep := rfl
@[simp] theorem addCount_semAdded (n : BitVec 64) (s : State) : (addCount n s).strand.semAdded = s.strand.semAdded := rfl
@[simp] theorem addCount_iterEnd (n : BitVec 64) (s : State) : (addCount n s).strand.iterEnd = s.strand.iterEnd := rfl
@[simp] theorem addCount_cbrSaved (n : BitVec 64) (s : State) : (addCount n s).strand.cbrSaved = s.strand.cbrSaved := rfl
@[simp] theorem addCount_ridgeWait (n : BitVec 64) (s : State) : (addCount n s).strand.ridgeWait = s.strand.ridgeWait := rfl
@[simp] theorem addCount_text (n : BitVec 64) (s : State) : (addCount n s).strand.text = s.strand.text := rfl
@[simp] theorem addCount_textLines (n : BitVec 64) (s : State) : (addCount n s).strand.textLines = s.strand.textLines := rfl

/-! ### stallAt -/

@[simp] theorem stallAt_sys (s : State) : (stallAt s).sys = s.sys := rfl
@[simp] theorem stallAt_store (s : State) : (stallAt s).store = s.store := rfl
@[simp] theorem stallAt_thatch (s : State) : (stallAt s).thatch = s.thatch := rfl
@[simp] theorem stallAt_mem (s : State) : (stallAt s).mem = s.mem := rfl
@[simp] theorem stallAt_fab (s : State) : (stallAt s).fab = s.fab := rfl
@[simp] theorem stallAt_grp (s : State) : (stallAt s).grp = s.grp := rfl
@[simp] theorem stallAt_links (s : State) : (stallAt s).links = s.links := rfl
@[simp] theorem stallAt_pkg (s : State) : (stallAt s).pkg = s.pkg := rfl
@[simp] theorem stallAt_prof (s : State) : (stallAt s).prof = s.prof := rfl
@[simp] theorem stallAt_agenda (s : State) : (stallAt s).agenda = s.agenda := rfl
@[simp] theorem stallAt_pace (s : State) : (stallAt s).pace = s.pace := rfl
@[simp] theorem stallAt_freeCount (s : State) : (stallAt s).freeCount = s.freeCount := rfl
@[simp] theorem stallAt_g (s : State) : (stallAt s).strand.g = s.strand.g := rfl
@[simp] theorem stallAt_tb (s : State) : (stallAt s).strand.tb = s.strand.tb := rfl
@[simp] theorem stallAt_c (s : State) : (stallAt s).strand.c = s.strand.c := rfl
@[simp] theorem stallAt_lc (s : State) : (stallAt s).strand.lc = s.strand.lc := rfl
@[simp] theorem stallAt_bounds (s : State) : (stallAt s).strand.bounds = s.strand.bounds := rfl
@[simp] theorem stallAt_pc (s : State) : (stallAt s).strand.pc = s.strand.pc := rfl
@[simp] theorem stallAt_ras (s : State) : (stallAt s).strand.ras = s.strand.ras := rfl
@[simp] theorem stallAt_rasi (s : State) : (stallAt s).strand.rasi = s.strand.rasi := rfl
@[simp] theorem stallAt_spill (s : State) : (stallAt s).strand.spill = s.strand.spill := rfl
@[simp] theorem stallAt_cq (s : State) : (stallAt s).strand.cq = s.strand.cq := rfl
@[simp] theorem stallAt_xstat (s : State) : (stallAt s).strand.xstat = s.strand.xstat := rfl
@[simp] theorem stallAt_pend (s : State) : (stallAt s).strand.pend = s.strand.pend := rfl
@[simp] theorem stallAt_rep (s : State) : (stallAt s).strand.rep = s.strand.rep := rfl
@[simp] theorem stallAt_loads (s : State) : (stallAt s).strand.loads = s.strand.loads := rfl
@[simp] theorem stallAt_copies (s : State) : (stallAt s).strand.copies = s.strand.copies := rfl
@[simp] theorem stallAt_icount (s : State) : (stallAt s).strand.icount = s.strand.icount := rfl
@[simp] theorem stallAt_run (s : State) : (stallAt s).strand.run = s.strand.run := rfl
@[simp] theorem stallAt_stalled (s : State) : (stallAt s).strand.stalled = true := rfl
@[simp] theorem stallAt_asleep (s : State) : (stallAt s).strand.asleep = s.strand.asleep := rfl
@[simp] theorem stallAt_semAdded (s : State) : (stallAt s).strand.semAdded = s.strand.semAdded := rfl
@[simp] theorem stallAt_iterEnd (s : State) : (stallAt s).strand.iterEnd = s.strand.iterEnd := rfl
@[simp] theorem stallAt_cbrSaved (s : State) : (stallAt s).strand.cbrSaved = s.strand.cbrSaved := rfl
@[simp] theorem stallAt_ridgeWait (s : State) : (stallAt s).strand.ridgeWait = s.strand.ridgeWait := rfl
@[simp] theorem stallAt_text (s : State) : (stallAt s).strand.text = s.strand.text := rfl
@[simp] theorem stallAt_textLines (s : State) : (stallAt s).strand.textLines = s.strand.textLines := rfl

/-! ### pushLoad -/

@[simp] theorem pushLoad_sys (l : Load) (s : State) : (pushLoad l s).sys = s.sys := rfl
@[simp] theorem pushLoad_store (l : Load) (s : State) : (pushLoad l s).store = s.store := rfl
@[simp] theorem pushLoad_thatch (l : Load) (s : State) : (pushLoad l s).thatch = s.thatch := rfl
@[simp] theorem pushLoad_mem (l : Load) (s : State) : (pushLoad l s).mem = s.mem := rfl
@[simp] theorem pushLoad_fab (l : Load) (s : State) : (pushLoad l s).fab = s.fab := rfl
@[simp] theorem pushLoad_grp (l : Load) (s : State) : (pushLoad l s).grp = s.grp := rfl
@[simp] theorem pushLoad_links (l : Load) (s : State) : (pushLoad l s).links = s.links := rfl
@[simp] theorem pushLoad_pkg (l : Load) (s : State) : (pushLoad l s).pkg = s.pkg := rfl
@[simp] theorem pushLoad_prof (l : Load) (s : State) : (pushLoad l s).prof = s.prof := rfl
@[simp] theorem pushLoad_agenda (l : Load) (s : State) : (pushLoad l s).agenda = s.agenda := rfl
@[simp] theorem pushLoad_pace (l : Load) (s : State) : (pushLoad l s).pace = s.pace := rfl
@[simp] theorem pushLoad_freeCount (l : Load) (s : State) : (pushLoad l s).freeCount = s.freeCount := rfl
@[simp] theorem pushLoad_g (l : Load) (s : State) : (pushLoad l s).strand.g = s.strand.g := rfl
@[simp] theorem pushLoad_tb (l : Load) (s : State) : (pushLoad l s).strand.tb = s.strand.tb := rfl
@[simp] theorem pushLoad_c (l : Load) (s : State) : (pushLoad l s).strand.c = s.strand.c := rfl
@[simp] theorem pushLoad_lc (l : Load) (s : State) : (pushLoad l s).strand.lc = s.strand.lc := rfl
@[simp] theorem pushLoad_bounds (l : Load) (s : State) : (pushLoad l s).strand.bounds = s.strand.bounds := rfl
@[simp] theorem pushLoad_pc (l : Load) (s : State) : (pushLoad l s).strand.pc = s.strand.pc := rfl
@[simp] theorem pushLoad_ras (l : Load) (s : State) : (pushLoad l s).strand.ras = s.strand.ras := rfl
@[simp] theorem pushLoad_rasi (l : Load) (s : State) : (pushLoad l s).strand.rasi = s.strand.rasi := rfl
@[simp] theorem pushLoad_spill (l : Load) (s : State) : (pushLoad l s).strand.spill = s.strand.spill := rfl
@[simp] theorem pushLoad_cq (l : Load) (s : State) : (pushLoad l s).strand.cq = s.strand.cq := rfl
@[simp] theorem pushLoad_xstat (l : Load) (s : State) : (pushLoad l s).strand.xstat = s.strand.xstat := rfl
@[simp] theorem pushLoad_pend (l : Load) (s : State) : (pushLoad l s).strand.pend = s.strand.pend := rfl
@[simp] theorem pushLoad_rep (l : Load) (s : State) : (pushLoad l s).strand.rep = s.strand.rep := rfl
@[simp] theorem pushLoad_loads (l : Load) (s : State) : (pushLoad l s).strand.loads = s.strand.loads ++ [l] := rfl
@[simp] theorem pushLoad_copies (l : Load) (s : State) : (pushLoad l s).strand.copies = s.strand.copies := rfl
@[simp] theorem pushLoad_icount (l : Load) (s : State) : (pushLoad l s).strand.icount = s.strand.icount := rfl
@[simp] theorem pushLoad_run (l : Load) (s : State) : (pushLoad l s).strand.run = s.strand.run := rfl
@[simp] theorem pushLoad_stalled (l : Load) (s : State) : (pushLoad l s).strand.stalled = s.strand.stalled := rfl
@[simp] theorem pushLoad_asleep (l : Load) (s : State) : (pushLoad l s).strand.asleep = s.strand.asleep := rfl
@[simp] theorem pushLoad_semAdded (l : Load) (s : State) : (pushLoad l s).strand.semAdded = s.strand.semAdded := rfl
@[simp] theorem pushLoad_iterEnd (l : Load) (s : State) : (pushLoad l s).strand.iterEnd = s.strand.iterEnd := rfl
@[simp] theorem pushLoad_cbrSaved (l : Load) (s : State) : (pushLoad l s).strand.cbrSaved = s.strand.cbrSaved := rfl
@[simp] theorem pushLoad_ridgeWait (l : Load) (s : State) : (pushLoad l s).strand.ridgeWait = s.strand.ridgeWait := rfl
@[simp] theorem pushLoad_text (l : Load) (s : State) : (pushLoad l s).strand.text = s.strand.text := rfl
@[simp] theorem pushLoad_textLines (l : Load) (s : State) : (pushLoad l s).strand.textLines = s.strand.textLines := rfl

/-! ### raiseFor -/

@[simp] theorem raiseFor_strand (c : Nat) (asid : BitVec 13) (n : Nat) (s : State) : (raiseFor c asid n s).strand = s.strand := rfl
@[simp] theorem raiseFor_sys (c : Nat) (asid : BitVec 13) (n : Nat) (s : State) : (raiseFor c asid n s).sys = s.sys := rfl
@[simp] theorem raiseFor_store (c : Nat) (asid : BitVec 13) (n : Nat) (s : State) : (raiseFor c asid n s).store = s.store := rfl
@[simp] theorem raiseFor_thatch (c : Nat) (asid : BitVec 13) (n : Nat) (s : State) : (raiseFor c asid n s).thatch = s.thatch := rfl
@[simp] theorem raiseFor_fab (c : Nat) (asid : BitVec 13) (n : Nat) (s : State) : (raiseFor c asid n s).fab = s.fab := rfl
@[simp] theorem raiseFor_grp (c : Nat) (asid : BitVec 13) (n : Nat) (s : State) : (raiseFor c asid n s).grp = s.grp := rfl
@[simp] theorem raiseFor_links (c : Nat) (asid : BitVec 13) (n : Nat) (s : State) : (raiseFor c asid n s).links = s.links := rfl
@[simp] theorem raiseFor_pkg (c : Nat) (asid : BitVec 13) (n : Nat) (s : State) : (raiseFor c asid n s).pkg = s.pkg := rfl
@[simp] theorem raiseFor_prof (c : Nat) (asid : BitVec 13) (n : Nat) (s : State) : (raiseFor c asid n s).prof = s.prof := rfl
@[simp] theorem raiseFor_agenda (c : Nat) (asid : BitVec 13) (n : Nat) (s : State) : (raiseFor c asid n s).agenda = s.agenda := rfl
@[simp] theorem raiseFor_pace (c : Nat) (asid : BitVec 13) (n : Nat) (s : State) : (raiseFor c asid n s).pace = s.pace := rfl
@[simp] theorem raiseFor_freeCount (c : Nat) (asid : BitVec 13) (n : Nat) (s : State) : (raiseFor c asid n s).freeCount = s.freeCount := rfl
@[simp] theorem raiseFor_mem (c : Nat) (asid : BitVec 13) (n : Nat) (s : State) : (raiseFor c asid n s).mem.mem = s.mem.mem := rfl
@[simp] theorem raiseFor_poison (c : Nat) (asid : BitVec 13) (n : Nat) (s : State) : (raiseFor c asid n s).mem.poison = s.mem.poison := rfl
@[simp] theorem raiseFor_dirty (c : Nat) (asid : BitVec 13) (n : Nat) (s : State) : (raiseFor c asid n s).mem.dirty = s.mem.dirty := rfl
@[simp] theorem raiseFor_segs (c : Nat) (asid : BitVec 13) (n : Nat) (s : State) : (raiseFor c asid n s).mem.segs = s.mem.segs := rfl
@[simp] theorem raiseFor_tlb (c : Nat) (asid : BitVec 13) (n : Nat) (s : State) : (raiseFor c asid n s).mem.tlb = s.mem.tlb := rfl
@[simp] theorem raiseFor_mapCache (c : Nat) (asid : BitVec 13) (n : Nat) (s : State) : (raiseFor c asid n s).mem.mapCache = s.mem.mapCache := rfl
@[simp] theorem raiseFor_replay (c : Nat) (asid : BitVec 13) (n : Nat) (s : State) : (raiseFor c asid n s).mem.replay = s.mem.replay := rfl
@[simp] theorem raiseFor_nextPark (c : Nat) (asid : BitVec 13) (n : Nat) (s : State) : (raiseFor c asid n s).mem.nextPark = s.mem.nextPark := rfl
@[simp] theorem raiseFor_mc (c : Nat) (asid : BitVec 13) (n : Nat) (s : State) : (raiseFor c asid n s).mem.mc = s.mem.mc := rfl
@[simp] theorem raiseFor_faq (c : Nat) (asid : BitVec 13) (n : Nat) (s : State) : (raiseFor c asid n s).mem.faq = s.mem.faq := rfl
@[simp] theorem raiseFor_bpl (c : Nat) (asid : BitVec 13) (n : Nat) (s : State) : (raiseFor c asid n s).mem.bpl = s.mem.bpl := rfl
@[simp] theorem raiseFor_homeHeld (c : Nat) (asid : BitVec 13) (n : Nat) (s : State) : (raiseFor c asid n s).mem.homeHeld = s.mem.homeHeld := rfl

/-! ### raisePage -/

@[simp] theorem raisePage_strand (n : Nat) (s : State) : (raisePage n s).strand = s.strand := rfl
@[simp] theorem raisePage_sys (n : Nat) (s : State) : (raisePage n s).sys = s.sys := rfl
@[simp] theorem raisePage_store (n : Nat) (s : State) : (raisePage n s).store = s.store := rfl
@[simp] theorem raisePage_thatch (n : Nat) (s : State) : (raisePage n s).thatch = s.thatch := rfl
@[simp] theorem raisePage_fab (n : Nat) (s : State) : (raisePage n s).fab = s.fab := rfl
@[simp] theorem raisePage_grp (n : Nat) (s : State) : (raisePage n s).grp = s.grp := rfl
@[simp] theorem raisePage_links (n : Nat) (s : State) : (raisePage n s).links = s.links := rfl
@[simp] theorem raisePage_pkg (n : Nat) (s : State) : (raisePage n s).pkg = s.pkg := rfl
@[simp] theorem raisePage_prof (n : Nat) (s : State) : (raisePage n s).prof = s.prof := rfl
@[simp] theorem raisePage_agenda (n : Nat) (s : State) : (raisePage n s).agenda = s.agenda := rfl
@[simp] theorem raisePage_pace (n : Nat) (s : State) : (raisePage n s).pace = s.pace := rfl
@[simp] theorem raisePage_freeCount (n : Nat) (s : State) : (raisePage n s).freeCount = s.freeCount := rfl
@[simp] theorem raisePage_mem (n : Nat) (s : State) : (raisePage n s).mem.mem = s.mem.mem := rfl
@[simp] theorem raisePage_poison (n : Nat) (s : State) : (raisePage n s).mem.poison = s.mem.poison := rfl
@[simp] theorem raisePage_dirty (n : Nat) (s : State) : (raisePage n s).mem.dirty = s.mem.dirty := rfl
@[simp] theorem raisePage_segs (n : Nat) (s : State) : (raisePage n s).mem.segs = s.mem.segs := rfl
@[simp] theorem raisePage_tlb (n : Nat) (s : State) : (raisePage n s).mem.tlb = s.mem.tlb := rfl
@[simp] theorem raisePage_mapCache (n : Nat) (s : State) : (raisePage n s).mem.mapCache = s.mem.mapCache := rfl
@[simp] theorem raisePage_replay (n : Nat) (s : State) : (raisePage n s).mem.replay = s.mem.replay := rfl
@[simp] theorem raisePage_nextPark (n : Nat) (s : State) : (raisePage n s).mem.nextPark = s.mem.nextPark := rfl
@[simp] theorem raisePage_mc (n : Nat) (s : State) : (raisePage n s).mem.mc = s.mem.mc := rfl
@[simp] theorem raisePage_faq (n : Nat) (s : State) : (raisePage n s).mem.faq = s.mem.faq := rfl
@[simp] theorem raisePage_bpl (n : Nat) (s : State) : (raisePage n s).mem.bpl = s.mem.bpl := rfl
@[simp] theorem raisePage_homeHeld (n : Nat) (s : State) : (raisePage n s).mem.homeHeld = s.mem.homeHeld := rfl

/-! ### toController -/

@[simp] theorem toController_strand (i : Fin 15) (n : Nat) (s : State) : (toController i n s).strand = s.strand := by unfold toController; dsimp only; split <;> rfl
@[simp] theorem toController_sys (i : Fin 15) (n : Nat) (s : State) : (toController i n s).sys = s.sys := by unfold toController; dsimp only; split <;> rfl
@[simp] theorem toController_store (i : Fin 15) (n : Nat) (s : State) : (toController i n s).store = s.store := by unfold toController; dsimp only; split <;> rfl
@[simp] theorem toController_thatch (i : Fin 15) (n : Nat) (s : State) : (toController i n s).thatch = s.thatch := by unfold toController; dsimp only; split <;> rfl
@[simp] theorem toController_fab (i : Fin 15) (n : Nat) (s : State) : (toController i n s).fab = s.fab := by unfold toController; dsimp only; split <;> rfl
@[simp] theorem toController_grp (i : Fin 15) (n : Nat) (s : State) : (toController i n s).grp = s.grp := by unfold toController; dsimp only; split <;> rfl
@[simp] theorem toController_links (i : Fin 15) (n : Nat) (s : State) : (toController i n s).links = s.links := by unfold toController; dsimp only; split <;> rfl
@[simp] theorem toController_pkg (i : Fin 15) (n : Nat) (s : State) : (toController i n s).pkg = s.pkg := by unfold toController; dsimp only; split <;> rfl
@[simp] theorem toController_prof (i : Fin 15) (n : Nat) (s : State) : (toController i n s).prof = s.prof := by unfold toController; dsimp only; split <;> rfl
@[simp] theorem toController_agenda (i : Fin 15) (n : Nat) (s : State) : (toController i n s).agenda = s.agenda := by unfold toController; dsimp only; split <;> rfl
@[simp] theorem toController_pace (i : Fin 15) (n : Nat) (s : State) : (toController i n s).pace = s.pace := by unfold toController; dsimp only; split <;> rfl
@[simp] theorem toController_freeCount (i : Fin 15) (n : Nat) (s : State) : (toController i n s).freeCount = s.freeCount := by unfold toController; dsimp only; split <;> rfl
@[simp] theorem toController_mem (i : Fin 15) (n : Nat) (s : State) : (toController i n s).mem.mem = s.mem.mem := by unfold toController; dsimp only; split <;> rfl
@[simp] theorem toController_poison (i : Fin 15) (n : Nat) (s : State) : (toController i n s).mem.poison = s.mem.poison := by unfold toController; dsimp only; split <;> rfl
@[simp] theorem toController_dirty (i : Fin 15) (n : Nat) (s : State) : (toController i n s).mem.dirty = s.mem.dirty := by unfold toController; dsimp only; split <;> rfl
@[simp] theorem toController_segs (i : Fin 15) (n : Nat) (s : State) : (toController i n s).mem.segs = s.mem.segs := by unfold toController; dsimp only; split <;> rfl
@[simp] theorem toController_tlb (i : Fin 15) (n : Nat) (s : State) : (toController i n s).mem.tlb = s.mem.tlb := by unfold toController; dsimp only; split <;> rfl
@[simp] theorem toController_mapCache (i : Fin 15) (n : Nat) (s : State) : (toController i n s).mem.mapCache = s.mem.mapCache := by unfold toController; dsimp only; split <;> rfl
@[simp] theorem toController_replay (i : Fin 15) (n : Nat) (s : State) : (toController i n s).mem.replay = s.mem.replay := by unfold toController; dsimp only; split <;> rfl
@[simp] theorem toController_nextPark (i : Fin 15) (n : Nat) (s : State) : (toController i n s).mem.nextPark = s.mem.nextPark := by unfold toController; dsimp only; split <;> rfl
@[simp] theorem toController_faq (i : Fin 15) (n : Nat) (s : State) : (toController i n s).mem.faq = s.mem.faq := by unfold toController; dsimp only; split <;> rfl
@[simp] theorem toController_bpl (i : Fin 15) (n : Nat) (s : State) : (toController i n s).mem.bpl = s.mem.bpl := by unfold toController; dsimp only; split <;> rfl
@[simp] theorem toController_sweeps (i : Fin 15) (n : Nat) (s : State) : (toController i n s).mem.sweeps = s.mem.sweeps := by unfold toController; dsimp only; split <;> rfl
@[simp] theorem toController_homeHeld (i : Fin 15) (n : Nat) (s : State) : (toController i n s).mem.homeHeld = s.mem.homeHeld := by unfold toController; dsimp only; split <;> rfl

/-! ### unsend -/

@[simp] theorem unsend_strand (n : Nat) (s : State) : (unsend n s).strand = s.strand := rfl
@[simp] theorem unsend_sys (n : Nat) (s : State) : (unsend n s).sys = s.sys := rfl
@[simp] theorem unsend_store (n : Nat) (s : State) : (unsend n s).store = s.store := rfl
@[simp] theorem unsend_thatch (n : Nat) (s : State) : (unsend n s).thatch = s.thatch := rfl
@[simp] theorem unsend_fab (n : Nat) (s : State) : (unsend n s).fab = s.fab := rfl
@[simp] theorem unsend_grp (n : Nat) (s : State) : (unsend n s).grp = s.grp := rfl
@[simp] theorem unsend_links (n : Nat) (s : State) : (unsend n s).links = s.links := rfl
@[simp] theorem unsend_pkg (n : Nat) (s : State) : (unsend n s).pkg = s.pkg := rfl
@[simp] theorem unsend_prof (n : Nat) (s : State) : (unsend n s).prof = s.prof := rfl
@[simp] theorem unsend_agenda (n : Nat) (s : State) : (unsend n s).agenda = s.agenda := rfl
@[simp] theorem unsend_pace (n : Nat) (s : State) : (unsend n s).pace = s.pace := rfl
@[simp] theorem unsend_freeCount (n : Nat) (s : State) : (unsend n s).freeCount = s.freeCount := rfl
@[simp] theorem unsend_mem (n : Nat) (s : State) : (unsend n s).mem.mem = s.mem.mem := rfl
@[simp] theorem unsend_poison (n : Nat) (s : State) : (unsend n s).mem.poison = s.mem.poison := rfl
@[simp] theorem unsend_dirty (n : Nat) (s : State) : (unsend n s).mem.dirty = s.mem.dirty := rfl
@[simp] theorem unsend_segs (n : Nat) (s : State) : (unsend n s).mem.segs = s.mem.segs := rfl
@[simp] theorem unsend_tlb (n : Nat) (s : State) : (unsend n s).mem.tlb = s.mem.tlb := rfl
@[simp] theorem unsend_mapCache (n : Nat) (s : State) : (unsend n s).mem.mapCache = s.mem.mapCache := rfl
@[simp] theorem unsend_replay (n : Nat) (s : State) : (unsend n s).mem.replay = s.mem.replay := rfl
@[simp] theorem unsend_nextPark (n : Nat) (s : State) : (unsend n s).mem.nextPark = s.mem.nextPark := rfl
@[simp] theorem unsend_mc (n : Nat) (s : State) : (unsend n s).mem.mc = s.mem.mc := rfl
@[simp] theorem unsend_faq (n : Nat) (s : State) : (unsend n s).mem.faq = s.mem.faq := rfl
@[simp] theorem unsend_bpl (n : Nat) (s : State) : (unsend n s).mem.bpl = s.mem.bpl := rfl
@[simp] theorem unsend_homeHeld (n : Nat) (s : State) : (unsend n s).mem.homeHeld = s.mem.homeHeld := rfl

/-! ### unstall -/

@[simp] theorem unstall_sys (s : State) : (unstall s).sys = s.sys := rfl
@[simp] theorem unstall_store (s : State) : (unstall s).store = s.store := rfl
@[simp] theorem unstall_thatch (s : State) : (unstall s).thatch = s.thatch := rfl
@[simp] theorem unstall_mem (s : State) : (unstall s).mem = s.mem := rfl
@[simp] theorem unstall_fab (s : State) : (unstall s).fab = s.fab := rfl
@[simp] theorem unstall_grp (s : State) : (unstall s).grp = s.grp := rfl
@[simp] theorem unstall_links (s : State) : (unstall s).links = s.links := rfl
@[simp] theorem unstall_pkg (s : State) : (unstall s).pkg = s.pkg := rfl
@[simp] theorem unstall_prof (s : State) : (unstall s).prof = s.prof := rfl
@[simp] theorem unstall_agenda (s : State) : (unstall s).agenda = s.agenda := rfl
@[simp] theorem unstall_pace (s : State) : (unstall s).pace = s.pace := rfl
@[simp] theorem unstall_freeCount (s : State) : (unstall s).freeCount = s.freeCount := rfl
@[simp] theorem unstall_g (s : State) : (unstall s).strand.g = s.strand.g := rfl
@[simp] theorem unstall_tb (s : State) : (unstall s).strand.tb = s.strand.tb := rfl
@[simp] theorem unstall_c (s : State) : (unstall s).strand.c = s.strand.c := rfl
@[simp] theorem unstall_lc (s : State) : (unstall s).strand.lc = s.strand.lc := rfl
@[simp] theorem unstall_bounds (s : State) : (unstall s).strand.bounds = s.strand.bounds := rfl
@[simp] theorem unstall_pc (s : State) : (unstall s).strand.pc = s.strand.pc := rfl
@[simp] theorem unstall_ras (s : State) : (unstall s).strand.ras = s.strand.ras := rfl
@[simp] theorem unstall_rasi (s : State) : (unstall s).strand.rasi = s.strand.rasi := rfl
@[simp] theorem unstall_spill (s : State) : (unstall s).strand.spill = s.strand.spill := rfl
@[simp] theorem unstall_cq (s : State) : (unstall s).strand.cq = s.strand.cq := rfl
@[simp] theorem unstall_xstat (s : State) : (unstall s).strand.xstat = s.strand.xstat := rfl
@[simp] theorem unstall_pend (s : State) : (unstall s).strand.pend = s.strand.pend := rfl
@[simp] theorem unstall_rep (s : State) : (unstall s).strand.rep = s.strand.rep := rfl
@[simp] theorem unstall_loads (s : State) : (unstall s).strand.loads = s.strand.loads := rfl
@[simp] theorem unstall_copies (s : State) : (unstall s).strand.copies = s.strand.copies := rfl
@[simp] theorem unstall_icount (s : State) : (unstall s).strand.icount = s.strand.icount := rfl
@[simp] theorem unstall_run (s : State) : (unstall s).strand.run = s.strand.run := rfl
@[simp] theorem unstall_stalled (s : State) : (unstall s).strand.stalled = false := rfl
@[simp] theorem unstall_asleep (s : State) : (unstall s).strand.asleep = s.strand.asleep := rfl
@[simp] theorem unstall_semAdded (s : State) : (unstall s).strand.semAdded = s.strand.semAdded := rfl
@[simp] theorem unstall_iterEnd (s : State) : (unstall s).strand.iterEnd = s.strand.iterEnd := rfl
@[simp] theorem unstall_cbrSaved (s : State) : (unstall s).strand.cbrSaved = s.strand.cbrSaved := rfl
@[simp] theorem unstall_ridgeWait (s : State) : (unstall s).strand.ridgeWait = s.strand.ridgeWait := rfl
@[simp] theorem unstall_text (s : State) : (unstall s).strand.text = s.strand.text := rfl
@[simp] theorem unstall_textLines (s : State) : (unstall s).strand.textLines = s.strand.textLines := rfl

/-! ### withSys -/

@[simp] theorem withSys_strand (s : State) (r : SysRegs) : (withSys s r).strand = s.strand := rfl
@[simp] theorem withSys_store (s : State) (r : SysRegs) : (withSys s r).store = s.store := rfl
@[simp] theorem withSys_thatch (s : State) (r : SysRegs) : (withSys s r).thatch = s.thatch := rfl
@[simp] theorem withSys_mem (s : State) (r : SysRegs) : (withSys s r).mem = s.mem := rfl
@[simp] theorem withSys_fab (s : State) (r : SysRegs) : (withSys s r).fab = s.fab := rfl
@[simp] theorem withSys_grp (s : State) (r : SysRegs) : (withSys s r).grp = s.grp := rfl
@[simp] theorem withSys_links (s : State) (r : SysRegs) : (withSys s r).links = s.links := rfl
@[simp] theorem withSys_pkg (s : State) (r : SysRegs) : (withSys s r).pkg = s.pkg := rfl
@[simp] theorem withSys_prof (s : State) (r : SysRegs) : (withSys s r).prof = s.prof := rfl
@[simp] theorem withSys_agenda (s : State) (r : SysRegs) : (withSys s r).agenda = s.agenda := rfl
@[simp] theorem withSys_pace (s : State) (r : SysRegs) : (withSys s r).pace = s.pace := rfl
@[simp] theorem withSys_freeCount (s : State) (r : SysRegs) : (withSys s r).freeCount = s.freeCount := rfl
@[simp] theorem withSys_sys (s : State) (r : SysRegs) : (withSys s r).sys = r := rfl

/-! ### mergeFlags -/

@[simp] theorem mergeFlags_strand (s : State) (f : BitVec 6) : (mergeFlags s f).strand = s.strand := rfl
@[simp] theorem mergeFlags_store (s : State) (f : BitVec 6) : (mergeFlags s f).store = s.store := rfl
@[simp] theorem mergeFlags_thatch (s : State) (f : BitVec 6) : (mergeFlags s f).thatch = s.thatch := rfl
@[simp] theorem mergeFlags_mem (s : State) (f : BitVec 6) : (mergeFlags s f).mem = s.mem := rfl
@[simp] theorem mergeFlags_fab (s : State) (f : BitVec 6) : (mergeFlags s f).fab = s.fab := rfl
@[simp] theorem mergeFlags_grp (s : State) (f : BitVec 6) : (mergeFlags s f).grp = s.grp := rfl
@[simp] theorem mergeFlags_links (s : State) (f : BitVec 6) : (mergeFlags s f).links = s.links := rfl
@[simp] theorem mergeFlags_pkg (s : State) (f : BitVec 6) : (mergeFlags s f).pkg = s.pkg := rfl
@[simp] theorem mergeFlags_prof (s : State) (f : BitVec 6) : (mergeFlags s f).prof = s.prof := rfl
@[simp] theorem mergeFlags_agenda (s : State) (f : BitVec 6) : (mergeFlags s f).agenda = s.agenda := rfl
@[simp] theorem mergeFlags_pace (s : State) (f : BitVec 6) : (mergeFlags s f).pace = s.pace := rfl
@[simp] theorem mergeFlags_freeCount (s : State) (f : BitVec 6) : (mergeFlags s f).freeCount = s.freeCount := rfl
@[simp] theorem mergeFlags_sys (s : State) (f : BitVec 6) : (mergeFlags s f).sys = { s.sys with flags := s.sys.flags ||| f } := rfl

/-! ### withPkg -/

@[simp] theorem withPkg_strand (p : Package) (s : State) : (withPkg p s).strand = s.strand := rfl
@[simp] theorem withPkg_sys (p : Package) (s : State) : (withPkg p s).sys = s.sys := rfl
@[simp] theorem withPkg_store (p : Package) (s : State) : (withPkg p s).store = s.store := rfl
@[simp] theorem withPkg_thatch (p : Package) (s : State) : (withPkg p s).thatch = s.thatch := rfl
@[simp] theorem withPkg_mem (p : Package) (s : State) : (withPkg p s).mem = s.mem := rfl
@[simp] theorem withPkg_fab (p : Package) (s : State) : (withPkg p s).fab = s.fab := rfl
@[simp] theorem withPkg_grp (p : Package) (s : State) : (withPkg p s).grp = s.grp := rfl
@[simp] theorem withPkg_links (p : Package) (s : State) : (withPkg p s).links = s.links := rfl
@[simp] theorem withPkg_prof (p : Package) (s : State) : (withPkg p s).prof = s.prof := rfl
@[simp] theorem withPkg_agenda (p : Package) (s : State) : (withPkg p s).agenda = s.agenda := rfl
@[simp] theorem withPkg_pace (p : Package) (s : State) : (withPkg p s).pace = s.pace := rfl
@[simp] theorem withPkg_freeCount (p : Package) (s : State) : (withPkg p s).freeCount = s.freeCount := rfl
@[simp] theorem withPkg_pkg (p : Package) (s : State) : (withPkg p s).pkg = p := rfl

/-! ### answer -/

@[simp] theorem answer_strand (a : Answer) (s : State) : (answer a s).strand = s.strand := rfl
@[simp] theorem answer_sys (a : Answer) (s : State) : (answer a s).sys = s.sys := rfl
@[simp] theorem answer_store (a : Answer) (s : State) : (answer a s).store = s.store := rfl
@[simp] theorem answer_thatch (a : Answer) (s : State) : (answer a s).thatch = s.thatch := rfl
@[simp] theorem answer_mem (a : Answer) (s : State) : (answer a s).mem = s.mem := rfl
@[simp] theorem answer_fab (a : Answer) (s : State) : (answer a s).fab = s.fab := rfl
@[simp] theorem answer_grp (a : Answer) (s : State) : (answer a s).grp = s.grp := rfl
@[simp] theorem answer_links (a : Answer) (s : State) : (answer a s).links = s.links := rfl
@[simp] theorem answer_prof (a : Answer) (s : State) : (answer a s).prof = s.prof := rfl
@[simp] theorem answer_agenda (a : Answer) (s : State) : (answer a s).agenda = s.agenda := rfl
@[simp] theorem answer_pace (a : Answer) (s : State) : (answer a s).pace = s.pace := rfl
@[simp] theorem answer_freeCount (a : Answer) (s : State) : (answer a s).freeCount = s.freeCount := rfl
@[simp] theorem answer_pkg (a : Answer) (s : State) : (answer a s).pkg = { s.pkg with answers := s.pkg.answers ++ [a] } := rfl

/-! ### wakeAt -/

@[simp] theorem wakeAt_strand (pa : Nat) (s : State) : (wakeAt pa s).strand = s.strand := rfl
@[simp] theorem wakeAt_sys (pa : Nat) (s : State) : (wakeAt pa s).sys = s.sys := rfl
@[simp] theorem wakeAt_store (pa : Nat) (s : State) : (wakeAt pa s).store = s.store := rfl
@[simp] theorem wakeAt_thatch (pa : Nat) (s : State) : (wakeAt pa s).thatch = s.thatch := rfl
@[simp] theorem wakeAt_mem (pa : Nat) (s : State) : (wakeAt pa s).mem = s.mem := rfl
@[simp] theorem wakeAt_fab (pa : Nat) (s : State) : (wakeAt pa s).fab = s.fab := rfl
@[simp] theorem wakeAt_grp (pa : Nat) (s : State) : (wakeAt pa s).grp = s.grp := rfl
@[simp] theorem wakeAt_links (pa : Nat) (s : State) : (wakeAt pa s).links = s.links := rfl
@[simp] theorem wakeAt_prof (pa : Nat) (s : State) : (wakeAt pa s).prof = s.prof := rfl
@[simp] theorem wakeAt_agenda (pa : Nat) (s : State) : (wakeAt pa s).agenda = s.agenda := rfl
@[simp] theorem wakeAt_pace (pa : Nat) (s : State) : (wakeAt pa s).pace = s.pace := rfl
@[simp] theorem wakeAt_freeCount (pa : Nat) (s : State) : (wakeAt pa s).freeCount = s.freeCount := rfl

/-! ### wakeDie -/

@[simp] theorem wakeDie_strand (d : Nat) (s : State) : (wakeDie d s).strand = s.strand := rfl
@[simp] theorem wakeDie_sys (d : Nat) (s : State) : (wakeDie d s).sys = s.sys := rfl
@[simp] theorem wakeDie_store (d : Nat) (s : State) : (wakeDie d s).store = s.store := rfl
@[simp] theorem wakeDie_thatch (d : Nat) (s : State) : (wakeDie d s).thatch = s.thatch := rfl
@[simp] theorem wakeDie_mem (d : Nat) (s : State) : (wakeDie d s).mem = s.mem := rfl
@[simp] theorem wakeDie_fab (d : Nat) (s : State) : (wakeDie d s).fab = s.fab := rfl
@[simp] theorem wakeDie_grp (d : Nat) (s : State) : (wakeDie d s).grp = s.grp := rfl
@[simp] theorem wakeDie_links (d : Nat) (s : State) : (wakeDie d s).links = s.links := rfl
@[simp] theorem wakeDie_prof (d : Nat) (s : State) : (wakeDie d s).prof = s.prof := rfl
@[simp] theorem wakeDie_agenda (d : Nat) (s : State) : (wakeDie d s).agenda = s.agenda := rfl
@[simp] theorem wakeDie_pace (d : Nat) (s : State) : (wakeDie d s).pace = s.pace := rfl
@[simp] theorem wakeDie_freeCount (d : Nat) (s : State) : (wakeDie d s).freeCount = s.freeCount := rfl

/-! ### wakeCore -/

@[simp] theorem wakeCore_strand (c : Nat) (s : State) : (wakeCore c s).strand = s.strand := rfl
@[simp] theorem wakeCore_sys (c : Nat) (s : State) : (wakeCore c s).sys = s.sys := rfl
@[simp] theorem wakeCore_store (c : Nat) (s : State) : (wakeCore c s).store = s.store := rfl
@[simp] theorem wakeCore_thatch (c : Nat) (s : State) : (wakeCore c s).thatch = s.thatch := rfl
@[simp] theorem wakeCore_mem (c : Nat) (s : State) : (wakeCore c s).mem = s.mem := rfl
@[simp] theorem wakeCore_fab (c : Nat) (s : State) : (wakeCore c s).fab = s.fab := rfl
@[simp] theorem wakeCore_grp (c : Nat) (s : State) : (wakeCore c s).grp = s.grp := rfl
@[simp] theorem wakeCore_links (c : Nat) (s : State) : (wakeCore c s).links = s.links := rfl
@[simp] theorem wakeCore_prof (c : Nat) (s : State) : (wakeCore c s).prof = s.prof := rfl
@[simp] theorem wakeCore_agenda (c : Nat) (s : State) : (wakeCore c s).agenda = s.agenda := rfl
@[simp] theorem wakeCore_pace (c : Nat) (s : State) : (wakeCore c s).pace = s.pace := rfl
@[simp] theorem wakeCore_freeCount (c : Nat) (s : State) : (wakeCore c s).freeCount = s.freeCount := rfl

/-! ### wakeAll -/

@[simp] theorem wakeAll_strand (s : State) : (wakeAll s).strand = s.strand := rfl
@[simp] theorem wakeAll_sys (s : State) : (wakeAll s).sys = s.sys := rfl
@[simp] theorem wakeAll_store (s : State) : (wakeAll s).store = s.store := rfl
@[simp] theorem wakeAll_thatch (s : State) : (wakeAll s).thatch = s.thatch := rfl
@[simp] theorem wakeAll_mem (s : State) : (wakeAll s).mem = s.mem := rfl
@[simp] theorem wakeAll_fab (s : State) : (wakeAll s).fab = s.fab := rfl
@[simp] theorem wakeAll_grp (s : State) : (wakeAll s).grp = s.grp := rfl
@[simp] theorem wakeAll_links (s : State) : (wakeAll s).links = s.links := rfl
@[simp] theorem wakeAll_prof (s : State) : (wakeAll s).prof = s.prof := rfl
@[simp] theorem wakeAll_agenda (s : State) : (wakeAll s).agenda = s.agenda := rfl
@[simp] theorem wakeAll_pace (s : State) : (wakeAll s).pace = s.pace := rfl
@[simp] theorem wakeAll_freeCount (s : State) : (wakeAll s).freeCount = s.freeCount := rfl
@[simp] theorem wakeAll_pkg (s : State) : (wakeAll s).pkg = { s.pkg with gated := [] } := rfl

/-! ### withLink -/

@[simp] theorem withLink_strand (p : Fin 24) (l : Link) (s : State) : (withLink p l s).strand = s.strand := rfl
@[simp] theorem withLink_sys (p : Fin 24) (l : Link) (s : State) : (withLink p l s).sys = s.sys := rfl
@[simp] theorem withLink_store (p : Fin 24) (l : Link) (s : State) : (withLink p l s).store = s.store := rfl
@[simp] theorem withLink_thatch (p : Fin 24) (l : Link) (s : State) : (withLink p l s).thatch = s.thatch := rfl
@[simp] theorem withLink_mem (p : Fin 24) (l : Link) (s : State) : (withLink p l s).mem = s.mem := rfl
@[simp] theorem withLink_fab (p : Fin 24) (l : Link) (s : State) : (withLink p l s).fab = s.fab := rfl
@[simp] theorem withLink_grp (p : Fin 24) (l : Link) (s : State) : (withLink p l s).grp = s.grp := rfl
@[simp] theorem withLink_pkg (p : Fin 24) (l : Link) (s : State) : (withLink p l s).pkg = s.pkg := rfl
@[simp] theorem withLink_prof (p : Fin 24) (l : Link) (s : State) : (withLink p l s).prof = s.prof := rfl
@[simp] theorem withLink_agenda (p : Fin 24) (l : Link) (s : State) : (withLink p l s).agenda = s.agenda := rfl
@[simp] theorem withLink_pace (p : Fin 24) (l : Link) (s : State) : (withLink p l s).pace = s.pace := rfl
@[simp] theorem withLink_freeCount (p : Fin 24) (l : Link) (s : State) : (withLink p l s).freeCount = s.freeCount := rfl
@[simp] theorem withLink_links (p : Fin 24) (l : Link) (s : State) : (withLink p l s).links = s.links.set p l := rfl

/-! ### setBox -/

@[simp] theorem setBox_strand (s : State) (x : Bx) (v : BoxReg) : (setBox s x v).strand = s.strand := rfl
@[simp] theorem setBox_sys (s : State) (x : Bx) (v : BoxReg) : (setBox s x v).sys = s.sys := rfl
@[simp] theorem setBox_thatch (s : State) (x : Bx) (v : BoxReg) : (setBox s x v).thatch = s.thatch := rfl
@[simp] theorem setBox_mem (s : State) (x : Bx) (v : BoxReg) : (setBox s x v).mem = s.mem := rfl
@[simp] theorem setBox_fab (s : State) (x : Bx) (v : BoxReg) : (setBox s x v).fab = s.fab := rfl
@[simp] theorem setBox_grp (s : State) (x : Bx) (v : BoxReg) : (setBox s x v).grp = s.grp := rfl
@[simp] theorem setBox_links (s : State) (x : Bx) (v : BoxReg) : (setBox s x v).links = s.links := rfl
@[simp] theorem setBox_pkg (s : State) (x : Bx) (v : BoxReg) : (setBox s x v).pkg = s.pkg := rfl
@[simp] theorem setBox_prof (s : State) (x : Bx) (v : BoxReg) : (setBox s x v).prof = s.prof := rfl
@[simp] theorem setBox_agenda (s : State) (x : Bx) (v : BoxReg) : (setBox s x v).agenda = s.agenda := rfl
@[simp] theorem setBox_pace (s : State) (x : Bx) (v : BoxReg) : (setBox s x v).pace = s.pace := rfl
@[simp] theorem setBox_freeCount (s : State) (x : Bx) (v : BoxReg) : (setBox s x v).freeCount = s.freeCount := rfl
@[simp] theorem setBox_spad (s : State) (x : Bx) (v : BoxReg) : (setBox s x v).store.spad = s.store.spad := rfl
@[simp] theorem setBox_acc (s : State) (x : Bx) (v : BoxReg) : (setBox s x v).store.acc = s.store.acc := rfl
@[simp] theorem setBox_husks (s : State) (x : Bx) (v : BoxReg) : (setBox s x v).store.husks = s.store.husks := rfl
@[simp] theorem setBox_tabs (s : State) (x : Bx) (v : BoxReg) : (setBox s x v).store.tabs = s.store.tabs := rfl
@[simp] theorem setBox_boxes (s : State) (x : Bx) (v : BoxReg) : (setBox s x v).store.boxes = s.store.boxes.set x v := rfl
@[simp] theorem setBox_sems (s : State) (x : Bx) (v : BoxReg) : (setBox s x v).store.sems = s.store.sems := rfl
@[simp] theorem setBox_blocks (s : State) (x : Bx) (v : BoxReg) : (setBox s x v).store.blocks = s.store.blocks := rfl
@[simp] theorem setBox_bindings (s : State) (x : Bx) (v : BoxReg) : (setBox s x v).store.bindings = s.store.bindings := rfl
@[simp] theorem setBox_fenced (s : State) (x : Bx) (v : BoxReg) : (setBox s x v).store.fenced = s.store.fenced := rfl
@[simp] theorem setBox_failing (s : State) (x : Bx) (v : BoxReg) : (setBox s x v).store.failing = s.store.failing := rfl
@[simp] theorem setBox_mCount (s : State) (x : Bx) (v : BoxReg) : (setBox s x v).store.mCount = s.store.mCount := rfl
@[simp] theorem setBox_testDue (s : State) (x : Bx) (v : BoxReg) : (setBox s x v).store.testDue = s.store.testDue := rfl

/-! ### setSem -/

@[simp] theorem setSem_strand (n : Nat) (v : BitVec 32) (s : State) : (setSem n v s).strand = s.strand := rfl
@[simp] theorem setSem_sys (n : Nat) (v : BitVec 32) (s : State) : (setSem n v s).sys = s.sys := rfl
@[simp] theorem setSem_thatch (n : Nat) (v : BitVec 32) (s : State) : (setSem n v s).thatch = s.thatch := rfl
@[simp] theorem setSem_mem (n : Nat) (v : BitVec 32) (s : State) : (setSem n v s).mem = s.mem := rfl
@[simp] theorem setSem_fab (n : Nat) (v : BitVec 32) (s : State) : (setSem n v s).fab = s.fab := rfl
@[simp] theorem setSem_grp (n : Nat) (v : BitVec 32) (s : State) : (setSem n v s).grp = s.grp := rfl
@[simp] theorem setSem_links (n : Nat) (v : BitVec 32) (s : State) : (setSem n v s).links = s.links := rfl
@[simp] theorem setSem_pkg (n : Nat) (v : BitVec 32) (s : State) : (setSem n v s).pkg = s.pkg := rfl
@[simp] theorem setSem_prof (n : Nat) (v : BitVec 32) (s : State) : (setSem n v s).prof = s.prof := rfl
@[simp] theorem setSem_agenda (n : Nat) (v : BitVec 32) (s : State) : (setSem n v s).agenda = s.agenda := rfl
@[simp] theorem setSem_pace (n : Nat) (v : BitVec 32) (s : State) : (setSem n v s).pace = s.pace := rfl
@[simp] theorem setSem_freeCount (n : Nat) (v : BitVec 32) (s : State) : (setSem n v s).freeCount = s.freeCount := rfl
@[simp] theorem setSem_spad (n : Nat) (v : BitVec 32) (s : State) : (setSem n v s).store.spad = s.store.spad := rfl
@[simp] theorem setSem_acc (n : Nat) (v : BitVec 32) (s : State) : (setSem n v s).store.acc = s.store.acc := rfl
@[simp] theorem setSem_husks (n : Nat) (v : BitVec 32) (s : State) : (setSem n v s).store.husks = s.store.husks := rfl
@[simp] theorem setSem_tabs (n : Nat) (v : BitVec 32) (s : State) : (setSem n v s).store.tabs = s.store.tabs := rfl
@[simp] theorem setSem_boxes (n : Nat) (v : BitVec 32) (s : State) : (setSem n v s).store.boxes = s.store.boxes := rfl
@[simp] theorem setSem_sems (n : Nat) (v : BitVec 32) (s : State) : (setSem n v s).store.sems = tset 0 s.store.sems n v := rfl
@[simp] theorem setSem_blocks (n : Nat) (v : BitVec 32) (s : State) : (setSem n v s).store.blocks = s.store.blocks := rfl
@[simp] theorem setSem_bindings (n : Nat) (v : BitVec 32) (s : State) : (setSem n v s).store.bindings = s.store.bindings := rfl
@[simp] theorem setSem_fenced (n : Nat) (v : BitVec 32) (s : State) : (setSem n v s).store.fenced = s.store.fenced := rfl
@[simp] theorem setSem_failing (n : Nat) (v : BitVec 32) (s : State) : (setSem n v s).store.failing = s.store.failing := rfl
@[simp] theorem setSem_mCount (n : Nat) (v : BitVec 32) (s : State) : (setSem n v s).store.mCount = s.store.mCount := rfl
@[simp] theorem setSem_testDue (n : Nat) (v : BitVec 32) (s : State) : (setSem n v s).store.testDue = s.store.testDue := rfl

/-! ### setHusk -/

@[simp] theorem setHusk_strand (n : Nat) (h : Husk) (s : State) : (setHusk n h s).strand = s.strand := rfl
@[simp] theorem setHusk_sys (n : Nat) (h : Husk) (s : State) : (setHusk n h s).sys = s.sys := rfl
@[simp] theorem setHusk_thatch (n : Nat) (h : Husk) (s : State) : (setHusk n h s).thatch = s.thatch := rfl
@[simp] theorem setHusk_mem (n : Nat) (h : Husk) (s : State) : (setHusk n h s).mem = s.mem := rfl
@[simp] theorem setHusk_fab (n : Nat) (h : Husk) (s : State) : (setHusk n h s).fab = s.fab := rfl
@[simp] theorem setHusk_grp (n : Nat) (h : Husk) (s : State) : (setHusk n h s).grp = s.grp := rfl
@[simp] theorem setHusk_links (n : Nat) (h : Husk) (s : State) : (setHusk n h s).links = s.links := rfl
@[simp] theorem setHusk_pkg (n : Nat) (h : Husk) (s : State) : (setHusk n h s).pkg = s.pkg := rfl
@[simp] theorem setHusk_prof (n : Nat) (h : Husk) (s : State) : (setHusk n h s).prof = s.prof := rfl
@[simp] theorem setHusk_agenda (n : Nat) (h : Husk) (s : State) : (setHusk n h s).agenda = s.agenda := rfl
@[simp] theorem setHusk_pace (n : Nat) (h : Husk) (s : State) : (setHusk n h s).pace = s.pace := rfl
@[simp] theorem setHusk_freeCount (n : Nat) (h : Husk) (s : State) : (setHusk n h s).freeCount = s.freeCount := rfl
@[simp] theorem setHusk_spad (n : Nat) (h : Husk) (s : State) : (setHusk n h s).store.spad = s.store.spad := rfl
@[simp] theorem setHusk_acc (n : Nat) (h : Husk) (s : State) : (setHusk n h s).store.acc = s.store.acc := rfl
@[simp] theorem setHusk_tabs (n : Nat) (h : Husk) (s : State) : (setHusk n h s).store.tabs = s.store.tabs := rfl
@[simp] theorem setHusk_boxes (n : Nat) (h : Husk) (s : State) : (setHusk n h s).store.boxes = s.store.boxes := rfl
@[simp] theorem setHusk_sems (n : Nat) (h : Husk) (s : State) : (setHusk n h s).store.sems = s.store.sems := rfl
@[simp] theorem setHusk_blocks (n : Nat) (h : Husk) (s : State) : (setHusk n h s).store.blocks = s.store.blocks := rfl
@[simp] theorem setHusk_bindings (n : Nat) (h : Husk) (s : State) : (setHusk n h s).store.bindings = s.store.bindings := rfl
@[simp] theorem setHusk_fenced (n : Nat) (h : Husk) (s : State) : (setHusk n h s).store.fenced = s.store.fenced := rfl
@[simp] theorem setHusk_failing (n : Nat) (h : Husk) (s : State) : (setHusk n h s).store.failing = s.store.failing := rfl
@[simp] theorem setHusk_mCount (n : Nat) (h : Husk) (s : State) : (setHusk n h s).store.mCount = s.store.mCount := rfl
@[simp] theorem setHusk_testDue (n : Nat) (h : Husk) (s : State) : (setHusk n h s).store.testDue = s.store.testDue := rfl

/-! ### putSpad -/

@[simp] theorem putSpad_strand (s : State) (off : Nat) (bs : List Byte) : (putSpad s off bs).strand = s.strand := rfl
@[simp] theorem putSpad_sys (s : State) (off : Nat) (bs : List Byte) : (putSpad s off bs).sys = s.sys := rfl
@[simp] theorem putSpad_thatch (s : State) (off : Nat) (bs : List Byte) : (putSpad s off bs).thatch = s.thatch := rfl
@[simp] theorem putSpad_mem (s : State) (off : Nat) (bs : List Byte) : (putSpad s off bs).mem = s.mem := rfl
@[simp] theorem putSpad_fab (s : State) (off : Nat) (bs : List Byte) : (putSpad s off bs).fab = s.fab := rfl
@[simp] theorem putSpad_grp (s : State) (off : Nat) (bs : List Byte) : (putSpad s off bs).grp = s.grp := rfl
@[simp] theorem putSpad_links (s : State) (off : Nat) (bs : List Byte) : (putSpad s off bs).links = s.links := rfl
@[simp] theorem putSpad_pkg (s : State) (off : Nat) (bs : List Byte) : (putSpad s off bs).pkg = s.pkg := rfl
@[simp] theorem putSpad_prof (s : State) (off : Nat) (bs : List Byte) : (putSpad s off bs).prof = s.prof := rfl
@[simp] theorem putSpad_agenda (s : State) (off : Nat) (bs : List Byte) : (putSpad s off bs).agenda = s.agenda := rfl
@[simp] theorem putSpad_pace (s : State) (off : Nat) (bs : List Byte) : (putSpad s off bs).pace = s.pace := rfl
@[simp] theorem putSpad_freeCount (s : State) (off : Nat) (bs : List Byte) : (putSpad s off bs).freeCount = s.freeCount := rfl
@[simp] theorem putSpad_spad (s : State) (off : Nat) (bs : List Byte) : (putSpad s off bs).store.spad = setBytes s.store.spad off (bs.take (Config.spadBytes - off)) := rfl
@[simp] theorem putSpad_acc (s : State) (off : Nat) (bs : List Byte) : (putSpad s off bs).store.acc = s.store.acc := rfl
@[simp] theorem putSpad_husks (s : State) (off : Nat) (bs : List Byte) : (putSpad s off bs).store.husks = s.store.husks := rfl
@[simp] theorem putSpad_tabs (s : State) (off : Nat) (bs : List Byte) : (putSpad s off bs).store.tabs = s.store.tabs := rfl
@[simp] theorem putSpad_boxes (s : State) (off : Nat) (bs : List Byte) : (putSpad s off bs).store.boxes = s.store.boxes := rfl
@[simp] theorem putSpad_sems (s : State) (off : Nat) (bs : List Byte) : (putSpad s off bs).store.sems = s.store.sems := rfl
@[simp] theorem putSpad_blocks (s : State) (off : Nat) (bs : List Byte) : (putSpad s off bs).store.blocks = s.store.blocks := rfl
@[simp] theorem putSpad_bindings (s : State) (off : Nat) (bs : List Byte) : (putSpad s off bs).store.bindings = s.store.bindings := rfl
@[simp] theorem putSpad_fenced (s : State) (off : Nat) (bs : List Byte) : (putSpad s off bs).store.fenced = s.store.fenced := rfl
@[simp] theorem putSpad_failing (s : State) (off : Nat) (bs : List Byte) : (putSpad s off bs).store.failing = s.store.failing := rfl
@[simp] theorem putSpad_mCount (s : State) (off : Nat) (bs : List Byte) : (putSpad s off bs).store.mCount = s.store.mCount := rfl
@[simp] theorem putSpad_testDue (s : State) (off : Nat) (bs : List Byte) : (putSpad s off bs).store.testDue = s.store.testDue := rfl

/-! ### putEntry -/

@[simp] theorem putEntry_strand (e : Entry) (s : State) : (putEntry e s).strand = s.strand := rfl
@[simp] theorem putEntry_sys (e : Entry) (s : State) : (putEntry e s).sys = s.sys := rfl
@[simp] theorem putEntry_store (e : Entry) (s : State) : (putEntry e s).store = s.store := rfl
@[simp] theorem putEntry_mem (e : Entry) (s : State) : (putEntry e s).mem = s.mem := rfl
@[simp] theorem putEntry_fab (e : Entry) (s : State) : (putEntry e s).fab = s.fab := rfl
@[simp] theorem putEntry_grp (e : Entry) (s : State) : (putEntry e s).grp = s.grp := rfl
@[simp] theorem putEntry_links (e : Entry) (s : State) : (putEntry e s).links = s.links := rfl
@[simp] theorem putEntry_pkg (e : Entry) (s : State) : (putEntry e s).pkg = s.pkg := rfl
@[simp] theorem putEntry_prof (e : Entry) (s : State) : (putEntry e s).prof = s.prof := rfl
@[simp] theorem putEntry_agenda (e : Entry) (s : State) : (putEntry e s).agenda = s.agenda := rfl
@[simp] theorem putEntry_pace (e : Entry) (s : State) : (putEntry e s).pace = s.pace := rfl
@[simp] theorem putEntry_freeCount (e : Entry) (s : State) : (putEntry e s).freeCount = s.freeCount := rfl
@[simp] theorem putEntry_entries (e : Entry) (s : State) : (putEntry e s).thatch.entries = s.thatch.entries.map (fun x => if x.slot = e.slot then e else x) := rfl
@[simp] theorem putEntry_nextSeq (e : Entry) (s : State) : (putEntry e s).thatch.nextSeq = s.thatch.nextSeq := rfl
@[simp] theorem putEntry_nextSlot (e : Entry) (s : State) : (putEntry e s).thatch.nextSlot = s.thatch.nextSlot := rfl
@[simp] theorem putEntry_dir (e : Entry) (s : State) : (putEntry e s).thatch.dir = s.thatch.dir := rfl
@[simp] theorem putEntry_stopped (e : Entry) (s : State) : (putEntry e s).thatch.stopped = s.thatch.stopped := rfl
@[simp] theorem putEntry_wire (e : Entry) (s : State) : (putEntry e s).thatch.wire = s.thatch.wire := rfl
@[simp] theorem putEntry_async (e : Entry) (s : State) : (putEntry e s).thatch.async = s.thatch.async := rfl
@[simp] theorem putEntry_partnersReduced (e : Entry) (s : State) : (putEntry e s).thatch.partnersReduced = s.thatch.partnersReduced := rfl
@[simp] theorem putEntry_partsReady (e : Entry) (s : State) : (putEntry e s).thatch.partsReady = s.thatch.partsReady := rfl
@[simp] theorem putEntry_partnersStart (e : Entry) (s : State) : (putEntry e s).thatch.partnersStart = s.thatch.partnersStart := rfl
@[simp] theorem putEntry_heldBy (e : Entry) (s : State) : (putEntry e s).thatch.heldBy = s.thatch.heldBy := rfl
@[simp] theorem putEntry_partsDue (e : Entry) (s : State) : (putEntry e s).thatch.partsDue = s.thatch.partsDue := rfl
@[simp] theorem putEntry_trapDue (e : Entry) (s : State) : (putEntry e s).thatch.trapDue = s.thatch.trapDue := rfl
@[simp] theorem putEntry_savePips (e : Entry) (s : State) : (putEntry e s).thatch.savePips = s.thatch.savePips := rfl

/-! ### dropEntry -/

@[simp] theorem dropEntry_strand (n : Nat) (s : State) : (dropEntry n s).strand = s.strand := rfl
@[simp] theorem dropEntry_sys (n : Nat) (s : State) : (dropEntry n s).sys = s.sys := rfl
@[simp] theorem dropEntry_store (n : Nat) (s : State) : (dropEntry n s).store = s.store := rfl
@[simp] theorem dropEntry_mem (n : Nat) (s : State) : (dropEntry n s).mem = s.mem := rfl
@[simp] theorem dropEntry_fab (n : Nat) (s : State) : (dropEntry n s).fab = s.fab := rfl
@[simp] theorem dropEntry_grp (n : Nat) (s : State) : (dropEntry n s).grp = s.grp := rfl
@[simp] theorem dropEntry_links (n : Nat) (s : State) : (dropEntry n s).links = s.links := rfl
@[simp] theorem dropEntry_pkg (n : Nat) (s : State) : (dropEntry n s).pkg = s.pkg := rfl
@[simp] theorem dropEntry_prof (n : Nat) (s : State) : (dropEntry n s).prof = s.prof := rfl
@[simp] theorem dropEntry_agenda (n : Nat) (s : State) : (dropEntry n s).agenda = s.agenda := rfl
@[simp] theorem dropEntry_pace (n : Nat) (s : State) : (dropEntry n s).pace = s.pace := rfl
@[simp] theorem dropEntry_freeCount (n : Nat) (s : State) : (dropEntry n s).freeCount = s.freeCount := rfl
@[simp] theorem dropEntry_entries (n : Nat) (s : State) : (dropEntry n s).thatch.entries = s.thatch.entries.filter (fun x => x.slot != n) := rfl
@[simp] theorem dropEntry_nextSeq (n : Nat) (s : State) : (dropEntry n s).thatch.nextSeq = s.thatch.nextSeq := rfl
@[simp] theorem dropEntry_nextSlot (n : Nat) (s : State) : (dropEntry n s).thatch.nextSlot = s.thatch.nextSlot := rfl
@[simp] theorem dropEntry_dir (n : Nat) (s : State) : (dropEntry n s).thatch.dir = s.thatch.dir := rfl
@[simp] theorem dropEntry_stopped (n : Nat) (s : State) : (dropEntry n s).thatch.stopped = s.thatch.stopped := rfl
@[simp] theorem dropEntry_wire (n : Nat) (s : State) : (dropEntry n s).thatch.wire = s.thatch.wire := rfl
@[simp] theorem dropEntry_async (n : Nat) (s : State) : (dropEntry n s).thatch.async = s.thatch.async := rfl
@[simp] theorem dropEntry_partnersReduced (n : Nat) (s : State) : (dropEntry n s).thatch.partnersReduced = s.thatch.partnersReduced := rfl
@[simp] theorem dropEntry_partsReady (n : Nat) (s : State) : (dropEntry n s).thatch.partsReady = s.thatch.partsReady := rfl
@[simp] theorem dropEntry_partnersStart (n : Nat) (s : State) : (dropEntry n s).thatch.partnersStart = s.thatch.partnersStart := rfl
@[simp] theorem dropEntry_heldBy (n : Nat) (s : State) : (dropEntry n s).thatch.heldBy = s.thatch.heldBy := rfl
@[simp] theorem dropEntry_partsDue (n : Nat) (s : State) : (dropEntry n s).thatch.partsDue = s.thatch.partsDue := rfl
@[simp] theorem dropEntry_trapDue (n : Nat) (s : State) : (dropEntry n s).thatch.trapDue = s.thatch.trapDue := rfl
@[simp] theorem dropEntry_savePips (n : Nat) (s : State) : (dropEntry n s).thatch.savePips = s.thatch.savePips := rfl

/-! ### pushEntry -/

@[simp] theorem pushEntry_strand (e : Entry) (s : State) : (pushEntry e s).strand = s.strand := rfl
@[simp] theorem pushEntry_sys (e : Entry) (s : State) : (pushEntry e s).sys = s.sys := rfl
@[simp] theorem pushEntry_store (e : Entry) (s : State) : (pushEntry e s).store = s.store := rfl
@[simp] theorem pushEntry_mem (e : Entry) (s : State) : (pushEntry e s).mem = s.mem := rfl
@[simp] theorem pushEntry_fab (e : Entry) (s : State) : (pushEntry e s).fab = s.fab := rfl
@[simp] theorem pushEntry_grp (e : Entry) (s : State) : (pushEntry e s).grp = s.grp := rfl
@[simp] theorem pushEntry_links (e : Entry) (s : State) : (pushEntry e s).links = s.links := rfl
@[simp] theorem pushEntry_pkg (e : Entry) (s : State) : (pushEntry e s).pkg = s.pkg := rfl
@[simp] theorem pushEntry_prof (e : Entry) (s : State) : (pushEntry e s).prof = s.prof := rfl
@[simp] theorem pushEntry_agenda (e : Entry) (s : State) : (pushEntry e s).agenda = s.agenda := rfl
@[simp] theorem pushEntry_pace (e : Entry) (s : State) : (pushEntry e s).pace = s.pace := rfl
@[simp] theorem pushEntry_freeCount (e : Entry) (s : State) : (pushEntry e s).freeCount = s.freeCount := rfl
@[simp] theorem pushEntry_entries (e : Entry) (s : State) : (pushEntry e s).thatch.entries = s.thatch.entries ++ [e] := rfl
@[simp] theorem pushEntry_nextSeq (e : Entry) (s : State) : (pushEntry e s).thatch.nextSeq = s.thatch.nextSeq := rfl
@[simp] theorem pushEntry_nextSlot (e : Entry) (s : State) : (pushEntry e s).thatch.nextSlot = s.thatch.nextSlot := rfl
@[simp] theorem pushEntry_dir (e : Entry) (s : State) : (pushEntry e s).thatch.dir = s.thatch.dir := rfl
@[simp] theorem pushEntry_stopped (e : Entry) (s : State) : (pushEntry e s).thatch.stopped = s.thatch.stopped := rfl
@[simp] theorem pushEntry_wire (e : Entry) (s : State) : (pushEntry e s).thatch.wire = s.thatch.wire := rfl
@[simp] theorem pushEntry_async (e : Entry) (s : State) : (pushEntry e s).thatch.async = s.thatch.async := rfl
@[simp] theorem pushEntry_partnersReduced (e : Entry) (s : State) : (pushEntry e s).thatch.partnersReduced = s.thatch.partnersReduced := rfl
@[simp] theorem pushEntry_partsReady (e : Entry) (s : State) : (pushEntry e s).thatch.partsReady = s.thatch.partsReady := rfl
@[simp] theorem pushEntry_partnersStart (e : Entry) (s : State) : (pushEntry e s).thatch.partnersStart = s.thatch.partnersStart := rfl
@[simp] theorem pushEntry_heldBy (e : Entry) (s : State) : (pushEntry e s).thatch.heldBy = s.thatch.heldBy := rfl
@[simp] theorem pushEntry_partsDue (e : Entry) (s : State) : (pushEntry e s).thatch.partsDue = s.thatch.partsDue := rfl
@[simp] theorem pushEntry_trapDue (e : Entry) (s : State) : (pushEntry e s).thatch.trapDue = s.thatch.trapDue := rfl
@[simp] theorem pushEntry_savePips (e : Entry) (s : State) : (pushEntry e s).thatch.savePips = s.thatch.savePips := rfl

/-! ### releaseAll -/

@[simp] theorem releaseAll_strand (s : State) : (releaseAll s).strand = s.strand := rfl
@[simp] theorem releaseAll_sys (s : State) : (releaseAll s).sys = s.sys := rfl
@[simp] theorem releaseAll_store (s : State) : (releaseAll s).store = s.store := rfl
@[simp] theorem releaseAll_mem (s : State) : (releaseAll s).mem = s.mem := rfl
@[simp] theorem releaseAll_fab (s : State) : (releaseAll s).fab = s.fab := rfl
@[simp] theorem releaseAll_grp (s : State) : (releaseAll s).grp = s.grp := rfl
@[simp] theorem releaseAll_links (s : State) : (releaseAll s).links = s.links := rfl
@[simp] theorem releaseAll_pkg (s : State) : (releaseAll s).pkg = s.pkg := rfl
@[simp] theorem releaseAll_prof (s : State) : (releaseAll s).prof = s.prof := rfl
@[simp] theorem releaseAll_agenda (s : State) : (releaseAll s).agenda = s.agenda := rfl
@[simp] theorem releaseAll_pace (s : State) : (releaseAll s).pace = s.pace := rfl
@[simp] theorem releaseAll_freeCount (s : State) : (releaseAll s).freeCount = s.freeCount := rfl
@[simp] theorem releaseAll_nextSeq (s : State) : (releaseAll s).thatch.nextSeq = s.thatch.nextSeq := rfl
@[simp] theorem releaseAll_nextSlot (s : State) : (releaseAll s).thatch.nextSlot = s.thatch.nextSlot := rfl
@[simp] theorem releaseAll_dir (s : State) : (releaseAll s).thatch.dir = s.thatch.dir := rfl
@[simp] theorem releaseAll_stopped (s : State) : (releaseAll s).thatch.stopped = s.thatch.stopped := rfl
@[simp] theorem releaseAll_wire (s : State) : (releaseAll s).thatch.wire = s.thatch.wire := rfl
@[simp] theorem releaseAll_async (s : State) : (releaseAll s).thatch.async = s.thatch.async := rfl
@[simp] theorem releaseAll_partnersReduced (s : State) : (releaseAll s).thatch.partnersReduced = s.thatch.partnersReduced := rfl
@[simp] theorem releaseAll_partsReady (s : State) : (releaseAll s).thatch.partsReady = s.thatch.partsReady := rfl
@[simp] theorem releaseAll_partnersStart (s : State) : (releaseAll s).thatch.partnersStart = s.thatch.partnersStart := rfl
@[simp] theorem releaseAll_heldBy (s : State) : (releaseAll s).thatch.heldBy = s.thatch.heldBy := rfl
@[simp] theorem releaseAll_partsDue (s : State) : (releaseAll s).thatch.partsDue = s.thatch.partsDue := rfl
@[simp] theorem releaseAll_trapDue (s : State) : (releaseAll s).thatch.trapDue = s.thatch.trapDue := rfl
@[simp] theorem releaseAll_savePips (s : State) : (releaseAll s).thatch.savePips = s.thatch.savePips := rfl

/-! ### raiseAsync -/

@[simp] theorem raiseAsync_strand (a : Async) (s : State) : (raiseAsync a s).strand = s.strand := by unfold raiseAsync; split <;> rfl
@[simp] theorem raiseAsync_sys (a : Async) (s : State) : (raiseAsync a s).sys = s.sys := by unfold raiseAsync; split <;> rfl
@[simp] theorem raiseAsync_store (a : Async) (s : State) : (raiseAsync a s).store = s.store := by unfold raiseAsync; split <;> rfl
@[simp] theorem raiseAsync_mem (a : Async) (s : State) : (raiseAsync a s).mem = s.mem := by unfold raiseAsync; split <;> rfl
@[simp] theorem raiseAsync_fab (a : Async) (s : State) : (raiseAsync a s).fab = s.fab := by unfold raiseAsync; split <;> rfl
@[simp] theorem raiseAsync_grp (a : Async) (s : State) : (raiseAsync a s).grp = s.grp := by unfold raiseAsync; split <;> rfl
@[simp] theorem raiseAsync_links (a : Async) (s : State) : (raiseAsync a s).links = s.links := by unfold raiseAsync; split <;> rfl
@[simp] theorem raiseAsync_pkg (a : Async) (s : State) : (raiseAsync a s).pkg = s.pkg := by unfold raiseAsync; split <;> rfl
@[simp] theorem raiseAsync_prof (a : Async) (s : State) : (raiseAsync a s).prof = s.prof := by unfold raiseAsync; split <;> rfl
@[simp] theorem raiseAsync_agenda (a : Async) (s : State) : (raiseAsync a s).agenda = s.agenda := by unfold raiseAsync; split <;> rfl
@[simp] theorem raiseAsync_pace (a : Async) (s : State) : (raiseAsync a s).pace = s.pace := by unfold raiseAsync; split <;> rfl
@[simp] theorem raiseAsync_freeCount (a : Async) (s : State) : (raiseAsync a s).freeCount = s.freeCount := by unfold raiseAsync; split <;> rfl
@[simp] theorem raiseAsync_entries (a : Async) (s : State) : (raiseAsync a s).thatch.entries = s.thatch.entries := by unfold raiseAsync; split <;> rfl
@[simp] theorem raiseAsync_nextSeq (a : Async) (s : State) : (raiseAsync a s).thatch.nextSeq = s.thatch.nextSeq := by unfold raiseAsync; split <;> rfl
@[simp] theorem raiseAsync_nextSlot (a : Async) (s : State) : (raiseAsync a s).thatch.nextSlot = s.thatch.nextSlot := by unfold raiseAsync; split <;> rfl
@[simp] theorem raiseAsync_dir (a : Async) (s : State) : (raiseAsync a s).thatch.dir = s.thatch.dir := by unfold raiseAsync; split <;> rfl
@[simp] theorem raiseAsync_stopped (a : Async) (s : State) : (raiseAsync a s).thatch.stopped = s.thatch.stopped := by unfold raiseAsync; split <;> rfl
@[simp] theorem raiseAsync_wire (a : Async) (s : State) : (raiseAsync a s).thatch.wire = s.thatch.wire := by unfold raiseAsync; split <;> rfl
@[simp] theorem raiseAsync_partnersReduced (a : Async) (s : State) : (raiseAsync a s).thatch.partnersReduced = s.thatch.partnersReduced := by unfold raiseAsync; split <;> rfl
@[simp] theorem raiseAsync_partsReady (a : Async) (s : State) : (raiseAsync a s).thatch.partsReady = s.thatch.partsReady := by unfold raiseAsync; split <;> rfl
@[simp] theorem raiseAsync_partnersStart (a : Async) (s : State) : (raiseAsync a s).thatch.partnersStart = s.thatch.partnersStart := by unfold raiseAsync; split <;> rfl
@[simp] theorem raiseAsync_heldBy (a : Async) (s : State) : (raiseAsync a s).thatch.heldBy = s.thatch.heldBy := by unfold raiseAsync; split <;> rfl
@[simp] theorem raiseAsync_partsDue (a : Async) (s : State) : (raiseAsync a s).thatch.partsDue = s.thatch.partsDue := by unfold raiseAsync; split <;> rfl
@[simp] theorem raiseAsync_trapDue (a : Async) (s : State) : (raiseAsync a s).thatch.trapDue = s.thatch.trapDue := by unfold raiseAsync; split <;> rfl
@[simp] theorem raiseAsync_savePips (a : Async) (s : State) : (raiseAsync a s).thatch.savePips = s.thatch.savePips := by unfold raiseAsync; split <;> rfl

/-! ### setPip -/

@[simp] theorem setPip_strand (n : Nat) (p : Pip) (s : State) : (setPip n p s).strand = s.strand := rfl
@[simp] theorem setPip_sys (n : Nat) (p : Pip) (s : State) : (setPip n p s).sys = s.sys := rfl
@[simp] theorem setPip_store (n : Nat) (p : Pip) (s : State) : (setPip n p s).store = s.store := rfl
@[simp] theorem setPip_thatch (n : Nat) (p : Pip) (s : State) : (setPip n p s).thatch = s.thatch := rfl
@[simp] theorem setPip_mem (n : Nat) (p : Pip) (s : State) : (setPip n p s).mem = s.mem := rfl
@[simp] theorem setPip_grp (n : Nat) (p : Pip) (s : State) : (setPip n p s).grp = s.grp := rfl
@[simp] theorem setPip_links (n : Nat) (p : Pip) (s : State) : (setPip n p s).links = s.links := rfl
@[simp] theorem setPip_pkg (n : Nat) (p : Pip) (s : State) : (setPip n p s).pkg = s.pkg := rfl
@[simp] theorem setPip_prof (n : Nat) (p : Pip) (s : State) : (setPip n p s).prof = s.prof := rfl
@[simp] theorem setPip_agenda (n : Nat) (p : Pip) (s : State) : (setPip n p s).agenda = s.agenda := rfl
@[simp] theorem setPip_pace (n : Nat) (p : Pip) (s : State) : (setPip n p s).pace = s.pace := rfl
@[simp] theorem setPip_freeCount (n : Nat) (p : Pip) (s : State) : (setPip n p s).freeCount = s.freeCount := rfl
@[simp] theorem setPip_pips (n : Nat) (p : Pip) (s : State) : (setPip n p s).fab.pips = tset {} s.fab.pips n p := rfl
@[simp] theorem setPip_held (n : Nat) (p : Pip) (s : State) : (setPip n p s).fab.held = s.fab.held := rfl
@[simp] theorem setPip_expired (n : Nat) (p : Pip) (s : State) : (setPip n p s).fab.expired = s.fab.expired := rfl
@[simp] theorem setPip_net (n : Nat) (p : Pip) (s : State) : (setPip n p s).fab.net = s.fab.net := rfl
@[simp] theorem setPip_sentNo (n : Nat) (p : Pip) (s : State) : (setPip n p s).fab.sentNo = s.fab.sentNo := rfl
@[simp] theorem setPip_peers (n : Nat) (p : Pip) (s : State) : (setPip n p s).fab.peers = s.fab.peers := rfl
@[simp] theorem setPip_farSpad (n : Nat) (p : Pip) (s : State) : (setPip n p s).fab.farSpad = s.fab.farSpad := rfl
@[simp] theorem setPip_farAcc (n : Nat) (p : Pip) (s : State) : (setPip n p s).fab.farAcc = s.fab.farAcc := rfl
@[simp] theorem setPip_farSems (n : Nat) (p : Pip) (s : State) : (setPip n p s).fab.farSems = s.fab.farSems := rfl
@[simp] theorem setPip_podcfg (n : Nat) (p : Pip) (s : State) : (setPip n p s).fab.podcfg = s.fab.podcfg := rfl
@[simp] theorem setPip_phase (n : Nat) (p : Pip) (s : State) : (setPip n p s).fab.phase = s.fab.phase := rfl

/-! ### freePips -/

@[simp] theorem freePips_strand (s : State) : (freePips s).strand = s.strand := rfl
@[simp] theorem freePips_sys (s : State) : (freePips s).sys = s.sys := rfl
@[simp] theorem freePips_store (s : State) : (freePips s).store = s.store := rfl
@[simp] theorem freePips_thatch (s : State) : (freePips s).thatch = s.thatch := rfl
@[simp] theorem freePips_mem (s : State) : (freePips s).mem = s.mem := rfl
@[simp] theorem freePips_grp (s : State) : (freePips s).grp = s.grp := rfl
@[simp] theorem freePips_links (s : State) : (freePips s).links = s.links := rfl
@[simp] theorem freePips_pkg (s : State) : (freePips s).pkg = s.pkg := rfl
@[simp] theorem freePips_prof (s : State) : (freePips s).prof = s.prof := rfl
@[simp] theorem freePips_agenda (s : State) : (freePips s).agenda = s.agenda := rfl
@[simp] theorem freePips_pace (s : State) : (freePips s).pace = s.pace := rfl
@[simp] theorem freePips_freeCount (s : State) : (freePips s).freeCount = s.freeCount := rfl
@[simp] theorem freePips_held (s : State) : (freePips s).fab.held = s.fab.held := rfl
@[simp] theorem freePips_expired (s : State) : (freePips s).fab.expired = s.fab.expired := rfl
@[simp] theorem freePips_net (s : State) : (freePips s).fab.net = s.fab.net := rfl
@[simp] theorem freePips_sentNo (s : State) : (freePips s).fab.sentNo = s.fab.sentNo := rfl
@[simp] theorem freePips_peers (s : State) : (freePips s).fab.peers = s.fab.peers := rfl
@[simp] theorem freePips_farSpad (s : State) : (freePips s).fab.farSpad = s.fab.farSpad := rfl
@[simp] theorem freePips_farAcc (s : State) : (freePips s).fab.farAcc = s.fab.farAcc := rfl
@[simp] theorem freePips_farSems (s : State) : (freePips s).fab.farSems = s.fab.farSems := rfl
@[simp] theorem freePips_podcfg (s : State) : (freePips s).fab.podcfg = s.fab.podcfg := rfl
@[simp] theorem freePips_phase (s : State) : (freePips s).fab.phase = s.fab.phase := rfl

/-! ### sendMsg -/

@[simp] theorem sendMsg_strand (m : GroupMsg) (s : State) : (sendMsg m s).strand = s.strand := rfl
@[simp] theorem sendMsg_sys (m : GroupMsg) (s : State) : (sendMsg m s).sys = s.sys := rfl
@[simp] theorem sendMsg_store (m : GroupMsg) (s : State) : (sendMsg m s).store = s.store := rfl
@[simp] theorem sendMsg_thatch (m : GroupMsg) (s : State) : (sendMsg m s).thatch = s.thatch := rfl
@[simp] theorem sendMsg_mem (m : GroupMsg) (s : State) : (sendMsg m s).mem = s.mem := rfl
@[simp] theorem sendMsg_fab (m : GroupMsg) (s : State) : (sendMsg m s).fab = s.fab := rfl
@[simp] theorem sendMsg_links (m : GroupMsg) (s : State) : (sendMsg m s).links = s.links := rfl
@[simp] theorem sendMsg_pkg (m : GroupMsg) (s : State) : (sendMsg m s).pkg = s.pkg := rfl
@[simp] theorem sendMsg_prof (m : GroupMsg) (s : State) : (sendMsg m s).prof = s.prof := rfl
@[simp] theorem sendMsg_agenda (m : GroupMsg) (s : State) : (sendMsg m s).agenda = s.agenda := rfl
@[simp] theorem sendMsg_pace (m : GroupMsg) (s : State) : (sendMsg m s).pace = s.pace := rfl
@[simp] theorem sendMsg_freeCount (m : GroupMsg) (s : State) : (sendMsg m s).freeCount = s.freeCount := rfl
@[simp] theorem sendMsg_gen (m : GroupMsg) (s : State) : (sendMsg m s).grp.gen = s.grp.gen := rfl
@[simp] theorem sendMsg_budget (m : GroupMsg) (s : State) : (sendMsg m s).grp.budget = s.grp.budget := rfl
@[simp] theorem sendMsg_spec (m : GroupMsg) (s : State) : (sendMsg m s).grp.spec = s.grp.spec := rfl
@[simp] theorem sendMsg_cbrx (m : GroupMsg) (s : State) : (sendMsg m s).grp.cbrx = s.grp.cbrx := rfl
@[simp] theorem sendMsg_openAt (m : GroupMsg) (s : State) : (sendMsg m s).grp.openAt = s.grp.openAt := rfl
@[simp] theorem sendMsg_stepAt (m : GroupMsg) (s : State) : (sendMsg m s).grp.stepAt = s.grp.stepAt := rfl
@[simp] theorem sendMsg_told (m : GroupMsg) (s : State) : (sendMsg m s).grp.told = s.grp.told := rfl
@[simp] theorem sendMsg_hold (m : GroupMsg) (s : State) : (sendMsg m s).grp.hold = s.grp.hold := rfl
@[simp] theorem sendMsg_issuing (m : GroupMsg) (s : State) : (sendMsg m s).grp.issuing = s.grp.issuing := rfl
@[simp] theorem sendMsg_heldWait (m : GroupMsg) (s : State) : (sendMsg m s).grp.heldWait = s.grp.heldWait := rfl
@[simp] theorem sendMsg_heldSnaps (m : GroupMsg) (s : State) : (sendMsg m s).grp.heldSnaps = s.grp.heldSnaps := rfl
@[simp] theorem sendMsg_msgs (m : GroupMsg) (s : State) : (sendMsg m s).grp.msgs = s.grp.msgs ++ [m] := rfl
@[simp] theorem sendMsg_roots (m : GroupMsg) (s : State) : (sendMsg m s).grp.roots = s.grp.roots := rfl

/-! ### dropMsg -/

@[simp] theorem dropMsg_strand (m : GroupMsg) (s : State) : (dropMsg m s).strand = s.strand := rfl
@[simp] theorem dropMsg_sys (m : GroupMsg) (s : State) : (dropMsg m s).sys = s.sys := rfl
@[simp] theorem dropMsg_store (m : GroupMsg) (s : State) : (dropMsg m s).store = s.store := rfl
@[simp] theorem dropMsg_thatch (m : GroupMsg) (s : State) : (dropMsg m s).thatch = s.thatch := rfl
@[simp] theorem dropMsg_mem (m : GroupMsg) (s : State) : (dropMsg m s).mem = s.mem := rfl
@[simp] theorem dropMsg_fab (m : GroupMsg) (s : State) : (dropMsg m s).fab = s.fab := rfl
@[simp] theorem dropMsg_links (m : GroupMsg) (s : State) : (dropMsg m s).links = s.links := rfl
@[simp] theorem dropMsg_pkg (m : GroupMsg) (s : State) : (dropMsg m s).pkg = s.pkg := rfl
@[simp] theorem dropMsg_prof (m : GroupMsg) (s : State) : (dropMsg m s).prof = s.prof := rfl
@[simp] theorem dropMsg_agenda (m : GroupMsg) (s : State) : (dropMsg m s).agenda = s.agenda := rfl
@[simp] theorem dropMsg_pace (m : GroupMsg) (s : State) : (dropMsg m s).pace = s.pace := rfl
@[simp] theorem dropMsg_freeCount (m : GroupMsg) (s : State) : (dropMsg m s).freeCount = s.freeCount := rfl
@[simp] theorem dropMsg_gen (m : GroupMsg) (s : State) : (dropMsg m s).grp.gen = s.grp.gen := rfl
@[simp] theorem dropMsg_budget (m : GroupMsg) (s : State) : (dropMsg m s).grp.budget = s.grp.budget := rfl
@[simp] theorem dropMsg_spec (m : GroupMsg) (s : State) : (dropMsg m s).grp.spec = s.grp.spec := rfl
@[simp] theorem dropMsg_cbrx (m : GroupMsg) (s : State) : (dropMsg m s).grp.cbrx = s.grp.cbrx := rfl
@[simp] theorem dropMsg_openAt (m : GroupMsg) (s : State) : (dropMsg m s).grp.openAt = s.grp.openAt := rfl
@[simp] theorem dropMsg_stepAt (m : GroupMsg) (s : State) : (dropMsg m s).grp.stepAt = s.grp.stepAt := rfl
@[simp] theorem dropMsg_told (m : GroupMsg) (s : State) : (dropMsg m s).grp.told = s.grp.told := rfl
@[simp] theorem dropMsg_hold (m : GroupMsg) (s : State) : (dropMsg m s).grp.hold = s.grp.hold := rfl
@[simp] theorem dropMsg_issuing (m : GroupMsg) (s : State) : (dropMsg m s).grp.issuing = s.grp.issuing := rfl
@[simp] theorem dropMsg_heldWait (m : GroupMsg) (s : State) : (dropMsg m s).grp.heldWait = s.grp.heldWait := rfl
@[simp] theorem dropMsg_heldSnaps (m : GroupMsg) (s : State) : (dropMsg m s).grp.heldSnaps = s.grp.heldSnaps := rfl
@[simp] theorem dropMsg_msgs (m : GroupMsg) (s : State) : (dropMsg m s).grp.msgs = s.grp.msgs.erase m := rfl
@[simp] theorem dropMsg_roots (m : GroupMsg) (s : State) : (dropMsg m s).grp.roots = s.grp.roots := rfl

/-! ### withRoot -/

@[simp] theorem withRoot_strand (r : Root) (s : State) : (withRoot r s).strand = s.strand := rfl
@[simp] theorem withRoot_sys (r : Root) (s : State) : (withRoot r s).sys = s.sys := rfl
@[simp] theorem withRoot_store (r : Root) (s : State) : (withRoot r s).store = s.store := rfl
@[simp] theorem withRoot_thatch (r : Root) (s : State) : (withRoot r s).thatch = s.thatch := rfl
@[simp] theorem withRoot_mem (r : Root) (s : State) : (withRoot r s).mem = s.mem := rfl
@[simp] theorem withRoot_fab (r : Root) (s : State) : (withRoot r s).fab = s.fab := rfl
@[simp] theorem withRoot_links (r : Root) (s : State) : (withRoot r s).links = s.links := rfl
@[simp] theorem withRoot_pkg (r : Root) (s : State) : (withRoot r s).pkg = s.pkg := rfl
@[simp] theorem withRoot_prof (r : Root) (s : State) : (withRoot r s).prof = s.prof := rfl
@[simp] theorem withRoot_agenda (r : Root) (s : State) : (withRoot r s).agenda = s.agenda := rfl
@[simp] theorem withRoot_pace (r : Root) (s : State) : (withRoot r s).pace = s.pace := rfl
@[simp] theorem withRoot_freeCount (r : Root) (s : State) : (withRoot r s).freeCount = s.freeCount := rfl
@[simp] theorem withRoot_gen (r : Root) (s : State) : (withRoot r s).grp.gen = s.grp.gen := rfl
@[simp] theorem withRoot_budget (r : Root) (s : State) : (withRoot r s).grp.budget = s.grp.budget := rfl
@[simp] theorem withRoot_spec (r : Root) (s : State) : (withRoot r s).grp.spec = s.grp.spec := rfl
@[simp] theorem withRoot_cbrx (r : Root) (s : State) : (withRoot r s).grp.cbrx = s.grp.cbrx := rfl
@[simp] theorem withRoot_openAt (r : Root) (s : State) : (withRoot r s).grp.openAt = s.grp.openAt := rfl
@[simp] theorem withRoot_stepAt (r : Root) (s : State) : (withRoot r s).grp.stepAt = s.grp.stepAt := rfl
@[simp] theorem withRoot_told (r : Root) (s : State) : (withRoot r s).grp.told = s.grp.told := rfl
@[simp] theorem withRoot_hold (r : Root) (s : State) : (withRoot r s).grp.hold = s.grp.hold := rfl
@[simp] theorem withRoot_issuing (r : Root) (s : State) : (withRoot r s).grp.issuing = s.grp.issuing := rfl
@[simp] theorem withRoot_heldWait (r : Root) (s : State) : (withRoot r s).grp.heldWait = s.grp.heldWait := rfl
@[simp] theorem withRoot_heldSnaps (r : Root) (s : State) : (withRoot r s).grp.heldSnaps = s.grp.heldSnaps := rfl
@[simp] theorem withRoot_msgs (r : Root) (s : State) : (withRoot r s).grp.msgs = s.grp.msgs := rfl

/-! ### memWrite -/

@[simp] theorem memWrite_strand (ws : List ByteWrite) (s : State) : (memWrite ws s).strand = s.strand := rfl
@[simp] theorem memWrite_sys (ws : List ByteWrite) (s : State) : (memWrite ws s).sys = s.sys := rfl
@[simp] theorem memWrite_store (ws : List ByteWrite) (s : State) : (memWrite ws s).store = s.store := rfl
@[simp] theorem memWrite_thatch (ws : List ByteWrite) (s : State) : (memWrite ws s).thatch = s.thatch := rfl
@[simp] theorem memWrite_fab (ws : List ByteWrite) (s : State) : (memWrite ws s).fab = s.fab := rfl
@[simp] theorem memWrite_grp (ws : List ByteWrite) (s : State) : (memWrite ws s).grp = s.grp := rfl
@[simp] theorem memWrite_links (ws : List ByteWrite) (s : State) : (memWrite ws s).links = s.links := rfl
@[simp] theorem memWrite_pkg (ws : List ByteWrite) (s : State) : (memWrite ws s).pkg = s.pkg := rfl
@[simp] theorem memWrite_prof (ws : List ByteWrite) (s : State) : (memWrite ws s).prof = s.prof := rfl
@[simp] theorem memWrite_agenda (ws : List ByteWrite) (s : State) : (memWrite ws s).agenda = s.agenda := rfl
@[simp] theorem memWrite_pace (ws : List ByteWrite) (s : State) : (memWrite ws s).pace = s.pace := rfl
@[simp] theorem memWrite_freeCount (ws : List ByteWrite) (s : State) : (memWrite ws s).freeCount = s.freeCount := rfl
@[simp] theorem memWrite_mem (ws : List ByteWrite) (s : State) : (memWrite ws s).mem.mem = ws.foldl setMasked s.mem.mem := rfl
@[simp] theorem memWrite_segs (ws : List ByteWrite) (s : State) : (memWrite ws s).mem.segs = s.mem.segs := rfl
@[simp] theorem memWrite_tlb (ws : List ByteWrite) (s : State) : (memWrite ws s).mem.tlb = s.mem.tlb := rfl
@[simp] theorem memWrite_mapCache (ws : List ByteWrite) (s : State) : (memWrite ws s).mem.mapCache = s.mem.mapCache := rfl
@[simp] theorem memWrite_replay (ws : List ByteWrite) (s : State) : (memWrite ws s).mem.replay = s.mem.replay := rfl
@[simp] theorem memWrite_nextPark (ws : List ByteWrite) (s : State) : (memWrite ws s).mem.nextPark = s.mem.nextPark := rfl
@[simp] theorem memWrite_mc (ws : List ByteWrite) (s : State) : (memWrite ws s).mem.mc = s.mem.mc := rfl
@[simp] theorem memWrite_faq (ws : List ByteWrite) (s : State) : (memWrite ws s).mem.faq = s.mem.faq := rfl
@[simp] theorem memWrite_bpl (ws : List ByteWrite) (s : State) : (memWrite ws s).mem.bpl = s.mem.bpl := rfl
@[simp] theorem memWrite_sweeps (ws : List ByteWrite) (s : State) : (memWrite ws s).mem.sweeps = s.mem.sweeps := rfl
@[simp] theorem memWrite_homeHeld (ws : List ByteWrite) (s : State) : (memWrite ws s).mem.homeHeld = s.mem.homeHeld := rfl

/-! ### poisonLine -/

@[simp] theorem poisonLine_strand (l : Nat) (s : State) : (poisonLine l s).strand = s.strand := rfl
@[simp] theorem poisonLine_sys (l : Nat) (s : State) : (poisonLine l s).sys = s.sys := rfl
@[simp] theorem poisonLine_store (l : Nat) (s : State) : (poisonLine l s).store = s.store := rfl
@[simp] theorem poisonLine_thatch (l : Nat) (s : State) : (poisonLine l s).thatch = s.thatch := rfl
@[simp] theorem poisonLine_fab (l : Nat) (s : State) : (poisonLine l s).fab = s.fab := rfl
@[simp] theorem poisonLine_grp (l : Nat) (s : State) : (poisonLine l s).grp = s.grp := rfl
@[simp] theorem poisonLine_links (l : Nat) (s : State) : (poisonLine l s).links = s.links := rfl
@[simp] theorem poisonLine_pkg (l : Nat) (s : State) : (poisonLine l s).pkg = s.pkg := rfl
@[simp] theorem poisonLine_prof (l : Nat) (s : State) : (poisonLine l s).prof = s.prof := rfl
@[simp] theorem poisonLine_agenda (l : Nat) (s : State) : (poisonLine l s).agenda = s.agenda := rfl
@[simp] theorem poisonLine_pace (l : Nat) (s : State) : (poisonLine l s).pace = s.pace := rfl
@[simp] theorem poisonLine_freeCount (l : Nat) (s : State) : (poisonLine l s).freeCount = s.freeCount := rfl
@[simp] theorem poisonLine_mem (l : Nat) (s : State) : (poisonLine l s).mem.mem = s.mem.mem := rfl
@[simp] theorem poisonLine_poison (l : Nat) (s : State) : (poisonLine l s).mem.poison = sinsert (lineOf l) s.mem.poison := rfl
@[simp] theorem poisonLine_dirty (l : Nat) (s : State) : (poisonLine l s).mem.dirty = s.mem.dirty := rfl
@[simp] theorem poisonLine_segs (l : Nat) (s : State) : (poisonLine l s).mem.segs = s.mem.segs := rfl
@[simp] theorem poisonLine_tlb (l : Nat) (s : State) : (poisonLine l s).mem.tlb = s.mem.tlb := rfl
@[simp] theorem poisonLine_mapCache (l : Nat) (s : State) : (poisonLine l s).mem.mapCache = s.mem.mapCache := rfl
@[simp] theorem poisonLine_replay (l : Nat) (s : State) : (poisonLine l s).mem.replay = s.mem.replay := rfl
@[simp] theorem poisonLine_nextPark (l : Nat) (s : State) : (poisonLine l s).mem.nextPark = s.mem.nextPark := rfl
@[simp] theorem poisonLine_mc (l : Nat) (s : State) : (poisonLine l s).mem.mc = s.mem.mc := rfl
@[simp] theorem poisonLine_faq (l : Nat) (s : State) : (poisonLine l s).mem.faq = s.mem.faq := rfl
@[simp] theorem poisonLine_bpl (l : Nat) (s : State) : (poisonLine l s).mem.bpl = s.mem.bpl := rfl
@[simp] theorem poisonLine_sweeps (l : Nat) (s : State) : (poisonLine l s).mem.sweeps = s.mem.sweeps := rfl
@[simp] theorem poisonLine_homeHeld (l : Nat) (s : State) : (poisonLine l s).mem.homeHeld = s.mem.homeHeld := rfl

/-! ### invalidate -/

@[simp] theorem invalidate_strand (p : Tlb → Bool) (s : State) : (invalidate p s).strand = s.strand := rfl
@[simp] theorem invalidate_sys (p : Tlb → Bool) (s : State) : (invalidate p s).sys = s.sys := rfl
@[simp] theorem invalidate_store (p : Tlb → Bool) (s : State) : (invalidate p s).store = s.store := rfl
@[simp] theorem invalidate_thatch (p : Tlb → Bool) (s : State) : (invalidate p s).thatch = s.thatch := rfl
@[simp] theorem invalidate_fab (p : Tlb → Bool) (s : State) : (invalidate p s).fab = s.fab := rfl
@[simp] theorem invalidate_grp (p : Tlb → Bool) (s : State) : (invalidate p s).grp = s.grp := rfl
@[simp] theorem invalidate_links (p : Tlb → Bool) (s : State) : (invalidate p s).links = s.links := rfl
@[simp] theorem invalidate_pkg (p : Tlb → Bool) (s : State) : (invalidate p s).pkg = s.pkg := rfl
@[simp] theorem invalidate_prof (p : Tlb → Bool) (s : State) : (invalidate p s).prof = s.prof := rfl
@[simp] theorem invalidate_agenda (p : Tlb → Bool) (s : State) : (invalidate p s).agenda = s.agenda := rfl
@[simp] theorem invalidate_pace (p : Tlb → Bool) (s : State) : (invalidate p s).pace = s.pace := rfl
@[simp] theorem invalidate_freeCount (p : Tlb → Bool) (s : State) : (invalidate p s).freeCount = s.freeCount := rfl
@[simp] theorem invalidate_mem (p : Tlb → Bool) (s : State) : (invalidate p s).mem.mem = s.mem.mem := rfl
@[simp] theorem invalidate_poison (p : Tlb → Bool) (s : State) : (invalidate p s).mem.poison = s.mem.poison := rfl
@[simp] theorem invalidate_dirty (p : Tlb → Bool) (s : State) : (invalidate p s).mem.dirty = s.mem.dirty := rfl
@[simp] theorem invalidate_segs (p : Tlb → Bool) (s : State) : (invalidate p s).mem.segs = s.mem.segs := rfl
@[simp] theorem invalidate_tlb (p : Tlb → Bool) (s : State) : (invalidate p s).mem.tlb = s.mem.tlb.filter (fun t => !p t) := rfl
@[simp] theorem invalidate_mapCache (p : Tlb → Bool) (s : State) : (invalidate p s).mem.mapCache = s.mem.mapCache.filter (fun t => !p t) := rfl
@[simp] theorem invalidate_replay (p : Tlb → Bool) (s : State) : (invalidate p s).mem.replay = s.mem.replay := rfl
@[simp] theorem invalidate_nextPark (p : Tlb → Bool) (s : State) : (invalidate p s).mem.nextPark = s.mem.nextPark := rfl
@[simp] theorem invalidate_mc (p : Tlb → Bool) (s : State) : (invalidate p s).mem.mc = s.mem.mc := rfl
@[simp] theorem invalidate_faq (p : Tlb → Bool) (s : State) : (invalidate p s).mem.faq = s.mem.faq := rfl
@[simp] theorem invalidate_bpl (p : Tlb → Bool) (s : State) : (invalidate p s).mem.bpl = s.mem.bpl := rfl
@[simp] theorem invalidate_sweeps (p : Tlb → Bool) (s : State) : (invalidate p s).mem.sweeps = s.mem.sweeps := rfl
@[simp] theorem invalidate_homeHeld (p : Tlb → Bool) (s : State) : (invalidate p s).mem.homeHeld = s.mem.homeHeld := rfl

/-! ### queueFlits, sendOut and toNet -/

@[simp] theorem queueFlits_strand (p : Fin 24) (fs : List FlitReq) (s : State) : (queueFlits p fs s).strand = s.strand := by unfold queueFlits; split <;> rfl
@[simp] theorem queueFlits_sys (p : Fin 24) (fs : List FlitReq) (s : State) : (queueFlits p fs s).sys = s.sys := by unfold queueFlits; split <;> rfl
@[simp] theorem queueFlits_store (p : Fin 24) (fs : List FlitReq) (s : State) : (queueFlits p fs s).store = s.store := by unfold queueFlits; split <;> rfl
@[simp] theorem queueFlits_thatch (p : Fin 24) (fs : List FlitReq) (s : State) : (queueFlits p fs s).thatch = s.thatch := by unfold queueFlits; split <;> rfl
@[simp] theorem queueFlits_mem (p : Fin 24) (fs : List FlitReq) (s : State) : (queueFlits p fs s).mem = s.mem := by unfold queueFlits; split <;> rfl
@[simp] theorem queueFlits_fab (p : Fin 24) (fs : List FlitReq) (s : State) : (queueFlits p fs s).fab = s.fab := by unfold queueFlits; split <;> rfl
@[simp] theorem queueFlits_grp (p : Fin 24) (fs : List FlitReq) (s : State) : (queueFlits p fs s).grp = s.grp := by unfold queueFlits; split <;> rfl
@[simp] theorem queueFlits_pkg (p : Fin 24) (fs : List FlitReq) (s : State) : (queueFlits p fs s).pkg = s.pkg := by unfold queueFlits; split <;> rfl
@[simp] theorem queueFlits_prof (p : Fin 24) (fs : List FlitReq) (s : State) : (queueFlits p fs s).prof = s.prof := by unfold queueFlits; split <;> rfl
@[simp] theorem queueFlits_agenda (p : Fin 24) (fs : List FlitReq) (s : State) : (queueFlits p fs s).agenda = s.agenda := by unfold queueFlits; split <;> rfl
@[simp] theorem queueFlits_pace (p : Fin 24) (fs : List FlitReq) (s : State) : (queueFlits p fs s).pace = s.pace := by unfold queueFlits; split <;> rfl
@[simp] theorem queueFlits_freeCount (p : Fin 24) (fs : List FlitReq) (s : State) : (queueFlits p fs s).freeCount = s.freeCount := by unfold queueFlits; split <;> rfl
@[simp] theorem sendOut_strand (s : State) (p : Packet) : (sendOut s p).strand = s.strand := by
  unfold sendOut; dsimp only; split
  · simp
  · split <;> rfl
@[simp] theorem toNet_strand (ps : List Packet) (s : State) : (toNet ps s).strand = s.strand := by
  unfold toNet
  induction ps generalizing s with
  | nil => rfl
  | cons p t ih => simp only [List.foldl_cons, ih, sendOut_strand]
@[simp] theorem sendOut_sys (s : State) (p : Packet) : (sendOut s p).sys = s.sys := by
  unfold sendOut; dsimp only; split
  · simp
  · split <;> rfl
@[simp] theorem toNet_sys (ps : List Packet) (s : State) : (toNet ps s).sys = s.sys := by
  unfold toNet
  induction ps generalizing s with
  | nil => rfl
  | cons p t ih => simp only [List.foldl_cons, ih, sendOut_sys]
@[simp] theorem sendOut_store (s : State) (p : Packet) : (sendOut s p).store = s.store := by
  unfold sendOut; dsimp only; split
  · simp
  · split <;> rfl
@[simp] theorem toNet_store (ps : List Packet) (s : State) : (toNet ps s).store = s.store := by
  unfold toNet
  induction ps generalizing s with
  | nil => rfl
  | cons p t ih => simp only [List.foldl_cons, ih, sendOut_store]
@[simp] theorem sendOut_thatch (s : State) (p : Packet) : (sendOut s p).thatch = s.thatch := by
  unfold sendOut; dsimp only; split
  · simp
  · split <;> rfl
@[simp] theorem toNet_thatch (ps : List Packet) (s : State) : (toNet ps s).thatch = s.thatch := by
  unfold toNet
  induction ps generalizing s with
  | nil => rfl
  | cons p t ih => simp only [List.foldl_cons, ih, sendOut_thatch]
@[simp] theorem sendOut_mem (s : State) (p : Packet) : (sendOut s p).mem = s.mem := by
  unfold sendOut; dsimp only; split
  · simp
  · split <;> rfl
@[simp] theorem toNet_mem (ps : List Packet) (s : State) : (toNet ps s).mem = s.mem := by
  unfold toNet
  induction ps generalizing s with
  | nil => rfl
  | cons p t ih => simp only [List.foldl_cons, ih, sendOut_mem]
@[simp] theorem sendOut_grp (s : State) (p : Packet) : (sendOut s p).grp = s.grp := by
  unfold sendOut; dsimp only; split
  · simp
  · split <;> rfl
@[simp] theorem toNet_grp (ps : List Packet) (s : State) : (toNet ps s).grp = s.grp := by
  unfold toNet
  induction ps generalizing s with
  | nil => rfl
  | cons p t ih => simp only [List.foldl_cons, ih, sendOut_grp]
@[simp] theorem sendOut_pkg (s : State) (p : Packet) : (sendOut s p).pkg = s.pkg := by
  unfold sendOut; dsimp only; split
  · simp
  · split <;> rfl
@[simp] theorem toNet_pkg (ps : List Packet) (s : State) : (toNet ps s).pkg = s.pkg := by
  unfold toNet
  induction ps generalizing s with
  | nil => rfl
  | cons p t ih => simp only [List.foldl_cons, ih, sendOut_pkg]
@[simp] theorem sendOut_prof (s : State) (p : Packet) : (sendOut s p).prof = s.prof := by
  unfold sendOut; dsimp only; split
  · simp
  · split <;> rfl
@[simp] theorem toNet_prof (ps : List Packet) (s : State) : (toNet ps s).prof = s.prof := by
  unfold toNet
  induction ps generalizing s with
  | nil => rfl
  | cons p t ih => simp only [List.foldl_cons, ih, sendOut_prof]
@[simp] theorem sendOut_agenda (s : State) (p : Packet) : (sendOut s p).agenda = s.agenda := by
  unfold sendOut; dsimp only; split
  · simp
  · split <;> rfl
@[simp] theorem toNet_agenda (ps : List Packet) (s : State) : (toNet ps s).agenda = s.agenda := by
  unfold toNet
  induction ps generalizing s with
  | nil => rfl
  | cons p t ih => simp only [List.foldl_cons, ih, sendOut_agenda]
@[simp] theorem sendOut_pace (s : State) (p : Packet) : (sendOut s p).pace = s.pace := by
  unfold sendOut; dsimp only; split
  · simp
  · split <;> rfl
@[simp] theorem toNet_pace (ps : List Packet) (s : State) : (toNet ps s).pace = s.pace := by
  unfold toNet
  induction ps generalizing s with
  | nil => rfl
  | cons p t ih => simp only [List.foldl_cons, ih, sendOut_pace]
@[simp] theorem sendOut_freeCount (s : State) (p : Packet) : (sendOut s p).freeCount = s.freeCount := by
  unfold sendOut; dsimp only; split
  · simp
  · split <;> rfl
@[simp] theorem toNet_freeCount (ps : List Packet) (s : State) : (toNet ps s).freeCount = s.freeCount := by
  unfold toNet
  induction ps generalizing s with
  | nil => rfl
  | cons p t ih => simp only [List.foldl_cons, ih, sendOut_freeCount]
@[simp] theorem sendOut_pips (s : State) (p : Packet) : (sendOut s p).fab.pips = s.fab.pips := by
  unfold sendOut; dsimp only; split
  · simp
  · split <;> rfl
@[simp] theorem toNet_pips (ps : List Packet) (s : State) : (toNet ps s).fab.pips = s.fab.pips := by
  unfold toNet
  induction ps generalizing s with
  | nil => rfl
  | cons p t ih => simp only [List.foldl_cons, ih, sendOut_pips]
@[simp] theorem sendOut_held (s : State) (p : Packet) : (sendOut s p).fab.held = s.fab.held := by
  unfold sendOut; dsimp only; split
  · simp
  · split <;> rfl
@[simp] theorem toNet_held (ps : List Packet) (s : State) : (toNet ps s).fab.held = s.fab.held := by
  unfold toNet
  induction ps generalizing s with
  | nil => rfl
  | cons p t ih => simp only [List.foldl_cons, ih, sendOut_held]
@[simp] theorem sendOut_expired (s : State) (p : Packet) : (sendOut s p).fab.expired = s.fab.expired := by
  unfold sendOut; dsimp only; split
  · simp
  · split <;> rfl
@[simp] theorem toNet_expired (ps : List Packet) (s : State) : (toNet ps s).fab.expired = s.fab.expired := by
  unfold toNet
  induction ps generalizing s with
  | nil => rfl
  | cons p t ih => simp only [List.foldl_cons, ih, sendOut_expired]
@[simp] theorem sendOut_peers (s : State) (p : Packet) : (sendOut s p).fab.peers = s.fab.peers := by
  unfold sendOut; dsimp only; split
  · simp
  · split <;> rfl
@[simp] theorem toNet_peers (ps : List Packet) (s : State) : (toNet ps s).fab.peers = s.fab.peers := by
  unfold toNet
  induction ps generalizing s with
  | nil => rfl
  | cons p t ih => simp only [List.foldl_cons, ih, sendOut_peers]
@[simp] theorem sendOut_farSpad (s : State) (p : Packet) : (sendOut s p).fab.farSpad = s.fab.farSpad := by
  unfold sendOut; dsimp only; split
  · simp
  · split <;> rfl
@[simp] theorem toNet_farSpad (ps : List Packet) (s : State) : (toNet ps s).fab.farSpad = s.fab.farSpad := by
  unfold toNet
  induction ps generalizing s with
  | nil => rfl
  | cons p t ih => simp only [List.foldl_cons, ih, sendOut_farSpad]
@[simp] theorem sendOut_farAcc (s : State) (p : Packet) : (sendOut s p).fab.farAcc = s.fab.farAcc := by
  unfold sendOut; dsimp only; split
  · simp
  · split <;> rfl
@[simp] theorem toNet_farAcc (ps : List Packet) (s : State) : (toNet ps s).fab.farAcc = s.fab.farAcc := by
  unfold toNet
  induction ps generalizing s with
  | nil => rfl
  | cons p t ih => simp only [List.foldl_cons, ih, sendOut_farAcc]
@[simp] theorem sendOut_farSems (s : State) (p : Packet) : (sendOut s p).fab.farSems = s.fab.farSems := by
  unfold sendOut; dsimp only; split
  · simp
  · split <;> rfl
@[simp] theorem toNet_farSems (ps : List Packet) (s : State) : (toNet ps s).fab.farSems = s.fab.farSems := by
  unfold toNet
  induction ps generalizing s with
  | nil => rfl
  | cons p t ih => simp only [List.foldl_cons, ih, sendOut_farSems]
@[simp] theorem sendOut_podcfg (s : State) (p : Packet) : (sendOut s p).fab.podcfg = s.fab.podcfg := by
  unfold sendOut; dsimp only; split
  · simp
  · split <;> rfl
@[simp] theorem toNet_podcfg (ps : List Packet) (s : State) : (toNet ps s).fab.podcfg = s.fab.podcfg := by
  unfold toNet
  induction ps generalizing s with
  | nil => rfl
  | cons p t ih => simp only [List.foldl_cons, ih, sendOut_podcfg]
@[simp] theorem sendOut_phase (s : State) (p : Packet) : (sendOut s p).fab.phase = s.fab.phase := by
  unfold sendOut; dsimp only; split
  · simp
  · split <;> rfl
@[simp] theorem toNet_phase (ps : List Packet) (s : State) : (toNet ps s).fab.phase = s.fab.phase := by
  unfold toNet
  induction ps generalizing s with
  | nil => rfl
  | cons p t ih => simp only [List.foldl_cons, ih, sendOut_phase]

end Sys2Proof.Machine
end

