-- ==== Sys2Proof/Laws/Events.lean ====
section
/-! SUPPORT. What the shared operations of events can do, each said once: the requests of a packet, the window's
entries by slot, the data of a launch, and a new node id. -/

namespace Sys2Proof.Machine

/-! ### Requests (R290, R314) -/

/-- The state differs only in the power states in force and in what waits at the controllers. -/
def OnlyAsked (s t : State) : Prop := t = { s with pkg := { s.pkg with gated := t.pkg.gated }, mem := { s.mem with mc := t.mem.mc } }

theorem OnlyAsked.refl (s : State) : OnlyAsked s s := rfl

theorem OnlyAsked.trans {s t u : State} (h : OnlyAsked s t) (k : OnlyAsked t u) : OnlyAsked s u := by
  unfold OnlyAsked at *; rw [k, h]

theorem wakeAt_onlyAsked (pa : Nat) (s : State) : OnlyAsked s (wakeAt pa s) := rfl

theorem wakeDie_onlyAsked (d : Nat) (s : State) : OnlyAsked s (wakeDie d s) := rfl

theorem wakeCore_onlyAsked (c : Nat) (s : State) : OnlyAsked s (wakeCore c s) := rfl

theorem toController_onlyAsked (src : Fin 15) (pa : Nat) (s : State) : OnlyAsked s (toController src pa s) := by
  unfold toController; dsimp only; split <;> rfl

theorem requestAt_onlyAsked (pa : Nat) (s : State) : OnlyAsked s (requestAt pa s) :=
  (wakeAt_onlyAsked pa s).trans (toController_onlyAsked _ pa _)

theorem foldl_onlyAsked {α : Type} {f : State → α → State} (hf : ∀ s x, OnlyAsked s (f s x)) (l : List α) (s : State) :
    OnlyAsked s (l.foldl f s) := by
  induction l generalizing s with
  | nil => exact .refl s
  | cons x t ih => exact (hf s x).trans (ih (f s x))

theorem requestsAt_onlyAsked (l : List Nat) (s : State) : OnlyAsked s (requestsAt l s) :=
  foldl_onlyAsked (fun s a => requestAt_onlyAsked a s) l s

theorem tableRequests_onlyAsked (e : SegEntry) (va : Nat) (s : State) : OnlyAsked s (tableRequests e va s) := by
  unfold tableRequests
  split
  · exact requestsAt_onlyAsked _ s
  · exact .refl s

/-- The requests of a walk, of a trap, and of an engine's cause change nothing else. -/
theorem missRequests_onlyAsked (strand : Bool) (kind va : Nat) (s : State) : OnlyAsked s (missRequests strand kind va s) := by
  unfold missRequests
  split
  · exact tableRequests_onlyAsked _ va s
  · exact .refl s

theorem pageRequestsAt_onlyAsked (va : Nat) (s : State) : OnlyAsked s (pageRequestsAt va s) := by
  unfold pageRequestsAt
  split
  · exact tableRequests_onlyAsked _ va s
  · exact .refl s

theorem walkedBy_onlyAsked (t : Trap) (s : State) : OnlyAsked s (walkedBy t s) := by
  have walks (own : Bool) (k a : Nat) : OnlyAsked s (if t.cause = .align then s else missRequests own k a s) := by
    split
    · exact .refl s
    · exact missRequests_onlyAsked own k a s
  unfold walkedBy
  split
  · dsimp only
    split
    · exact (walks _ _ _).trans (requestAt_onlyAsked _ _)
    · exact walks _ _ _
  · exact .refl s

/-- A packet that arrives asks its units and does nothing else. -/
theorem wakePacket_onlyAsked (p : Packet) (s : State) : OnlyAsked s (wakePacket p s) := by
  have ask : OnlyAsked s (if (bodyTouches p.body).any (addrRefused s p) then s
      else ((bodyTouches p.body).map lineOf).dedup.foldl (fun s l => toController (packetSource s p l) l (wakeAt l s)) s) := by
    split
    · exact .refl s
    · exact foldl_onlyAsked (fun s l => (wakeAt_onlyAsked l s).trans (toController_onlyAsked _ l _)) _ s
  unfold wakePacket
  split
  · split
    · exact wakeDie_onlyAsked _ s
    · split
      · exact ask
      · exact ask
      · exact ask
      · exact (wakeDie_onlyAsked _ s).trans (wakeCore_onlyAsked _ _)
      · exact wakeDie_onlyAsked _ s
  · exact .refl s

/-! ### Entries by slot -/

theorem slot_of_findEntry {s : State} {slot : Nat} {e : Entry} (h : findEntry s slot = some e) : e.slot = slot := by
  unfold findEntry at h; simpa using List.find?_some h

/-- An entry that is there is found as it has been replaced. -/
theorem findEntry_putEntry {s : State} {slot : Nat} {e x : Entry} (h : findEntry s slot = some e) (hx : x.slot = slot) :
    findEntry (putEntry x s) slot = some x := by
  unfold findEntry at h ⊢
  have : ∀ l : List Entry, l.find? (fun e => e.slot == slot) = some e →
      (l.map (fun y => if y.slot = x.slot then x else y)).find? (fun e => e.slot == slot) = some x := by
    intro l
    induction l with
    | nil => simp
    | cons y t ih =>
      rw [List.map_cons]
      by_cases hy : y.slot = slot
      · simp [hy, hx]
      · rw [if_neg (by simpa [hx] using hy), List.find?_cons_of_neg (by simpa using hy), List.find?_cons_of_neg (by simpa using hy)]
        exact ih
  exact this _ h

theorem imageRequests_onlyAsked (p : ImageAt) (s : State) : OnlyAsked s (imageRequests p s) := by
  unfold imageRequests
  split
  · exact .refl s
  · exact requestsAt_onlyAsked _ s

theorem ringUp_fab (f : Fabric) (s : State) (a n : Nat) : ringUp { s with fab := f } a n = ringUp s a n := by
  induction n generalizing a with
  | zero => rfl
  | succ n ih => simp only [ringUp, ih]

/-- A walk does not depend on the fabric. -/
theorem walkFrom_fab (f : Fabric) (s : State) (va n a : Nat) : walkFrom { s with fab := f } va n a = walkFrom s va n a := by
  induction n generalizing a with
  | zero => rfl
  | succ n ih =>
    have hn : ownNode { s with fab := f } = ownNode s := rfl
    have hr : ∀ b, reachesHome { s with fab := f } b = reachesHome s b := by
      intro b
      unfold reachesHome routed
      simp only [ringUp_fab]
      rfl
    have hp : ∀ b, poisonedAt { s with fab := f } b = poisonedAt s b := fun _ => rfl
    simp only [walkFrom, ih, hn, hr, hp]

theorem frameHeld_fab (f : Fabric) (s : State) (node pa : Nat) : frameHeld { s with fab := f } node pa = frameHeld s node pa := by
  have h : ∀ asid va, pageAt { s with fab := f } asid va pa = pageAt s asid va pa := by
    intro asid va
    unfold pageAt pageWalkOf walkSeg segFind segTable
    simp only [walkFrom_fab]
  unfold frameHeld
  simp only [h]
  rfl

/-- Whether a packet must wait, and for which page, does not depend on what else is in the fabric. -/
theorem heldPage_fab (p : Packet) (f : Fabric) (s : State) : heldPage { s with fab := f } p = heldPage s p := by
  unfold heldPage
  exact congrArg (fun g => (bodyWrites p.body).findSome? g) (funext (frameHeld_fab f s p.dstNode))

theorem packetHeld_fab (p : Packet) (f : Fabric) (s : State) : packetHeld { s with fab := f } p = packetHeld s p := by
  unfold packetHeld
  rw [heldPage_fab]
  rfl

/-! ### The trace (R280, R281) -/

/-- The state differs only in what the trace writes: its own state, the scratchpad, and the free values that it has taken. -/
def OnlyTraced (s t : State) : Prop :=
  t = { s with prof := t.prof, freeCount := t.freeCount, store := { s.store with spad := t.store.spad } }

theorem OnlyTraced.refl (s : State) : OnlyTraced s s := rfl

theorem OnlyTraced.trans {s t u : State} (h : OnlyTraced s t) (k : OnlyTraced t u) : OnlyTraced s u := by
  unfold OnlyTraced at *; rw [k, h]

theorem traceUnits_onlyTraced (n : Nat) (bs : List Byte) (s : State) : OnlyTraced s (traceUnits n bs s) := by
  induction n generalizing bs s with
  | zero => exact .refl s
  | succ n ih => exact OnlyTraced.trans (t := traceUnit (bs.take 64) s) rfl (ih _ _)

theorem traceRecord_onlyTraced (kind tag dw3 dw4 dw5 dw6 n : Nat) (body : List Byte) (s : State) :
    OnlyTraced s (traceRecord kind tag dw3 dw4 dw5 dw6 n body s) := by
  unfold traceRecord
  exact (OnlyTraced.trans (t := traceUnit _ s) rfl (traceUnits_onlyTraced n body _)).trans rfl

theorem writeSnap_onlyTraced (r : SnapReq) (s : State) : OnlyTraced s (writeSnap r s) :=
  (OnlyTraced.trans (t := countConflicts s) rfl (traceRecord_onlyTraced _ _ _ _ _ _ _ _ _)).trans rfl

theorem traceSnap_onlyTraced (kind tag dw3 dw4 : Nat) (s : State) : OnlyTraced s (traceSnap kind tag dw3 dw4 s) := by
  unfold traceSnap
  dsimp only
  split
  · rfl
  · exact OnlyTraced.trans (t := { s with prof := { s.prof with snaps := s.prof.snaps + 1 } }) rfl (writeSnap_onlyTraced _ _)

/-- The snapshots that a commit owes change only what the trace writes, and are owed no more. -/
theorem snapHeld_onlyTraced (s : State) : OnlyTraced { s with grp := { s.grp with heldSnaps := [] } } (snapHeld s) := by
  have go : ∀ (l : List SnapReq) (u : State), OnlyTraced u (l.foldl (fun s r => traceSnap r.kind r.tag r.dw3 r.dw4 s) u) := by
    intro l
    induction l with
    | nil => exact fun u => .refl u
    | cons r l ih => exact fun u => (traceSnap_onlyTraced _ _ _ _ u).trans (ih _)
  exact go _ _

/-! ### The data of a launch (R376) -/

/-- The state differs only in the memory system. -/
def OnlyMem (s t : State) : Prop := t = { s with mem := t.mem }

theorem OnlyMem.refl (s : State) : OnlyMem s s := rfl

theorem OnlyMem.trans {s t u : State} (h : OnlyMem s t) (k : OnlyMem t u) : OnlyMem s u := by
  unfold OnlyMem at *; rw [k, h]

theorem memWrite_onlyMem (ws : List ByteWrite) (s : State) : OnlyMem s (memWrite ws s) := rfl

theorem foldl_onlyMem {α : Type} {f : State → α → State} (hf : ∀ s x, OnlyMem s (f s x)) (l : List α) (s : State) :
    OnlyMem s (l.foldl f s) := by
  induction l generalizing s with
  | nil => exact .refl s
  | cons x t ih => exact (hf s x).trans (ih (f s x))

theorem placeByte_onlyMem (node : BitVec 12) (l : List (Nat × SegEntry)) (s : State) (x : Nat × Nat × Byte) :
    OnlyMem s (placeByte node l s x) := by
  unfold placeByte
  dsimp only
  split
  · exact .refl s
  · split
    · exact memWrite_onlyMem _ s
    · split
      · split
        · exact memWrite_onlyMem _ s
        · exact .refl s
      · exact memWrite_onlyMem _ s

theorem placeData_onlyMem (node : BitVec 12) (p : LaunchPkt) (l : List (Nat × SegEntry)) (s : State) :
    OnlyMem s (placeData node p l s) :=
  (foldl_onlyMem (fun s _ => memWrite_onlyMem _ s) p.pages s).trans (foldl_onlyMem (placeByte_onlyMem node _) p.data _)

/-! ### A new node id (R318, R332) -/

theorem renode_nodeid (n : BitVec 12) (s : State) : (renode n s).sys.nodeid = n := by
  unfold renode; split <;> simp_all

theorem renode_strand (n : BitVec 12) (s : State) : (renode n s).strand = s.strand := by unfold renode; split <;> rfl
theorem renode_store (n : BitVec 12) (s : State) : (renode n s).store = s.store := by unfold renode; split <;> rfl
theorem renode_links (n : BitVec 12) (s : State) : (renode n s).links = s.links := by unfold renode; split <;> rfl
theorem renode_pkg (n : BitVec 12) (s : State) : (renode n s).pkg = s.pkg := by unfold renode; split <;> rfl

end Sys2Proof.Machine
end

