-- ==== Sys2Proof/Laws/Memory.lean ====
section
/-! SUPPORT. The laws of sparse tables and byte memory: a read after a write, that a write leaves every other key alone, and
that every operation keeps the canonical form. -/

namespace Sys2Proof.Machine

variable {α : Type}

/-! ### Reads -/

theorem tget_cons_lt (d : α) {k k' : Nat} (v : α) (t : Table α) (h : k < k') : tget d ((k', v) :: t) k = d := by
  simp [tget, Nat.ne_of_lt h, h]

theorem tget_cons_self (d : α) (k : Nat) (v : α) (t : Table α) : tget d ((k, v) :: t) k = v := by simp [tget]

theorem tget_cons_gt (d : α) {k k' : Nat} (v : α) (t : Table α) (h : k' < k) :
    tget d ((k', v) :: t) k = tget d t k := by
  simp [tget, Nat.ne_of_gt h, Nat.not_lt_of_gt h]

/-- Every key of a table lies above a bound. -/
def Above (n : Nat) (m : Table α) : Prop := ∀ kv ∈ m, n < kv.1

theorem above_of_sorted {k : Nat} {v : α} {t : Table α} (h : (((k, v) :: t).map Prod.fst).Pairwise (· < ·)) :
    Above k t := by
  intro kv hkv
  simp only [List.map_cons, List.pairwise_cons] at h
  exact h.1 _ (List.mem_map_of_mem hkv)

theorem tget_above (d : α) {n k : Nat} {m : Table α} (h : Above n m) (hk : k ≤ n) : tget d m k = d := by
  cases m with
  | nil => rfl
  | cons x t =>
    have := h x (by simp)
    exact tget_cons_lt d x.2 t (by omega)

/-! ### Writes -/

variable [DecidableEq α]

theorem tset_above (d : α) {n k : Nat} {m : Table α} (v : α) (h : Above n m) (hk : n < k) : Above n (tset d m k v) := by
  induction m with
  | nil => intro kv; unfold tset; split <;> simp +contextual [hk]
  | cons x t ih =>
    have hx := h x (by simp)
    have ht : Above n t := fun kv m => h kv (by simp [m])
    unfold tset
    intro kv
    split
    · split
      · exact h kv
      · intro m; rcases List.mem_cons.mp m with rfl | m
        · exact hk
        · exact h kv m
    · split
      · split
        · exact ht kv
        · intro m; rcases List.mem_cons.mp m with rfl | m
          · exact hk
          · exact ht kv m
      · intro m; rcases List.mem_cons.mp m with rfl | m
        · exact hx
        · exact ih ht kv m

omit [DecidableEq α] in
theorem sorted_cons {k : Nat} {v : α} {t : Table α} (h : Above k t) (ht : (t.map Prod.fst).Pairwise (· < ·)) :
    (((k, v) :: t).map Prod.fst).Pairwise (· < ·) := by
  simp only [List.map_cons, List.pairwise_cons]
  refine ⟨?_, ht⟩
  intro a ha
  obtain ⟨kv, hm, rfl⟩ := List.mem_map.mp ha
  exact h kv hm

omit [DecidableEq α] in
theorem sorted_tail {x : Nat × α} {t : Table α} (h : ((x :: t).map Prod.fst).Pairwise (· < ·)) :
    (t.map Prod.fst).Pairwise (· < ·) := by
  simp only [List.map_cons, List.pairwise_cons] at h
  exact h.2

/-- A write keeps the canonical form. -/
theorem tset_wf (d : α) {m : Table α} (k : Nat) (v : α) (h : tableWf d m) : tableWf d (tset d m k v) := by
  obtain ⟨hs, hd⟩ := h
  induction m with
  | nil => unfold tset; split <;> simp_all [tableWf]
  | cons x t ih =>
    have ht := sorted_tail hs
    have ha : Above x.1 t := above_of_sorted hs
    have hdt : ∀ kv ∈ t, kv.2 ≠ d := fun kv m => hd kv (by simp [m])
    have ih := ih ht hdt
    unfold tset
    split
    · rename_i hlt
      split
      · exact ⟨hs, hd⟩
      · rename_i hv
        have hk : Above k (x :: t) := by
          intro kv m
          rcases List.mem_cons.mp m with rfl | m
          · exact hlt
          · exact Nat.lt_trans hlt (ha kv m)
        refine ⟨sorted_cons hk hs, ?_⟩
        intro kv m
        rcases List.mem_cons.mp m with rfl | m
        · exact hv
        · exact hd kv m
    · split
      · rename_i heq
        split
        · exact ⟨ht, hdt⟩
        · rename_i hv
          refine ⟨sorted_cons (fun kv m => heq ▸ ha kv m) ht, ?_⟩
          intro kv m
          rcases List.mem_cons.mp m with rfl | m
          · exact hv
          · exact hdt kv m
      · rename_i h1 h2
        have hk : x.1 < k := by omega
        refine ⟨sorted_cons (tset_above d v ha hk) ih.1, ?_⟩
        intro kv m
        rcases List.mem_cons.mp m with rfl | m
        · exact hd _ (by simp)
        · exact ih.2 kv m

/-- A read after a write of a sorted table. -/
theorem tget_tset (d : α) {m : Table α} (k k' : Nat) (v : α) (h : (m.map Prod.fst).Pairwise (· < ·)) :
    tget d (tset d m k v) k' = if k' = k then v else tget d m k' := by
  induction m with
  | nil =>
    unfold tset
    split
    · subst_vars; simp [tget]
    · simp only [tget]
      split
      · subst_vars; rfl
      · split <;> rfl
  | cons x t ih =>
    have ht := sorted_tail h
    have ha : Above x.1 t := above_of_sorted h
    have ih := ih ht
    unfold tset
    split
    · rename_i hlt
      split
      · subst_vars
        split
        · subst_vars; exact tget_cons_lt _ _ _ hlt
        · rfl
      · rcases Nat.lt_trichotomy k' k with hk | hk | hk
        · rw [tget_cons_lt _ _ _ hk, if_neg (by omega), tget_cons_lt _ _ _ (by omega)]
        · subst hk; simp [tget_cons_self]
        · rw [tget_cons_gt _ _ _ hk, if_neg (by omega)]
    · split
      · rename_i heq
        subst heq
        rcases Nat.lt_trichotomy k' x.1 with hk | hk | hk
        · rw [if_neg (show ¬k' = x.1 by omega), tget_cons_lt _ _ _ hk]
          split
          · exact tget_above _ ha (by omega)
          · exact tget_cons_lt _ _ _ hk
        · subst hk
          simp only [if_true]
          split
          · subst_vars; exact tget_above _ ha (by omega)
          · exact tget_cons_self _ _ _ _
        · rw [if_neg (show ¬k' = x.1 by omega), tget_cons_gt _ _ _ hk]
          split
          · rfl
          · exact tget_cons_gt _ _ _ hk
      · rename_i h1 h2
        have hxk : x.1 < k := by omega
        rcases Nat.lt_trichotomy k' x.1 with hk | hk | hk
        · rw [tget_cons_lt _ _ _ hk, if_neg (by omega), tget_cons_lt _ _ _ hk]
        · subst hk
          rw [tget_cons_self, if_neg (by omega), tget_cons_self]
        · rw [tget_cons_gt _ _ _ hk, ih, tget_cons_gt _ _ _ hk]

omit [DecidableEq α] in
/-- Two canonical tables that read alike are equal. -/
theorem table_ext (d : α) {m n : Table α} (hm : tableWf d m) (hn : tableWf d n) (h : ∀ k, tget d m k = tget d n k) :
    m = n := by
  induction m generalizing n with
  | nil =>
    cases n with
    | nil => rfl
    | cons y u =>
      have := h y.1
      rw [tget_cons_self] at this
      exact absurd this.symm (hn.2 y (by simp))
  | cons x t ih =>
    have hax : Above x.1 t := above_of_sorted hm.1
    cases n with
    | nil =>
      have := h x.1
      rw [tget_cons_self] at this
      exact absurd this (hm.2 x (by simp))
    | cons y u =>
      have hay : Above y.1 u := above_of_sorted hn.1
      have hxy : x.1 = y.1 := by
        rcases Nat.lt_trichotomy x.1 y.1 with hk | hk | hk
        · have := h x.1
          rw [tget_cons_self, tget_cons_lt _ _ _ hk] at this
          exact absurd this (hm.2 x (by simp))
        · exact hk
        · have := h y.1
          rw [tget_cons_self, tget_cons_lt _ _ _ hk] at this
          exact absurd this.symm (hn.2 y (by simp))
      have hv : x.2 = y.2 := by
        have := h x.1
        rw [tget_cons_self, hxy, tget_cons_self] at this
        exact this
      have hxy' : x = y := Prod.ext hxy hv
      subst hxy'
      congr 1
      refine ih ⟨sorted_tail hm.1, fun kv m => hm.2 kv (by simp [m])⟩
        ⟨sorted_tail hn.1, fun kv m => hn.2 kv (by simp [m])⟩ ?_
      intro k
      rcases Nat.lt_or_ge x.1 k with hk | hk
      · have := h k
        rwa [tget_cons_gt _ _ _ hk, tget_cons_gt _ _ _ hk] at this
      · rw [tget_above _ hax hk, tget_above _ hay hk]

/-! ### Byte memory -/

theorem setByte_wf {m : List Host.Cell} (a : Nat) (v : Byte) (h : memWf m) : memWf (setByte m a v) := tset_wf 0 a v h

theorem byteAt_setByte {m : List Host.Cell} (a b : Nat) (v : Byte) (h : memWf m) :
    byteAt (setByte m a v) b = if b = a then v else byteAt m b := tget_tset 0 a b v h.1

theorem setMasked_wf {m : List Host.Cell} (w : ByteWrite) (h : memWf m) : memWf (setMasked m w) := setByte_wf _ _ h

theorem byteAt_setMasked_ne {m : List Host.Cell} (w : ByteWrite) {b : Nat} (h : memWf m) (hb : b ≠ w.addr) :
    byteAt (setMasked m w) b = byteAt m b := by
  rw [setMasked, byteAt_setByte _ _ _ h, if_neg hb]

theorem setBytes_wf {m : List Host.Cell} (a : Nat) (bs : List Byte) (h : memWf m) : memWf (setBytes m a bs) := by
  induction bs generalizing m a with
  | nil => exact h
  | cons b t ih => exact ih _ (setByte_wf a b h)

/-- A write of a byte string leaves every byte outside it alone. -/
theorem byteAt_setBytes_out {m : List Host.Cell} (a : Nat) (bs : List Byte) {b : Nat} (h : memWf m)
    (hb : b < a ∨ a + bs.length ≤ b) : byteAt (setBytes m a bs) b = byteAt m b := by
  induction bs generalizing m a with
  | nil => rfl
  | cons x t ih =>
    rw [setBytes, ih _ (setByte_wf a x h) (by simp at hb; omega), byteAt_setByte _ _ _ h, if_neg]
    simp at hb; omega

/-- A write of a byte string is read back. -/
theorem byteAt_setBytes_in {m : List Host.Cell} (a : Nat) (bs : List Byte) (i : Nat) (hi : i < bs.length) (h : memWf m) :
    byteAt (setBytes m a bs) (a + i) = bs[i] := by
  induction bs generalizing m a i with
  | nil => simp at hi
  | cons x t ih =>
    cases i with
    | zero =>
      rw [setBytes, byteAt_setBytes_out _ _ (setByte_wf a x h) (by omega), byteAt_setByte _ _ _ h]
      simp
    | succ j =>
      have := ih (a + 1) j (by simpa using hi) (setByte_wf a x h)
      rw [setBytes, show a + (j + 1) = a + 1 + j by omega, this]
      simp

theorem foldl_setMasked_wf (ws : List ByteWrite) {m : List Host.Cell} (h : memWf m) : memWf (ws.foldl setMasked m) := by
  induction ws generalizing m with
  | nil => exact h
  | cons w t ih => exact ih (setMasked_wf w h)

theorem foldl_setMasked_out (ws : List ByteWrite) {m : List Host.Cell} {b : Nat} (h : memWf m)
    (hb : ∀ w ∈ ws, b ≠ w.addr) : byteAt (ws.foldl setMasked m) b = byteAt m b := by
  induction ws generalizing m with
  | nil => rfl
  | cons w t ih =>
    rw [List.foldl_cons, ih (setMasked_wf w h) (fun v hv => hb v (by simp [hv])),
      byteAt_setMasked_ne w h (hb w (by simp))]

theorem filter_wf (p : Host.Cell → Bool) {m : List Host.Cell} (h : memWf m) : memWf (m.filter p) :=
  ⟨(h.1.sublist (List.filter_sublist.map _)), fun kv hk => h.2 kv (List.mem_of_mem_filter hk)⟩

theorem writesOf_addr (key : Nat) (bs : List Byte) : ∀ w ∈ writesOf key bs, key ≤ w.addr ∧ w.addr < key + bs.length := by
  induction bs generalizing key with
  | nil => simp [writesOf]
  | cons b t ih =>
    intro w hw
    rcases List.mem_cons.mp hw with rfl | hw
    · simp
    · have := ih (key + 1) w hw
      simp; omega

/-- What a write of memory can do to its bytes: the canonical form stays, and a byte that is not written reads as before. -/
theorem memWrite_wf (ws : List ByteWrite) (s : State) (h : memWf s.mem.mem) : memWf (memWrite ws s).mem.mem :=
  foldl_setMasked_wf ws h

theorem memWrite_out (ws : List ByteWrite) (s : State) {b : Nat} (h : memWf s.mem.mem) (hb : ∀ w ∈ ws, b ≠ w.addr) :
    byteAt (memWrite ws s).mem.mem b = byteAt s.mem.mem b :=
  foldl_setMasked_out ws h hb

theorem putSpad_wf (s : State) (off : Nat) (bs : List Byte) (h : memWf s.store.spad) :
    memWf (putSpad s off bs).store.spad := setBytes_wf _ _ h

theorem putSpad_out (s : State) (off : Nat) (bs : List Byte) {b : Nat} (h : memWf s.store.spad)
    (hb : b < off ∨ off + bs.length ≤ b) : byteAt (putSpad s off bs).store.spad b = byteAt s.store.spad b := by
  refine byteAt_setBytes_out _ _ h ?_
  simp
  omega

/-! ### Byte strings -/

theorem leBytes_length (n v : Nat) : (leBytes n v).length = n := by
  induction n generalizing v with
  | zero => rfl
  | succ n ih => simp [leBytes, ih]

/-- A byte string of a number reads back as the number, cut to its width. -/
theorem leNat_leBytes (n v : Nat) : leNat (leBytes n v) = v % 256 ^ n := by
  induction n generalizing v with
  | zero => simp [leBytes, leNat, Nat.mod_one]
  | succ n ih =>
    rw [leBytes, leNat, ih, Nat.pow_succ, Nat.mul_comm (256 ^ n) 256, Nat.mod_mul]
    simp

theorem bytesAt_length (m : List Host.Cell) (a n : Nat) : (bytesAt m a n).length = n := by
  induction n generalizing a with
  | zero => rfl
  | succ n ih => simp [bytesAt, ih]

/-- The bytes of a string that has just been written. -/
theorem bytesAt_setBytes {m : List Host.Cell} (a : Nat) (bs : List Byte) (h : memWf m) :
    bytesAt (setBytes m a bs) a bs.length = bs := by
  induction bs generalizing m a with
  | nil => rfl
  | cons x t ih =>
    have h0 := byteAt_setBytes_in a (x :: t) 0 (by simp) h
    simp only [Nat.add_zero, List.getElem_cons_zero] at h0
    rw [List.length_cons, bytesAt, h0]
    congr 1
    rw [setBytes]
    exact ih (a + 1) (setByte_wf a x h)

/-- A little-endian store is read back. -/
theorem readLe_writeLe {m : List Host.Cell} (a n v : Nat) (h : memWf m) : readLe (writeLe m a n v) a n = v % 256 ^ n := by
  have := bytesAt_setBytes a (leBytes n v) h
  rw [leBytes_length] at this
  rw [readLe, writeLe, this, leNat_leBytes]

end Sys2Proof.Machine
end

