-- ==== Sys2Proof/Laws/Issue.lean ====
section
/-! SUPPORT. What the shared operations of issue can do, each said once: control behind a completed word changes only the
issue state, the trace and, where a strand begins to run ahead, its checkpoint and the snapshots it owes; an instruction that is
ready acts. -/

namespace Sys2Proof.Machine

/-- What control behind a completed word leaves as it was. -/
structure Moves (s t : State) : Prop where
  g : t.strand.g = s.strand.g
  c : t.strand.c = s.strand.c
  tb : t.strand.tb = s.strand.tb
  bounds : t.strand.bounds = s.strand.bounds
  ras : t.strand.ras = s.strand.ras
  rasi : t.strand.rasi = s.strand.rasi
  spill : t.strand.spill = s.strand.spill
  cq : t.strand.cq = s.strand.cq
  loads : t.strand.loads = s.strand.loads
  copies : t.strand.copies = s.strand.copies
  run : t.strand.run = s.strand.run
  semAdded : t.strand.semAdded = s.strand.semAdded
  cbrSaved : t.strand.cbrSaved = s.strand.cbrSaved
  text : t.strand.text = s.strand.text
  sys : { t.sys with spec := s.sys.spec } = s.sys
  store : { t.store with spad := s.store.spad } = s.store
  thatch : t.thatch = s.thatch
  mem : t.mem = s.mem
  fab : t.fab = s.fab
  grp : { t.grp with spec := s.grp.spec, heldSnaps := s.grp.heldSnaps } = s.grp
  links : t.links = s.links
  pkg : t.pkg = s.pkg
  agenda : t.agenda = s.agenda
  pace : t.pace = s.pace
  freeCount : traceOn s = false → t.freeCount = s.freeCount
  spad : traceOn s = false → t.store.spad = s.store.spad
  spadWf : memWf s.store.spad → memWf t.store.spad

theorem sysEq_trans {a b c : SysRegs} (h : { b with spec := a.spec } = a) (k : { c with spec := b.spec } = b) :
    { c with spec := a.spec } = a := by
  rw [← h, ← k]

theorem storeEq_trans {a b c : Store} (h : { b with spad := a.spad } = a) (k : { c with spad := b.spad } = b) :
    { c with spad := a.spad } = a := by
  rw [← h, ← k]

theorem grpEq_trans {a b c : Group} (h : { b with spec := a.spec, heldSnaps := a.heldSnaps } = a)
    (k : { c with spec := b.spec, heldSnaps := b.heldSnaps } = b) :
    { c with spec := a.spec, heldSnaps := a.heldSnaps } = a := by
  rw [← h, ← k]

theorem traceb_of_sys {a b : SysRegs} (h : { b with spec := a.spec } = a) : b.traceb = a.traceb := by
  rw [← h]

theorem Moves.traceOn {s t : State} (h : Moves s t) : traceOn t = Machine.traceOn s := by
  unfold Machine.traceOn; rw [traceb_of_sys h.sys]

theorem Moves.refl (s : State) : Moves s s := by constructor <;> first | rfl | exact fun h => h | exact fun _ => rfl

theorem Moves.trans {s t u : State} (h : Moves s t) (k : Moves t u) : Moves s u where
  g := k.g.trans h.g
  c := k.c.trans h.c
  tb := k.tb.trans h.tb
  bounds := k.bounds.trans h.bounds
  ras := k.ras.trans h.ras
  rasi := k.rasi.trans h.rasi
  spill := k.spill.trans h.spill
  cq := k.cq.trans h.cq
  loads := k.loads.trans h.loads
  copies := k.copies.trans h.copies
  run := k.run.trans h.run
  semAdded := k.semAdded.trans h.semAdded
  cbrSaved := k.cbrSaved.trans h.cbrSaved
  text := k.text.trans h.text
  sys := sysEq_trans h.sys k.sys
  store := storeEq_trans h.store k.store
  thatch := k.thatch.trans h.thatch
  mem := k.mem.trans h.mem
  fab := k.fab.trans h.fab
  grp := grpEq_trans h.grp k.grp
  links := k.links.trans h.links
  pkg := k.pkg.trans h.pkg
  agenda := k.agenda.trans h.agenda
  pace := k.pace.trans h.pace
  freeCount := fun e => (k.freeCount (h.traceOn.trans e)).trans (h.freeCount e)
  spad := fun e => (k.spad (h.traceOn.trans e)).trans (h.spad e)
  spadWf := fun w => k.spadWf (h.spadWf w)

theorem moves_of_withXstat (s : State) (x : Xstat) : Moves s (withXstat s x) := by
  constructor <;> first | rfl | exact fun h => h | exact fun _ => rfl

theorem moves_of_withPc (s : State) (a : BitVec 32) : Moves s (withPc s a) := by
  constructor <;> first | rfl | exact fun h => h | exact fun _ => rfl

theorem moves_of_setLc (s : State) (l : LoopId) (v : LoopReg) : Moves s (setLc s l v) := by
  constructor <;> first | rfl | exact fun h => h | exact fun _ => rfl

theorem moves_of_clearIssue (s : State) : Moves s (clearIssue s) := by
  constructor <;> first | rfl | exact fun h => h | exact fun _ => rfl

theorem moves_of_addCount (n : BitVec 64) (s : State) : Moves s (addCount n s) := by
  constructor <;> first | rfl | exact fun h => h | exact fun _ => rfl

theorem moves_of_stallAt (s : State) : Moves s (stallAt s) := by
  constructor <;> first | rfl | exact fun h => h | exact fun _ => rfl

theorem moves_of_iterEnd (s : State) (b : Bool) : Moves s { s with strand := { s.strand with iterEnd := b } } := by
  constructor <;> first | rfl | exact fun h => h | exact fun _ => rfl

theorem moves_of_rep (s : State) (r : Option RepState) : Moves s { s with strand := { s.strand with rep := r } } := by
  constructor <;> first | rfl | exact fun h => h | exact fun _ => rfl

theorem moves_of_pend (s : State) (p : Option Pend) : Moves s { s with strand := { s.strand with pend := p } } := by
  constructor <;> first | rfl | exact fun h => h | exact fun _ => rfl

theorem moves_of_checkpoint (s : State) (cp : Option Checkpoint) (b : Bool) :
    Moves s { s with grp := { s.grp with spec := cp }, sys := { s.sys with spec := b } } := by
  constructor <;> first | rfl | exact fun h => h | exact fun _ => rfl

theorem moves_of_prof (s : State) (p : Profile) : Moves s { s with prof := p } := by
  constructor <;> first | rfl | exact fun h => h | exact fun _ => rfl

/-- The trace writes scratchpad bytes of its ring and the profiling state. -/
theorem moves_of_traceUnit (bs : List Byte) (s : State) (h : traceOn s = true) : Moves s (traceUnit bs s) := by
  constructor <;> first
    | rfl
    | exact fun w => putSpad_wf _ _ _ w
    | (intro e; rw [h] at e; contradiction)

theorem moves_of_traceUnits (n : Nat) (bs : List Byte) (s : State) (h : traceOn s = true) :
    Moves s (traceUnits n bs s) := by
  induction n generalizing bs s with
  | zero => exact Moves.refl s
  | succ n ih =>
    have k := moves_of_traceUnit bs s h
    exact k.trans (ih _ _ (k.traceOn.trans h))

theorem moves_of_traceRecord (kind tag dw3 dw4 dw5 dw6 n : Nat) (body : List Byte) (s : State) (h : traceOn s = true) :
    Moves s (traceRecord kind tag dw3 dw4 dw5 dw6 n body s) := by
  unfold traceRecord
  have k := moves_of_traceUnit
    (leBytes 8 (s.prof.recNo.toNat + 2 ^ 32 * (n % 2 ^ 16) + 2 ^ 48 * tag + 2 ^ 56 * kind)
      ++ leBytes 8 s.pkg.time.toNat ++ leBytes 8 s.strand.icount.toNat ++ leBytes 8 dw3 ++ leBytes 8 dw4
      ++ leBytes 8 dw5 ++ leBytes 8 dw6 ++ leBytes 8 0) s h
  exact (k.trans (moves_of_traceUnits n body _ (k.traceOn.trans h))).trans (moves_of_prof _ _)

/-- A free value taken while the trace is on. -/
theorem moves_of_countConflicts (s : State) (h : traceOn s = true) : Moves s (countConflicts s) := by
  unfold countConflicts
  generalize (List.range 640).foldl _ _ = m
  constructor <;> first
    | rfl
    | exact fun _ => rfl
    | exact fun w => w
    | exact fun e => absurd (h.symm.trans e) (by decide)

theorem moves_of_writeSnap (r : SnapReq) (s : State) (h : traceOn s = true) : Moves s (writeSnap r s) := by
  have k := moves_of_countConflicts s h
  exact (k.trans (moves_of_traceRecord _ _ _ _ 0 0 30 _ _ (k.traceOn.trans h))).trans (moves_of_prof _ _)

theorem moves_of_traceSnap (kind tag dw3 dw4 : Nat) (s : State) (h : traceOn s = true) :
    Moves s (traceSnap kind tag dw3 dw4 s) := by
  have k := moves_of_prof s { s.prof with snaps := s.prof.snaps + 1 }
  unfold traceSnap
  dsimp only
  split
  · exact k.trans (moves_of_prof _ _)
  · exact k.trans (moves_of_writeSnap _ _ (k.traceOn.trans h))

/-- The snapshot of a loop that has ended is written, or owed to the commit. -/
theorem moves_of_exitSnap (dw3 how : Nat) (s : State) (h : traceOn s = true) : Moves s (exitSnap dw3 how s) := by
  unfold exitSnap
  split
  · constructor <;> first | rfl | exact fun h => h | exact fun _ => rfl
  · exact moves_of_traceSnap _ _ _ _ _ h

theorem moves_of_endLoop (how : Nat) (s : State) : Moves s (endLoop how s) := by
  unfold endLoop
  dsimp only
  split
  · rename_i h
    have ht : traceOn s = true := by simp_all
    exact (moves_of_withXstat s _).trans (moves_of_exitSnap _ _ _ ((moves_of_withXstat s _).traceOn.trans ht))
  · exact moves_of_withXstat s _

theorem moves_of_loopBack (l : LoopId) (s : State) : Moves s (loopBack l s) := by
  unfold loopBack
  dsimp only
  refine Moves.trans ?_ (moves_of_iterEnd _ _)
  refine Moves.trans ?_ (moves_of_withPc _ _)
  split
  · exact (moves_of_setLc _ _ _).trans (moves_of_withXstat _ _)
  · exact moves_of_setLc _ _ _

theorem moves_of_afterWord (n : Nat) (last : BitVec 32) (s : State) : Moves s (afterWord n last s) := by
  induction n generalizing s with
  | zero => exact moves_of_withPc _ _
  | succ n ih =>
    unfold afterWord
    dsimp only
    split
    · split
      · exact moves_of_loopBack _ _
      · exact (moves_of_endLoop _ _).trans (ih _)
    · exact moves_of_withPc _ _

theorem moves_of_transferTo (how n : Nat) (t : BitVec 32) (s : State) : Moves s (transferTo how n t s) := by
  induction n generalizing s with
  | zero => exact moves_of_withPc _ _
  | succ n ih =>
    unfold transferTo
    split
    · exact (moves_of_endLoop _ _).trans (ih _)
    · exact moves_of_withPc _ _

theorem moves_of_endLoopsTo (n : Nat) (l : LoopId) (s : State) : Moves s (endLoopsTo n l s) := by
  induction n generalizing s with
  | zero => exact Moves.refl _
  | succ n ih =>
    unfold endLoopsTo
    split
    · exact Moves.refl _
    · split
      · exact moves_of_endLoop _ _
      · exact (moves_of_endLoop _ _).trans (ih _)

theorem moves_of_completeSlot (p : Pend) (last : BitVec 32) (s : State) : Moves s (completeSlot p last s) := by
  unfold completeSlot
  split
  · split
    · exact moves_of_transferTo _ _ _ _
    · exact moves_of_afterWord _ _ _
  · split
    · exact moves_of_transferTo _ _ _ _
    · exact moves_of_afterWord _ _ _
  · split
    · exact (moves_of_endLoopsTo _ _ _).trans (moves_of_transferTo _ _ _ _)
    · exact moves_of_afterWord _ _ _
  · unfold runAhead
    dsimp only
    split
    · exact Moves.trans (moves_of_checkpoint s _ _) (moves_of_transferTo _ _ _ _)
    · exact Moves.trans (moves_of_checkpoint s _ _) (moves_of_afterWord _ _ _)

/-- Control behind a completed instruction changes nothing else. -/
theorem moves_of_goOn (size : BitVec 32) (s : State) : Moves s (goOn size s) := by
  unfold goOn
  dsimp only
  refine (moves_of_clearIssue s).trans ?_
  split
  · split
    · exact moves_of_rep _ _
    · exact (moves_of_rep _ _).trans (moves_of_afterWord _ _ _)
  · split
    · exact (moves_of_pend _ _).trans (moves_of_completeSlot _ _ _)
    · exact moves_of_afterWord _ _ _

theorem moves_of_advance (size : BitVec 32) (s : State) : Moves s (advance size s) :=
  (moves_of_addCount _ s).trans (moves_of_goOn _ _)

/-- A transfer that has issued waits behind its slot: nothing else changes. -/
theorem moves_of_pendTransfer (p : Pend) (s : State) : Moves s (pendTransfer p s) := by
  constructor <;> first | rfl | exact fun h => h | exact fun _ => rfl

theorem snapGuard_idle {s : State} (t : State) (h : s.prof.busy = false) : snapGuard s t = t := by simp [snapGuard, h]

theorem snapGuard_cases (s t : State) : snapGuard s t = t ∨ snapGuard s t = stallAt s := by
  unfold snapGuard; split
  · exact .inr rfl
  · exact .inl rfl

/-! ### Issue -/

theorem issue_next (regs : List Reg) (stops : Bool) (size : BitVec 32) (f : State → Res) (s : State) :
    ∃ t, issue regs stops size f s = .next t := ⟨_, rfl⟩

/-- An instruction that is ready acts. -/
theorem issue_ready {regs : List Reg} {stops : Bool} {s : State} (size : BitVec 32) (f : State → Res)
    (h : Ready regs stops s) : issue regs stops size f s = .next (finish size s (f s)) := by
  obtain ⟨h1, h2, h3, h4⟩ := h
  simp [issue, h1, h2, h3, h4]

/-- An instruction that is ready, and that completes, stalls or traps. -/
theorem issue_done {regs : List Reg} {stops : Bool} {size : BitVec 32} {f : State → Res} {s u : State}
    (h : Ready regs stops s) (hf : f s = .done u) : issue regs stops size f s = .next (finish size s (.done u)) := by
  rw [issue_ready size f h, hf]

theorem issue_jump {regs : List Reg} {stops : Bool} {size : BitVec 32} {f : State → Res} {s u : State}
    (h : Ready regs stops s) (hf : f s = .jump u) : issue regs stops size f s = .next (snapGuard s u) := by
  rw [issue_ready size f h, hf]; rfl

theorem issue_stall {regs : List Reg} {stops : Bool} {size : BitVec 32} {f : State → Res} {s u : State}
    (h : Ready regs stops s) (hf : f s = .stall u) : issue regs stops size f s = .next (stallAt u) := by
  rw [issue_ready size f h, hf]; rfl

theorem issue_trap {regs : List Reg} {stops : Bool} {size : BitVec 32} {f : State → Res} {s : State} {t : Trap}
    (h : Ready regs stops s) (hs : s.sys.spec = false) (hv : viewWaits t s = false) (hf : f s = .trap t) :
    issue regs stops size f s = .next (trapEntry t false none (consumedBy t s)) := by
  rw [issue_ready size f h, hf]; simp [finish, hs, hv]

theorem issue_trapIn {regs : List Reg} {stops : Bool} {size : BitVec 32} {f : State → Res} {s u : State} {t : Trap}
    (h : Ready regs stops s) (hs : s.sys.spec = false) (hv : viewWaits t s = false) (hf : f s = .trapIn t u) :
    issue regs stops size f s = .next (trapEntry t false none (consumedBy t u)) := by
  rw [issue_ready size f h, hf]; simp [finish, hs, hv]

/-- A cause other than BRK writes no debug view. -/
theorem viewWaits_other {t : Trap} (s : State) (h : t.cause ≠ .brk) : viewWaits t s = false := by simp [viewWaits, h]

/-- A cause other than UE consumes no line: its access has made its requests. -/
theorem consumedBy_other {t : Trap} (s : State) (h : t.cause ≠ .ue) : consumedBy t s = walkedBy t s := by
  unfold consumedBy
  dsimp only
  split
  · simp_all
  · simp_all
  · rfl

/-- A cause that no access met makes no request. -/
theorem walkedBy_none {t : Trap} (s : State) (h : t.access = none) : walkedBy t s = s := by
  simp [walkedBy, h]

/-- What an issue can do: act, or leave everything but the issue state. -/
theorem issue_cases (regs : List Reg) (stops : Bool) (size : BitVec 32) (f : State → Res) (s : State) :
    (Ready regs stops s ∧ issue regs stops size f s = .next (finish size s (f s))) ∨
      ∃ t, issue regs stops size f s = .next t ∧ Moves s t := by
  unfold issue
  split
  · right
    refine ⟨_, rfl, ?_⟩
    rcases snapGuard_cases s (goOn size (addCount (inactiveCount s) s)) with h | h <;> rw [h]
    · exact (moves_of_addCount _ _).trans (moves_of_goOn _ _)
    · exact moves_of_stallAt _
  · rename_i h1
    split
    · exact .inr ⟨_, rfl, moves_of_stallAt _⟩
    · rename_i h2
      split
      · exact .inr ⟨_, rfl, moves_of_stallAt _⟩
      · rename_i h3
        split
        · exact .inr ⟨_, rfl, moves_of_stallAt _⟩
        · rename_i h4
          exact .inl ⟨⟨by simpa using h1, by simpa using h2, by simpa using h3, by simpa using h4⟩, rfl⟩

/-- An instruction that completes leaves what it wrote, and moves on; or a snapshot in progress stalls it (R280). -/
theorem finish_done (size : BitVec 32) (s s' : State) :
    Moves s' (finish size s (.done s')) ∨ finish size s (.done s') = stallAt s := by
  unfold finish
  rcases snapGuard_cases s (advance size s') with h | h <;> simp only [h]
  · exact .inl (moves_of_advance _ _)
  · exact .inr trivial

/-! ### The trap -/

theorem trapEntry_double (t : Trap) (async : Bool) (q : Option Nat) (s : State) (h : s.sys.th = true) :
    trapEntry t async q s = doubleTrap t s := by simp [trapEntry, h]

end Sys2Proof.Machine
end

