-- ==== Sys2Proof/Laws/PerInstr.lean ====
section
/-! SUPPORT. Statements made for every instruction, one lemma for each constructor of `Instr`. The family `WordFits`: the
word of an instruction is a 32-bit word (spec/03_encoding.md R39), so none of its fields reaches into another. -/

namespace Sys2Proof.Laws

theorem cmp_code_lt (cc : Cmp) : cc.code < 16 := by cases cc <;> decide

theorem scope_code_lt (k : Scope) : k.code < 8 := by cases k <;> decide

theorem red_code_lt (r : Red) : r.code < 4 := by cases r <;> decide

theorem bool_nat_lt (b : Bool) : b.toNat < 2 := by cases b <;> decide

namespace WordFits

/-- The word of an instruction fits in 32 bits. -/
def Statement (i : Instr) : Prop := ∀ w, encodeWord i = some w → w < 2 ^ 32

/-- An instruction without a word. -/
theorem of_none {i : Instr} (h : encodeWord i = none) : Statement i := by
  intro w hw; rw [h] at hw; exact absurd hw (by simp)

theorem add (d : Reg) (a : Reg) (b : Reg) : Statement (.add d a b) := by
  intro w h; cases h
  have h0 := d.isLt
  have h1 := a.isLt
  have h2 := b.isLt
  simp only [encRR]; omega
theorem sub (d : Reg) (a : Reg) (b : Reg) : Statement (.sub d a b) := by
  intro w h; cases h
  have h0 := d.isLt
  have h1 := a.isLt
  have h2 := b.isLt
  simp only [encRR]; omega
theorem mul (d : Reg) (a : Reg) (b : Reg) : Statement (.mul d a b) := by
  intro w h; cases h
  have h0 := d.isLt
  have h1 := a.isLt
  have h2 := b.isLt
  simp only [encRR]; omega
theorem mulh (d : Reg) (a : Reg) (b : Reg) : Statement (.mulh d a b) := by
  intro w h; cases h
  have h0 := d.isLt
  have h1 := a.isLt
  have h2 := b.isLt
  simp only [encRR]; omega
theorem mulhn (d : Reg) (a : Reg) (b : Reg) : Statement (.mulhn d a b) := by
  intro w h; cases h
  have h0 := d.isLt
  have h1 := a.isLt
  have h2 := b.isLt
  simp only [encRR]; omega
theorem div (d : Reg) (a : Reg) (b : Reg) : Statement (.div d a b) := by
  intro w h; cases h
  have h0 := d.isLt
  have h1 := a.isLt
  have h2 := b.isLt
  simp only [encRR]; omega
theorem divn (d : Reg) (a : Reg) (b : Reg) : Statement (.divn d a b) := by
  intro w h; cases h
  have h0 := d.isLt
  have h1 := a.isLt
  have h2 := b.isLt
  simp only [encRR]; omega
theorem rem (d : Reg) (a : Reg) (b : Reg) : Statement (.rem d a b) := by
  intro w h; cases h
  have h0 := d.isLt
  have h1 := a.isLt
  have h2 := b.isLt
  simp only [encRR]; omega
theorem remn (d : Reg) (a : Reg) (b : Reg) : Statement (.remn d a b) := by
  intro w h; cases h
  have h0 := d.isLt
  have h1 := a.isLt
  have h2 := b.isLt
  simp only [encRR]; omega
theorem and (d : Reg) (a : Reg) (b : Reg) : Statement (.and d a b) := by
  intro w h; cases h
  have h0 := d.isLt
  have h1 := a.isLt
  have h2 := b.isLt
  simp only [encRR]; omega
theorem or (d : Reg) (a : Reg) (b : Reg) : Statement (.or d a b) := by
  intro w h; cases h
  have h0 := d.isLt
  have h1 := a.isLt
  have h2 := b.isLt
  simp only [encRR]; omega
theorem xor (d : Reg) (a : Reg) (b : Reg) : Statement (.xor d a b) := by
  intro w h; cases h
  have h0 := d.isLt
  have h1 := a.isLt
  have h2 := b.isLt
  simp only [encRR]; omega
theorem andn (d : Reg) (a : Reg) (b : Reg) : Statement (.andn d a b) := by
  intro w h; cases h
  have h0 := d.isLt
  have h1 := a.isLt
  have h2 := b.isLt
  simp only [encRR]; omega
theorem sll (d : Reg) (a : Reg) (b : Reg) : Statement (.sll d a b) := by
  intro w h; cases h
  have h0 := d.isLt
  have h1 := a.isLt
  have h2 := b.isLt
  simp only [encRR]; omega
theorem srl (d : Reg) (a : Reg) (b : Reg) : Statement (.srl d a b) := by
  intro w h; cases h
  have h0 := d.isLt
  have h1 := a.isLt
  have h2 := b.isLt
  simp only [encRR]; omega
theorem sra (d : Reg) (a : Reg) (b : Reg) : Statement (.sra d a b) := by
  intro w h; cases h
  have h0 := d.isLt
  have h1 := a.isLt
  have h2 := b.isLt
  simp only [encRR]; omega
theorem rol (d : Reg) (a : Reg) (b : Reg) : Statement (.rol d a b) := by
  intro w h; cases h
  have h0 := d.isLt
  have h1 := a.isLt
  have h2 := b.isLt
  simp only [encRR]; omega
theorem ror (d : Reg) (a : Reg) (b : Reg) : Statement (.ror d a b) := by
  intro w h; cases h
  have h0 := d.isLt
  have h1 := a.isLt
  have h2 := b.isLt
  simp only [encRR]; omega
theorem min (d : Reg) (a : Reg) (b : Reg) : Statement (.min d a b) := by
  intro w h; cases h
  have h0 := d.isLt
  have h1 := a.isLt
  have h2 := b.isLt
  simp only [encRR]; omega
theorem max (d : Reg) (a : Reg) (b : Reg) : Statement (.max d a b) := by
  intro w h; cases h
  have h0 := d.isLt
  have h1 := a.isLt
  have h2 := b.isLt
  simp only [encRR]; omega
theorem minn (d : Reg) (a : Reg) (b : Reg) : Statement (.minn d a b) := by
  intro w h; cases h
  have h0 := d.isLt
  have h1 := a.isLt
  have h2 := b.isLt
  simp only [encRR]; omega
theorem maxn (d : Reg) (a : Reg) (b : Reg) : Statement (.maxn d a b) := by
  intro w h; cases h
  have h0 := d.isLt
  have h1 := a.isLt
  have h2 := b.isLt
  simp only [encRR]; omega
theorem clz (d : Reg) (a : Reg) : Statement (.clz d a) := by
  intro w h; cases h
  have h0 := d.isLt
  have h1 := a.isLt
  simp only [encRR]; omega
theorem ctz (d : Reg) (a : Reg) : Statement (.ctz d a) := by
  intro w h; cases h
  have h0 := d.isLt
  have h1 := a.isLt
  simp only [encRR]; omega
theorem popc (d : Reg) (a : Reg) : Statement (.popc d a) := by
  intro w h; cases h
  have h0 := d.isLt
  have h1 := a.isLt
  simp only [encRR]; omega
theorem bswap (d : Reg) (a : Reg) : Statement (.bswap d a) := by
  intro w h; cases h
  have h0 := d.isLt
  have h1 := a.isLt
  simp only [encRR]; omega
theorem clmul (d : Reg) (a : Reg) (b : Reg) : Statement (.clmul d a b) := by
  intro w h; cases h
  have h0 := d.isLt
  have h1 := a.isLt
  have h2 := b.isLt
  simp only [encRR]; omega
theorem clmulh (d : Reg) (a : Reg) (b : Reg) : Statement (.clmulh d a b) := by
  intro w h; cases h
  have h0 := d.isLt
  have h1 := a.isLt
  have h2 := b.isLt
  simp only [encRR]; omega
theorem addw (d : Reg) (a : Reg) (b : Reg) : Statement (.addw d a b) := by
  intro w h; cases h
  have h0 := d.isLt
  have h1 := a.isLt
  have h2 := b.isLt
  simp only [encRR]; omega
theorem subw (d : Reg) (a : Reg) (b : Reg) : Statement (.subw d a b) := by
  intro w h; cases h
  have h0 := d.isLt
  have h1 := a.isLt
  have h2 := b.isLt
  simp only [encRR]; omega
theorem addi (d : Reg) (a : Reg) (imm : BitVec 14) : Statement (.addi d a imm) := by
  intro w h; cases h
  have h0 := d.isLt
  have h1 := a.isLt
  have h2 := imm.isLt
  simp only [encRI]; omega
theorem andi (d : Reg) (a : Reg) (imm : BitVec 14) : Statement (.andi d a imm) := by
  intro w h; cases h
  have h0 := d.isLt
  have h1 := a.isLt
  have h2 := imm.isLt
  simp only [encRI]; omega
theorem ori (d : Reg) (a : Reg) (imm : BitVec 14) : Statement (.ori d a imm) := by
  intro w h; cases h
  have h0 := d.isLt
  have h1 := a.isLt
  have h2 := imm.isLt
  simp only [encRI]; omega
theorem xori (d : Reg) (a : Reg) (imm : BitVec 14) : Statement (.xori d a imm) := by
  intro w h; cases h
  have h0 := d.isLt
  have h1 := a.isLt
  have h2 := imm.isLt
  simp only [encRI]; omega
theorem slli (d : Reg) (a : Reg) (n : BitVec 6) : Statement (.slli d a n) := by
  intro w h; cases h
  have h0 := d.isLt
  have h1 := a.isLt
  have h2 := n.isLt
  simp only [encRI]; omega
theorem srli (d : Reg) (a : Reg) (n : BitVec 6) : Statement (.srli d a n) := by
  intro w h; cases h
  have h0 := d.isLt
  have h1 := a.isLt
  have h2 := n.isLt
  simp only [encRI]; omega
theorem srai (d : Reg) (a : Reg) (n : BitVec 6) : Statement (.srai d a n) := by
  intro w h; cases h
  have h0 := d.isLt
  have h1 := a.isLt
  have h2 := n.isLt
  simp only [encRI]; omega
theorem rori (d : Reg) (a : Reg) (n : BitVec 6) : Statement (.rori d a n) := by
  intro w h; cases h
  have h0 := d.isLt
  have h1 := a.isLt
  have h2 := n.isLt
  simp only [encRI]; omega
theorem lui (d : Reg) (imm : BitVec 20) : Statement (.lui d imm) := by
  intro w h; cases h
  have h0 := d.isLt
  have h1 := imm.isLt
  omega
theorem lih (d : Reg) (imm : BitVec 20) : Statement (.lih d imm) := by
  intro w h; cases h
  have h0 := d.isLt
  have h1 := imm.isLt
  omega
theorem bfx (d : Reg) (a : Reg) (signed : Bool) (pos : BitVec 6) (len1 : BitVec 6) : Statement (.bfx d a signed pos len1) := by
  intro w h; cases h
  have h0 := d.isLt
  have h1 := a.isLt
  have h2 := bool_nat_lt signed
  have h3 := pos.isLt
  have h4 := len1.isLt
  simp only [encRI]; omega
theorem bfi (d : Reg) (a : Reg) (pos : BitVec 6) (len1 : BitVec 6) : Statement (.bfi d a pos len1) := by
  intro w h; cases h
  have h0 := d.isLt
  have h1 := a.isLt
  have h2 := pos.isLt
  have h3 := len1.isLt
  simp only [encRI]; omega
theorem cmp (c : Cond) (cc : Cmp) (a : Reg) (b : Reg) : Statement (.cmp c cc a b) := by
  intro w h; cases h
  have h0 := c.isLt
  have h1 := cmp_code_lt cc
  have h2 := a.isLt
  have h3 := b.isLt
  omega
theorem cmpi (c : Cond) (cc : Cmp) (a : Reg) (imm : BitVec 13) : Statement (.cmpi c cc a imm) := by
  intro w h; cases h
  have h0 := c.isLt
  have h1 := cmp_code_lt cc
  have h2 := a.isLt
  have h3 := imm.isLt
  omega
theorem sel (d : Reg) (a : Reg) (b : Reg) (neg : Bool) (c : Cond) : Statement (.sel d a b neg c) := by
  intro w h; cases h
  have h0 := d.isLt
  have h1 := a.isLt
  have h2 := b.isLt
  have h3 := bool_nat_lt neg
  have h4 := c.isLt
  simp only [encRR]; omega
theorem cand (c : Cond) (x : Cond) (y : Cond) : Statement (.cand c x y) := by
  intro w h; cases h
  have h0 := c.isLt
  have h1 := x.isLt
  have h2 := y.isLt
  omega
theorem cor (c : Cond) (x : Cond) (y : Cond) : Statement (.cor c x y) := by
  intro w h; cases h
  have h0 := c.isLt
  have h1 := x.isLt
  have h2 := y.isLt
  omega
theorem cxor (c : Cond) (x : Cond) (y : Cond) : Statement (.cxor c x y) := by
  intro w h; cases h
  have h0 := c.isLt
  have h1 := x.isLt
  have h2 := y.isLt
  omega
theorem candn (c : Cond) (x : Cond) (y : Cond) : Statement (.candn c x y) := by
  intro w h; cases h
  have h0 := c.isLt
  have h1 := x.isLt
  have h2 := y.isLt
  omega
theorem ptg (t : Tb) (disp : BitVec 23) : Statement (.ptg t disp) := by
  intro w h; cases h
  have h0 := t.isLt
  have h1 := disp.isLt
  omega
theorem ptr (t : Tb) (a : Reg) : Statement (.ptr t a) := by
  intro w h; cases h
  have h0 := t.isLt
  have h1 := a.isLt
  omega
theorem br (t : Tb) : Statement (.br t) := by
  intro w h; cases h
  have h0 := t.isLt
  simp only [encXF]; omega
theorem brc (t : Tb) (c : Cond) (neg : Bool) : Statement (.brc t c neg) := by
  intro w h; cases h
  have h0 := t.isLt
  have h1 := c.isLt
  have h2 := bool_nat_lt neg
  simp only [encXF]; omega
theorem call (t : Tb) : Statement (.call t) := by
  intro w h; cases h
  have h0 := t.isLt
  simp only [encXF]; omega
theorem callc (t : Tb) (c : Cond) (neg : Bool) : Statement (.callc t c neg) := by
  intro w h; cases h
  have h0 := t.isLt
  have h1 := c.isLt
  have h2 := bool_nat_lt neg
  simp only [encXF]; omega
theorem ret : Statement (.ret) := by
  intro w h; cases h
  decide
theorem lbrk (l : LoopId) (c : Cond) (neg : Bool) : Statement (.lbrk l c neg) := by
  intro w h; cases h
  have h0 := l.isLt
  have h1 := c.isLt
  have h2 := bool_nat_lt neg
  simp only [encXF]; omega
theorem loop (l : LoopId) (len : BitVec 10) (cnt : BitVec 12) : Statement (.loop l len cnt) := by
  intro w h; cases h
  have h0 := l.isLt
  have h1 := len.isLt
  have h2 := cnt.isLt
  simp only [encLP]; omega
theorem loopReg (l : LoopId) (len : BitVec 10) (g : Reg) : Statement (.loopReg l len g) := by
  intro w h; cases h
  have h0 := l.isLt
  have h1 := len.isLt
  have h2 := g.isLt
  simp only [encLP]; omega
theorem loopCq (l : LoopId) (len : BitVec 10) : Statement (.loopCq l len) := by
  intro w h; cases h
  have h0 := l.isLt
  have h1 := len.isLt
  simp only [encLP]; omega
theorem loops (l : LoopId) (len : BitVec 10) (stg : BitVec 3) (cnt : BitVec 9) : Statement (.loops l len stg cnt) := by
  intro w h; cases h
  have h0 := l.isLt
  have h1 := len.isLt
  have h2 := stg.isLt
  have h3 := cnt.isLt
  simp only [encLP]; omega
theorem loopsReg (l : LoopId) (len : BitVec 10) (stg : BitVec 3) (g : Reg) : Statement (.loopsReg l len stg g) := by
  intro w h; cases h
  have h0 := l.isLt
  have h1 := len.isLt
  have h2 := stg.isLt
  have h3 := g.isLt
  simp only [encLP]; omega
theorem loopsCq (l : LoopId) (len : BitVec 10) (stg : BitVec 3) : Statement (.loopsCq l len stg) := by
  intro w h; cases h
  have h0 := l.isLt
  have h1 := len.isLt
  have h2 := stg.isLt
  simp only [encLP]; omega
theorem rep (n : BitVec 6) (sd : BitVec 4) (sa : BitVec 4) (sb : BitVec 4) : Statement (.rep n sd sa sb) := by
  intro w h; cases h
  have h0 := n.isLt
  have h1 := sd.isLt
  have h2 := sa.isLt
  have h3 := sb.isLt
  omega
theorem cqpush (a : Reg) : Statement (.cqpush a) := by
  intro w h; cases h
  have h0 := a.isLt
  simp only [encRR]; omega
theorem cqpop (d : Reg) : Statement (.cqpop d) := by
  intro w h; cases h
  have h0 := d.isLt
  simp only [encRR]; omega
theorem cqclr : Statement (.cqclr) := by
  intro w h; cases h
  decide
theorem cqlen (d : Reg) : Statement (.cqlen d) := by
  intro w h; cases h
  have h0 := d.isLt
  simp only [encRR]; omega
theorem ldb (d : Reg) (a : Reg) (imm : BitVec 14) : Statement (.ldb d a imm) := by
  intro w h; cases h
  have h0 := d.isLt
  have h1 := a.isLt
  have h2 := imm.isLt
  simp only [encRI]; omega
theorem ldbn (d : Reg) (a : Reg) (imm : BitVec 14) : Statement (.ldbn d a imm) := by
  intro w h; cases h
  have h0 := d.isLt
  have h1 := a.isLt
  have h2 := imm.isLt
  simp only [encRI]; omega
theorem ldh (d : Reg) (a : Reg) (imm : BitVec 14) : Statement (.ldh d a imm) := by
  intro w h; cases h
  have h0 := d.isLt
  have h1 := a.isLt
  have h2 := imm.isLt
  simp only [encRI]; omega
theorem ldhn (d : Reg) (a : Reg) (imm : BitVec 14) : Statement (.ldhn d a imm) := by
  intro w h; cases h
  have h0 := d.isLt
  have h1 := a.isLt
  have h2 := imm.isLt
  simp only [encRI]; omega
theorem ldw (d : Reg) (a : Reg) (imm : BitVec 14) : Statement (.ldw d a imm) := by
  intro w h; cases h
  have h0 := d.isLt
  have h1 := a.isLt
  have h2 := imm.isLt
  simp only [encRI]; omega
theorem ldwn (d : Reg) (a : Reg) (imm : BitVec 14) : Statement (.ldwn d a imm) := by
  intro w h; cases h
  have h0 := d.isLt
  have h1 := a.isLt
  have h2 := imm.isLt
  simp only [encRI]; omega
theorem ldd (d : Reg) (a : Reg) (imm : BitVec 14) : Statement (.ldd d a imm) := by
  intro w h; cases h
  have h0 := d.isLt
  have h1 := a.isLt
  have h2 := imm.isLt
  simp only [encRI]; omega
theorem stb (d : Reg) (a : Reg) (imm : BitVec 14) : Statement (.stb d a imm) := by
  intro w h; cases h
  have h0 := d.isLt
  have h1 := a.isLt
  have h2 := imm.isLt
  simp only [encRI]; omega
theorem sth (d : Reg) (a : Reg) (imm : BitVec 14) : Statement (.sth d a imm) := by
  intro w h; cases h
  have h0 := d.isLt
  have h1 := a.isLt
  have h2 := imm.isLt
  simp only [encRI]; omega
theorem stw (d : Reg) (a : Reg) (imm : BitVec 14) : Statement (.stw d a imm) := by
  intro w h; cases h
  have h0 := d.isLt
  have h1 := a.isLt
  have h2 := imm.isLt
  simp only [encRI]; omega
theorem std (d : Reg) (a : Reg) (imm : BitVec 14) : Statement (.std d a imm) := by
  intro w h; cases h
  have h0 := d.isLt
  have h1 := a.isLt
  have h2 := imm.isLt
  simp only [encRI]; omega
theorem spl (g : Reg) (slot : BitVec 9) : Statement (.spl g slot) := by
  intro w h; cases h
  have h0 := g.isLt
  have h1 := slot.isLt
  omega
theorem fil (g : Reg) (slot : BitVec 9) : Statement (.fil g slot) := by
  intro w h; cases h
  have h0 := g.isLt
  have h1 := slot.isLt
  omega
theorem lda (d : Reg) (a : Reg) (b : Reg) : Statement (.lda d a b) := by
  intro w h; cases h
  have h0 := d.isLt
  have h1 := a.isLt
  have h2 := b.isLt
  simp only [encRR]; omega
theorem sta (d : Reg) (a : Reg) (b : Reg) : Statement (.sta d a b) := by
  intro w h; cases h
  have h0 := d.isLt
  have h1 := a.isLt
  have h2 := b.isLt
  simp only [encRR]; omega
theorem atomSwp (d : Reg) (a : Reg) (b : Reg) (w32 : Bool) (scope : Scope) : Statement (.atomSwp d a b w32 scope) := by
  intro w h; cases h
  have h0 := d.isLt
  have h1 := a.isLt
  have h2 := b.isLt
  have h3 := bool_nat_lt w32
  have h4 := scope_code_lt scope
  simp only [encRR]; omega
theorem atomAdd (d : Reg) (a : Reg) (b : Reg) (w32 : Bool) (scope : Scope) : Statement (.atomAdd d a b w32 scope) := by
  intro w h; cases h
  have h0 := d.isLt
  have h1 := a.isLt
  have h2 := b.isLt
  have h3 := bool_nat_lt w32
  have h4 := scope_code_lt scope
  simp only [encRR]; omega
theorem atomAnd (d : Reg) (a : Reg) (b : Reg) (w32 : Bool) (scope : Scope) : Statement (.atomAnd d a b w32 scope) := by
  intro w h; cases h
  have h0 := d.isLt
  have h1 := a.isLt
  have h2 := b.isLt
  have h3 := bool_nat_lt w32
  have h4 := scope_code_lt scope
  simp only [encRR]; omega
theorem atomOr (d : Reg) (a : Reg) (b : Reg) (w32 : Bool) (scope : Scope) : Statement (.atomOr d a b w32 scope) := by
  intro w h; cases h
  have h0 := d.isLt
  have h1 := a.isLt
  have h2 := b.isLt
  have h3 := bool_nat_lt w32
  have h4 := scope_code_lt scope
  simp only [encRR]; omega
theorem atomXor (d : Reg) (a : Reg) (b : Reg) (w32 : Bool) (scope : Scope) : Statement (.atomXor d a b w32 scope) := by
  intro w h; cases h
  have h0 := d.isLt
  have h1 := a.isLt
  have h2 := b.isLt
  have h3 := bool_nat_lt w32
  have h4 := scope_code_lt scope
  simp only [encRR]; omega
theorem atomMin (d : Reg) (a : Reg) (b : Reg) (w32 : Bool) (scope : Scope) : Statement (.atomMin d a b w32 scope) := by
  intro w h; cases h
  have h0 := d.isLt
  have h1 := a.isLt
  have h2 := b.isLt
  have h3 := bool_nat_lt w32
  have h4 := scope_code_lt scope
  simp only [encRR]; omega
theorem atomMax (d : Reg) (a : Reg) (b : Reg) (w32 : Bool) (scope : Scope) : Statement (.atomMax d a b w32 scope) := by
  intro w h; cases h
  have h0 := d.isLt
  have h1 := a.isLt
  have h2 := b.isLt
  have h3 := bool_nat_lt w32
  have h4 := scope_code_lt scope
  simp only [encRR]; omega
theorem atomMinn (d : Reg) (a : Reg) (b : Reg) (w32 : Bool) (scope : Scope) : Statement (.atomMinn d a b w32 scope) := by
  intro w h; cases h
  have h0 := d.isLt
  have h1 := a.isLt
  have h2 := b.isLt
  have h3 := bool_nat_lt w32
  have h4 := scope_code_lt scope
  simp only [encRR]; omega
theorem atomMaxn (d : Reg) (a : Reg) (b : Reg) (w32 : Bool) (scope : Scope) : Statement (.atomMaxn d a b w32 scope) := by
  intro w h; cases h
  have h0 := d.isLt
  have h1 := a.isLt
  have h2 := b.isLt
  have h3 := bool_nat_lt w32
  have h4 := scope_code_lt scope
  simp only [encRR]; omega
theorem atomCas (d : Reg) (a : Reg) (b : Reg) (w32 : Bool) (scope : Scope) : Statement (.atomCas d a b w32 scope) := by
  intro w h; cases h
  have h0 := d.isLt
  have h1 := a.isLt
  have h2 := b.isLt
  have h3 := bool_nat_lt w32
  have h4 := scope_code_lt scope
  simp only [encRR]; omega
theorem fenceSc (scope : Scope) : Statement (.fenceSc scope) := by
  intro w h; cases h
  have h0 := scope_code_lt scope
  omega
theorem fenceAcq (scope : Scope) : Statement (.fenceAcq scope) := by
  intro w h; cases h
  have h0 := scope_code_lt scope
  omega
theorem fenceRel (scope : Scope) : Statement (.fenceRel scope) := by
  intro w h; cases h
  have h0 := scope_code_lt scope
  omega
theorem fenceRq : Statement (.fenceRq) := by
  intro w h; cases h
  decide
theorem fencePip : Statement (.fencePip) := by
  intro w h; cases h
  decide
theorem semadd (s : BitVec 11) (g : Reg) : Statement (.semadd s g) := by
  intro w h; cases h
  have h0 := s.isLt
  have h1 := g.isLt
  simp only [encSem]; omega
theorem semaddi (s : BitVec 11) (imm : BitVec 6) : Statement (.semaddi s imm) := by
  intro w h; cases h
  have h0 := s.isLt
  have h1 := imm.isLt
  simp only [encSem]; omega
theorem semwait (s : BitVec 11) (g : Reg) : Statement (.semwait s g) := by
  intro w h; cases h
  have h0 := s.isLt
  have h1 := g.isLt
  simp only [encSem]; omega
theorem semwaiti (s : BitVec 11) (imm : BitVec 6) : Statement (.semwaiti s imm) := by
  intro w h; cases h
  have h0 := s.isLt
  have h1 := imm.isLt
  simp only [encSem]; omega
theorem semset (s : BitVec 11) (g : Reg) : Statement (.semset s g) := by
  intro w h; cases h
  have h0 := s.isLt
  have h1 := g.isLt
  simp only [encSem]; omega
theorem semrd (s : BitVec 11) (g : Reg) : Statement (.semrd s g) := by
  intro w h; cases h
  have h0 := s.isLt
  have h1 := g.isLt
  simp only [encSem]; omega
theorem post (rec : BitVec 256) : Statement (.post rec) := by
  intro w h; cases h
  have h0 := rec.isLt
  omega
theorem postm (a : Reg) : Statement (.postm a) := by
  intro w h; cases h
  have h0 := a.isLt
  omega
theorem waitc (t : BitVec 6) (l : BitVec 4) (s : BitVec 4) (cp : BitVec 4) : Statement (.waitc t l s cp) := by
  intro w h; cases h
  have h0 := t.isLt
  have h1 := l.isLt
  have h2 := s.isLt
  have h3 := cp.isLt
  omega
theorem bxh (x : Bx) (a : Reg) (imm : BitVec 9) : Statement (.bxh x a imm) := by
  intro w h; cases h
  have h0 := x.isLt
  have h1 := a.isLt
  have h2 := imm.isLt
  simp only [encBox]; omega
theorem bxo (x : Bx) (dim : BitVec 2) (a : Reg) (imm : BitVec 9) : Statement (.bxo x dim a imm) := by
  intro w h; cases h
  have h0 := x.isLt
  have h1 := dim.isLt
  have h2 := a.isLt
  have h3 := imm.isLt
  simp only [encBox]; omega
theorem bxe (x : Bx) (dim : BitVec 2) (a : Reg) (imm : BitVec 9) : Statement (.bxe x dim a imm) := by
  intro w h; cases h
  have h0 := x.isLt
  have h1 := dim.isLt
  have h2 := a.isLt
  have h3 := imm.isLt
  simp only [encBox]; omega
theorem bxs (x : Bx) (dim : BitVec 2) (a : Reg) (imm : BitVec 9) : Statement (.bxs x dim a imm) := by
  intro w h; cases h
  have h0 := x.isLt
  have h1 := dim.isLt
  have h2 := a.isLt
  have h3 := imm.isLt
  simp only [encBox]; omega
theorem bxc (x : Bx) (a : Bx) : Statement (.bxc x a) := by
  intro w h; cases h
  have h0 := x.isLt
  have h1 := a.isLt
  simp only [encBox]; omega
theorem bxz (x : Bx) : Statement (.bxz x) := by
  intro w h; cases h
  have h0 := x.isLt
  simp only [encBox]; omega
theorem hkld (h : Reg) (a : Reg) (imm : BitVec 8) : Statement (.hkld h a imm) := by
  intro w h; cases h
  have h0 := h.isLt
  have h1 := a.isLt
  have h2 := imm.isLt
  simp only [encSY]; omega
theorem hkst (h : Reg) (a : Reg) (imm : BitVec 8) : Statement (.hkst h a imm) := by
  intro w h; cases h
  have h0 := h.isLt
  have h1 := a.isLt
  have h2 := imm.isLt
  simp only [encSY]; omega
theorem hkinv (h : Reg) (imm : BitVec 8) : Statement (.hkinv h imm) := by
  intro w h; cases h
  have h0 := h.isLt
  have h1 := imm.isLt
  simp only [encSY]; omega
theorem hktab (h : Reg) (a : Reg) (imm : BitVec 8) : Statement (.hktab h a imm) := by
  intro w h; cases h
  have h0 := h.isLt
  have h1 := a.isLt
  have h2 := imm.isLt
  simp only [encSY]; omega
theorem acq (scope : Scope) (a : Reg) : Statement (.acq scope a) := by
  intro w h; cases h
  have h0 := scope_code_lt scope
  have h1 := a.isLt
  simp only [encEntry]; omega
theorem rel (scope : Scope) (a : Reg) : Statement (.rel scope a) := by
  intro w h; cases h
  have h0 := scope_code_lt scope
  have h1 := a.isLt
  simp only [encEntry]; omega
theorem bind (a : Reg) (b : Reg) : Statement (.bind a b) := by
  intro w h; cases h
  have h0 := a.isLt
  have h1 := b.isLt
  simp only [encEntry]; omega
theorem unbind (a : Reg) (b : Reg) : Statement (.unbind a b) := by
  intro w h; cases h
  have h0 := a.isLt
  have h1 := b.isLt
  simp only [encEntry]; omega
theorem cbr (t : Tb) (c : Cond) (neg : Bool) (red : Red) (hint : Bool) : Statement (.cbr t c neg red hint) := by
  intro w h; cases h
  have h0 := t.isLt
  have h1 := c.isLt
  have h2 := bool_nat_lt neg
  have h3 := red_code_lt red
  have h4 := bool_nat_lt hint
  simp only [encGrp]; omega
theorem cbrx (t : Tb) (c : Cond) (neg : Bool) (red : Red) : Statement (.cbrx t c neg red) := by
  intro w h; cases h
  have h0 := t.isLt
  have h1 := c.isLt
  have h2 := bool_nat_lt neg
  have h3 := red_code_lt red
  simp only [encGrp]; omega
theorem cstep : Statement (.cstep) := by
  intro w h; cases h
  decide
theorem gabort : Statement (.gabort) := by
  intro w h; cases h
  decide
theorem mfs (d : Reg) (r : BitVec 8) : Statement (.mfs d r) := by
  intro w h; cases h
  have h0 := d.isLt
  have h1 := r.isLt
  simp only [encSY]; omega
theorem mts (a : Reg) (r : BitVec 8) : Statement (.mts a r) := by
  intro w h; cases h
  have h0 := a.isLt
  have h1 := r.isLt
  simp only [encSY]; omega
theorem trap (code : BitVec 8) : Statement (.trap code) := by
  intro w h; cases h
  have h0 := code.isLt
  simp only [encSY]; omega
theorem eret : Statement (.eret) := by
  intro w h; cases h
  decide
theorem yield (n : BitVec 8) : Statement (.yield n) := by
  intro w h; cases h
  have h0 := n.isLt
  simp only [encSY]; omega
theorem saveq (a : Reg) : Statement (.saveq a) := by
  intro w h; cases h
  have h0 := a.isLt
  simp only [encSY]; omega
theorem restq (a : Reg) : Statement (.restq a) := by
  intro w h; cases h
  have h0 := a.isLt
  simp only [encSY]; omega
theorem halt : Statement (.halt) := by
  intro w h; cases h
  decide
theorem brk (tag : BitVec 8) : Statement (.brk tag) := by
  intro w h; cases h
  have h0 := tag.isLt
  simp only [encSY]; omega
theorem tstart (a : Reg) : Statement (.tstart a) := by
  intro w h; cases h
  have h0 := a.isLt
  simp only [encSY]; omega
theorem mapinvAddr (a : Reg) : Statement (.mapinvAddr a) := by
  intro w h; cases h
  have h0 := a.isLt
  simp only [encSY]; omega
theorem mapinvSeg (a : Reg) : Statement (.mapinvSeg a) := by
  intro w h; cases h
  have h0 := a.isLt
  simp only [encSY]; omega
theorem mapinvAsid (a : Reg) : Statement (.mapinvAsid a) := by
  intro w h; cases h
  have h0 := a.isLt
  simp only [encSY]; omega
theorem mapinvAll : Statement (.mapinvAll) := by
  intro w h; cases h
  decide
theorem ridge (d : Reg) (stk : BitVec 3) : Statement (.ridge d stk) := by
  intro w h; cases h
  have h0 := d.isLt
  have h1 := stk.isLt
  simp only [encSY]; omega
theorem snap (tag : BitVec 8) : Statement (.snap tag) := by
  intro w h; cases h
  have h0 := tag.isLt
  simp only [encSY]; omega
theorem sleep : Statement (.sleep) := by
  intro w h; cases h
  decide
theorem mMm (slot : Nat) (units : Nat) : Statement (.mMm slot units) := of_none rfl
theorem mMmq (slot : Nat) (units : Nat) : Statement (.mMmq slot units) := of_none rfl
theorem mMmg (slot : Nat) (units : Nat) : Statement (.mMmg slot units) := of_none rfl
theorem mMz (slot : Nat) (units : Nat) : Statement (.mMz slot units) := of_none rfl
theorem mMst (slot : Nat) (units : Nat) : Statement (.mMst slot units) := of_none rfl
theorem xXpose (slot : Nat) (units : Nat) : Statement (.xXpose slot units) := of_none rfl
theorem xXperm (slot : Nat) (units : Nat) : Statement (.xXperm slot units) := of_none rfl
theorem xXrev (slot : Nat) (units : Nat) : Statement (.xXrev slot units) := of_none rfl
theorem vAdd (slot : Nat) (units : Nat) : Statement (.vAdd slot units) := of_none rfl
theorem vSub (slot : Nat) (units : Nat) : Statement (.vSub slot units) := of_none rfl
theorem vMul (slot : Nat) (units : Nat) : Statement (.vMul slot units) := of_none rfl
theorem vFma (slot : Nat) (units : Nat) : Statement (.vFma slot units) := of_none rfl
theorem vDiv (slot : Nat) (units : Nat) : Statement (.vDiv slot units) := of_none rfl
theorem vSqrt (slot : Nat) (units : Nat) : Statement (.vSqrt slot units) := of_none rfl
theorem vRcp (slot : Nat) (units : Nat) : Statement (.vRcp slot units) := of_none rfl
theorem vRsq (slot : Nat) (units : Nat) : Statement (.vRsq slot units) := of_none rfl
theorem vExp2 (slot : Nat) (units : Nat) : Statement (.vExp2 slot units) := of_none rfl
theorem vLog2 (slot : Nat) (units : Nat) : Statement (.vLog2 slot units) := of_none rfl
theorem vMin (slot : Nat) (units : Nat) : Statement (.vMin slot units) := of_none rfl
theorem vMax (slot : Nat) (units : Nat) : Statement (.vMax slot units) := of_none rfl
theorem vAbs (slot : Nat) (units : Nat) : Statement (.vAbs slot units) := of_none rfl
theorem vNeg (slot : Nat) (units : Nat) : Statement (.vNeg slot units) := of_none rfl
theorem vCvt (slot : Nat) (units : Nat) : Statement (.vCvt slot units) := of_none rfl
theorem vQnt (slot : Nat) (units : Nat) : Statement (.vQnt slot units) := of_none rfl
theorem vDq (slot : Nat) (units : Nat) : Statement (.vDq slot units) := of_none rfl
theorem vScl (slot : Nat) (units : Nat) : Statement (.vScl slot units) := of_none rfl
theorem vAnd (slot : Nat) (units : Nat) : Statement (.vAnd slot units) := of_none rfl
theorem vOr (slot : Nat) (units : Nat) : Statement (.vOr slot units) := of_none rfl
theorem vXor (slot : Nat) (units : Nat) : Statement (.vXor slot units) := of_none rfl
theorem vNot (slot : Nat) (units : Nat) : Statement (.vNot slot units) := of_none rfl
theorem vShl (slot : Nat) (units : Nat) : Statement (.vShl slot units) := of_none rfl
theorem vShr (slot : Nat) (units : Nat) : Statement (.vShr slot units) := of_none rfl
theorem vSra (slot : Nat) (units : Nat) : Statement (.vSra slot units) := of_none rfl
theorem vClm (slot : Nat) (units : Nat) : Statement (.vClm slot units) := of_none rfl
theorem vPopc (slot : Nat) (units : Nat) : Statement (.vPopc slot units) := of_none rfl
theorem vClz (slot : Nat) (units : Nat) : Statement (.vClz slot units) := of_none rfl
theorem vCmp (slot : Nat) (units : Nat) : Statement (.vCmp slot units) := of_none rfl
theorem vSel (slot : Nat) (units : Nat) : Statement (.vSel slot units) := of_none rfl
theorem vRed (slot : Nat) (units : Nat) : Statement (.vRed slot units) := of_none rfl
theorem vScan (slot : Nat) (units : Nat) : Statement (.vScan slot units) := of_none rfl
theorem vAny (slot : Nat) (units : Nat) : Statement (.vAny slot units) := of_none rfl
theorem vAll (slot : Nat) (units : Nat) : Statement (.vAll slot units) := of_none rfl
theorem vCnt (slot : Nat) (units : Nat) : Statement (.vCnt slot units) := of_none rfl
theorem vIota (slot : Nat) (units : Nat) : Statement (.vIota slot units) := of_none rfl
theorem vComp (slot : Nat) (units : Nat) : Statement (.vComp slot units) := of_none rfl
theorem vGth (slot : Nat) (units : Nat) : Statement (.vGth slot units) := of_none rfl
theorem vSct (slot : Nat) (units : Nat) : Statement (.vSct slot units) := of_none rfl
theorem vHist (slot : Nat) (units : Nat) : Statement (.vHist slot units) := of_none rfl
theorem vBcst (slot : Nat) (units : Nat) : Statement (.vBcst slot units) := of_none rfl
theorem cCpy (slot : Nat) (units : Nat) : Statement (.cCpy slot units) := of_none rfl
theorem cCpyf (slot : Nat) (units : Nat) : Statement (.cCpyf slot units) := of_none rfl
theorem cCmpb (slot : Nat) (units : Nat) : Statement (.cCmpb slot units) := of_none rfl
theorem cFill (slot : Nat) (units : Nat) : Statement (.cFill slot units) := of_none rfl
theorem cAdv (slot : Nat) (units : Nat) : Statement (.cAdv slot units) := of_none rfl
theorem cDrn (slot : Nat) (units : Nat) : Statement (.cDrn slot units) := of_none rfl
theorem cDrna (slot : Nat) (units : Nat) : Statement (.cDrna slot units) := of_none rfl
theorem cAccl (slot : Nat) (units : Nat) : Statement (.cAccl slot units) := of_none rfl
theorem cSelk (slot : Nat) (units : Nat) : Statement (.cSelk slot units) := of_none rfl
theorem cCpypg (slot : Nat) (units : Nat) : Statement (.cCpypg slot units) := of_none rfl
theorem cCkpt (slot : Nat) (units : Nat) : Statement (.cCkpt slot units) := of_none rfl
theorem fWr (slot : Nat) (units : Nat) : Statement (.fWr slot units) := of_none rfl
theorem fWrp (slot : Nat) (units : Nat) : Statement (.fWrp slot units) := of_none rfl
theorem fRd (slot : Nat) (units : Nat) : Statement (.fRd slot units) := of_none rfl
theorem fAmo (slot : Nat) (units : Nat) : Statement (.fAmo slot units) := of_none rfl
theorem fPost (slot : Nat) (units : Nat) : Statement (.fPost slot units) := of_none rfl
theorem fSem (slot : Nat) (units : Nat) : Statement (.fSem slot units) := of_none rfl
theorem fRte (slot : Nat) (units : Nat) : Statement (.fRte slot units) := of_none rfl
theorem fRed (slot : Nat) (units : Nat) : Statement (.fRed slot units) := of_none rfl
theorem fHalo (slot : Nat) (units : Nat) : Statement (.fHalo slot units) := of_none rfl
theorem rnpoolWrite (a : Reg) : Statement (.rnpoolWrite a) := of_none rfl
theorem asidWrite (a : Reg) : Statement (.asidWrite a) := of_none rfl
theorem rasdWrite (a : Reg) : Statement (.rasdWrite a) := of_none rfl
theorem rasvWrite (a : Reg) : Statement (.rasvWrite a) := of_none rfl
theorem xstatWrite (a : Reg) : Statement (.xstatWrite a) := of_none rfl
theorem tracebWrite (a : Reg) : Statement (.tracebWrite a) := of_none rfl
theorem fold (slot : Nat) (units : Nat) : Statement (.fold slot units) := of_none rfl
theorem writeAcknowledgement (slot : Nat) : Statement (.writeAcknowledgement slot) := of_none rfl
theorem selftest : Statement (.selftest) := of_none rfl
theorem asyncCauseTaken : Statement (.asyncCauseTaken) := of_none rfl
theorem loadComplete (i : Nat) : Statement (.loadComplete i) := of_none rfl
theorem copyRetire (i : Nat) : Statement (.copyRetire i) := of_none rfl
theorem debugStopRequest : Statement (.debugStopRequest) := of_none rfl
theorem preemptRequest : Statement (.preemptRequest) := of_none rfl
theorem forcedStop : Statement (.forcedStop) := of_none rfl
theorem firmwareRestore : Statement (.firmwareRestore) := of_none rfl
theorem launchPacket (p : LaunchPkt) : Statement (.launchPacket p) := of_none rfl
theorem launchStart : Statement (.launchStart) := of_none rfl
theorem resumePacket (p : LaunchPkt) (restore : BitVec 32) : Statement (.resumePacket p restore) := of_none rfl
theorem translationFill (map : Bool) (va : Nat) (write : Bool) : Statement (.translationFill map va write) := of_none rfl
theorem homeAccess (q : HomeReq) : Statement (.homeAccess q) := of_none rfl
theorem mcBatch (stk : Fin 8) (served : Nat) : Statement (.mcBatch stk served) := of_none rfl
theorem ckptPageCopied (slot : Nat) : Statement (.ckptPageCopied slot) := of_none rfl
theorem throttle (t : ThrottleRec) : Statement (.throttle t) := of_none rfl
theorem throttleLift (t : ThrottleRec) : Statement (.throttleLift t) := of_none rfl
theorem thermalTrip (deciC : Nat) : Statement (.thermalTrip deciC) := of_none rfl
theorem powerStateEntry (p : PowerState) : Statement (.powerStateEntry p) := of_none rfl
theorem wakeEvent (p : PowerState) : Statement (.wakeEvent p) := of_none rfl
theorem ptpMessage (offset : Int) : Statement (.ptpMessage offset) := of_none rfl
theorem powerOn (b : BringUp) : Statement (.powerOn b) := of_none rfl
theorem pwrbudWrite (w : Nat) : Statement (.pwrbudWrite w) := of_none rfl
theorem cecntClear (die : Fin 4) : Statement (.cecntClear die) := of_none rfl
theorem faqPop (die : Fin 4) : Statement (.faqPop die) := of_none rfl
theorem bplAdd (frame : Nat) : Statement (.bplAdd frame) := of_none rfl
theorem bplRemove (frame : Nat) : Statement (.bplRemove frame) := of_none rfl
theorem thlogRead : Statement (.thlogRead) := of_none rfl
theorem fencemapRead : Statement (.fencemapRead) := of_none rfl
theorem pkgstatClear (mask : Word) : Statement (.pkgstatClear mask) := of_none rfl
theorem flitTransmit (pv : PortVc) : Statement (.flitTransmit pv) := of_none rfl
theorem flitArrival (port : Fin 24) (raw : BitVec 2048) (fecOk : Bool) : Statement (.flitArrival port raw fecOk) := of_none rfl
theorem ackTimeout (port : Fin 24) : Statement (.ackTimeout port) := of_none rfl
theorem retrainComplete (port : Fin 24) (mine : LaneView) (peer : LaneView) (verified : Bool) : Statement (.retrainComplete port mine peer verified) := of_none rfl
theorem trainingRestart (port : Fin 24) : Statement (.trainingRestart port) := of_none rfl
theorem bucketDrain (port : Fin 24) : Statement (.bucketDrain port) := of_none rfl
theorem linkStateNotice (port : Fin 24) (seq : BitVec 16) : Statement (.linkStateNotice port seq) := of_none rfl
theorem noticeTimeout (port : Fin 24) : Statement (.noticeTimeout port) := of_none rfl
theorem bktClear (port : Fin 24) : Statement (.bktClear port) := of_none rfl
theorem keySlotLoad (port : Fin 24) (tx : Bool) (slot : Bool) (key : BitVec 256) (salt : BitVec 32) : Statement (.keySlotLoad port tx slot key salt) := of_none rfl
theorem slotSwitch (port : Fin 24) : Statement (.slotSwitch port) := of_none rfl
theorem enreqWrite (port : Fin 24) (on : Bool) : Statement (.enreqWrite port on) := of_none rfl
theorem circuitMove (port : Fin 24) (peer : BitVec 12) : Statement (.circuitMove port peer) := of_none rfl
theorem podcfgWrite (v : Word) : Statement (.podcfgWrite v) := of_none rfl
theorem remoteWriteArrival (p : Packet) : Statement (.remoteWriteArrival p) := of_none rfl
theorem remoteReadArrival (p : Packet) : Statement (.remoteReadArrival p) := of_none rfl
theorem remoteAmoArrival (p : Packet) : Statement (.remoteAmoArrival p) := of_none rfl
theorem remoteSemArrival (p : Packet) : Statement (.remoteSemArrival p) := of_none rfl
theorem remotePostArrival (p : Packet) : Statement (.remotePostArrival p) := of_none rfl
theorem busyRetry (slot : Nat) : Statement (.busyRetry slot) := of_none rfl
theorem haloWriteArrival (p : Packet) : Statement (.haloWriteArrival p) := of_none rfl
theorem redWriteArrival (p : Packet) : Statement (.redWriteArrival p) := of_none rfl
theorem landedAck (slot : Nat) : Statement (.landedAck slot) := of_none rfl
theorem markedPacketArrival (p : Packet) : Statement (.markedPacketArrival p) := of_none rfl
theorem releaseArrival (p : Packet) : Statement (.releaseArrival p) := of_none rfl
theorem cancelArrival (p : Packet) : Statement (.cancelArrival p) := of_none rfl
theorem holdExpiry (i : Nat) : Statement (.holdExpiry i) := of_none rfl
theorem expiredArrival (p : Packet) : Statement (.expiredArrival p) := of_none rfl
theorem contributionArrival (c : Contrib) : Statement (.contributionArrival c) := of_none rfl
theorem branchResultArrival (inst : GroupNo) (gen : Nat) (r : Bool) : Statement (.branchResultArrival inst gen r) := of_none rfl
theorem cbrtoExpiry : Statement (.cbrtoExpiry) := of_none rfl
theorem instanceTimeoutArrival (inst : GroupNo) (gen : Nat) (mismatch : Bool) : Statement (.instanceTimeoutArrival inst gen mismatch) := of_none rfl
theorem stepMarkArrival (m : StepMark) : Statement (.stepMarkArrival m) := of_none rfl
theorem stepCommitArrival (step : GroupNo) (gen : Nat) : Statement (.stepCommitArrival step gen) := of_none rfl
theorem abortTokenAtRoot (t : AbortToken) : Statement (.abortTokenAtRoot t) := of_none rfl
theorem abortTokenArrival (t : AbortToken) : Statement (.abortTokenArrival t) := of_none rfl
theorem phase (epoch : BitVec 16) : Statement (.phase epoch) := of_none rfl
theorem drainedAnswer : Statement (.drainedAnswer) := of_none rfl
theorem phaseDone : Statement (.phaseDone) := of_none rfl
theorem illegal (w : BitVec 32) : Statement (.illegal w) := of_none rfl
theorem fetchOutsideImage (addr : BitVec 32) : Statement (.fetchOutsideImage addr) := of_none rfl
theorem tstartTimeReached : Statement (.tstartTimeReached) := of_none rfl
theorem acqRetryTimeout : Statement (.acqRetryTimeout) := of_none rfl
theorem snapshotWritten : Statement (.snapshotWritten) := of_none rfl
theorem packageReset : Statement (.packageReset) := of_none rfl
theorem hostEndsLaunch : Statement (.hostEndsLaunch) := of_none rfl
theorem remoteRefusalArrival (p : Packet) : Statement (.remoteRefusalArrival p) := of_none rfl

end WordFits

end Sys2Proof.Laws
end

