-- ==== Sys2Proof/Tests/Slice0.lean ====
section
/-! SUPPORT. Tests of the model: ill-formed terms, words of every strand instruction, a step or two of each family with the
value that the spec's rule gives, and for each statement a state and operands that meet its hypotheses. -/

open Sys2Proof Sys2Proof.Machine

namespace Sys2Proof.Tests

/-! ### Well-formedness: a term that each check refuses -/

/-- Is the launch packet of a launch refused. -/
def launchWf (p : LaunchPkt) : Bool := (Instr.launchPacket p).wf && (Instr.resumePacket p 0).wf

/-- The twelve arrivals of a packet are all well-formed, or none is. -/
abbrev arrivalsWf (p : Packet) (b : Bool) : Prop :=
  (Instr.remoteWriteArrival p).wf = b ∧ (Instr.remoteReadArrival p).wf = b ∧ (Instr.remoteAmoArrival p).wf = b ∧
    (Instr.remoteSemArrival p).wf = b ∧ (Instr.remotePostArrival p).wf = b ∧ (Instr.haloWriteArrival p).wf = b ∧
    (Instr.redWriteArrival p).wf = b ∧ (Instr.markedPacketArrival p).wf = b ∧ (Instr.releaseArrival p).wf = b ∧
    (Instr.cancelArrival p).wf = b ∧ (Instr.expiredArrival p).wf = b ∧ (Instr.remoteRefusalArrival p).wf = b

def aPacket : Packet := { srcNode := 4095, srcCore := 511, srcSlot := 0, dstNode := 4095, dstCore := 511, asid := 0, body := .refused true }
def aRequest : HomeReq :=
  { fromDie := 0, src := 0, core := 511, engine := false, pa := 56, size := 8, op := .write (leBytes 8 7), ecc := .clean }

theorem test_wf_loops : [Instr.loop 0 0 1, .loopReg 0 0 1, .loopCq 0 0].any Instr.wf = false := by decide
theorem test_wf_loop_of_one : [Instr.loop 0 1 1, .loopReg 0 1 1, .loopCq 0 1, .loops 0 0 1 1, .loopsReg 0 0 1 1,
    .loopsCq 0 0 1].all Instr.wf = true := by decide
theorem test_wf_launch : launchWf { args := List.replicate 15 1 } = true := by decide
theorem test_wf_launch_args : launchWf { args := List.replicate 16 1 } = false := by decide
theorem test_wf_launch_husk : launchWf { husks := [(1024, List.replicate 8 0)] } = false := by decide
theorem test_wf_launch_husk_length : launchWf { husks := [(0, List.replicate 7 0)] } = false := by decide
theorem test_wf_launch_table : launchWf { tabs := [(16, List.replicate 16 0)] } = false := by decide
theorem test_wf_launch_table_length : launchWf { tabs := [(0, List.replicate 15 0)] } = false := by decide
theorem test_wf_launch_segment : launchWf { segs := [(64, {})] } = false := by decide
theorem test_wf_launch_text : launchWf { text := [(2 ^ 32, 0)] } = false := by decide
theorem test_wf_launch_spad : launchWf { spad := [(0x600000, 0)] } = false := by decide
theorem test_wf_launch_place : launchWf { place := [(0, 0x4000)] } = false := by decide
theorem test_wf_home : (Instr.homeAccess aRequest).wf = true := by decide
theorem test_wf_home_empty : (Instr.homeAccess { aRequest with size := 0, op := .read }).wf = false := by decide
theorem test_wf_home_line : (Instr.homeAccess { aRequest with pa := 57 }).wf = false := by decide
theorem test_wf_home_core : (Instr.homeAccess { aRequest with core := 512 }).wf = false := by decide
theorem test_wf_home_data : (Instr.homeAccess { aRequest with op := .write [] }).wf = false := by decide
theorem test_wf_home_amo : (Instr.homeAccess { aRequest with size := 2, op := .amo .add 1 0 }).wf = false := by decide
theorem test_wf_packet : arrivalsWf aPacket true := by decide
theorem test_wf_packet_source : arrivalsWf { aPacket with srcNode := 4096 } false ∧
    arrivalsWf { aPacket with srcCore := 512 } false := by decide
theorem test_wf_packet_destination : arrivalsWf { aPacket with dstNode := 4096 } false ∧
    arrivalsWf { aPacket with dstCore := 512 } false := by decide

/-! ### Decoding (spec/03_encoding.md R39 to R64)

Each word is the fixed bits of the opcode table's row with a value in each of its fields; the encoder gives the word back. -/

/-- Each word decodes to its instruction, and is its encoding. -/
def decodesTo (l : List (Nat × Instr)) : Bool :=
  l.all (fun x => decodeTableWord 32 x.1 == some x.2 && encode x.2 == some [x.1])

theorem test_decode_alu_1 : decodesTo
    [(0x04000000 + 18 * 2 ^ 20 + 29 * 2 ^ 14 + 40 * 2 ^ 8, .add 18 29 40),
     (0x04000001 + 19 * 2 ^ 20 + 30 * 2 ^ 14 + 41 * 2 ^ 8, .sub 19 30 41),
     (0x04000002 + 20 * 2 ^ 20 + 31 * 2 ^ 14 + 42 * 2 ^ 8, .mul 20 31 42),
     (0x04000003 + 21 * 2 ^ 20 + 32 * 2 ^ 14 + 43 * 2 ^ 8, .mulh 21 32 43),
     (0x04000004 + 22 * 2 ^ 20 + 33 * 2 ^ 14 + 44 * 2 ^ 8, .mulhn 22 33 44),
     (0x04000005 + 23 * 2 ^ 20 + 34 * 2 ^ 14 + 45 * 2 ^ 8, .div 23 34 45),
     (0x04000006 + 24 * 2 ^ 20 + 35 * 2 ^ 14 + 46 * 2 ^ 8, .divn 24 35 46),
     (0x04000007 + 25 * 2 ^ 20 + 36 * 2 ^ 14 + 47 * 2 ^ 8, .rem 25 36 47),
     (0x04000008 + 26 * 2 ^ 20 + 37 * 2 ^ 14 + 48 * 2 ^ 8, .remn 26 37 48),
     (0x04000009 + 27 * 2 ^ 20 + 38 * 2 ^ 14 + 49 * 2 ^ 8, .and 27 38 49),
     (0x0400000A + 28 * 2 ^ 20 + 39 * 2 ^ 14 + 50 * 2 ^ 8, .or 28 39 50),
     (0x0400000B + 29 * 2 ^ 20 + 40 * 2 ^ 14 + 51 * 2 ^ 8, .xor 29 40 51),
     (0x0400000C + 30 * 2 ^ 20 + 41 * 2 ^ 14 + 52 * 2 ^ 8, .andn 30 41 52),
     (0x0400000D + 31 * 2 ^ 20 + 42 * 2 ^ 14 + 53 * 2 ^ 8, .sll 31 42 53),
     (0x0400000E + 32 * 2 ^ 20 + 43 * 2 ^ 14 + 54 * 2 ^ 8, .srl 32 43 54),
     (0x0400000F + 33 * 2 ^ 20 + 44 * 2 ^ 14 + 55 * 2 ^ 8, .sra 33 44 55)] = true := by decide

theorem test_decode_alu_2 : decodesTo
    [(0x04000010 + 34 * 2 ^ 20 + 45 * 2 ^ 14 + 56 * 2 ^ 8, .rol 34 45 56),
     (0x04000011 + 35 * 2 ^ 20 + 46 * 2 ^ 14 + 57 * 2 ^ 8, .ror 35 46 57),
     (0x04000012 + 36 * 2 ^ 20 + 47 * 2 ^ 14 + 58 * 2 ^ 8, .min 36 47 58),
     (0x04000013 + 37 * 2 ^ 20 + 48 * 2 ^ 14 + 59 * 2 ^ 8, .max 37 48 59),
     (0x04000014 + 38 * 2 ^ 20 + 49 * 2 ^ 14 + 60 * 2 ^ 8, .minn 38 49 60),
     (0x04000015 + 39 * 2 ^ 20 + 50 * 2 ^ 14 + 61 * 2 ^ 8, .maxn 39 50 61),
     (0x04000016 + 40 * 2 ^ 20 + 51 * 2 ^ 14, .clz 40 51),
     (0x04000017 + 41 * 2 ^ 20 + 52 * 2 ^ 14, .ctz 41 52),
     (0x04000018 + 42 * 2 ^ 20 + 53 * 2 ^ 14, .popc 42 53),
     (0x04000019 + 43 * 2 ^ 20 + 54 * 2 ^ 14, .bswap 43 54),
     (0x0400001A + 44 * 2 ^ 20 + 55 * 2 ^ 14 + 3 * 2 ^ 8, .clmul 44 55 3),
     (0x0400001B + 45 * 2 ^ 20 + 56 * 2 ^ 14 + 4 * 2 ^ 8, .clmulh 45 56 4),
     (0x0400001C + 46 * 2 ^ 20 + 57 * 2 ^ 14 + 5 * 2 ^ 8, .addw 46 57 5),
     (0x0400001D + 47 * 2 ^ 20 + 58 * 2 ^ 14 + 6 * 2 ^ 8, .subw 47 58 6)] = true := by decide

theorem test_decode_imm : decodesTo
    [(0x08000000 + 48 * 2 ^ 20 + 59 * 2 ^ 14 + 8301, .addi 48 59 8301),
     (0x0C000000 + 49 * 2 ^ 20 + 60 * 2 ^ 14 + 8304, .andi 49 60 8304),
     (0x10000000 + 50 * 2 ^ 20 + 61 * 2 ^ 14 + 8307, .ori 50 61 8307),
     (0x14000000 + 51 * 2 ^ 20 + 62 * 2 ^ 14 + 8310, .xori 51 62 8310),
     (0x18000000 + 52 * 2 ^ 20 + 63 * 2 ^ 14 + 57, .slli 52 63 57),
     (0x18001000 + 53 * 2 ^ 20 + 1 * 2 ^ 14 + 60, .srli 53 1 60),
     (0x18002000 + 54 * 2 ^ 20 + 2 * 2 ^ 14 + 63, .srai 54 2 63),
     (0x18003000 + 55 * 2 ^ 20 + 3 * 2 ^ 14 + 2, .rori 55 3 2),
     (0x1C000000 + 56 * 2 ^ 20 + 524414, .lui 56 524414),
     (0x20000000 + 57 * 2 ^ 20 + 524417, .lih 57 524417)] = true := by decide

theorem test_decode_field : decodesTo
    [(0x24000000 + 58 * 2 ^ 20 + 6 * 2 ^ 14 + 1 * 2 ^ 12 + 18 * 2 ^ 6 + 25, .bfx 58 6 true 18 25),
     (0x28000000 + 59 * 2 ^ 20 + 7 * 2 ^ 14 + 14 * 2 ^ 6 + 21, .bfi 59 7 14 21)] = true := by decide

theorem test_decode_cond : decodesTo
    [(0x2C000000 + 3 * 2 ^ 23 + 2 * 2 ^ 19 + 19 * 2 ^ 13 + 30 * 2 ^ 7, .cmp 3 .lt 19 30),
     (0x30000000 + 6 * 2 ^ 23 + 3 * 2 ^ 19 + 20 * 2 ^ 13 + 4251, .cmpi 6 .ge 20 4251),
     (0x34000000 + 62 * 2 ^ 20 + 10 * 2 ^ 14 + 21 * 2 ^ 8 + 0 * 2 ^ 3 + 5, .sel 62 10 21 false 5),
     (0x38000000 + 4 * 2 ^ 23 + 3 * 2 ^ 17 + 2 * 2 ^ 14, .cand 4 3 2),
     (0x38000001 + 7 * 2 ^ 23 + 6 * 2 ^ 17 + 5 * 2 ^ 14, .cor 7 6 5),
     (0x38000002 + 2 * 2 ^ 23 + 1 * 2 ^ 17 + 0 * 2 ^ 14, .cxor 2 1 0),
     (0x38000003 + 5 * 2 ^ 23 + 4 * 2 ^ 17 + 3 * 2 ^ 14, .candn 5 4 3)] = true := by decide

theorem test_decode_target : decodesTo
    [(0x3C000000 + 0 * 2 ^ 23 + 4194463, .ptg 0 4194463),
     (0x40000000 + 3 * 2 ^ 23 + 16 * 2 ^ 14, .ptr 3 16)] = true := by decide

theorem test_decode_xfer : decodesTo
    [(0x44000000 + 6 * 2 ^ 23, .br 6),
     (0x44010000 + 1 * 2 ^ 23 + 0 * 2 ^ 20 + 1 * 2 ^ 19, .brc 1 0 true),
     (0x44020000 + 4 * 2 ^ 23, .call 4),
     (0x44030000 + 7 * 2 ^ 23 + 6 * 2 ^ 20 + 1 * 2 ^ 19, .callc 7 6 true),
     (0x44040000, .ret),
     (0x44050000 + 1 * 2 ^ 23 + 4 * 2 ^ 20 + 1 * 2 ^ 19, .lbrk 1 4 true)] = true := by decide

theorem test_decode_loop : decodesTo
    [(0x48000000 + 0 * 2 ^ 24 + 695 * 2 ^ 12 + 2238, .loop 0 695 2238),
     (0x48400000 + 3 * 2 ^ 24 + 698 * 2 ^ 12 + 35, .loopReg 3 698 35),
     (0x48800000 + 2 * 2 ^ 24 + 701 * 2 ^ 12, .loopCq 2 701),
     (0x4C000000 + 1 * 2 ^ 24 + 704 * 2 ^ 12 + 7 * 2 ^ 9 + 462, .loops 1 704 7 462),
     (0x4C400000 + 0 * 2 ^ 24 + 707 * 2 ^ 12 + 2 * 2 ^ 9 + 49, .loopsReg 0 707 2 49),
     (0x4C800000 + 3 * 2 ^ 24 + 710 * 2 ^ 12 + 5 * 2 ^ 9, .loopsCq 3 710 5),
     (0x50000000 + 2 * 2 ^ 20 + 9 * 2 ^ 16 + 0 * 2 ^ 12 + 7 * 2 ^ 8, .rep 2 9 0 7)] = true := by decide

theorem test_decode_cq : decodesTo
    [(0x54000000 + 19 * 2 ^ 14, .cqpush 19),
     (0x54000001 + 20 * 2 ^ 20, .cqpop 20),
     (0x54000002, .cqclr),
     (0x54000003 + 22 * 2 ^ 20, .cqlen 22)] = true := by decide

theorem test_decode_load : decodesTo
    [(0x58000000 + 23 * 2 ^ 20 + 34 * 2 ^ 14 + 8415, .ldb 23 34 8415),
     (0x5C000000 + 24 * 2 ^ 20 + 35 * 2 ^ 14 + 8418, .ldbn 24 35 8418),
     (0x60000000 + 25 * 2 ^ 20 + 36 * 2 ^ 14 + 8421, .ldh 25 36 8421),
     (0x64000000 + 26 * 2 ^ 20 + 37 * 2 ^ 14 + 8424, .ldhn 26 37 8424),
     (0x68000000 + 27 * 2 ^ 20 + 38 * 2 ^ 14 + 8427, .ldw 27 38 8427),
     (0x6C000000 + 28 * 2 ^ 20 + 39 * 2 ^ 14 + 8430, .ldwn 28 39 8430),
     (0x70000000 + 29 * 2 ^ 20 + 40 * 2 ^ 14 + 8433, .ldd 29 40 8433)] = true := by decide

theorem test_decode_store : decodesTo
    [(0x74000000 + 30 * 2 ^ 20 + 41 * 2 ^ 14 + 8436, .stb 30 41 8436),
     (0x78000000 + 31 * 2 ^ 20 + 42 * 2 ^ 14 + 8439, .sth 31 42 8439),
     (0x7C000000 + 32 * 2 ^ 20 + 43 * 2 ^ 14 + 8442, .stw 32 43 8442),
     (0x80000000 + 33 * 2 ^ 20 + 44 * 2 ^ 14 + 8445, .std 33 44 8445)] = true := by decide

theorem test_decode_spill : decodesTo
    [(0x84000000 + 34 * 2 ^ 20 + 505 * 2 ^ 10, .spl 34 505),
     (0x84080000 + 35 * 2 ^ 20 + 508 * 2 ^ 10, .fil 35 508)] = true := by decide

theorem test_decode_copy : decodesTo
    [(0x88000000 + 36 * 2 ^ 20 + 47 * 2 ^ 14 + 58 * 2 ^ 8, .lda 36 47 58),
     (0x88000001 + 37 * 2 ^ 20 + 48 * 2 ^ 14 + 59 * 2 ^ 8, .sta 37 48 59)] = true := by decide

theorem test_decode_atom : decodesTo
    [(0x8C000000 + 38 * 2 ^ 20 + 49 * 2 ^ 14 + 60 * 2 ^ 8 + 1 * 2 ^ 7 + 3 * 2 ^ 4, .atomSwp 38 49 60 true .package),
     (0x8C000001 + 39 * 2 ^ 20 + 50 * 2 ^ 14 + 61 * 2 ^ 8 + 0 * 2 ^ 7 + 4 * 2 ^ 4, .atomAdd 39 50 61 false .fabric),
     (0x8C000002 + 40 * 2 ^ 20 + 51 * 2 ^ 14 + 62 * 2 ^ 8 + 1 * 2 ^ 7 + 0 * 2 ^ 4, .atomAnd 40 51 62 true .core),
     (0x8C000003 + 41 * 2 ^ 20 + 52 * 2 ^ 14 + 63 * 2 ^ 8 + 0 * 2 ^ 7 + 1 * 2 ^ 4, .atomOr 41 52 63 false .cluster),
     (0x8C000004 + 42 * 2 ^ 20 + 53 * 2 ^ 14 + 1 * 2 ^ 8 + 1 * 2 ^ 7 + 2 * 2 ^ 4, .atomXor 42 53 1 true .die),
     (0x8C000005 + 43 * 2 ^ 20 + 54 * 2 ^ 14 + 2 * 2 ^ 8 + 0 * 2 ^ 7 + 3 * 2 ^ 4, .atomMin 43 54 2 false .package),
     (0x8C000006 + 44 * 2 ^ 20 + 55 * 2 ^ 14 + 3 * 2 ^ 8 + 1 * 2 ^ 7 + 4 * 2 ^ 4, .atomMax 44 55 3 true .fabric),
     (0x8C000007 + 45 * 2 ^ 20 + 56 * 2 ^ 14 + 4 * 2 ^ 8 + 0 * 2 ^ 7 + 0 * 2 ^ 4, .atomMinn 45 56 4 false .core),
     (0x8C000008 + 46 * 2 ^ 20 + 57 * 2 ^ 14 + 5 * 2 ^ 8 + 1 * 2 ^ 7 + 1 * 2 ^ 4, .atomMaxn 46 57 5 true .cluster),
     (0x8C000009 + 47 * 2 ^ 20 + 58 * 2 ^ 14 + 6 * 2 ^ 8 + 0 * 2 ^ 7 + 2 * 2 ^ 4, .atomCas 47 58 6 false .die)] = true := by decide

theorem test_decode_fence : decodesTo
    [(0x90000000 + 3 * 2 ^ 19, .fenceSc .package),
     (0x90400000 + 4 * 2 ^ 19, .fenceAcq .fabric),
     (0x90800000 + 0 * 2 ^ 19, .fenceRel .core),
     (0x90C00000, .fenceRq),
     (0x91000000, .fencePip)] = true := by decide

theorem test_decode_sem : decodesTo
    [(0x94000000 + 1323 * 2 ^ 12 + 1 * 2 ^ 6, .semadd 1323 1),
     (0x94800000 + 1326 * 2 ^ 12 + 53, .semaddi 1326 53),
     (0x95000000 + 1329 * 2 ^ 12 + 3 * 2 ^ 6, .semwait 1329 3),
     (0x95800000 + 1332 * 2 ^ 12 + 59, .semwaiti 1332 59),
     (0x96000000 + 1335 * 2 ^ 12 + 5 * 2 ^ 6, .semset 1335 5),
     (0x96800000 + 1338 * 2 ^ 12 + 6 * 2 ^ 6, .semrd 1338 6)] = true := by decide

theorem test_decode_window : decodesTo
    [(0x98100000 + 60 * 2 ^ 14, .postm 60),
     (0x9C000000 + 3 * 2 ^ 20 + 10 * 2 ^ 16 + 1 * 2 ^ 12 + 8 * 2 ^ 8, .waitc 3 10 1 8)] = true := by decide

theorem test_decode_box : decodesTo
    [(0xA0000000 + 6 * 2 ^ 17 + 10 * 2 ^ 9 + 340, .bxh 6 10 340),
     (0xA0800000 + 9 * 2 ^ 17 + 0 * 2 ^ 15 + 22 * 2 ^ 9 + 350, .bxo 9 0 22 350),
     (0xA1000000 + 12 * 2 ^ 17 + 3 * 2 ^ 15 + 23 * 2 ^ 9 + 353, .bxe 12 3 23 353),
     (0xA1800000 + 15 * 2 ^ 17 + 2 * 2 ^ 15 + 24 * 2 ^ 9 + 356, .bxs 15 2 24 356),
     (0xA2000000 + 18 * 2 ^ 17 + 14 * 2 ^ 9, .bxc 18 14),
     (0xA2800000 + 21 * 2 ^ 17, .bxz 21)] = true := by decide

theorem test_decode_husk : decodesTo
    [(0xA4000000 + 5 * 2 ^ 14 + 16 * 2 ^ 8 + 102, .hkld 5 16 102),
     (0xA4100000 + 6 * 2 ^ 14 + 17 * 2 ^ 8 + 105, .hkst 6 17 105),
     (0xA4200000 + 7 * 2 ^ 14 + 101, .hkinv 7 101),
     (0xA4300000 + 8 * 2 ^ 14 + 19 * 2 ^ 8 + 111, .hktab 8 19 111)] = true := by decide

theorem test_decode_entry : decodesTo
    [(0xA8000000 + 2 * 2 ^ 21 + 20 * 2 ^ 14, .acq .die 20),
     (0xA9000000 + 3 * 2 ^ 21 + 21 * 2 ^ 14, .rel .package 21),
     (0xAA000000 + 11 * 2 ^ 14 + 22 * 2 ^ 8, .bind 11 22),
     (0xAB000000 + 12 * 2 ^ 14 + 23 * 2 ^ 8, .unbind 12 23)] = true := by decide

theorem test_decode_group : decodesTo
    [(0xAC000000 + 0 * 2 ^ 20 + 7 * 2 ^ 17 + 0 * 2 ^ 16 + 1 * 2 ^ 14 + 0 * 2 ^ 13, .cbr 0 7 false .or false),
     (0xAC800000 + 3 * 2 ^ 20 + 2 * 2 ^ 17 + 1 * 2 ^ 16 + 2 * 2 ^ 14, .cbrx 3 2 true .maj),
     (0xAD000000, .cstep),
     (0xAD800000, .gabort)] = true := by decide

theorem test_decode_sys_1 : decodesTo
    [(0xB0000000 + 17 * 2 ^ 14 + 131, .mfs 17 131),
     (0xB0100000 + 18 * 2 ^ 8 + 134, .mts 18 134),
     (0xB0200000 + 130, .trap 130),
     (0xB0300000, .eret),
     (0xB0400000 + 136, .yield 136),
     (0xB0500000 + 22 * 2 ^ 8, .saveq 22),
     (0xB0600000 + 23 * 2 ^ 8, .restq 23),
     (0xB0700000, .halt),
     (0xB0800000 + 148, .brk 148),
     (0xB0900000 + 26 * 2 ^ 8, .tstart 26),
     (0xB0A00000 + 27 * 2 ^ 8, .mapinvAddr 27),
     (0xB0A00001 + 28 * 2 ^ 8, .mapinvSeg 28),
     (0xB0A00002 + 29 * 2 ^ 8, .mapinvAsid 29),
     (0xB0A00003, .mapinvAll),
     (0xB0B00000 + 31 * 2 ^ 14 + 5, .ridge 31 5),
     (0xB0C00000 + 169, .snap 169)] = true := by decide

theorem test_decode_sys_2 : decodesTo
    [(0xB0D00000, .sleep)] = true := by decide

/-- An inline POST takes the eight words behind it, word k in bits [32k + 31 : 32k] of its record (R67). -/
theorem test_decode_post : decodeTableWord 288 0x800000000000000000000000000000000000000000000000000000000000000798000000 =
    some (.post 0x8000000000000000000000000000000000000000000000000000000000000007) := by decide
theorem test_encode_post : encode (.post 0x8000000000000000000000000000000000000000000000000000000000000007) =
    some [0x98000000, 7, 0, 0, 0, 0, 0, 0, 0x80000000] := by decide

/-- Refused by name: reserved majors (R42), reserved sub-opcodes, nonzero unused fields (R43), an empty body (R50). -/
theorem test_decode_refused :
    decodeWord 0 none = .error .reservedMajor ∧ decodeWord 0xB4000000 none = .error .reservedMajor ∧
    decodeWord 0x0400001E none = .error .reservedSub ∧ decodeWord 0x04000116 none = .error .unusedField ∧
    decodeWord 0x48000004 none = .error .emptyBody ∧ decodeWord 0x48C01000 none = .error .reservedSub ∧
    decodeWord 0x8C000050 none = .error .reservedSub ∧ decodeWord 0xB0A00004 none = .error .reservedSub ∧
    decodeWord 0xB0300001 none = .error .unusedField ∧ decodeWord 0x98000000 none = .error .truncated := by decide

/-! ### Small states -/

/-- A strand that runs at word 16. -/
def base : State :=
  { State.reset with strand := { State.reset.strand with run := .running, pc := 16 } }

/-- General registers of a state, from g1 on. -/
def withG (vs : List Word) (s : State) : State :=
  { s with strand := { s.strand with g := Vector.ofFn (fun i : Fin 64 => if i = 0 then 0 else vs.getD (i.val - 1) 0) } }

/-- Words at the pc. -/
def withText (ws : List Nat) (s : State) : State :=
  { s with strand := { s.strand with text := ws.zipIdx.map (fun x => (s.strand.pc.toNat + x.2, BitVec.ofNat 32 x.1)) } }

/-- The level, and whether the strand runs ahead. -/
def withPl (s : State) : State := { s with sys := { s.sys with pl := true } }
def withSpec (s : State) : State := { s with sys := { s.sys with spec := true } }

/-- The state that a step or an instruction answers. -/
def after (o : Host.Outcome State Fault Refusal) : State :=
  match o with | .next t => t | _ => State.reset

/-- A segment table for ASID 0: segment 0 plain, readable and writable, addresses 0 to 0xFFFFF at physical 0x200000;
segment 1 pageable from 0x1000000, its table empty; segment 2 pageable from 0x2000000 with one leaf that may not be written,
at physical 0. -/
def withMemory (s : State) : State :=
  { s with mem := { s.mem with
    segs := [(0, [(0, { d0 := 7, d1 := 0x100000, d2 := 0x200000 }), (1, { d0 := 0x100000F, d1 := 0x100000, d2 := 0x300000 }),
      (2, { d0 := 0x200000F, d1 := 0x100000, d2 := 0x308000 })])]
    mem := [(0x200008, 0x80), (0x308007, 0xC0)] } }

/-- The line at physical 0x200000 is poisoned. -/
def withPoison (s : State) : State := { s with mem := { s.mem with poison := [0x200000] } }

/-- The stacks whose bits are set are being handed over. -/
def handing (ks : BitVec 8) (s : State) : State := { s with pkg := { s.pkg with ridging := ks } }
/-- A copy of the first eight bytes of memory to those of the scratchpad is in flight. -/
def copying (s : State) : State := { s with strand := { s.strand with
  copies := [{ toSpad := true, off := 0, va := 0, len := 8, pages := [], asid := 0 }] } }

/-- The scratchpad address of an offset. -/
def sp (off : Nat) : Word := BitVec.ofNat 64 (2 ^ 63 + off)

def aLoad : Load := { d := 5, value := 7, ue := false, addr := 8, kind := 0, ahead := false }

/-- A strand whose transfer waits behind its shadow slot. -/
def inSlot (k : PendKind) (s : State) : State :=
  { s with strand := { s.strand with pend := some { kind := k, taken := true, target := 40, fall := 18 } } }

/-- A strand in loop 1, whose body is words 10 to 16, with j of count iterations done. -/
def inLoop (j count : BitVec 32) (s : State) : State :=
  { s with strand := { s.strand with
    xstat := { s.strand.xstat with depth := 1, nest := 1 }
    bounds := s.strand.bounds.set 1 { first := 10, last := 16 }
    lc := s.strand.lc.set 1 { j := j, cnt := count } } }

/-- A record of an engine and TOP, and a running entry that holds it in slot 0. -/
def task (eng top : Nat) : Rec := BitVec.ofNat 256 (top + 2 ^ 8 * eng)
def entryOf (eng top : Nat) : Entry := { slot := 0, record := task eng top, boxes := {}, seq := 1, state := .running }
def withEntry (e : Entry) (s : State) : State :=
  { s with thatch := { s.thatch with entries := [e], nextSlot := e.slot + 1, nextSeq := e.seq + 1 } }

/-- What a check answered, as data that can be compared. -/
def badOf : Chk → Option Cause | .bad c => some c | _ => none
def spadOf : Chk → Option Nat | .spad o => some o | _ => none
def memOf : Chk → Option (Nat × Bool × Bool × Option Nat) | .mem pa m w l _ => some (pa, m, w, l) | _ => none

theorem bad_of {k : Chk} {c : Cause} (h : badOf k = some c) : k = .bad c := by cases k <;> simp_all [badOf]
theorem spad_of {k : Chk} {o : Nat} (h : spadOf k = some o) : k = .spad o := by cases k <;> simp_all [spadOf]
theorem mem_of {k : Chk} {pa : Nat} {m w : Bool} {l : Option Nat} (h : memOf k = some (pa, m, w, l)) :
    ∃ u, k = .mem pa m w l u := by
  cases k <;> simp_all [memOf]

def givesBytes : ReadRes → Bool | .bytes _ u => !u.sys.spec | _ => false

theorem bytes_of {r : ReadRes} (h : givesBytes r = true) : ∃ bs u, r = .bytes bs u ∧ u.sys.spec = false := by
  cases r <;> simp_all [givesBytes]

/-! ### What meets the hypotheses of the statements -/

theorem witness_decodeOfEncode : (Instr.loop 3 1 4095).wf = true ∧ encode (.loop 3 1 4095) = some [0x4B001FFF] := by decide
theorem witness_encodeOfDecode : decodeWord 0xB0800001 none = .ok (.brk 1) ∧ decodeWord 0x98000000 (some 7) = .ok (.post 7) := by
  decide

theorem witness_stepRunsDecoded : let s := withText [0x08100005] base
    s.agenda = [] ∧ nextCause s = none ∧ s.strand.run = .running ∧ s.strand.stalled = false ∧ s.strand.rep = none ∧
      s.prof.queued = [] ∧ s.thatch.trapDue = none ∧ faultyWord s s.strand.pc = none ∧
      decodeAt s s.strand.pc = some (.ok (.addi 1 0 5)) := by decide
/-- A trap entry waits for the engines. -/
def deferring (s : State) : State :=
  { s with thatch := { s.thatch with trapDue := some { cause := .seg, info := 0, src := 0, faddr := none, async := false, recSeq := none } } }
theorem witness_stepRunsDecoded_deferred : let s := deferring base
    s.agenda = [] ∧ nextCause s = none ∧ s.strand.run = .running ∧ s.strand.stalled = false ∧ s.thatch.trapDue ≠ none := by decide
theorem witness_stepRunsDecoded_queued :
    let s := { base with prof := { base.prof with queued := [{ kind := 1, tag := 0, dw3 := 0, dw4 := 0 }] } }
    s.agenda = [] ∧ nextCause s = none ∧ s.strand.run = .running ∧ s.strand.stalled = false ∧ s.prof.queued ≠ [] := by decide
theorem witness_stepRunsDecoded_repeat :
    let s := withText [0x50110000, 0x08100005] { base with strand := { base.strand with
      rep := some { k := 1, n := 1, sd := 1, sa := 1, sb := 0 } } }
    s.agenda = [] ∧ nextCause s = none ∧ s.strand.run = .running ∧ s.strand.stalled = false ∧
      faultyWord s (s.strand.pc + 1) = none ∧ decodeAt s (s.strand.pc + 1) = some (.ok (.addi 1 0 5)) := by decide

theorem witness_stepAtNoInstruction : let s := withText [0xFFFFFFFF] base
    s.agenda = [] ∧ nextCause s = none ∧ s.strand.run = .running ∧ s.strand.stalled = false ∧ s.strand.rep = none ∧
      s.sys.spec = false ∧ s.thatch.trapDue = none ∧ heldFirst s = false ∧ faultyWord s s.strand.pc = none ∧
      decodeAt s s.strand.pc = some (.error .reservedMajor) := by decide
/-- The words of the image lie at physical 0x200000, whose line is poisoned. -/
def withPoisonedText (s : State) : State :=
  { s with strand := { s.strand with textLines := [(1, 0x200000), (2, 0x300000)] }, mem := { s.mem with poison := [0x200000] } }
/-- Die 0 reaches no home but its own, and stack 0 is owned by die 1. -/
def cutOff (s : State) : State := { s with pkg := { s.pkg with ddl := 15, own := 1 } }
theorem witness_stepAtNoInstruction_poisoned : let s := withPoisonedText (withText [0x08100005] base)
    textAt s s.strand.pc ≠ none ∧ List.lookup (s.strand.pc.toNat / 16) s.strand.textLines = some 0x200000 ∧
      reachesHome s 0x200000 = true ∧ poisonedAt s (memKey s.sys.nodeid.toNat 0x200000) = true ∧
      reachesHome (cutOff s) 0x200000 = false ∧ s.sys.spec = false ∧ heldFirst s = false ∧
      heldFirst { base with grp := { base.grp with issuing := [.spl 0 1], heldWait := true } } = true := by decide
/-- An inline POST at a word; words 16 to 31 lie at physical 0x200000 and words 32 to 47 at physical 0x300000. -/
def inlinePost (pc : BitVec 32) : State :=
  { base with strand := { base.strand with
    pc := pc, textLines := [(1, 0x200000), (2, 0x300000)]
    text := (0x98000000 :: List.replicate 8 0).zipIdx.map (fun x => (pc.toNat + x.2, BitVec.ofNat 32 x.1)) } }
theorem witness_stepAtNoInstruction_inline :
    let s := { inlinePost 28 with mem := { base.mem with poison := [0x300000] } }
    postAt s s.strand.pc = true ∧ (∀ j, j ≤ 4 → textAt s (s.strand.pc + BitVec.ofNat 32 j) ≠ none) ∧
      (∀ j, j < 4 → lineFault s (s.strand.pc + BitVec.ofNat 32 j) = none) ∧
      List.lookup ((s.strand.pc + BitVec.ofNat 32 4).toNat / 16) s.strand.textLines = some 0x300000 ∧
      reachesHome s 0x300000 = true ∧ poisonedAt s (memKey s.sys.nodeid.toNat 0x300000) = true := by decide
theorem witness_stepAtNoInstruction_inline_unreached : let s := cutOff (inlinePost 16)
    postAt s s.strand.pc = true ∧ (∀ j, j ≤ 0 → textAt s (s.strand.pc + BitVec.ofNat 32 j) ≠ none) ∧
      (∀ j, j < 0 → lineFault s (s.strand.pc + BitVec.ofNat 32 j) = none) ∧
      List.lookup ((s.strand.pc + BitVec.ofNat 32 0).toNat / 16) s.strand.textLines = some 0x200000 ∧
      reachesHome s 0x200000 = false := by decide
theorem witness_stepAtNoInstruction_outside : nextCause base = none ∧ textAt base base.strand.pc = none ∧
    (withSpec base).sys.spec = true := by decide

theorem witness_stepAtNoInstruction_record : let s := withText [0x98000000, 0] base
    nextCause s = none ∧ s.prof.queued = [] ∧ decodeAt s s.strand.pc = some (.error .truncated) ∧
      (∀ j, j < 1 → textAt s (s.strand.pc + 1 + BitVec.ofNat 32 j) ≠ none) ∧
      textAt s (s.strand.pc + 1 + BitVec.ofNat 32 1) = none := by decide

theorem canonical_reset : Canonical State.reset := by unfold Canonical; decide
theorem witness_stepKeepsCanonical : Canonical State.reset ∧ ∃ t, step State.reset = .next t := ⟨canonical_reset, _, rfl⟩

theorem witness_registerAccess : (63 : Reg) ≠ 0 ∧ (7 : Cond) ≠ 0 := by decide

/-- Loop 1 at its last word and last iteration, with a snapshot on the exits of loop 1 (R281), while one is being written. -/
def leaving : State :=
  { inLoop 3 4 base with
    sys := { base.sys with traceb := 0x8200010000000000 }
    prof := { base.prof with busy := true } }

theorem witness_completionFrame : base.prof.busy = false ∧ leaving.prof.busy = true ∧
    (advance 1 leaving).prof.snaps ≠ leaving.prof.snaps ∧ traceOn base = false ∧
    (advance 1 { base with prof := { base.prof with busy := true } }).prof.snaps = base.prof.snaps := by decide

theorem witness_completionControl_straight : Straight base := by unfold Straight; decide
theorem witness_completionControl_loop : let s := inLoop 2 4 base
    s.strand.rep = none ∧ s.strand.pend = none ∧ s.strand.xstat.depth ≠ 0 ∧
      (getBounds s (innermost s.strand.xstat)).last = s.strand.pc + (1 - 1) ∧
      (getLc s (innermost s.strand.xstat)).j.toNat + 1 < loopTotal s (innermost s.strand.xstat) := by decide
/-- Loop 1 inside loop 2: both bodies end with word 16. -/
def inTwo (s : State) : State :=
  let t := inLoop 3 4 s
  { t with strand := { t.strand with
    xstat := { t.strand.xstat with depth := 2, nest := 9 }
    bounds := t.strand.bounds.set 2 { first := 5, last := 16 }, lc := t.strand.lc.set 2 { j := 0, cnt := 2 } } }

theorem witness_completionControl_ends : let s := inLoop 3 4 base
    s.strand.rep = none ∧ s.strand.pend = none ∧ (getBounds s 1).last = s.strand.pc + (1 - 1) ∧
      loopTotal s 1 ≤ (getLc s 1).j.toNat + 1 ∧ s.strand.xstat.depth = 1 := by decide
theorem witness_completionControl_outer : let s := inTwo base
    innermost s.strand.xstat = 1 ∧ (Fin.ofNat 4 (s.strand.xstat.nest.toNat / 4) : LoopId) = 2 ∧
      loopTotal s 1 ≤ (getLc s 1).j.toNat + 1 ∧ s.strand.xstat.depth ≠ 1 ∧ (getBounds s 2).last = s.strand.pc + (1 - 1) ∧
      (getLc s 2).j.toNat + 1 < loopTotal s 2 := by decide
theorem witness_completionControl_transfer (k : PendKind) : let s := inSlot k (inTwo base)
    s.strand.rep = none ∧ s.strand.pend = some { kind := k, taken := true, target := 40, fall := 18 } ∧
      s.strand.xstat.depth.toNat ≤ 4 := ⟨rfl, rfl, by simp [inSlot, inTwo, inLoop]⟩
theorem witness_completionControl_not_taken : let p : Pend := { kind := .lbrk 1, taken := false, target := 40, fall := 18 }
    { base with strand := { base.strand with pend := some p } }.strand.pend = some p ∧ p.taken = false := by decide
theorem witness_completionControl_repeat : let r : RepState := { k := 62, n := 63, sd := 0, sa := 0, sb := 0 }
    { base with strand := { base.strand with rep := some r } }.strand.rep = some r ∧ r.k < r.n := by decide

/-- Every register form of an instruction is ready here. -/
theorem ready_base (regs : List Reg) (stops : Bool) : Ready regs stops base := by
  refine ⟨by decide, by decide, by cases stops <;> rfl, ?_⟩
  have : ∀ r, regPending base r = false := by intro r; simp [regPending, base, State.reset, Strand.reset, Thatch.reset]
  simp [this]

theorem witness_ready : Ready [63, 1, 2] true base ∧ Ready [] true base := ⟨ready_base _ _, ready_base _ _⟩
theorem witness_ready_regs (vs : List Word) : Ready [3, 1, 2] true (withG vs base) := by
  refine ⟨rfl, rfl, rfl, ?_⟩
  have : ∀ r, regPending (withG vs base) r = false := by
    intro r; simp [regPending, withG, base, State.reset, Strand.reset, Thatch.reset]
  simp [this]

theorem witness_aluResults : let s := withG [0, 1, 0x8000000000000000] base
    getG s 1 = 0 ∧ (getG s 2).getLsbD 0 = true ∧ (∀ j < 0, (getG s 2).getLsbD j = false) ∧ (getG s 3).getLsbD 63 = true ∧
      ∀ j, 63 < j → (getG s 3).getLsbD j = false :=
  ⟨by decide, by decide, fun _ h => absurd h (Nat.not_lt_zero _), by decide, fun _ h => BitVec.getLsbD_of_ge _ _ h⟩
theorem witness_divisionResults : let s := withG [0x8000000000000000, 0xFFFFFFFFFFFFFFFF, 0, 7] base
    getG s 3 = 0 ∧ (getG s 1).toInt = -(2 ^ 63) ∧ (getG s 2).toInt = -1 ∧ getG s 4 ≠ 0 ∧ ¬((getG s 4).toInt = -(2 ^ 63)) := by decide

theorem witness_registerFrame : integerDest (.add 1 2 3) = some 1 ∧ conditionDest (.cand 7 1 2) = some 7 ∧
    (∃ t, exec (.add 1 2 3) base = .next t) ∧ ∃ t, exec (.cand 7 1 2) base = .next t :=
  ⟨rfl, rfl, ⟨_, rfl⟩, ⟨_, rfl⟩⟩

theorem witness_targetResults : let s := withG [0xFFFFFFFF, 0x100000000] base
    (getG s 1).toNat < 2 ^ 32 ∧ 2 ^ 32 ≤ (getG s 2).toNat ∧ s.sys.spec = false := by decide

/-- A return-address store of n entries. -/
def withRas (n : Nat) (s : State) : State := { s with strand := { s.strand with ras := List.replicate n 7 } }

theorem witness_transferResults : TransferPlace (withRas 15 base) ∧ (withRas 15 base).strand.ras.length < 16 ∧
    (withRas 1 base).strand.ras = [] ++ [7] ∧ getC base 1 = false ∧ getC base 0 = true := by
  unfold TransferPlace; decide
theorem witness_transferTraps : (inSlot .xfer base).strand.pend ≠ none ∧
    (inLoop 0 4 base).strand.pend = none ∧ lastOfSegment (inLoop 0 4 base) = true ∧
    TransferPlace (withRas 16 base) ∧ 16 ≤ (withRas 16 base).strand.ras.length ∧
    TransferPlace base ∧ base.strand.ras = [] ∧ base.sys.spec = false := by
  unfold TransferPlace; decide

theorem witness_loopStarts :
    loopMisshapen base 0 { first := 17, last := 17 } false 1 1 = false ∧
    loopMisshapen base 3 { first := 17, last := 20 } true 4 4 = false ∧ base.strand.pend = none ∧
    loopMisshapen base 3 { first := 17, last := 16 } true 0 4 = true ∧
    getG (withG [0, 0xFFFFFFFF] base) 1 = 0 ∧ (getG (withG [0, 0xFFFFFFFF] base) 2).setWidth 32 ≠ (0 : BitVec 32) := by decide

/-- In segment 0 of a LOOPS of two stages, whose body is words 12 to 23. -/
def inPipe : State :=
  { base with strand := { base.strand with
    xstat := { base.strand.xstat with depth := 1, nest := 1, pipe := true, pid := 1, stg := 1, q := 3 }
    bounds := base.strand.bounds.set 1 { first := 12, last := 23 }
    lc := base.strand.lc.set 1 { j := 1, cnt := 4 } } }

theorem witness_loopStarts_stops : base.sys.spec = false ∧ (inSlot .xfer base).strand.pend ≠ none ∧
    loopActive (inLoop 0 4 base) 1 = true ∧ 1 ∈ activeLoops (inLoop 0 4 base).strand.xstat ∧
    ¬((getBounds (inLoop 0 4 base) 1).first ≤ 17 ∧ (17 : BitVec 32) ≤ (getBounds (inLoop 0 4 base) 1).last) ∧
    3 % 2 ≠ 0 ∧ inPipe.strand.xstat.pipe = true := by decide
theorem witness_loopStarts_segment : inactiveWord inPipe = false ∧ 1 ∈ activeLoops inPipe.strand.xstat ∧
    isPipe inPipe.strand.xstat 1 = true ∧ (getBounds inPipe 1).first ≤ inPipe.strand.pc + 1 ∧
    inPipe.strand.pc + 2 ≤ (getBounds inPipe 1).last ∧
    (let seg := max 1 (((getBounds inPipe 1).last.toNat + 1 - (getBounds inPipe 1).first.toNat) /
        (inPipe.strand.xstat.stg.toNat + 1))
     (inPipe.strand.pc.toNat - (getBounds inPipe 1).first.toNat) / seg ≠
       ((inPipe.strand.pc + 2).toNat - (getBounds inPipe 1).first.toNat) / seg) := by decide

/-- A count queue of n entries. -/
def withCq (n : Nat) (s : State) : State := { s with strand := { s.strand with cq := List.replicate n 9 } }

theorem witness_loopStarts_queue : cqPop (withCq 1 base) = some (9, withCq 0 base) := by decide

theorem witness_repeatStarts : let s := withText [0x5FF00000, 0x08100005] base
    decodeAt s (s.strand.pc + 1) = some (.ok (.addi 1 0 5)) ∧ repOk 63 0 0 0 (.addi 1 0 5) = true ∧ lastOfBody s = false ∧
    s.strand.pend = none := by decide
theorem witness_repeatStarts_illegal : let s := withText [0x50100000, 0x44000000] base
    decodeAt s (s.strand.pc + 1) = some (.ok (.br 0)) ∧ repOk 1 0 0 0 (.br 0) = false ∧ s.sys.spec = false := by decide

theorem witness_repeatStarts_last : let s := withText [0x50100000, 0x08100005] (inLoop 0 4 base)
    decodeAt s (s.strand.pc + 1) = some (.ok (.addi 1 0 5)) ∧ repOk 1 0 0 0 (.addi 1 0 5) = true ∧ lastOfBody s = true ∧
      s.strand.pend = none ∧ textAt base (base.strand.pc + 1) = none ∧ lastOfBody base = false := by decide

theorem witness_queueResults : (withCq 63 base).strand.cq.length < 64 ∧ (withCq 63 base).strand.xstat.cqo = false ∧
    (withCq 64 base).strand.cq.length = 64 ∧ (withCq 1 base).strand.cq = 9 :: [] ∧ base.strand.cq = [] ∧
    base.thatch.entries.any deliversCounts = false ∧
    (withEntry { entryOf 1 0x44 with record := task 1 0x44 ||| (1#256 <<< 192) } base).thatch.entries.any deliversCounts = true := by
  decide

/-- Addresses at the limits of R120. -/
theorem witness_addressChecks :
    (sp 0x800000).toNat / 2 ^ 23 % 2 ^ 40 ≠ 0 ∧ (sp 0x5FFFFC).toNat / 2 ^ 23 % 2 ^ 40 = 0 ∧
    (sp 0x5FFFFC).toNat % 2 ^ 23 % 8 ≠ 0 ∧ 0x600000 < (sp 0x600000).toNat % 2 ^ 23 + 8 ∧
    (sp 0x5FFFF8).toNat % 2 ^ 23 % 8 = 0 ∧ (sp 0x5FFFF8).toNat % 2 ^ 23 + 8 ≤ 0x600000 ∧ (sp 0).getLsbD 63 = true ∧
    (2 ^ 51) / 2 ^ 51 % 2 ^ 12 ≠ 0 ∧ 0xFFFFC % 8 ≠ 0 ∧ segFind (withMemory base) 0 0x100000 = none ∧
    (segFind (withMemory base) 0 0xFFFF8).isSome = true := by decide

theorem witness_accessTraps : check (sp 1) 2 0 base = .bad .align ∧ check (sp 0x600000) 8 1 base = .bad .seg ∧
    check 0x1000000 4 2 (withMemory base) = .bad .page ∧ check 0x2000000 8 2 (withMemory base) = .bad .wprot ∧
    check (sp 3) 4 2 base = .bad .align ∧ base.sys.spec = false :=
  ⟨bad_of (by decide), bad_of (by decide), bad_of (by decide), bad_of (by decide), bad_of (by decide), by decide⟩

/-- The leaf of segment 2 with other bits in its top byte; its table poisoned. -/
def withLeaf (b : Byte) (s : State) : State := { s with mem := { s.mem with mem := [(0x200008, 0x80), (0x308007, b)] } }
def withPoisonedTable (s : State) : State := { withMemory s with mem := { (withMemory s).mem with poison := [0x308000] } }

theorem witness_accessTraps_table : check 0x2000000 8 0 (withPoisonedTable base) = .bad .ue ∧ Cause.ue ≠ .brk ∧
    walkPoison (withPoisonedTable base) 0x2000000 = some 0x308000 ∧ pageParked base (sp 0x600000).toNat = false :=
  ⟨bad_of (by decide), by decide, by decide, by decide⟩

theorem witness_strandReads : heldAll base = [] ∧ meetsCopy base (sp 0x5FFFF8) 8 = false ∧
    check (sp 0x5FFFF8) 8 0 base = .spad 0x5FFFF8 := ⟨by decide, by decide, spad_of (by decide)⟩
theorem witness_strandReads_memory : let s := withMemory base
    heldAll s = [] ∧ meetsCopy s 8 8 = false ∧ (∃ u, check 8 8 0 s = .mem 0x200008 false false none u) ∧ pageParked s 8 = false ∧
      poisonedAt s (memKey 0 0x200008) = false ∧ poisonedAt (withPoison s) (memKey 0 0x200008) = true :=
  ⟨by decide, by decide, mem_of (by decide), by decide, by decide, by decide⟩

theorem witness_loadResults : base.strand.loads.length < 16 ∧ (∃ bs u, strandRead (sp 0) 8 0 base = .bytes bs u ∧ u.sys.spec = false) ∧
    ∃ bs u, strandRead 8 1 0 (withMemory base) = .bytes bs u ∧ u.sys.spec = false :=
  ⟨by decide, bytes_of (by decide), bytes_of (by decide)⟩

/-- A strand with one load outstanding. -/
def withLoad (l : Load) (s : State) : State := { s with strand := { s.strand with loads := [l] } }

theorem witness_loadCompletes : (withLoad aLoad base).strand.loads[0]? = some aLoad ∧ aLoad.ue = false ∧
    (withLoad { aLoad with ue := true } base).strand.loads[0]? = some { aLoad with ue := true } ∧ live base = true ∧
    base.grp.spec = none := by decide

theorem witness_storeResults : let s := withMemory base
    s.grp.issuing = [] ∧ s.mem.replay.length < 32 ∧ stc s < 64 ∧ s.sys.spec = false ∧ meetsCopy s 8 8 = false ∧
      (∃ u, check 8 8 1 s = .mem 0x200008 false false none u) ∧ pageParked s 8 = false ∧ check (sp 0x5FFFFF) 1 1 s = .spad 0x5FFFFF :=
  ⟨by decide, by decide, by decide, by decide, by decide, mem_of (by decide), by decide, spad_of (by decide)⟩
theorem witness_storeFrame : Canonical base ∧ traceOn base = false ∧ base.prof.busy = false ∧
    check (sp 0x5FFFF8) 8 1 base = .spad 0x5FFFF8 ∧ ∃ t, exec (.std 2 1 0) (withG [sp 0x5FFFF8] base) = .next t :=
  ⟨by unfold Canonical; decide, by decide, by decide, spad_of (by decide), ⟨_, rfl⟩⟩

/-- A strand with a store parked in page 0. -/
def withParked (s : State) : State :=
  { s with mem := { s.mem with replay := [{ id := 0, va := 16, size := 8, data := 1, reason := .page }], nextPark := 1 } }

theorem witness_storeParks : let s := withMemory base
    check 0x1000000 8 1 s = .bad .page ∧ pageParked s 0x1000000 = false ∧
      check 0x2000000 8 1 s = .bad .wprot ∧ pageParked s 0x2000000 = false ∧
      (∃ u, check 8 8 1 (withParked s) = .mem 0x200008 false false none u) ∧ pageParked (withParked s) 8 = true :=
  ⟨bad_of (by decide), by decide, bad_of (by decide), by decide, mem_of (by decide), by decide⟩

theorem witness_storeParks_leaf : let s := withMemory base
    (∃ u, check 0x2000000 8 1 (withLeaf 0xF0 s) = .mem 0x2000000 true false (some 0x308000) u) ∧
      (∃ u, check 0x2000000 8 1 (withLeaf 0xE8 s) = .mem 0x2000000 false true (some 0x308000) u) ∧
      pageParked (withLeaf 0xF0 s) 0x2000000 = false ∧
      check 0x1000000 8 1 { withParked s with mem := { (withParked s).mem with
        replay := [{ id := 0, va := 0x1000010, size := 8, data := 1, reason := .page }] } } = .bad .page :=
  ⟨mem_of (by decide), mem_of (by decide), by decide, bad_of (by decide)⟩

theorem witness_spillResults : base.sys.spec = false ∧ base.grp.issuing = [] ∧ (withSpec base).grp.hold.length < 64 ∧
    (heldAll (withSpec base)).length < 64 ∧
    64 ≤ (heldAll { base with grp := { base.grp with issuing := List.replicate 64 (.spl 0 1) } }).length ∧
    heldAll base = [] ∧ (base.strand.spill.map Prod.fst).Pairwise (· < ·) := by decide

/-- What the pages of a copy answered, as data that can be compared. -/
def pagesOf : CopyPages → Option Bool | .ok _ h _ => some h | _ => none
def failsAt : CopyPages → Option (Cause × Nat) | .bad c x _ => some (c, x) | _ => none
def pagesWait : CopyPages → Bool | .wait _ => true | _ => false

theorem pages_of {r : CopyPages} {h : Bool} (e : pagesOf r = some h) : ∃ ps u, r = .ok ps h u := by cases r <;> simp_all [pagesOf]
theorem failed_of {r : CopyPages} {c : Cause} {x : Nat} (e : failsAt r = some (c, x)) : ∃ u, r = .bad c x u := by
  cases r <;> simp_all [failsAt]
theorem waiting_of {r : CopyPages} (e : pagesWait r = true) : ∃ u, r = .wait u := by cases r <;> simp_all [pagesWait]

theorem witness_copyResults : let s := withG [sp 0x500000, 0, 0x100000] (withMemory base)
    cpc s < 16 ∧ getG s 3 ≠ 0 ∧ (getG s 3).toNat ≤ 0x100000 ∧ (getG s 3).toNat % 8 = 0 ∧
      (getG s 1).toNat / 2 ^ 23 % 2 ^ 40 = 0 ∧ (getG s 1).toNat % 2 ^ 23 + (getG s 3).toNat ≤ 0x600000 ∧
      ∃ ps u, copyPages 3 (pageStarts (getG s 2).toNat (getG s 3).toNat) s = .ok ps false u :=
  ⟨by decide, by decide, by decide, by decide, by decide, by decide, pages_of (by decide +kernel)⟩
theorem witness_copyResults_refused : (getG (withG [0x100008] base) 1).toNat = 0x100000 + 8 ∧ (sp 0).getLsbD 63 = true ∧
    (8 : Word).getLsbD 63 = false ∧ (sp 4).toNat % 8 ≠ 0 ∧ (12 : Word).toNat % 8 ≠ 0 ∧ (sp 0x800000).toNat / 2 ^ 23 % 2 ^ 40 ≠ 0 ∧
    0x600000 ≤ (sp 0x600000).toNat % 2 ^ 23 ∧ (sp 0x5FFFF8).toNat % 2 ^ 23 < 0x600000 ∧
    0x600000 < (sp 0x5FFFF8).toNat % 2 ^ 23 + 16 := by decide
theorem witness_copyResults_pages : let s := withMemory base
    (∃ u, copyPages 3 (pageStarts 0xFFFF8 16) s = .bad .seg 0x100000 u) ∧ Cause.seg ≠ .brk ∧
      (∃ ps u, copyPages 4 (pageStarts 0x2000000 8) (withLeaf 0xE8 s) = .ok ps true u) ∧
      ∃ u, copyPages 3 (pageStarts 0x2000000 8) (handing 1 s) = .wait u :=
  ⟨failed_of (by decide), by decide, pages_of (by decide), waiting_of (by decide)⟩
theorem witness_copyResults_retire : let c : Copy := { toSpad := true, off := 0, va := 0, len := 8, pages := [(0, 0x200000)], asid := 0 }
    { base with strand := { base.strand with copies := [c, { c with toSpad := false }] } }.strand.copies[1]? =
      some { c with toSpad := false } := by decide

theorem witness_atomicResults : let s := withMemory base
    check (sp 4) 4 2 s = .spad 4 ∧ (∃ u, check 8 8 2 s = .mem 0x200008 false false none u) ∧ meetsCopy s 8 8 = false ∧
      pageParked s 8 = false ∧ poisonedAt s (memKey s.sys.nodeid.toNat 0x200008) = false :=
  ⟨spad_of (by decide), mem_of (by decide), by decide, by decide, by decide⟩

theorem witness_fenceResults : base.strand.loads = [] ∧ stc base = 0 ∧ base.thatch.entries.any fabricWrites = false ∧
    base.mem.replay = [] ∧ (∀ p ∈ base.fab.pips, p.2.state ≠ .inflight) ∧ (withLoad aLoad base).strand.loads ≠ [] ∧
    stc (withParked base) ≠ 0 ∧ (withEntry (entryOf 4 1) base).thatch.entries.any fabricWrites = true ∧
    (withParked base).mem.replay ≠ [] ∧
    ¬∀ p ∈ { base with fab := { base.fab with pips := [(1, { state := .inflight })] } }.fab.pips, p.2.state ≠ .inflight := by
  decide
theorem witness_fenceResults_waitc : tkc base ≤ 0 ∧ ldc base ≤ 0 ∧ stc base ≤ 0 ∧ cpc base ≤ 0 ∧
    ¬(tkc (withEntry (entryOf 0 4) base) ≤ 0) := by decide

theorem witness_semaphoreResults : base.grp.issuing = [] ∧
    { base with grp := { base.grp with issuing := [.spl 0 1] } }.grp.issuing ≠ [] ∧
    ((0 : BitVec 32).toInt ≤ (getSem base 2047).toInt) ∧ (getSem base 0).toInt < (1 : BitVec 32).toInt := by decide

/-- M.MZ of bank 0, through the box register b62. -/
def mz : Rec := BitVec.ofNat 256 (0x04 + 2 ^ 20 * 62 + 2 ^ 44)

/-- A window with every place of this strand taken. -/
def full : State := { base with thatch := { base.thatch with entries := List.replicate 56 (entryOf 0 4) } }

def accepts (r : Rec) (s : State) (waits : Bool) : Bool :=
  match checkRecord r s with | .ok b => postWaits s r b == waits | .error _ => false
theorem accepted_of {r : Rec} {s : State} {w : Bool} (h : accepts r s w = true) :
    ∃ b, checkRecord r s = .ok b ∧ postWaits s r b = w := by
  unfold accepts at h; split at h <;> simp_all

theorem witness_postResults : (∃ b, checkRecord mz base = .ok b ∧ postWaits base mz b = false) ∧
    (∃ b, checkRecord mz full = .ok b ∧ postWaits full mz b = true) ∧
    checkRecord 0 base = .error .taskbad ∧ postLeavesBody base = false :=
  ⟨accepted_of (by decide), accepted_of (by decide), by decide, by decide⟩
theorem witness_postResults_image : (getG (withG [sp 64] base) 1).getLsbD 63 = true ∧
    ∃ bs u, strandRead (getG (withG [sp 64] base) 1) 32 0 (withG [sp 64] base) = .bytes bs u ∧ u.sys.spec = false :=
  ⟨by decide, bytes_of (by decide)⟩

/-- F.POST to core 0 of this node of the image at the start of the scratchpad. -/
def fpost : Rec := BitVec.ofNat 256 (0x05 + 2 ^ 8 * 4)
theorem witness_postResults_meets :
    let s := { base with strand := { base.strand with copies := [{ toSpad := true, off := 0, va := 0, len := 8, pages := [], asid := 0 }] } }
    imageMeets s fpost = true ∧ fieldsBad fpost = false ∧ (taskPriv fpost && !s.sys.pl) = false ∧ imageMeets base fpost = false := by
  decide
theorem witness_postResults_leaves : postLeavesBody (inLoop 0 4 base) = true := by decide

theorem witness_enteredRecord : let s := withEntry (entryOf 0 4) base
    s.thatch.dir = [] ∧ ∀ x ∈ s.thatch.entries, readEdges s (trackedW (entryOf 0 4)) x = [] := by decide

/-- Husk 1023: LOCAL, one dimension of 8 FP32 elements at offset 0. -/
def aHusk : Husk := { d0 := 0x8000 }
def withHusk (n : Nat) (h : Husk) (s : State) : State := { s with store := { s.store with husks := [(n, h)] } }
def withBox (x : Bx) (b : BoxReg) (s : State) : State := { s with store := { s.store with boxes := s.store.boxes.set x b } }

theorem witness_boxResults : hkV (getHusk (withHusk 1023 aHusk base) 1023) = true ∧ hkV (getHusk base 0) = false ∧
    (getBox base 0).bv = false ∧ bregRank base (getBox base 62) = some 3 ∧ (getBox base 62).bv = true ∧
    (0xFFFF : BitVec 64).toNat ≤ 65535 ∧ 65535 < (0x10000 : BitVec 64).toNat ∧ (0xFFFFFFFFFFFF8000 : BitVec 64).toInt = -32768 ∧
    (0x7FFF : BitVec 64).toInt ≤ 32767 := by decide

theorem witness_huskResults : let s := withHusk 1023 aHusk base
    namesHusk s 1023 = false ∧ meetsCopy s (sp 64) 64 = false ∧ check (sp 64) 64 0 s = .spad 64 ∧ check (sp 64) 64 1 s = .spad 64 ∧
      hkBnd (getHusk s 1023) = false ∧ dirtyBytes s 1023 = [] ∧ namesTab s 15 = false ∧ check (sp 128) 128 0 s = .spad 128 :=
  ⟨by decide, by decide, spad_of (by decide), spad_of (by decide), by decide, by decide, by decide, spad_of (by decide)⟩

/-- A record of the window names husk 1023 in its W. -/
def namesLast : State := { withHusk 1023 aHusk base with
  thatch := { base.thatch with entries := [{ entryOf 3 4 with boxes := { w := some { hid := 1023 } } }] } }

theorem witness_huskResults_refused : (1023 : Nat) < 1024 ∧ (0x10 : Word).getLsbD 63 = false ∧
    check (sp 0x600000) 64 0 base = .bad .seg ∧ check (sp 8) 64 1 base = .bad .align ∧
    namesHusk namesLast 1023 = true ∧ namesTab base 15 = false ∧ check (sp 0x5FFFC0) 64 0 base = .spad 0x5FFFC0 ∧
    hkBnd (getHusk (withHusk 1023 { d0 := 0xC080 } base) 1023) = true ∧
    huskBad base (huskOf (bytesAt base.store.spad 0 64)) = true ∧
    tabValid ((List.range 16).map (fun i => BitVec.ofNat 64 (readLe base.store.spad (8 * i) 8))) = false :=
  ⟨by decide, by decide, bad_of (by decide), bad_of (by decide), by decide, by decide, spad_of (by decide), by decide, by decide,
    by decide⟩

/-- What the object at an address is checked to, and the state then. -/
def objectState (a : Word) : State := match check a 8 2 (withMemory base) with | .mem _ _ _ _ u => u | _ => base

theorem mem_state {k : Chk} {pa : Nat} (h : memOf k = some (pa, false, false, none)) :
    k = .mem pa false false none (match k with | .mem _ _ _ _ u => u | _ => base) := by
  cases k <;> (simp [memOf] at h ⊢; try exact h)

theorem witness_entryConsistencyResults : let s := withMemory base; let u := objectState 0x10
    check 0x10 8 2 s = .mem 0x200010 false false none u ∧ meetsCopy s 0x10 8 = false ∧ pageParked s 0x10 = false ∧
      poisonedAt s (memKey s.sys.nodeid.toNat 0x200010) = false ∧ boundTo u 0x10 = [] ∧ objectWord u 0x200010 = 0 ∧
      u.strand.loads = [] ∧ boundTo (setObject 0x200010 none (ownerWord u) u) 0x10 = [] ∧
      (setObject 0x200010 none (ownerWord u) u).strand.loads = [] ∧ u.mem.replay = [] ∧ releaseReady .fabric u = true :=
  ⟨mem_state (by decide), by decide, by decide, by decide, by decide, by decide, by decide, by decide, by decide, by decide,
    by decide⟩
theorem witness_entryConsistencyResults_owned : let u := objectState 8
    check 8 8 2 (withMemory base) = .mem 0x200008 false false none u ∧ objectWord u 0x200008 ≠ 0 ∧
      objectWord u 0x200008 ≠ ownerWord u ∧
      objectWord (setObject 0x200010 none (ownerWord u) u) 0x200010 = ownerWord (setObject 0x200010 none (ownerWord u) u) :=
  ⟨mem_state (by decide), by decide, by decide, by decide⟩
theorem witness_entryConsistencyResults_poisoned : let s := withPoison (withMemory base)
    check 0x10 8 2 s = .mem 0x200010 false false none (match check 0x10 8 2 s with | .mem _ _ _ _ u => u | _ => base) ∧
      poisonedAt s (memKey s.sys.nodeid.toNat 0x200010) = true ∧ s.grp.issuing = [] ∧ s.sys.spec = false :=
  ⟨mem_state (by decide), by decide, by decide, by decide⟩
theorem witness_entryConsistencyResults_bind :
    let s := withHusk 1023 { d0 := 0xA080 } base
    let b := withHusk 1023 { d0 := 0xE080, d7 := 0x10 } base
    bindable s 1023 = true ∧ namesHusk s 1023 = false ∧ dirtyBytes s 1023 = [] ∧ hkBnd (getHusk s 1023) = false ∧
      s.store.bindings.length < 64 ∧ hkBnd (getHusk b 1023) = true ∧ hkObj (getHusk b 1023) = objKey 0x10 ∧
      bindable b 1023 = true := by decide

/-- Tasks of an engine whose TOPs follow one another. -/
def tasksFrom (eng top : Nat) (l : List Task) : List (Nat × Nat × Task) := l.zipIdx.map (fun x => (eng, top + x.2, x.1))

/-- The tasks, by engine and TOP (R69). -/
def tasks : List (Nat × Nat × Task) :=
  tasksFrom 0 1 [.mm, .mmq, .mmg, .mz, .mst] ++ tasksFrom 2 1 [.xpose, .xperm, .xrev] ++
  tasksFrom 1 0x01 [.vadd, .vsub, .vmul, .vfma, .vdiv, .vsqrt, .vrcp, .vrsq, .vexp2, .vlog2, .vmin, .vmax, .vabs, .vneg,
    .vcvt, .vqnt, .vdq, .vscl] ++
  tasksFrom 1 0x20 [.vand, .vor, .vxor, .vnot, .vshl, .vshr, .vsra, .vclm, .vpopc, .vclz] ++
  tasksFrom 1 0x30 [.vcmp, .vsel] ++ tasksFrom 1 0x38 [.vred, .vscan, .vany, .vall, .vcnt] ++
  tasksFrom 1 0x40 [.viota, .vcomp, .vgth, .vsct, .vhist, .vbcst] ++
  tasksFrom 3 0x01 [.cpy, .cpyf, .cmpb, .fill, .adv, .drn, .drna, .accl, .selk, .cpypg, .ckpt] ++
  tasksFrom 4 0x01 [.wr, .wrp, .rd, .amo, .post, .sem, .rte, .fred, .halo]

/-- A record of each task runs in a window that holds it alone. -/
theorem witness_runs : tasks.length = 69 ∧ ∀ x ∈ tasks, Runs x.2.2 0 (entryOf x.1 x.2.1) (withEntry (entryOf x.1 x.2.1) base) := by
  unfold Runs; decide +kernel

/-- A record with boxes, running in a window that holds it alone. -/
def boxed (e : Entry) (w a b c : Option RBox) : Entry := { e with boxes := { w := w, a := a, b := b, c := c } }

/-- Husk 1023: LOCAL, 8 FP32 elements at offset 0; husk 1: the same at offset 64, of S32 elements; husk 2: a window of 8 rows, of
which 4 are held. -/
def huskA : Husk := { d0 := 0x8000, d1 := 8, d2 := 4 }
def huskB : Husk := { d0 := 0x8008, d1 := 8, d2 := 4, d4 := 64 }
def huskW : Husk := { d0 := 0x80C0, d1 := 8, d2 := 4, d6 := 4 * 2 ^ 32 }
def withHusks (s : State) : State := { s with store := { s.store with husks := [(1, huskB), (2, huskW), (1023, huskA)] } }
def boxA1 : RBox := { hid := 1023, e := { x0 := 8 } }
def boxB1 : RBox := { hid := 1, e := { x0 := 8 } }
def boxW1 : RBox := { hid := 2, e := { x0 := 8 } }

/-- All quadrants fenced. -/
def gone (s : State) : State := { s with store := { s.store with fenced := 15 } }

theorem witness_matrixTransposeTasks : quadReduced base = false ∧ arrayGone base = false ∧
    quadReduced { base with thatch := { base.thatch with partnersReduced := true } } = true ∧ arrayGone (gone base) = true ∧
    winHeld (withHusks base) boxA1 = true ∧ (winHeld (withHusks base) boxW1 && winHeld (withHusks base) boxA1) = false ∧
    offsetsBad [0, 3, 8] 8 = false ∧ offsetsBad [0, 3, 7] 8 = true := by decide
theorem witness_matrixTransposeTasks_runs : let e := boxed (entryOf 0 1) (some {}) (some boxA1) (some boxA1) none
    Runs .mm 0 e (withHusks (withEntry e base)) ∧ Runs .mm 0 e (gone (withEntry e base)) := by unfold Runs; decide +kernel
/-- A part of an M.MMQ that core 1 leads, and a partner's M.MMQ that the stall wire stops. -/
def aPart : Part := { lead := 1, pri := false, rst := false, w := {}, huskA := {}, huskB := {}, rows := [], cols := [] }
def wired (s : State) : State := { s with thatch := { s.thatch with wire := 1 } }
theorem witness_matrixTransposeTasks_part : let e : Entry := { entryOf 0 2 with quarter := some aPart }
    Runs .mmq 0 e (withEntry e base) ∧ Runs .mmq 0 (entryOf 0 2) (withEntry (entryOf 0 2) base) ∧ e.quarter = some aPart := by
  unfold Runs; decide +kernel
theorem witness_matrixTransposeTasks_wire : let s := wired (withEntry (entryOf 0 2) base)
    findEntry s 0 = some (entryOf 0 2) ∧ recTask (entryOf 0 2).record = some .mmq ∧ (entryOf 0 2).fold = false ∧
      (entryOf 0 2).state = .running ∧ s.pkg.shut = false ∧ wireHeld s = true ∧
      { s.pkg with shut := true }.shut = true := by decide
theorem witness_matrixTransposeTasks_element : let el : Acc := { kc := 8191 }
    el.po = false ∧ 8191 < el.kc.toNat + 1 ∧ el.kc.toNat + 0 ≤ 8191 ∧ { el with po := true }.po = true ∧
      Scale.at_ 0 [] ≠ .poison ∧ Scale.none ≠ .poison := by decide
theorem witness_matrixTransposeTasks_row : let cols := List.replicate 8 (Scale.none, (0 : BitVec 6))
    cols.length = boxE (withHusks base) boxA1 0 ∧ cols[7]? = some (Scale.none, 0) ∧ 7 < boxE (withHusks base) boxA1 0 := by decide

theorem witness_vectorTasks : let e := boxed (entryOf 1 0x3A) none (some boxA1) none none
    let w := boxed (entryOf 1 0x3A) none (some boxW1) none none
    Runs .vany 0 e (withHusks (withEntry e base)) ∧ readsHeld (withHusks base) e = true ∧ readsHeld (withHusks base) w = false := by
  unfold Runs; decide +kernel

theorem witness_copyFabricTasks_fold : let e : Entry := { entryOf 1 1 with fold := true }
    findEntry (withEntry e base) 0 = some e ∧ e.fold = true ∧ e.state = .running ∧ e.work = none ∧ e.altered = none ∧
      base.pkg.shut = false ∧
      e.boxes.w = none ∧ (boxed e (some boxA1) none none none).boxes.w = some boxA1 := by decide
theorem witness_copyFabricTasks_adv : hkRows huskW < 9 ∧ 8 ≤ hkRows huskW := by decide
/-- A drain of bank 0 into husk 1023 that checks the residues, and one element whose residues differ. -/
def checking : State := { withHusks base with store := { (withHusks base).store with
  husks := [(1023, { huskA with d0 := 0x9000 })], acc := [(accKey base { acc := true, hid := 0, e := { x0 := 8, x1 := 1, x2 := 1 } } 0, { rk := 1, empty := false })] } }
theorem witness_copyFabricTasks_drn : let a : RBox := { acc := true, hid := 0, e := { x0 := 8, x1 := 1, x2 := 1 } }
    (unitPlan 0 (unitCount (boxBytes checking boxA1)) (fun u => [fun s => [unitTouch s boxA1 u true]])
      (fun s u => elemPortion s (boxed (entryOf 3 6) (some boxA1) (some a) none none) (fun _ _ _ => (0, 0)) (unitElems s boxA1 u))
      (fun _ => none) checking).2.units.length = 1 ∧
    (hkRce (boxHusk checking boxA1) && accMismatch (accElem checking a 0)) = true ∧
    hkRce (boxHusk (withHusks base) boxA1) = false := by decide +kernel
theorem witness_copyFabricTasks_routes : routeRefused base 0 = false ∧ routeRefused base 4095 = true ∧
    neighbour base 0 false = some 1 ∧ (some (mz, ({} : Boxes))).isSome = true ∧ 0 < ({ base.sys with gepoch := 1 }.gepoch).toNat ∧
    base.sys.gepoch.toNat ≤ 0 ∧ axisLen { base with fab := { base.fab with podcfg := 0 } } 3 ≤ 1 ∧ (0 : Nat) + 1 < axisLen base 0 := by
  decide
/-- F.RD of husk 1023 at its home on node 1. -/
theorem witness_copyFabricTasks_rd : let e := boxed (entryOf 4 3) (some boxA1) (some boxA1) none none
    let s := withHusks (withEntry e base)
    Runs .rd 0 e s ∧ e.index = 0 ∧ (readPackets s { e with index := 8 }).length ≤ 8 := by unfold Runs; decide +kernel
theorem witness_copyFabricTasks_red : let e := boxed (entryOf 4 8) (some boxA1) (some boxA1) none none
    Runs .fred 0 e (withHusks (withEntry e base)) ∧ routeRefused (withHusks base) 1 = false ∧
      ∃ p t, sendPortions (withHusks base) e (1, 0) [(.halo boxA1 32 0 0 [0] true none, 1)] = p :: t :=
  ⟨by unfold Runs; decide +kernel, by decide, _, _, rfl⟩
/-- Byte 0 of the first box is 1, and the first element of the second. -/
def differing : State := { withHusks base with store := { (withHusks base).store with spad := [(0, 1), (64, 1)] } }
theorem witness_copyFabricTasks_compare :
    (∀ j, j < 32 → streamByte (withHusks base) boxA1 j = streamByte (withHusks base) boxB1 j) ∧
    streamByte differing boxA1 0 ≠ streamByte differing { boxA1 with o := { x0 := 2 }, e := { x0 := 6 } } 0 := by decide +kernel
theorem witness_copyFabricTasks_rte : let e := boxed (entryOf 4 7) (some boxA1) (some { boxA1 with o := { x0 := 1 } }) (some boxB1) (some boxA1)
    let st : Rte := { used := [0], ex := [none] }; let s := differing
    st.ex.getD 0 none = none ∧ intOf (boxFmt s (boxA e)) (readElem s (boxA e) 0) = 0 ∧ 0 < boxE s (boxB e) 0 ∧
      readElem s (boxC e) 0 ≤ 4095 ∧ ((st.used.getD 0 0 : Nat) : Int) < intOf (boxFmt s (boxB e)) (readElem s (boxB e) 0) := by
  decide +kernel

/-- C.CPYPG of the page at 0x2000000, from its last line on, or from its first. -/
def cpypg (index : Nat) : Entry :=
  { entryOf 3 0x0A with record := BitVec.ofNat 256 (0x0A + 2 ^ 8 * 3 + 2 ^ 128 * 0x2000000 + 2 ^ 192 * 0x600000), index := index }
/-- The same with MOD = 1, which moves the page. -/
def moving (index : Nat) : Entry :=
  { entryOf 3 0x0A with record := BitVec.ofNat 256 (0x0A + 2 ^ 8 * 3 + 2 ^ 16 + 2 ^ 128 * 0x2000000 + 2 ^ 192 * 0x600000), index := index }
/-- The table of segment 2 with other bytes in its leaf. -/
def leafBytes (l : List Host.Cell) (s : State) : State := { s with mem := { s.mem with mem := (0x200008, 0x80) :: l } }

def isLeaf : Walk → Bool | .leaf _ => true | _ => false
theorem leaf_of {w : Walk} (h : isLeaf w = true) : ∃ l, w = .leaf l := by cases w <;> simp_all [isLeaf]
def badWalk : Walk → Option Cause | .bad c _ => some c | _ => none
theorem badWalk_of {w : Walk} {c : Cause} (h : badWalk w = some c) : ∃ l, w = .bad c l := by cases w <;> simp_all [badWalk]
/-- The page at 0x2000000 stands in stack 1, below a second table in stack 0. -/
def inStack1 : State → State := leafBytes [(0x308002, 0x31), (0x308007, 0x80), (0x310004, 0x10), (0x310007, 0xC0)]
def leafAt (s : State) : Leaf := (pageLeaf s 0x2000000).getD { at_ := 0, pte := 0, size := 1, base := 0 }

theorem witness_pageTasks : let s := withMemory (withEntry (cpypg 511) base)
    Runs .cpypg 0 (cpypg 511) s ∧
      (pageEnds 0 s (doUnits 1 (cpypgPlan (cpypg 511) s).2 (cpypg 511) (cpypgPlan (cpypg 511) s).1)).isSome = true := by
  unfold Runs; decide +kernel
theorem witness_pageTasks_goes_on : let s := withMemory (withEntry (cpypg 510) base)
    Runs .cpypg 0 (cpypg 510) s ∧
      pageEnds 0 s (doUnits 1 (cpypgPlan (cpypg 510) s).2 (cpypg 510) (cpypgPlan (cpypg 510) s).1) = none := by
  unfold Runs; decide +kernel
theorem witness_pageTasks_walks : let s := withMemory base
    (∃ l, pageWalk s 0x1000000 = .bad .page l) ∧ (∃ l, pageWalk s 0x2000000 = .leaf l) ∧ pageLeaf s 0x2000000 = some (leafAt s) :=
  ⟨badWalk_of (by decide), leaf_of (by decide), by decide⟩
theorem witness_pageTasks_handing : let s := withMemory base
    (handing 1 s).pkg.ridging ≠ 0 ∧ tablesRidge (handing 1 s) 0x2000000 = true ∧ tablesRidge (handing 2 s) 0x2000000 = false ∧
      ridgingAt (handing 2 (inStack1 s)) (leafAt (inStack1 s)).base = true ∧ tablesRidge (handing 2 (inStack1 s)) 0x2000000 = false ∧
      ridgingAt (handing 2 s) (leafAt (handing 2 s)).base = false ∧ ridgingAt (handing 4 s) (2 ^ 37) = true ∧
      ridgingAt (handing 4 s) 0x600000 = false := by decide +kernel
theorem witness_pageTasks_waits : let s := withMemory base
    migrating s 0 (leafAt s) = false ∧ pteSw (leafAt s).pte = false ∧ pteSw (leafAt (leafBytes [(0x308007, 0xC8)] s)).pte = true ∧
      recMod (moving 0).record % 2 = 1 ∧ ¬recMod (cpypg 0).record % 2 = 1 ∧ memoryPending (copying s) = true ∧
      migrating (withEntry { moving 1 with slot := 1 } s) 0 (leafAt s) = true := by decide +kernel
theorem witness_pageTasks_frames : let s := withMemory base
    let src (s : State) : Nat := (leafAt s).base + 0x2000000 % (leafAt s).size
    let away := { s with pkg := { s.pkg with ddl := 15, own := 1 } }
    2 ^ 39 ≤ src (leafBytes [(0x308005, 0x01), (0x308007, 0xC0)] s) ∧ src s < 2 ^ 39 ∧ reachesHome s (src s) = true ∧
      src away < 2 ^ 39 ∧ reachesHome away (src away) = false ∧ poisonedLines s (src s) 0 = [] ∧
      poisonedLines { s with mem := { s.mem with poison := [0x2000040] } } (src s) 0 ≠ [] ∧ frameBad s 0x600000 = false ∧
      frameBad s (2 ^ 39) = true := by decide +kernel

/-- A sweep of record 1 with pages left. -/
def aSweep (ps : List SweepPage) : Sweep := { asid := 0, seq := 1, pages := ps, raised := [], copied := 0, poisoned := 0 }
def withSweep (w : Sweep) (s : State) : State := { s with mem := { s.mem with sweeps := [w] } }
def aPage : SweepPage := { leaf := 0x308000, va := 0x2000000, src := 0, dst := 0 }

theorem witness_pageTasks_sweep : let e := entryOf 3 0x0B; let s := withEntry e base
    findSweep s e.seq = none ∧ memoryPending s = false ∧ memoryPending (copying s) = true ∧
      sweepPages s e.record (fun v => pteD v || pteSw v) = [] ∧
      sweepRidges s e.record = false ∧ e.restored = false ∧ { e with restored := true }.restored = true ∧
      findSweep (withSweep (aSweep []) s) e.seq = some (aSweep []) ∧
      findSweep (withSweep (aSweep [aPage]) s) e.seq = some (aSweep [aPage]) ∧
      Runs .ckpt 0 e (withSweep (aSweep [aPage]) s) := by unfold Runs; decide +kernel
/-- C.CKPT of segment 2 only, to segment 0. -/
def ckpt : Entry := { entryOf 3 0x0B with record := BitVec.ofNat 256 (0x0B + 2 ^ 8 * 3 + 2 ^ 128 * 4) }
theorem witness_pageTasks_cause : let s := withPoisonedTable (withEntry ckpt base)
    sweepCause s ckpt.record = some (.ue, 0x2000000) ∧ sweepCause (withMemory (withEntry ckpt base)) ckpt.record = none ∧
      sweepRidges (handing 1 (withMemory base)) ckpt.record = true ∧
      { base.mem with homeHeld := [.req aRequest] }.homeHeld[0]? = some (.req aRequest) ∧ aRequest.op = .write (leBytes 8 7) ∧
      { base.mem with homeHeld := [.pkt { aPacket with body := .write [] }] }.homeHeld[0]? =
        some (.pkt { aPacket with body := .write [] }) := by decide +kernel
theorem witness_pageTasks_sweep_pages : let s := leafBytes [(0x308007, 0xC4)] (withMemory (withEntry ckpt base))
    sweepPages s ckpt.record (fun v => pteD v || pteSw v) ≠ [] ∧ Runs .ckpt 0 ckpt s := by unfold Runs; decide +kernel

theorem witness_taskProgress : let e := entryOf 0 4; let w : Work := { units := [{ step := 1 }, { step := 1 }] }
    findEntry (withEntry e base) e.slot = some e ∧ 1 < w.units.length ∧ recRst e.record = false ∧
      packetsOf ((w.units.take 1).flatMap Portion.effects) = [] ∧ recRst (recForceRst e.record) = true := by decide

theorem witness_engineEvents : let e : Entry := { entryOf 4 1 with state := .draining }
    findEntry (withEntry e base) 0 = some e ∧ acknowledged e = true ∧ pipOpen base e = false ∧ sweeping base e = false ∧
      entryEng e = .f ∧ acknowledged { e with acks := 1 } = false ∧ movedPageWaits base e = false ∧
      movedPageWaits (copying base) { moving 511 with state := .draining, scalar := some 0 } = true ∧
      testReady { base with store := { base.store with testDue := true } } = true := by decide
/-- An entry that signals semaphore 7, and one whose pip is in flight. -/
theorem witness_engineEvents_retires : let e : Entry := { entryOf 4 1 with state := .draining, pip := some 3 }
    let g : Entry := { entryOf 0 4 with record := task 0 4 ||| (1#256 <<< 83) }
    let s := { withEntry e base with fab := { base.fab with pips := [(3, { state := .inflight })] } }
    acknowledged e = true ∧ pipOpen s e = true ∧ (getPip s 3).state = .inflight ∧ entryEng e = .f ∧ e.quarter = none ∧
      countsTkc e = true ∧ recSigv g.record = true ∧ g.fold = false ∧ recSigv e.record = false ∧ movedPageWaits s e = false ∧
      testReady base = false ∧ busyAnswered base e = false := by decide
theorem witness_engineEvents_busy : let e : Entry := { entryOf 4 5 with acks := 1, busy := 1, image := some (mz, {}) }
    busyAnswered base e = true ∧ e.image = some (mz, {}) ∧ e.retryAt.toNat ≤ base.pkg.time.toNat ∧
      base.pkg.time.toNat < ({ e with retryAt := 1 }.retryAt).toNat ∧ routeRefused base (postDst e.record).1 = false ∧
      routeRefused base (postDst (fpost ||| (4095#256 <<< 192))).1 = true := by decide

/-- C.CKPT of segment 2 to a segment of node 1, which is segment 0. -/
def away (s : State) : State := { s with mem := { s.mem with
  segs := [(0, [(0, { d0 := 7, d1 := 0x100000, d2 := 2 ^ 63 + 2 ^ 48 })])] } }
def isLines : Except Fail (List (Nat × Nat × Option Nat) × State) → Nat
  | .ok _ => 0 | .error (.cause _ _) => 1 | .error (.wait _) => 2

theorem witness_engineEvents_sweep : let s := withMemory (withSweep (aSweep [aPage]) (withEntry ckpt base))
    Runs .ckpt 0 ckpt s ∧ findSweep s ckpt.seq = some (aSweep [aPage]) ∧ pageInProgress (aSweep [aPage]) = some aPage ∧
      s.pkg.ridging = 0 ∧ tablesRidge (handing 1 s) aPage.va = true ∧ ridgingAt s (leafAt s).base = false ∧
      ridgingAt (handing 2 (inStack1 s)) (leafAt (inStack1 s)).base = true ∧ tablesRidge (handing 2 (inStack1 s)) 0x2000000 = false ∧ isLeaf (pageWalk s aPage.va) = true ∧ badWalk (pageWalk base aPage.va) = some .page ∧
      migrating s 0 (leafAt s) = false ∧ segRn (ckptTarget s ckpt.record) = false ∧
      isLines (targetLines 0 (List.range 512) s) = 0 ∧ isLines (targetLines 0x1000000 (List.range 512) s) = 1 ∧
      isLines (targetLines 0x2000000 (List.range 512) (leafBytes [(0x308007, 0xF0)] s)) = 2 := by unfold Runs; decide +kernel
theorem witness_engineEvents_remote : let s := away base
    segRn (ckptTarget s ckpt.record) = true ∧ routeRefused s (segNode (ckptTarget s ckpt.record)) = false ∧ ckpt.acks = 0 ∧
      ({ aSweep [aPage] with sent := some aPage.va }).sent = some aPage.va ∧ (aSweep [aPage]).sent ≠ some aPage.va ∧
      pageInProgress { aSweep [aPage] with sent := some aPage.va } = some aPage ∧
      routeRefused { s with fab := { s.fab with podcfg := 0 } } 1 = true := by decide +kernel
theorem witness_engineEvents_left : let w := aSweep [aPage, { aPage with va := 0x2008000 }]
    findEntry (withEntry ckpt base) 0 = some ckpt ∧ w.asid = base.sys.asid ∧ w.pages.filter (fun q => q.va != aPage.va) ≠ [] := by decide
/-! The strand's system instructions. -/

/-- A rename buffer is live. -/
def pooled : State := { base with thatch := { base.thatch with
  dir := [{ home := {}, off := 0x500000, bytes := 4096, recSlot := 0, foldSlot := 1, isOpen := true }] } }

/-- Husk 0: LOCAL, 8 FP32 elements at scratchpad offset 0x5FF000. -/
def highHusk : Husk := { d0 := 0x8000, d1 := 8, d2 := 4, d4 := 0x5FF000 }

theorem witness_specialRegisters : readSys base 0x0F = none ∧ readSys base 0xFF = none ∧ (readSys base 0x33).isSome = true ∧
    mtsWaits 0x12 base = false ∧ mtsWaits 0x14 base = false ∧ sysUser 0x16 = true ∧ sysReadOnly 0x33 = true ∧
    poolUsed base = [] ∧ poolUsed pooled ≠ [] ∧ 512 < ((0x201 : Word).extractLsb' 0 10).toNat ∧
    huskMeets base (0x600000 - 512 * 4096 : Nat) (0x600000 : Nat) = false ∧
    tkc base = 0 ∧ ldc base = 0 ∧ stc base = 0 ∧ cpc base = 0 ∧ base.mem.replay = [] ∧ (withPl base).sys.pl = true ∧
    min 16 16 ≤ (withRas 16 base).strand.ras.length ∧ base.strand.ras.length < min 1 16 ∧
    (withRas 1 base).strand.rasi.toNat < (withRas 1 base).strand.ras.length ∧ base.strand.ras.length ≤ base.strand.rasi.toNat ∧
    (0x7FFFFFFFFFFFFFFF : Word).getLsbD 63 = false ∧ meetsPool base (0 : Nat) (0 + 256 * 64 : Nat) = false := by decide
theorem witness_specialRegisters_pool :
    huskMeets (withHusk 0 highHusk base) (0x600000 - 4096 : Nat) (0x600000 : Nat) = true := by decide

theorem witness_trapTaken : base.sys.th = false ∧ Cause.seg ≠ .brk ∧ base.sys.tcut.getLsbD 63 = false := by decide
/-- TCUT.EN is set; and a record runs then. -/
def cutting : State := { base with sys := { base.sys with tcut := 0x8000000000000000 } }
theorem witness_trapTaken_cut : let s := withEntry (entryOf 0 4) cutting
    cutting.sys.th = false ∧ cutting.sys.tcut.getLsbD 63 = true ∧ engineRuns cutting = false ∧ cutting.strand.loads = [] ∧
      cutting.strand.copies = [] ∧ engineRuns s = true ∧ (withLoad aLoad cutting).strand.loads ≠ [] ∧
      (copying cutting).strand.copies ≠ [] ∧
      ∃ v : State, v.thatch.trapDue = (trapEntry { cause := .seg } false none s).thatch.trapDue ∧ v.sys.th = false ∧
        engineRuns v = false ∧ v.strand.loads = [] ∧ v.strand.copies = [] :=
  ⟨by decide, by decide, by decide, by decide, by decide, by decide, by decide, by decide,
    { base with thatch := { base.thatch with trapDue := (trapEntry { cause := .seg } false none
      (withEntry (entryOf 0 4) cutting)).thatch.trapDue } }, rfl, by decide, by decide, by decide, by decide⟩
theorem witness_doubleTrap : { base with sys := { base.sys with th := true } }.sys.th = true := rfl

theorem witness_trapsAndReturn : base.sys.spec = false ∧ (withPl base).sys.pl = true ∧ base.prof.busy = false ∧
    base.sys.exstat.depth = 0 ∧ base.mem.replay = [] ∧ base.thatch.async = [] ∧ base.strand.cbrSaved = none ∧
    base.sys.exstat.xp = false ∧
    (let b : Pend := { kind := .xfer, taken := true, target := 40, fall := 40 }
     { base.strand with cbrSaved := some b }.cbrSaved = some b ∧ b.kind = .xfer) := by decide
/-- A handler whose return goes to word 16, the last word of loop 1 with iteration j of 4, behind the slot of a transfer. -/
def returning (j : BitVec 32) (xt : Bool) : State := { base with
  sys := { base.sys with pl := true, epc := 16, etgt := 40, exstat := { depth := 1, nest := 1, xp := true, sk := true, xt := xt }
                         elb := base.sys.elb.set 1 { first := 10, last := 16 } }
  strand := { base.strand with lc := base.strand.lc.set 1 { j := j, cnt := 4 } } }
theorem witness_trapsAndReturn_loops : let s := returning 2 false
    s.sys.pl = true ∧ s.prof.busy = false ∧ s.mem.replay = [] ∧ s.thatch.async = [] ∧ s.strand.cbrSaved = none ∧
      s.sys.exstat.depth ≠ 0 ∧ s.sys.exstat.depth.toNat ≤ 4 ∧ innermost s.sys.exstat = 1 ∧ postAt s s.sys.epc = false ∧
      s.sys.elb[(1 : Fin 4)].last = s.sys.epc + 1 - 1 ∧
      (getLc s 1).j.toNat + 1 < (getLc s 1).cnt.toNat + stagesOf s.sys.exstat 1 - 1 ∧
      (let t := returning 3 false
       (getLc t 1).cnt.toNat + stagesOf t.sys.exstat 1 - 1 ≤ (getLc t 1).j.toNat + 1 ∧ t.sys.exstat.depth = 1) ∧
      (returning 3 true).sys.exstat.xt = true ∧ { s.sys with epc := 15 }.elb[(1 : Fin 4)].last ≠ (15 : BitVec 32) + 1 - 1 := by
  decide
/-- A debug view with room, while a snapshot is being written. -/
def viewing : State := { base with
  sys := { base.sys with traceb := 0xC000010000000000, exstat := { base.sys.exstat with xp := true, sk := true } }
  prof := { base.prof with busy := true } }
theorem witness_trapsAndReturn_view : viewing.prof.busy = true ∧ viewOn viewing = true ∧ viewOn base = false ∧
    viewing.sys.exstat.xp = true ∧ viewing.sys.exstat.sk = true ∧ viewing.sys.th = false ∧ Cause.brk = .brk := by decide
theorem witness_privilegedTraps : base.sys.pl = false ∧ readSys base 0 ≠ none ∧ sysUser 0 = false ∧ sysReadOnly 0 = false := by
  decide
theorem witness_levelRises : base.sys.pl = false ∧ ∃ t, exec (.trap 0) base = .next t ∧ t.sys.pl = true := ⟨rfl, _, rfl, rfl⟩

/-- A pre-emption is requested, with a yield table of one entry at the last place of the scratchpad. -/
def yielding : State := { base with sys := { base.sys with pp := true, ytab := 0x5FFFF8 } }
/-- The trace is on, with the smallest ring. -/
def tracing : State := { base with sys := { base.sys with traceb := 0x8000010000000000 } }

theorem witness_strandSystem : yielding.sys.pp = true ∧ yielding.strand.xstat.depth = 0 ∧ yielding.strand.pend = none ∧
    (0 : BitVec 8).toNat ≤ yielding.sys.ytab.toNat / 2 ^ 24 % 2 ^ 8 ∧ ¬(1 : BitVec 8).toNat ≤ yielding.sys.ytab.toNat / 2 ^ 24 % 2 ^ 8 ∧
    yielding.sys.ytab.toNat % 2 ^ 23 + 8 * 0 + 8 ≤ 0x600000 ∧ base.prof.busy = false ∧ ldc (withLoad aLoad base) ≠ 0 ∧
    (tkc base = 0 ∧ ldc base = 0 ∧ stc base = 0 ∧ cpc base = 0 ∧ base.mem.replay = []) ∧
    dirtyHusks base (cachedHusks base) = [] ∧ base.pkg.saving = false ∧ { base.pkg with saving := true }.saving = true ∧
    traceOn base = false ∧ traceOn tracing = true ∧ base.strand.asleep = false ∧ (getG base 1).toNat ≤ base.pkg.time.toNat := by
  decide
/-- The second entry of a yield table that ends with the scratchpad. -/
theorem witness_strandSystem_seg : let s := { yielding with sys := { yielding.sys with ytab := 0x015FFFF8 } }
    (1 : BitVec 8).toNat ≤ s.sys.ytab.toNat / 2 ^ 24 % 2 ^ 8 ∧ 0x600000 < s.sys.ytab.toNat % 2 ^ 23 + 8 * 1 + 8 ∧
      s.sys.spec = false := by decide
theorem witness_strandSystem_wakes : let s := { base with strand := { base.strand with asleep := true } }
    s.strand.asleep = true ∧ s.strand.semAdded = false ∧ s.thatch.async = [] ∧ s.pkg.debugReq = false ∧ s.sys.pp = false ∧
      { s.pkg with debugReq := true }.debugReq = true ∧ tracing.prof.busy = false ∧
      { tracing.prof with busy := true }.busy = true := by decide
theorem witness_strandSystem_tstart : base.pkg.time.toNat < (getG (withG [1] base) 1).toNat := by decide

/-- Where the image lies, or what its check met, as data that can be compared. -/
def imageIs : Except (Trap × State) (ImageAt × State) → Option (Except Cause (Option Nat × Bool))
  | .error (t, _) => some (.error t.cause)
  | .ok (.spad o, _) => some (.ok (some o, false))
  | .ok (.mem _ h, _) => some (.ok (none, h))

theorem image_of {r : Except (Trap × State) (ImageAt × State)} {o : Nat} (h : imageIs r = some (.ok (some o, false))) :
    ∃ u, r = .ok (.spad o, u) := by
  unfold imageIs at h; split at h <;> simp_all
theorem imageMem_of {r : Except (Trap × State) (ImageAt × State)} {b : Bool} (h : imageIs r = some (.ok (none, b))) :
    ∃ us u, r = .ok (.mem us b, u) := by
  unfold imageIs at h; split at h <;> simp_all
theorem imageBad_of {r : Except (Trap × State) (ImageAt × State)} {c : Cause} (h : imageIs r = some (.error c)) :
    ∃ t u, r = .error (t, u) ∧ t.cause = c := by
  unfold imageIs at h; split at h <;> simp_all

theorem witness_saveMapRidge_saveq : (∃ u, imageAt 1 (sp 0) base = .ok (.spad 0, u)) ∧ meetsCopy base (sp 0) 16384 = false ∧
    saveWaits (saveBegin base) = false ∧
    saveWaits (saveBegin (withEntry { entryOf 4 1 with state := .draining } base)) = true :=
  ⟨image_of (by decide +kernel), by decide, by decide, by decide⟩
theorem witness_saveMapRidge_image : meetsCopy (copying base) (sp 0) 16384 = true ∧
    (∃ us u, imageAt 1 0 (handing 1 (withMemory base)) = .ok (.mem us true, u)) ∧
    (∃ us u, imageAt 0 0 (withMemory base) = .ok (.mem us false, u)) ∧
    (∃ t u, imageAt 1 (sp 8) base = .error (t, u) ∧ t.cause = .align) ∧
    ∃ t u, imageAt 0 0xFE000 (withMemory base) = .error (t, u) ∧ t.cause = .seg :=
  ⟨by decide, imageMem_of (by decide +kernel), imageMem_of (by decide +kernel), imageBad_of (by decide +kernel),
    imageBad_of (by decide +kernel)⟩

/-- A save image with no entries, at the start of the scratchpad. -/
def saved : State := { base with store := { base.store with spad := [(0, 0x01), (1, 0x94)] } }

theorem witness_saveMapRidge_restq : (∃ u, imageAt 0 (sp 0) saved = .ok (.spad 0, u)) ∧ tkc saved = 0 ∧ localCount saved = 0 ∧
    imagePoison (.spad 0) saved = none ∧ imgNat (readImage (.spad 0) saved) 0 8 = 0x9401 ∧
    restBad saved (savedDir (readImage (.spad 0) saved)) (savedEntries (readImage (.spad 0) saved)) = none :=
  ⟨image_of (by decide +kernel), by decide, by decide, rfl, by decide +kernel, by decide +kernel⟩
theorem witness_saveMapRidge : (withPl base).sys.pl = true ∧ memoryPending (invalidate (fun _ => true) base) = false ∧
    memoryPending (invalidate (fun _ => true) { base with strand := { base.strand with
      copies := [{ toSpad := true, off := 0, va := 0, len := 8, pages := [], asid := 0 }] } }) = true ∧
    (getG (withG [63] base) 1).toNat < 64 ∧ 64 ≤ (getG (withG [64] base) 1).toNat ∧ (getG (withG [8191] base) 1).toNat < 8192 ∧
    8192 ≤ (getG (withG [8192] base) 1).toNat := by decide
theorem witness_saveMapRidge_ridge : base.strand.ridgeWait = none ∧ ridgeStatus base 7 = 0 ∧
    ridgeStatus { base with pkg := { base.pkg with ridging := 0x80 } } 7 = 1 ∧
    ridgeStatus { base with pkg := { base.pkg with dieDown := 1 } } 7 = 2 ∧
    ridgeStatus { base with pkg := { base.pkg with portBDown := 0x80 } } 7 = 2 ∧
    ridgeStatus { base with pkg := { base.pkg with own := 0x80, portADown := 0x80 } } 7 = 2 ∧
    ridgeStatus { base with pkg := { base.pkg with stackError := 0x80 } } 7 = 3 ∧
    (let held : Copy := { toSpad := true, off := 0, va := 0, len := 8, pages := [(0, 7 * 2 ^ 36)], asid := 0 }
     let into (c : Copy) : Bool := c.pages.any (fun p => p.2 / 2 ^ 36 % 8 == 7)
     (beginRidge 7 base).strand.copies.any into = false ∧ (beginRidge 7 base).thatch.entries = [] ∧
       (beginRidge 7 { base with strand := { base.strand with copies := [held] } }).strand.copies.any into = true) ∧
    (beginRidge 7 base).strand.ridgeWait = some 7 := by decide

/-- A member of a group of two. -/
def member : State := { base with sys := { base.sys with grpn := 2, grpid := 5, grpIx := 1 } }

theorem witness_groupInstructions : TransferPlace member ∧ base.sys.grpn = 0 ∧ member.sys.grpn ≠ 0 ∧ member.sys.grpXc = false ∧
    { member with sys := { member.sys with grpXc := true } }.sys.grpXc = true ∧ member.grp.cbrx = none ∧
    { member with grp := { member.grp with cbrx := some 0 } }.grp.cbrx ≠ none ∧
    (tkc member = 0 ∧ member.mem.replay = [] ∧ releaseReady .fabric member = true ∧
      (member.sys.gstepLocal - member.sys.gstepStep).toNat < 16) ∧
    ¬({ member with sys := { member.sys with gstepLocal := 16 } }.sys.gstepLocal - member.sys.gstepStep).toNat < 16 := by
  unfold TransferPlace; decide

/-! Events. -/

def root2 : Root := { gid := 5, n := 2, gen := 0, contribs := [], ended := [], marks := [], step := 0 }
def vote (ix : BitVec 16) (b : Bool) : Contrib := { gid := 5, inst := 0, gen := 0, ix := ix, red := .and, vote := b }
/-- The group's root is here, with messages on their way. -/
def hosting (r : Root) (ms : List GroupMsg) (s : State) : State := { s with grp := { s.grp with roots := [r], msgs := ms } }
def aCheckpoint : Checkpoint :=
  { g := Vector.replicate 64 0, c := Vector.replicate 8 true, tb := Vector.replicate 8 0, lc := Vector.replicate 4 {}
    xstat := {}, bounds := Vector.replicate 4 {}, ras := [], boxes := Vector.replicate 64 {}, inst := 0, hint := true
    target := 40, fall := 18 }
/-- A contribution to instance 0 is open. -/
def opened (s : State) : State := { s with grp := { s.grp with openAt := [(0, 0)] } }

theorem witness_groupEvents_contribution : let r := { root2 with contribs := [vote 0 true] }
    let s := hosting r [.contrib (vote 1 false), .mark { gid := 5, gen := 0, ix := 1, step := 1 }] member
    let other := hosting r [] { member with sys := { member.sys with grpIx := 2 } }
    s.sys.gepochPf = false ∧ s.grp.msgs.find? (fun x => goesUp x && msgGid x == 5) = some (.contrib (vote 1 false)) ∧
      ownMember other 5 1 = false ∧ rootOf s 5 = some r ∧ r.ended.contains 0 = false ∧ r.contribs.any (fun x => x.inst == 0 && x.ix == 1) = false ∧
      ((r.contribs ++ [vote 1 false]).filter (fun x => x.inst == 0)).any (fun x => x.red != Red.and) = false ∧
      ((r.contribs ++ [vote 1 false]).filter (fun x => x.inst == 0)).length = r.n ∧
      ((r.contribs ++ [({ vote 1 false with red := .or } : Contrib)]).filter (fun x => x.inst == 0)).any
        (fun x => x.red != Red.or) = true ∧
      ownMember s 5 1 = true ∧ s.grp.msgs.find? (fun x => goesUp x && msgGid x == 5) ≠ some (.contrib (vote 1 true)) := by decide
/-- A phase fence is in progress. -/
def fencing : State := { member with sys := { member.sys with gepochPf := true } }
theorem witness_groupEvents_inFlight : fencing.sys.gepochPf = true ∧ fencing.grp.msgs.contains (.contrib (vote 1 true)) = false ∧
    (hosting root2 [.contrib (vote 1 true)] fencing).grp.msgs.contains (.contrib (vote 1 true)) = true := by decide
theorem witness_groupEvents_result : let s := opened member
    sentHere s (.result 5 0 s.grp.gen true) = true ∧ sentHere (hosting root2 [] s) (.result 5 0 s.grp.gen true) = false ∧
      isOpen s 0 = true ∧ s.grp.spec = none ∧ stepOwed s 0 = false ∧ s.sys.grpn ≠ 0 ∧ s.sys.grpid = 5 ∧
      stepOwed { s with grp := { s.grp with stepAt := [(0, 1)] } } 0 = true ∧ rootHere s 5 = false ∧
      rootHere (hosting root2 [] s) 5 = true ∧
      sentHere s (.result 6 0 0 true) = true ∧ (6 : BitVec 16) ≠ s.sys.grpid ∧ sentHere s (.commit 6 1 0) = true ∧
      { s with grp := { s.grp with cbrx := some 0 } }.grp.cbrx = some 0 ∧
      { s with grp := { s.grp with spec := some aCheckpoint } }.grp.spec = some aCheckpoint ∧ s.grp.cbrx = none ∧
      aCheckpoint.inst = 0 ∧ true = aCheckpoint.hint ∧ false ≠ aCheckpoint.hint ∧ s.grp.hold = [] ∧ s.grp.issuing = [] ∧
      aCheckpoint.xstat.depth = 0 ∧ s.thatch.entries = [] := by decide
theorem witness_groupEvents_expiry : let s := hosting root2 [] (opened { member with pkg := { member.pkg with time := 10000000 } })
    expiredInstance s = some 0 ∧ ownRoot s = some root2 ∧ root2.ended.contains 0 = false ∧
      ownRoot { s with sys := { s.sys with grpid := 6 } } = none ∧
      expiredInstance { s with sys := { s.sys with grpid := 6 } } = some 0 := by decide
theorem witness_groupEvents_timeout : let told := hosting root2 [.timeout 5 3 0 false] member
    member.grp.msgs.contains (.expiry 5 3 member.grp.gen) = false ∧ rootOf member 5 = none ∧
      told.grp.msgs.contains (.timeout 5 3 told.grp.gen false) = true ∧ member.sys.grpn ≠ 0 ∧ notContributed member 3 = true ∧
      live member = true ∧ rootOf told 5 = some root2 ∧ told.grp.msgs.contains (.timeout 5 2 root2.gen false) = false ∧
      told.grp.msgs.contains (.expiry 5 2 root2.gen) = false ∧ root2.ended.contains 2 = false := by decide
theorem witness_groupEvents_timeout_ahead :
    let s := { opened member with
      sys := { member.sys with grpCi := 1 }
      grp := { (opened member).grp with spec := some aCheckpoint } }
    rootOf s 5 = none ∧ s.grp.msgs.contains (.expiry 5 0 s.grp.gen) = false ∧ isOpen s 0 = true ∧ notContributed s 0 = false ∧ s.grp.spec = some aCheckpoint ∧
      aCheckpoint.xstat.depth = 0 := by decide
theorem witness_groupEvents_step : let m : StepMark := { gid := 5, gen := 0, ix := 1, step := 1 }
    let r := { root2 with marks := [{ m with ix := 0 }] }
    (hosting root2 [.mark m] member).grp.msgs.find? (fun x => goesUp x && msgGid x == 5) = some (.mark m) ∧
      rootOf (hosting root2 [] member) 5 = some root2 ∧
      root2.marks.contains m = false ∧ stepComplete { root2 with marks := root2.marks ++ [m] } (root2.step + 1) = false ∧
      r.marks.contains m = false ∧ stepComplete { r with marks := r.marks ++ [m] } (r.step + 1) = true ∧
      stepComplete { r with step := 1, marks := [] } 2 = false ∧
      sentHere member (.commit 5 1 member.grp.gen) = true ∧ (1 : BitVec 32) = member.sys.gstepStep + 1 := by decide
theorem witness_groupEvents_abort : let k : AbortToken := { gid := 5, gen := 0, info := 1, step := 0 }
    rootOf (hosting root2 [] member) k.gid = some root2 ∧ k.gen = root2.gen ∧ live member = true ∧
      sentHere member (.abortDown k) = true ∧ k.gen = member.grp.gen ∧ k.gid = member.sys.grpid ∧ member.grp.spec = none := by
  decide
theorem witness_groupEvents_phase : base.fab.phase = none ∧ phaseBusy 1 base = false ∧
    { base with fab := { base.fab with phase := some { epoch := 1, drained := true, since := 0 } } }.fab.phase =
      some { epoch := 1, drained := true, since := 0 } ∧
    phaseBusy 1 { base with fab := { base.fab with phase := some { epoch := 1, drained := false, since := 0 } } } = false := by
  decide

def aCause : Async := { cause := .remote, info := 1, src := 5 }
theorem witness_strandEvents : nextCause { base with thatch := { base.thatch with async := [{ aCause with cause := .abort }, aCause] } } =
      some aCause ∧ aCause ≠ { cause := .brk, info := 0x100, src := 0 } ∧ live base = true ∧ base.sys.pp = false ∧
    { base.pkg with preemptBy := some 0 }.preemptBy = some 0 ∧ (0 : Word).toNat ≤ base.pkg.time.toNat ∧ atBoundary base = true ∧
    { base with strand := { base.strand with run := .stopped } }.strand.run = .stopped ∧ nextCause base = none ∧
    base.sys.th = false ∧ base.sys.spec = false ∧ base.prof.queued = [] := by decide
theorem witness_strandEvents_debug : let s := { base with pkg := { base.pkg with debugReq := true } }
    s.pkg.debugReq = true ∧ s.strand.xstat.pipe = false ∧ atBoundary s = true ∧ (∀ b ∈ s.thatch.async, mayTake s b = false) ∧
      nextCause s = some { cause := .brk, info := 0x100, src := 0 } ∧ ¬(viewOn s = true ∧ s.prof.busy = true) := by decide
/-- ACQ of the object at 0x10 stalls. -/
def acquiring : State :=
  withText [0xA8804000] (withG [0x10] { withMemory base with strand := { base.strand with stalled := true } })
def acquired : State := match check 0x10 8 2 acquiring with | .mem _ _ _ _ u => u | _ => base
theorem witness_strandEvents_acq : acquiring.strand.run = .running ∧ acquiring.strand.stalled = true ∧
    decodeAt acquiring acquiring.strand.pc = some (.ok (.acq .fabric 1)) ∧ (getG acquiring 1).getLsbD 63 = false ∧
    memOf (check (getG acquiring 1) 8 2 acquiring) = some (0x200010, false, false, none) ∧
    meetsCopy acquiring (getG acquiring 1) 8 = false ∧ pageParked acquiring (getG acquiring 1).toNat = false ∧
    acquiring.grp.issuing = [] ∧ poisonedAt acquiring (memKey acquiring.sys.nodeid.toNat 0x200010) = false ∧
    boundTo acquired (getG acquired 1) = [] ∧ acquired.strand.loads = [] ∧ objectWord acquired 0x200010 = 0 ∧
    (let mine : Word := BitVec.ofNat 64 (2 ^ 63 + acquired.sys.nodeid.toNat * 2 ^ 9 + acquired.sys.coreid.toNat)
     let t := setObject 0x200010 none mine acquired
     objectWord t 0x200010 = mine ∧ objectWord t 0x200010 ≠ 0 ∧ objectWord acquired 0x200008 ≠ 0 ∧
       objectWord acquired 0x200008 ≠ mine) := by decide
theorem witness_strandEvents_queued : let r : SnapReq := { kind := 1, tag := 0, dw3 := 0, dw4 := 0 }
    { base.prof with queued := [r] }.queued = r :: [] := by decide
theorem witness_strandEvents_retry : let s := withText [0xB0900100] { base with strand := { base.strand with stalled := true } }
    s.strand.run = .running ∧ s.strand.stalled = true ∧ decodeAt s s.strand.pc = some (.ok (.tstart 1)) ∧
      (getG s 1).toNat ≤ s.pkg.time.toNat ∧
      s.pkg.time.toNat < (getG (withG [1] s) 1).toNat := by decide

/-- What a launch finds: the next packet of the package. -/
def launching (s : State) : State := { s with pkg := { s.pkg with gated := [], launches := s.pkg.launches + 1 } }
theorem witness_launchEvents : canAccept (launching State.reset) = true ∧ launchBad {} (launching State.reset) = none ∧
    launchBad { segs := [(3, { d3 := 1 })] } (launching State.reset) = some (.refused (some 3) none) ∧
    canAccept (launching base) = false ∧ live base = true ∧ ({} : CoreItems).core = none ∧ ({} : LaunchPkt).others = [] ∧
    (some ((1 : BitVec 12), (0 : BitVec 9)) ≠ some (base.sys.nodeid, base.sys.coreid)) ∧
    (some ((0 : BitVec 12), (1 : BitVec 9)) ≠ some (base.sys.nodeid, base.sys.coreid)) ∧ packageTakes base = true ∧
    { base.pkg with shut := true }.shut = true ∧ (base.mem.segs.map Prod.fst).Pairwise (· < ·) := by decide
theorem witness_launchEvents_member : let g : GroupInit := { id := 5, n := 2, ix := 0, epoch := 0, budget := 0 }
    launchBad { group := some g } (launching State.reset) = none ∧ g.ix = 0 ∧ ¬({ g with ix := 1 }.ix = 0) ∧
      launchBad { members := some (1, 2, 3) } (launching State.reset) = none ∧ live State.reset = false ∧
      ({ group := some g } : CoreItems).group = some g ∧ ({ asid := 1 } : CoreItems).asid ≠ base.sys.asid := by decide
/-- A core that waits for the start of a launch. -/
def waiting (l : Launch) (t : Word) : State := { State.reset with
  strand := { State.reset.strand with run := .waiting }
  pkg := { State.reset.pkg with launch := some l, time := t } }
theorem witness_launchEvents_start : let l : Launch := { start := 5, budget := 0, accepted := 0 }
    (waiting l 5).strand.run = .waiting ∧ (waiting l 5).pkg.launch = some l ∧ l.start.toNat ≤ (waiting l 5).pkg.time.toNat ∧
      (waiting l 5).sys.grpn = 0 ∧ (waiting l 4).pkg.time.toNat < l.start.toNat := by decide
theorem witness_launchEvents_late : let l : Launch := { start := 5, budget := 2, accepted := 6 }
    let s := { waiting l 7 with sys := { State.reset.sys with grpn := 2 } }
    let late (l : Launch) (t : Word) : Nat := if l.start.toNat < l.accepted.toNat then t.toNat - l.start.toNat else 0
    s.sys.grpn ≠ 0 ∧ late l 7 ≠ 0 ∧ late l 7 ≤ l.budget ∧ l.budget < late l 8 ∧ l.start.toNat ≤ s.pkg.time.toNat ∧
      late { l with accepted := 5 } 8 = 0 := by decide

theorem translated {x : Xlate} (h : (match x with | .ok .. => true | .bad _ => false) = true) :
    ∃ pa m w l u, x = .ok pa m w l u := by
  cases x <;> simp_all

theorem badXlate {x : Xlate} (h : (match x with | .bad _ => true | _ => false) = true) : ∃ c, x = .bad c := by
  cases x <;> simp_all

theorem witness_packageEvents : (∃ pa m w l u, xlate true 0 8 0 (withMemory base) = .ok pa m w l u) ∧
    (∃ c, xlate true 0 8 0 base = .bad c) ∧ serve 0 (base.mem.mc[0]).marked = [] ∧ traceOn base = false ∧
    throttleDue { cause := 0, dies := 1, newClk := 1, newMv := 1, newLim := 1, measured := 1051 } base = true ∧
    throttleDue { cause := 0, dies := 1, newClk := 1, newMv := 1, newLim := 1, measured := 1050 } base = false ∧
    base.pkg.throttled.contains (0, 1) = false ∧ { base.pkg with throttled := [(0, 1)] }.throttled.contains (0, 1) = true ∧
    mayEnter State.reset (.clockGated 0) = true ∧ State.reset.pkg.gated.contains (.clockGated 0) = false ∧
    { base.pkg with broughtUp := false }.broughtUp = false ∧ base.pkg.broughtUp = true ∧ base.pkg.shut = false ∧
    (∀ d : Fin 4, base.mem.bpl[d] = []) ∧
    (base.mem.bpl[bplShare 7]).contains 7 = false ∧ (base.mem.bpl[bplShare 7]).length < 1024 :=
  ⟨translated (by decide), badXlate (by decide), by decide, by decide, by decide, by decide, by decide, rfl, by decide, by decide, rfl,
    rfl, rfl, by decide, by decide, by decide⟩
theorem witness_packageEvents_home : let far := { base with pkg := { base.pkg with ddl := 15, own := 1 } }
    aRequest.pa < 2 ^ 39 ∧ routed base aRequest.fromDie (homeDie base aRequest.pa) = true ∧
      routed far aRequest.fromDie (homeDie far aRequest.pa) = false ∧ aRequest.ecc = .clean ∧
      { aRequest with op := .read, ecc := .uncorrectable }.ecc = .uncorrectable ∧
      poisonedAt base (memKey base.sys.nodeid.toNat aRequest.pa) = false ∧ homeWaits base aRequest = false ∧
      homeWaits base { aRequest with op := .amo .add 1 0 } = false ∧
      homeWaits { base with pkg := { base.pkg with ridging := 1 } } { aRequest with op := .read } = true := by decide
/-- The page at 0x2000000, which is physical 0x2000000, is to be copied. -/
theorem witness_packageEvents_held : let s := withMemory (withSweep (aSweep [aPage]) base)
    homeWrites aRequest.op = true ∧ frameHeld s s.sys.nodeid.toNat 0x2000000 = some 0x2000000 ∧
      homeWaits s { aRequest with pa := 0x2000000 } = true := by decide
theorem witness_packageEvents_batch : serve 0 ({ marked := [{ src := 0, line := 0 }] } : Mc).marked ≠ [] ∧
    nextServed [({ src := background, line := 0 } : McReq), { src := 0, line := 0 }] = some { src := background, line := 0 } ∧
    nextServed [({ src := background, line := 0 } : McReq), { src := 0, line := 1 }] = some { src := 0, line := 1 } := by decide
theorem witness_packageEvents_waits : let x : HomeItem := .req { aRequest with op := .read }
    let s := { base with mem := { base.mem with homeHeld := [x] } }
    s.mem.homeHeld = [x] ∧ itemWaits s x = false ∧ itemWaits (handing 1 s) x = true ∧
      itemWaits (handing 1 s) (.pkt { aPacket with dstNode := 0, body := .read [8] }) = true := by decide
theorem witness_packageEvents_walks : let s := withMemory base
    walkHeld false 0 0x2000000 (handing 1 s) = true ∧ walkHeld false 0 0x2000000 s = false := by decide
theorem witness_packageEvents_others : let x : BitVec 9 × BitVec 4 := (1, 2)
    ({ badOthers := [x] } : BringUp).badOthers = [x] ∧ x.1 ≠ base.sys.coreid ∧ x.2 ≠ 0 ∧ ({} : BringUp).badOthers = [] := by decide
theorem witness_packageEvents_bringUp : neighbour base (portAxis 0) (portMinus 0) = some 1 := by decide

def flit (last : Bool) : FlitReq :=
  { dst := 0, src := 1, vc := 0, first := true, last := last, len := 1, marker := false, payload := 7 }
/-- A link that is up. -/
def upLink : Link := { Link.reset with state := .up }
/-- A plain DATA flit as a sender forms it. -/
def dataFlit (seq : Nat) (last : Bool) : BitVec 2048 := plainFlit (dataHeader (flit last) flitData seq 0 false false) 7

theorem witness_linkEvents_transmit : upLink.state = .up ∧ upLink.ctrl = [] ∧ upLink.resend = [] ∧ upLink.moving = none ∧
    upLink.buffer.length < 512 ∧ markerReady upLink = false ∧ upLink.khold = false ∧
    { upLink with queue := [flit true] }.queue = [] ++ flit true :: [] ∧ (flit true).vc = 0 ∧ (flit true).vc ≠ 2 ∧
    Link.reset.state ≠ .up ∧
    { upLink with ctrl := [0] }.ctrl = [0] ∧ { upLink with resend := [3] }.resend = [3] ∧
    { upLink with moving := some 1 }.moving ≠ none ∧ { upLink with khold := true }.khold = true ∧
    markerReady { upLink with switching := true, tx := Vector.replicate 2 { valid := true }, peerRx := 3 } = true := by
  decide +kernel
theorem witness_linkEvents_arrival : flitBad upLink (dataFlit 0 false) true = false ∧ carriesSeq (dataFlit 0 false) = true ∧
    flitType (dataFlit 0 false) ≠ flitCtrl ∧ flitSeq (dataFlit 0 false) = upLink.rxSeq + 1 ∧
    (dataFlit 0 false).getLsbD 24 = false ∧ flitType (dataFlit 0 false) = flitData ∧
    (flitReqOf upLink (dataFlit 0 false)).last = false ∧ (flitReqOf upLink (dataFlit 0 true)).last = true ∧
    flitSeq (dataFlit 0xFFFF false) ≠ upLink.rxSeq + 1 ∧ (upLink.rxSeq - flitSeq (dataFlit 0xFFFF false)).toNat < 2 ^ 15 ∧
    2 ^ 15 ≤ (upLink.rxSeq - flitSeq (dataFlit 0x7FFF false)).toNat ∧ upLink.nakOut = false ∧
    flitBad upLink (dataFlit 0 false) false = true ∧ flitSeq (dataFlit 0 false) = upLink.rxSeq + 1 := by decide +kernel
theorem witness_linkEvents_control : let raw := ctrlFlit upLink false
    (let train : BitVec 2048 := plainFlit (flitTrain * 2 ^ 28) 0
     flitBad upLink train true = false ∧ flitType train = flitTrain ∧ upLink.bkt ≠ 8 ∧ { upLink with bkt := 8 }.bkt = 8) ∧
    flitBad upLink raw true = false ∧ flitType raw = flitCtrl ∧ flitNak raw = false ∧
      (ackUpTo (flitAck raw) 0 { upLink with moving := some 1 }).buffer = [] := by decide +kernel
theorem witness_linkEvents_timers : let f : SentFlit := { seq := 0, raw := 0, last := true, req := flit true }
    let l := { upLink with buffer := [f] }
    l.buffer = f :: [] ∧ l.resend = [] ∧ f.resent = false ∧ f.fails = 0 ∧ (l.advanced + 2000).toNat ≤ (2000 : Word).toNat ∧
      (1999 : Word).toNat < (l.advanced + 2000).toNat ∧ (l.drained + 600000000000).toNat ≤ (600000000000 : Word).toNat ∧
      l.buffer ≠ [] := by decide +kernel
/-- F.SEM of this core to core 1 of this node, over port 3, in the window and on its way. -/
def aSem : Packet := { srcNode := 0, srcCore := 0, srcSlot := 0, dstNode := 0, dstCore := 1, asid := 0, body := .sem 0 1, port := some 3 }
def sending (p : Packet) (s : State) : State :=
  withEntry { entryOf 4 6 with acks := 1 } { s with fab := { s.fab with net := [p] } }

theorem witness_linkEvents_states : let v : LaneView := { node := 1, port := 0, wid := 0, spd := 0, lanes := 0xFF }
    v.wid = v.wid ∧ { upLink with state := .training }.state = .training ∧ { upLink with state := .planned }.state = .planned ∧
      edgePort base 3 = false ∧ edgePort { base with fab := { base.fab with podcfg := 0 } } 3 = true ∧
      (let l := { upLink with state := .retired, noticeDue := true }
       l.state = .retired ∧ l.noticeDue = true ∧ l.queue = [] ∧ l.buffer = [] ∧ l.kept = [] ∧ l.restart = false ∧
         { l with restart := true }.restart = true ∧ (l.since + 1000000).toNat ≤ (1000000 : Word).toNat) ∧
      { upLink with state := .up }.state ≠ .retired := by decide
/-- A page of a sweep, for node 1. -/
def outgoingSweep : Packet := { aSem with dstNode := 1, body := .write [{ addr := 0, data := 1 }] }
/-- A flit of that packet, which waits behind a retired link, and another link of the group takes it. -/
theorem witness_linkEvents_retired : let q : Packet := { aSem with num := some 0 }
    let f : FlitReq := { flit true with dst := 1, src := 0, own := some 0 }
    let s := { sending q base with links := (base.links.set 0 { upLink with state := .retired, noticeDue := true }).set 1 upLink }
    (otherPort s 0 f.src.toNat f.dst.toNat).isSome = true ∧ f.first = true ∧ f.last = true ∧
      packetOf s { f with last := false } = some q ∧ ownPacket s q = true ∧ ofRecord q.body = true ∧
      findEntry s q.srcSlot = some { entryOf 4 6 with acks := 1 } ∧ entryEng (entryOf 4 6) ≠ .c ∧
      (let c := { entryOf 3 0x0B with acks := 1 }
       let q : Packet := { outgoingSweep with num := some 0 }
       ofRecord q.body = true ∧ entryEng c = .c ∧ c.state = .running ∧ entryEng { c with state := .stopped } = .c) := by decide
theorem witness_linkEvents_keys : let two : Link := { upLink with tx := Vector.replicate 2 { valid := true } }
    (txSlot upLink).valid = false ∧ (txSlot two).valid = true ∧ (upLink.rx[slotIx true]).valid = false ∧
      ({ upLink with rx := Vector.replicate 2 { valid := true } }.rx[slotIx true]).valid = true ∧
      optical base 3 = true ∧ optical base 0 = false ∧ upLink.state = .up ∧ upLink.buffer = [] := by decide

/-- A packet of core 1 for core 0 of this node, and the state that it is on its way in. -/
def incoming (b : PktBody) : Packet := { srcNode := 0, srcCore := 1, srcSlot := 0, dstNode := 0, dstCore := 0, asid := 0, body := b }
def onWay (p : Packet) (s : State) : State := { s with fab := { s.fab with net := [p] } }
/-- A core that runs no launch. -/
def elsewhere (p : Packet) : Packet := { p with dstCore := 2 }

theorem witness_arrivalEvents_memory : let w : ByteWrite := { addr := 0x7FFFFFFFFF, data := 7 }
    let p := incoming (.write [w]); let a := incoming (.amo 8 true .add 1 0)
    (onWay p base).fab.net.contains p = true ∧ ownPacket (onWay p base) p = false ∧ p.mark = none ∧
      packetHeld (onWay p base) p = false ∧ [w].any (fun w => addrRefused (onWay p base) p w.addr) = false ∧
      [w.addr].any (addrRefused base p) = false ∧ (∀ pa ∈ [w.addr], poisonedAt base (memKey 0 pa) = false) ∧
      packetHeld (onWay a base) a = false ∧ packetHeld (onWay (incoming (.read [8])) base) (incoming (.read [8])) = false ∧
      (let r := incoming (.read [8]); let s := { onWay r base with pkg := { base.pkg with ridging := 1 } }
       s.fab.net.contains r = true ∧ packetHeld s r = true ∧ ownPacket s r = false ∧ r.mark = none) ∧
      (∀ k, k < 8 → addrRefused base a (k + 8) = false ∧ poisonedAt base (memKey 0 (k + 8)) = false) ∧
      atomWrites .add (readLe base.mem.mem (memKey 0 8) 8) 0 = true ∧
      atomWrites .cas (readLe base.mem.mem (memKey 0 8) 4) 1 = false := by decide
theorem witness_arrivalEvents_core : let p := incoming (.sem 2047 1); let q := incoming (.post mz {})
    isOwn base p.dstNode p.dstCore = true ∧ coreRuns base p = true ∧ (base.store.sems.map Prod.fst).Pairwise (· < ·) ∧
      coreRuns base q = true ∧ coreRuns base (elsewhere q) = false ∧ reserveLeft base q ≠ 0 ∧ base.thatch.dir = [] ∧ recTask mz ≠ some .halo ∧
      (∀ x ∈ base.thatch.entries, readEdges base none x = []) := by decide

/-- The whole of accumulator bank 0, and of husk 1023. -/
def bankBox : RBox := { acc := true, hid := 0, e := { x0 := 256, x1 := 128, x2 := 1 } }
def localBox : RBox := { hid := 1023, e := { x0 := 8 } }
def localHusk : Husk := { d0 := 0x8000, d1 := 8, d2 := 4 }

theorem witness_arrivalEvents_post : postRefused base mz { w := some bankBox } = false := by decide
theorem witness_arrivalEvents_box : let s := withHusk 1023 localHusk base
    boxWriteRefused s localBox (hkBits localHusk) = false ∧ hkFmtCode (boxHusk s localBox) = 0 ∧
      coreRuns s (elsewhere (incoming (.halo localBox 32 0 0 [1] true (some 2047)))) = false := by decide

/-- A packet of this core to core 1, from the record in slot 0. -/
def outgoing (b : PktBody) : Packet := { aSem with body := b }
def inOrder (ps : List Packet) (e : Entry) (s : State) : State := withEntry e { s with fab := { s.fab with net := ps } }

theorem witness_arrivalEvents_own : let p := outgoing (.read [64]); let a := outgoing (.amo 64 false .add 1 0)
    let s := inOrder [p] (entryOf 4 3) base; let late := inOrder [aSem, p] (entryOf 4 3) base
    s.fab.net.contains p = true ∧ ownPacket s p = true ∧ overtakes s p = false ∧ p.mark = none ∧
      findEntry s p.srcSlot = some (entryOf 4 3) ∧ [64].any (addrRefused s p) = false ∧
      (∀ pa ∈ [64], poisonedAt s (memKey 0 pa) = false) ∧ recRst (entryOf 4 3).record = false ∧
      flitsWait s p = false ∧ packetHeld s p = false ∧ late.fab.net.contains p = true ∧ overtakes late p = true ∧
      packetHeld (handing 1 s) p = true ∧ overtakes (handing 1 s) p = false ∧
      (outgoing (.read [2 ^ 39])).body = .read [2 ^ 39] ∧ [2 ^ 39].any (addrRefused s p) = true ∧
      [64].find? (fun x => poisonedAt { s with mem := { s.mem with poison := [64] } } (memKey 0 x)) = some 64 ∧
      packetHeld s a = false ∧ (∀ k, k < 4 → addrRefused s a (k + 64) = false ∧ poisonedAt s (memKey 0 (k + 64)) = false) := by
  decide
theorem witness_arrivalEvents_marked : let p := { incoming (.sem 0 1) with mark := some 3 }; let s := onWay p base
    let h : Held := { node := 0, core := 0, time := 0, p := p }
    let old : State := { s with fab := { s.fab with expired := [{ node := 0, core := 0, srcNode := 0, srcCore := 1, pip := 3 }] } }
    s.fab.net.contains p = true ∧ p.mark = some 3 ∧ ownPacket s p = false ∧
      tripleExpired s p.dstNode p.dstCore p.srcNode p.srcCore 3 = false ∧
      tripleExpired old p.dstNode p.dstCore p.srcNode p.srcCore 3 = true ∧
      coreRefuses s p = false ∧ coreRefuses s (elsewhere p) = true ∧ flitsWait s p = false ∧
      (s.fab.held.filter (heldBy p.dstNode p.dstCore)).length < 64 ∧ ownPacket s (incoming (.cancel 3)) = false ∧
      { s with fab := { s.fab with held := [h] } }.fab.held[0]? = some h ∧
      heldFor s h < holderPipexp s h.node h.core ∧
      holderPipexp s h.node h.core ≤ heldFor { s with pkg := { s.pkg with time := 1000000 } } h := by
  decide
theorem witness_arrivalEvents_flits : let q : Packet := { outgoing (.read [64]) with num := some 0 }
    flitsWait { inOrder [q] (entryOf 4 3) base with links := base.links.set 0 { upLink with queue := [{ flit true with own := some 0 }] } } q =
      true := by decide +kernel
/-- A marked packet of this core for itself finds 64 packets held. -/
theorem witness_arrivalEvents_full : let p := { outgoing (.write []) with mark := some 3 }
    let s := inOrder [p] (entryOf 4 1) base
    let h : Held := { node := 0, core := 1, time := 0, p := p }
    let f := { s with fab := { s.fab with held := List.replicate 64 h } }
    f.fab.net.contains p = true ∧ flitsWait f p = false ∧ overtakes f p = false ∧ coreRefuses f p = false ∧ ownPacket f p = true ∧
      tripleExpired f p.dstNode p.dstCore p.srcNode p.srcCore 3 = false ∧
      64 ≤ (f.fab.held.filter (heldBy p.dstNode p.dstCore)).length ∧ findEntry f p.srcSlot = some (entryOf 4 1) := by decide
theorem witness_arrivalEvents_not_refused (full : Bool) : (incoming (.sem 0 1)).body ≠ .refused full := by
  intro h; cases h
theorem witness_arrivalEvents_answers : let p := incoming (.expired 3); let q := incoming (.refused true)
    toOwn base p = true ∧ (onWay p base).fab.net.contains p = true ∧ toOwn base q = true ∧ findEntry base q.srcSlot = none ∧
      (onWay q base).fab.net.contains q = true := by decide
theorem witness_arrivalEvents_refusals : let q := incoming (.refused false); let s := sending aSem base
    toOwn s q = true ∧ s.fab.net.contains q = false ∧ s.fab.net.find? (fun x => ownPacket s x && !flitsWait s x && answers q x) = some aSem ∧
      findEntry s q.srcSlot = some { entryOf 4 6 with acks := 1 } ∧ entryEng (entryOf 4 6) ≠ .c ∧
      entryEng (entryOf 3 0x0B) = .c ∧ (entryOf 3 0x0B).state = .running ∧ { entryOf 3 0x0B with state := .ready }.state ≠ .running ∧
      base.fab.net.find? (fun x => ownPacket base x && !flitsWait base x && answers q x) = none := by decide

/-! The wider clauses. -/

def isHeld : Chk → Bool | .held => true | _ => false
theorem held_of {k : Chk} (h : isHeld k = true) : k = .held := by cases k <;> simp_all [isHeld]

/-- Memory whose plain segment lies in stack 0, which is handed over, or which another die owns. -/
theorem witness_addressChecks_home : let s := withMemory base
    (∃ pa m w l u, xlate false 0 8 0 (handing 1 s) = .ok pa m w l u) ∧ (∃ c, xlate false 0 0x1000000 0 (handing 1 s) = .bad c) ∧
      reachesHome (cutOff s) 0x200008 = false ∧ reachesHome s 0x200008 = true ∧ ridgingAt (handing 1 s) 0x200008 = true ∧
      ridgingAt s 0x200008 = false ∧ walkHeld true 0 0x2000000 (handing 1 s) = true ∧ walkHeld true 0 8 s = false :=
  ⟨translated (by decide), badXlate (by decide), by decide, by decide, by decide, by decide, by decide, by decide⟩
theorem witness_accessTraps_held : let s := handing 1 (withMemory base)
    check 8 8 0 s = .held ∧ check 8 4 1 s = .held ∧ check 8 8 2 s = .held ∧ check 0x2000000 1 0 s = .held :=
  ⟨held_of (by decide), held_of (by decide), held_of (by decide), held_of (by decide)⟩

/-- Husk 1023: MEM with MC = 1, unbound or bound to the object at 0x10. -/
def cachedHusk : Husk := { d0 := 0xA080 }
def boundHusk : Husk := { d0 := 0xE080, d7 := 0x10 }
/-- What BIND of husk 1023 to the object at 0x10 leaves. -/
def binding : State := after (exec (.bind 1 2) (withG [0x10, 1023] (withHusk 1023 cachedHusk (withMemory base))))
def bound (s : State) : State := match check 0x10 8 2 s with | .mem _ _ _ _ u => u | _ => base

theorem witness_entryConsistencyResults_binding : let u := bound binding
    check 0x10 8 2 binding = .mem 0x200010 false false none u ∧ binding.store.bindings = [(0x10, 1023)] ∧
      getHusk u 1023 = boundHusk ∧ boundTo u (getG u 1) = [1023] ∧ (getG u 2).toNat = 1023 ∧ namesHusk u 1023 = false ∧
      hkBnd (getHusk u 1023) = true ∧ hkObj (getHusk u 1023) = objKey (getG u 1) ∧
      writeBackAll (dirtyHusks u [1023]) u = (0, none, u) ∧ (boundTo u (getG u 1)).any (namesHusk u) = false ∧
      objectWord u 0x200010 = 0 ∧ u.mem.replay = [] ∧ releaseReady .fabric u = true ∧ meetsCopy binding 0x10 8 = false ∧
      poisonedAt binding (memKey binding.sys.nodeid.toNat 0x200010) = false ∧ binding.grp.issuing = [] ∧
      pageParked binding 0x10 = false ∧ (∀ n ∈ [1023], dirtyBytes u n = []) :=
  ⟨mem_state (by decide), by decide, by decide, by decide, by decide, by decide, by decide, by decide, rfl, by decide, by decide,
    by decide, by decide, by decide, by decide, by decide, by decide, by decide⟩
/-- A second husk of the object, another object, a husk that is none, and the limits of R274. -/
theorem witness_entryConsistencyResults_limits : let u := bound binding
    hkBnd (getHusk (withHusk 5 cachedHusk u) 5) = false ∧ u.store.bindings.length < 64 ∧ (boundTo u 0x10).length < 16 ∧
      hkObj (getHusk u 1023) ≠ objKey 0x18 ∧ ¬((1024 : Word).toNat ≤ 1023) ∧ hkV (getHusk base 7) = false ∧
      hkKind (getHusk (withHusk 7 aHusk base) 7) ≠ kMem ∧
      16 ≤ (boundTo { u with store := { u.store with bindings := List.replicate 16 (0x10, 5) } } 0x10).length ∧
      64 ≤ (List.replicate 64 ((0x20 : Nat), (5 : Nat))).length := by decide
theorem witness_entryConsistencyResults_names : let u := bound binding
    let v := { u with thatch := { u.thatch with entries := [{ entryOf 3 4 with boxes := { w := some { hid := 1023 } } }] } }
    namesHusk v 1023 = true ∧ (boundTo v 0x10).any (namesHusk v) = true := by decide
/-- A write-back that meets PAGE: the table of segment 1 is empty. -/
def unmapped : State := { withHusk 1023 { boundHusk with d0 := 0xE085, d1 := 8, d2 := 1, d4 := 0x1000000000000 } (withMemory base) with
  store := { (withHusk 1023 { boundHusk with d0 := 0xE085, d1 := 8, d2 := 1, d4 := 0x1000000000000 } base).store with
    bindings := [(0x10, 1023)], blocks := [(1023 * 2048, { dirty := 1 })] } }
theorem refused_of {r : Nat × Option Fail × State} {c : Cause} (h : (match r with | (0, some (.cause d _), _) => d == c | _ => false) = true) :
    ∃ va v, r = (0, some (.cause c va), v) := by
  split at h
  · simp_all
  · exact absurd h (by decide)
theorem witness_entryConsistencyResults_refused : ∃ va v, writeBackAll (dirtyHusks unmapped [1023]) unmapped = (0, some (.cause .page va), v) :=
  refused_of (by decide +kernel)
theorem witness_entryConsistencyResults_checks : (sp 0).getLsbD 63 = true ∧ check 0x100000 8 2 (withMemory base) = .bad .seg ∧
    check 0x10 8 2 (handing 1 (withMemory base)) = .held ∧
    (∃ u, check 0x2000000 8 2 (withLeaf 0xE8 (withMemory base)) = .mem 0x2000000 false true (some 0x308000) u) ∧
    (∃ u, check 0x2000000 8 2 (withLeaf 0xF0 (withMemory base)) = .mem 0x2000000 true false (some 0x308000) u) :=
  ⟨by decide, bad_of (by decide), held_of (by decide), mem_of (by decide), mem_of (by decide)⟩

/-- Words that REP may repeat, of each kind of R116, and the register fields of a repetition (R117). -/
theorem witness_repeatStarts_words : encodeWord (.add 1 2 3) = some 0x04108300 ∧ repOk 4 1 0 15 (.add 1 2 3) = false ∧
    repOk 3 1 0 15 (.add 1 2 3) = true ∧ repOk 63 0 0 1 (.clz 1 2) = false ∧ repOk 61 1 1 0 (.clz 1 2) = true ∧
    repOk 62 1 1 0 (.clz 1 2) = false ∧
    repStep { k := 2, n := 3, sd := 1, sa := 0, sb := 15 } (.add 1 2 3) = .add 3 2 1 := by decide +kernel

/-- Box registers 1 to 5: husk 1023, a husk of N32 elements away from it, one that is not valid, a box beyond its husk
and one beyond the accumulator; husk 4 is a segment of node 1. -/
def three : State := { withHusks (away base) with store := { (withHusks base).store with
  husks := [(1, { huskB with d0 := 0x800A, d4 := 4096 }), (4, { d0 := 0x808A, d1 := 8, d2 := 4 }), (1023, huskA)]
  boxes := ((((base.store.boxes.set 1 { bv := true, acc := false, hid := 1023, e := { x0 := 8 } }).set 2
    { bv := true, acc := false, hid := 1, e := { x0 := 8 } }).set 3 { bv := true, acc := false, hid := 7 }).set 4
    { bv := true, acc := false, hid := 1023, o := { x0 := 1 }, e := { x0 := 8 } }).set 5
    { bv := true, acc := true, hid := 0, o := { x2 := 1 }, e := { x0 := 256, x1 := 128, x2 := 2 } } } }
def boxFar : RBox := { hid := 4, e := { x0 := 8 } }
/-- A record of an engine and TOP with box fields W and A, in the registers `w` and `a`, and other bits. -/
def recWA (eng top w a more : Nat) : Rec := BitVec.ofNat 256 (top + 2 ^ 8 * eng + 2 ^ 20 * w + 2 ^ 26 * a + 2 ^ 44 + 2 ^ 45 + more)

def okIs (x : Except Cause Boxes) : Option Cause := match x with | .error c => some c | .ok _ => none

/-- What each check of a record refuses, and a record that passes them all. -/
theorem witness_postResults_checks :
    fieldsBad (task 0 4 ||| (1#256 <<< 13)) = true ∧ fieldsBad (task 4 0x0A) = true ∧ fieldsBad (task 3 1) = true ∧
    fieldsBad (recWA 3 1 1 2 0) = false ∧ fieldsBad (recWA 3 1 1 2 (2 ^ 48)) = true ∧
    checkRecord (cpypg 0).record base = .error .priv ∧ fieldsBad (cpypg 0).record = false ∧
    checkRecord (recWA 3 1 0 2 0) three = .error .boxbad ∧ checkRecord (recWA 3 1 3 2 0) three = .error .huskbad ∧
    checkRecord (recWA 3 1 1 0 0) three = .error .boxbad ∧ checkRecord (recWA 3 1 1 4 0) three = .error .boxbad ∧
    checkRecord (recWA 3 1 5 2 0) three = .error .boxbad ∧ okIs (checkRecord (recWA 3 1 1 2 0) three) = none ∧
    okIs (checkRecord (recWA 3 1 1 2 (2 ^ 11)) three) = none ∧
    checkRecord (recWA 3 1 1 2 (2 ^ 11)) { three with sys := { three.sys with rnpool := 0 } } = .error .taskbad ∧
    checkRecord (recWA 3 1 1 2 0) { three with sys := { three.sys with tcut := 0x8000000000000000 } } = .error .boxbad := by
  decide +kernel
/-- For each task of the statement, entries that its stages refuse, and one that they admit. -/
theorem witness_postResults_entries : let s := three
    let wa (w a : RBox) : Boxes := { w := some w, a := some a }
    let near : RBox := { hid := 1, e := { x0 := 8 } }
    let chk (eng top more : Nat) (b : Boxes) : Option Cause := checkEntry (BitVec.ofNat 256 (top + 2 ^ 8 * eng + more)) b s
    let tile : RBox := { acc := true, e := { x0 := 1, x1 := 8, x2 := 1 } }
    chk 0 1 0 { w := some tile, a := some boxA1, b := some boxA1 } = some .boxbad ∧
    chk 2 1 0 (wa near boxA1) = some .boxbad ∧
    chk 1 1 0 { w := some boxA1, a := some boxA1, b := some boxA1 } = none ∧
    chk 1 1 0 { w := some near, a := some boxA1, b := some boxA1 } = some .huskbad ∧
    chk 1 1 0 { w := some boxA1, a := some boxA1, b := some { boxA1 with e := { x0 := 7 } } } = some .boxbad ∧
    chk 3 1 0 (wa boxA1 near) = none ∧ chk 3 1 0 (wa boxA1 { near with e := { x0 := 7 } }) = some .boxbad ∧
    chk 4 1 0 (wa boxFar near) = none ∧ chk 4 1 0 (wa boxA1 near) = some .huskbad ∧ chk 4 1 (2 ^ 192) (wa boxFar near) = some .taskbad ∧
    chk 4 1 0 (wa boxFar { near with e := { x0 := 7 } }) = some .boxbad ∧ chk 4 2 0 (wa boxFar near) = none ∧
    chk 4 3 0 (wa near boxFar) = none ∧ chk 4 3 0 (wa near boxA1) = some .huskbad ∧ chk 4 3 0 (wa near { near with o := { x0 := 1 } }) = some .boxbad ∧
    chk 4 4 0 { w := some { boxFar with e := { x0 := 1 } } } = none ∧ chk 4 4 (10 * 2 ^ 16) { w := some { boxFar with e := { x0 := 1 } } } = some .taskbad ∧
    chk 4 4 0 { w := some boxFar } = some .boxbad ∧ chk 4 4 0 { w := some { boxA1 with e := { x0 := 1 } } } = some .huskbad ∧
    chk 4 5 (2 ^ 128) {} = some .taskbad ∧ chk 4 6 0 {} = none ∧ chk 4 6 (2 ^ 147 + 2 ^ 146 + 2 ^ 145 + 2 ^ 144) {} = some .taskbad ∧
    chk 4 7 0 { w := some near, a := some boxA1, b := some near, c := some near } = some .boxbad ∧
    chk 4 8 0 (wa near boxA1) = some .huskbad ∧ chk 4 8 (7 * 2 ^ 160) (wa near boxA1) = some .taskbad ∧
    chk 4 8 0 (wa boxA1 near) = none ∧ chk 4 8 0 (wa near { boxA1 with e := { x0 := 7 } }) = some .boxbad ∧
    chk 4 9 0 (wa boxFar boxA1) = none ∧ chk 4 9 (2 ^ 192) (wa boxFar boxA1) = some .taskbad ∧
    chk 4 9 0 (wa { boxFar with e := { x0 := 7 } } boxA1) = some .boxbad ∧ chk 4 9 0 (wa boxFar boxFar) = some .huskbad := by
  decide +kernel

/-- A record that reads husk 1023 runs in slot 0; one that writes it enters. -/
def reader : Entry := boxed (entryOf 3 1) (some { hid := 1, e := { x0 := 8 } }) (some boxA1) none none
def writer : Entry := boxed (entryOf 1 1) (some boxA1) none none none
def window (s : State) : State := withEntry reader { s with sys := { s.sys with rnpool := 256 } }

theorem witness_enteredRecord_renames : let s := window three
    trackedW writer = some boxA1 ∧ boxA1.acc = false ∧ hkKind (getHusk s boxA1.hid) = 0 ∧
      readEdges s (trackedW writer) reader = [{ kind := .read, slot := 0 }] ∧
      (∀ x ∈ s.thatch.entries, ∀ v, trackedW x = some v → overlap s boxA1 v = false) ∧ s.thatch.dir.length < 32 ∧
      localCount s + 2 ≤ 56 ∧ (poolFind s ((boxBytes s boxA1 + 63) / 64 * 64)).isSome = true := by
  refine ⟨by decide, by decide, by decide, by decide +kernel, ?_, by decide, by decide, by decide +kernel⟩
  intro x hx v hv
  simp only [window, withEntry, List.mem_singleton] at hx
  subst hx
  cases hv
  decide +kernel
/-- Behind it the home box is in the directory, open. -/
def renamed : State := enter writer 2 (window three)
theorem witness_enteredRecord_redirect : (renamed.thatch.dir.map DirEntry.isOpen) = [true] ∧ renamed.thatch.entries.length = 3 ∧
    (renamed.thatch.dir.map (fun d => insideBox renamed boxA1 d.home)) = [true] ∧ (window three).thatch.dir = [] := by decide +kernel
theorem witness_enteredRecord_pool : (poolFind (window three) 64).isSome = true ∧
    poolFind { window three with sys := { (window three).sys with rnpool := 0 } } 64 = none := by decide +kernel
/-- What is released and what may start. -/
theorem witness_enteredRecord_start : let e := { entryOf 0 4 with state := .ready }; let s := withEntry e base
    mayRelease base { e with state := .pending } = true ∧ e ∈ s.thatch.entries ∧ canStart s e = true ∧ isNext s e = true ∧
      findEntry s 0 = some e ∧ s.pkg.shut = false ∧ recTask e.record = some .mz ∧ Task.mz ≠ .mmq ∧
      isNext s { e with state := .running } = false ∧ { e with fold := true }.fold = true ∧
      recTask (entryOf 0 2).record = some .mmq ∧ (entryOf 0 2).quarter = none ∧ wireHeld s = false ∧ s.thatch.partnersStart = true ∧
      { s.thatch with partnersStart := false }.partnersStart = false := by decide +kernel
theorem witness_enteredRecord_buffers : let e := { reader with state := .ready, record := reader.record ||| (1#256 <<< 11) }
    let s := withEntry e (window three)
    recRst e.record = true ∧ e.fold = false ∧ (trackedW e).isSome = true ∧ findEntry s 0 = some e ∧
      ((startEntry e s).thatch.entries.map (fun x => x.priv.isSome)) = [true] ∧
      (let q : Entry := { entryOf 3 1 with slot := 1, state := .ready }
       let h : Entry := { reader with state := .ready, record := reader.record ||| (1#256 <<< 12) }
       let u := { s with thatch := { s.thatch with entries := [h, q] } }
       recPri h.record = true ∧ recPri q.record = false ∧ q ∈ u.thatch.entries ∧
         u.thatch.entries.Pairwise (fun a b => a.slot ≠ b.slot)) := by decide +kernel

/-- The last unit of a record: restartable or not, ahead, draining, or with a residue mismatch. -/
theorem witness_taskProgress_ends : let w : Work := { units := [{ step := 1 }] }; let e := entryOf 0 4
    let r := { e with record := recForceRst e.record }
    let bad : Work := { w with cause := some { cause := .residue } }
    findEntry (withEntry e base) e.slot = some e ∧ w.units.length ≤ 1 ∧ e.fold = false ∧ w.cause = none ∧ w.waits = false ∧
      packetsOf (w.units.flatMap Portion.effects) = [] ∧ recRst e.record = false ∧ recRst r.record = true ∧
      { r with ahead := true }.ahead = true ∧ e.ahead = false ∧ e.owed = false ∧ e.acks = 0 ∧ e.waiting = [] ∧
      drains (w.units.flatMap Portion.effects) = false ∧ drains [.mem { addr := 0, data := 0 }] = true ∧
      recTask (entryOf 3 0x0A).record = some .cpypg ∧ recTask e.record ≠ some .ckpt ∧ trackedW e = none ∧
      bad.cause = some { cause := .residue } ∧ entryEng e ≠ .f ∧ e.rerun = false ∧ { e with rerun := true }.rerun = true := by decide
/-- Values of the numbers that the statement is about. -/
theorem witness_specialRegisters_fields : (∀ k ∈ [0x00, 0x22, 0x23, 0x24], (readSys base k).isSome = true) ∧
    (readSys (writeSys 0x17 5 base) 0x17) = some 1000 ∧ readSys (writeSys 0x25 0xFFFFFFFF base) 0x25 = some 1000000000 := by decide
theorem witness_levelRises_step : let s := deferring base
    s.sys.pl = false ∧ (settle s).sys.pl = true ∧ s.agenda = [] ∧ (after (step s)).sys.pl = true ∧ ∃ t, step s = .next t :=
  ⟨by decide, by decide +kernel, by decide, by decide +kernel, _, rfl⟩
/-- The trace is on, with the smallest ring, and loop 1 snapshots at its exit. -/
def exiting : State := { leaving with prof := { leaving.prof with busy := false } }
theorem witness_strandSystem_trace : RingFits tracing ∧ RingFits exiting ∧ exiting.sys.traceb.getLsbD 63 = true ∧
    exiting.sys.traceb.getLsbD (56 + 1) = true ∧ exiting.sys.spec = false ∧ exiting.prof.busy = false ∧ leaving.prof.busy = true ∧
    base.sys.traceb.getLsbD 63 = false ∧ (Fin.ofNat 4 exiting.strand.xstat.nest.toNat : LoopId) = 1 ∧
    meetsCopy (copying yielding) (BitVec.ofNat 64 (2 ^ 63 + 0)) 8 = true ∧ meetsCopy yielding (BitVec.ofNat 64 (2 ^ 63 + 0x5FFFF8)) 8 = false := by
  unfold RingFits; decide
theorem witness_strandEvents_ring : RingFits ({ tracing with prof := { tracing.prof with queued := [{ kind := 1, tag := 0, dw3 := 0, dw4 := 0 }] } } : State) := by
  unfold RingFits; decide
theorem witness_trapTaken_view : viewOn viewing = true ∧ RingFits viewing ∧ viewing.thatch.entries.length ≤ 64 := by
  unfold RingFits; decide

/-- The linear table of R24's example. -/
def linear : List Word := (List.range 16).map (fun j => BitVec.ofNat 64 (8 * j + 2 ^ 8 * (128 * j) + 2 ^ 20 * 256))
theorem witness_vectorTasks_numbers : (Fmt.f32, 24, 32, (-126 : Int), (127 : Int)) ∈ floatShapes ∧ (Fmt.f8, 4, 8, (-6 : Int), (8 : Int)) ∈ floatShapes ∧
    (Fmt.s32, 32, (-2 ^ 31 : Int), (2 ^ 31 - 1 : Int)) ∈ intShapes ∧ (127 : Int) < 128 + (Nat.log2 1 : Int) ∧ 2 ^ 26 ≤ 2 ^ 26 ∧
    tabValid linear = true ∧ 2 ^ 2 < [0, 0, 0, 0, 0, 0].length ∧ [0, 0, 0, 0, 0, 0].length ≤ 2 ^ (2 + 1) := by decide +kernel
/-- R24's example: 0.2 is 13421773 x 2^-26, to within its format; its code is 13, with NX; and code 13 is 208 x 2^-10. -/
theorem test_quantise : c8Quant linear 0 0 (.fin false 13421773 (-26)) = (13, flagNX) ∧
    c8Value linear 0 13 = .fin false 208 (-10) := by decide +kernel
/-- R36's example: the element of the sum -1. -/
theorem witness_copyFabricTasks_sum : let a : Acc := { ra := 4092, rb := 4094, rc := 4095, rk := 250, empty := false }
    (-34326190080 : Int) < -1 ∧ (-1 : Int) ≤ 34326190080 ∧ (a.ra.toNat : Int) = -1 % 4093 ∧ (a.rb.toNat : Int) = -1 % 4095 ∧
      (a.rc.toNat : Int) = -1 % 4096 ∧ a.po = false ∧ a.empty = false ∧ (a.rk.toNat : Int) = -1 % 251 ∧
      ({ a with po := true } : Acc).po = true ∧ ({ a with empty := true } : Acc).empty = true ∧ 4093 ≤ (({ a with ra := 4093 } : Acc).ra).toNat := by decide
/-! ### Single instructions, with the value that the rule gives -/

/-- g3 after an instruction on g1 and g2. -/
def g3 (i : Instr) (x y : Word) : Word := getG (after (exec i (withG [x, y] base))) 3
/-- c3 after an instruction on g1 and g2. -/
def c3 (i : Instr) (x y : Word) : Bool := getC (after (exec i (withG [x, y] base))) 3

theorem test_add_wraps : g3 (.add 3 1 2) 0xFFFFFFFFFFFFFFFF 2 = 1 := by decide
theorem test_sub : g3 (.sub 3 1 2) 1 2 = 0xFFFFFFFFFFFFFFFF := by decide
theorem test_mulh_signed : g3 (.mulh 3 1 2) 0xFFFFFFFFFFFFFFFF 2 = 0xFFFFFFFFFFFFFFFF := by decide
theorem test_mulhn_unsigned : g3 (.mulhn 3 1 2) 0xFFFFFFFFFFFFFFFF 2 = 1 := by decide
theorem test_div_truncates : g3 (.div 3 1 2) 0xFFFFFFFFFFFFFFF9 2 = 0xFFFFFFFFFFFFFFFD := by decide
theorem test_rem_sign : g3 (.rem 3 1 2) 0xFFFFFFFFFFFFFFF9 2 = 0xFFFFFFFFFFFFFFFF := by decide
theorem test_div_zero : g3 (.div 3 1 2) 7 0 = 0xFFFFFFFFFFFFFFFF ∧ g3 (.rem 3 1 2) 7 0 = 7 := by decide
theorem test_div_overflow : g3 (.div 3 1 2) 0x8000000000000000 0xFFFFFFFFFFFFFFFF = 0x8000000000000000 ∧
    g3 (.rem 3 1 2) 0x8000000000000000 0xFFFFFFFFFFFFFFFF = 0 := by decide
theorem test_andn : g3 (.andn 3 1 2) 0xF0 0x30 = 0xC0 := by decide
theorem test_shift_amount : g3 (.sll 3 1 2) 1 65 = 2 ∧ g3 (.sra 3 1 2) 0x8000000000000000 63 = 0xFFFFFFFFFFFFFFFF := by decide
theorem test_rotate : g3 (.rol 3 1 2) 0x8000000000000001 1 = 3 ∧ g3 (.ror 3 1 2) 3 1 = 0x8000000000000001 := by decide
theorem test_min_signed : g3 (.min 3 1 2) 0xFFFFFFFFFFFFFFFF 1 = 0xFFFFFFFFFFFFFFFF ∧
    g3 (.minn 3 1 2) 0xFFFFFFFFFFFFFFFF 1 = 1 := by decide
theorem test_counts : g3 (.clz 3 1) 1 0 = 63 ∧ g3 (.ctz 3 1) 0 0 = 64 ∧ g3 (.popc 3 1) 0xF0F 0 = 8 ∧
    g3 (.bswap 3 1) 0x0102030405060708 0 = 0x0807060504030201 := by decide
theorem test_clmul : g3 (.clmul 3 1 2) 3 3 = 5 ∧ g3 (.clmulh 3 1 2) 0x8000000000000000 2 = 1 := by decide
theorem test_addw_sign : g3 (.addw 3 1 2) 0x7FFFFFFF 1 = 0xFFFFFFFF80000000 := by decide
theorem test_addi_sign : g3 (.addi 3 1 0x3FFF) 1 0 = 0 ∧ g3 (.andi 3 1 0x2000) 0xFFFFFFFFFFFFFFFF 0 = 0xFFFFFFFFFFFFE000 := by decide
theorem test_lui_sign : g3 (.lui 3 0x80000) 0 0 = 0xFFFFFFFF80000000 ∧ g3 (.lih 3 0xFFFFF) 0 0 = 0xFFFFF00000000000 := by decide
theorem test_bfx : g3 (.bfx 3 1 true 4 3) 0x80 0 = 0xFFFFFFFFFFFFFFF8 ∧ g3 (.bfx 3 1 false 4 3) 0x80 0 = 8 := by decide
theorem test_cmp : c3 (.cmp 3 .lt 1 2) 0xFFFFFFFFFFFFFFFF 0 = true ∧ c3 (.cmp 3 .ltn 1 2) 0xFFFFFFFFFFFFFFFF 0 = false ∧
    c3 (.cmp 3 .bs 1 2) 8 67 = true := by decide
theorem test_sel : g3 (.sel 3 1 2 false 0) 7 9 = 7 ∧ g3 (.sel 3 1 2 true 0) 7 9 = 9 := by decide
theorem test_g0_discards : getG (after (exec (.addi 0 1 5) base)) 0 = 0 ∧ getC (after (exec (.cand 0 1 1) base)) 0 = true := by decide

theorem test_loop_back : (after (exec (.addi 1 1 1) (inLoop 2 4 base))).strand.pc = 10 ∧
    (after (exec (.addi 1 1 1) (inLoop 3 4 base))).strand.pc = 17 := by decide
theorem test_loop_zero : (after (exec (.loop 0 4 0) base)).strand.pc = 21 ∧ (after (exec (.loop 0 4 1) base)).strand.pc = 17 := by
  decide
theorem test_branch_slot : (after (exec (.addi 1 1 1) (inSlot .xfer base))).strand.pc = 40 := by decide
theorem test_call_pushes : (after (exec (.call 0) base)).strand.ras = [18] := by decide
theorem test_cqpush_full : (after (exec (.cqpush 1) (withCq 64 base))).strand.xstat.cqo = true := by decide
theorem test_cqpop : getG (after (exec (.cqpop 3) (withCq 1 base))) 3 = 9 := by decide

theorem test_load_sign : ((after (exec (.ldb 3 1 0) (withG [8] (withMemory base)))).strand.loads.map Load.value) =
    [0xFFFFFFFFFFFFFF80] := by decide
theorem test_store_last_byte : byteAt (after (exec (.stb 2 1 0) (withG [sp 0x5FFFFF, 0x1FE] base))).store.spad 0x5FFFFF = 0xFE := by
  decide
theorem test_store_beyond : (after (exec (.stb 2 1 0) (withG [sp 0x600000, 1] base))).sys.cause.code = causeCode .seg := by decide
theorem test_cas_unequal : let t := after (exec (.atomCas 3 1 2 false .core) (withG [sp 0, 5, 7] base))
    byteAt t.store.spad 0 = 0 ∧ t.strand.loads.map Load.value = [0] := by decide
theorem test_spill : getSpill (after (exec (.spl 1 511) (withG [9] base))) 511 = 9 := by decide
theorem test_sem_wraps : getSem (after (exec (.semadd 0 1) (withG [0xFFFFFFFF]
    { base with store := { base.store with sems := [(0, 2)] } }))) 0 = 1 := by decide
theorem test_semset : getSem (after (exec (.semset 0 1) (withG [5] base))) 0 = 5 := by decide

theorem test_trap_entry : let t := after (exec (.trap 5) base)
    t.strand.pc = 0 ∧ t.sys.epc = 16 ∧ t.sys.cause.info = 5 ∧ t.sys.cause.code = 0x17 ∧ t.sys.pl = true ∧ t.sys.th = true := by
  decide
theorem test_eret : let t := after (exec .eret { base with sys := { base.sys with pl := true, th := true, epc := 99 } })
    t.strand.pc = 99 ∧ t.sys.pl = false ∧ t.sys.th = false := by decide
theorem test_privilege : (after (exec .eret base)).sys.cause.code = causeCode .priv := by decide
theorem test_bxh : (getBox (after (exec (.bxh 1 0 9) (withHusk 9 { d0 := 0x8000, d1 := 8, d2 := 4 } base))) 1).e.x0 = 8 := by decide

/-- Bank 0 with an element that M.MZ clears to RQ zero with the reset tag. -/
theorem test_mz : let e := { entryOf 0 4 with record := mz, boxes := { w := some { acc := true, e := { x0 := 2, x1 := 1, x2 := 1 } } } }
    (after (exec (.mMz 0 9) { withEntry e base with store := { base.store with acc := [(0, { ra := 3, empty := false })] } })).store.acc = [] := by
  decide
/-- V.ADD of two FP32 ones is two. -/
theorem test_vadd : let b (o : Nat) : RBox := { hid := 1023, o := { x0 := o }, e := { x0 := 1 } }
    let e := { entryOf 1 1 with boxes := { w := some (b 2), a := some (b 0), b := some (b 1) } }
    let s := { withEntry e (withHusk 1023 { d0 := 0x8000, d1 := 8, d2 := 1 } base) with
      store := { (withHusk 1023 { d0 := 0x8000, d1 := 8, d2 := 1 } base).store with spad := [(2, 0x80), (3, 0x3F), (6, 0x80), (7, 0x3F)] } }
    readLe (after (exec (.vAdd 0 9) s)).store.spad 8 4 = 0x40000000 := by decide



theorem test_post_enters : let t := after (exec (.post mz) base)
    t.thatch.entries.length = 1 ∧ tkc t = 1 ∧ t.strand.pc = 25 := by decide
/-- R24: a zero has code 0 whatever the rounding mode, also where decode(1) = 0. -/
theorem test_c8_zero : [0, 1, 2, 3].all (fun m => c8Quant (List.replicate 16 0) 0 m (.fin false 0 0) == (0, 0)) = true := by decide
/-- R319: a CTRL flit has one valid payload byte. -/
theorem test_ctrl_length : (ctrlFlit upLink true).extractLsb' 32 8 = 1 ∧ flitNak (ctrlFlit upLink true) = true := by decide +kernel
/-- R324, R298: the fields at their bits. -/
theorem test_link_word : linkWord { upLink with state := .retired, peer := 0xFFF, rtcnt := 255, bkt := 8, khold := true } =
    0x0000FF8400040FFF := by decide
theorem test_faq_words : faqWords { kind := 5, core := 0x1FF, pa := 0x40, time := 7 } = (0xD1FF000000000040, 7) := by decide
/-- R288: a home one link down is reached by that link (source 13); only one two links away takes the increasing direction (12). -/
theorem test_ring_direction : coreSource base 0 (6 * 2 ^ 36) = 13 ∧ coreSource base 0 (2 * 2 ^ 36) = 12 ∧
    coreSource base 0 (4 * 2 ^ 36) = 12 := by decide
/-- R249: a loaded EMPTY bit gives RQ zero, also beside PO. -/
theorem test_accl_empty : accOfBits 0xFFFFFFFFFFF (2 ^ 32 + 2 ^ 31) = { po := true, empty := false } := by decide
/-- R318 step 7: another core's array that fails its self-test. -/
theorem test_bring_up_others : let s := { State.reset with pkg := { State.reset.pkg with broughtUp := false } }
    let t := after (exec (.powerOn { badOthers := [(1, 2)] }) s)
    t.pkg.qf = true ∧ t.pkg.repl = true ∧ tget 0 t.pkg.fencemap 1 = 2 ∧ t.thatch.partnersReduced = true ∧ t.store.fenced = 0 := by
  decide +kernel
/-- R335: a flit of VC 2 does not wait behind one of VC 0. -/
theorem test_vc_buffers : let l := { upLink with queue := [flit true, { flit true with vc := 2 }] }
    ((after (exec (.flitTransmit ⟨0, 2⟩) { base with links := base.links.set 0 l })).links[(0 : Fin 24)]).queue = [flit true] := by
  decide +kernel
/-- R306: a fetch whose home cannot be reached. -/
theorem test_fetch_owner : let t := after (step (cutOff (inlinePost 16)))
    t.sys.cause.code = causeCode .owner ∧ t.sys.faddr = 16 := by decide +kernel
/-- R136: a collective branch with a known result is one again behind the ERET, and its slot takes no asynchronous cause. -/
theorem test_eret_cbr : let s := inSlot .cbrKnown base
    let t := after (exec .eret (trapEntry { cause := .seg } false none s))
    t.strand.pend = some { kind := .cbrKnown, taken := true, target := 40, fall := 40 } ∧ atBoundary t = false := by decide +kernel
/-- R340: the high half of IMM64 of an F.AMO over 32-bit elements is TASKBAD, in whatever format they are. -/
theorem test_amo_high : let b : Boxes := { w := some { hid := 1023, e := { x0 := 1 } } }
    fabricTaskBad .amo (task 4 4 ||| (1#256 <<< 160)) b (withHusk 1023 { d0 := 0x8000, d1 := 8, d2 := 4 } base) = true := by decide
end Sys2Proof.Tests
end

section
/-! Access to the strand's registers and condition bits (spec/03_encoding.md R71): what a read returns after a write. -/

namespace Sys2Proof.Machine

@[simp] theorem getC_setC_same (s : State) (n : Cond) (b : Bool) (h : n ≠ 0) : getC (setC s n b) n = b := by
  simp [getC_setC, h]

@[simp] theorem getC_setC_ne (s : State) (n r : Cond) (b : Bool) (h : r ≠ n) : getC (setC s n b) r = getC s r := by
  rw [getC_setC, if_neg h]
  by_cases hr : r = 0
  · rw [if_pos hr, hr, getC_zero]
  · rw [if_neg hr]

/-- Read after write, for a register other than g0. -/
theorem getG_setG_of_ne_zero (s : State) (n r : Reg) (v : Word) (hn : n ≠ 0) :
    getG (setG s n v) r = if r = n then v else getG s r := by
  split
  case isTrue same => rw [same, getG_setG_same s n v hn]
  case isFalse other => exact getG_setG_ne s n r v other

/-- Read after write, for a condition bit other than c0. -/
theorem getC_setC_of_ne_zero (s : State) (n r : Cond) (b : Bool) (hn : n ≠ 0) :
    getC (setC s n b) r = if r = n then b else getC s r := by
  split
  case isTrue same => rw [same, getC_setC_same s n b hn]
  case isFalse other => exact getC_setC_ne s n r b other

/-- Settles O10: the constants g0 and c0, the discarded writes to them, and read after write for every other register. -/
theorem registerAccess : Obligations.RegisterAccess :=
  ⟨fun s => ⟨getG_zero s, getC_zero s⟩, fun s v b => ⟨setG_zero s v, setC_zero s b⟩, getG_setG_of_ne_zero, getC_setC_of_ne_zero⟩

end Sys2Proof.Machine
end

section
/-! The fences and WAITC (spec/04_strand.md R94, spec/06_strand_memory_system.md R129): instructions that stall
issue until a condition on the state holds, and then complete. -/

namespace Sys2Proof.Machine

/-! ### What each waits for -/

theorem exec_fenceSc (sc : Scope) (s : State) : exec (.fenceSc sc) s = fence (releaseReady sc) s := rfl

theorem exec_fenceRel (sc : Scope) (s : State) : exec (.fenceRel sc) s = fence (releaseReady sc) s := rfl

theorem exec_fenceAcq (sc : Scope) (s : State) : exec (.fenceAcq sc) s = fence (fun s => ldc s == 0) s := rfl

theorem exec_fenceRq (s : State) : exec .fenceRq s = fence (fun s => s.mem.replay.isEmpty) s := rfl

theorem exec_fencePip (s : State) :
    exec .fencePip s = fence (fun s => !s.fab.pips.any (fun p => p.2.state == .inflight)) s := rfl

theorem exec_waitc (t : BitVec 6) (l st cp : BitVec 4) (s : State) : exec (.waitc t l st cp) s =
    issue [] (t != 63) 1 (fun s => if waitcHolds t l st cp s then .done s else .stall s) s := rfl

/-! ### The conditions -/

/-- Every earlier access is performed, at scope fabric the fabric writes too (R129). -/
theorem releaseReady_iff (sc : Scope) (s : State) : releaseReady sc s = true ↔
    s.strand.loads = [] ∧ stc s = 0 ∧ (sc = .fabric → s.thatch.entries.any fabricWrites = false) := by
  by_cases h : sc = .fabric <;> simp [releaseReady, ldc, h, and_assoc]

theorem ldc_beq_zero_iff (s : State) : (ldc s == 0) = true ↔ s.strand.loads = [] := by
  simp [ldc]

theorem noPipInflight_iff (s : State) :
    (!s.fab.pips.any (fun p => p.2.state == .inflight)) = true ↔ ∀ p ∈ s.fab.pips, p.2.state ≠ .inflight := by
  simp

/-- A field bounds its count, but for its top value (R94). -/
theorem countOk_iff {w : Nat} (field top : BitVec w) (count : Nat) :
    countOk field.toNat top.toNat count = true ↔ field = top ∨ count ≤ field.toNat := by
  simp [countOk, BitVec.toNat_inj]

/-- Every count within its bound at once (R94). -/
theorem waitcHolds_iff (t : BitVec 6) (l st cp : BitVec 4) (s : State) : waitcHolds t l st cp s = true ↔
    (t = 63 ∨ tkc s ≤ t.toNat) ∧ (l = 15 ∨ ldc s ≤ l.toNat) ∧ (st = 15 ∨ stc s ≤ st.toNat) ∧ (cp = 15 ∨ cpc s ≤ cp.toNat) := by
  rw [← countOk_iff t 63, ← countOk_iff l 15, ← countOk_iff st 15, ← countOk_iff cp 15]
  simp [waitcHolds, and_assoc]

/-! ### Waiting -/

/-- An instruction that acts by testing a condition completes if it holds, and else stalls. -/
theorem exec_waits {i : Instr} {regs : List Reg} {stops : Bool} {size : BitVec 32} {s : State} {cond : Prop} {test : State → Bool}
    (arm : exec i s = issue regs stops size (fun s => if test s then .done s else .stall s) s)
    (ready : Ready regs stops s) (htest : test s = true ↔ cond) :
    (cond → exec i s = .next (finish size s (.done s))) ∧ (¬cond → exec i s = .next (stallAt s)) :=
  ⟨fun holds => arm.trans (issue_done ready (if_pos (htest.mpr holds))),
    fun fails => arm.trans (issue_stall ready (if_neg (mt htest.mp fails)))⟩

/-- Settles O33: each fence, and WAITC, acts by testing a condition that says what the statement asks. -/
theorem fenceResults : Obligations.FenceResults := by
  refine ⟨fun s sc ready => ⟨?sc, ?rel, ?acq, ?rq, ?pip⟩, fun s t l st cp ready => ?waitc⟩
  case sc => exact exec_waits (exec_fenceSc sc s) ready (releaseReady_iff sc s)
  case rel => exact exec_waits (exec_fenceRel sc s) ready (releaseReady_iff sc s)
  case acq => exact exec_waits (exec_fenceAcq sc s) ready (ldc_beq_zero_iff s)
  case rq => exact exec_waits (exec_fenceRq s) ready List.isEmpty_iff
  case pip => exact exec_waits (exec_fencePip s) ready (noPipInflight_iff s)
  case waitc => exact exec_waits (exec_waitc t l st cp s) ready (waitcHolds_iff t l st cp s)

end Sys2Proof.Machine
end

section
/-! Division (spec/05_strand_integer_control.md R100): the value of each word for every pair of operands, and FLAGS as they were. -/

namespace Sys2Proof.Machine

/-! ### Instructions that only complete -/

/-- An instruction that completes whenever it acts leaves what it wrote, or what it found, and moves on. -/
theorem moves_of_issue_done {regs : List Reg} {stops : Bool} {size : BitVec 32} {f : State → State} {s t : State}
    (h : issue regs stops size (fun s => .done (f s)) s = .next t) : Moves s t ∨ Moves (f s) t := by
  rcases issue_cases regs stops size (fun s => .done (f s)) s with ⟨-, acts⟩ | ⟨u, rests, moves⟩
  case inr =>
    cases rests.symm.trans h
    exact .inl moves
  case inl =>
    cases acts.symm.trans h
    rcases finish_done size s (f s) with moves | stalls
    · exact .inr moves
    · rw [stalls]; exact .inl (moves_of_stallAt s)

theorem Moves.flags {s t : State} (h : Moves s t) : t.sys.flags = s.sys.flags := by
  rw [← h.sys]

/-- A two-operand ALU word that is ready writes the value of its operation. -/
theorem alu2_ready (op : Word → Word → Word) {d a b : Reg} {s : State} (ready : Ready [d, a, b] false s) :
    alu2 op d a b s = .next (finish 1 s (.done (setG s d (op (getG s a) (getG s b))))) :=
  issue_done ready rfl

/-- A two-operand ALU word leaves FLAGS as they were, whatever becomes of it. -/
theorem alu2_flags {op : Word → Word → Word} {d a b : Reg} {s t : State} (h : alu2 op d a b s = .next t) :
    t.sys.flags = s.sys.flags := by
  rcases moves_of_issue_done h with moves | moves
  · exact moves.flags
  · rw [moves.flags, setG_sys]

theorem exec_div (d a b : Reg) (s : State) : exec (.div d a b) s = alu2 divS d a b s := rfl

theorem exec_rem (d a b : Reg) (s : State) : exec (.rem d a b) s = alu2 remS d a b s := rfl

theorem exec_divn (d a b : Reg) (s : State) : exec (.divn d a b) s = alu2 divU d a b s := rfl

theorem exec_remn (d a b : Reg) (s : State) : exec (.remn d a b) s = alu2 remU d a b s := rfl

/-! ### The quotient and the remainder -/

theorem divS_zero (x : Word) : divS x 0 = BitVec.allOnes 64 := if_pos rfl

theorem remS_zero (x : Word) : remS x 0 = x := if_pos rfl

theorem divU_zero (x : Word) : divU x 0 = BitVec.allOnes 64 := if_pos rfl

theorem remU_zero (x : Word) : remU x 0 = x := if_pos rfl

theorem divS_eq_sdiv (x : Word) {y : Word} (hy : y ≠ 0) : divS x y = x.sdiv y :=
  BitVec.eq_of_toInt_eq (by rw [divS, if_neg hy, BitVec.toInt_ofInt, BitVec.toInt_sdiv])

theorem remS_eq_srem (x : Word) {y : Word} (hy : y ≠ 0) : remS x y = x.srem y := by
  rw [remS, if_neg hy, ← BitVec.toInt_srem, BitVec.ofInt_toInt]

theorem eq_intMin_iff (x : Word) : x = BitVec.intMin 64 ↔ x.toInt = -(2 ^ 63) :=
  BitVec.toInt_inj.symm

theorem eq_neg_one_iff (y : Word) : y = -1 ↔ y.toInt = -1 :=
  BitVec.toInt_inj.symm

/-- The quotient that no word holds wraps to the dividend. -/
theorem divS_overflow : divS (BitVec.intMin 64) (-1) = BitVec.intMin 64 := by
  rw [divS_eq_sdiv _ (by decide)]
  exact BitVec.intMin_sdiv_neg_one

theorem remS_neg_one (x : Word) : remS x (-1) = 0 := by
  have divides : (-1 : Word).toInt ∣ x.toInt := Int.neg_dvd.mpr (Int.one_dvd _)
  rw [remS_eq_srem x (by decide)]
  exact BitVec.srem_zero_of_dvd divides

/-- The signed quotient is truncated toward zero. -/
theorem toInt_divS {x y : Word} (hy : y ≠ 0) (hxy : ¬(x.toInt = -(2 ^ 63) ∧ y.toInt = -1)) :
    (divS x y).toInt = x.toInt.tdiv y.toInt := by
  rw [← eq_intMin_iff, ← eq_neg_one_iff, not_and_or] at hxy
  rw [divS_eq_sdiv x hy]
  exact BitVec.toInt_sdiv_of_ne_or_ne x y hxy

/-- The signed remainder is what the truncated quotient leaves. -/
theorem toInt_remS (x : Word) {y : Word} (hy : y ≠ 0) :
    (remS x y).toInt = x.toInt - x.toInt.tdiv y.toInt * y.toInt := by
  rw [remS_eq_srem x hy, BitVec.toInt_srem, Int.tmod_def, Int.mul_comm]

theorem toNat_divU (x : Word) {y : Word} (hy : y ≠ 0) : (divU x y).toNat = x.toNat / y.toNat := by
  rw [divU, if_neg hy, BitVec.toNat_udiv]

theorem toNat_remU (x : Word) {y : Word} (hy : y ≠ 0) :
    (remU x y).toNat = x.toNat - x.toNat / y.toNat * y.toNat := by
  rw [remU, if_neg hy, BitVec.toNat_umod, Nat.mod_eq_sub_div_mul]

/-- Settles O14: by the cases of R100's table, each a fact about the quotient and the remainder; FLAGS by the frame of the
ALU words. -/
theorem divisionResults : Obligations.DivisionResults := by
  intro s d a b ready
  dsimp only
  rw [exec_div, exec_rem, exec_divn, exec_remn, alu2_ready divS ready, alu2_ready remS ready, alu2_ready divU ready,
    alu2_ready remU ready]
  generalize getG s a = x, getG s b = y
  refine ⟨?byZero, ?overflow, ?signed, ?unsigned, ?flags⟩
  case byZero =>
    rintro rfl
    rw [divS_zero, remS_zero, divU_zero, remU_zero]
    exact ⟨rfl, rfl, rfl, rfl⟩
  case overflow =>
    intro hx hy
    rw [← eq_intMin_iff] at hx
    rw [← eq_neg_one_iff] at hy
    rw [hx, hy, divS_overflow, remS_neg_one]
    exact ⟨rfl, rfl⟩
  case signed =>
    intro hy hxy
    have quotient := toInt_divS hy hxy
    exact ⟨divS x y, remS x y, rfl, rfl, quotient, by rw [quotient, toInt_remS x hy]⟩
  case unsigned =>
    intro hy
    have quotient := toNat_divU x hy
    exact ⟨divU x y, remU x y, rfl, rfl, quotient, by rw [quotient, toNat_remU x hy]⟩
  case flags =>
    intro i hi t next
    rw [List.mem_cons, List.mem_cons, List.mem_cons, List.mem_singleton] at hi
    obtain rfl | rfl | rfl | rfl := hi
    · exact alu2_flags (op := divS) next
    · exact alu2_flags (op := remS) next
    · exact alu2_flags (op := divU) next
    · exact alu2_flags (op := remU) next

end Sys2Proof.Machine
end

section
/-! The double trap (spec/06_strand_memory_system.md R139): what the end of a launch in error leaves in the strand and the system
registers, and that no asynchronous cause is taken while STATUS.TH = 1. -/

namespace Sys2Proof.Machine

/-! ### A hand-over that runs to its end (R308, R309) -/

/-- The strand no longer waits for its hand-over, if it did. -/
@[simp] theorem endHandOver_strand (s : State) : (endHandOver s).strand = { s.strand with ridgeWait := none } := by
  unfold endHandOver
  split
  case h_1 => rfl
  case h_2 noWait => rw [← noWait]

@[simp] theorem endHandOver_sys (s : State) : (endHandOver s).sys = s.sys := by
  unfold endHandOver
  split <;> rfl

@[simp] theorem endHandOver_completions (s : State) : (endHandOver s).pkg.completions = s.pkg.completions := by
  unfold endHandOver
  split <;> rfl

/-! ### The end of a launch (R317) -/

@[simp] theorem endLaunch_strand (r : Run) (c : Completion) (s : State) : (endLaunch r c s).strand =
    { s.strand with run := r, stalled := false, asleep := false, loads := [], copies := [], ridgeWait := none } := by
  simp [endLaunch]

@[simp] theorem endLaunch_sys (r : Run) (c : Completion) (s : State) :
    (endLaunch r c s).sys = { s.sys with spec := false, pp := false } := by
  simp [endLaunch]

@[simp] theorem endLaunch_launch (r : Run) (c : Completion) (s : State) : (endLaunch r c s).pkg.launch = none := rfl

@[simp] theorem endLaunch_completions (r : Run) (c : Completion) (s : State) :
    (endLaunch r c s).pkg.completions = s.pkg.completions ++ [c] := by
  simp [endLaunch]

/-! ### The abort token of a group's member (R371) -/

@[simp] theorem abortGroup_strand (info : BitVec 32) (s : State) : (abortGroup info s).strand = s.strand := by
  unfold abortGroup
  split <;> rfl

@[simp] theorem abortGroup_sys (info : BitVec 32) (s : State) : (abortGroup info s).sys = s.sys := by
  unfold abortGroup
  split <;> rfl

@[simp] theorem abortGroup_pkg (info : BitVec 32) (s : State) : (abortGroup info s).pkg = s.pkg := by
  unfold abortGroup
  split <;> rfl

/-! ### The double trap (R139) -/

/-- CAUSE after a double trap: DBL and the new code, the other fields as the first trap left them. -/
def doubledCause (t : Trap) (s : State) : CauseReg := { s.sys.cause with dbl := true, code := causeCode t.cause }

theorem doubleTrap_strand (t : Trap) (s : State) : (doubleTrap t s).strand =
    { s.strand with run := .error, stalled := false, asleep := false, loads := [], copies := [], ridgeWait := none } := by
  simp [doubleTrap]

/-- Of the system registers only CAUSE and the state of a launch change. -/
theorem doubleTrap_sys (t : Trap) (s : State) :
    (doubleTrap t s).sys = { s.sys with cause := doubledCause t s, spec := false, pp := false } := by
  simp [doubleTrap, doubledCause]

theorem doubleTrap_launch (t : Trap) (s : State) : (doubleTrap t s).pkg.launch = none := by
  simp [doubleTrap]

theorem doubleTrap_completions (t : Trap) (s : State) : (doubleTrap t s).pkg.completions =
    s.pkg.completions ++ [.error (causeWord (doubledCause t s)) (s.sys.epc.setWidth 64) s.sys.tcut] := by
  simp [doubleTrap, doubledCause]

/-! ### Asynchronous causes behind a trap (R136, R139) -/

theorem nextCause_of_th {s : State} (th : s.sys.th = true) : nextCause s = none := by
  simp [nextCause, th]

theorem exec_asyncCauseTaken (s : State) : exec .asyncCauseTaken s = execAsyncCauseTaken s := rfl

/-- With no cause to take, all that is pending stays pending. -/
theorem exec_asyncCauseTaken_of_none {s : State} (noCause : nextCause s = none) : exec .asyncCauseTaken s = .next s := by
  rw [exec_asyncCauseTaken, execAsyncCauseTaken, noCause]

/-- Settles O47: a trap while STATUS.TH = 1 is a double trap, whose strand, system registers and completion are known field by
field, and no asynchronous cause is next. (The name `doubleTrap` is the model's operation.) -/
theorem doubleTrap_endsLaunch : Obligations.DoubleTrap := by
  intro t q s th u cause
  have entry : u = doubleTrap t s := trapEntry_double t false q s th
  have strand := doubleTrap_strand t s
  have sys := doubleTrap_sys t s
  have stays := nextCause_of_th th
  rw [entry, strand, sys]
  exact ⟨rfl, rfl, rfl, rfl, rfl, doubleTrap_launch t s, doubleTrap_completions t s, rfl, rfl, stays,
    exec_asyncCauseTaken_of_none stays⟩

end Sys2Proof.Machine
end

section
/-! The box instructions (spec/07_core.md R155, R156): what each answers of the operand v, and the refusals, which BXO, BXE and BXS
share. -/

namespace Sys2Proof.Machine

/-! ### A cause that no access met -/

/-- An instruction that is ready traps its cause, which leaves nothing else behind (R137). -/
theorem exec_traps {i : Instr} {regs : List Reg} {stops : Bool} {size : BitVec 32} {f : State → Res} {s : State} {c : Cause}
    (arm : exec i s = issue regs stops size f s) (ready : Ready regs stops s) (notBrk : c ≠ .brk) (notUe : c ≠ .ue)
    (refused : f s = .trap { cause := c }) (notAhead : s.sys.spec = false) :
    exec i s = .next (trapEntry { cause := c } false none s) := by
  rw [arm, issue_trap ready notAhead (viewWaits_other s notBrk) refused, consumedBy_other s notUe, walkedBy_none s rfl]

/-! ### BXH -/

/-- What BXH of the number `v` answers: a whole husk, an accumulator bank, or a refusal. -/
def nameHusk (x : Bx) (v : Nat) (s : State) : Res :=
  if v ≤ 1023 then
    if hkV (getHusk s v) then
      .done (setBox s x { bv := true, acc := false, hid := v, o := {}, e := hkWhole (getHusk s v), s := {} })
    else huskbad
  else if v = 1024 ∨ v = 1025 then .done (setBox s x (BoxReg.bank (v - 1024)))
  else boxbad

theorem exec_bxh (x : Bx) (a : Reg) (imm : BitVec 9) (s : State) :
    exec (.bxh x a imm) s = issue [a] false 1 (fun s => nameHusk x (boxV s a imm).toNat s) s := rfl

theorem nameHusk_valid {x : Bx} {v : Nat} {s : State} (isHusk : v ≤ 1023) (valid : hkV (getHusk s v) = true) : nameHusk x v s =
    .done (setBox s x { bv := true, acc := false, hid := v, o := {}, e := hkWhole (getHusk s v), s := {} }) := by
  rw [nameHusk, if_pos isHusk, if_pos valid]

theorem nameHusk_invalid {x : Bx} {v : Nat} {s : State} (isHusk : v ≤ 1023) (invalid : hkV (getHusk s v) = false) :
    nameHusk x v s = huskbad := by
  rw [nameHusk, if_pos isHusk, if_neg (ne_true_of_eq_false invalid)]

theorem nameHusk_bank {x : Bx} {v : Nat} {s : State} (isBank : v = 1024 ∨ v = 1025) :
    nameHusk x v s = .done (setBox s x (BoxReg.bank (v - 1024))) := by
  rw [nameHusk, if_neg (by omega), if_pos isBank]

theorem nameHusk_beyond {x : Bx} {v : Nat} {s : State} (beyond : 1025 < v) : nameHusk x v s = boxbad := by
  rw [nameHusk, if_neg (by omega), if_neg (by omega)]

/-! ### The rank of a box register -/

theorem hkRank_eq (h : Husk) : hkRank h = (h.d0.extractLsb' 4 2).toNat + 1 := by
  rw [hkRank, bitsOf, BitVec.extractLsb'_toNat, Nat.shiftRight_eq_div_pow]

theorem bregRank_acc {s : State} {b : BoxReg} (acc : b.acc = true) : bregRank s b = some 3 := if_pos acc

/-- Without ACC the rank is in the husk's first word, beside its V bit (R151). -/
theorem bregRank_husk {s : State} {b : BoxReg} (husk : b.acc = false) : bregRank s b =
    if (getHusk s b.hid).d0.getLsbD 15 = true then some (((getHusk s b.hid).d0.extractLsb' 4 2).toNat + 1) else none := by
  rw [bregRank, if_neg (ne_true_of_eq_false husk), hkRank_eq, hkV]

/-! ### One dimension of a box register: the checks of R156 in their order -/

section SetBoxDim

variable {x : Bx} {dim : BitVec 2} {ok : Bool} {f : BoxReg → BoxReg} {s : State} {r : Nat}

theorem setBoxDim_invalid (invalid : (getBox s x).bv = false) : setBoxDim x dim ok f s = boxbad := by
  simp [setBoxDim, invalid]

theorem setBoxDim_noRank (valid : (getBox s x).bv = true) (noRank : bregRank s (getBox s x) = none) :
    setBoxDim x dim ok f s = huskbad := by
  simp [setBoxDim, valid, noRank]

theorem setBoxDim_beyondRank (valid : (getBox s x).bv = true) (rank : bregRank s (getBox s x) = some r) (beyond : r ≤ dim.toNat) :
    setBoxDim x dim ok f s = boxbad := by
  simp [setBoxDim, valid, rank, beyond]

theorem setBoxDim_outOfRange (valid : (getBox s x).bv = true) (rank : bregRank s (getBox s x) = some r) (out : ok = false) :
    setBoxDim x dim ok f s = boxbad := by
  simp [setBoxDim, valid, rank, out]

theorem setBoxDim_done (valid : (getBox s x).bv = true) (rank : bregRank s (getBox s x) = some r) (below : dim.toNat < r)
    (inRange : ok = true) : setBoxDim x dim ok f s = .done (setBox s x (f (getBox s x))) := by
  simp [setBoxDim, valid, rank, inRange, Nat.not_le.mpr below]

end SetBoxDim

/-! ### BXO, BXE and BXS -/

/-- The range of an origin and of an extent. -/
def unsignedOk (v : Word) : Bool := decide (v.toNat ≤ 65535)

/-- The range of an origin step. -/
def signedOk (v : Word) : Bool := decide (-32768 ≤ v.toInt) && decide (v.toInt ≤ 32767)

theorem unsignedOk_iff (v : Word) : unsignedOk v = true ↔ v.toNat ≤ 65535 := decide_eq_true_iff

theorem unsignedOk_eq_false {v : Word} (out : 65535 < v.toNat) : unsignedOk v = false :=
  decide_eq_false (Nat.not_le.mpr out)

theorem signedOk_of_mem {v : Word} (low : -32768 ≤ v.toInt) (high : v.toInt ≤ 32767) : signedOk v = true := by
  simp [signedOk, low, high]

theorem signedOk_eq_false {v : Word} (out : v.toInt < -32768 ∨ 32767 < v.toInt) : signedOk v = false := by
  rw [signedOk, Bool.and_eq_false_iff, decide_eq_false_iff_not, decide_eq_false_iff_not]
  omega

/-- `i` sets dimension `dim` of box register `x` as `f` says, of an operand that `ok` admits. -/
def SetsDim (x : Bx) (dim : BitVec 2) (a : Reg) (imm : BitVec 9) (ok : Word → Bool) (f : Word → BoxReg → BoxReg) (i : Instr) : Prop :=
  ∀ s, exec i s = issue [a] false 1 (fun s => setBoxDim x dim (ok (boxV s a imm)) (f (boxV s a imm)) s) s

section SetsDim

variable (x : Bx) (dim : BitVec 2) (a : Reg) (imm : BitVec 9)

theorem bxo_setsDim : SetsDim x dim a imm unsignedOk (fun v b => { b with o := dput b.o dim.toNat v.toNat }) (.bxo x dim a imm) :=
  fun _ => rfl

theorem bxe_setsDim : SetsDim x dim a imm unsignedOk (fun v b => { b with e := dput b.e dim.toNat v.toNat }) (.bxe x dim a imm) :=
  fun _ => rfl

theorem bxs_setsDim : SetsDim x dim a imm signedOk (fun v b => { b with s := dput b.s dim.toNat (v.toInt % 65536).toNat })
    (.bxs x dim a imm) :=
  fun _ => rfl

theorem setsDim_of_mem {i : Instr} (isOne : i ∈ [Instr.bxo x dim a imm, .bxe x dim a imm, .bxs x dim a imm]) :
    ∃ ok f, SetsDim x dim a imm ok f i := by
  simp only [List.mem_cons, List.not_mem_nil, or_false] at isOne
  obtain rfl | rfl | rfl := isOne
  · exact ⟨_, _, bxo_setsDim x dim a imm⟩
  · exact ⟨_, _, bxe_setsDim x dim a imm⟩
  · exact ⟨_, _, bxs_setsDim x dim a imm⟩

end SetsDim

section SetsDim

variable {x : Bx} {dim : BitVec 2} {a : Reg} {imm : BitVec 9} {ok : Word → Bool} {f : Word → BoxReg → BoxReg} {i : Instr} {s : State}
  {r : Nat} (sets : SetsDim x dim a imm ok f i) (ready : Ready [a] false s)
include sets ready

theorem SetsDim.done (valid : (getBox s x).bv = true) (rank : bregRank s (getBox s x) = some r) (below : dim.toNat < r)
    (inRange : ok (boxV s a imm) = true) :
    exec i s = .next (finish 1 s (.done (setBox s x (f (boxV s a imm) (getBox s x))))) :=
  (sets s).trans (issue_done ready (setBoxDim_done valid rank below inRange))

theorem SetsDim.traps {c : Cause} (notBrk : c ≠ .brk) (notUe : c ≠ .ue)
    (refused : setBoxDim x dim (ok (boxV s a imm)) (f (boxV s a imm)) s = .trap { cause := c }) (notAhead : s.sys.spec = false) :
    exec i s = .next (trapEntry { cause := c } false none s) :=
  exec_traps (sets s) ready notBrk notUe refused notAhead

theorem SetsDim.outOfRange (valid : (getBox s x).bv = true) (rank : bregRank s (getBox s x) = some r)
    (out : ok (boxV s a imm) = false) (notAhead : s.sys.spec = false) :
    exec i s = .next (trapEntry { cause := .boxbad } false none s) :=
  sets.traps ready (by decide) (by decide) (setBoxDim_outOfRange valid rank out) notAhead

end SetsDim

/-! ### BXC and BXZ -/

theorem exec_bxc (x y : Bx) (s : State) :
    exec (.bxc x y) s = issue [] false 1 (fun s => .done (setBox s x (getBox s y))) s := rfl

theorem exec_bxz (x : Bx) (s : State) :
    exec (.bxz x) s = issue [] false 1 (fun s => .done (setBox s x { getBox s x with bv := false })) s := rfl

/-! ### R156 -/

/-- Settles O37: BXH by the ranges of v; BXO, BXE and BXS by the checks that they share, in their order, and then by the range of
each; the rank by ACC; the words of the examples by decoding them. -/
theorem boxResults : Obligations.BoxResults := by
  intro s x y dim a imm v b is traps
  refine ⟨fun ready => ⟨?husk, ?invalidHusk, ?bank, ?beyond, ?invalid, ?noRank, ?beyondRank, ?inRank⟩,
    bregRank_acc, bregRank_husk, by decide, fun ready => ⟨?copy, ?clear⟩⟩
  case copy => exact (exec_bxc x y s).trans (issue_done ready rfl)
  case clear => exact (exec_bxz x s).trans (issue_done ready rfl)
  case husk =>
    exact fun isHusk valid => (exec_bxh x a imm s).trans (issue_done ready (nameHusk_valid isHusk valid))
  case invalidHusk =>
    exact fun isHusk invalid => exec_traps (exec_bxh x a imm s) ready (by decide) (by decide) (nameHusk_invalid isHusk invalid)
  case bank =>
    exact fun isBank => (exec_bxh x a imm s).trans (issue_done ready (nameHusk_bank isBank))
  case beyond =>
    exact fun beyond => exec_traps (exec_bxh x a imm s) ready (by decide) (by decide) (nameHusk_beyond beyond)
  case invalid =>
    intro invalid i isOne
    obtain ⟨ok, f, sets⟩ := setsDim_of_mem x dim a imm isOne
    exact sets.traps ready (by decide) (by decide) (setBoxDim_invalid invalid)
  case noRank =>
    intro valid noRank i isOne
    obtain ⟨ok, f, sets⟩ := setsDim_of_mem x dim a imm isOne
    exact sets.traps ready (by decide) (by decide) (setBoxDim_noRank valid noRank)
  case beyondRank =>
    intro r valid rank beyond i isOne
    obtain ⟨ok, f, sets⟩ := setsDim_of_mem x dim a imm isOne
    exact sets.traps ready (by decide) (by decide) (setBoxDim_beyondRank valid rank beyond)
  case inRank =>
    intro r valid rank below
    have bxo := bxo_setsDim x dim a imm
    have bxe := bxe_setsDim x dim a imm
    have bxs := bxs_setsDim x dim a imm
    refine ⟨fun inRange => ?_, fun out => ?_, fun low high => ?_, fun out => ?_⟩
    · have admitted := (unsignedOk_iff v).mpr inRange
      exact ⟨bxo.done ready valid rank below admitted, bxe.done ready valid rank below admitted⟩
    · have refused := unsignedOk_eq_false out
      exact ⟨bxo.outOfRange ready valid rank refused, bxe.outOfRange ready valid rank refused⟩
    · exact bxs.done ready valid rank below (signedOk_of_mem low high)
    · exact bxs.outOfRange ready valid rank (signedOk_eq_false out)

end Sys2Proof.Machine
end

section
/-! Decoding and encoding (spec/03_encoding.md R39 to R64): the fields of each format, the decoder by its majors, and that each
undoes the other. -/

namespace Sys2Proof

/-! ### Fields -/

theorem fReg_eq_fld (w lo : Nat) : fReg w lo = Fin.ofNat 64 (fld w lo 6) := by simp [fReg, fld, Fin.ext_iff]

theorem fCond_eq_fld (w lo : Nat) : fCond w lo = Fin.ofNat 8 (fld w lo 3) := by simp [fCond, fld, Fin.ext_iff]

theorem fLoop_eq_fld (w lo : Nat) : fLoop w lo = Fin.ofNat 4 (fld w lo 2) := by simp [fLoop, fld, Fin.ext_iff]

theorem fBits_eq_fld (w lo n : Nat) : fBits w lo n = BitVec.ofNat n (fld w lo n) :=
  BitVec.eq_of_toNat_eq (by simp [fBits, fld])

@[simp] theorem toNat_beq_one (b : Bool) : (b.toNat == 1) = b := by cases b <;> rfl

@[simp] theorem cmpOfNat_code (cc : Cmp) : cmpOfNat cc.code = some cc := by cases cc <;> rfl

@[simp] theorem scopeOfNat_code (k : Scope) : scopeOfNat k.code = some k := by cases k <;> rfl

@[simp] theorem redOfNat_code (r : Red) : redOfNat r.code = some r := by cases r <;> rfl

@[simp] theorem needZero_zero (r : Except DecodeError Instr) : needZero 0 r = r := rfl

/-! ### The fields of a word of each format (R40) -/

section Formats

variable {w : Nat}

theorem encRR_fields {maj sub d a b : Nat} (enc : encRR maj sub d a b = w) (hmaj : maj < 64) (hd : d < 64) (ha : a < 64)
    (hb : b < 64) (hsub : sub < 256) :
    fld w 26 6 = maj ∧ fld w 20 6 = d ∧ fld w 14 6 = a ∧ fld w 8 6 = b ∧ fld w 0 8 = sub := by
  simp only [fld, ← enc, encRR]
  omega

theorem encRI_fields {maj d a imm : Nat} (enc : encRI maj d a imm = w) (hmaj : maj < 64) (hd : d < 64) (ha : a < 64)
    (himm : imm < 16384) :
    fld w 26 6 = maj ∧ fld w 20 6 = d ∧ fld w 14 6 = a ∧ fld w 0 14 = imm := by
  simp only [fld, ← enc, encRI]
  omega

theorem encSY_fields {maj op d a imm : Nat} (enc : encSY maj op d a imm = w) (hmaj : maj < 64) (hop : op < 64) (hd : d < 64)
    (ha : a < 64) (himm : imm < 256) :
    fld w 26 6 = maj ∧ fld w 20 6 = op ∧ fld w 14 6 = d ∧ fld w 8 6 = a ∧ fld w 0 8 = imm ∧ fld w 8 12 = d * 2 ^ 6 + a := by
  simp only [fld, ← enc, encSY]
  omega

theorem encXF_fields {kind t c n : Nat} (enc : encXF kind t c n = w) (ht : t < 8) (hc : c < 8) (hn : n < 2)
    (hkind : kind < 8) :
    fld w 26 6 = 0x11 ∧ fld w 23 3 = t ∧ fld w 20 3 = c ∧ fld w 19 1 = n ∧ fld w 16 3 = kind ∧ fld w 19 4 = 2 * c + n ∧
    fld w 0 16 = 0 := by
  simp only [fld, ← enc, encXF]
  omega

theorem encLP_fields {maj l src len cnt : Nat} (enc : encLP maj l src len cnt = w) (hmaj : maj < 64) (hl : l < 4)
    (hsrc : src < 4) (hlen : len < 1024) (hcnt : cnt < 4096) :
    fld w 26 6 = maj ∧ fld w 24 2 = l ∧ fld w 22 2 = src ∧ fld w 12 10 = len ∧ fld w 0 12 = cnt := by
  simp only [fld, ← enc, encLP]
  omega

theorem encSem_fields {op s g imm : Nat} (enc : encSem op s g imm = w) (hop : op < 8) (hs : s < 2048) (hg : g < 64)
    (himm : imm < 64) :
    fld w 26 6 = 0x25 ∧ fld w 23 3 = op ∧ fld w 12 11 = s ∧ fld w 6 6 = g ∧ fld w 0 6 = imm := by
  simp only [fld, ← enc, encSem]
  omega

theorem encBox_fields {op x dim a imm : Nat} (enc : encBox op x dim a imm = w) (hop : op < 8) (hx : x < 64) (hdim : dim < 4)
    (ha : a < 64) (himm : imm < 512) :
    fld w 26 6 = 0x28 ∧ fld w 23 3 = op ∧ fld w 17 6 = x ∧ fld w 15 2 = dim ∧ fld w 9 6 = a ∧ fld w 0 9 = imm ∧
    fld w 0 17 = dim * 2 ^ 15 + a * 2 ^ 9 + imm := by
  simp only [fld, ← enc, encBox]
  omega

theorem encEntry_fields {op k a b : Nat} (enc : encEntry op k a b = w) (hop : op < 4) (hk : k < 8) (ha : a < 64)
    (hb : b < 64) :
    fld w 26 6 = 0x2A ∧ fld w 24 2 = op ∧ fld w 21 3 = k ∧ fld w 14 6 = a ∧ fld w 8 6 = b ∧ fld w 20 4 = 2 * k ∧
    fld w 20 1 = 0 ∧ fld w 0 14 = b * 2 ^ 8 ∧ fld w 0 8 = 0 := by
  simp only [fld, ← enc, encEntry]
  omega

theorem encGrp_fields {op t c n r h : Nat} (enc : encGrp op t c n r h = w) (hop : op < 8) (ht : t < 8) (hc : c < 8)
    (hn : n < 2) (hr : r < 4) (hh : h < 2) :
    fld w 26 6 = 0x2B ∧ fld w 23 3 = op ∧ fld w 20 3 = t ∧ fld w 17 3 = c ∧ fld w 16 1 = n ∧ fld w 14 2 = r ∧ fld w 13 1 = h ∧
    fld w 0 14 = h * 2 ^ 13 ∧ fld w 0 13 = 0 := by
  simp only [fld, ← enc, encGrp]
  omega

/-- The low byte of an atomic (R55). -/
theorem encAtom_fields {d a b op : Nat} {h : Bool} {k : Scope} (enc : encRR 0x23 (h.toNat * 128 + k.code * 16 + op) d a b = w)
    (hd : d < 64) (ha : a < 64) (hb : b < 64) (hop : op < 16) : fld w 26 6 = 0x23 ∧ fld w 20 6 = d ∧ fld w 14 6 = a ∧
    fld w 8 6 = b ∧ fld w 7 1 = h.toNat ∧ fld w 4 3 = k.code ∧ fld w 0 4 = op := by
  have := h.toNat_lt
  have := Laws.scope_code_lt k
  simp only [fld, ← enc, encRR]
  omega

end Formats

/-! ### The majors that have a decoder of their own (R42) -/

section Majors

variable {w : Nat} (record : Option Rec)

theorem decodeWord_alu (major : fld w 26 6 = 0x01) : decodeWord w record = decodeAlu (fld w 0 8) (fReg w 20) (fReg w 14) (fReg w 8) := by
  simp only [decodeWord, major]

theorem decodeWord_shi (major : fld w 26 6 = 0x06) : decodeWord w record = decodeShi w (fReg w 20) (fReg w 14) := by
  simp only [decodeWord, major]

theorem decodeWord_cmp (major : fld w 26 6 = 0x0B) : decodeWord w record = decodeCmp w := by
  simp only [decodeWord, major]

theorem decodeWord_cmpi (major : fld w 26 6 = 0x0C) : decodeWord w record = decodeCmpi w := by
  simp only [decodeWord, major]

theorem decodeWord_cnd (major : fld w 26 6 = 0x0E) : decodeWord w record = decodeCnd w := by
  simp only [decodeWord, major]

theorem decodeWord_xfer (major : fld w 26 6 = 0x11) : decodeWord w record = decodeXfer w := by
  simp only [decodeWord, major]

theorem decodeWord_loop (major : fld w 26 6 = 0x12) : decodeWord w record = decodeLoop w := by
  simp only [decodeWord, major]

theorem decodeWord_loops (major : fld w 26 6 = 0x13) : decodeWord w record = decodeLoops w := by
  simp only [decodeWord, major]

theorem decodeWord_cq (major : fld w 26 6 = 0x15) : decodeWord w record = decodeCq w := by
  simp only [decodeWord, major]

theorem decodeWord_async (major : fld w 26 6 = 0x22) : decodeWord w record = decodeAsync w := by
  simp only [decodeWord, major]

theorem decodeWord_atom (major : fld w 26 6 = 0x23) : decodeWord w record = decodeAtom w := by
  simp only [decodeWord, major]

theorem decodeWord_fence (major : fld w 26 6 = 0x24) : decodeWord w record = decodeFence w := by
  simp only [decodeWord, major]

theorem decodeWord_sem (major : fld w 26 6 = 0x25) : decodeWord w record = decodeSem w := by
  simp only [decodeWord, major]

theorem decodeWord_post (major : fld w 26 6 = 0x26) : decodeWord w record = decodePost w record := by
  simp only [decodeWord, major]

theorem decodeWord_box (major : fld w 26 6 = 0x28) : decodeWord w record = decodeBox w := by
  simp only [decodeWord, major]

theorem decodeWord_husk (major : fld w 26 6 = 0x29) : decodeWord w record = decodeHusk w := by
  simp only [decodeWord, major]

theorem decodeWord_entry (major : fld w 26 6 = 0x2A) : decodeWord w record = decodeEntry w := by
  simp only [decodeWord, major]

theorem decodeWord_grp (major : fld w 26 6 = 0x2B) : decodeWord w record = decodeGrp w := by
  simp only [decodeWord, major]

theorem decodeWord_sys (major : fld w 26 6 = 0x2C) : decodeWord w record = decodeSys w := by
  simp only [decodeWord, major]

end Majors

theorem needBody_nonempty {len : BitVec 10} {r : Except DecodeError Instr} (h : (len != 0) = true) : needBody len r = r :=
  if_neg (bne_iff_ne.mp h)

/-! The words that have a layout of their own, and the fields that share bits. -/

section OwnFields

variable {w : Nat}

theorem shiWord_fields {d a base n : Nat} (enc : encRI 6 d a (base + n) = w) (hd : d < 64) (ha : a < 64) (hbase : base < 0x4000)
    (aligned : base % 0x1000 = 0) (hn : n < 64) : fld w 26 6 = 6 ∧ fld w 20 6 = d ∧ fld w 14 6 = a ∧ fld w 12 2 = base / 0x1000 ∧
    fld w 6 6 = 0 ∧ fld w 0 6 = n := by
  simp only [fld, ← enc, encRI]
  omega

theorem bfxWord_fields {d a s p l : Nat} (enc : encRI 9 d a (s * 2 ^ 12 + p * 2 ^ 6 + l) = w) (hd : d < 64) (ha : a < 64) (hs : s < 2)
    (hp : p < 64) (hl : l < 64) : fld w 26 6 = 9 ∧ fld w 20 6 = d ∧ fld w 14 6 = a ∧ fld w 13 1 = 0 ∧ fld w 12 1 = s ∧
    fld w 6 6 = p ∧ fld w 0 6 = l := by
  simp only [fld, ← enc, encRI]
  omega

theorem bfiWord_fields {d a p l : Nat} (enc : encRI 10 d a (p * 2 ^ 6 + l) = w) (hd : d < 64) (ha : a < 64) (hp : p < 64)
    (hl : l < 64) : fld w 26 6 = 10 ∧ fld w 20 6 = d ∧ fld w 14 6 = a ∧ fld w 12 2 = 0 ∧ fld w 6 6 = p ∧ fld w 0 6 = l := by
  simp only [fld, ← enc, encRI]
  omega

theorem selWord_fields {d a b n c : Nat} (enc : encRR 13 (n * 8 + c) d a b = w) (hd : d < 64) (ha : a < 64) (hb : b < 64) (hn : n < 2)
    (hc : c < 8) : fld w 26 6 = 13 ∧ fld w 20 6 = d ∧ fld w 14 6 = a ∧ fld w 8 6 = b ∧ fld w 4 4 = 0 ∧ fld w 3 1 = n ∧
    fld w 0 3 = c := by
  simp only [fld, ← enc, encRR]
  omega

theorem longWord_fields {maj d imm : Nat} (enc : maj * 2 ^ 26 + d * 2 ^ 20 + imm = w) (hmaj : maj < 64) (hd : d < 64)
    (himm : imm < 2 ^ 20) : fld w 26 6 = maj ∧ fld w 20 6 = d ∧ fld w 0 20 = imm := by
  simp only [fld, ← enc]
  omega

theorem cmpWord_fields {maj c cc a imm : Nat} (enc : maj * 2 ^ 26 + c * 2 ^ 23 + cc * 2 ^ 19 + a * 2 ^ 13 + imm = w) (hmaj : maj < 64)
    (hc : c < 8) (hcc : cc < 16) (ha : a < 64) (himm : imm < 2 ^ 13) : fld w 26 6 = maj ∧ fld w 23 3 = c ∧ fld w 19 4 = cc ∧
    fld w 13 6 = a ∧ fld w 7 6 = imm / 2 ^ 7 ∧ fld w 0 7 = imm % 2 ^ 7 ∧ fld w 0 13 = imm := by
  simp only [fld, ← enc]
  omega

theorem cndWord_fields {c x y sub : Nat} (enc : 14 * 2 ^ 26 + c * 2 ^ 23 + x * 2 ^ 17 + y * 2 ^ 14 + sub = w) (hc : c < 8) (hx : x < 8)
    (hy : y < 8) (hsub : sub < 256) : fld w 26 6 = 14 ∧ fld w 23 3 = c ∧ fld w 20 3 = 0 ∧ fld w 17 3 = x ∧ fld w 14 3 = y ∧
    fld w 8 6 = 0 ∧ fld w 0 8 = sub := by
  simp only [fld, ← enc]
  omega

theorem ptgWord_fields {t imm : Nat} (enc : 15 * 2 ^ 26 + t * 2 ^ 23 + imm = w) (ht : t < 8) (himm : imm < 2 ^ 23) :
    fld w 26 6 = 15 ∧ fld w 23 3 = t ∧ fld w 0 23 = imm := by
  simp only [fld, ← enc]
  omega

theorem ptrWord_fields {t a : Nat} (enc : 16 * 2 ^ 26 + t * 2 ^ 23 + a * 2 ^ 14 = w) (ht : t < 8) (ha : a < 64) :
    fld w 26 6 = 16 ∧ fld w 23 3 = t ∧ fld w 20 3 = 0 ∧ fld w 14 6 = a ∧ fld w 0 14 = 0 := by
  simp only [fld, ← enc]
  omega

theorem countsWord_fields {maj n d a b : Nat} (enc : maj * 2 ^ 26 + n * 2 ^ 20 + d * 2 ^ 16 + a * 2 ^ 12 + b * 2 ^ 8 = w)
    (hmaj : maj < 64) (hn : n < 64) (hd : d < 16) (ha : a < 16) (hb : b < 16) : fld w 26 6 = maj ∧ fld w 20 6 = n ∧
    fld w 16 4 = d ∧ fld w 12 4 = a ∧ fld w 8 4 = b ∧ fld w 0 8 = 0 := by
  simp only [fld, ← enc]
  omega

theorem splWord_fields {g s : Nat} (enc : 0x21 * 2 ^ 26 + g * 2 ^ 20 + s * 2 ^ 10 = w) (hg : g < 64) (hs : s < 512) :
    fld w 26 6 = 0x21 ∧ fld w 20 6 = g ∧ fld w 19 1 = 0 ∧ fld w 10 9 = s ∧ fld w 0 10 = 0 := by
  simp only [fld, ← enc]
  omega

theorem filWord_fields {g s : Nat} (enc : 0x21 * 2 ^ 26 + g * 2 ^ 20 + 2 ^ 19 + s * 2 ^ 10 = w) (hg : g < 64) (hs : s < 512) :
    fld w 26 6 = 0x21 ∧ fld w 20 6 = g ∧ fld w 19 1 = 1 ∧ fld w 10 9 = s ∧ fld w 0 10 = 0 := by
  simp only [fld, ← enc]
  omega

theorem fenceWord_fields {op k : Nat} (enc : 0x24 * 2 ^ 26 + op * 2 ^ 22 + k * 2 ^ 19 = w) (hop : op < 16) (hk : k < 8) :
    fld w 26 6 = 0x24 ∧ fld w 22 4 = op ∧ fld w 19 3 = k ∧ fld w 0 19 = 0 := by
  simp only [fld, ← enc]
  omega

theorem fenceScWord_fields {k : Nat} (enc : 0x24 * 2 ^ 26 + k * 2 ^ 19 = w) (hk : k < 8) :
    fld w 26 6 = 0x24 ∧ fld w 22 4 = 0 ∧ fld w 19 3 = k ∧ fld w 0 19 = 0 := by
  simp only [fld, ← enc]
  omega

theorem postmWord_fields {a : Nat} (enc : 0x26 * 2 ^ 26 + 2 ^ 20 + a * 2 ^ 14 = w) (ha : a < 64) :
    fld w 26 6 = 0x26 ∧ fld w 20 6 = 1 ∧ fld w 14 6 = a ∧ fld w 0 14 = 0 := by
  simp only [fld, ← enc]
  omega

/-- The register of a LOOP form (R50). -/
theorem loopReg_fields {g : Nat} (h : fld w 0 12 = g) (hg : g < 64) : fld w 6 6 = 0 ∧ fld w 0 6 = g := by
  simp only [fld] at *
  omega

/-- The stages of a LOOPS form, and its count (R50). -/
theorem loopsCnt_fields {s cnt : Nat} (h : fld w 0 12 = s * 2 ^ 9 + cnt) (hs : s < 8) (hcnt : cnt < 512) :
    fld w 9 3 = s ∧ fld w 0 9 = cnt := by
  simp only [fld] at *
  omega

/-- The stages of LOOPS.R, and its register. -/
theorem loopsReg_fields {s g : Nat} (h : fld w 0 12 = s * 2 ^ 9 + g) (hs : s < 8) (hg : g < 64) :
    fld w 9 3 = s ∧ fld w 6 3 = 0 ∧ fld w 0 6 = g := by
  simp only [fld] at *
  omega

/-- The stages of LOOPS.CQ. -/
theorem loopsCq_fields {s : Nat} (h : fld w 0 12 = s * 2 ^ 9) : fld w 9 3 = s ∧ fld w 0 9 = 0 := by
  simp only [fld] at *
  omega

end OwnFields

/-! ### The word of an instruction -/

/-- The word of an instruction decodes to it, whatever follows; an inline POST takes what follows as its record. -/
theorem decodeWord_of_encodeWord {i : Instr} {w : Nat} (record : Option Rec) (wf : i.wf = true) (enc : encodeWord i = some w)
    (notPost : recordOf i = none) : decodeWord w record = .ok i := by
  cases i
  case post r => cases notPost
  case cqclr | ret | fenceRq | fencePip | cstep | gabort | eret | halt | mapinvAll | sleep => cases enc; rfl
  case add | sub | mul | mulh | mulhn | div | divn | rem | remn | and | or | xor | andn | sll | srl | sra | rol | ror | min | max
      | minn | maxn | clz | ctz | popc | bswap | clmul | clmulh | addw | subw =>
    obtain ⟨major, d, a, b, sub⟩ := encRR_fields (Option.some.inj enc) (by omega) (by omega) (by omega) (by omega) (by omega)
    rw [decodeWord_alu record major]
    simp [decodeAlu, fReg_eq_fld, d, a, b, sub]
  case addi | andi | ori | xori | ldb | ldbn | ldh | ldhn | ldw | ldwn | ldd | stb | sth | stw | std =>
    obtain ⟨major, d, a, imm⟩ := encRI_fields (Option.some.inj enc) (by omega) (by omega) (by omega) (by omega)
    simp [decodeWord, fReg_eq_fld, fBits_eq_fld, major, d, a, imm]
  case slli d a n =>
    have enc : encRI 6 d a (0 + n.toNat) = w := by rw [Nat.zero_add]; exact Option.some.inj enc
    obtain ⟨major, d, a, kind, zero, amount⟩ := shiWord_fields enc (by omega) (by omega) (by decide) (by decide) (by omega)
    rw [decodeWord_shi record major]
    simp [decodeShi, fReg_eq_fld, fBits_eq_fld, d, a, kind, zero, amount]
  case srli | srai | rori =>
    obtain ⟨major, d, a, kind, zero, amount⟩ := shiWord_fields (Option.some.inj enc) (by omega) (by omega) (by decide) (by decide) (by omega)
    rw [decodeWord_shi record major]
    simp [decodeShi, fReg_eq_fld, fBits_eq_fld, d, a, kind, zero, amount]
  case lui | lih =>
    obtain ⟨major, d, imm⟩ := longWord_fields (Option.some.inj enc) (by omega) (by omega) (BitVec.isLt _)
    simp [decodeWord, fReg_eq_fld, fBits_eq_fld, major, d, imm]
  case bfx d a s p l =>
    obtain ⟨major, d, a, zero, signed, pos, len⟩ := bfxWord_fields (Option.some.inj enc) (by omega) (by omega) s.toNat_lt (by omega)
      (by omega)
    simp [decodeWord, fReg_eq_fld, fBits_eq_fld, fFlag, major, d, a, zero, signed, pos, len]
  case bfi =>
    obtain ⟨major, d, a, zero, pos, len⟩ := bfiWord_fields (Option.some.inj enc) (by omega) (by omega) (by omega) (by omega)
    simp [decodeWord, fReg_eq_fld, fBits_eq_fld, major, d, a, zero, pos, len]
  case cmp c cc a b =>
    have := Laws.cmp_code_lt cc
    obtain ⟨major, c, cc, a, b, zero, -⟩ := cmpWord_fields (Option.some.inj enc) (by omega) (by omega) (by omega) (by omega) (by omega)
    rw [decodeWord_cmp record major]
    simp [decodeCmp, fReg_eq_fld, fCond_eq_fld, c, cc, a, b, zero]
  case cmpi c cc a imm =>
    have := Laws.cmp_code_lt cc
    obtain ⟨major, c, cc, a, -, -, imm⟩ := cmpWord_fields (Option.some.inj enc) (by omega) (by omega) (by omega) (by omega) (by omega)
    rw [decodeWord_cmpi record major]
    simp [decodeCmpi, fReg_eq_fld, fCond_eq_fld, fBits_eq_fld, c, cc, a, imm]
  case cand =>
    obtain ⟨major, c, zero, x, y, zero', sub⟩ := cndWord_fields (w := w) (sub := 0)
      (by rw [Nat.add_zero]; exact Option.some.inj enc) (by omega) (by omega) (by omega)
      (by omega)
    rw [decodeWord_cnd record major]
    simp [decodeCnd, fCond_eq_fld, c, x, y, zero, zero', sub]
  case cor | cxor | candn =>
    obtain ⟨major, c, zero, x, y, zero', sub⟩ := cndWord_fields (Option.some.inj enc) (by omega) (by omega) (by omega) (by omega)
    rw [decodeWord_cnd record major]
    simp [decodeCnd, fCond_eq_fld, c, x, y, zero, zero', sub]
  case ptg =>
    obtain ⟨major, t, imm⟩ := ptgWord_fields (Option.some.inj enc) (by omega) (BitVec.isLt _)
    simp [decodeWord, fCond_eq_fld, fBits_eq_fld, major, t, imm]
  case ptr =>
    obtain ⟨major, t, zero, a, zero'⟩ := ptrWord_fields (Option.some.inj enc) (by omega) (by omega)
    simp [decodeWord, fReg_eq_fld, fCond_eq_fld, major, t, a, zero, zero']
  case rep | waitc =>
    obtain ⟨major, n, d, a, b, zero⟩ := countsWord_fields (Option.some.inj enc) (by omega) (by omega) (by omega) (by omega) (by omega)
    simp [decodeWord, fBits_eq_fld, major, n, d, a, b, zero]
  case spl =>
    obtain ⟨major, g, fills, s, zero⟩ := splWord_fields (Option.some.inj enc) (by omega) (by omega)
    simp [decodeWord, fReg_eq_fld, fBits_eq_fld, fFlag, major, g, fills, s, zero]
  case fil =>
    obtain ⟨major, g, fills, s, zero⟩ := filWord_fields (Option.some.inj enc) (by omega) (by omega)
    simp [decodeWord, fReg_eq_fld, fBits_eq_fld, fFlag, major, g, fills, s, zero]
  case fenceSc k =>
    obtain ⟨major, op, k, zero⟩ := fenceScWord_fields (Option.some.inj enc) (Laws.scope_code_lt k)
    rw [decodeWord_fence record major]
    simp [decodeFence, op, k, zero]
  case fenceAcq k | fenceRel k =>
    have := Laws.scope_code_lt k
    obtain ⟨major, op, k, zero⟩ := fenceWord_fields (Option.some.inj enc) (by omega) (by omega)
    rw [decodeWord_fence record major]
    simp [decodeFence, op, k, zero]
  case postm =>
    obtain ⟨major, op, a, zero⟩ := postmWord_fields (Option.some.inj enc) (by omega)
    rw [decodeWord_post record major]
    simp [decodePost, fReg_eq_fld, op, a, zero]
  case sel d a b n c =>
    obtain ⟨major, d, a, b, zero, negated, cond⟩ := selWord_fields (Option.some.inj enc) (by omega) (by omega) (by omega) n.toNat_lt
      (by omega)
    simp [decodeWord, fReg_eq_fld, fCond_eq_fld, fFlag, major, d, a, b, zero, negated, cond]
  case br t | call t =>
    obtain ⟨major, t, -, -, kind, cond, zero⟩ := encXF_fields (Option.some.inj enc) (by omega) (by omega) (by omega) (by omega)
    rw [decodeWord_xfer record major]
    simp [decodeXfer, fCond_eq_fld, t, kind, cond, zero]
  case brc t c n | callc t c n =>
    have := n.toNat_lt
    obtain ⟨major, t, c, n, kind, -, zero⟩ := encXF_fields (Option.some.inj enc) (by omega) (by omega) (by omega) (by omega)
    rw [decodeWord_xfer record major]
    simp [decodeXfer, fCond_eq_fld, fFlag, t, c, n, kind, zero]
  case lbrk l c n =>
    have := n.toNat_lt
    obtain ⟨major, t, c, n, kind, -, zero⟩ := encXF_fields (Option.some.inj enc) (by omega) (by omega) (by omega) (by omega)
    have loop : fld w 23 2 = l := by simp only [fld] at *; omega
    have zero' : fld w 25 1 = 0 := by simp only [fld] at *; omega
    rw [decodeWord_xfer record major]
    simp [decodeXfer, fCond_eq_fld, fLoop_eq_fld, fFlag, c, n, kind, zero, zero', loop]
  case cqpush | cqpop | cqlen =>
    obtain ⟨major, d, a, b, sub⟩ := encRR_fields (Option.some.inj enc) (by omega) (by omega) (by omega) (by omega) (by omega)
    rw [decodeWord_cq record major]
    simp [decodeCq, fReg_eq_fld, d, a, b, sub]
  case lda | sta =>
    obtain ⟨major, d, a, b, sub⟩ := encRR_fields (Option.some.inj enc) (by omega) (by omega) (by omega) (by omega) (by omega)
    rw [decodeWord_async record major]
    simp [decodeAsync, fReg_eq_fld, d, a, b, sub]
  case atomSwp | atomAdd | atomAnd | atomOr | atomXor | atomMin | atomMax | atomMinn | atomMaxn | atomCas =>
    obtain ⟨major, d, a, b, wide, scope, op⟩ := encAtom_fields (Option.some.inj enc) (by omega) (by omega) (by omega) (by omega)
    rw [decodeWord_atom record major]
    simp [decodeAtom, fReg_eq_fld, fFlag, d, a, b, wide, scope, op]
  case semadd | semaddi | semwait | semwaiti | semset | semrd =>
    obtain ⟨major, op, s, g, imm⟩ := encSem_fields (Option.some.inj enc) (by omega) (by omega) (by omega) (by omega)
    rw [decodeWord_sem record major]
    simp [decodeSem, fReg_eq_fld, fBits_eq_fld, op, s, g, imm]
  case bxh | bxo | bxe | bxs | bxc | bxz =>
    obtain ⟨major, op, x, dim, a, imm, low⟩ := encBox_fields (Option.some.inj enc) (by omega) (by omega) (by omega) (by omega) (by omega)
    rw [decodeWord_box record major]
    simp [decodeBox, fReg_eq_fld, fBits_eq_fld, op, x, dim, a, imm, low]
  case hkld | hkst | hkinv | hktab =>
    obtain ⟨major, op, d, a, imm, -⟩ := encSY_fields (Option.some.inj enc) (by omega) (by omega) (by omega) (by omega) (by omega)
    rw [decodeWord_husk record major]
    simp [decodeHusk, fReg_eq_fld, fBits_eq_fld, op, d, a, imm]
  case acq k a | rel k a =>
    have := Laws.scope_code_lt k
    obtain ⟨major, op, k, a, b, -, bit20, low, -⟩ := encEntry_fields (Option.some.inj enc) (by omega) (by omega) (by omega) (by omega)
    rw [decodeWord_entry record major]
    simp [decodeEntry, fReg_eq_fld, op, k, a, bit20, low]
  case bind | unbind =>
    obtain ⟨major, op, k, a, b, zero, -, -, low⟩ := encEntry_fields (Option.some.inj enc) (by omega) (by omega) (by omega) (by omega)
    rw [decodeWord_entry record major]
    simp [decodeEntry, fReg_eq_fld, op, a, b, zero, low]
  case cbr t c n r h =>
    have := n.toNat_lt
    have := h.toNat_lt
    have := Laws.red_code_lt r
    obtain ⟨major, op, t, c, n, r, h, -, zero⟩ := encGrp_fields (Option.some.inj enc) (by omega) (by omega) (by omega) (by omega)
      (by omega) (by omega)
    rw [decodeWord_grp record major]
    simp [decodeGrp, fCond_eq_fld, fFlag, op, t, c, n, r, h, zero]
  case cbrx t c n r =>
    have := n.toNat_lt
    have := Laws.red_code_lt r
    obtain ⟨major, op, t, c, n, r, -, zero, -⟩ := encGrp_fields (Option.some.inj enc) (by omega) (by omega) (by omega) (by omega)
      (by omega) (by omega)
    rw [decodeWord_grp record major]
    simp [decodeGrp, fCond_eq_fld, fFlag, op, t, c, n, r, zero]
  case mfs | mts | trap | yield | saveq | restq | brk | tstart | mapinvAddr | mapinvSeg | mapinvAsid | snap =>
    obtain ⟨major, op, d, a, imm, mid⟩ := encSY_fields (Option.some.inj enc) (by omega) (by omega) (by omega) (by omega) (by omega)
    rw [decodeWord_sys record major]
    simp [decodeSys, fReg_eq_fld, fBits_eq_fld, op, d, a, imm, mid]
  case ridge d k =>
    obtain ⟨major, op, d, a, imm, -⟩ := encSY_fields (Option.some.inj enc) (by omega) (by omega) (by omega) (by omega) (by omega)
    have zero : fld w 3 5 = 0 := by simp only [fld] at *; omega
    have stack : fld w 0 3 = k.toNat := by simp only [fld] at *; omega
    rw [decodeWord_sys record major]
    simp [decodeSys, fReg_eq_fld, fBits_eq_fld, op, d, a, zero, stack]
  case loop l len cnt =>
    obtain ⟨major, l, src, len, cnt⟩ := encLP_fields (Option.some.inj enc) (by omega) (by omega) (by omega) (by omega) (by omega)
    rw [decodeWord_loop record major]
    simp [decodeLoop, fLoop_eq_fld, fBits_eq_fld, l, src, len, cnt, needBody_nonempty wf]
  case loopReg l len g =>
    obtain ⟨major, l, src, len, cnt⟩ := encLP_fields (Option.some.inj enc) (by omega) (by omega) (by omega) (by omega) (by omega)
    obtain ⟨zero, reg⟩ := loopReg_fields cnt (by omega)
    rw [decodeWord_loop record major]
    simp [decodeLoop, fLoop_eq_fld, fReg_eq_fld, fBits_eq_fld, l, src, len, zero, reg, needBody_nonempty wf]
  case loopCq l len =>
    obtain ⟨major, l, src, len, cnt⟩ := encLP_fields (Option.some.inj enc) (by omega) (by omega) (by omega) (by omega) (by omega)
    rw [decodeWord_loop record major]
    simp [decodeLoop, fLoop_eq_fld, fBits_eq_fld, l, src, len, cnt, needBody_nonempty wf]
  case loops =>
    obtain ⟨major, l, src, len, cnt⟩ := encLP_fields (Option.some.inj enc) (by omega) (by omega) (by omega) (by omega) (by omega)
    obtain ⟨stages, count⟩ := loopsCnt_fields cnt (by omega) (by omega)
    rw [decodeWord_loops record major]
    simp [decodeLoops, fLoop_eq_fld, fBits_eq_fld, l, src, len, stages, count]
  case loopsReg =>
    obtain ⟨major, l, src, len, cnt⟩ := encLP_fields (Option.some.inj enc) (by omega) (by omega) (by omega) (by omega) (by omega)
    obtain ⟨stages, zero, reg⟩ := loopsReg_fields cnt (by omega) (by omega)
    rw [decodeWord_loops record major]
    simp [decodeLoops, fLoop_eq_fld, fReg_eq_fld, fBits_eq_fld, l, src, len, stages, zero, reg]
  case loopsCq =>
    obtain ⟨major, l, src, len, cnt⟩ := encLP_fields (Option.some.inj enc) (by omega) (by omega) (by omega) (by omega) (by omega)
    obtain ⟨stages, zero⟩ := loopsCq_fields cnt
    rw [decodeWord_loops record major]
    simp [decodeLoops, fLoop_eq_fld, fBits_eq_fld, l, src, len, stages, zero]
  all_goals cases enc

/-! ### The words of a record (R67) -/

theorem foldr_words (n x : Nat) :
    ((List.range n).map (fun k => x / 2 ^ (32 * k) % 2 ^ 32)).foldr (fun w acc => w % 2 ^ 32 + 2 ^ 32 * acc) 0 = x % 2 ^ (32 * n) := by
  induction n generalizing x with
  | zero => simp [Nat.mod_one]
  | succ n ih =>
    have next (k : Nat) : x / 2 ^ (32 * (k + 1)) % 2 ^ 32 = x / 2 ^ 32 / 2 ^ (32 * k) % 2 ^ 32 := by
      rw [Nat.div_div_eq_div_mul, ← Nat.pow_add, Nat.mul_add, Nat.add_comm]
    rw [List.range_succ_eq_map, List.map_cons, List.map_map, List.foldr_cons]
    simp only [Function.comp_def, Nat.succ_eq_add_one, next, ih, Nat.mul_zero, Nat.pow_zero, Nat.div_one, Nat.mod_mod]
    rw [Nat.mul_add, Nat.mul_one, Nat.add_comm (32 * n), Nat.pow_add, Nat.mod_mul]

theorem length_wordsOfRec (r : Rec) : (wordsOfRec r).length = 8 := by simp [wordsOfRec]

theorem recOfWords_wordsOfRec (r : Rec) (rest : List Nat) : recOfWords (wordsOfRec r ++ rest) = r := by
  have words : (wordsOfRec r ++ rest).take 8 = wordsOfRec r := by
    rw [List.take_append_of_le_length (length_wordsOfRec r).ge, ← length_wordsOfRec r, List.take_length]
  rw [recOfWords, words, wordsOfRec, foldr_words]
  exact BitVec.eq_of_toNat_eq (by simpa using r.isLt)

/-- An inline POST takes the eight words behind its own as its record. -/
theorem decodeWords_post (r : Rec) (rest : List Nat) :
    decodeWords (0x26 * 2 ^ 26 :: (wordsOfRec r ++ rest)) = .ok (.post r, rest) := by
  have long : ¬(wordsOfRec r ++ rest).length < 8 := by simp [length_wordsOfRec]
  have word : decodeWord (0x26 * 2 ^ 26) (some r) = .ok (.post r) := rfl
  have behind : (wordsOfRec r ++ rest).drop 8 = rest := by rw [← length_wordsOfRec r, List.drop_left]
  rw [decodeWords, if_neg long, recOfWords_wordsOfRec, word]
  simp only [behind]

/-- Any other word stands alone. -/
theorem decodeWords_single {i : Instr} {w : Nat} (rest : List Nat) (wf : i.wf = true) (enc : encodeWord i = some w)
    (notPost : recordOf i = none) : decodeWords (w :: rest) = .ok (i, rest) := by
  rw [decodeWords, decodeWord_of_encodeWord _ wf enc notPost]
  cases i
  case post => cases notPost
  all_goals rfl

/-- Settles O2: an inline POST by its record's eight words; any other instruction by the fields of its one word. -/
theorem decodeOfEncode : Obligations.DecodeOfEncode := by
  intro i ws rest wf enc
  obtain ⟨w, word, rfl⟩ := Option.map_eq_some_iff.mp enc
  cases hr : recordOf i with
  | none => exact decodeWords_single rest wf word hr
  | some r =>
    have isPost : i = .post r := by
      cases i
      case post => exact congrArg Instr.post (Option.some.inj hr)
      all_goals cases hr
    subst isPost
    cases word
    exact decodeWords_post r rest


/-! ### A word that decodes -/

theorem val_fReg (w lo : Nat) : (fReg w lo).val = fld w lo 6 := rfl

theorem val_fCond (w lo : Nat) : (fCond w lo).val = fld w lo 3 := rfl

theorem val_fLoop (w lo : Nat) : (fLoop w lo).val = fld w lo 2 := rfl

theorem toNat_fBits (w lo n : Nat) : (fBits w lo n).toNat = fld w lo n := BitVec.toNat_ofNat ..

theorem toNat_fFlag (w lo : Nat) : (fFlag w lo).toNat = fld w lo 1 := by
  have below : fld w lo 1 < 2 := Nat.mod_lt _ (by decide)
  rw [fFlag]
  interval_cases fld w lo 1 <;> rfl

theorem code_of_cmpOfNat {n : Nat} {cc : Cmp} (h : cmpOfNat n = some cc) : cc.code = n := by
  unfold cmpOfNat at h
  split at h <;> cases h <;> rfl

theorem code_of_scopeOfNat {n : Nat} {k : Scope} (h : scopeOfNat n = some k) : k.code = n := by
  unfold scopeOfNat at h
  split at h <;> cases h <;> rfl

theorem code_of_redOfNat {n : Nat} {r : Red} (h : redOfNat n = some r) : r.code = n := by
  unfold redOfNat at h
  split at h <;> cases h <;> rfl

/-- The instruction that a decoder answers, if it answers one, has the word `w`. -/
def Encodes (w : Nat) (r : Except DecodeError Instr) : Prop := ∀ i, r = .ok i → encodeWord i = some w

namespace Encodes

variable {w n : Nat} {r : Except DecodeError Instr}

theorem error {e : DecodeError} : Encodes w (.error e) := by
  intro i h
  cases h

theorem ok {i : Instr} (h : encodeWord i = some w) : Encodes w (.ok i) := by
  intro j hj
  cases hj
  exact h

theorem needZero (h : n = 0 → Encodes w r) : Encodes w (needZero n r) := by
  unfold Sys2Proof.needZero
  split
  case isTrue zero => exact h zero
  case isFalse => exact error

theorem needBody {len : BitVec 10} (h : Encodes w r) : Encodes w (needBody len r) := by
  unfold Sys2Proof.needBody
  split
  · exact error
  · exact h

end Encodes

/-! ### Each decoder answers the instruction of the word (R43) -/

/-- The last value of a field of two bits. -/
theorem eq_three {n : Nat} (below : n < 4) (not0 : n ≠ 0) (not1 : n ≠ 1) (not2 : n ≠ 2) : n = 3 := by omega

theorem decodeAlu_encodes (sub : Nat) (d a b : Reg) : Encodes (encRR 1 sub d a b) (decodeAlu sub d a b) := by
  unfold decodeAlu
  split
  case h_31 => exact .error
  case h_23 | h_24 | h_25 | h_26 => exact .needZero fun zero => .ok (by rw [zero]; rfl)
  all_goals exact .ok rfl

/-! ### A word as the sum of its fields (R40) -/

/-- A field is its low bits and its high bits. -/
theorem fld_split (w lo n m : Nat) : fld w lo (n + m) = fld w lo n + 2 ^ n * fld w (lo + n) m := by
  rw [fld, fld, fld, Nat.pow_add, Nat.mod_mul, Nat.pow_add 2 lo, Nat.div_div_eq_div_mul]

theorem fld_low (w n m : Nat) : fld w 0 (n + m) = fld w 0 n + 2 ^ n * fld w n m := by rw [fld_split, Nat.zero_add]

section Words

variable {w : Nat}

theorem fld_whole (fits : w < 2 ^ 32) : fld w 0 32 = w := by rw [fld, Nat.pow_zero, Nat.div_one, Nat.mod_eq_of_lt fits]

theorem fld_word (w : Nat) : fld w 26 6 * 2 ^ 26 + fld w 0 26 = fld w 0 32 := by
  have : fld w 0 32 = fld w 0 26 + 2 ^ 26 * fld w 26 6 := fld_low w 26 6
  omega

theorem fld_regs (w : Nat) : fld w 0 26 = fld w 20 6 * 2 ^ 20 + fld w 14 6 * 2 ^ 14 + fld w 0 14 := by
  have : fld w 0 26 = fld w 0 20 + 2 ^ 20 * fld w 20 6 := fld_low w 20 6
  have : fld w 0 20 = fld w 0 14 + 2 ^ 14 * fld w 14 6 := fld_low w 14 6
  omega

/-- Formats RR and SY. -/
theorem word_regs (fits : w < 2 ^ 32) :
    fld w 26 6 * 2 ^ 26 + fld w 20 6 * 2 ^ 20 + fld w 14 6 * 2 ^ 14 + fld w 8 6 * 2 ^ 8 + fld w 0 8 = w := by
  refine Eq.trans ?_ ((fld_word w).trans (fld_whole fits))
  have low : fld w 0 14 = fld w 0 8 + 2 ^ 8 * fld w 8 6 := fld_low w 8 6
  rw [fld_regs, low]
  ring

/-- Formats RI and MEM. -/
theorem word_imm (fits : w < 2 ^ 32) : fld w 26 6 * 2 ^ 26 + fld w 20 6 * 2 ^ 20 + fld w 14 6 * 2 ^ 14 + fld w 0 14 = w := by
  refine Eq.trans ?_ ((fld_word w).trans (fld_whole fits))
  rw [fld_regs]
  ring

theorem word_long (fits : w < 2 ^ 32) : fld w 26 6 * 2 ^ 26 + fld w 20 6 * 2 ^ 20 + fld w 0 20 = w := by
  refine Eq.trans ?_ ((fld_word w).trans (fld_whole fits))
  have low : fld w 0 26 = fld w 0 20 + 2 ^ 20 * fld w 20 6 := fld_low w 20 6
  rw [low]
  ring

/-- An operation or a condition behind the major. -/
theorem word_op (fits : w < 2 ^ 32) : fld w 26 6 * 2 ^ 26 + fld w 23 3 * 2 ^ 23 + fld w 0 23 = w := by
  refine Eq.trans ?_ ((fld_word w).trans (fld_whole fits))
  have low : fld w 0 26 = fld w 0 23 + 2 ^ 23 * fld w 23 3 := fld_low w 23 3
  rw [low]
  ring

end Words

section Decoders

variable {w : Nat} (fits : w < 2 ^ 32)
include fits

theorem decodeShi_encodes (major : fld w 26 6 = 0x06) : Encodes w (decodeShi w (fReg w 20) (fReg w 14)) := by
  have word := word_imm fits
  have kinds := fld_low w 12 2
  have amount := fld_low w 6 6
  refine .needZero fun zero => ?_
  split
  case h_4 not0 not1 not2 =>
    have kind : fld w 12 2 = 3 := eq_three (Nat.mod_lt _ (by decide)) not0 not1 not2
    refine .ok (congrArg some ?_)
    simp only [val_fReg, toNat_fBits, encRI, Nat.reducePow, Nat.reduceMul, Nat.reduceAdd] at *
    omega
  all_goals
    refine .ok (congrArg some ?_)
    simp only [val_fReg, toNat_fBits, encRI, Nat.reducePow, Nat.reduceMul, Nat.reduceAdd] at *
    omega

theorem decodeCmp_encodes (major : fld w 26 6 = 0x0B) : Encodes w (decodeCmp w) := by
  have word := word_op fits
  have := fld_low w 19 4
  have := fld_low w 13 6
  have := fld_low w 7 6
  unfold decodeCmp
  split
  case h_1 => exact .error
  next cc hcc =>
    have code := code_of_cmpOfNat hcc
    refine .needZero fun zero => .ok (congrArg some ?_)
    simp only [val_fReg, val_fCond, Nat.reducePow, Nat.reduceMul, Nat.reduceAdd] at *
    omega

theorem decodeCmpi_encodes (major : fld w 26 6 = 0x0C) : Encodes w (decodeCmpi w) := by
  have word := word_op fits
  have := fld_low w 19 4
  have := fld_low w 13 6
  unfold decodeCmpi
  split
  case h_1 => exact .error
  next cc hcc =>
    have code := code_of_cmpOfNat hcc
    refine .ok (congrArg some ?_)
    simp only [val_fReg, val_fCond, toNat_fBits, Nat.reducePow, Nat.reduceMul, Nat.reduceAdd] at *
    omega

theorem decodeCnd_encodes (major : fld w 26 6 = 0x0E) : Encodes w (decodeCnd w) := by
  have word := word_op fits
  have := fld_low w 20 3
  have := fld_low w 17 3
  have := fld_low w 14 3
  have := fld_low w 8 6
  unfold decodeCnd
  split
  case h_5 => exact .error
  all_goals
    refine .needZero fun zero => .ok (congrArg some ?_)
    simp only [val_fCond, Nat.reducePow, Nat.reduceMul, Nat.reduceAdd] at *
    omega

theorem decodeXfer_encodes (major : fld w 26 6 = 0x11) : Encodes w (decodeXfer w) := by
  have word := word_op fits
  have := fld_low w 20 3
  have := fld_low w 19 1
  have := fld_low w 16 3
  have := fld_split w 19 1 3
  have := fld_split w 19 4 3
  have := fld_split w 23 2 1
  unfold decodeXfer
  split
  case h_7 => exact .error
  all_goals
    refine .needZero fun zero => .ok (congrArg some ?_)
    simp only [val_fCond, val_fLoop, toNat_fFlag, encXF, Nat.reducePow, Nat.reduceMul, Nat.reduceAdd] at *
    omega

theorem decodeLoop_encodes (major : fld w 26 6 = 0x12) : Encodes w (decodeLoop w) := by
  have word := (fld_word w).trans (fld_whole fits)
  have := fld_low w 24 2
  have := fld_low w 22 2
  have := fld_low w 12 10
  have := fld_low w 6 6
  unfold decodeLoop
  split
  case h_4 => exact .error
  case h_1 =>
    refine .needBody (.ok (congrArg some ?_))
    simp only [val_fLoop, toNat_fBits, encLP, Nat.reducePow, Nat.reduceMul, Nat.reduceAdd] at *
    omega
  all_goals
    refine .needBody (.needZero fun zero => .ok (congrArg some ?_))
    simp only [val_fReg, val_fLoop, toNat_fBits, encLP, Nat.reducePow, Nat.reduceMul, Nat.reduceAdd] at *
    omega

theorem decodeLoops_encodes (major : fld w 26 6 = 0x13) : Encodes w (decodeLoops w) := by
  have word := (fld_word w).trans (fld_whole fits)
  have := fld_low w 24 2
  have := fld_low w 22 2
  have := fld_low w 12 10
  have := fld_low w 9 3
  have := fld_low w 6 3
  unfold decodeLoops
  split
  case h_4 => exact .error
  case h_1 =>
    refine .ok (congrArg some ?_)
    simp only [val_fLoop, toNat_fBits, encLP, Nat.reducePow, Nat.reduceMul, Nat.reduceAdd] at *
    omega
  all_goals
    refine .needZero fun zero => .ok (congrArg some ?_)
    simp only [val_fReg, val_fLoop, toNat_fBits, encLP, Nat.reducePow, Nat.reduceMul, Nat.reduceAdd] at *
    omega

theorem decodeCq_encodes (major : fld w 26 6 = 0x15) : Encodes w (decodeCq w) := by
  have word := word_regs fits
  have := fld_split w 8 12 6
  have := fld_split w 8 6 6
  unfold decodeCq
  split
  case h_5 => exact .error
  all_goals
    refine .needZero fun zero => .ok (congrArg some ?_)
    simp only [val_fReg, encRR, Nat.reducePow, Nat.reduceMul, Nat.reduceAdd] at *
    omega

theorem decodeAsync_encodes (major : fld w 26 6 = 0x22) : Encodes w (decodeAsync w) := by
  have word := word_regs fits
  unfold decodeAsync
  split
  case h_3 => exact .error
  all_goals
    refine .ok (congrArg some ?_)
    simp only [val_fReg, encRR, Nat.reducePow, Nat.reduceMul] at *
    omega

theorem decodeAtom_encodes (major : fld w 26 6 = 0x23) : Encodes w (decodeAtom w) := by
  have word := word_regs fits
  have := fld_low w 7 1
  have := fld_low w 4 3
  unfold decodeAtom
  split
  case h_1 => exact .error
  next k hk =>
    have code := code_of_scopeOfNat hk
    dsimp only
    split
    case h_11 => exact .error
    all_goals
      refine .ok (congrArg some ?_)
      simp only [val_fReg, toNat_fFlag, encRR, Nat.reducePow, Nat.reduceMul, Nat.reduceAdd] at *
      omega

theorem decodeFence_encodes (major : fld w 26 6 = 0x24) : Encodes w (decodeFence w) := by
  have word := (fld_word w).trans (fld_whole fits)
  have := fld_low w 22 4
  have := fld_low w 19 3
  unfold decodeFence
  split
  case h_6 => exact .error
  case h_4 | h_5 =>
    refine .needZero fun zero => .ok (congrArg some ?_)
    simp only [Nat.reducePow, Nat.reduceMul, Nat.reduceAdd] at *
    omega
  all_goals
    split
    case h_1 => exact .error
    next k hk =>
      have code := code_of_scopeOfNat hk
      refine .needZero fun zero => .ok (congrArg some ?_)
      simp only [Nat.reducePow, Nat.reduceMul, Nat.reduceAdd] at *
      omega

theorem decodeSem_encodes (major : fld w 26 6 = 0x25) : Encodes w (decodeSem w) := by
  have word := word_op fits
  have := fld_low w 12 11
  have := fld_low w 6 6
  unfold decodeSem
  split
  case h_7 => exact .error
  all_goals
    refine .needZero fun zero => .ok (congrArg some ?_)
    simp only [val_fReg, toNat_fBits, encSem, Nat.reducePow, Nat.reduceMul, Nat.reduceAdd] at *
    omega

theorem decodePost_encodes (record : Option Rec) (major : fld w 26 6 = 0x26) : Encodes w (decodePost w record) := by
  have word := word_long fits
  have := fld_low w 14 6
  unfold decodePost
  split
  case h_3 => exact .error
  case h_1 =>
    refine .needZero fun zero => ?_
    split
    case h_2 => exact .error
    case h_1 =>
      refine .ok (congrArg some ?_)
      simp only [Nat.reducePow, Nat.reduceMul, Nat.reduceAdd] at *
      omega
  case h_2 =>
    refine .needZero fun zero => .ok (congrArg some ?_)
    simp only [val_fReg, Nat.reducePow, Nat.reduceMul, Nat.reduceAdd] at *
    omega

theorem decodeBox_encodes (major : fld w 26 6 = 0x28) : Encodes w (decodeBox w) := by
  have word := word_op fits
  have := fld_low w 17 6
  have := fld_low w 15 2
  have := fld_low w 9 6
  unfold decodeBox
  split
  case h_7 => exact .error
  case h_1 | h_5 | h_6 =>
    refine .needZero fun zero => .ok (congrArg some ?_)
    simp only [val_fReg, toNat_fBits, encBox, Nat.reducePow, Nat.reduceMul, Nat.reduceAdd] at *
    omega
  all_goals
    refine .ok (congrArg some ?_)
    simp only [val_fReg, toNat_fBits, encBox, Nat.reducePow, Nat.reduceMul, Nat.reduceAdd] at *
    omega

theorem decodeHusk_encodes (major : fld w 26 6 = 0x29) : Encodes w (decodeHusk w) := by
  have word := word_regs fits
  unfold decodeHusk
  split
  case h_5 => exact .error
  case h_3 =>
    refine .needZero fun zero => .ok (congrArg some ?_)
    simp only [val_fReg, toNat_fBits, encSY, Nat.reducePow, Nat.reduceMul, Nat.reduceAdd] at *
    omega
  all_goals
    refine .ok (congrArg some ?_)
    simp only [val_fReg, toNat_fBits, encSY, Nat.reducePow, Nat.reduceMul, Nat.reduceAdd] at *
    omega

theorem decodeEntry_encodes (major : fld w 26 6 = 0x2A) : Encodes w (decodeEntry w) := by
  have word := word_regs fits
  have := fld_low w 8 6
  have := fld_split w 20 1 3
  have := fld_split w 20 4 2
  unfold decodeEntry
  split
  case h_1 | h_2 =>
    split
    case h_1 => exact .error
    next k hk =>
      have code := code_of_scopeOfNat hk
      refine .needZero fun zero => .ok (congrArg some ?_)
      simp only [val_fReg, encEntry, Nat.reducePow, Nat.reduceMul, Nat.reduceAdd] at *
      omega
  case h_4 not0 not1 not2 =>
    have kind : fld w 24 2 = 3 := eq_three (Nat.mod_lt _ (by decide)) not0 not1 not2
    refine .needZero fun zero => .ok (congrArg some ?_)
    simp only [val_fReg, encEntry, Nat.reducePow, Nat.reduceMul, Nat.reduceAdd] at *
    omega
  case h_3 =>
    refine .needZero fun zero => .ok (congrArg some ?_)
    simp only [val_fReg, encEntry, Nat.reducePow, Nat.reduceMul, Nat.reduceAdd] at *
    omega

theorem decodeGrp_encodes (major : fld w 26 6 = 0x2B) : Encodes w (decodeGrp w) := by
  have word := word_op fits
  have := fld_low w 20 3
  have := fld_low w 17 3
  have := fld_low w 16 1
  have := fld_low w 14 2
  have := fld_low w 13 1
  unfold decodeGrp
  split
  case h_5 => exact .error
  case h_1 | h_2 =>
    split
    case h_1 => exact .error
    next r hr =>
      have code := code_of_redOfNat hr
      refine .needZero fun zero => .ok (congrArg some ?_)
      simp only [val_fCond, toNat_fFlag, encGrp, Nat.reducePow, Nat.reduceMul, Nat.reduceAdd] at *
      omega
  all_goals
    refine .needZero fun zero => .ok (congrArg some ?_)
    simp only [Nat.reducePow, Nat.reduceMul, Nat.reduceAdd] at *
    omega

theorem decodeSys_encodes (major : fld w 26 6 = 0x2C) : Encodes w (decodeSys w) := by
  have word := word_regs fits
  have := fld_split w 8 6 6
  have := fld_low w 14 6
  have := fld_low w 8 6
  have := fld_low w 3 5
  unfold decodeSys
  split
  case h_15 => exact .error
  case h_11 =>
    refine .needZero fun zero => ?_
    split
    case h_5 => exact .error
    case h_4 =>
      refine .needZero fun zero' => .ok (congrArg some ?_)
      simp only [encSY, Nat.reducePow, Nat.reduceMul, Nat.reduceAdd] at *
      omega
    all_goals
      refine .ok (congrArg some ?_)
      simp only [val_fReg, encSY, Nat.reducePow, Nat.reduceMul, Nat.reduceAdd] at *
      omega
  all_goals
    refine .needZero fun zero => .ok (congrArg some ?_)
    simp only [val_fReg, toNat_fBits, encSY, Nat.reducePow, Nat.reduceMul, Nat.reduceAdd] at *
    omega

theorem decodeWord_encodes (record : Option Rec) : Encodes w (decodeWord w record) := by
  have word := word_imm fits
  unfold decodeWord
  dsimp only
  split
  case h_1 major =>
    have word : w = encRR 1 (fld w 0 8) (fReg w 20) (fReg w 14) (fReg w 8) := by
      have whole := word_regs fits
      rw [major] at whole
      exact whole.symm
    conv => arg 1; rw [word]
    exact decodeAlu_encodes _ _ _ _
  case h_6 major => exact decodeShi_encodes fits major
  case h_11 major => exact decodeCmp_encodes fits major
  case h_12 major => exact decodeCmpi_encodes fits major
  case h_14 major => exact decodeCnd_encodes fits major
  case h_17 major => exact decodeXfer_encodes fits major
  case h_18 major => exact decodeLoop_encodes fits major
  case h_19 major => exact decodeLoops_encodes fits major
  case h_21 major => exact decodeCq_encodes fits major
  case h_34 major => exact decodeAsync_encodes fits major
  case h_35 major => exact decodeAtom_encodes fits major
  case h_36 major => exact decodeFence_encodes fits major
  case h_37 major => exact decodeSem_encodes fits major
  case h_38 major => exact decodePost_encodes fits record major
  case h_40 major => exact decodeBox_encodes fits major
  case h_41 major => exact decodeHusk_encodes fits major
  case h_42 major => exact decodeEntry_encodes fits major
  case h_43 major => exact decodeGrp_encodes fits major
  case h_44 major => exact decodeSys_encodes fits major
  case h_45 => exact .error
  -- the spill slots: bit 19 tells FIL from SPL
  case h_33 major =>
    refine .needZero fun zero => ?_
    have flag := toNat_fFlag w 19
    have long := word_long fits
    have := fld_low w 19 1
    have := fld_low w 10 9
    split
    case isTrue isFil =>
      rw [isFil] at flag
      refine .ok (congrArg some ?_)
      simp only [val_fReg, toNat_fBits, Bool.toNat_true, Nat.reducePow, Nat.reduceMul, Nat.reduceAdd] at *
      omega
    case isFalse isSpl =>
      rw [eq_false_of_ne_true isSpl] at flag
      refine .ok (congrArg some ?_)
      simp only [val_fReg, toNat_fBits, Bool.toNat_false, Nat.reducePow, Nat.reduceMul, Nat.reduceAdd] at *
      omega
  -- the words that have a field which is zero
  case h_9 | h_10 =>
    have := fld_low w 13 1
    have := fld_low w 12 1
    have := fld_low w 12 2
    have := fld_low w 6 6
    refine .needZero fun zero => .ok (congrArg some ?_)
    simp only [val_fReg, toNat_fBits, toNat_fFlag, encRI, Nat.reducePow, Nat.reduceMul, Nat.reduceAdd] at *
    omega
  case h_13 =>
    have := fld_low w 8 6
    have := fld_low w 4 4
    have := fld_low w 3 1
    refine .needZero fun zero => .ok (congrArg some ?_)
    simp only [val_fReg, val_fCond, toNat_fFlag, encRR, Nat.reducePow, Nat.reduceMul, Nat.reduceAdd] at *
    omega
  case h_16 =>
    have op := word_op fits
    have := fld_low w 20 3
    have := fld_low w 14 6
    refine .needZero fun zero => .ok (congrArg some ?_)
    simp only [val_fReg, val_fCond, Nat.reducePow, Nat.reduceMul, Nat.reduceAdd] at *
    omega
  case h_20 | h_39 =>
    have long := word_long fits
    have := fld_low w 16 4
    have := fld_low w 12 4
    have := fld_low w 8 4
    refine .needZero fun zero => .ok (congrArg some ?_)
    simp only [toNat_fBits, Nat.reducePow, Nat.reduceMul, Nat.reduceAdd] at *
    omega
  -- the words with one long immediate
  case h_7 | h_8 =>
    have long := word_long fits
    refine .ok (congrArg some ?_)
    simp only [val_fReg, toNat_fBits, Nat.reducePow, Nat.reduceMul] at *
    omega
  case h_15 =>
    have op := word_op fits
    refine .ok (congrArg some ?_)
    simp only [val_fCond, toNat_fBits, Nat.reducePow, Nat.reduceMul] at *
    omega
  -- the words of formats RI and MEM
  all_goals
    refine .ok (congrArg some ?_)
    simp only [val_fReg, toNat_fBits, encRI, Nat.reducePow, Nat.reduceMul] at *
    omega

end Decoders

/-- Settles O1: each word decodes by evaluation. -/
theorem wordsDecode : Obligations.WordsDecode := by
  unfold Obligations.WordsDecode
  decide

/-- Settles O3: every decoder answers, where it answers an instruction, the one whose word it was given. -/
theorem encodeOfDecode : Obligations.EncodeOfDecode :=
  fun _ record i fits decodes => decodeWord_encodes fits record i decodes

end Sys2Proof
end

section
/-! The integer instructions (spec/05_strand_integer_control.md R99 to R104): the value of each operation in the words of the spec. -/

namespace Sys2Proof.Machine

/-- A one-operand word that is ready writes the value of its operation. -/
theorem alu1_ready (op : Word → Word) {d a : Reg} {s : State} (ready : Ready [d, a] false s) :
    alu1 op d a s = .next (finish 1 s (.done (setG s d (op (getG s a))))) :=
  issue_done ready rfl

/-! ### Shifts, rotations and the smaller of two -/

theorem opRol_eq (x y : Word) : opRol x y = (x <<< (y.toNat % 64)) ||| (x >>> ((64 - y.toNat % 64) % 64)) := by
  have below : y.toNat % 64 < 64 := Nat.mod_lt _ (by decide)
  rw [opRol, amount, BitVec.rotateLeft, BitVec.rotateLeftAux, Nat.mod_mod]
  by_cases zero : y.toNat % 64 = 0
  · rw [zero]
    simp [BitVec.ushiftRight_eq_zero]
  · rw [Nat.mod_eq_of_lt (by omega : 64 - y.toNat % 64 < 64)]

theorem opRor_eq (x y : Word) : opRor x y = (x >>> (y.toNat % 64)) ||| (x <<< ((64 - y.toNat % 64) % 64)) := by
  have below : y.toNat % 64 < 64 := Nat.mod_lt _ (by decide)
  rw [opRor, amount, BitVec.rotateRight, BitVec.rotateRightAux, Nat.mod_mod]
  by_cases zero : y.toNat % 64 = 0
  · rw [zero]
    simp
  · rw [Nat.mod_eq_of_lt (by omega : 64 - y.toNat % 64 < 64)]

theorem opMin_eq (x y : Word) : opMin x y = if x.toInt ≤ y.toInt then x else y := by
  simp [opMin, BitVec.sle]

theorem opMax_eq (x y : Word) : opMax x y = if x.toInt ≤ y.toInt then y else x := by
  simp [opMax, BitVec.sle]

theorem opMinn_eq (x y : Word) : opMinn x y = if x.toNat ≤ y.toNat then x else y := by
  simp [opMinn, BitVec.ule]

theorem opMaxn_eq (x y : Word) : opMaxn x y = if x.toNat ≤ y.toNat then y else x := by
  simp [opMaxn, BitVec.ule]

/-! ### The carry-less product -/

/-- Whether an odd number of elements of a list have a property. -/
def oddCount (l : List Nat) (p : Nat → Bool) : Bool := decide ((l.filter p).length % 2 = 1)

theorem oddCount_cons (i : Nat) (l : List Nat) (p : Nat → Bool) : oddCount (i :: l) p = (p i ^^ oddCount l p) := by
  cases h : p i
  · simp [oddCount, h]
  · have flips (n : Nat) : decide ((n + 1) % 2 = 1) = !decide (n % 2 = 1) := by
      rw [← decide_not]
      exact decide_eq_decide.mpr (by omega)
    simp [oddCount, h, flips]

/-- A bit of a sum of shifted copies of `a` counts the copies that have a one there. -/
theorem getLsbD_foldl_xor (a : BitVec 128) (b : Word) (k : Nat) (l : List Nat) (p : BitVec 128) :
    (l.foldl (fun p i => if b.getLsbD i then p ^^^ (a <<< i) else p) p).getLsbD k =
      (p.getLsbD k ^^ oddCount l (fun i => b.getLsbD i && (a <<< i).getLsbD k)) := by
  induction l generalizing p with
  | nil => simp [oddCount]
  | cons i l ih =>
    rw [List.foldl_cons, ih, oddCount_cons]
    cases b.getLsbD i <;> simp

theorem getLsbD_clprod (x y : Word) {k : Nat} (below : k < 128) : (clprod x y).getLsbD k =
    oddCount (List.range 64) (fun i => y.getLsbD i && decide (i ≤ k) && x.getLsbD (k - i)) := by
  rw [clprod, getLsbD_foldl_xor]
  have bit (i : Nat) : (x.setWidth 128 <<< i).getLsbD k = (decide (i ≤ k) && x.getLsbD (k - i)) := by
    have inner : k - i < 128 := by omega
    rw [BitVec.getLsbD_shiftLeft, BitVec.getLsbD_setWidth]
    by_cases h : k < i <;> simp [below, inner, h, Nat.not_le.mpr, Nat.not_lt.mp]
  simp [bit, Bool.and_assoc]

theorem getLsbD_opClmul (x y : Word) {k : Nat} (below : k < 64) : (opClmul x y).getLsbD k =
    decide (((List.range (k + 1)).filter (fun i => y.getLsbD i && x.getLsbD (k - i))).length % 2 = 1) := by
  have split : List.range 64 = List.range (k + 1) ++ (List.range (63 - k)).map (k + 1 + ·) := by
    rw [← List.range_add]
    congr 1
    omega
  have beyond : ((List.range (63 - k)).map (k + 1 + ·)).filter
      (fun i => y.getLsbD i && decide (i ≤ k) && x.getLsbD (k - i)) = [] := by
    rw [List.filter_eq_nil_iff]
    intro i hi
    obtain ⟨j, -, rfl⟩ := List.mem_map.mp hi
    have above : ¬k + 1 + j ≤ k := by omega
    simp [above]
  have within : (List.range (k + 1)).filter (fun i => y.getLsbD i && decide (i ≤ k) && x.getLsbD (k - i)) =
      (List.range (k + 1)).filter (fun i => y.getLsbD i && x.getLsbD (k - i)) := by
    refine List.filter_congr fun i hi => ?_
    have : i ≤ k := Nat.lt_succ_iff.mp (List.mem_range.mp hi)
    simp [this]
  rw [opClmul, BitVec.getLsbD_setWidth, getLsbD_clprod x y (by omega), oddCount, split, List.filter_append, beyond, within]
  simp [below]

theorem getLsbD_opClmulh (x y : Word) {k : Nat} (below : k < 64) : (opClmulh x y).getLsbD k =
    decide (((List.range 64).filter (fun i => y.getLsbD i && decide (i ≤ k + 64) && x.getLsbD (k + 64 - i))).length % 2 = 1) := by
  rw [opClmulh, BitVec.getLsbD_setWidth, BitVec.getLsbD_ushiftRight, Nat.add_comm 64 k, getLsbD_clprod x y (by omega), oddCount]
  simp [below]

/-! ### Counts of bits -/

theorem clzW_of_top {x : Word} {k : Nat} (one : x.getLsbD k = true) (zeros : ∀ j, k < j → x.getLsbD j = false) :
    clzW x = BitVec.ofNat 64 (63 - k) := by
  have low : 2 ^ k ≤ x.toNat := Nat.ge_two_pow_of_testBit one
  have high : x.toNat < 2 ^ (k + 1) := Nat.lt_pow_two_of_testBit _ fun j hj => zeros j (by omega)
  have nonzero : x ≠ 0 := by
    rintro rfl
    simp at one
  have log : Nat.log2 x.toNat = k := (Nat.log2_eq_iff (by have := Nat.two_pow_pos k; omega)).mpr ⟨low, high⟩
  rw [clzW, if_neg nonzero, log]

theorem ctzNat_zero (n : Nat) : ctzNat n 0 = n := by
  induction n with
  | zero => rfl
  | succ n ih => simp [ctzNat, ih, Nat.add_comm]

theorem ctzNat_of_bottom {n k v : Nat} (below : k < n) (one : v.testBit k = true) (zeros : ∀ j, j < k → v.testBit j = false) :
    ctzNat n v = k := by
  induction n generalizing k v with
  | zero => omega
  | succ n ih =>
    cases k with
    | zero =>
      have odd : v % 2 = 1 := by simpa [Nat.testBit_zero] using one
      rw [ctzNat, if_pos odd]
    | succ k =>
      have even : ¬v % 2 = 1 := by simpa [Nat.testBit_zero] using zeros 0 (by omega)
      have half := ih (k := k) (v := v / 2) (by omega) (by rwa [← Nat.testBit_succ])
        (fun j hj => by rw [← Nat.testBit_succ]; exact zeros (j + 1) (by omega))
      rw [ctzNat, if_neg even, half, Nat.add_comm]

theorem popNat_eq (n v : Nat) : popNat n v = ((List.range n).filter (fun i => v.testBit i)).length := by
  induction n generalizing v with
  | zero => rfl
  | succ n ih =>
    have half : ((List.range n).map Nat.succ).filter (fun i => v.testBit i) =
        ((List.range n).filter (fun i => (v / 2).testBit i)).map Nat.succ := by
      simp [List.filter_map, Function.comp_def, Nat.testBit_succ]
    rw [popNat, ih, List.range_succ_eq_map, List.filter_cons, half]
    by_cases odd : v % 2 = 1
    · simp [Nat.testBit_zero, odd, Nat.add_comm]
    · simp [Nat.testBit_zero, Nat.mod_two_ne_one.mp odd]

/-! ### The order of bytes -/

theorem getElem_leBytes {n v i : Nat} (h : i < (leBytes n v).length) : (leBytes n v)[i] = BitVec.ofNat 8 (v / 256 ^ i) := by
  induction n generalizing v i with
  | zero => simp [leBytes] at h
  | succ n ih =>
    cases i with
    | zero => simp [leBytes]
    | succ i =>
      have next := ih (v := v / 256) (i := i) (by simpa [leBytes] using h)
      rw [Nat.div_div_eq_div_mul, ← Nat.pow_succ'] at next
      simpa [leBytes] using next

theorem leNat_lt (bs : List Byte) : leNat bs < 256 ^ bs.length := by
  induction bs with
  | nil => simp [leNat]
  | cons b t ih =>
    have := b.isLt
    rw [leNat, List.length_cons, Nat.pow_succ]
    omega

theorem leNat_byte {bs : List Byte} {i : Nat} (h : i < bs.length) : leNat bs / 256 ^ i % 256 = bs[i].toNat := by
  induction bs generalizing i with
  | nil => simp at h
  | cons b t ih =>
    have := b.isLt
    cases i with
    | zero => simp [leNat]; omega
    | succ i =>
      have rest : leNat (b :: t) / 256 = leNat t := by rw [leNat]; omega
      rw [Nat.pow_succ', ← Nat.div_div_eq_div_mul, rest, ih (by simpa using h)]
      rfl

theorem extractLsb'_byte (v : Word) (i : Nat) : v.extractLsb' (8 * i) 8 = BitVec.ofNat 8 (v.toNat / 256 ^ i) := by
  apply BitVec.eq_of_toNat_eq
  rw [BitVec.extractLsb'_toNat, BitVec.toNat_ofNat, Nat.shiftRight_eq_div_pow, Nat.pow_mul]

theorem bswapW_byte (x : Word) {i : Nat} (below : i < 8) : (bswapW x).extractLsb' (8 * (7 - i)) 8 = x.extractLsb' (8 * i) 8 := by
  have len : (leBytes 8 x.toNat).reverse.length = 8 := by simp [leBytes_length]
  have fits : leNat (leBytes 8 x.toNat).reverse < 2 ^ 64 := by
    have := leNat_lt (leBytes 8 x.toNat).reverse
    rwa [len] at this
  have byte := leNat_byte (bs := (leBytes 8 x.toNat).reverse) (i := 7 - i) (by omega)
  rw [List.getElem_reverse, getElem_leBytes] at byte
  rw [extractLsb'_byte, extractLsb'_byte, bswapW, BitVec.toNat_ofNat, Nat.mod_eq_of_lt fits]
  apply BitVec.eq_of_toNat_eq
  rw [BitVec.toNat_ofNat, byte, leBytes_length, show 8 - 1 - (7 - i) = i by omega]

/-- Settles O13: the value of each word, by the lemma of its operation where the table writes it another way. -/
theorem aluResults : Obligations.AluResults := by
  refine ⟨fun s d a b ready => ?_, fun s d a ready => ?_⟩
  · have two (op : Word → Word → Word) := alu2_ready op ready
    have same {op : Word → Word → Word} {v : Word} (h : op (getG s a) (getG s b) = v) :
        alu2 op d a b s = .next (finish 1 s (.done (setG s d v))) := by rw [two, h]
    exact ⟨two _, two _, two _, two _, two _, two _, two _, two _, two _, two _, two _, two _, same (opRol_eq _ _),
      same (opRor_eq _ _), same (opMin_eq _ _), same (opMax_eq _ _), same (opMinn_eq _ _), same (opMaxn_eq _ _), two _, two _,
      ⟨_, two _, fun k below => getLsbD_opClmul _ _ below⟩, ⟨_, two _, fun k below => getLsbD_opClmulh _ _ below⟩⟩
  · have one (op : Word → Word) := alu1_ready op ready
    have same {op : Word → Word} {v : Word} (h : op (getG s a) = v) :
        alu1 op d a s = .next (finish 1 s (.done (setG s d v))) := by rw [one, h]
    refine ⟨fun zero => ⟨?_, ?_⟩, fun k below ones zeros => same (clzW_of_top ones zeros), fun k below ones zeros => ?_, ?_,
      _, one _, fun i below => bswapW_byte _ below⟩
    · exact same (by rw [zero]; rfl)
    · exact same (by rw [zero]; exact congrArg (BitVec.ofNat 64) (ctzNat_zero 64))
    · exact same (congrArg (BitVec.ofNat 64) (ctzNat_of_bottom below ones zeros))
    · exact same (congrArg (BitVec.ofNat 64) (popNat_eq 64 _))

end Sys2Proof.Machine
end

section
/-! Immediates, constants and bit fields (spec/05_strand_integer_control.md R101 to R104). -/

namespace Sys2Proof.Machine

/-- A shift by six bits shifts by their number. -/
theorem amount_zextW (n : BitVec 6) : (zextW n).toNat % 64 = n.toNat := by
  rw [zextW, BitVec.toNat_setWidth]
  omega

theorem opSll_zextW (x : Word) (n : BitVec 6) : opSll x (zextW n) = x <<< n.toNat := by rw [opSll, amount, amount_zextW]

theorem opSrl_zextW (x : Word) (n : BitVec 6) : opSrl x (zextW n) = x >>> n.toNat := by rw [opSrl, amount, amount_zextW]

theorem opSra_zextW (x : Word) (n : BitVec 6) : opSra x (zextW n) = x.sshiftRight n.toNat := by rw [opSra, amount, amount_zextW]

theorem opRor_zextW (x : Word) (n : BitVec 6) :
    opRor x (zextW n) = (x >>> n.toNat) ||| (x <<< ((64 - n.toNat) % 64)) := by
  rw [opRor_eq, amount_zextW]

theorem lui_eq (u : BitVec 20) : (u ++ (0 : BitVec 12) : BitVec 32) = u.setWidth 32 <<< 12 := by
  apply BitVec.eq_of_getLsbD_eq
  intro i hi
  rw [BitVec.getLsbD_append, BitVec.getLsbD_shiftLeft, BitVec.getLsbD_setWidth]
  have inner : i - 12 < 32 := by omega
  by_cases low : i < 12 <;> simp [low, hi, inner]

theorem lih_high (u : BitVec 20) (v : Word) : (u ++ v.setWidth 44 : Word).extractLsb' 44 20 = u := by
  apply BitVec.eq_of_getLsbD_eq
  intro i hi
  rw [BitVec.getLsbD_extractLsb', BitVec.getLsbD_append]
  simp [hi]

theorem lih_low (u : BitVec 20) (v : Word) : (u ++ v.setWidth 44 : Word).extractLsb' 0 44 = v.extractLsb' 0 44 := by
  apply BitVec.eq_of_getLsbD_eq
  intro i hi
  rw [BitVec.getLsbD_extractLsb', BitVec.getLsbD_extractLsb', BitVec.getLsbD_append]
  simp [hi]

/-- A field, zero-extended. -/
theorem bfxW_unsigned (x : Word) (pos len1 : BitVec 6) :
    bfxW x false pos len1 = (x >>> pos.toNat) &&& BitVec.ofNat 64 (2 ^ (len1.toNat + 1) - 1) := by
  have short : 2 ^ (len1.toNat + 1) ≤ 2 ^ 64 := Nat.pow_le_pow_right (by decide) (by omega)
  have mask : (2 ^ (len1.toNat + 1) - 1) % 2 ^ 64 = 2 ^ (len1.toNat + 1) - 1 := Nat.mod_eq_of_lt (by omega)
  have field : x.toNat / 2 ^ pos.toNat % 2 ^ (len1.toNat + 1) < 2 ^ 64 :=
    (Nat.mod_lt _ (Nat.two_pow_pos _)).trans_le short
  apply BitVec.eq_of_toNat_eq
  rw [bfxW, if_neg Bool.false_ne_true, BitVec.toNat_and, BitVec.toNat_ofNat, BitVec.toNat_ofNat, mask, BitVec.toNat_ushiftRight,
    Nat.and_two_pow_sub_one_eq_mod, Nat.shiftRight_eq_div_pow, Nat.mod_eq_of_lt field]

/-- The integer of a field is that of a word of its width. -/
theorem signedOf_eq_toInt {n : Nat} (v : Nat) (pos : 0 < n) : signedOf n v = (BitVec.ofNat n v).toInt := by
  have double : 2 ^ n = 2 * 2 ^ (n - 1) := by rw [← Nat.pow_succ', Nat.succ_eq_add_one, Nat.sub_add_cancel pos]
  rw [BitVec.toInt_eq_toNat_cond, BitVec.toNat_ofNat, signedOf]
  by_cases low : v % 2 ^ n < 2 ^ (n - 1)
  · rw [if_pos low, if_pos (by omega)]
  · rw [if_neg low, if_neg (by omega)]

/-- A field, sign-extended, repeats its last bit. -/
theorem getLsbD_bfxW_signed (x : Word) (pos len1 : BitVec 6) {k : Nat} (below : k < 64) :
    (bfxW x true pos len1).getLsbD k = x.getLsbD (pos.toNat + min k len1.toNat) := by
  have bit {i : Nat} (hi : i < len1.toNat + 1) :
      (BitVec.ofNat (len1.toNat + 1) (x.toNat / 2 ^ pos.toNat % 2 ^ (len1.toNat + 1))).getLsbD i = x.getLsbD (pos.toNat + i) := by
    rw [BitVec.getLsbD_ofNat, Nat.testBit_mod_two_pow, Nat.testBit_div_two_pow, Nat.add_comm i]
    simp [hi, BitVec.getLsbD]
  rw [bfxW, if_pos rfl, signedOf_eq_toInt _ (Nat.succ_pos _), ← BitVec.signExtend, BitVec.getLsbD_signExtend, BitVec.msb_eq_getLsbD_last]
  by_cases low : k < len1.toNat + 1
  · simp only [below, low, decide_true, Bool.true_and, if_true]
    rw [bit low, Nat.min_eq_left (by omega)]
  · simp only [below, low, decide_true, Bool.true_and, if_false]
    rw [bit (by omega), Nat.min_eq_right (by omega), Nat.succ_eq_add_one, Nat.add_sub_cancel]

theorem getLsbD_bfiW (d x : Word) (pos len1 : BitVec 6) {k : Nat} (below : k < 64) : (bfiW d x pos len1).getLsbD k =
    if pos.toNat ≤ k ∧ k < pos.toNat + (len1.toNat + 1) then x.getLsbD (k - pos.toNat) else d.getLsbD k := by
  have mask : (BitVec.ofNat 64 ((2 ^ (len1.toNat + 1) - 1) * 2 ^ pos.toNat)).getLsbD k =
      decide (pos.toNat ≤ k ∧ k < pos.toNat + (len1.toNat + 1)) := by
    rw [BitVec.getLsbD_ofNat, Nat.testBit_mul_two_pow, Nat.testBit_two_pow_sub_one, Bool.decide_and]
    by_cases low : pos.toNat ≤ k
    · have same : k - pos.toNat < len1.toNat + 1 ↔ k < pos.toNat + (len1.toNat + 1) := by omega
      simp [below, low, same]
    · simp [below, low]
  simp only [bfiW, BitVec.getLsbD_or, BitVec.getLsbD_and, BitVec.getLsbD_not, mask, BitVec.getLsbD_shiftLeft]
  split
  case isTrue inside => simp [inside, below, Nat.not_lt.mpr inside.1]
  case isFalse outside => simp [outside, below]

/-- An instruction that is ready and only writes g[D]. -/
theorem issue_writes {regs : List Reg} {stops : Bool} {d : Reg} {s : State} (f : State → Word) {v : Word} (value : f s = v)
    (ready : Ready regs stops s) :
    issue regs stops 1 (fun s => .done (setG s d (f s))) s = .next (finish 1 s (.done (setG s d v))) :=
  issue_done ready (by rw [value])

/-- Settles O15: the value of each word; of bit fields, bit by bit. -/
theorem immediateResults : Obligations.ImmediateResults := by
  refine ⟨fun s d a i n u => ⟨fun ready => ?_, fun ready => ?_⟩, fun s d a pos len1 ready => ?_⟩
  · have one (op : Word → Word) := alu1_ready op ready
    have same (op : Word → Word) {v : Word} (h : op (getG s a) = v) :
        alu1 op d a s = .next (finish 1 s (.done (setG s d v))) := by rw [one, h]
    refine ⟨one (opAdd · (sextW i)), one (opAnd · (sextW i)), one (opOr · (sextW i)), one (opXor · (sextW i)), ?_, ?_, ?_, ?_⟩
    · exact same (opSll · (zextW n)) (opSll_zextW _ n)
    · exact same (opSrl · (zextW n)) (opSrl_zextW _ n)
    · exact same (opSra · (zextW n)) (opSra_zextW _ n)
    · exact same (opRor · (zextW n)) (opRor_zextW _ n)
  · refine ⟨?_, u ++ (getG s d).setWidth 44, ?_, ?_, ?_⟩
    · exact issue_writes (fun _ => (u ++ (0 : BitVec 12) : BitVec 32).signExtend 64) (by rw [lui_eq]) ready
    · exact issue_writes (fun s => u ++ (getG s d).setWidth 44) rfl ready
    · exact lih_high _ _
    · exact lih_low _ _
  · have one (op : Word → Word) := alu1_ready op ready
    have unsigned := one (bfxW · false pos len1)
    rw [bfxW_unsigned] at unsigned
    exact ⟨unsigned, ⟨_, one (bfxW · true pos len1), fun k below => getLsbD_bfxW_signed _ _ _ below⟩, _,
      issue_writes (fun s => bfiW (getG s d) (getG s a) pos len1) rfl ready, fun k below => getLsbD_bfiW _ _ _ _ below⟩

end Sys2Proof.Machine
end

section
/-! Comparisons, SEL and the CND words (spec/05_strand_integer_control.md R105 to R107), and what register-only instructions leave
unchanged. -/

namespace Sys2Proof.Machine

/-- The comparisons as relations of the operands (R47). -/
theorem cmpHolds_eq (cc : Cmp) (x y : Word) : cmpHolds cc x y =
    match cc with
    | .eq => decide (x = y) | .ne => decide (x ≠ y)
    | .lt => decide (x.toInt < y.toInt) | .ge => decide (y.toInt ≤ x.toInt)
    | .ltn => decide (x.toNat < y.toNat) | .gen => decide (y.toNat ≤ x.toNat)
    | .bs => x.getLsbD (y.toNat % 64) | .bc => !x.getLsbD (y.toNat % 64) := by
  cases cc
  case eq | bs | bc | lt | ltn => rfl
  case ne => simp [cmpHolds, bne]; rfl
  case ge => simp [cmpHolds, BitVec.slt, ← decide_not]
  case gen => simp [cmpHolds, BitVec.ult, ← decide_not]

/-- An instruction that is ready and only writes a condition bit. -/
theorem issue_writesCond {regs : List Reg} {stops : Bool} {c : Cond} {s : State} (f : State → Bool) {b : Bool} (value : f s = b)
    (ready : Ready regs stops s) :
    issue regs stops 1 (fun s => .done (setC s c (f s))) s = .next (finish 1 s (.done (setC s c b))) :=
  issue_done ready (by rw [value])

theorem sel_value (x : Bool) (neg : Bool) (v w : Word) :
    (if (x != neg) = true then v else w) = if (x ^^ neg) = true then v else w := by
  cases x <;> cases neg <;> rfl

/-- Settles O16: each comparison by its relation; SEL and the CND words by their operations. -/
theorem conditionResults : Obligations.ConditionResults := by
  intro s c p q d a b imm neg
  refine ⟨fun ready cc => ?_, fun ready cc => ?_, fun ready => ?_, fun ready => ?_⟩
  · exact issue_writesCond (fun s => cmpHolds cc (getG s a) (getG s b)) (cmpHolds_eq cc _ _) ready
  · exact issue_writesCond (fun s => cmpHolds cc (getG s a) (sextW imm)) (cmpHolds_eq cc _ _) ready
  · exact issue_writes (fun s => if (getC s p != neg) = true then getG s a else getG s b) (sel_value ..) ready
  · refine ⟨?_, ?_, ?_, ?_⟩
    · exact issue_writesCond (fun s => getC s p && getC s q) rfl ready
    · exact issue_writesCond (fun s => getC s p || getC s q) rfl ready
    · exact issue_writesCond (fun s => getC s p != getC s q) rfl ready
    · exact issue_writesCond (fun s => getC s p && !getC s q) rfl ready

/-! ### The frame -/

theorem RestStands.trans {s t u : State} (h : RestStands s t) (k : RestStands t u) : RestStands s u := by
  obtain ⟨tb, ras, rasi, spill, cq, loads, copies, text, run, sys, store, thatch, mem, fab, links, pkg, spad⟩ := h
  obtain ⟨tb', ras', rasi', spill', cq', loads', copies', text', run', sys', store', thatch', mem', fab', links', pkg', spad'⟩ := k
  have trace : traceOn t = traceOn s := by unfold traceOn; rw [traceb_of_sys sys]
  exact ⟨tb'.trans tb, ras'.trans ras, rasi'.trans rasi, spill'.trans spill, cq'.trans cq, loads'.trans loads, copies'.trans copies,
    text'.trans text, run'.trans run, sysEq_trans sys sys', storeEq_trans store store', thatch'.trans thatch, mem'.trans mem,
    fab'.trans fab, links'.trans links, pkg'.trans pkg, fun off => (spad' (trace.trans off)).trans (spad off)⟩

/-- Control behind a word is no more than control. -/
theorem Moves.restStands {s t : State} (h : Moves s t) : RestStands s t :=
  ⟨h.tb, h.ras, h.rasi, h.spill, h.cq, h.loads, h.copies, h.text, h.run, h.sys, h.store, h.thatch, h.mem, h.fab, h.links, h.pkg, h.spad⟩

theorem restStands_setG (s : State) (d : Reg) (v : Word) : RestStands s (setG s d v) := by
  unfold setG
  split
  · exact (Moves.refl s).restStands
  · exact ⟨rfl, rfl, rfl, rfl, rfl, rfl, rfl, rfl, rfl, rfl, rfl, rfl, rfl, rfl, rfl, rfl, fun _ => rfl⟩

theorem restStands_setC (s : State) (c : Cond) (b : Bool) : RestStands s (setC s c b) := by
  unfold setC
  split
  · exact (Moves.refl s).restStands
  · exact ⟨rfl, rfl, rfl, rfl, rfl, rfl, rfl, rfl, rfl, rfl, rfl, rfl, rfl, rfl, rfl, rfl, fun _ => rfl⟩

theorem getG_congr {s t : State} (h : t.strand.g = s.strand.g) (r : Reg) : getG t r = getG s r := by
  rw [getG, getG, h]

theorem getC_congr {s t : State} (h : t.strand.c = s.strand.c) (c : Cond) : getC t c = getC s c := by
  rw [getC, getC, h]

/-- An integer instruction only writes its destination. -/
theorem exec_of_integerDest {i : Instr} {d : Reg} (h : integerDest i = some d) :
    ∃ (regs : List Reg) (f : State → Word), ∀ s, exec i s = issue regs false 1 (fun s => .done (setG s d (f s))) s := by
  cases i
  all_goals cases h
  all_goals exact ⟨_, _, fun _ => rfl⟩

/-- A comparison or a CND word only writes its condition bit. -/
theorem exec_of_conditionDest {i : Instr} {c : Cond} (h : conditionDest i = some c) :
    ∃ (regs : List Reg) (f : State → Bool), ∀ s, exec i s = issue regs false 1 (fun s => .done (setC s c (f s))) s := by
  cases i
  all_goals cases h
  all_goals exact ⟨_, _, fun _ => rfl⟩

/-- Settles O17: each instruction of the two families only writes its destination, and control moves on from there or from the state
that the instruction found. -/
theorem registerFrame : Obligations.RegisterFrame := by
  refine ⟨fun i d s t dest next => ?_, fun i c s t dest next => ?_⟩
  · obtain ⟨regs, f, arm⟩ := exec_of_integerDest dest
    rw [arm] at next
    rcases moves_of_issue_done next with moves | moves
    · exact ⟨fun r _ => getG_congr moves.g r, moves.c, moves.restStands⟩
    · exact ⟨fun r other => (getG_congr moves.g r).trans (getG_setG_ne _ _ _ _ other), moves.c.trans (setG_c ..),
        (restStands_setG ..).trans moves.restStands⟩
  · obtain ⟨regs, f, arm⟩ := exec_of_conditionDest dest
    rw [arm] at next
    rcases moves_of_issue_done next with moves | moves
    · exact ⟨fun x _ => getC_congr moves.c x, moves.g, moves.restStands⟩
    · exact ⟨fun x other => (getC_congr moves.c x).trans (getC_setC_ne _ _ _ _ other), moves.g.trans (setC_g ..),
        (restStands_setC ..).trans moves.restStands⟩

end Sys2Proof.Machine
end

section
/-! Control behind a completed instruction (spec/04_strand.md R79 to R84): what the end of a loop leaves, where control goes, and what
completing an instruction leaves unchanged. -/

namespace Sys2Proof.Machine

/-! ### With the trace off, control takes no snapshot (R280) -/

theorem endLoop_prof (how : Nat) {s : State} (off : traceOn s = false) : (endLoop how s).prof = s.prof := by
  simp [endLoop, off]

theorem loopBack_prof (l : LoopId) (s : State) : (loopBack l s).prof = s.prof := by
  unfold loopBack
  dsimp only
  split <;> rfl

theorem afterWord_prof (n : Nat) (last : BitVec 32) {s : State} (off : traceOn s = false) : (afterWord n last s).prof = s.prof := by
  induction n generalizing s with
  | zero => rfl
  | succ n ih =>
    unfold afterWord
    dsimp only
    split
    · split
      · exact loopBack_prof _ _
      · rw [ih ((moves_of_endLoop 0 s).traceOn.trans off), endLoop_prof 0 off]
    · rfl

theorem transferTo_prof (how n : Nat) (t : BitVec 32) {s : State} (off : traceOn s = false) :
    (transferTo how n t s).prof = s.prof := by
  induction n generalizing s with
  | zero => rfl
  | succ n ih =>
    unfold transferTo
    split
    · rw [ih ((moves_of_endLoop how s).traceOn.trans off), endLoop_prof how off]
    · rfl

theorem endLoopsTo_prof (n : Nat) (l : LoopId) {s : State} (off : traceOn s = false) : (endLoopsTo n l s).prof = s.prof := by
  induction n generalizing s with
  | zero => rfl
  | succ n ih =>
    unfold endLoopsTo
    split
    · rfl
    · split
      · exact endLoop_prof 1 off
      · rw [ih ((moves_of_endLoop 1 s).traceOn.trans off), endLoop_prof 1 off]

theorem completeSlot_prof (p : Pend) (last : BitVec 32) {s : State} (off : traceOn s = false) :
    (completeSlot p last s).prof = s.prof := by
  unfold completeSlot
  split
  · split
    · exact transferTo_prof _ _ _ off
    · exact afterWord_prof _ _ off
  · split
    · exact transferTo_prof _ _ _ off
    · exact afterWord_prof _ _ off
  · split
    · rw [transferTo_prof _ _ _ ((moves_of_endLoopsTo _ _ s).traceOn.trans off), endLoopsTo_prof _ _ off]
    · exact afterWord_prof _ _ off
  · unfold runAhead
    dsimp only
    split
    · exact transferTo_prof _ _ _ off
    · exact afterWord_prof _ _ off

theorem advance_prof (size : BitVec 32) {s : State} (off : traceOn s = false) : (advance size s).prof = s.prof := by
  unfold advance goOn
  dsimp only
  split
  · split
    · rfl
    · exact afterWord_prof _ _ off
  · split
    · exact completeSlot_prof _ _ off
    · exact afterWord_prof _ _ off

/-- A snapshot in progress stalls an instruction that takes another (R280). -/
theorem snapGuard_stalls {s t : State} (busy : s.prof.busy = true) (another : t.prof.snaps ≠ s.prof.snaps) :
    snapGuard s t = stallAt s := by
  simp [snapGuard, busy, another]

theorem snapGuard_same {s t : State} (same : t.prof.snaps = s.prof.snaps) : snapGuard s t = t := by
  simp [snapGuard, same]

/-- Settles O11: control behind a word is `Moves`; what becomes of the snapshots is `snapGuard`. -/
theorem completionFrame : Obligations.CompletionFrame := by
  intro size s u
  have moves := moves_of_advance size u
  exact ⟨⟨moves.g, moves.c, moves.bounds, moves.restStands⟩, snapGuard_idle _, fun _ same => snapGuard_same same,
    snapGuard_stalls, fun off => by rw [advance_prof size off]⟩

/-! ### The end of a loop (R81, R84) -/

/-- XSTAT behind the end of the innermost loop. -/
def afterLoop (x : Xstat) : Xstat :=
  let x' : Xstat := { x with depth := x.depth - 1, nest := x.nest >>> 2 }
  if isPipe x (innermost x) then { x' with pipe := false, q := 0, stg := 0, pid := 0 } else x'

theorem afterLoop_depth (x : Xstat) : (afterLoop x).depth = x.depth - 1 := by
  unfold afterLoop
  dsimp only
  split <;> rfl

theorem afterLoop_nest (x : Xstat) : (afterLoop x).nest = x.nest >>> 2 := by
  unfold afterLoop
  dsimp only
  split <;> rfl

theorem exitSnap_strand (dw3 how : Nat) (s : State) : (exitSnap dw3 how s).strand = s.strand := by
  unfold exitSnap
  split
  · rfl
  · have traced := traceSnap_onlyTraced 2 0 dw3 how s
    rw [OnlyTraced] at traced
    rw [traced]

/-- Of the strand the end of a loop changes XSTAT alone; the loop's register keeps its values (R81). -/
theorem endLoop_strand (how : Nat) (s : State) :
    (endLoop how s).strand = { s.strand with xstat := afterLoop s.strand.xstat } := by
  unfold endLoop
  dsimp only
  split
  · rw [exitSnap_strand]
    rfl
  · rfl

theorem getBounds_endLoop (how : Nat) (s : State) (l : LoopId) : getBounds (endLoop how s) l = getBounds s l := by
  rw [getBounds, endLoop_strand]
  rfl

theorem getLc_endLoop (how : Nat) (s : State) (l : LoopId) : getLc (endLoop how s) l = getLc s l := by
  rw [getLc, endLoop_strand]
  rfl

/-- The loop around the innermost one. -/
theorem innermost_afterLoop (x : Xstat) : innermost (afterLoop x) = Fin.ofNat 4 (x.nest.toNat / 4) := by
  rw [innermost, afterLoop_nest, BitVec.toNat_ushiftRight, Nat.shiftRight_eq_div_pow]

/-- The active loops are the innermost one and those around it. -/
theorem activeLoops_cons {x : Xstat} (active : x.depth ≠ 0) : activeLoops x = innermost x :: activeLoops (afterLoop x) := by
  have depth : x.depth.toNat = (x.depth - 1).toNat + 1 := by
    have : x.depth.toNat ≠ 0 := fun h => active (BitVec.eq_of_toNat_eq h)
    have := x.depth.isLt
    rw [BitVec.toNat_sub]
    simp
    omega
  have around (i : Nat) : (x.nest >>> 2).toNat / 4 ^ i = x.nest.toNat / 4 ^ (i + 1) := by
    rw [BitVec.toNat_ushiftRight, Nat.shiftRight_eq_div_pow, Nat.div_div_eq_div_mul, Nat.pow_succ' (m := 4)]
  simp only [activeLoops, afterLoop_depth, afterLoop_nest, around]
  rw [depth, List.range_succ_eq_map, List.map_cons, List.map_map]
  simp [innermost, Function.comp_def]

theorem activeLoops_none {x : Xstat} (inactive : x.depth = 0) : activeLoops x = [] := by
  simp [activeLoops, inactive]

/-- A loop that is no LOOPS, or another one than the innermost, has the stages behind the end of the innermost that it had. -/
theorem stagesOf_afterLoop {x : Xstat} {o : LoopId} (other : o ≠ innermost x) : stagesOf (afterLoop x) o = stagesOf x o := by
  by_cases pipe : isPipe x (innermost x) = true
  · have pid : x.pid.toNat = (innermost x).val := by
      simp only [isPipe, Bool.and_eq_true, beq_iff_eq] at pipe
      exact pipe.2
    have notIt : isPipe x o = false := by
      simp only [isPipe, pid, Bool.and_eq_false_iff, beq_eq_false_iff_ne]
      exact .inr fun same => other (Fin.ext same.symm)
    have none : isPipe (afterLoop x) o = false := by
      rw [afterLoop, if_pos pipe]
      rfl
    rw [stagesOf, stagesOf, notIt, none]
    rfl
  · rw [afterLoop, if_neg pipe]
    rfl

/-! ### Behind the last word of a body (R82 step 6) -/

section AfterWord

variable {n : Nat} {last : BitVec 32} {s : State}

theorem afterWord_outside (outside : s.strand.xstat.depth = 0 ∨ (getBounds s (innermost s.strand.xstat)).last ≠ last) :
    afterWord n last s = withPc s (last + 1) := by
  cases n with
  | zero => rfl
  | succ n =>
    rw [afterWord, if_neg]
    rintro ⟨active, atLast⟩
    exact outside.elim active (· atLast)

variable (active : s.strand.xstat.depth ≠ 0) (atLast : (getBounds s (innermost s.strand.xstat)).last = last)
include active atLast

theorem afterWord_more (more : (getLc s (innermost s.strand.xstat)).j.toNat + 1 < loopTotal s (innermost s.strand.xstat)) :
    afterWord (n + 1) last s = loopBack (innermost s.strand.xstat) s := by
  rw [afterWord, if_pos ⟨active, atLast⟩, if_pos more]

theorem afterWord_over (done : loopTotal s (innermost s.strand.xstat) ≤ (getLc s (innermost s.strand.xstat)).j.toNat + 1) :
    afterWord (n + 1) last s = afterWord n last (endLoop 0 s) := by
  rw [afterWord, if_pos ⟨active, atLast⟩, if_neg (by omega)]

end AfterWord

theorem loopBack_pc (l : LoopId) (s : State) : (loopBack l s).strand.pc = (getBounds s l).first := by
  unfold loopBack
  dsimp only
  split <;> rfl

theorem loopBack_depth (l : LoopId) (s : State) : (loopBack l s).strand.xstat.depth = s.strand.xstat.depth := by
  unfold loopBack
  dsimp only
  split <;> rfl

theorem loopBack_lc (l : LoopId) (s : State) :
    (loopBack l s).strand.lc = s.strand.lc.set l { getLc s l with j := (getLc s l).j + 1 } := by
  unfold loopBack
  dsimp only
  split <;> rfl

theorem getLc_loopBack_same (l : LoopId) (s : State) : getLc (loopBack l s) l = { getLc s l with j := (getLc s l).j + 1 } := by
  rw [getLc, loopBack_lc]
  simp

theorem getLc_loopBack_ne {l o : LoopId} (s : State) (other : o ≠ l) : getLc (loopBack l s) o = getLc s o := by
  have apart : l.val ≠ o.val := fun same => other (Fin.ext same.symm)
  rw [getLc, loopBack_lc]
  simp [apart, getLc]

/-! ### A transfer out of loops (R84) -/

/-- Of the strand a transfer changes the pc and XSTAT; the loops that stay active are those from the innermost one on that holds the
target. -/
theorem transferTo_spec (how n : Nat) (t : BitVec 32) (s : State) (deep : s.strand.xstat.depth.toNat ≤ n) :
    let u := transferTo how n t s
    u.strand.pc = t ∧ u.strand.pend = s.strand.pend ∧ u.strand.lc = s.strand.lc ∧
      activeLoops u.strand.xstat = (activeLoops s.strand.xstat).dropWhile (fun o => !inBody (getBounds s o) t) := by
  induction n generalizing s with
  | zero =>
    have none : s.strand.xstat.depth = 0 := BitVec.eq_of_toNat_eq (Nat.le_zero.mp deep)
    exact ⟨rfl, rfl, rfl, by simp [transferTo, activeLoops_none none]⟩
  | succ n ih =>
    by_cases leaves : s.strand.xstat.depth ≠ 0 ∧ inBody (getBounds s (innermost s.strand.xstat)) t = false
    · obtain ⟨active, outside⟩ := leaves
      have nonzero : s.strand.xstat.depth.toNat ≠ 0 := fun h => active (BitVec.eq_of_toNat_eq h)
      have next := ih (endLoop how s) (by
        rw [endLoop_strand, afterLoop_depth, BitVec.toNat_sub]
        have := s.strand.xstat.depth.isLt
        simp
        omega)
      simp only [getBounds_endLoop] at next
      simp only [endLoop_strand] at next
      rw [transferTo, if_pos ⟨active, outside⟩, activeLoops_cons active, List.dropWhile_cons_of_pos (by simp [outside])]
      exact next
    · have stays : activeLoops s.strand.xstat = (activeLoops s.strand.xstat).dropWhile (fun o => !inBody (getBounds s o) t) := by
        by_cases active : s.strand.xstat.depth = 0
        · rw [activeLoops_none active]
          rfl
        · have inside : inBody (getBounds s (innermost s.strand.xstat)) t = true := by
            rw [not_and, Bool.not_eq_false] at leaves
            exact leaves active
          rw [activeLoops_cons active, List.dropWhile_cons_of_neg (by simp [inside])]
      rw [transferTo, if_neg leaves]
      exact ⟨rfl, rfl, rfl, stays⟩

/-- LBRK ends the active loops up to and with its own. -/
theorem endLoopsTo_spec (n : Nat) (l : LoopId) (s : State) (deep : s.strand.xstat.depth.toNat ≤ n) :
    let u := endLoopsTo n l s
    u.strand.pend = s.strand.pend ∧ u.strand.lc = s.strand.lc ∧ u.strand.bounds = s.strand.bounds ∧
      u.strand.xstat.depth.toNat ≤ n ∧
      activeLoops u.strand.xstat = ((activeLoops s.strand.xstat).dropWhile (fun o => o != l)).drop 1 := by
  induction n generalizing s with
  | zero =>
    have none : s.strand.xstat.depth = 0 := BitVec.eq_of_toNat_eq (Nat.le_zero.mp deep)
    exact ⟨rfl, rfl, rfl, deep, by simp [endLoopsTo, activeLoops_none none]⟩
  | succ n ih =>
    unfold endLoopsTo
    split
    case isTrue none => exact ⟨rfl, rfl, rfl, deep, by simp [activeLoops_none none]⟩
    case isFalse active =>
      have less : (endLoop 1 s).strand.xstat.depth.toNat ≤ n := by
        have nonzero : s.strand.xstat.depth.toNat ≠ 0 := fun h => active (BitVec.eq_of_toNat_eq h)
        rw [endLoop_strand, afterLoop_depth, BitVec.toNat_sub]
        have := s.strand.xstat.depth.isLt
        simp
        omega
      rw [activeLoops_cons active]
      split
      case isTrue found =>
        rw [List.dropWhile_cons_of_neg (by simp [found])]
        simp only [List.drop_succ_cons, List.drop_zero]
        exact ⟨by rw [endLoop_strand], by rw [endLoop_strand], by rw [endLoop_strand], by omega, by rw [endLoop_strand]⟩
      case isFalse other =>
        obtain ⟨pend, lc, bounds, depth, active⟩ := ih (endLoop 1 s) less
        rw [List.dropWhile_cons_of_pos (by simpa using other)]
        simp only [endLoop_strand] at pend lc bounds active
        exact ⟨pend, lc, bounds, by omega, active⟩

/-! ### Control behind a word -/

theorem advance_straight {size : BitVec 32} {s : State} (straight : Straight s) :
    advance size s = withPc (clearIssue (addCount 1 s)) (s.strand.pc + (size - 1) + 1) := by
  obtain ⟨depth, pend, rep⟩ := straight
  simp only [advance, countOf, goOn, rep, pend, clearIssue, addCount]
  exact afterWord_outside (.inl depth)

/-- Outside a repeat and a shadow slot control goes behind the word. -/
theorem advance_word {size : BitVec 32} {s : State} (rep : s.strand.rep = none) (pend : s.strand.pend = none) :
    advance size s = afterWord 4 (s.strand.pc + (size - 1)) (clearIssue (addCount 1 s)) := by
  simp only [advance, countOf, goOn, rep, pend, clearIssue, addCount]

theorem advance_slot {size : BitVec 32} {s : State} {p : Pend} (rep : s.strand.rep = none) (pend : s.strand.pend = some p) :
    advance size s = completeSlot p (s.strand.pc + (size - 1))
      (clearIssue (addCount 1 { s with strand := { s.strand with pend := none } })) := by
  simp only [advance, countOf, goOn, rep, pend, clearIssue, addCount]

/-- A transfer that is not taken goes on behind its slot. -/
theorem completeSlot_notTaken {p : Pend} {last : BitVec 32} {s : State} (known : ∀ h i, p.kind ≠ .cbrOpen h i)
    (notTaken : p.taken = false) : completeSlot p last s = afterWord 4 last s := by
  unfold completeSlot
  split
  case h_4 hint inst isOpen => exact absurd isOpen (known hint inst)
  all_goals rw [if_neg (by simp [notTaken])]

theorem completeSlot_taken {p : Pend} {last : BitVec 32} {s : State} (kind : p.kind = .xfer ∨ p.kind = .cbrKnown)
    (taken : p.taken = true) : completeSlot p last s = transferTo 2 4 p.target s := by
  rcases kind with kind | kind <;> simp [completeSlot, kind, taken]

theorem completeSlot_lbrk {p : Pend} {last : BitVec 32} {s : State} {k : LoopId} (kind : p.kind = .lbrk k)
    (taken : p.taken = true) : completeSlot p last s = transferTo 2 4 p.target (endLoopsTo 4 k s) := by
  simp [completeSlot, kind, taken]

theorem add_sub_one_add_one (a size : BitVec 32) : a + (size - 1) + 1 = a + size := by
  rw [BitVec.add_assoc, BitVec.sub_add_cancel]

/-- The next repetition (R87); the REP is counted with the first one (R78). -/
theorem advance_repeats {size : BitVec 32} {s : State} {r : RepState} (rep : s.strand.rep = some r) (more : r.k < r.n) :
    advance size s = clearIssue (addCount (if r.k = 0 then 2 else 1)
      { s with strand := { s.strand with rep := some { r with k := r.k + 1 } } }) := by
  simp only [advance, countOf, goOn, rep, clearIssue, addCount, if_pos more]

/-- The loop around the innermost one. -/
def outerLoop (s : State) : LoopId := Fin.ofNat 4 (s.strand.xstat.nest.toNat / 4)

section LastWord

variable {size : BitVec 32} {s : State} (rep : s.strand.rep = none) (pend : s.strand.pend = none)
  (active : s.strand.xstat.depth ≠ 0)
  (atLast : (getBounds s (innermost s.strand.xstat)).last = s.strand.pc + (size - 1))
include rep pend active atLast

theorem advance_back (more : (getLc s (innermost s.strand.xstat)).j.toNat + 1 < loopTotal s (innermost s.strand.xstat)) :
    advance size s = loopBack (innermost s.strand.xstat) (clearIssue (addCount 1 s)) :=
  (advance_word rep pend).trans (afterWord_more active atLast more)

variable (done : loopTotal s (innermost s.strand.xstat) ≤ (getLc s (innermost s.strand.xstat)).j.toNat + 1)
include done

theorem advance_endLoop :
    advance size s = afterWord 3 (s.strand.pc + (size - 1)) (endLoop 0 (clearIssue (addCount 1 s))) :=
  (advance_word rep pend).trans (afterWord_over active atLast done)

theorem advance_behind (outside : s.strand.xstat.depth = 1 ∨ (getBounds s (outerLoop s)).last ≠ s.strand.pc + (size - 1)) :
    advance size s = withPc (endLoop 0 (clearIssue (addCount 1 s))) (s.strand.pc + size) := by
  rw [advance_endLoop rep pend active atLast done]
  conv => rhs; rw [← add_sub_one_add_one s.strand.pc size]
  refine afterWord_outside ?_
  rw [getBounds_endLoop, endLoop_strand]
  refine outside.imp (fun one => ?_) (fun other => ?_)
  · rw [afterLoop_depth]
    exact congrArg (· - 1) one
  · rw [innermost_afterLoop]
    exact other

theorem advance_outer (deep : s.strand.xstat.depth ≠ 1) (other : outerLoop s ≠ innermost s.strand.xstat)
    (atOuter : (getBounds s (outerLoop s)).last = s.strand.pc + (size - 1))
    (more : (getLc s (outerLoop s)).j.toNat + 1 < loopTotal s (outerLoop s)) :
    advance size s = loopBack (outerLoop s) (endLoop 0 (clearIssue (addCount 1 s))) := by
  have inner : innermost (endLoop 0 (clearIssue (addCount 1 s))).strand.xstat = outerLoop s := by
    rw [endLoop_strand]
    exact innermost_afterLoop _
  have total : loopTotal (endLoop 0 (clearIssue (addCount 1 s))) (outerLoop s) = loopTotal s (outerLoop s) := by
    rw [loopTotal, loopTotal, getLc_endLoop, endLoop_strand]
    exact congrArg (_ + · - 1) (stagesOf_afterLoop other)
  have stillActive : (endLoop 0 (clearIssue (addCount 1 s))).strand.xstat.depth ≠ 0 := by
    rw [endLoop_strand]
    intro zero
    have one : s.strand.xstat.depth - 1 = 0 := (afterLoop_depth (clearIssue (addCount 1 s)).strand.xstat).symm.trans zero
    exact deep (by rw [← BitVec.sub_add_cancel s.strand.xstat.depth 1, one]; rfl)
  rw [advance_endLoop rep pend active atLast done]
  conv => rhs; rw [← inner]
  refine afterWord_more stillActive ?_ ?_
  · rw [getBounds_endLoop, inner]
    exact atOuter
  · rw [inner, getLc_endLoop, total]
    exact more

end LastWord

/-- Settles O12: straight control; the last word of a body, by whether its loop and the one around it have iterations left; a pending
transfer, by its kind; a repeat. -/
theorem completionControl : Obligations.CompletionControl := by
  intro size s t l outer last
  refine ⟨fun straight => ?straight, fun rep pend active atLast => ⟨fun more => ?back, fun done outside => ?behind,
    fun done deep other atOuter more => ?outer⟩, fun p rep pend deep => ⟨fun kind taken => ?xfer, fun k kind taken => ?lbrk,
    fun known notTaken => ?fall⟩, fun r rep more => ?rep⟩
  case straight =>
    have ends : t = _ := advance_straight straight
    rw [ends]
    exact ⟨add_sub_one_add_one _ _, rfl⟩
  case back =>
    have ends : t = _ := advance_back rep pend active atLast more
    rw [ends]
    exact ⟨loopBack_pc _ _, getLc_loopBack_same _ _, loopBack_depth _ _⟩
  case behind =>
    have ends : t = _ := advance_behind rep pend active atLast done outside
    rw [ends, withPc_xstat, withPc_lc, endLoop_strand]
    exact ⟨rfl, afterLoop_depth _, afterLoop_nest _, rfl⟩
  case outer =>
    have ends : t = _ := advance_outer rep pend active atLast done deep other atOuter more
    rw [ends]
    refine ⟨(loopBack_pc _ _).trans (congrArg Bounds.first (getBounds_endLoop 0 _ _)), ?_, ?_, ?_⟩
    · rw [loopBack_depth, endLoop_strand]
      exact afterLoop_depth _
    · exact (getLc_loopBack_same _ _).trans (by rw [getLc_endLoop]; rfl)
    · exact (getLc_loopBack_ne _ (Ne.symm other)).trans (getLc_endLoop 0 _ _)
  case xfer =>
    have ends : t = _ := (advance_slot rep pend).trans (completeSlot_taken kind taken)
    rw [ends]
    exact transferTo_spec 2 4 p.target _ deep
  case lbrk =>
    have ends : t = _ := (advance_slot rep pend).trans (completeSlot_lbrk kind taken)
    rw [ends]
    obtain ⟨pend', lc', bounds', deep', active'⟩ :=
      endLoopsTo_spec 4 k (clearIssue (addCount 1 { s with strand := { s.strand with pend := none } })) deep
    obtain ⟨pc, pend'', lc'', active''⟩ := transferTo_spec 2 4 p.target _ deep'
    have sameBounds (o : LoopId) :
        getBounds (endLoopsTo 4 k (clearIssue (addCount 1 { s with strand := { s.strand with pend := none } }))) o = getBounds s o := by
      rw [getBounds, bounds']
      rfl
    simp only [sameBounds] at active''
    refine ⟨pc, pend''.trans pend', lc''.trans lc', ?_⟩
    rw [active'', active']
    rfl
  case fall =>
    have ends : t = _ := (advance_slot rep pend).trans (completeSlot_notTaken known notTaken)
    rw [ends]
    exact (advance_word (s := { s with strand := { s.strand with pend := none } }) rep rfl).symm
  case rep =>
    have ends : t = _ := advance_repeats rep more
    rw [ends]
    exact ⟨rfl, rfl, rfl⟩

end Sys2Proof.Machine
end

section
/-! Targets and transfers (spec/05_strand_integer_control.md R108 to R110). -/

namespace Sys2Proof.Machine

/-- A cause other than UE, with whatever INFO and FADDR, that no access met leaves nothing else behind (R137). -/
theorem exec_trapsWith {i : Instr} {regs : List Reg} {stops : Bool} {size : BitVec 32} {f : State → Res} {s : State} {t : Trap}
    (arm : exec i s = issue regs stops size f s) (ready : Ready regs stops s) (notBrk : t.cause ≠ .brk) (notUe : t.cause ≠ .ue)
    (noAccess : t.access = none) (refused : f s = .trap t) (notAhead : s.sys.spec = false) :
    exec i s = .next (trapEntry t false none s) := by
  rw [arm, issue_trap ready notAhead (viewWaits_other s notBrk) refused, consumedBy_other s notUe, walkedBy_none s noAccess]

theorem exec_ptr (t : Tb) (a : Reg) (s : State) : exec (.ptr t a) s = issue [a] false 1 (fun s =>
    if (getG s a).toNat < 2 ^ 32 then .done (setTb s t ((getG s a).setWidth 32))
    else .trap { cause := .seg, faddr := some (getG s a) }) s := rfl

/-- Settles O18: PTR by whether g[A] is a word address. -/
theorem targetResults : Obligations.TargetResults := by
  intro s t disp a
  refine ⟨fun ready => issue_done (f := fun s => .done (setTb s t (s.strand.pc + disp.signExtend 32))) ready rfl,
    fun ready below => (exec_ptr t a s).trans (issue_done ready (if_pos below)),
    fun ready above notAhead => ?_⟩
  exact exec_trapsWith (exec_ptr t a s) ready nofun nofun rfl (if_neg (Nat.not_lt.mpr above)) notAhead

/-! ### Transfers -/

theorem transferPlace_here {f : State → Res} {s : State} (place : TransferPlace s) : transferPlace f s = f s := by
  obtain ⟨pend, notLast⟩ := place
  simp [transferPlace, pend, notLast]

theorem transferPlace_inSlot {f : State → Res} {s : State} (inSlot : s.strand.pend ≠ none) :
    transferPlace f s = .trap { cause := .illegal } := by
  simp [transferPlace, Option.isSome_iff_ne_none.mpr inSlot]

theorem transferPlace_last {f : State → Res} {s : State} (pend : s.strand.pend = none) (last : lastOfSegment s = true) :
    transferPlace f s = .trap { cause := .loopShape } := by
  simp [transferPlace, pend, last]

/-- A transfer in its place waits behind its slot; no snapshot is taken there. -/
theorem transfer_jump {f : State → Res} {s u : State} {p : Pend} (ready : Ready [] false s) (place : TransferPlace s)
    (acts : f s = .jump (pendTransfer p u)) (same : u.prof = s.prof) : transfer f s = .next (pendTransfer p u) := by
  rw [transfer, issue_jump ready ((transferPlace_here place).trans acts),
    snapGuard_same (congrArg Profile.snaps (show (pendTransfer p u).prof = s.prof from same))]

theorem callWith_room {t : Tb} {s : State} (room : s.strand.ras.length < 16) : callWith t s =
    .jump (pendTransfer (pendTb s t true) { s with strand := { s.strand with ras := s.strand.ras ++ [afterSlot s] } }) :=
  if_neg (Nat.not_le.mpr room)

theorem callWith_full {t : Tb} {s : State} (full : 16 ≤ s.strand.ras.length) : callWith t s = .trap { cause := .rasOver } :=
  if_pos full

/-- CALLC as it acts in its place. -/
def callcActs (t : Tb) (c : Cond) (neg : Bool) (s : State) : Res :=
  if getC s c != neg then callWith t s else .jump (pendTransfer (pendTb s t false) s)

theorem exec_callc (t : Tb) (c : Cond) (neg : Bool) (s : State) : exec (.callc t c neg) s = transfer (callcActs t c neg) s := rfl

theorem callcActs_taken {t : Tb} {c : Cond} {neg : Bool} {s : State} (taken : (getC s c ^^ neg) = true) :
    callcActs t c neg s = callWith t s := by
  rw [callcActs, Bool.bne_eq_xor, taken]
  rfl

theorem callcActs_notTaken {t : Tb} {c : Cond} {neg : Bool} {s : State} (notTaken : (getC s c ^^ neg) = false) :
    callcActs t c neg s = .jump (pendTransfer (pendTb s t false) s) := by
  rw [callcActs, Bool.bne_eq_xor, notTaken]
  rfl

/-- RET as it acts in its place. -/
def retActs (s : State) : Res :=
  match s.strand.ras.getLast? with
  | none => .trap { cause := .rasEmpty }
  | some t => .jump (pendTransfer { kind := .xfer, taken := true, target := t, fall := afterSlot s }
      { s with strand := { s.strand with ras := s.strand.ras.dropLast } })

theorem exec_ret (s : State) : exec .ret s = transfer retActs s := rfl

theorem retActs_pop {s : State} {ras : List (BitVec 32)} {a : BitVec 32} (holds : s.strand.ras = ras ++ [a]) : retActs s =
    .jump (pendTransfer { kind := .xfer, taken := true, target := a, fall := afterSlot s }
      { s with strand := { s.strand with ras := ras } }) := by
  simp [retActs, holds]

theorem retActs_empty {s : State} (empty : s.strand.ras = []) : retActs s = .trap { cause := .rasEmpty } := by
  simp [retActs, empty]

/-- LBRK as it acts in its place. -/
def lbrkActs (l : LoopId) (c : Cond) (neg : Bool) (s : State) : Res :=
  .jump (pendTransfer
    { kind := .lbrk l, taken := (getC s c ^^ neg) && loopActive s l, target := (getBounds s l).last + 1, fall := afterSlot s } s)

theorem exec_lbrk (l : LoopId) (c : Cond) (neg : Bool) (s : State) : exec (.lbrk l c neg) s = transfer (lbrkActs l c neg) s := rfl

/-- Every transfer issues as `transfer` says. -/
theorem exec_transfer_of_mem {t : Tb} {c : Cond} {neg : Bool} {l : LoopId} {i : Instr}
    (isOne : i ∈ [Instr.br t, .brc t c neg, .call t, .callc t c neg, .ret, .lbrk l c neg]) :
    ∃ f, ∀ s, exec i s = transfer f s := by
  simp only [List.mem_cons, List.not_mem_nil, or_false] at isOne
  obtain rfl | rfl | rfl | rfl | rfl | rfl := isOne
  all_goals exact ⟨_, fun _ => rfl⟩

/-- Settles O19: each transfer in its place; then the places that none may stand in, and the return-address store, full and empty. -/
theorem transferResults : Obligations.TransferResults := by
  refine ⟨fun s t c neg l ready place => ?_, fun s t c neg l ready notAhead => ?_⟩
  · refine ⟨?br, ?brc, fun room => ?call, fun notTaken => ?skipped, fun taken room => ?callc, fun ras a holds => ?ret, ?lbrk⟩
    case br => exact transfer_jump (f := fun s => .jump (pendTransfer (pendTb s t true) s)) ready place rfl rfl
    case brc =>
      exact transfer_jump (f := fun s => .jump (pendTransfer (pendTb s t (getC s c != neg)) s)) ready place rfl rfl
    case call => exact transfer_jump (f := callWith t) ready place (callWith_room room) rfl
    case skipped => exact transfer_jump (f := callcActs t c neg) ready place (callcActs_notTaken notTaken) rfl
    case callc =>
      exact transfer_jump (f := callcActs t c neg) ready place ((callcActs_taken taken).trans (callWith_room room)) rfl
    case ret => exact transfer_jump (f := retActs) ready place (retActs_pop holds) rfl
    case lbrk => exact (exec_lbrk l c neg s).trans (transfer_jump ready place rfl rfl)
  · refine ⟨fun inSlot i isOne => ?slot, fun pend last i isOne => ?last, fun place full => ⟨?call, fun taken => ?callc⟩,
      fun place empty => ?ret⟩
    case slot =>
      obtain ⟨f, arm⟩ := exec_transfer_of_mem isOne
      exact exec_traps (arm s) ready (by decide) (by decide) (transferPlace_inSlot inSlot) notAhead
    case last =>
      obtain ⟨f, arm⟩ := exec_transfer_of_mem isOne
      exact exec_traps (arm s) ready (by decide) (by decide) (transferPlace_last pend last) notAhead
    case call =>
      have refused := (transferPlace_here (f := callWith t) place).trans (callWith_full full)
      exact exec_traps rfl ready (by decide) (by decide) refused notAhead
    case callc =>
      have refused := (transferPlace_here place).trans ((callcActs_taken (t := t) taken).trans (callWith_full full))
      exact exec_traps (exec_callc t c neg s) ready (by decide) (by decide) refused notAhead
    case ret =>
      have refused := (transferPlace_here place).trans (retActs_empty empty)
      exact exec_traps (exec_ret s) ready (by decide) (by decide) refused notAhead

end Sys2Proof.Machine
end

section
/-! The count queue (spec/04_strand.md R88 to R90, R119) and the starts of hardware loops (R82, R83, R113). -/

namespace Sys2Proof.Machine

/-! ### The count queue -/

theorem cqAppend_room {s : State} {v : BitVec 32} (room : s.strand.cq.length < 64) (noOverflow : s.strand.xstat.cqo = false) :
    cqAppend [v] s = { s with strand := { s.strand with cq := s.strand.cq ++ [v] } } := by
  obtain ⟨k, hk⟩ : ∃ k, 64 - s.strand.cq.length = k + 1 := ⟨63 - s.strand.cq.length, by omega⟩
  have x : { s.strand.xstat with cqo := false } = s.strand.xstat := by rw [← noOverflow]
  simp [cqAppend, hk, noOverflow, x]

theorem cqAppend_full {s : State} {v : BitVec 32} (full : s.strand.cq.length = 64) :
    cqAppend [v] s = withXstat s { s.strand.xstat with cqo := true } := by
  simp [cqAppend, full, withXstat]

theorem cqPop_entry {s : State} {v : BitVec 32} {q : List (BitVec 32)} (holds : s.strand.cq = v :: q) :
    cqPop s = some (v, { s with strand := { s.strand with cq := q } }) := by
  simp [cqPop, holds]

theorem cqPop_empty {s : State} (empty : s.strand.cq = []) (none : s.thatch.entries.any deliversCounts = false) :
    cqPop s = some (0, withXstat s { s.strand.xstat with cqu := true }) := by
  simp [cqPop, empty, none]

theorem cqPop_waits {s : State} (empty : s.strand.cq = []) (delivers : s.thatch.entries.any deliversCounts = true) :
    cqPop s = none := by
  simp [cqPop, empty, delivers]

/-- A pop takes no snapshot. -/
theorem cqPop_prof {s u : State} {c : BitVec 32} (pops : cqPop s = some (c, u)) : u.prof = s.prof := by
  unfold cqPop at pops
  split at pops
  · cases pops
    rfl
  · split at pops
    · cases pops
    · cases pops
      rfl

/-- CQPOP as it acts. -/
def cqpopActs (d : Reg) (s : State) : Res :=
  match cqPop s with
  | none => .stall s
  | some (v, s') => .done (setG s' d (v.setWidth 64))

theorem exec_cqpop (d : Reg) (s : State) : exec (.cqpop d) s = issue [d] true 1 (cqpopActs d) s := rfl

theorem cqpopActs_some {d : Reg} {s u : State} {v : BitVec 32} (pops : cqPop s = some (v, u)) :
    cqpopActs d s = .done (setG u d (v.setWidth 64)) := by
  simp only [cqpopActs, pops]

theorem cqpopActs_none {d : Reg} {s : State} (waits : cqPop s = none) : cqpopActs d s = .stall s := by
  simp only [cqpopActs, waits]

theorem exec_cqpush (a : Reg) (s : State) :
    exec (.cqpush a) s = issue [a] true 1 (fun s => .done (cqAppend [(getG s a).setWidth 32] s)) s := rfl

/-- Settles O22: the push by the room in the queue, the pop by its oldest entry. -/
theorem queueResults : Obligations.QueueResults := by
  intro s a d with'
  refine ⟨fun ready room noOverflow => ?push, fun ready full => ?full, fun ready v q holds => ?pop, fun ready empty none => ?empty,
    fun ready empty delivers => ?waits, fun ready => ?clear, fun ready => ?length⟩
  case push => exact (exec_cqpush a s).trans (issue_done ready (congrArg Res.done (cqAppend_room room noOverflow)))
  case full => exact (exec_cqpush a s).trans (issue_done ready (congrArg Res.done (cqAppend_full full)))
  case pop => exact (exec_cqpop d s).trans (issue_done ready (cqpopActs_some (cqPop_entry holds)))
  case empty => exact (exec_cqpop d s).trans (issue_done ready (cqpopActs_some (cqPop_empty empty none)))
  case waits => exact (exec_cqpop d s).trans (issue_stall ready (cqpopActs_none (cqPop_waits empty delivers)))
  case clear => exact issue_done (f := fun s => .done { s with strand := { s.strand with cq := [] } }) ready rfl
  case length => exact issue_writes (fun s => BitVec.ofNat 64 s.strand.cq.length) rfl ready

/-! ### The start of a loop -/

/-- The bounds of the body of a loop that starts at the pc. -/
def bodyAt (s : State) (len : BitVec 10) : Bounds := { first := s.strand.pc + 1, last := s.strand.pc + len.setWidth 32 }

/-- The count of LOOPS is capped (R113). -/
def capped (pipe : Bool) (c : BitVec 32) : BitVec 32 := if pipe && (0xFFFFFFF8 : BitVec 32).ult c then 0xFFFFFFF8 else c

theorem capped_loops (c : BitVec 32) : capped true c = if 0xFFFFFFF8 < c.toNat then 0xFFFFFFF8 else c := by
  simp [capped, BitVec.ult]

theorem capped_immediate (c : BitVec 9) : capped true (c.setWidth 32) = c.setWidth 32 := by
  have small : ¬0xFFFFFFF8 < (c.setWidth 32).toNat := by
    rw [BitVec.toNat_setWidth]
    omega
  rw [capped_loops, if_neg small]

@[simp] theorem pushLoop_prof (l : LoopId) (b : Bounds) (pipe : Bool) (stages : Nat) (c : BitVec 32) (s : State) :
    (pushLoop l b pipe stages c s).prof = s.prof := rfl

section StartLoop

variable {i : Instr} {regs : List Reg} {stops : Bool} {l : LoopId} {len : BitVec 10} {pipe : Bool} {stages : Nat}
  {count : State → Option (BitVec 32 × State)} {s : State}

theorem startLoop_inSlot (inSlot : s.strand.pend ≠ none) : startLoop l len pipe stages count s = .trap { cause := .illegal } := by
  simp [startLoop, Option.isSome_iff_ne_none.mpr inSlot]

theorem startLoop_misshapen (pend : s.strand.pend = none) (shape : loopMisshapen s l (bodyAt s len) pipe len.toNat stages = true) :
    startLoop l len pipe stages count s = .trap { cause := .loopShape } := by
  rw [startLoop, pend]
  exact if_pos shape

theorem startLoop_counted {c : BitVec 32} {u : State} (pend : s.strand.pend = none)
    (shape : loopMisshapen s l (bodyAt s len) pipe len.toNat stages = false) (counted : count s = some (c, u)) :
    startLoop l len pipe stages count s =
      if capped pipe c = 0 then .jump (afterWord 4 (bodyAt s len).last (setLc (clearIssue (addCount 1 u)) l { j := 0, cnt := 0 }))
      else .jump (withPc (pushLoop l (bodyAt s len) pipe stages (capped pipe c) (clearIssue (addCount 1 u))) (bodyAt s len).first) := by
  have noSlot : ¬s.strand.pend.isSome = true := by simp [pend]
  have shaped : ¬loopMisshapen s l { first := s.strand.pc + 1, last := s.strand.pc + len.setWidth 32 } pipe len.toNat stages = true :=
    ne_true_of_eq_false shape
  unfold startLoop
  rw [if_neg noSlot]
  dsimp only
  rw [if_neg shaped, counted]
  rfl

variable (arm : exec i s = issue regs stops 1 (startLoop l len pipe stages count) s) (ready : Ready regs stops s)
include arm ready

theorem loop_starts {c : BitVec 32} {u : State} (counted : count s = some (c, u)) (sameProf : u.prof = s.prof)
    (pend : s.strand.pend = none) (shape : loopMisshapen s l (bodyAt s len) pipe len.toNat stages = false) :
    (capped pipe c ≠ 0 → exec i s =
      .next (withPc (pushLoop l (bodyAt s len) pipe stages (capped pipe c) (clearIssue (addCount 1 u))) (bodyAt s len).first)) ∧
    (capped pipe c = 0 → exec i s =
      .next (snapGuard s (afterWord 4 (bodyAt s len).last (setLc (clearIssue (addCount 1 u)) l { j := 0, cnt := 0 })))) := by
  have acts := startLoop_counted (stages := stages) (l := l) pend shape counted
  refine ⟨fun some => ?_, fun none => ?_⟩
  · rw [if_neg some] at acts
    refine arm.trans ((issue_jump ready acts).trans (congrArg _ (snapGuard_same ?_)))
    rw [withPc_prof, pushLoop_prof, clearIssue_prof, addCount_prof, sameProf]
  · rw [if_pos none] at acts
    exact arm.trans (issue_jump ready acts)

variable (notAhead : s.sys.spec = false)
include notAhead

theorem loop_inSlot (inSlot : s.strand.pend ≠ none) : exec i s = .next (trapEntry { cause := .illegal } false none s) :=
  exec_traps arm ready (by decide) (by decide) (startLoop_inSlot inSlot) notAhead

theorem loop_misshapen (pend : s.strand.pend = none) (shape : loopMisshapen s l (bodyAt s len) pipe len.toNat stages = true) :
    exec i s = .next (trapEntry { cause := .loopShape } false none s) :=
  exec_traps arm ready (by decide) (by decide) (startLoop_misshapen pend shape) notAhead

end StartLoop

/-! ### The shapes that are refused -/

section Misshapen

variable {s : State} {l o : LoopId} {b : Bounds} {pipe : Bool} {len stages : Nat}

theorem misshapen_active (active : loopActive s l = true) : loopMisshapen s l b pipe len stages = true := by
  simp [loopMisshapen, active]

theorem misshapen_escapes (isActive : o ∈ activeLoops s.strand.xstat) (escapes : loopEscapes s b o = true) :
    loopMisshapen s l b pipe len stages = true := by
  have some : (activeLoops s.strand.xstat).any (loopEscapes s b) = true := List.any_eq_true.mpr ⟨o, isActive, escapes⟩
  simp [loopMisshapen, some]

theorem misshapen_loops (bad : len = 0 ∨ len % stages ≠ 0 ∨ s.strand.xstat.pipe = true) :
    loopMisshapen s l b true len stages = true := by
  rcases bad with h | h | h <;> simp [loopMisshapen, h]

theorem escapes_body (out : ¬((getBounds s o).first ≤ b.first ∧ b.last ≤ (getBounds s o).last)) : loopEscapes s b o = true := by
  have out' : ((getBounds s o).first.ule b.first && b.last.ule (getBounds s o).last) = false := by
    rw [Bool.eq_false_iff, Ne, Bool.and_eq_true, BitVec.ule_iff_le, BitVec.ule_iff_le]
    exact out
  rw [loopEscapes, out']
  rfl

theorem escapes_segment (isPipe' : isPipe s.strand.xstat o = true) (first : (getBounds s o).first ≤ b.first)
    (last : b.last ≤ (getBounds s o).last)
    (apart : let seg := max 1 (((getBounds s o).last.toNat + 1 - (getBounds s o).first.toNat) / (s.strand.xstat.stg.toNat + 1))
      (s.strand.pc.toNat - (getBounds s o).first.toNat) / seg ≠ (b.last.toNat - (getBounds s o).first.toNat) / seg) :
    loopEscapes s b o = true := by
  have inside : ((getBounds s o).first.ule b.first && b.last.ule (getBounds s o).last) = true := by
    rw [Bool.and_eq_true, BitVec.ule_iff_le, BitVec.ule_iff_le]
    exact ⟨first, last⟩
  rw [loopEscapes, inside, isPipe', stagesOf, isPipe']
  exact bne_iff_ne.mpr apart

end Misshapen

/-- Settles O20: each loop instruction starts as `startLoop` says, of its count; then the shapes that are refused. -/
theorem loopStarts : Obligations.LoopStarts := by
  intro s l len cnt cnt9 stg g b cap starts stops
  have stop {i : Instr} {regs : List Reg} {st : Bool} {pipe : Bool} {stages : Nat} {count : State → Option (BitVec 32 × State)}
      (arm : exec i s = issue regs st 1 (startLoop l len pipe stages count) s) (ready : Ready regs st s) : stops i pipe stages := by
    intro notAhead traps
    have refuse := loop_misshapen arm ready notAhead
    refine ⟨loop_inSlot arm ready notAhead, fun pend active => refuse pend (misshapen_active active),
      fun o isActive pend => ⟨fun out => refuse pend (misshapen_escapes isActive (escapes_body out)),
        fun isPipe' first last apart => refuse pend (misshapen_escapes isActive (escapes_segment isPipe' first last apart))⟩,
      fun pend isLoops bad => ?_⟩
    subst isLoops
    exact refuse pend (misshapen_loops (bad.imp_left fun zero => by rw [zero]; rfl))
  have start {i : Instr} {regs : List Reg} {st : Bool} {pipe : Bool} {stages : Nat} {count : State → Option (BitVec 32 × State)}
      {c c' : BitVec 32} {u : State} (arm : exec i s = issue regs st 1 (startLoop l len pipe stages count) s)
      (ready : Ready regs st s) (counted : count s = some (c, u)) (sameProf : u.prof = s.prof) (value : capped pipe c = c') :
      starts i u pipe stages c' := by
    subst value
    exact loop_starts arm ready counted sameProf
  refine ⟨fun ready => ⟨?_, ?_, ?_, ?_⟩, fun ready => ⟨?_, ?_, ?_, ?_⟩, fun ready => ⟨?_, ?_, fun c u pops => ⟨?_, ?_⟩⟩⟩
  · exact start (count := fun s => some (cnt.setWidth 32, s)) rfl ready rfl rfl rfl
  · exact start (count := fun s => some (cnt9.setWidth 32, s)) rfl ready rfl rfl (capped_immediate cnt9)
  · exact stop (count := fun s => some (cnt.setWidth 32, s)) rfl ready
  · exact stop (count := fun s => some (cnt9.setWidth 32, s)) rfl ready
  · exact start (count := fun s => some ((getG s g).setWidth 32, s)) rfl ready rfl rfl rfl
  · exact start (count := fun s => some ((getG s g).setWidth 32, s)) rfl ready rfl rfl (capped_loops _)
  · exact stop (count := fun s => some ((getG s g).setWidth 32, s)) rfl ready
  · exact stop (count := fun s => some ((getG s g).setWidth 32, s)) rfl ready
  · exact stop (count := cqPop) rfl ready
  · exact stop (count := cqPop) rfl ready
  · exact start (count := cqPop) rfl ready pops (cqPop_prof pops) rfl
  · exact start (count := cqPop) rfl ready pops (cqPop_prof pops) (capped_loops _)

end Sys2Proof.Machine
end

section
/-! Repeats (spec/05_strand_integer_control.md R116, R117; spec/04_strand.md R87): how a repeat begins, which words may be
repeated, and how their fields step. -/

namespace Sys2Proof.Machine

/-! ### The start of a repeat -/

/-- REP as it acts. -/
def repActs (n : Nat) (sd sa sb : BitVec 4) (s : State) : Res :=
  if s.strand.pend.isSome || repRefused n sd sa sb s then .trap { cause := .illegal }
  else if lastOfBody s then .trap { cause := .loopShape }
  else if (textAt s (s.strand.pc + 1)).isNone then
    .trap { cause := .seg, info := 5, faddr := some ((s.strand.pc + 1).setWidth 64) }
  else .jump (beginRepeat n sd sa sb s)

section RepActs

variable {n : BitVec 6} {sd sa sb : BitVec 4} {s : State} {i : Instr}

/-- In an active segment REP issues. -/
theorem exec_rep (ready : Ready [] false s) :
    exec (.rep n sd sa sb) s = issue [] false 1 (repActs n.toNat sd sa sb) s := by
  have active : inactiveWord s = false := ready.1
  have arm : exec (.rep n sd sa sb) s = execRep n sd sa sb s := rfl
  rw [arm, execRep, active]
  rfl

theorem repRefused_eq (behind : decodeAt s (s.strand.pc + 1) = some (.ok i)) :
    repRefused n.toNat sd sa sb s = !repOk n.toNat sd sa sb i := by
  simp only [repRefused, behind]

/-- A word that decodes is there. -/
theorem textAt_of_decodeAt {a : BitVec 32} {r : Except DecodeError Instr} (decodes : decodeAt s a = some r) :
    (textAt s a).isNone = false := by
  unfold decodeAt at decodes
  cases word : textAt s a with
  | none => simp [word] at decodes
  | some w => rfl

theorem repRefused_outside (outside : textAt s (s.strand.pc + 1) = none) : repRefused n.toNat sd sa sb s = false := by
  have none : decodeAt s (s.strand.pc + 1) = none := by rw [decodeAt, outside]; rfl
  rw [repRefused, none]

theorem repActs_illegal (behind : decodeAt s (s.strand.pc + 1) = some (.ok i)) (refused : repOk n.toNat sd sa sb i = false) :
    repActs n.toNat sd sa sb s = .trap { cause := .illegal } := by
  rw [repActs, repRefused_eq behind, refused, Bool.not_false, Bool.or_true, if_pos rfl]

variable (pend : s.strand.pend = none)
include pend

theorem repActs_accepted (accepted : repRefused n.toNat sd sa sb s = false) : repActs n.toNat sd sa sb s =
    if lastOfBody s then .trap { cause := .loopShape }
    else if (textAt s (s.strand.pc + 1)).isNone then
      .trap { cause := .seg, info := 5, faddr := some ((s.strand.pc + 1).setWidth 64) }
    else .jump (beginRepeat n.toNat sd sa sb s) := by
  rw [repActs, accepted, pend]
  rfl

theorem repActs_begins (behind : decodeAt s (s.strand.pc + 1) = some (.ok i)) (ok : repOk n.toNat sd sa sb i = true)
    (notLast : lastOfBody s = false) : repActs n.toNat sd sa sb s = .jump (beginRepeat n.toNat sd sa sb s) := by
  rw [repActs_accepted pend (by rw [repRefused_eq behind, ok]; rfl), notLast, textAt_of_decodeAt behind]
  rfl

theorem repActs_last (behind : decodeAt s (s.strand.pc + 1) = some (.ok i)) (ok : repOk n.toNat sd sa sb i = true)
    (last : lastOfBody s = true) : repActs n.toNat sd sa sb s = .trap { cause := .loopShape } := by
  rw [repActs_accepted pend (by rw [repRefused_eq behind, ok]; rfl), last, if_pos rfl]

theorem repActs_outside (outside : textAt s (s.strand.pc + 1) = none) (notLast : lastOfBody s = false) :
    repActs n.toNat sd sa sb s = .trap { cause := .seg, info := 5, faddr := some ((s.strand.pc + 1).setWidth 64) } := by
  rw [repActs_accepted pend (repRefused_outside outside), notLast, outside]
  rfl

end RepActs

/-- A repeat that begins is issue state alone. -/
theorem moves_of_beginRepeat (n : Nat) (sd sa sb : BitVec 4) (s : State) : Moves s (beginRepeat n sd sa sb s) :=
  (moves_of_clearIssue s).trans (moves_of_rep _ _)

/-! ### The majors of the words (R42) -/

/-- No REP repeats a word of this major (R116). -/
def Unrepeatable (maj : Nat) : Prop := maj ∉ [0x01, 0x0D, 0x15, 0x22, 0x23, 0x02, 0x03, 0x04, 0x05, 0x06, 0x09, 0x0A] ∧
  ¬(0x16 ≤ maj ∧ maj ≤ 0x20)

/-- Where the word of an instruction has its register fields: the formats of R116 that a REP repeats, and the rest. -/
inductive RepShape (i : Instr) (w : Nat) : Prop
  | threeFields (maj sub : Nat) (d a b : Reg) (major : maj ∈ [0x01, 0x0D, 0x22, 0x23]) (small : sub < 256)
      (two : ¬(maj = 0x01 ∧ sub ∈ [0x16, 0x17, 0x18, 0x19])) (fields : repFields i = some (some d, some a, some b))
      (word : encRR maj sub d a b = w)
      (mapped : ∀ f g h, encodeWord (repMap f g h i) = some (encRR maj sub (f d) (g a) (h b)))
  | oneSource (sub : Nat) (d a : Reg) (listed : sub ∈ [0x16, 0x17, 0x18, 0x19])
      (fields : repFields i = some (some d, some a, none)) (word : encRR 0x01 sub d a 0 = w)
      (mapped : ∀ f g h, encodeWord (repMap f g h i) = some (encRR 0x01 sub (f d) (g a) 0))
  | immediate (maj imm : Nat) (d a : Reg)
      (major : maj ∈ [0x02, 0x03, 0x04, 0x05, 0x06, 0x09, 0x0A] ∨ (0x16 ≤ maj ∧ maj ≤ 0x20)) (small : imm < 0x4000)
      (fields : repFields i = some (some d, some a, none)) (word : encRI maj d a imm = w)
      (mapped : ∀ f g h, encodeWord (repMap f g h i) = some (encRI maj (f d) (g a) imm))
  | push (a : Reg) (fields : repFields i = some (none, some a, none)) (word : encRR 0x15 0 0 a 0 = w)
      (mapped : ∀ f g h, encodeWord (repMap f g h i) = some (encRR 0x15 0 0 (g a) 0))
  | popOrLen (sub : Nat) (d : Reg) (listed : sub = 1 ∨ sub = 3) (fields : repFields i = some (some d, none, none))
      (word : encRR 0x15 sub d 0 0 = w)
      (mapped : ∀ f g h, encodeWord (repMap f g h i) = some (encRR 0x15 sub (f d) 0 0))
  | clear (fields : repFields i = some (none, none, none)) (word : encRR 0x15 2 0 0 0 = w)
      (mapped : ∀ f g h, encodeWord (repMap f g h i) = some (encRR 0x15 2 0 0 0))
  | other (major : Unrepeatable (w / 2 ^ 26)) (fields : repFields i = none)

/-- The major of a word is what its top six bits hold. -/
theorem unrepeatable_of_between {w : Nat} (maj : Nat) (unrepeatable : Unrepeatable maj)
    (word : maj * 2 ^ 26 ≤ w ∧ w < (maj + 1) * 2 ^ 26) : Unrepeatable (w / 2 ^ 26) := by
  rwa [Nat.div_eq_of_lt_le word.1 word.2]

theorem repShape {i : Instr} {w : Nat} (enc : encodeWord i = some w) : RepShape i w := by
  cases i
  case add d a b | sub d a b | mul d a b | mulh d a b | mulhn d a b | div d a b | divn d a b | rem d a b | remn d a b
      | and d a b | or d a b | xor d a b | andn d a b | sll d a b | srl d a b | sra d a b | rol d a b | ror d a b
      | min d a b | max d a b | minn d a b | maxn d a b | clmul d a b | clmulh d a b | addw d a b | subw d a b
      | lda d a b | sta d a b =>
    exact .threeFields _ _ d a b (by decide) (by decide) (by decide) rfl (Option.some.inj enc) (fun _ _ _ => rfl)
  case sel d a b n c =>
    have := n.toNat_lt
    exact .threeFields _ _ d a b (by decide) (by omega) (by omega) rfl (Option.some.inj enc) (fun _ _ _ => rfl)
  case atomSwp d a b n k | atomAdd d a b n k | atomAnd d a b n k | atomOr d a b n k | atomXor d a b n k
      | atomMin d a b n k | atomMax d a b n k | atomMinn d a b n k | atomMaxn d a b n k | atomCas d a b n k =>
    have := n.toNat_lt
    have := Laws.scope_code_lt k
    exact .threeFields _ _ d a b (by decide) (by omega) (by omega) rfl (Option.some.inj enc) (fun _ _ _ => rfl)
  case clz d a | ctz d a | popc d a | bswap d a =>
    exact .oneSource _ d a (by decide) rfl (Option.some.inj enc) (fun _ _ _ => rfl)
  case addi d a imm | andi d a imm | ori d a imm | xori d a imm | ldb d a imm | ldbn d a imm | ldh d a imm
      | ldhn d a imm | ldw d a imm | ldwn d a imm | ldd d a imm | stb d a imm | sth d a imm | stw d a imm | std d a imm =>
    exact .immediate _ _ d a (by decide) imm.isLt rfl (Option.some.inj enc) (fun _ _ _ => rfl)
  case slli d a n | srli d a n | srai d a n | rori d a n =>
    exact .immediate _ _ d a (by decide) (by omega) rfl (Option.some.inj enc) (fun _ _ _ => rfl)
  case bfx d a n p l =>
    have := n.toNat_lt
    exact .immediate _ _ d a (by decide) (by omega) rfl (Option.some.inj enc) (fun _ _ _ => rfl)
  case bfi d a p l => exact .immediate _ _ d a (by decide) (by omega) rfl (Option.some.inj enc) (fun _ _ _ => rfl)
  case cqpush a => exact .push a rfl (Option.some.inj enc) (fun _ _ _ => rfl)
  case cqpop d | cqlen d => exact .popOrLen _ d (by decide) rfl (Option.some.inj enc) (fun _ _ _ => rfl)
  case cqclr => exact .clear rfl (Option.some.inj enc) (fun _ _ _ => rfl)
  case lui d imm =>
    have word := Option.some.inj enc
    exact .other (unrepeatable_of_between 0x07 (by simp [Unrepeatable]) (by omega)) rfl
  case lih d imm =>
    have word := Option.some.inj enc
    exact .other (unrepeatable_of_between 0x08 (by simp [Unrepeatable]) (by omega)) rfl
  case cmp c cc a b =>
    have := Laws.cmp_code_lt cc
    have word := Option.some.inj enc
    exact .other (unrepeatable_of_between 0x0B (by simp [Unrepeatable]) (by omega)) rfl
  case cmpi c cc a imm =>
    have := Laws.cmp_code_lt cc
    have word := Option.some.inj enc
    exact .other (unrepeatable_of_between 0x0C (by simp [Unrepeatable]) (by omega)) rfl
  case cand | cor | cxor | candn =>
    have word := Option.some.inj enc
    exact .other (unrepeatable_of_between 0x0E (by simp [Unrepeatable]) (by omega)) rfl
  case ptg =>
    have word := Option.some.inj enc
    exact .other (unrepeatable_of_between 0x0F (by simp [Unrepeatable]) (by omega)) rfl
  case ptr =>
    have word := Option.some.inj enc
    exact .other (unrepeatable_of_between 0x10 (by simp [Unrepeatable]) (by omega)) rfl
  case br | call | ret =>
    have word := Option.some.inj enc
    simp only [encXF] at word
    exact .other (unrepeatable_of_between 0x11 (by simp [Unrepeatable]) (by omega)) rfl
  case brc t c n | callc t c n | lbrk t c n =>
    have := n.toNat_lt
    have word := Option.some.inj enc
    simp only [encXF] at word
    exact .other (unrepeatable_of_between 0x11 (by simp [Unrepeatable]) (by omega)) rfl
  case loop | loopReg | loopCq =>
    have word := Option.some.inj enc
    simp only [encLP] at word
    exact .other (unrepeatable_of_between 0x12 (by simp [Unrepeatable]) (by omega)) rfl
  case loops | loopsReg | loopsCq =>
    have word := Option.some.inj enc
    simp only [encLP] at word
    exact .other (unrepeatable_of_between 0x13 (by simp [Unrepeatable]) (by omega)) rfl
  case rep =>
    have word := Option.some.inj enc
    exact .other (unrepeatable_of_between 0x14 (by simp [Unrepeatable]) (by omega)) rfl
  case spl | fil =>
    have word := Option.some.inj enc
    exact .other (unrepeatable_of_between 0x21 (by simp [Unrepeatable]) (by omega)) rfl
  case fenceSc k | fenceAcq k | fenceRel k =>
    have := Laws.scope_code_lt k
    have word := Option.some.inj enc
    exact .other (unrepeatable_of_between 0x24 (by simp [Unrepeatable]) (by omega)) rfl
  case fenceRq | fencePip =>
    have word := Option.some.inj enc
    exact .other (unrepeatable_of_between 0x24 (by simp [Unrepeatable]) (by omega)) rfl
  case semadd | semaddi | semwait | semwaiti | semset | semrd =>
    have word := Option.some.inj enc
    simp only [encSem] at word
    exact .other (unrepeatable_of_between 0x25 (by simp [Unrepeatable]) (by omega)) rfl
  case post | postm =>
    have word := Option.some.inj enc
    exact .other (unrepeatable_of_between 0x26 (by simp [Unrepeatable]) (by omega)) rfl
  case waitc =>
    have word := Option.some.inj enc
    exact .other (unrepeatable_of_between 0x27 (by simp [Unrepeatable]) (by omega)) rfl
  case bxh | bxo | bxe | bxs | bxc | bxz =>
    have word := Option.some.inj enc
    simp only [encBox] at word
    exact .other (unrepeatable_of_between 0x28 (by simp [Unrepeatable]) (by omega)) rfl
  case hkld | hkst | hkinv | hktab =>
    have word := Option.some.inj enc
    simp only [encSY] at word
    exact .other (unrepeatable_of_between 0x29 (by simp [Unrepeatable]) (by omega)) rfl
  case acq k a | rel k a =>
    have := Laws.scope_code_lt k
    have word := Option.some.inj enc
    simp only [encEntry] at word
    exact .other (unrepeatable_of_between 0x2A (by simp [Unrepeatable]) (by omega)) rfl
  case bind | unbind =>
    have word := Option.some.inj enc
    simp only [encEntry] at word
    exact .other (unrepeatable_of_between 0x2A (by simp [Unrepeatable]) (by omega)) rfl
  case cbr t c n r h =>
    have := n.toNat_lt
    have := h.toNat_lt
    have := Laws.red_code_lt r
    have word := Option.some.inj enc
    simp only [encGrp] at word
    exact .other (unrepeatable_of_between 0x2B (by simp [Unrepeatable]) (by omega)) rfl
  case cbrx t c n r =>
    have := n.toNat_lt
    have := Laws.red_code_lt r
    have word := Option.some.inj enc
    simp only [encGrp] at word
    exact .other (unrepeatable_of_between 0x2B (by simp [Unrepeatable]) (by omega)) rfl
  case cstep | gabort =>
    have word := Option.some.inj enc
    exact .other (unrepeatable_of_between 0x2B (by simp [Unrepeatable]) (by omega)) rfl
  case mfs | mts | trap | eret | yield | saveq | restq | halt | brk | tstart | mapinvAddr | mapinvSeg | mapinvAsid | mapinvAll
      | ridge | snap | sleep =>
    have word := Option.some.inj enc
    simp only [encSY] at word
    exact .other (unrepeatable_of_between 0x2C (by simp [Unrepeatable]) (by omega)) rfl
  all_goals cases enc

/-! ### The words that may be repeated (R116) -/

/-- The register that the field of w at bit lo names, stepped by st over n + 1 repetitions, stays a register. -/
def StaysRegister (w n : Nat) (st : BitVec 4) (lo : Nat) : Prop :=
  0 ≤ ((w / 2 ^ lo % 64 : Nat) : Int) + n * st.toInt ∧ ((w / 2 ^ lo % 64 : Nat) : Int) + n * st.toInt ≤ 63

/-- The words of the ALU major that read one register (R43). -/
def OneSourceWord (w : Nat) : Prop := w / 2 ^ 26 = 0x01 ∧ w % 2 ^ 8 ∈ [0x16, 0x17, 0x18, 0x19]

/-- A word that a REP repeats with these steps. -/
def RepeatableWord (w n : Nat) (sd sa sb : BitVec 4) : Prop :=
  (w / 2 ^ 26 ∈ [0x01, 0x0D, 0x22, 0x23] ∧ ¬OneSourceWord w ∧ StaysRegister w n sd 20 ∧ StaysRegister w n sa 14 ∧
    StaysRegister w n sb 8) ∨
  ((OneSourceWord w ∨ w / 2 ^ 26 ∈ [0x02, 0x03, 0x04, 0x05, 0x06, 0x09, 0x0A] ∨ (0x16 ≤ w / 2 ^ 26 ∧ w / 2 ^ 26 ≤ 0x20)) ∧
    StaysRegister w n sd 20 ∧ StaysRegister w n sa 14 ∧ sb = 0) ∨
  (w / 2 ^ 26 = 0x15 ∧ w % 2 ^ 8 = 0 ∧ sd = 0 ∧ StaysRegister w n sa 14 ∧ sb = 0) ∨
  (w / 2 ^ 26 = 0x15 ∧ (w % 2 ^ 8 = 1 ∨ w % 2 ^ 8 = 3) ∧ StaysRegister w n sd 20 ∧ sa = 0 ∧ sb = 0) ∨
  (w / 2 ^ 26 = 0x15 ∧ w % 2 ^ 8 = 2 ∧ sd = 0 ∧ sa = 0 ∧ sb = 0)

section RepeatableWords

variable {i : Instr} {w n k : Nat} {sd sa sb : BitVec 4}

theorem repFieldOk_none {st : BitVec 4} : repFieldOk n st none = true ↔ st = 0 := by simp [repFieldOk]

theorem repFieldOk_some {st : BitVec 4} {r : Reg} {lo : Nat} (field : w / 2 ^ lo % 64 = r.val) :
    repFieldOk n st (some r) = true ↔ StaysRegister w n st lo := by
  simp [repFieldOk, StaysRegister, field]

theorem repOk_of_fields {d a b : Option Reg} (fields : repFields i = some (d, a, b)) : repOk n sd sa sb i = true ↔
    repFieldOk n sd d = true ∧ repFieldOk n sa a = true ∧ repFieldOk n sb b = true := by
  simp [repOk, fields, and_assoc]

theorem encRR_parts {maj sub : Nat} {d a b : Nat} (word : encRR maj sub d a b = w) (small : sub < 256) (hd : d < 64) (ha : a < 64)
    (hb : b < 64) : w / 2 ^ 26 = maj ∧ w % 2 ^ 8 = sub ∧ w / 2 ^ 20 % 64 = d ∧ w / 2 ^ 14 % 64 = a ∧ w / 2 ^ 8 % 64 = b := by
  simp only [← word, encRR]
  omega

theorem encRI_parts {maj imm : Nat} {d a : Nat} (word : encRI maj d a imm = w) (small : imm < 0x4000) (hd : d < 64) (ha : a < 64) :
    w / 2 ^ 26 = maj ∧ w / 2 ^ 20 % 64 = d ∧ w / 2 ^ 14 % 64 = a := by
  simp only [← word, encRI]
  omega

/-- Which words a REP repeats, and with which steps. -/
theorem repOk_iff (enc : encodeWord i = some w) : repOk n sd sa sb i = true ↔ RepeatableWord w n sd sa sb := by
  unfold RepeatableWord
  cases repShape enc with
  | threeFields maj sub d a b major small two fields word mapped =>
    obtain ⟨isMajor, isSub, isD, isA, isB⟩ := encRR_parts word small d.isLt a.isLt b.isLt
    rw [repOk_of_fields fields, repFieldOk_some isD, repFieldOk_some isA, repFieldOk_some isB]
    rw [OneSourceWord, isMajor, isSub]
    have notImmediate : ¬(maj ∈ [0x02, 0x03, 0x04, 0x05, 0x06, 0x09, 0x0A] ∨ (0x16 ≤ maj ∧ maj ≤ 0x20)) := by
      simp at major ⊢; omega
    have notQueue : maj ≠ 0x15 := by rintro rfl; simp at major
    simp only [major, two, notImmediate, notQueue, not_false_eq_true, true_and, false_and, or_false]
  | oneSource sub d a listed fields word mapped =>
    obtain ⟨isMajor, isSub, isD, isA, -⟩ := encRR_parts word (by simp at listed; omega) d.isLt a.isLt (by decide)
    rw [repOk_of_fields fields, repFieldOk_some isD, repFieldOk_some isA, repFieldOk_none]
    have one : OneSourceWord w := ⟨isMajor, isSub ▸ listed⟩
    have notQueue : w / 2 ^ 26 ≠ 0x15 := by rw [isMajor]; decide
    simp only [one, notQueue, not_true_eq_false, true_or, true_and, false_and, and_false, or_false, false_or]
  | immediate maj imm d a major small fields word mapped =>
    obtain ⟨isMajor, isD, isA⟩ := encRI_parts word small d.isLt a.isLt
    rw [repOk_of_fields fields, repFieldOk_some isD, repFieldOk_some isA, repFieldOk_none]
    rw [OneSourceWord, isMajor]
    have notThree : maj ∉ [0x01, 0x0D, 0x22, 0x23] := by simp at major ⊢; omega
    have notQueue : maj ≠ 0x15 := by simp at major; omega
    simp only [major, notThree, notQueue, or_true, true_and, false_and, or_false, false_or]
  | push a fields word mapped =>
    obtain ⟨isMajor, isSub, -, isA, -⟩ := encRR_parts word (by decide) (by decide) a.isLt (by decide)
    rw [repOk_of_fields fields, repFieldOk_none, repFieldOk_some isA, repFieldOk_none]
    rw [OneSourceWord, isMajor, isSub]
    simp
  | popOrLen sub d listed fields word mapped =>
    obtain ⟨isMajor, isSub, isD, -, -⟩ := encRR_parts word (by omega) d.isLt (by decide) (by decide)
    rw [repOk_of_fields fields, repFieldOk_some isD, repFieldOk_none, repFieldOk_none]
    rw [OneSourceWord, isMajor, isSub]
    rcases listed with rfl | rfl <;> simp
  | clear fields word mapped =>
    obtain ⟨isMajor, isSub, -, -, -⟩ := encRR_parts word (by decide) (by decide) (by decide) (by decide)
    rw [repOk_of_fields fields, repFieldOk_none, repFieldOk_none, repFieldOk_none]
    rw [OneSourceWord, isMajor, isSub]
    simp
  | other major fields =>
    have refused : repOk n sd sa sb i = false := by rw [repOk, fields]
    obtain ⟨unlisted, notMem⟩ := major
    simp only [List.mem_cons, List.not_mem_nil, or_false, not_or] at unlisted
    simp only [refused, OneSourceWord, List.mem_cons, List.not_mem_nil, or_false]
    tauto

/-! ### The word of a repetition (R117) -/

/-- A step that stays in the registers is a step of numbers. -/
theorem val_stepReg {st : BitVec 4} {r : Reg} (within : k ≤ n) (stays : repFieldOk n st (some r) = true) :
    ((stepReg k st r).val : Int) = r.val + k * st.toInt := by
  have last : 0 ≤ (r.val : Int) + n * st.toInt ∧ (r.val : Int) + n * st.toInt ≤ 63 := by simpa [repFieldOk] using stays
  have between : 0 ≤ (r.val : Int) + k * st.toInt ∧ (r.val : Int) + k * st.toInt ≤ 63 := by
    have steps : (k : Int) ≤ n := by exact_mod_cast within
    rcases le_total 0 st.toInt with up | down
    · have := mul_le_mul_of_nonneg_right steps up
      have : 0 ≤ (k : Int) * st.toInt := mul_nonneg (by omega) up
      omega
    · have := mul_le_mul_of_nonpos_right steps down
      have : (k : Int) * st.toInt ≤ 0 := mul_nonpos_of_nonneg_of_nonpos (by omega) down
      omega
  have small : ((r.val : Int) + k * st.toInt) % 64 = r.val + k * st.toInt := Int.emod_eq_of_lt between.1 (by omega)
  simp only [stepReg, small, Fin.val_ofNat]
  omega

/-- Each repetition adds its steps to the fields that the operation uses, whose word has no other for it. -/
theorem encodeWord_repStep (enc : encodeWord i = some w) (ok : repOk n sd sa sb i = true) (within : k ≤ n) :
    ∃ v, encodeWord (repStep { k := k, n := n, sd := sd, sa := sa, sb := sb } i) = some v ∧
      (v : Int) = w + k * (sd.toInt * 2 ^ 20 + sa.toInt * 2 ^ 14 + sb.toInt * 2 ^ 8) := by
  unfold repStep
  cases repShape enc with
  | threeFields maj sub d a b major small two fields word mapped =>
    obtain ⟨okD, okA, okB⟩ := (repOk_of_fields fields).mp ok
    refine ⟨_, mapped _ _ _, ?_⟩
    rw [← word, encRR, encRR]
    push_cast
    rw [val_stepReg within okD, val_stepReg within okA, val_stepReg within okB]
    ring
  | oneSource sub d a listed fields word mapped =>
    obtain ⟨okD, okA, okB⟩ := (repOk_of_fields fields).mp ok
    cases repFieldOk_none.mp okB
    refine ⟨_, mapped _ _ _, ?_⟩
    rw [← word, encRR, encRR]
    push_cast
    rw [val_stepReg within okD, val_stepReg within okA]
    ring
  | immediate maj imm d a major small fields word mapped =>
    obtain ⟨okD, okA, okB⟩ := (repOk_of_fields fields).mp ok
    cases repFieldOk_none.mp okB
    refine ⟨_, mapped _ _ _, ?_⟩
    rw [← word, encRI, encRI]
    push_cast
    rw [val_stepReg within okD, val_stepReg within okA]
    ring
  | push a fields word mapped =>
    obtain ⟨okD, okA, okB⟩ := (repOk_of_fields fields).mp ok
    cases repFieldOk_none.mp okB
    cases repFieldOk_none.mp okD
    refine ⟨_, mapped _ _ _, ?_⟩
    rw [← word, encRR, encRR]
    push_cast
    rw [val_stepReg within okA]
    ring
  | popOrLen sub d listed fields word mapped =>
    obtain ⟨okD, okA, okB⟩ := (repOk_of_fields fields).mp ok
    cases repFieldOk_none.mp okB
    cases repFieldOk_none.mp okA
    refine ⟨_, mapped _ _ _, ?_⟩
    rw [← word, encRR, encRR]
    push_cast
    rw [val_stepReg within okD]
    ring
  | clear fields word mapped =>
    obtain ⟨okD, okA, okB⟩ := (repOk_of_fields fields).mp ok
    cases repFieldOk_none.mp okB
    cases repFieldOk_none.mp okA
    cases repFieldOk_none.mp okD
    refine ⟨_, mapped _ _ _, ?_⟩
    rw [← word]
    simp
  | other major fields =>
    rw [repOk, fields] at ok
    cases ok

end RepeatableWords

/-- Settles O21: the words by the formats of their fields, the start by the branches of REP. -/
theorem repeatStarts : Obligations.RepeatStarts := by
  refine ⟨fun s n sd sa sb ready pend => ⟨fun i behind ok notLast => ?_, fun spec => ⟨?_, ?_, ?_⟩⟩,
    fun i w n k sd sa sb enc => ⟨repOk_iff enc, encodeWord_repStep enc⟩⟩
  · have moves := moves_of_beginRepeat n.toNat sd sa sb s
    refine ⟨beginRepeat n.toNat sd sa sb s, ?_, rfl, rfl, moves.g, moves.c, moves.restStands⟩
    rw [exec_rep ready, issue_jump (f := repActs n.toNat sd sa sb) ready (repActs_begins pend behind ok notLast)]
    exact congrArg Host.Outcome.next (snapGuard_same rfl)
  · exact fun i behind refused => exec_traps (exec_rep ready) ready nofun nofun (repActs_illegal behind refused) spec
  · exact fun i behind ok last => exec_traps (exec_rep ready) ready nofun nofun (repActs_last pend behind ok last) spec
  · exact fun outside notLast => exec_trapsWith (exec_rep ready) ready nofun nofun rfl (repActs_outside pend outside notLast) spec

end Sys2Proof.Machine
end

section
/-! Steps and resets (log entry 5; spec/04_strand.md R79, R87; spec/03_encoding.md R64): every instruction answers a next state, what a
step of the strand runs, a word that is no instruction, and the level that privileged words ask for. -/

namespace Sys2Proof.Machine

/-! ### Reset -/

/-- Settles O8: reset memory is empty. -/
theorem resetCanonical : Obligations.ResetCanonical := ⟨by decide, by decide, by decide⟩

theorem getBox_reset (x : Bx) : (getBox State.reset x).bv = decide (62 ≤ x.val) := by
  revert x
  decide

/-- Settles O9, register by register. -/
theorem resetValues : Obligations.ResetValues := by
  refine ⟨fun r => ?_, by decide, by decide, fun n => ?_, rfl, rfl, rfl, rfl, rfl, rfl, rfl, rfl, rfl, rfl, rfl, rfl, rfl, rfl, rfl,
    rfl, rfl, rfl, rfl, fun n => rfl, fun n => ?_, getBox_reset⟩
  · rw [getG, ite_eq_left_iff]
    exact fun _ => Vector.getElem_replicate _
  · rfl
  · have none : getHusk State.reset n = {} := rfl
    rw [none]
    decide

/-! ### Every step answers a next state -/

theorem completes_settled {o : Out} (done : completes o) : completes (settled o) := by
  obtain ⟨t, rfl⟩ := done
  exact ⟨_, rfl⟩

theorem completes_retried {o : Out} (done : completes o) : completes (retried o) := by
  obtain ⟨t, rfl⟩ := done
  exact ⟨_, rfl⟩

theorem completes_cpypg (slot n : Nat) (s : State) : completes (execCCpypg slot n s) := by
  unfold execCCpypg runTask
  dsimp only
  split
  · split <;> exact ⟨_, rfl⟩
  · exact ⟨_, rfl⟩

theorem completes_rep (n : BitVec 6) (sd sa sb : BitVec 4) (s : State) : completes (execRep n sd sa sb s) := by
  unfold execRep
  split <;> exact ⟨_, rfl⟩

/-- An arm answers a next state by its form; of the events that look at their packet or at the word at the pc, in each branch. -/
theorem exec_completes (i : Instr) (s : State) : completes (exec i s) := by
  cases i
  case rep => exact completes_rep _ _ _ _ s
  case cCpypg => exact completes_cpypg _ _ s
  case remoteWriteArrival p | remoteReadArrival p | remoteAmoArrival p | remoteSemArrival p | remotePostArrival p
      | haloWriteArrival p | redWriteArrival p =>
    cases p with
    | mk srcNode srcCore srcSlot dstNode dstCore asid mark idx body port vc num => cases body <;> exact ⟨_, rfl⟩
  case tstartTimeReached =>
    show completes (execTstartTimeReached s)
    unfold execTstartTimeReached
    repeat' split
    all_goals exact ⟨_, rfl⟩
  case acqRetryTimeout =>
    show completes (execAcqRetryTimeout s)
    unfold execAcqRetryTimeout
    repeat' split
    all_goals exact ⟨_, rfl⟩
  all_goals exact ⟨_, rfl⟩

theorem noInstr_completes (f : NoInstr) (s : State) : completes (noInstr f s) := by
  cases f <;> exact ⟨_, rfl⟩

theorem runNext_completes (s : State) : completes (runNext s) := by
  unfold runNext
  split
  · exact ⟨_, rfl⟩
  · split
    · exact exec_completes _ s
    · exact noInstr_completes _ s

/-- An event that the part takes changes the state, so it answers one. -/
theorem completes_of_nextEvent {s : State} {f : State → Out} (next : nextEvent s = some f) : completes (f s) := by
  have changed : changes s f = true := by
    unfold nextEvent at next
    split at next
    · cases next
    · exact List.find?_some next
  unfold changes at changed
  split at changed
  · exact ⟨_, ‹_›⟩
  · cases changed

theorem step_completes (s : State) : completes (step s) := by
  unfold step
  split
  · exact completes_settled (exec_completes _ _)
  · split
    · exact completes_settled ⟨_, rfl⟩
    · split
      · exact completes_settled (runNext_completes s)
      · split
        · exact completes_settled (completes_retried (completes_of_nextEvent ‹_›))
        · split
          · exact completes_settled (runNext_completes s)
          · exact ⟨_, rfl⟩

/-- Settles O6, for the instructions by their arms and for a step by its branches. -/
theorem everyStepCompletes : Obligations.EveryStepCompletes := ⟨exec_completes, step_completes⟩

/-! ### What a step of the strand runs -/

section StrandSteps

variable {s : State} {i : Instr} {f : NoInstr}

/-- With no event and no cause before it, a strand that can issue runs its next word. -/
theorem step_runs (agenda : s.agenda = []) (cause : nextCause s = none) (run : s.strand.run = .running)
    (notStalled : s.strand.stalled = false) : step s = settled (runNext s) := by
  simp only [step, agenda, cause, run, notStalled, Option.isSome_none, Bool.false_eq_true, if_false, true_and, if_true]

theorem runNext_waits (waits : s.prof.queued ≠ [] ∨ s.thatch.trapDue ≠ none) : runNext s = .next (stallAt s) :=
  if_pos (waits.imp_right Option.isSome_iff_ne_none.mpr)

theorem runNext_free (queued : s.prof.queued = []) (due : s.thatch.trapDue = none) : runNext s =
    match nextInstr s with
    | .ok i => exec i s
    | .error f => noInstr f s := by
  unfold runNext
  exact if_neg (by simp [queued, due])

theorem fetchAt_of_fault {a : BitVec 32} (faulty : faultyWord s a = some f) : fetchAt s a = .error f := by
  rw [fetchAt, faulty]

theorem fetchAt_of_decodes {a : BitVec 32} (sound : faultyWord s a = none) (decodes : decodeAt s a = some (.ok i)) :
    fetchAt s a = .ok i := by
  rw [fetchAt, sound]
  simp only [decodes]

theorem fetchAt_of_error {a : BitVec 32} {e : DecodeError} (sound : faultyWord s a = none) (decodes : decodeAt s a = some (.error e))
    (notTruncated : e ≠ .truncated) : fetchAt s a = .error (.illegal ((textAt s a).getD 0)) := by
  rw [fetchAt, sound]
  cases e <;> simp_all

theorem fetchAt_of_truncated {a : BitVec 32} (sound : faultyWord s a = none) (decodes : decodeAt s a = some (.error .truncated)) :
    fetchAt s a = .error (.outside (missingAfter s a)) := by
  rw [fetchAt, sound]
  simp only [decodes]

/-- A word outside the image meets no line of memory. -/
theorem faultyWord_outside {a : BitVec 32} (outside : textAt s a = none) : faultyWord s a = none := by
  have first (n : Nat) : ((List.range (n + 1)).map (fun k => a + BitVec.ofNat 32 k)).takeWhile (fun b => (textAt s b).isSome) = [] := by
    simp [List.range_succ_eq_map, outside]
  unfold faultyWord
  split
  · rw [first 8]; rfl
  · rw [first 0]; rfl

theorem fetchAt_outside {a : BitVec 32} (outside : textAt s a = none) : fetchAt s a = .error (.outside a) := by
  have none : decodeAt s a = none := by rw [decodeAt, outside]; rfl
  rw [fetchAt, faultyWord_outside outside]
  simp only [none]

/-- The first of the addresses behind one another that stands in the image and meets a line that gives no word. -/
theorem findSome_takeWhile {g : Nat → BitVec 32} {p : BitVec 32 → Bool} {meets : BitVec 32 → Option NoInstr} {n k : Nat} (inside : k < n)
    (stands : ∀ j ≤ k, p (g j) = true) (before : ∀ j < k, meets (g j) = none) (here : meets (g k) = some f) :
    (((List.range n).map g).takeWhile p).findSome? meets = some f := by
  obtain ⟨m, rfl⟩ : ∃ m, n = k + (m + 1) := ⟨n - k - 1, by omega⟩
  rw [List.range_add, List.map_append, List.takeWhile_append_of_pos
    (by simpa using fun j hj => stands j (by omega))]
  rw [List.findSome?_append, List.findSome?_eq_none_iff.mpr (by simpa using before)]
  simp [List.range_succ_eq_map, stands k le_rfl, here]

theorem faultyWord_at {a : BitVec 32} {k n : Nat} (words : (if postAt s a then 9 else 1) = n) (inside : k < n)
    (stands : ∀ j ≤ k, textAt s (a + BitVec.ofNat 32 j) ≠ none) (before : ∀ j < k, lineFault s (a + BitVec.ofNat 32 j) = none)
    (here : lineFault s (a + BitVec.ofNat 32 k) = some f) : faultyWord s a = some f := by
  rw [faultyWord, words]
  exact findSome_takeWhile (g := fun j => a + BitVec.ofNat 32 j) inside
    (fun j hj => Option.isSome_iff_ne_none.mpr (stands j hj)) before here

theorem lineFault_unreached {a : BitVec 32} {line : Nat} (listed : List.lookup (a.toNat / 16) s.strand.textLines = some line)
    (away : reachesHome s line = false) : lineFault s a = some (.unreached a) := by
  simp [lineFault, listed, away]

theorem lineFault_poisoned {a : BitVec 32} {line : Nat} (listed : List.lookup (a.toNat / 16) s.strand.textLines = some line)
    (reached : reachesHome s line = true) (poisoned : poisonedAt s (memKey (ownNode s) line) = true) :
    lineFault s a = some (.poisoned a line) := by
  simp [lineFault, listed, reached, poisoned]

/-- The word at the pc meets its line of memory first. -/
theorem faultyWord_first {a : BitVec 32} (stands : textAt s a ≠ none) (here : lineFault s a = some f) : faultyWord s a = some f := by
  have zero : a + BitVec.ofNat 32 0 = a := by simp
  refine faultyWord_at (k := 0) rfl (by split <;> decide) (fun j hj => ?_) nofun (by rwa [zero])
  rwa [Nat.le_zero.mp hj, zero]

/-- The missing word of a record that runs past the image is the first one that is not there. -/
theorem missingAfter_eq {a : BitVec 32} {k : Nat} (inside : k < 8) (before : ∀ j < k, textAt s (a + 1 + BitVec.ofNat 32 j) ≠ none)
    (missing : textAt s (a + 1 + BitVec.ofNat 32 k) = none) : missingAfter s a = a + 1 + BitVec.ofNat 32 k := by
  obtain ⟨m, split⟩ : ∃ m, 8 = k + (m + 1) := ⟨8 - k - 1, by omega⟩
  have found : ((List.range 8).map (fun k => a + 1 + BitVec.ofNat 32 k)).find? (fun b => (textAt s b).isNone) =
      some (a + 1 + BitVec.ofNat 32 k) := by
    rw [split, List.range_add, List.map_append, List.find?_append, List.find?_eq_none.mpr (by simpa [Option.isNone_iff_eq_none] using before)]
    have here : a + 1 + BitVec.ofNat 32 (k + 0) = a + 1 + BitVec.ofNat 32 k := rfl
    rw [List.range_succ_eq_map, List.map_cons, List.map_cons, here, List.find?_cons_of_pos (by rw [missing]; rfl)]
    rfl
  rw [missingAfter, found]
  rfl

end StrandSteps

/-- Settles O4, by what the fetch at the pc, or behind a REP, gives. -/
theorem stepRunsDecoded : Obligations.StepRunsDecoded := by
  intro s i agenda cause run notStalled
  have steps := step_runs agenda cause run notStalled
  refine ⟨fun queued due => ⟨fun noRep sound decodes => ?_, fun r rep sound decodes => ?_⟩, fun waits => ?_⟩
  · have next : nextInstr s = .ok i := by rw [nextInstr, noRep]; exact fetchAt_of_decodes sound decodes
    rw [steps, runNext_free queued due, next]
  · have next : nextInstr s = .ok (repStep r i) := by
      rw [nextInstr, rep]
      exact congrArg (Except.map (repStep r)) (fetchAt_of_decodes sound decodes)
    rw [steps, runNext_free queued due, next]
  · rw [steps, runNext_waits waits]
    rfl

section Refused

variable {s : State}

/-- A word that is refused traps its cause, where nothing holds it back. -/
theorem refuseWord_traps (t : Trap) (free : s.sys.spec = false) (first : heldFirst s = false) (notBrk : t.cause ≠ .brk) :
    refuseWord t s = .next (trapEntry t false none (consumedBy t s)) := by
  simp [refuseWord, finish, free, first, viewWaits_other s notBrk]

theorem refuseWord_stalls (t : Trap) (held : s.sys.spec = true ∨ heldFirst s = true) : refuseWord t s = .next (stallAt s) := by
  rcases held with spec | first
  · simp [refuseWord, finish, spec]
  · simp [refuseWord, first]

theorem execFetchOutsideImage_traps (a : BitVec 32) (free : s.sys.spec = false) (first : heldFirst s = false) :
    execFetchOutsideImage a s =
      .next (trapEntry { cause := .seg, info := 5, faddr := some (a.setWidth 64) } false none (withPc s a)) := by
  simp [execFetchOutsideImage, free, first]

theorem execFetchOutsideImage_stalls (a : BitVec 32) (held : s.sys.spec = true ∨ heldFirst s = true) :
    execFetchOutsideImage a s = .next (stallAt s) := by
  rcases held with spec | first
  · simp [execFetchOutsideImage, spec]
  · simp [execFetchOutsideImage, first]

/-- A cause that met no line and no access leaves nothing in the memory system. -/
theorem consumedBy_alone {t : Trap} (notUe : t.cause ≠ .ue) (noAccess : t.access = none) : consumedBy t s = s := by
  rw [consumedBy_other s notUe, walkedBy_none s noAccess]

theorem execIllegal_traps (w : BitVec 32) (free : s.sys.spec = false) (first : heldFirst s = false) :
    execIllegal w s = .next (trapEntry { cause := .illegal } false none s) := by
  rw [execIllegal, refuseWord_traps { cause := .illegal } free first nofun, consumedBy_alone (t := { cause := .illegal }) nofun rfl]

theorem execFetchUnreached_traps (a : BitVec 32) (free : s.sys.spec = false) (first : heldFirst s = false) :
    execFetchUnreached a s =
      .next (trapEntry { cause := .owner, info := 5, faddr := some (a.setWidth 64) } false none s) := by
  rw [execFetchUnreached, refuseWord_traps { cause := .owner, info := 5, faddr := some (a.setWidth 64) } free first nofun,
    consumedBy_alone (t := { cause := .owner, info := 5, faddr := some (a.setWidth 64) }) nofun rfl]

theorem execFetchPoisoned_traps (a : BitVec 32) (line : Nat) (free : s.sys.spec = false) (first : heldFirst s = false) :
    execFetchPoisoned a line s =
      .next (trapEntry { cause := .ue, info := 5, faddr := some (a.setWidth 64), line := some line } false none
        (consumed false line s)) := by
  rw [execFetchPoisoned, refuseWord_traps { cause := .ue, info := 5, faddr := some (a.setWidth 64), line := some line } free first
    nofun, consumedBy, walkedBy_none s rfl]

end Refused

/-- Settles O5, by what the fetch gives that is no instruction. -/
theorem stepAtNoInstruction : Obligations.StepAtNoInstruction := by
  refine ⟨fun s agenda cause run notStalled noRep queued due spec first => ?_, fun s k line post inside stands before => ?_,
    fun s w a => ⟨fun spec first => ?_, fun held => ?_⟩⟩
  · have steps (f : NoInstr) (fetched : fetchAt s s.strand.pc = .error f) : step s = settled (noInstr f s) := by
      have next : nextInstr s = .error f := by rw [nextInstr, noRep, fetched]
      rw [step_runs agenda cause run notStalled, runNext_free queued due, next]
    refine ⟨fun e sound decodes notTruncated => ?_, fun k inside sound decodes before missing => ?_, fun outside => ?_,
      fun line stands listed => ⟨fun away => ?_, fun reached poisoned => ?_⟩⟩
    · rw [steps _ (fetchAt_of_error sound decodes notTruncated), noInstr, execIllegal_traps _ spec first]
      rfl
    · rw [steps _ (fetchAt_of_truncated sound decodes), noInstr, missingAfter_eq inside before missing,
        execFetchOutsideImage_traps _ spec first]
      rfl
    · rw [steps _ (fetchAt_outside outside), noInstr, execFetchOutsideImage_traps _ spec first]
      rfl
    · rw [steps _ (fetchAt_of_fault (faultyWord_first stands (lineFault_unreached listed away))), noInstr,
        execFetchUnreached_traps _ spec first]
      rfl
    · rw [steps _ (fetchAt_of_fault (faultyWord_first stands (lineFault_poisoned listed reached poisoned))), noInstr,
        execFetchPoisoned_traps _ _ spec first]
      rfl
  · have words : (if postAt s s.strand.pc then 9 else 1) = 9 := by rw [post]; rfl
    exact fun listed => ⟨fun away => faultyWord_at words inside stands before (lineFault_unreached listed away),
      fun reached poisoned => faultyWord_at words inside stands before (lineFault_poisoned listed reached poisoned)⟩
  · exact ⟨execIllegal_traps w spec first, execFetchOutsideImage_traps a spec first⟩
  · exact ⟨refuseWord_stalls _ held, execFetchOutsideImage_stalls a held⟩

/-! ### Privileged words (R64, R131) -/

theorem privileged_user (f : State → Res) {s : State} (user : s.sys.pl = false) : privileged f s = .trap { cause := .priv } := by
  simp [privileged, user]

/-- MTS as it acts. -/
def mtsActs (n : Nat) (a : Reg) (s : State) : Res :=
  if (readSys s n).isNone then .trap { cause := .illegal }
  else if !s.sys.pl && !sysUser n && !sysReadOnly n then .trap { cause := .priv }
  else if mtsWaits n s then .stall s
  else .done (writeSys n (getG s a) s)

theorem mts_eq (n : Nat) (a : Reg) (s : State) : mts n a s = issue [a] true 1 (mtsActs n a) s := rfl

theorem mtsActs_user {n : Nat} {s : State} (a : Reg) (assigned : readSys s n ≠ none) (user : s.sys.pl = false)
    (notUser : sysUser n = false) (writes : sysReadOnly n = false) : mtsActs n a s = .trap { cause := .priv } := by
  rw [mtsActs, if_neg (by simpa [Option.isNone_iff_eq_none] using assigned), if_pos (by simp [user, notUser, writes])]

/-- Settles O49: each privileged word issues through `privileged`, MTS by its register. -/
theorem privilegedTraps : Obligations.PrivilegedTraps := by
  intro s d a k r user spec
  have mtsTraps (n : Nat) (i : Instr) (arm : exec i s = mts n a s) (ready : Ready [a] true s) (assigned : readSys s n ≠ none)
      (notUser : sysUser n = false) (writes : sysReadOnly n = false) :
      exec i s = .next (trapEntry { cause := .priv } false none s) :=
    exec_traps arm ready nofun nofun (mtsActs_user a assigned user notUser writes) spec
  refine ⟨fun ready i listed => ?_, fun ready => ?_, fun ready => ⟨fun i listed => ?_, fun assigned notUser writes => ?_⟩⟩
  · simp only [List.mem_cons, List.not_mem_nil, or_false] at listed
    rcases listed with rfl | rfl | rfl <;> exact exec_traps rfl ready nofun nofun (privileged_user _ user) spec
  · exact exec_traps rfl ready nofun nofun (privileged_user _ user) spec
  · simp only [List.mem_cons, List.not_mem_nil, or_false] at listed
    rcases listed with rfl | rfl | rfl | rfl | rfl | rfl | rfl
    · exact exec_traps rfl ready nofun nofun (privileged_user _ user) spec
    · exact exec_traps rfl ready nofun nofun (privileged_user _ user) spec
    · exact exec_traps rfl ready nofun nofun (privileged_user _ user) spec
    · exact mtsTraps 0x12 _ rfl ready nofun rfl rfl
    · exact mtsTraps 0x1A _ rfl ready nofun rfl rfl
    · exact mtsTraps 0x1C _ rfl ready nofun rfl rfl
    · exact mtsTraps 0x28 _ rfl ready nofun rfl rfl
  · exact mtsTraps r.toNat _ rfl ready assigned notUser writes

end Sys2Proof.Machine
end

section
/-! Addresses, loads, stores, spill slots, atomics and semaphores (spec/06_strand_memory_system.md R120 to R127; spec/07_core.md R170):
the branches of the address check, and what each access does with its answer. -/

namespace Sys2Proof.Machine

/-! ### The address check (R120) -/

section AddressCheck

variable {s : State} {addr : Word} {size kind : Nat}

theorem check_spad (side : addr.getLsbD 63 = true) : check addr size kind s =
    if addr.toNat / 2 ^ 23 % 2 ^ 40 ≠ 0 then .bad .seg
    else if addr.toNat % 2 ^ 23 % size ≠ 0 then .bad .align
    else if addr.toNat % 2 ^ 23 + size > 0x600000 then .bad .seg
    else .spad (addr.toNat % 2 ^ 23) := by
  have off : bitsOf addr.toNat 0 23 = addr.toNat % 2 ^ 23 := by rw [bitsOf, Nat.pow_zero, Nat.div_one]
  have middle : bitsOf addr.toNat 23 40 = addr.toNat / 2 ^ 23 % 2 ^ 40 := rfl
  rw [check, if_pos side, off, middle]
  rfl

theorem check_mem (side : addr.getLsbD 63 = false) : check addr size kind s =
    if addr.toNat / 2 ^ 51 % 2 ^ 12 ≠ 0 then .bad .seg
    else if addr.toNat % size ≠ 0 then .bad .align
    else
      match xlate false s.sys.asid addr.toNat kind s with
      | .bad c => if walkHeld true kind addr.toNat s then .held else .bad c
      | .ok pa mig sw leaf s' =>
        if !reachesHome s pa then .bad .owner
        else if ridgingAt s pa || walkHeld true kind addr.toNat s then .held
        else .mem pa mig sw leaf s' := by
  unfold check
  exact if_neg (by rw [side]; decide)

/-- An address of memory with no bit in the middle and a multiple of the size is translated. -/
theorem check_translated (side : addr.getLsbD 63 = false) (middle : addr.toNat / 2 ^ 51 % 2 ^ 12 = 0)
    (aligned : addr.toNat % size = 0) : check addr size kind s =
    match xlate false s.sys.asid addr.toNat kind s with
    | .bad c => if walkHeld true kind addr.toNat s then .held else .bad c
    | .ok pa mig sw leaf s' =>
      if !reachesHome s pa then .bad .owner
      else if ridgingAt s pa || walkHeld true kind addr.toNat s then .held
      else .mem pa mig sw leaf s' := by
  rw [check_mem side, if_neg (not_not.mpr middle), if_neg (not_not.mpr aligned)]

/-- With no segment there is no walk to hold. -/
theorem walkHeld_noSegment (none : segFind s s.sys.asid addr.toNat = none) : walkHeld true kind addr.toNat s = false := by
  have walks : walksIn true kind addr.toNat s = Option.none := by rw [walksIn, none]; rfl
  rw [walkHeld, walks, Bool.and_false]

end AddressCheck

/-- Settles O23, branch by branch. -/
theorem addressChecks : Obligations.AddressChecks := by
  intro s addr size kind
  refine ⟨fun side => ?_, fun side => ⟨fun middle => ?_, fun middle odd => ?_, fun middle aligned none => ?_,
    fun middle aligned => ⟨fun c bad => ?_, fun pa mig sw leaf u ok => ⟨fun away => ?_, fun reached held => ?_, fun reached free walks => ?_⟩⟩⟩⟩
  · rw [check_spad side]
    refine ⟨fun middle => if_pos middle, fun middle odd => ?_, fun middle aligned beyond => ?_, fun middle aligned inside => ?_⟩
    · rw [if_neg (not_not.mpr middle), if_pos odd]
    · rw [if_neg (not_not.mpr middle), if_neg (not_not.mpr aligned), if_pos beyond]
    · rw [if_neg (not_not.mpr middle), if_neg (not_not.mpr aligned), if_neg (Nat.not_lt.mpr inside)]
  · rw [check_mem side, if_pos middle]
  · rw [check_mem side, if_neg (not_not.mpr middle), if_pos odd]
  · have bad : xlate false s.sys.asid addr.toNat kind s = .bad .seg := by rw [xlate, none]
    rw [check_translated side middle aligned, bad]
    simp only [walkHeld_noSegment none, Bool.false_eq_true, if_false]
  · rw [check_translated side middle aligned, bad]
  · rw [check_translated side middle aligned, ok]
    simp only [away, Bool.not_false, if_true]
  · have holds : (ridgingAt s pa || walkHeld true kind addr.toNat s) = true := (Bool.or_eq_true _ _).mpr held
    rw [check_translated side middle aligned, ok]
    simp only [reached, holds, Bool.not_true, Bool.false_eq_true, if_false, if_true]
  · rw [check_translated side middle aligned, ok]
    simp only [reached, free, walks, Bool.or_false, Bool.not_true, Bool.false_eq_true, if_false]

/-! ### What a strand read gives (R121, R122) -/

/-- Settles O25, by the check's answer. -/
theorem strandReads : Obligations.StrandReads := by
  intro s addr size kind noHeld noCopy
  have heldNone (a : Nat) : heldByte a (heldAll s) = none := by rw [noHeld]; rfl
  have bytes (m : List Host.Cell) (base : Nat) :
      strandBytes s addr size m base = (List.range size).map (fun i => byteAt m (base + i)) := by
    simp only [strandBytes, heldNone, Option.getD_none]
  refine ⟨fun off at_ => ?_, fun pa mig sw leaf u at_ notParked => ⟨fun sound => ?_, fun poisoned pos => ?_⟩⟩
  · rw [strandRead, at_]
    simp only [noCopy, bytes, Bool.false_eq_true, if_false]
  · have reads : readsPoison s addr size pa = false := by
      rw [readsPoison, show poisonedAt s (memKey (ownNode s) pa) = false from sound, Bool.false_and]
    rw [strandRead, at_]
    simp only [noCopy, notParked, reads, bytes, Bool.or_false, Bool.false_eq_true, if_false]
    rfl
  · have reads : readsPoison s addr size pa = true := by
      rw [readsPoison, show poisonedAt s (memKey (ownNode s) pa) = true from poisoned, Bool.true_and, List.any_eq_true]
      exact ⟨0, List.mem_range.mpr pos, by rw [heldNone]; rfl⟩
    rw [strandRead, at_]
    simp only [noCopy, notParked, reads, Bool.or_false, Bool.false_eq_true, if_false, if_true]

/-! ### Loads -/

/-- A load as it acts. -/
def loadActs (n : Nat) (signed : Bool) (d a : Reg) (imm : BitVec 14) (s : State) : Res :=
  let addr := getG s a + sextW imm
  match strandRead addr n 0 s with
  | .trap t => .trap t
  | .stall s' => .stall s'
  | .ue s' =>
    if ldc s ≥ 16 then .stall s
    else .done (pushLoad { d := d, value := 0, ue := true, addr := addr, kind := 0, ahead := s.sys.spec } s')
  | .bytes bs s' =>
    if ldc s ≥ 16 then .stall s
    else
      .done (pushLoad { d := d, value := extendLoad signed n bs, ue := false, addr := addr, kind := 0
                        ahead := s.sys.spec } s')

theorem load_eq (n : Nat) (signed : Bool) (d a : Reg) (imm : BitVec 14) (s : State) :
    load n signed d a imm s = issue [d, a] false 1 (loadActs n signed d a imm) s := rfl

/-- The bits of an extended value (R121). -/
theorem getLsbD_extendLoad (signed : Bool) {n : Nat} (pos : 0 < n) {bs : List Byte} (len : bs.length = n) {k : Nat}
    (below : k < 64) : (extendLoad signed n bs).getLsbD k =
      if k < 8 * n then (leNat bs).testBit k else signed && (leNat bs).testBit (8 * n - 1) := by
  cases signed with
  | false =>
    have small : leNat bs < 2 ^ (8 * n) := by
      have := leNat_lt bs
      rwa [len, show (256 : Nat) = 2 ^ 8 from rfl, ← Nat.pow_mul] at this
    rw [extendLoad, if_neg (by decide), BitVec.getLsbD_ofNat, Bool.false_and]
    split
    · simp [below]
    · rw [Nat.testBit_lt_two_pow (small.trans_le (Nat.pow_le_pow_right (by decide) (by omega))), Bool.and_false]
  | true =>
    have isExtend : extendLoad true n bs = (BitVec.ofNat (8 * n) (leNat bs)).signExtend 64 := by
      rw [extendLoad, if_pos rfl, signedOf_eq_toInt _ (by omega)]
      rfl
    rw [isExtend, BitVec.getLsbD_signExtend, BitVec.msb_eq_getLsbD_last]
    simp only [BitVec.getLsbD_ofNat, below, decide_true, Bool.true_and]
    split
    · rename_i inside
      simp [inside]
    · have last : 8 * n - 1 < 8 * n := by omega
      simp [last]

theorem length_strandBytes (s : State) (addr : Word) (size : Nat) (m : List Host.Cell) (base : Nat) :
    (strandBytes s addr size m base).length = size := by
  simp [strandBytes]

theorem length_strandRead {addr : Word} {size kind : Nat} {s u : State} {bs : List Byte}
    (read : strandRead addr size kind s = .bytes bs u) : bs.length = size := by
  unfold strandRead at read
  split at read
  · cases read
  · cases read
  · split at read
    · cases read
    · cases read
      exact length_strandBytes ..
  · split at read
    · cases read
    · split at read
      · cases read
      · cases read
        exact length_strandBytes ..

theorem loadActs_bytes {n : Nat} {signed : Bool} {d a : Reg} {imm : BitVec 14} {s u : State} {bs : List Byte}
    (room : s.strand.loads.length < 16) (read : strandRead (getG s a + imm.signExtend 64) n 0 s = .bytes bs u) :
    loadActs n signed d a imm s = .done (pushLoad
      { d := d, value := extendLoad signed n bs, ue := false, addr := getG s a + imm.signExtend 64, kind := 0, ahead := s.sys.spec }
      u) := by
  rw [loadActs, sextW, read]
  exact if_neg (Nat.not_le.mpr room)

/-- What the i-th load leaves when it completes. -/
theorem exec_loadComplete {s : State} {i : Nat} {l : Load} (listed : s.strand.loads[i]? = some l) :
    exec (.loadComplete i) s =
      .next (finishLoad l { s with strand := { s.strand with loads := s.strand.loads.eraseIdx i } }) := by
  have arm : exec (.loadComplete i) s = .next (match s.strand.loads[i]? with
    | none => s
    | some l => finishLoad l { s with strand := { s.strand with loads := s.strand.loads.eraseIdx i } }) := rfl
  rw [arm, listed]

theorem finishLoad_sound {l : Load} {s : State} (sound : l.ue = false) (notAhead : s.grp.spec = none) :
    finishLoad l s = setG s l.d l.value := by
  have same : (setG s l.d l.value).grp = s.grp := by unfold setG; split <;> rfl
  rw [finishLoad, if_neg (by rw [sound]; decide)]
  simp only [same, notAhead]

/-- Settles O26. -/
theorem loadResults : Obligations.LoadResults := by
  refine ⟨fun s d a imm ready room => ?_, fun s i l listed notAhead => ⟨fun sound => ?_, fun ue live => ?_⟩⟩
  · intro ea
    have gives (n : Nat) (signed : Bool) (i : Instr) (arm : exec i s = load n signed d a imm s) (pos : 0 < n) (bs : List Byte) (u : State)
        (read : strandRead ea n 0 s = .bytes bs u) : ∃ v : Word, (∀ k, k < 64 → v.getLsbD k =
           if k < 8 * n then (leNat bs).testBit k else signed && (leNat bs).testBit (8 * n - 1)) ∧
         exec i s = .next (finish 1 s (.done (pushLoad
           { d := d, value := v, ue := false, addr := ea, kind := 0, ahead := s.sys.spec } u))) := by
      refine ⟨extendLoad signed n bs, fun k below => getLsbD_extendLoad signed pos (length_strandRead read) below, ?_⟩
      rw [arm, load_eq, issue_done ready (loadActs_bytes room read)]
    exact ⟨gives 1 true _ rfl (by decide), gives 1 false _ rfl (by decide), gives 2 true _ rfl (by decide),
      gives 2 false _ rfl (by decide), gives 4 true _ rfl (by decide), gives 4 false _ rfl (by decide), gives 8 false _ rfl (by decide)⟩
  · exact (exec_loadComplete listed).trans (congrArg Host.Outcome.next (finishLoad_sound sound notAhead))
  · exact (exec_loadComplete listed).trans (congrArg Host.Outcome.next ((if_pos ue).trans (if_pos live)))

/-! ### Stores -/

/-- A store as it acts. -/
def storeActs (n : Nat) (d a : Reg) (imm : BitVec 14) (s : State) : Res :=
  let addr := getG s a + sextW imm
  let data : Word := BitVec.ofNat 64 ((getG s d).toNat % 2 ^ (8 * n))
  if s.sys.spec then (if stc s ≥ 64 then .stall s else storeHeld addr n data s)
  else
    match storeNow addr n data s with
    | .bad c => .trap (accessTrap c addr 1)
    | .wait s' => .stall s'
    | .done s' => if s.grp.issuing ≠ [] || stc s ≥ 64 then .stall s else .done s'

theorem store_eq (n : Nat) (d a : Reg) (imm : BitVec 14) (s : State) :
    store n d a imm s = issue [d, a] false 1 (storeActs n d a imm) s := rfl

section Stores

variable {s : State} {d a : Reg} {imm : BitVec 14} {n : Nat} {i : Instr}
variable (arm : exec i s = store n d a imm s) (ready : Ready [d, a] false s) (free : s.sys.spec = false)
include arm ready free

/-- A store that is performed or parks, where nothing before it is to issue. -/
theorem exec_store_done {u : State} (issued : s.grp.issuing = []) (room : stc s < 64)
    (stored : storeNow (getG s a + imm.signExtend 64) n (BitVec.ofNat 64 ((getG s d).toNat % 2 ^ (8 * n))) s = .done u) :
    exec i s = .next (finish 1 s (.done u)) := by
  have acts : storeActs n d a imm s = .done u := by
    rw [storeActs, sextW, if_neg (by rw [free]; decide), stored]
    exact if_neg (by simpa [issued] using room)
  rw [arm, store_eq, issue_done ready acts]

end Stores

section StoreNow

variable {s : State} {addr : Word} {n : Nat} {data : Word} (noCopy : meetsCopy s addr n = false) (room : s.mem.replay.length < 32)
include noCopy room

/-- Nothing keeps a store from its place. -/
theorem store_notFull : (meetsCopy s addr n || decide (32 ≤ s.mem.replay.length)) = false := by
  rw [noCopy, Bool.false_or, decide_eq_false (Nat.not_le.mpr room)]

theorem storeNow_spad {off : Nat} (at_ : check addr n 1 s = .spad off) :
    storeNow addr n data s = .done (putSpad s off (leBytes n data.toNat)) := by
  rw [storeNow, at_, store_notFull noCopy room]
  rfl

theorem storeNow_parks {c : Cause} {r : ParkReason} (bad : check addr n 1 s = .bad c) (reason : parkReason s addr.toNat c = some r) :
    storeNow addr n data s = .done (park r addr.toNat n data (missRequests true 1 addr.toNat s)) := by
  rw [storeNow, bad, store_notFull noCopy room]
  simp only [reason]
  rfl

theorem storeNow_mem {pa : Nat} {mig sw : Bool} {leaf : Option Nat} {u : State} (at_ : check addr n 1 s = .mem pa mig sw leaf u) :
    storeNow addr n data s =
      if pageParked s addr.toNat then .done (park .order addr.toNat n data u)
      else if mig then .done (park .mig addr.toNat n data u)
      else if sw then .done (park .sw addr.toNat n data u)
      else .done (storeMem pa n data leaf (requestAt pa u)) := by
  rw [storeNow, at_, store_notFull noCopy room]
  rfl

end StoreNow

theorem leBytes_data (n : Nat) (small : n ≤ 8) (x : Nat) :
    (BitVec.ofNat 64 (x % 2 ^ (8 * n))).toNat = x % 2 ^ (8 * n) := by
  have below : x % 2 ^ (8 * n) < 2 ^ (8 * n) := Nat.mod_lt _ (by positivity)
  rw [BitVec.toNat_ofNat]
  exact Nat.mod_eq_of_lt (below.trans_le (Nat.pow_le_pow_right (by decide) (by omega)))

/-- Settles O27. -/
theorem storeResults : Obligations.StoreResults := by
  intro s d a imm ready free issued room counts ea
  have stores (n : Nat) (i : Instr) (arm : exec i s = store n d a imm s) (small : n ≤ 8) (noCopy : meetsCopy s ea n = false) :
      (∀ off, check ea n 1 s = .spad off →
        exec i s = .next (finish 1 s (.done (putSpad s off (leBytes n ((getG s d).toNat % 2 ^ (8 * n))))))) ∧
      (∀ pa leaf u, check ea n 1 s = .mem pa false false leaf u → pageParked s ea.toNat = false →
        let w := requestAt pa u
        exec i s = .next (finish 1 s (.done
          (memWrite (writesOf (memKey w.sys.nodeid.toNat pa) (leBytes n ((getG s d).toNat % 2 ^ (8 * n)))) (markDirty leaf w))))) := by
    refine ⟨fun off at_ => ?_, fun pa leaf u at_ notParked => ?_⟩
    · rw [exec_store_done arm ready free issued counts (storeNow_spad noCopy room at_), leBytes_data n small]
    · have stored : storeNow ea n (BitVec.ofNat 64 ((getG s d).toNat % 2 ^ (8 * n))) s =
          .done (storeMem pa n (BitVec.ofNat 64 ((getG s d).toNat % 2 ^ (8 * n))) leaf (requestAt pa u)) := by
        rw [storeNow_mem noCopy room at_, notParked]
        rfl
      rw [exec_store_done arm ready free issued counts stored, storeMem, leBytes_data n small]
      rfl
  exact ⟨stores 1 _ rfl (by decide), stores 2 _ rfl (by decide), stores 4 _ rfl (by decide), stores 8 _ rfl (by decide)⟩

/-! ### The frame of a store in the scratchpad -/

/-- A scratchpad access that the check lets through lies inside it. -/
theorem check_spad_inside {s : State} {addr : Word} {size kind off : Nat} (at_ : check addr size kind s = .spad off) :
    off + size ≤ 0x600000 := by
  cases side : addr.getLsbD 63 with
  | true =>
    rw [check_spad side] at at_
    split at at_
    · cases at_
    · split at at_
      · cases at_
      · split at at_
        · cases at_
        · cases at_
          omega
  | false =>
    rw [check_mem side] at at_
    split at at_
    · cases at_
    · split at at_
      · cases at_
      · split at at_
        · split at at_ <;> cases at_
        · split at at_
          · cases at_
          · split at at_ <;> cases at_

/-- While no snapshot is being written a completed instruction leaves what it made of the state, but for the issue state. -/
theorem finish_stands {s u : State} (idle : s.prof.busy = false) : RestStands u (finish 1 s (.done u)) ∧
    (finish 1 s (.done u)).strand.g = u.strand.g ∧ (finish 1 s (.done u)).strand.c = u.strand.c := by
  have frame := completionFrame 1 s u
  obtain ⟨⟨g, c, -, rest⟩, advances, -⟩ := frame
  rw [advances idle]
  exact ⟨rest, g, c⟩

theorem byteAt_putSpad_in {s : State} {off : Nat} {bs : List Byte} (inside : off + bs.length ≤ 0x600000) (wf : memWf s.store.spad) {k : Nat}
    (below : k < bs.length) : byteAt (putSpad s off bs).store.spad (off + k) = bs[k] := by
  have whole : bs.take (Config.spadBytes - off) = bs := List.take_of_length_le (by rw [Config.spadBytes]; omega)
  show byteAt (setBytes s.store.spad off (bs.take (Config.spadBytes - off))) (off + k) = bs[k]
  rw [whole]
  exact byteAt_setBytes_in off bs k below wf

/-- Which bytes of the scratchpad were written before does not matter for the other stores. -/
theorem sameStore_of_putSpad {s t : State} {off : Nat} {bs : List Byte} (same : SameStore (putSpad s off bs) t) : SameStore s t := by
  have stores : { t.store with spad := (putSpad s off bs).store.spad } = (putSpad s off bs).store := same
  have rest := congrArg (fun x : Store => ({ x with spad := s.store.spad } : Store)) stores
  exact rest

/-- Byte k of a number that is cut to n bytes. -/
theorem byte_of_cut (x : Nat) {k n : Nat} (below : k < n) :
    BitVec.ofNat 8 (x % 2 ^ (8 * n) / 256 ^ k) = BitVec.ofNat 8 (x / 256 ^ k) := by
  obtain ⟨m, rfl⟩ : ∃ m, n = k + (m + 1) := ⟨n - k - 1, by omega⟩
  have cut : (2 : Nat) ^ (8 * (k + (m + 1))) = 256 ^ k * 256 ^ (m + 1) := by rw [Nat.pow_mul, ← Nat.pow_add]
  apply BitVec.eq_of_toNat_eq
  rw [cut, Nat.mod_mul_right_div_self, BitVec.toNat_ofNat, BitVec.toNat_ofNat]
  exact Nat.mod_mod_of_dvd _ (Dvd.intro_left (256 ^ m) rfl)

/-- Settles O28: the stored bytes by the register's, the rest by the frame of the completion. -/
theorem storeFrame : Obligations.StoreFrame := by
  intro s t d a imm off canonical off_ idle ready free issued room counts ea
  have framed (n : Nat) (i : Instr) (arm : exec i s = store n d a imm s) (small : n ≤ 8) (noCopy : meetsCopy s ea n = false)
      (at_ : check ea n 1 s = .spad off) (next : exec i s = .next t) :
      (∀ x, x < off ∨ off + n ≤ x → byteAt t.store.spad x = byteAt s.store.spad x) ∧
      (∀ k < n, byteAt t.store.spad (off + k) = (getG s d).extractLsb' (8 * k) 8) ∧
      t.mem = s.mem ∧ t.fab = s.fab ∧ t.strand.g = s.strand.g ∧ t.strand.c = s.strand.c ∧ SameStore s t ∧ SameSys s t := by
    rw [exec_store_done arm ready free issued counts (storeNow_spad noCopy room at_), leBytes_data n small] at next
    cases next
    obtain ⟨rest, g, c⟩ := finish_stands (u := putSpad s off (leBytes n ((getG s d).toNat % 2 ^ (8 * n)))) idle
    obtain ⟨-, -, -, -, -, -, -, -, -, sys, store, -, mem, fab, -, -, spad⟩ := rest
    have len := leBytes_length n ((getG s d).toNat % 2 ^ (8 * n))
    rw [spad off_, g, c]
    refine ⟨fun x out => putSpad_out s off _ canonical.2.1 (by rwa [len]), fun k below => ?_, mem, fab, rfl, rfl,
      sameStore_of_putSpad store, sys⟩
    rw [byteAt_putSpad_in (by rw [len]; exact check_spad_inside at_) canonical.2.1 (by rwa [len]), getElem_leBytes,
      extractLsb'_byte, byte_of_cut _ below]
  exact ⟨framed 1 _ rfl (by decide), framed 2 _ rfl (by decide), framed 4 _ rfl (by decide), framed 8 _ rfl (by decide)⟩

/-! ### Parked stores (R122, R294) -/

/-- A page raised in a sweep: the sweep's ASID, a page still to copy, once. -/
theorem raisePage_eq (va : Nat) (s : State) : raisePage va s =
    { s with mem := { s.mem with sweeps := s.mem.sweeps.map (fun w =>
      if w.asid = s.sys.asid ∧ w.pages.any (fun q => pageOf q.va == pageOf va) = true ∧
          w.raised.any (fun r => r.1 == pageOf va) = false then
        { w with raised := w.raised ++ [(pageOf va, s.sys.coreid.toNat)] }
      else w) } } := by
  simp only [raisePage, raiseFor, ownCore, Bool.and_eq_true, beq_iff_eq, Bool.not_eq_true', and_assoc]

/-- A store that has parked, before its cause is raised. -/
def parkedStore (r : ParkReason) (va size : Nat) (data : Word) (s : State) : State :=
  raisePage va { s with mem := { s.mem with
    replay := s.mem.replay ++ [{ id := s.mem.nextPark, va := va, size := size, data := data, reason := r }]
    nextPark := s.mem.nextPark + 1 } }

theorem park_quiet {r : ParkReason} (quiet : r ≠ .page ∧ r ≠ .wprot) (va size : Nat) (data : Word) (s : State) :
    park r va size data s = parkedStore r va size data s := by
  cases r with
  | page => exact absurd rfl quiet.1
  | wprot => exact absurd rfl quiet.2
  | mig | sw | order => rfl

theorem park_page (va size : Nat) (data : Word) (s : State) :
    park .page va size data s = raiseParked .page s.mem.nextPark va (parkedStore .page va size data s) := rfl

theorem park_wprot (va size : Nat) (data : Word) (s : State) :
    park .wprot va size data s = raiseParked .wprot s.mem.nextPark va (parkedStore .wprot va size data s) := rfl

theorem parkReason_parked {s : State} {va : Nat} {c : Cause} (parked : pageParked s va = true) (notAlign : c ≠ .align) :
    parkReason s va c = some .order := by
  rw [parkReason, if_neg notAlign, if_pos parked]

theorem parkReason_page {s : State} {va : Nat} (notParked : pageParked s va = false) : parkReason s va .page = some .page := by
  rw [parkReason, if_neg (by decide), if_neg (by rw [notParked]; decide), if_pos rfl]

theorem parkReason_wprot {s : State} {va : Nat} (notParked : pageParked s va = false) : parkReason s va .wprot = some .wprot := by
  rw [parkReason, if_neg (by decide), if_neg (by rw [notParked]; decide), if_neg (by decide), if_pos rfl]

theorem parkReason_none {s : State} {va : Nat} {c : Cause} (none : c = .align ∨ (pageParked s va = false ∧ c ≠ .page ∧ c ≠ .wprot)) :
    parkReason s va c = Option.none := by
  rw [parkReason]
  rcases none with align | ⟨notParked, notPage, notWprot⟩
  · rw [if_pos align]
  · rw [notParked, if_neg notPage, if_neg notWprot]
    simp

/-- Settles O29, by the check's answer and whether the page holds a parked store. -/
theorem storeParks : Obligations.StoreParks := by
  intro s d a imm ready free issued room counts ea parks
  have all (n : Nat) (i : Instr) (arm : exec i s = store n d a imm s) : parks i n := by
    intro noCopy parked is asked
    have parkedEq (r : ParkReason) (u : State) :
        parked r u = parkedStore r ea.toNat n (BitVec.ofNat 64 ((getG s d).toNat % 2 ^ (8 * n))) u := by
      rw [parkedStore, raisePage_eq]
    have done {u : State} (stored : storeNow ea n (BitVec.ofNat 64 ((getG s d).toNat % 2 ^ (8 * n))) s = .done u) : is u :=
      exec_store_done arm ready free issued counts stored
    refine ⟨fun notParked => ⟨fun bad => ?_, fun bad => ?_, fun pa sw leaf u at_ => ?_, fun pa leaf u at_ => ?_⟩,
      fun isParked => ⟨fun c bad notAlign => ?_, fun pa mig sw leaf u at_ => ?_⟩⟩
    · rw [parkedEq, ← park_page]
      exact done (storeNow_parks noCopy room bad (parkReason_page notParked))
    · rw [parkedEq, ← park_wprot]
      exact done (storeNow_parks noCopy room bad (parkReason_wprot notParked))
    · rw [parkedEq, ← park_quiet (by decide)]
      exact done (by rw [storeNow_mem noCopy room at_, notParked]; rfl)
    · rw [parkedEq, ← park_quiet (by decide)]
      exact done (by rw [storeNow_mem noCopy room at_, notParked]; rfl)
    · rw [parkedEq, ← park_quiet (by decide)]
      exact done (storeNow_parks noCopy room bad (parkReason_parked isParked notAlign))
    · rw [parkedEq, ← park_quiet (by decide)]
      exact done (by rw [storeNow_mem noCopy room at_, isParked]; rfl)
  exact ⟨all 1 _ rfl, all 2 _ rfl, all 4 _ rfl, all 8 _ rfl⟩

/-! ### Atomics (R126, R127) -/

/-- An atomic as it acts. -/
def atomActs (op : AtomOp) (d a b : Reg) (w32 : Bool) (s : State) : Res :=
  let size := if w32 then 4 else 8
  let w := 8 * size
  let addr := getG s a
  let bv := (getG s b).toNat % 2 ^ w
  let cmp := (getG s d).toNat % 2 ^ w
  match check addr size 2 s with
  | .bad c => .trap (accessTrap c addr 2)
  | .held => .stall s
  | .spad off =>
    if meetsCopy s addr size || !s.grp.issuing.isEmpty || ldc s ≥ 16 then .stall s
    else
      let old := readLe s.store.spad off size
      let s' := if atomWrites op old cmp then putSpad s off (leBytes size (atomNew op w old bv cmp)) else s
      .done (pushLoad { d := d, value := BitVec.ofNat 64 old, ue := false, addr := addr, kind := 2, ahead := false } s')
  | .mem pa mig sw leaf s' =>
    if sw then .stall (raisePage addr.toNat s')
    else if meetsCopy s addr size || pageParked s addr.toNat || mig || !s.grp.issuing.isEmpty || ldc s ≥ 16 then .stall s'
    else if poisonedAt s (memKey (ownNode s) pa) then
      .done (pushLoad { d := d, value := 0, ue := true, addr := addr, kind := 2, ahead := false }
        (consumed false pa (requestAt pa s')))
    else
      let old := readLe s.mem.mem (memKey (ownNode s) pa) size
      let s' := requestAt pa s'
      let s'' := if atomWrites op old cmp then storeMem pa size (BitVec.ofNat 64 (atomNew op w old bv cmp)) leaf s' else s'
      .done (pushLoad { d := d, value := BitVec.ofNat 64 old, ue := false, addr := addr, kind := 2, ahead := false } s'')

theorem atom_eq (op : AtomOp) (d a b : Reg) (w32 : Bool) (s : State) :
    atom op d a b w32 s = issue [d, a, b] true 1 (atomActs op d a b w32) s := rfl

/-! ### Accesses that the check refuses (R120, R289, R290) -/

/-- What a refused access has left in the memory system when its trap is taken. -/
theorem consumedBy_accessTrap (c : Cause) (addr : Word) {kind : Nat} (small : kind < 2 ^ 32) (s : State) :
    consumedBy (accessTrap c addr kind) s = refusedAccess c kind addr s := by
  have walked : walkedBy (accessTrap c addr kind) s = if c = .align then s else missRequests true kind addr.toNat s := by
    have info : (BitVec.ofNat 32 kind).toNat = kind := Nat.mod_eq_of_lt small
    simp only [walkedBy, accessTrap, checkTrap, info]
  rw [consumedBy, walked, refusedAccess]
  cases c
  case ue => rfl
  all_goals rfl

section Refusals

variable {i : Instr} {regs : List Reg} {stops : Bool} {f : State → Res} {s : State}

/-- An access that its check refuses traps (R120). -/
theorem exec_accessTraps {c : Cause} {addr : Word} {kind : Nat} (arm : exec i s = issue regs stops 1 f s) (ready : Ready regs stops s)
    (small : kind < 2 ^ 32) (notBrk : c ≠ .brk) (refused : f s = .trap (accessTrap c addr kind)) (free : s.sys.spec = false) :
    exec i s = .next (trapEntry
      { cause := c, info := BitVec.ofNat 32 kind, faddr := some addr, access := some true } false none (refusedAccess c kind addr s)) := by
  rw [arm, issue_trap ready free (viewWaits_other s notBrk) refused, consumedBy_accessTrap c addr small]
  rfl

theorem loadActs_bad {n : Nat} {signed : Bool} {d a : Reg} {imm : BitVec 14} {c : Cause}
    (bad : check (getG s a + imm.signExtend 64) n 0 s = .bad c) :
    loadActs n signed d a imm s = .trap (accessTrap c (getG s a + imm.signExtend 64) 0) := by
  have read : strandRead (getG s a + imm.signExtend 64) n 0 s = .trap (accessTrap c (getG s a + imm.signExtend 64) 0) := by
    rw [strandRead, bad]
  rw [loadActs, sextW, read]

theorem loadActs_held {n : Nat} {signed : Bool} {d a : Reg} {imm : BitVec 14}
    (held : check (getG s a + imm.signExtend 64) n 0 s = .held) : loadActs n signed d a imm s = .stall s := by
  have read : strandRead (getG s a + imm.signExtend 64) n 0 s = .stall s := by rw [strandRead, held]
  rw [loadActs, sextW, read]

theorem storeActs_bad {n : Nat} {d a : Reg} {imm : BitVec 14} {c : Cause} (free : s.sys.spec = false)
    (bad : check (getG s a + imm.signExtend 64) n 1 s = .bad c)
    (none : parkReason s (getG s a + imm.signExtend 64).toNat c = Option.none) :
    storeActs n d a imm s = .trap (accessTrap c (getG s a + imm.signExtend 64) 1) := by
  have refused (data : Word) : storeNow (getG s a + imm.signExtend 64) n data s = .bad c := by
    rw [storeNow, bad]
    simp only [none]
  rw [storeActs, sextW, if_neg (by rw [free]; decide), refused]

theorem storeActs_held {n : Nat} {d a : Reg} {imm : BitVec 14} (free : s.sys.spec = false)
    (held : check (getG s a + imm.signExtend 64) n 1 s = .held) : storeActs n d a imm s = .stall s := by
  have waits (data : Word) : storeNow (getG s a + imm.signExtend 64) n data s = .wait s := by rw [storeNow, held]
  rw [storeActs, sextW, if_neg (by rw [free]; decide), waits]

theorem atomActs_bad {op : AtomOp} {d a b : Reg} {w32 : Bool} {c : Cause} (bad : check (getG s a) (if w32 then 4 else 8) 2 s = .bad c) :
    atomActs op d a b w32 s = .trap (accessTrap c (getG s a) 2) := by
  rw [atomActs, bad]

theorem atomActs_held {op : AtomOp} {d a b : Reg} {w32 : Bool} (held : check (getG s a) (if w32 then 4 else 8) 2 s = .held) :
    atomActs op d a b w32 s = .stall s := by
  rw [atomActs, held]

theorem exec_stalls {u : State} (arm : exec i s = issue regs stops 1 f s) (ready : Ready regs stops s) (stalls : f s = .stall u) :
    exec i s = .next (stallAt u) := by
  rw [arm, issue_stall ready stalls]

end Refusals

/-- The ten atomics issue alike. -/
theorem exec_of_atomics {d a b : Reg} {w32 : Bool} {sc : Scope} {s : State} {i : Instr}
    (listed : i ∈ [Instr.atomSwp d a b w32 sc, .atomAdd d a b w32 sc, .atomAnd d a b w32 sc, .atomOr d a b w32 sc,
             .atomXor d a b w32 sc, .atomMin d a b w32 sc, .atomMax d a b w32 sc, .atomMinn d a b w32 sc,
             .atomMaxn d a b w32 sc, .atomCas d a b w32 sc]) :
    ∃ op, exec i s = issue [d, a, b] true 1 (atomActs op d a b w32) s := by
  simp only [List.mem_cons, List.not_mem_nil, or_false] at listed
  rcases listed with rfl | rfl | rfl | rfl | rfl | rfl | rfl | rfl | rfl | rfl
  · exact ⟨.swp, rfl⟩
  · exact ⟨.add, rfl⟩
  · exact ⟨.and, rfl⟩
  · exact ⟨.or, rfl⟩
  · exact ⟨.xor, rfl⟩
  · exact ⟨.min, rfl⟩
  · exact ⟨.max, rfl⟩
  · exact ⟨.minn, rfl⟩
  · exact ⟨.maxn, rfl⟩
  · exact ⟨.cas, rfl⟩

/-- Settles O24: each access hands its check's answer on. -/
theorem accessTraps : Obligations.AccessTraps := by
  intro s d a b imm w32 sc c free notBrk ea traps
  refine ⟨fun ready => ?_, fun ready bad i listed => ?_, fun ready => ?_, fun ready held i listed => ?_⟩
  · have loads (n : Nat) (signed : Bool) (i : Instr) (arm : exec i s = load n signed d a imm s) (bad : check ea n 0 s = .bad c) :
        traps i ea 0 := exec_accessTraps (arm.trans (load_eq ..)) ready (by decide) notBrk (loadActs_bad bad) free
    have stores (none : c = .align ∨ (pageParked s ea.toNat = false ∧ c ≠ .page ∧ c ≠ .wprot)) (n : Nat) (i : Instr)
        (arm : exec i s = store n d a imm s) (bad : check ea n 1 s = .bad c) : traps i ea 1 :=
      exec_accessTraps (arm.trans (store_eq ..)) ready (by decide) notBrk (storeActs_bad free bad (parkReason_none none)) free
    exact ⟨fun bad => ⟨loads 1 true _ rfl bad, loads 1 false _ rfl bad⟩, fun bad => ⟨loads 2 true _ rfl bad, loads 2 false _ rfl bad⟩,
      fun bad => ⟨loads 4 true _ rfl bad, loads 4 false _ rfl bad⟩, loads 8 false _ rfl,
      fun none => ⟨stores none 1 _ rfl, stores none 2 _ rfl, stores none 4 _ rfl, stores none 8 _ rfl⟩⟩
  · obtain ⟨op, arm⟩ := exec_of_atomics (s := s) listed
    exact exec_accessTraps arm ready (by decide) notBrk (atomActs_bad bad) free
  · have loads (n : Nat) (signed : Bool) (i : Instr) (arm : exec i s = load n signed d a imm s) (held : check ea n 0 s = .held) :
        exec i s = .next (stallAt s) := exec_stalls (arm.trans (load_eq ..)) ready (loadActs_held held)
    have stores (n : Nat) (i : Instr) (arm : exec i s = store n d a imm s) (held : check ea n 1 s = .held) :
        exec i s = .next (stallAt s) := exec_stalls (arm.trans (store_eq ..)) ready (storeActs_held free held)
    exact ⟨fun held => ⟨loads 1 true _ rfl held, loads 1 false _ rfl held⟩, fun held => ⟨loads 2 true _ rfl held, loads 2 false _ rfl held⟩,
      fun held => ⟨loads 4 true _ rfl held, loads 4 false _ rfl held⟩, loads 8 false _ rfl, stores 1 _ rfl, stores 2 _ rfl, stores 4 _ rfl,
      stores 8 _ rfl⟩
  · obtain ⟨op, arm⟩ := exec_of_atomics (s := s) listed
    exact exec_stalls arm ready (atomActs_held held)

end Sys2Proof.Machine
end

section
/-! Atomics, spill slots, semaphores and copies (spec/06_strand_memory_system.md R123, R124, R126, R127; spec/07_core.md R170). -/

namespace Sys2Proof.Machine

/-! ### Atomics -/

theorem elim_ite_some {α β : Type} (p : Prop) [Decidable p] (x : α) (z : β) (f : α → β) :
    (if p then some x else none).elim z f = if p then f x else z := by
  split <;> rfl

section Atomics

variable {op : AtomOp} {d a b : Reg} {w32 : Bool} {s : State}

/-- What an atomic writes, if it writes. -/
def atomValue (op : AtomOp) (w y cmp old : Nat) : Option Nat := if atomWrites op old cmp then some (atomNew op w old y cmp) else none

variable (noCopy : meetsCopy s (getG s a) (if w32 then 4 else 8) = false) (room : s.strand.loads.length < 16) (issued : s.grp.issuing = [])
include noCopy room issued

theorem atomActs_spad {off : Nat} (at_ : check (getG s a) (if w32 then 4 else 8) 2 s = .spad off) {u : State}
    (written : (atomValue op (8 * if w32 then 4 else 8) ((getG s b).toNat % 2 ^ (8 * if w32 then 4 else 8))
        ((getG s d).toNat % 2 ^ (8 * if w32 then 4 else 8)) (readLe s.store.spad off (if w32 then 4 else 8))).elim s
        (fun v => putSpad s off (leBytes (if w32 then 4 else 8) v)) = u) :
    atomActs op d a b w32 s = .done (pushLoad
      { d := d, value := BitVec.ofNat 64 (readLe s.store.spad off (if w32 then 4 else 8)), ue := false, addr := getG s a, kind := 2, ahead := false } u) := by
  have free : ¬(meetsCopy s (getG s a) (if w32 then 4 else 8) || !s.grp.issuing.isEmpty || decide (ldc s ≥ 16)) = true := by
    simp [noCopy, issued, ldc, room]
  rw [atomActs, at_, ← written, atomValue, elim_ite_some]
  exact if_neg free

theorem atomActs_mem {pa : Nat} {leaf : Option Nat} {t u : State}
    (at_ : check (getG s a) (if w32 then 4 else 8) 2 s = .mem pa false false leaf t) (notParked : pageParked s (getG s a).toNat = false)
    (sound : poisonedAt s (memKey s.sys.nodeid.toNat pa) = false)
    (written : (atomValue op (8 * if w32 then 4 else 8) ((getG s b).toNat % 2 ^ (8 * if w32 then 4 else 8))
        ((getG s d).toNat % 2 ^ (8 * if w32 then 4 else 8))
        (readLe s.mem.mem (memKey s.sys.nodeid.toNat pa) (if w32 then 4 else 8))).elim (requestAt pa t)
        (fun v => storeMem pa (if w32 then 4 else 8) (BitVec.ofNat 64 v) leaf (requestAt pa t)) = u) :
    atomActs op d a b w32 s = .done (pushLoad
      { d := d, value := BitVec.ofNat 64 (readLe s.mem.mem (memKey s.sys.nodeid.toNat pa) (if w32 then 4 else 8)), ue := false
        addr := getG s a, kind := 2, ahead := false } u) := by
  have free : ¬(meetsCopy s (getG s a) (if w32 then 4 else 8) || pageParked s (getG s a).toNat || false || !s.grp.issuing.isEmpty ||
      decide (ldc s ≥ 16)) = true := by
    simp [noCopy, notParked, issued, ldc, room]
  have notPoisoned : ¬poisonedAt s (memKey (ownNode s) pa) = true := by rw [ownNode, sound]; decide
  rw [atomActs, at_, ← written, atomValue, elim_ite_some]
  exact (if_neg Bool.false_ne_true).trans ((if_neg free).trans (if_neg notPoisoned))

end Atomics

/-- Settles O32: the new value of each operation by `atomNew`. -/
theorem atomicResults : Obligations.AtomicResults := by
  intro s d a b w32 sc ready room issued size w addr y key out acts sg
  have all (op : AtomOp) (i : Instr) (f : Nat → Option Nat) (arm : exec i s = issue [d, a, b] true 1 (atomActs op d a b w32) s)
      (value : ∀ old, atomValue op w y ((getG s d).toNat % 2 ^ w) old = f old) : acts i f := by
    refine fun noCopy => ⟨fun off at_ => ?_, fun pa leaf u at_ notParked sound => ?_⟩
    · intro old
      rw [arm, issue_done ready (atomActs_spad noCopy room issued at_ rfl)]
      rcases written : f old with _ | v
      all_goals
        rw [(value old).trans written]
        rfl
    · intro old r
      rw [arm, issue_done ready (atomActs_mem noCopy room issued at_ notParked sound rfl)]
      rcases written : f old with _ | v
      all_goals
        rw [(value old).trans written]
        rfl
  have one (op : AtomOp) (writes : ∀ old cmp, atomWrites op old cmp = true) (old : Nat) :
      atomValue op w y ((getG s d).toNat % 2 ^ w) old = some (atomNew op w old y ((getG s d).toNat % 2 ^ w)) := if_pos (writes _ _)
  refine ⟨all .swp (.atomSwp d a b w32 sc) (fun _ => some y) rfl (one .swp fun _ _ => rfl),
    all .add (.atomAdd d a b w32 sc) (fun x => some ((x + y) % 2 ^ w)) rfl (one .add fun _ _ => rfl),
    all .and (.atomAnd d a b w32 sc) (fun x => some (x &&& y)) rfl (one .and fun _ _ => rfl),
    all .or (.atomOr d a b w32 sc) (fun x => some (x ||| y)) rfl (one .or fun _ _ => rfl),
    all .xor (.atomXor d a b w32 sc) (fun x => some (x ^^^ y)) rfl (one .xor fun _ _ => rfl),
    all .min (.atomMin d a b w32 sc) (fun x => some (if sg x ≤ sg y then x else y)) rfl (one .min fun _ _ => rfl),
    all .max (.atomMax d a b w32 sc) (fun x => some (if sg y ≤ sg x then x else y)) rfl (one .max fun _ _ => rfl),
    all .minn (.atomMinn d a b w32 sc) (fun x => some (min x y)) rfl (one .minn fun _ _ => rfl),
    all .maxn (.atomMaxn d a b w32 sc) (fun x => some (max x y)) rfl (one .maxn fun _ _ => rfl),
    all .cas (.atomCas d a b w32 sc) (fun x => if x = (getG s d).toNat % 2 ^ w then some y else none) rfl fun old => ?_⟩
  by_cases equal : old = (getG s d).toNat % 2 ^ w
  · simp [atomValue, atomWrites, atomNew, equal]
  · simp [atomValue, atomWrites, equal]

/-! ### Spill slots -/

/-- Settles O30: SPL by speculation and room, FIL, and the law of the slots. -/
theorem spillResults : Obligations.SpillResults := by
  intro s g n ready
  have spl : exec (.spl g n) s = issue [g] false 1 (fun s =>
      if s.sys.spec then
        if holdFull s then .stall s
        else .done { s with grp := { s.grp with hold := s.grp.hold ++ [.spl n.toNat (getG s g)] } }
      else
        .done (setSpill { s with grp := { s.grp with issuing := s.grp.issuing.filter (fun h => !isSplOf n.toNat h) } } n (getG s g)))
      s := rfl
  refine ⟨fun free issued => ?_, fun spec room => ?_, fun spec full => ?_, fun none => ?_, fun m v sorted => ?_⟩
  · have same : ({ s with grp := { s.grp with issuing := s.grp.issuing.filter (fun h => !isSplOf n.toNat h) } } : State) = s := by
      rw [issued]; rw [List.filter_nil, ← issued]
    rw [spl]
    exact issue_done ready (by rw [free, same]; rfl)
  · have notFull : holdFull s = false := decide_eq_false (Nat.not_le.mpr room)
    rw [spl]
    exact issue_done ready (by rw [spec, notFull]; rfl)
  · have isFull : holdFull s = true := decide_eq_true full
    rw [spl]
    exact issue_stall ready (by rw [spec, isFull]; rfl)
  · have slot : readSpill s n = getSpill s n := by rw [readSpill, none]; rfl
    have fil : exec (.fil g n) s = issue [g] false 1 (fun s => .done (setG s g (readSpill s n))) s := rfl
    rw [fil]
    exact issue_writes (fun s => readSpill s n) slot ready
  · have slots : getSpill (setSpill s n v) m = if m.toNat = n.toNat then v else tget 0 s.strand.spill m.toNat :=
      tget_tset 0 n.toNat m.toNat v sorted
    rw [slots]
    simp only [BitVec.toNat_inj]
    rfl

/-! ### Semaphores -/

section Semaphores

variable {s : State} {n : BitVec 11} {regs : List Reg}

theorem semadd_issues {v : State → BitVec 32} (ready : Ready regs true s) (issued : s.grp.issuing = []) :
    semadd n v regs s = .next (finish 1 s (.done (releaseAll (addSem n.toNat (v s) s)))) :=
  issue_done ready (if_pos (by rw [issued]; rfl))

theorem semadd_waits {v : State → BitVec 32} (ready : Ready regs true s) (held : s.grp.issuing ≠ []) :
    semadd n v regs s = .next (stallAt s) :=
  issue_stall ready (if_neg (by simpa using held))

theorem semwait_holds {v : State → Int} (ready : Ready regs true s) (reached : v s ≤ (getSem s n.toNat).toInt) :
    semwait n v regs s = .next (finish 1 s (.done s)) :=
  issue_done ready (if_pos reached)

theorem semwait_waits {v : State → Int} (ready : Ready regs true s) (below : (getSem s n.toNat).toInt < v s) :
    semwait n v regs s = .next (stallAt s) :=
  issue_stall ready (if_neg (not_le.mpr below))

end Semaphores

/-- SEMSET as it acts. -/
def semsetActs (n : BitVec 11) (g : Reg) (s : State) : Res :=
  if s.grp.issuing.isEmpty then .done (releaseAll (setSem n.toNat (low32 (getG s g)) s)) else .stall s

theorem exec_semset (n : BitVec 11) (g : Reg) (s : State) : exec (.semset n g) s = issue [g] true 1 (semsetActs n g) s := rfl

/-- Settles O34. -/
theorem semaphoreResults : Obligations.SemaphoreResults := by
  intro s n g imm v added waits
  have immediate : exec (.semaddi n imm) s = semadd n (fun _ => imm.signExtend 32) [] s := rfl
  refine ⟨fun ready => ⟨fun issued => ⟨semadd_issues (v := fun s => low32 (getG s g)) ready issued, ?_⟩,
    fun held => ⟨semadd_waits (v := fun s => low32 (getG s g)) ready held, ?_⟩,
    ⟨semwait_holds (v := fun s => (low32 (getG s g)).toInt) ready, semwait_waits (v := fun s => (low32 (getG s g)).toInt) ready⟩,
    issue_writes (fun s => (getSem s n.toNat).signExtend 64) rfl ready⟩,
    fun ready => ⟨fun issued => immediate ▸ semadd_issues ready issued, fun held => immediate ▸ semadd_waits ready held,
      ⟨semwait_holds (v := fun _ => (imm.toNat : Int)) ready, semwait_waits (v := fun _ => (imm.toNat : Int)) ready⟩⟩⟩
  · rw [exec_semset]
    exact issue_done ready (by rw [semsetActs, issued]; rfl)
  · rw [exec_semset]
    exact issue_stall ready (by rw [semsetActs, if_neg (by simpa using held)])

/-! ### Copies (R124) -/

/-- The kind of a copy's accesses (R133). -/
def copyKind (lda : Bool) : Nat := if lda then 3 else 4

/-- What a copy whose operands are in order does with its pages. -/
def copyStarts (lda : Bool) (sp va n : Word) (s : State) : CopyPages → Res
  | .bad c a s' => .trapIn (accessTrap c (BitVec.ofNat 64 a) (copyKind lda)) s'
  | .wait s' => .stall s'
  | .ok ps held s' =>
    if held then .stall ((pageStarts va.toNat n.toNat).foldl (fun s a => raisePage a s) s')
    else if cpc s ≥ 16 then .stall s'
    else
      .done { s' with strand := { s'.strand with
        copies := s'.strand.copies ++ [{ toSpad := lda, off := bitsOf sp.toNat 0 23, va := va.toNat, len := n.toNat, pages := ps
                                         asid := s.sys.asid }] } }

section Copies

variable {lda : Bool} {sp va n dst src : Word} {s : State}

theorem low23 (x : Nat) : bitsOf x 0 23 = x % 2 ^ 23 := by rw [bitsOf, Nat.pow_zero, Nat.div_one]

variable (some_ : n ≠ 0)
include some_

theorem copyIssue_long (long : 0x100000 < n.toNat) :
    copyIssue lda sp va n dst src s = .trap (checkTrap .seg va (copyKind lda)) :=
  (if_neg some_).trans (if_pos long)

variable (short : n.toNat ≤ 0x100000)
include short

theorem copyIssue_sides (wrong : sp.getLsbD 63 = false ∨ va.getLsbD 63 = true) :
    copyIssue lda sp va n dst src s = .trap (checkTrap .seg va (copyKind lda)) := by
  have sides : (!sp.getLsbD 63 || va.getLsbD 63) = true := by
    rcases wrong with h | h
    · rw [h]; rfl
    · rw [h, Bool.or_true]
  exact (if_neg some_).trans ((if_neg (Nat.not_lt.mpr short)).trans (if_pos sides))

variable (spSide : sp.getLsbD 63 = true) (vaSide : va.getLsbD 63 = false)
include spSide vaSide

theorem copyIssue_aligns : copyIssue lda sp va n dst src s =
    if dst.toNat % 8 ≠ 0 then .trap (checkTrap .align dst (copyKind lda))
    else if src.toNat % 8 ≠ 0 then .trap (checkTrap .align src (copyKind lda))
    else if n.toNat % 8 ≠ 0 then .trap (checkTrap .align n (copyKind lda))
    else if bitsOf sp.toNat 23 40 ≠ 0 || bitsOf sp.toNat 0 23 ≥ 0x600000 then .trap (checkTrap .seg sp (copyKind lda))
    else if bitsOf sp.toNat 0 23 + n.toNat > 0x600000 then
      .trap (checkTrap .seg (BitVec.ofNat 64 (2 ^ 63 + 0x600000)) (copyKind lda))
    else copyStarts lda sp va n s (copyPages (copyKind lda) (pageStarts va.toNat n.toNat) s) := by
  have sides : ¬(!sp.getLsbD 63 || va.getLsbD 63) = true := by rw [spSide, vaSide]; decide
  exact (if_neg some_).trans ((if_neg (Nat.not_lt.mpr short)).trans (if_neg sides))

variable (dstAligned : dst.toNat % 8 = 0) (srcAligned : src.toNat % 8 = 0) (nAligned : n.toNat % 8 = 0)
include dstAligned srcAligned nAligned

theorem copyIssue_outside (outside : sp.toNat / 2 ^ 23 % 2 ^ 40 ≠ 0 ∨ 0x600000 ≤ sp.toNat % 2 ^ 23) :
    copyIssue lda sp va n dst src s = .trap (checkTrap .seg sp (copyKind lda)) := by
  have refused : (decide (bitsOf sp.toNat 23 40 ≠ 0) || decide (bitsOf sp.toNat 0 23 ≥ 0x600000)) = true := by
    rw [low23, Bool.or_eq_true, decide_eq_true_iff, decide_eq_true_iff]
    exact outside
  rw [copyIssue_aligns some_ short spSide vaSide, if_neg (not_not.mpr dstAligned), if_neg (not_not.mpr srcAligned),
    if_neg (not_not.mpr nAligned), if_pos refused]

variable (middle : sp.toNat / 2 ^ 23 % 2 ^ 40 = 0) (starts : sp.toNat % 2 ^ 23 < 0x600000)
include middle starts

theorem copyIssue_beyond (beyond : 0x600000 < sp.toNat % 2 ^ 23 + n.toNat) :
    copyIssue lda sp va n dst src s = .trap (checkTrap .seg (BitVec.ofNat 64 (2 ^ 63 + 0x600000)) (copyKind lda)) := by
  have inside : ¬(decide (bitsOf sp.toNat 23 40 ≠ 0) || decide (bitsOf sp.toNat 0 23 ≥ 0x600000)) = true := by
    rw [low23, Bool.or_eq_true, decide_eq_true_iff, decide_eq_true_iff, not_or]
    exact ⟨not_not.mpr middle, Nat.not_le.mpr starts⟩
  rw [copyIssue_aligns some_ short spSide vaSide, if_neg (not_not.mpr dstAligned), if_neg (not_not.mpr srcAligned),
    if_neg (not_not.mpr nAligned), if_neg inside, low23, if_pos beyond]

theorem copyIssue_fits (fits : sp.toNat % 2 ^ 23 + n.toNat ≤ 0x600000) : copyIssue lda sp va n dst src s =
    copyStarts lda sp va n s (copyPages (copyKind lda) (pageStarts va.toNat n.toNat) s) := by
  have inside : ¬(decide (bitsOf sp.toNat 23 40 ≠ 0) || decide (bitsOf sp.toNat 0 23 ≥ 0x600000)) = true := by
    rw [low23, Bool.or_eq_true, decide_eq_true_iff, decide_eq_true_iff, not_or]
    exact ⟨not_not.mpr middle, Nat.not_le.mpr starts⟩
  rw [copyIssue_aligns some_ short spSide vaSide, if_neg (not_not.mpr dstAligned), if_neg (not_not.mpr srcAligned),
    if_neg (not_not.mpr nAligned), if_neg inside, low23, if_neg (Nat.not_lt.mpr fits)]

end Copies

/-- An instruction that is ready and stops speculation issues outside it. -/
theorem notAhead_of_ready {regs : List Reg} {s : State} (ready : Ready regs true s) : s.sys.spec = false := by
  obtain ⟨-, -, spec, -⟩ := ready
  rwa [Bool.and_true] at spec

section CopyWords

variable {i : Instr} {lda : Bool} {d a b : Reg} {f : State → Res} {s : State} {sp va : Word}

/-- The word copies between `sp` and `va`, its two operands. -/
structure CopyWord (i : Instr) (lda : Bool) (d a b : Reg) (f : State → Res) (s : State) (sp va : Word) : Prop where
  arm : exec i s = issue [d, a, b] true 1 f s
  acts : f s = copyIssue lda sp va (getG s b) (getG s d) (getG s a) s
  operands : (getG s d = sp ∧ getG s a = va) ∨ (getG s d = va ∧ getG s a = sp)

theorem copyWord_lda (d a b : Reg) (s : State) : CopyWord (.lda d a b) true d a b
    (fun s => copyIssue true (getG s d) (getG s a) (getG s b) (getG s d) (getG s a) s) s (getG s d) (getG s a) :=
  ⟨rfl, rfl, .inl ⟨rfl, rfl⟩⟩

theorem copyWord_sta (d a b : Reg) (s : State) : CopyWord (.sta d a b) false d a b
    (fun s => copyIssue false (getG s a) (getG s d) (getG s b) (getG s d) (getG s a) s) s (getG s a) (getG s d) :=
  ⟨rfl, rfl, .inr ⟨rfl, rfl⟩⟩

variable (word : CopyWord i lda d a b f s sp va) (ready : Ready [d, a, b] true s)
include word ready

theorem CopyWord.done {u : State} (acts : copyIssue lda sp va (getG s b) (getG s d) (getG s a) s = .done u) :
    exec i s = .next (finish 1 s (.done u)) := by
  rw [word.arm, issue_done ready (word.acts.trans acts)]

theorem CopyWord.stalls {u : State} (acts : copyIssue lda sp va (getG s b) (getG s d) (getG s a) s = .stall u) :
    exec i s = .next (stallAt u) := by
  rw [word.arm, issue_stall ready (word.acts.trans acts)]

theorem CopyWord.traps {c : Cause} {addr : Word} (notBrk : c ≠ .brk) (notUe : c ≠ .ue)
    (acts : copyIssue lda sp va (getG s b) (getG s d) (getG s a) s = .trap (checkTrap c addr (copyKind lda))) :
    exec i s = .next (trapEntry { cause := c, info := BitVec.ofNat 32 (copyKind lda), faddr := some addr } false none s) :=
  exec_trapsWith (t := checkTrap c addr (copyKind lda)) word.arm ready notBrk notUe rfl (word.acts.trans acts)
    (notAhead_of_ready ready)

/-- A cause behind the walks of the pages before it. -/
theorem CopyWord.trapsIn {c : Cause} {x : Nat} {u : State} (notBrk : c ≠ .brk)
    (acts : copyIssue lda sp va (getG s b) (getG s d) (getG s a) s = .trapIn (accessTrap c (BitVec.ofNat 64 x) (copyKind lda)) u) :
    exec i s = .next (trapEntry
      { cause := c, info := BitVec.ofNat 32 (copyKind lda), faddr := some (BitVec.ofNat 64 x), access := some true } false none
      (refusedAccess c (copyKind lda) (BitVec.ofNat 64 x) u)) := by
  rw [word.arm, issue_trapIn ready (notAhead_of_ready ready) (viewWaits_other s notBrk) (word.acts.trans acts),
    consumedBy_accessTrap c _ (by cases lda <;> decide)]
  rfl

end CopyWords

theorem copyRequestsOf_eq (c : Copy) (s : State) : copyRequestsOf c s =
    (((copyUnits c).map (fun i => copyPa c (c.va + i))).filter (fun pa => pa % 64 == 0 || pa == copyPa c c.va)).foldl
      (fun t pa => requestAt pa t) s := rfl

theorem exec_copyRetire {s : State} {i : Nat} {c : Copy} (listed : s.strand.copies[i]? = some c) :
    exec (.copyRetire i) s = .next (performCopy c { s with strand := { s.strand with copies := s.strand.copies.eraseIdx i } }) := by
  have arm : exec (.copyRetire i) s = execCopyRetire i s := rfl
  rw [arm, execCopyRetire, listed]

/-- Settles O31, by the order of a copy's checks, and at its retirement by its direction. -/
theorem copyResults : Obligations.CopyResults := by
  refine ⟨fun s d a b ready room => ?_, fun s i c listed => ⟨fun toSpad => ?_, fun out => ?_⟩⟩
  · intro issues refuses
    have issuesAll {i : Instr} {lda : Bool} {f : State → Res} {sp va : Word} {kind : Nat} (word : CopyWord i lda d a b f s sp va)
        (isKind : kind = copyKind lda) : issues i lda sp va kind := by
      subst isKind
      refine ⟨fun zero => word.done ready (if_pos zero), fun ps u some_ short nAligned spSide vaSide spAligned vaAligned middle fits pages => ?_⟩
      have aligned : (getG s d).toNat % 8 = 0 ∧ (getG s a).toNat % 8 = 0 := by
        rcases word.operands with ⟨hd, ha⟩ | ⟨hd, ha⟩ <;> rw [hd, ha] <;> simp [spAligned, vaAligned]
      have starts : sp.toNat % 2 ^ 23 < 0x600000 := by
        have : 0 < (getG s b).toNat := Nat.pos_of_ne_zero fun h => some_ (BitVec.eq_of_toNat_eq h)
        omega
      refine word.done ready ?_
      rw [copyIssue_fits some_ short spSide vaSide aligned.1 aligned.2 nAligned middle starts fits, pages, copyStarts, low23,
        if_neg Bool.false_ne_true, if_neg (Nat.not_le.mpr room)]
    have refusesAll {i : Instr} {lda : Bool} {f : State → Res} {sp va : Word} {kind : Nat} (word : CopyWord i lda d a b f s sp va)
        (isKind : kind = copyKind lda) : refuses i sp va kind := by
      subst isKind
      intro some_ n traps sides aligned fits
      have starts (h : fits) : sp.toNat % 2 ^ 23 < 0x600000 := by
        have : 0 < (getG s b).toNat := Nat.pos_of_ne_zero fun h => some_ (BitVec.eq_of_toNat_eq h)
        have := h.2
        omega
      have pages (h : sides) (h' : aligned) (h'' : fits) := copyIssue_fits (lda := lda) (s := s) some_ h.1 h.2.1 h.2.2 h'.1 h'.2.1 h'.2.2 h''.1
        (starts h'') h''.2
      refine ⟨fun long => word.traps ready nofun nofun (copyIssue_long some_ long),
        fun short wrong => word.traps ready nofun nofun (copyIssue_sides some_ short wrong),
        fun ⟨short, spSide, vaSide⟩ odd => word.traps ready nofun nofun ?_,
        fun ⟨short, spSide, vaSide⟩ even odd => word.traps ready nofun nofun ?_,
        fun ⟨short, spSide, vaSide⟩ even even' odd => word.traps ready nofun nofun ?_,
        fun ⟨short, spSide, vaSide⟩ ⟨hd, ha, hn⟩ outside =>
          word.traps ready nofun nofun (copyIssue_outside some_ short spSide vaSide hd ha hn outside),
        fun ⟨short, spSide, vaSide⟩ ⟨hd, ha, hn⟩ middle starts beyond =>
          word.traps ready nofun nofun (copyIssue_beyond some_ short spSide vaSide hd ha hn middle starts beyond),
        fun h h' h'' c x u bad notBrk => word.trapsIn ready notBrk ?_, fun h h' h'' u waits => word.stalls ready ?_,
        fun h h' h'' ps u held => word.stalls ready ?_⟩
      · rw [copyIssue_aligns some_ short spSide vaSide, if_pos odd]
      · rw [copyIssue_aligns some_ short spSide vaSide, if_neg (not_not.mpr even), if_pos odd]
      · rw [copyIssue_aligns some_ short spSide vaSide, if_neg (not_not.mpr even), if_neg (not_not.mpr even'), if_pos odd]
      · rw [pages h h' h'', bad, copyStarts]
      · rw [pages h h' h'', waits, copyStarts]
      · rw [pages h h' h'', held, copyStarts, if_pos rfl]
    exact ⟨issuesAll (copyWord_lda d a b s) rfl, issuesAll (copyWord_sta d a b s) rfl, refusesAll (copyWord_lda d a b s) rfl,
      refusesAll (copyWord_sta d a b s) rfl⟩
  · rw [exec_copyRetire listed, performCopy, copyRequestsOf_eq]
    exact congrArg Host.Outcome.next (if_pos toSpad)
  · rw [exec_copyRetire listed, performCopy, copyRequestsOf_eq]
    exact congrArg Host.Outcome.next (if_neg (by rw [out]; decide))

end Sys2Proof.Machine
end

section
/-! The group instructions (spec/19_fabric_groups.md R359, R360, R369, R370): CBR and CBRX by whether there is a group and a result, CSTEP
by what it waits for. -/

namespace Sys2Proof.Machine

section GroupWords

variable {t : Tb} {c : Cond} {neg : Bool} {red : Red} {hint : Bool} {s : State}

/-- CBR as it acts in its place. -/
def cbrActs (t : Tb) (c : Cond) (neg : Bool) (red : Red) (hint : Bool) (s : State) : Res :=
  if s.sys.grpn = 0 then .jump (pendTransfer (knownPend t (getC s c != neg) s) s)
  else if s.sys.grpXc then
    .jump (pendTransfer (knownPend t s.sys.grpXr s) { s with sys := { s.sys with grpXc := false } })
  else
    .jump (pendTransfer
      { kind := .cbrOpen hint s.sys.grpCi, taken := hint, target := getTb s t, fall := afterSlot s }
      (contribute red (getC s c != neg) s))

/-- CBRX as it acts in its place. -/
def cbrxActs (t : Tb) (c : Cond) (neg : Bool) (red : Red) (s : State) : Res :=
  if s.sys.grpn = 0 then .jump (pendTransfer (knownPend t (getC s c != neg) s) s)
  else if s.sys.grpXc then .jump (pendTransfer (knownPend t s.sys.grpXr s) s)
  else if s.grp.cbrx.isSome then .stall s
  else .stall { contribute red (getC s c != neg) s with
    grp := { (contribute red (getC s c != neg) s).grp with cbrx := some s.sys.grpCi } }

theorem exec_cbr (t : Tb) (c : Cond) (neg : Bool) (red : Red) (hint : Bool) (s : State) :
    exec (.cbr t c neg red hint) s = issue [] true 1 (transferPlace (cbrActs t c neg red hint)) s := rfl

theorem exec_cbrx (t : Tb) (c : Cond) (neg : Bool) (red : Red) (s : State) :
    exec (.cbrx t c neg red) s = issue [] true 1 (transferPlace (cbrxActs t c neg red)) s := rfl

/-- A collective branch in its place waits behind its slot; no snapshot is taken there. -/
theorem branch_jump {f : State → Res} {u : State} {p : Pend} (ready : Ready [] true s) (place : TransferPlace s)
    (acts : f s = .jump (pendTransfer p u)) (same : u.prof = s.prof) :
    issue [] true 1 (transferPlace f) s = .next (pendTransfer p u) := by
  rw [issue_jump ready ((transferPlace_here place).trans acts),
    snapGuard_same (congrArg Profile.snaps (show (pendTransfer p u).prof = s.prof from same))]

theorem branch_stall {f : State → Res} {u : State} (ready : Ready [] true s) (place : TransferPlace s) (acts : f s = .stall u) :
    issue [] true 1 (transferPlace f) s = .next (stallAt u) :=
  issue_stall ready ((transferPlace_here place).trans acts)

/-- CSTEP as it acts. -/
def cstepActs (s : State) : Res :=
  if tkc s != 0 || !s.mem.replay.isEmpty || !releaseReady .fabric s then .stall s
  else if !(s.sys.gstepLocal - s.sys.gstepStep).ult 16 then .stall s
  else
    let l := s.sys.gstepLocal + 1
    let s := { s with sys := { s.sys with gstepLocal := l } }
    if s.sys.grpn = 0 then .done { s with sys := { s.sys with gstepStep := s.sys.gstepStep + 1 } }
    else .done (sendMsg (.mark { gid := s.sys.grpid, gen := s.grp.gen, ix := s.sys.grpIx, step := l }) s)

theorem exec_cstep (s : State) : exec .cstep s = issue [] true 1 cstepActs s := rfl

theorem exec_gabort (s : State) :
    exec .gabort s = issue [] true 1 (fun s => .done (abortGroup (s.sys.grpIx.setWidth 32) s)) s := rfl

/-- What CSTEP waits for (R369). -/
def StepReady (s : State) : Prop := tkc s = 0 ∧ s.mem.replay = [] ∧ releaseReady .fabric s = true ∧
  (s.sys.gstepLocal - s.sys.gstepStep).toNat < 16

theorem cstepActs_ready (ready : StepReady s) : cstepActs s =
    if s.sys.grpn = 0 then .done { s with sys := { s.sys with gstepLocal := s.sys.gstepLocal + 1, gstepStep := s.sys.gstepStep + 1 } }
    else .done (sendMsg (.mark { gid := s.sys.grpid, gen := s.grp.gen, ix := s.sys.grpIx, step := s.sys.gstepLocal + 1 })
      { s with sys := { s.sys with gstepLocal := s.sys.gstepLocal + 1 } }) := by
  obtain ⟨none, replay, performed, behind⟩ := ready
  have free : ¬(tkc s != 0 || !s.mem.replay.isEmpty || !releaseReady .fabric s) = true := by simp [none, replay, performed]
  have near : ¬(!(s.sys.gstepLocal - s.sys.gstepStep).ult 16) = true := by
    rw [BitVec.ult, Bool.not_eq_true', decide_eq_false_iff_not, not_not]
    exact behind
  exact (if_neg free).trans (if_neg near)

theorem cstepActs_waits (waits : ¬StepReady s) : cstepActs s = .stall s := by
  by_cases free : (tkc s != 0 || !s.mem.replay.isEmpty || !releaseReady .fabric s) = true
  · exact if_pos free
  · have near : (!(s.sys.gstepLocal - s.sys.gstepStep).ult 16) = true := by
      rw [BitVec.ult, Bool.not_eq_true', decide_eq_false_iff_not]
      intro behind
      refine waits ?_
      simp only [Bool.or_eq_true, bne_iff_ne, ne_eq, Bool.not_eq_true', not_or, not_not, Bool.not_eq_false, List.isEmpty_iff] at free
      exact ⟨free.1.1, free.1.2, free.2, behind⟩
    exact (if_neg free).trans (if_pos near)

end GroupWords

/-- Settles O53. -/
theorem groupInstructions : Obligations.GroupInstructions := by
  intro s t c neg red hint ready
  refine ⟨fun place => ⟨fun alone => ⟨?_, ?_⟩, fun group known => ⟨?_, ?_⟩, fun group open_ => ⟨?_, fun first => ?_, fun waits => ?_⟩⟩,
    ⟨fun waits => ?_, fun done alone => ?_, fun done group => ?_⟩, fun alone => ?_, fun group => ?_⟩
  · exact (exec_cbr ..).trans (branch_jump ready place (if_pos alone) rfl)
  · exact (exec_cbrx ..).trans (branch_jump ready place (if_pos alone) rfl)
  · exact (exec_cbr ..).trans (branch_jump ready place ((if_neg group).trans (if_pos known)) rfl)
  · exact (exec_cbrx ..).trans (branch_jump ready place ((if_neg group).trans (if_pos known)) rfl)
  · exact (exec_cbr ..).trans (branch_jump ready place ((if_neg group).trans (if_neg (by rw [open_]; decide))) rfl)
  · exact (exec_cbrx ..).trans (branch_stall ready place
      ((if_neg group).trans ((if_neg (by rw [open_]; decide)).trans (if_neg (by rw [first]; decide)))))
  · exact (exec_cbrx ..).trans (branch_stall ready place
      ((if_neg group).trans ((if_neg (by rw [open_]; decide)).trans (if_pos (Option.isSome_iff_ne_none.mpr waits)))))
  · exact (exec_cstep s).trans (issue_stall ready (cstepActs_waits waits))
  · exact (exec_cstep s).trans (issue_done ready ((cstepActs_ready done).trans (if_pos alone)))
  · exact (exec_cstep s).trans (issue_done ready ((cstepActs_ready done).trans (if_neg group)))
  · exact (exec_gabort s).trans (issue_done ready (congrArg Res.done (if_pos alone)))
  · exact (exec_gabort s).trans (issue_done ready (congrArg Res.done (if_neg group)))

end Sys2Proof.Machine
end

section
/-! TRAP, BRK and ERET (spec/06_strand_memory_system.md R138, R140): what a return restores, and where it goes on. -/

namespace Sys2Proof.Machine

/-! ### The return (R138) -/

section Return

/-- Bounds of loops written one after another. -/
theorem foldl_set_bounds (ls : List LoopId) (elb v : Vector Bounds 4) (o : LoopId) :
    (ls.foldl (fun v (l : LoopId) => v.set l elb[l]) v)[o] = if o ∈ ls then elb[o] else v[o] := by
  induction ls generalizing v with
  | nil => rfl
  | cons l ls ih =>
    rw [List.foldl_cons, ih]
    by_cases later : o ∈ ls
    · simp [later]
    · by_cases here : o = l
      · simp [here]
      · have apart : l.val ≠ o.val := fun same => here (Fin.ext same.symm)
        simp [later, here, apart]

theorem reloadBounds_eq (x : Xstat) (s : State) : reloadBounds x s = { s with strand := { s.strand with
    bounds := (activeLoops x).foldl (fun v (l : LoopId) => v.set l s.sys.elb[l]) s.strand.bounds } } := by
  unfold reloadBounds
  generalize activeLoops x = ls
  induction ls generalizing s with
  | nil => rfl
  | cons l ls ih =>
    rw [List.foldl_cons, List.foldl_cons, ih]
    rfl

theorem retryParked_none (eret : Bool) {s : State} (none : s.mem.replay = []) : retryParked eret s = s := by
  rw [retryParked, none]
  show ({ s with mem := { s.mem with replay := [] } } : State) = s
  rw [← none]

/-- XSTAT behind a return. -/
def returnXstat (s : State) : Xstat :=
  { s.sys.exstat with
    sk := false, xp := false, xt := s.sys.exstat.xt && !s.sys.exstat.xp
    cqo := s.sys.exstat.cqo || s.strand.xstat.cqo, cqu := s.sys.exstat.cqu || s.strand.xstat.cqu }

/-- The state behind ERET's word, before a pending transfer: no store is parked. -/
def returned (s : State) : State :=
  restartQueues { s with
    strand := { s.strand with
      icount := s.strand.icount + 1, xstat := returnXstat s
      bounds := (activeLoops s.sys.exstat).foldl (fun v (l : LoopId) => v.set l s.sys.elb[l]) s.strand.bounds
      cbrSaved := none, stalled := false, asleep := false, iterEnd := false, rep := none, pend := none, pc := s.sys.epc }
    sys := { s.sys with pl := s.sys.ppl, th := false }
    grp := { s.grp with heldWait := true } }

/-- The transfer that ERET finds pending, if one is. -/
def returnedPend (s : State) : Pend := returnPend s.sys.exstat s

variable {s : State}

theorem eret_eq (none : s.mem.replay = []) : eret s =
    if s.sys.exstat.xp then
      if s.sys.exstat.sk then completeSlot (returnedPend s) (lastWordAt s s.sys.epc) (returned s)
      else { returned s with strand := { (returned s).strand with pend := some (returnedPend s) } }
    else returned s := by
  unfold eret
  dsimp only
  rw [reloadBounds_eq, retryParked_none true (by exact none)]
  rfl

theorem returnedPend_eq (saved : ∀ b, s.strand.cbrSaved = some b → b.kind = .xfer) : returnedPend s =
    { kind := if s.strand.cbrSaved = none then .xfer else .cbrKnown, taken := s.sys.exstat.xt, target := s.sys.etgt, fall := s.sys.etgt } := by
  unfold returnedPend returnPend
  dsimp only
  cases branch : s.strand.cbrSaved with
  | none => rfl
  | some b => rw [if_neg (by simp)]; simp only [saved b branch]

theorem returnedPend_kind (saved : ∀ b, s.strand.cbrSaved = some b → b.kind = .xfer) :
    (returnedPend s).kind = .xfer ∨ (returnedPend s).kind = .cbrKnown := by
  rw [returnedPend_eq saved]
  by_cases none : s.strand.cbrSaved = none
  · exact .inl (if_pos none)
  · exact .inr (if_neg none)

/-- A taken transfer leaves the loops whose body does not hold its target. -/
theorem completeSlot_returned_taken (saved : ∀ b, s.strand.cbrSaved = some b → b.kind = .xfer) (taken : s.sys.exstat.xt = true)
    (last : BitVec 32) : completeSlot (returnedPend s) last (returned s) = transferTo 2 4 s.sys.etgt (returned s) := by
  rw [completeSlot_taken (returnedPend_kind saved) (by rw [returnedPend_eq saved]; exact taken), returnedPend_eq saved]

theorem completeSlot_returned_notTaken (saved : ∀ b, s.strand.cbrSaved = some b → b.kind = .xfer) (notTaken : s.sys.exstat.xt = false)
    (last : BitVec 32) : completeSlot (returnedPend s) last (returned s) = afterWord 4 last (returned s) := by
  refine completeSlot_notTaken (fun h i isOpen => ?_) (by rw [returnedPend_eq saved]; exact notTaken)
  rcases returnedPend_kind saved with kind | kind <;> rw [kind] at isOpen <;> cases isOpen

/-- The word behind the instruction at an address. -/
theorem lastWordAt_next (s : State) (a : BitVec 32) : lastWordAt s a + 1 = a + (if postAt s a then 9 else 1) := by
  unfold lastWordAt
  split
  · rw [BitVec.add_assoc]; rfl
  · rfl

end Return

/-! ### What control behind a word leaves of the strand -/

/-- The count of instructions, the repeat and the pending transfer stand. -/
def SameCount (s t : State) : Prop := t.strand.icount = s.strand.icount ∧ t.strand.rep = s.strand.rep ∧ t.strand.pend = s.strand.pend

theorem sameCount_endLoop (how : Nat) (s : State) : SameCount s (endLoop how s) := by
  refine ⟨?_, ?_, ?_⟩ <;> rw [endLoop_strand]

theorem sameCount_loopBack (l : LoopId) (s : State) : SameCount s (loopBack l s) := by
  unfold loopBack
  dsimp only
  split <;> exact ⟨rfl, rfl, rfl⟩

theorem SameCount.trans {s t u : State} (h : SameCount s t) (k : SameCount t u) : SameCount s u :=
  ⟨k.1.trans h.1, k.2.1.trans h.2.1, k.2.2.trans h.2.2⟩

theorem sameCount_afterWord (n : Nat) (last : BitVec 32) (s : State) : SameCount s (afterWord n last s) := by
  induction n generalizing s with
  | zero => exact ⟨rfl, rfl, rfl⟩
  | succ n ih =>
    unfold afterWord
    dsimp only
    split
    · split
      · exact sameCount_loopBack _ _
      · exact (sameCount_endLoop 0 s).trans (ih _)
    · exact ⟨rfl, rfl, rfl⟩

theorem sameCount_transferTo (how n : Nat) (t : BitVec 32) (s : State) : SameCount s (transferTo how n t s) := by
  induction n generalizing s with
  | zero => exact ⟨rfl, rfl, rfl⟩
  | succ n ih =>
    unfold transferTo
    split
    · exact (sameCount_endLoop how s).trans (ih _)
    · exact ⟨rfl, rfl, rfl⟩

/-- Outside loops a transfer sets the pc. -/
theorem transferTo_outside (how n : Nat) (t : BitVec 32) {s : State} (outside : s.strand.xstat.depth = 0) :
    transferTo how n t s = withPc s t := by
  cases n with
  | zero => rfl
  | succ n => rw [transferTo, if_neg (by simp [outside])]

/-- What control behind a return leaves is what the return restored. -/
theorem eret_moves {s : State} (none : s.mem.replay = []) (saved : ∀ b, s.strand.cbrSaved = some b → b.kind = .xfer) :
    Moves (returned s) (eret s) ∧ (eret s).strand.icount = s.strand.icount + 1 ∧ (eret s).strand.rep = Option.none := by
  rw [eret_eq none]
  split
  · split
    · refine ⟨moves_of_completeSlot _ _ _, ?_⟩
      cases taken : s.sys.exstat.xt with
      | true =>
        rw [completeSlot_returned_taken saved taken]
        obtain ⟨count, rep, -⟩ := sameCount_transferTo 2 4 s.sys.etgt (returned s)
        exact ⟨count, rep⟩
      | false =>
        rw [completeSlot_returned_notTaken saved taken]
        obtain ⟨count, rep, -⟩ := sameCount_afterWord 4 (lastWordAt s s.sys.epc) (returned s)
        exact ⟨count, rep⟩
    · exact ⟨moves_of_pend _ _, rfl, rfl⟩
  · exact ⟨Moves.refl _, rfl, rfl⟩

section ReturnBehindSlot

variable {s : State} (none : s.mem.replay = []) (saved : ∀ b, s.strand.cbrSaved = some b → b.kind = .xfer)
  (pending : s.sys.exstat.xp = true) (behind : s.sys.exstat.sk = true)
include none saved pending behind

theorem eret_taken (taken : s.sys.exstat.xt = true) : eret s = transferTo 2 4 s.sys.etgt (returned s) := by
  rw [eret_eq none, if_pos pending, if_pos behind, completeSlot_returned_taken saved taken]

theorem eret_notTaken (notTaken : s.sys.exstat.xt = false) : eret s = afterWord 4 (lastWordAt s s.sys.epc) (returned s) := by
  rw [eret_eq none, if_pos pending, if_pos behind, completeSlot_returned_notTaken saved notTaken]

theorem eret_outside (outside : s.sys.exstat.depth = 0) :
    eret s = withPc (returned s) (if s.sys.exstat.xt then s.sys.etgt else s.sys.epc + (if postAt s s.sys.epc then 9 else 1)) := by
  cases taken : s.sys.exstat.xt with
  | true => exact (eret_taken none saved pending behind taken).trans (transferTo_outside 2 4 _ outside)
  | false =>
    rw [eret_notTaken none saved pending behind taken, afterWord_outside (.inl outside), lastWordAt_next]
    rfl

theorem eret_pend : (eret s).strand.pend = Option.none := by
  cases taken : s.sys.exstat.xt with
  | true =>
    rw [eret_taken none saved pending behind taken]
    obtain ⟨-, -, pend⟩ := sameCount_transferTo 2 4 s.sys.etgt (returned s)
    exact pend
  | false =>
    rw [eret_notTaken none saved pending behind taken]
    obtain ⟨-, -, pend⟩ := sameCount_afterWord 4 (lastWordAt s s.sys.epc) (returned s)
    exact pend

end ReturnBehindSlot

/-- The bounds that ERET brings back (R134). -/
theorem getBounds_returned (s : State) (o : LoopId) :
    getBounds (returned s) o = if o ∈ activeLoops s.sys.exstat then s.sys.elb[o] else getBounds s o :=
  foldl_set_bounds (activeLoops s.sys.exstat) s.sys.elb s.strand.bounds o

theorem viewWaits_brk (tag : BitVec 32) (s : State) :
    viewWaits { cause := .brk, info := tag } s = (viewOn s && s.prof.busy && !s.sys.th) := by
  simp [viewWaits]

/-- Where no loop can end, a return leaves the store, the loop registers and XSTAT as it restored them. -/
theorem eret_noLoopEnds {s : State} (none : s.mem.replay = []) (saved : ∀ b, s.strand.cbrSaved = some b → b.kind = .xfer)
    (outside : s.sys.exstat.depth = 0 ∨ s.sys.exstat.xp = false ∨ s.sys.exstat.sk = false) :
    (eret s).store = s.store ∧ (eret s).strand.lc = s.strand.lc ∧ (eret s).strand.xstat = returnXstat s := by
  cases pending : s.sys.exstat.xp with
  | false =>
    rw [eret_eq none, if_neg (by simpa using pending)]
    exact ⟨rfl, rfl, rfl⟩
  | true =>
    cases behind : s.sys.exstat.sk with
    | false =>
      rw [eret_eq none, if_pos pending, if_neg (by simpa using behind)]
      exact ⟨rfl, rfl, rfl⟩
    | true =>
      rw [eret_outside none saved pending behind (by simpa [pending, behind] using outside)]
      exact ⟨rfl, rfl, rfl⟩

theorem dropWhile_congr_mem {α : Type} {p q : α → Bool} {l : List α} (same : ∀ x ∈ l, p x = q x) : l.dropWhile p = l.dropWhile q := by
  induction l with
  | nil => rfl
  | cons x l ih =>
    rw [List.dropWhile_cons, List.dropWhile_cons, same x List.mem_cons_self, ih fun y hy => same y (List.mem_cons_of_mem x hy)]

/-- The loops that the target of a returning transfer leaves, by the bounds that came from ELB0 to ELB3. -/
theorem dropWhile_returned (s : State) (t : BitVec 32) :
    (activeLoops s.sys.exstat).dropWhile (fun o => !inBody (getBounds (returned s) o) t) =
      (activeLoops s.sys.exstat).dropWhile (fun o => !inBody s.sys.elb[o] t) :=
  dropWhile_congr_mem fun o active => by rw [getBounds_returned, if_pos active]

/-- Settles O48. -/
theorem trapsAndReturn : Obligations.TrapsAndReturn := by
  intro s code ready free
  have brk : exec (.brk code) s = issue [] true 1 (fun _ => .trap { cause := .brk, info := code.setWidth 32 }) s := rfl
  refine ⟨exec_trapsWith (f := fun _ => .trap { cause := .trap, info := code.setWidth 32 }) rfl ready nofun nofun rfl rfl free, fun notWaits => ?_,
    fun busy view notTh => ?_, fun level idle none noAsync saved => ?_⟩
  · have waits : viewWaits { cause := .brk, info := code.setWidth 32 } s = false := by
      rw [viewWaits_brk]
      rcases notWaits with h | h | h <;> simp [h]
    rw [brk, issue_trap ready free waits rfl, consumedBy_alone (t := { cause := .brk, info := code.setWidth 32 }) nofun rfl]
  · have waits : viewWaits { cause := .brk, info := code.setWidth 32 } s = true := by
      rw [viewWaits_brk, view, busy, notTh]
      rfl
    rw [brk, issue_ready 1 _ ready]
    simp only [finish, waits, Bool.or_true, if_true]
  · intro x next l
    have issued : exec .eret s = .next (eret s) := by
      have arm : exec .eret s = issue [] true 1 (privileged (fun s => .jump (eret s))) s := rfl
      rw [arm, issue_jump ready (u := eret s) (if_pos level), snapGuard_idle _ idle]
    obtain ⟨moves, count, rep⟩ := eret_moves none saved
    have pl : (eret s).sys.pl = s.sys.ppl := congrArg SysRegs.pl moves.sys
    have th : (eret s).sys.th = false := congrArg SysRegs.th moves.sys
    have thatch : (eret s).thatch = (restartQueues s).thatch := moves.thatch
    have stopped : (eret s).thatch.stopped = false := by rw [thatch, restartQueues, noAsync]; rfl
    have wire : (eret s).thatch.wire = 0 := by rw [thatch, restartQueues, noAsync]; rfl
    have heldWait : (eret s).grp.heldWait = true := congrArg Group.heldWait moves.grp
    have bounds (o : LoopId) : getBounds (eret s) o = if o ∈ activeLoops x then s.sys.elb[o] else getBounds s o := by
      rw [← getBounds_returned s o, getBounds, moves.bounds]
      rfl
    refine ⟨eret s, issued, pl, th, moves.g, moves.c, stopped, wire, heldWait, rep, count, bounds, fun outside => ?_, fun notPending => ?_,
      fun pending before => ?_, fun pending behind => eret_pend none saved pending behind, fun pending behind outside => ?_,
      fun pending behind taken deep => ?_, fun pending behind notTaken active => ?_⟩
    · exact eret_noLoopEnds none saved outside
    · rw [eret_eq none, if_neg (by simpa using notPending)]
      exact ⟨rfl, rfl⟩
    · rw [eret_eq none, if_pos pending, if_neg (by simpa using before)]
      exact ⟨rfl, congrArg some (returnedPend_eq saved)⟩
    · rw [eret_outside none saved pending behind outside]
      rfl
    · rw [eret_taken none saved pending behind taken]
      obtain ⟨pc, -, lc, active⟩ := transferTo_spec 2 4 s.sys.etgt (returned s) deep
      exact ⟨pc, lc, active.trans (dropWhile_returned s s.sys.etgt)⟩
    · have last : lastWordAt s s.sys.epc + 1 = next := lastWordAt_next s s.sys.epc
      have before : next - 1 = lastWordAt s s.sys.epc := by rw [← last]; exact BitVec.add_sub_cancel _ _
      have inner : getBounds (returned s) l = s.sys.elb[l] := by
        rw [getBounds_returned, if_pos (by rw [activeLoops_cons active]; exact List.mem_cons_self)]
      rw [eret_notTaken none saved pending behind notTaken, before]
      refine ⟨fun outside => ?_, fun atLast more => ?_, fun atLast done alone => ?_⟩
      · rw [afterWord_outside (.inr (by rwa [← inner] at outside))]
        exact ⟨last, rfl, rfl⟩
      · have atEnd : (getBounds (returned s) (innermost (returned s).strand.xstat)).last = lastWordAt s s.sys.epc := by
          rw [← atLast, ← inner]; rfl
        rw [afterWord_more (n := 3) active atEnd more]
        exact ⟨(loopBack_pc _ _).trans (congrArg Bounds.first inner), loopBack_depth _ _, getLc_loopBack_same _ _⟩
      · have atEnd : (getBounds (returned s) (innermost (returned s).strand.xstat)).last = lastWordAt s s.sys.epc := by
          rw [← atLast, ← inner]; rfl
        have left : (endLoop 0 (returned s)).strand.xstat.depth = 0 := by
          rw [endLoop_strand]
          show (afterLoop (returned s).strand.xstat).depth = 0
          rw [afterLoop_depth]
          show x.depth - 1 = 0
          rw [alone]
          rfl
        rw [afterWord_over (n := 3) active atEnd done, afterWord_outside (.inl left)]
        refine ⟨last, left, ?_⟩
        show (endLoop 0 (returned s)).strand.lc = s.strand.lc
        rw [endLoop_strand]
        rfl

end Sys2Proof.Machine
end

section
/-! The trace ring (spec/13_cluster.md R279 to R284): what a record writes, the matrix of a snapshot, and the debug view. -/

namespace Sys2Proof.Machine

/-! ### Units of the ring (R281) -/

/-- The offset of the k-th unit that the trace of `s` writes next. -/
def unitOff (s : State) (k : Nat) : Nat := ringOff s + (s.prof.unitNo + k) % ringLen s * 64

/-- From `s` to `t` the bytes stand in the next n units, and the trace has counted them. -/
structure UnitsWritten (s t : State) (n : Nat) (bs : List Byte) : Prop where
  wf : memWf t.store.spad
  inside : ∀ j (below : j < bs.length), byteAt t.store.spad (unitOff s (j / 64) + j % 64) = bs[j]
  outside : ∀ a, (∀ k < n, a < unitOff s k ∨ unitOff s k + 64 ≤ a) → byteAt t.store.spad a = byteAt s.store.spad a
  prof : t.prof = { s.prof with unitNo := s.prof.unitNo + n }

/-- Two of the units that a record writes do not meet. -/
theorem units_apart {s : State} {k m : Nat} (less : k < m) (few : m < k + ringLen s) :
    unitOff s k + 64 ≤ unitOff s m ∨ unitOff s m + 64 ≤ unitOff s k := by
  have differ : (s.prof.unitNo + k) % ringLen s ≠ (s.prof.unitNo + m) % ringLen s := by
    intro same
    have divides := Nat.sub_mod_eq_zero_of_mod_eq same.symm
    rw [Nat.mod_eq_of_lt (by omega)] at divides
    omega
  unfold unitOff
  omega

section Units

variable {s : State} (fits : RingFits s)
include fits

theorem traceUnit_eq (bs : List Byte) : traceUnit bs s =
    { putSpad s (unitOff s 0) (bs.take 64) with prof := { s.prof with unitNo := s.prof.unitNo + 1 } } := by
  obtain ⟨-, long, -⟩ := fits
  have len : max 1 (bitsOf s.sys.traceb.toNat 32 16) = ringLen s := Nat.max_eq_right ((by decide : 1 ≤ 256).trans long)
  unfold traceUnit
  rw [len]
  rfl

theorem unitOff_inside (k : Nat) : unitOff s k + 64 ≤ 0x600000 := by
  obtain ⟨-, long, inside⟩ := fits
  have : (s.prof.unitNo + k) % ringLen s < ringLen s := Nat.mod_lt _ (by omega)
  unfold unitOff
  omega

end Units

theorem unitOff_traceUnit {s : State} (fits : RingFits s) (bs : List Byte) (k : Nat) :
    unitOff (traceUnit bs s) k = unitOff s (k + 1) := by
  rw [traceUnit_eq fits]
  show ringOff s + (s.prof.unitNo + 1 + k) % ringLen s * 64 = ringOff s + (s.prof.unitNo + (k + 1)) % ringLen s * 64
  rw [Nat.add_assoc, Nat.add_comm 1 k]

theorem ringFits_traceUnit {s : State} (fits : RingFits s) (bs : List Byte) : RingFits (traceUnit bs s) := by
  rw [traceUnit_eq fits]
  obtain ⟨wf, long, inside⟩ := fits
  exact ⟨putSpad_wf s _ _ wf, long, inside⟩

theorem ringLen_traceUnit (bs : List Byte) (s : State) : ringLen (traceUnit bs s) = ringLen s := rfl

/-- Only the first 64 bytes stand in the unit. -/
theorem traceUnit_append {h body : List Byte} (len : h.length = 64) {s : State} : traceUnit (h ++ body) s = traceUnit h s := by
  unfold traceUnit
  rw [List.take_left' len, List.take_of_length_le len.le]

/-- Units written one after another. -/
theorem unitsWritten {s : State} {n : Nat} {bs : List Byte} (fits : RingFits s) (len : bs.length = 64 * n) (few : n ≤ ringLen s) :
    UnitsWritten s (traceUnits n bs s) n bs := by
  induction n generalizing s bs with
  | zero =>
    have none : bs = [] := List.eq_nil_of_length_eq_zero len
    subst none
    exact ⟨fits.1, nofun, fun _ _ => rfl, rfl⟩
  | succ n ih =>
    have fits' := ringFits_traceUnit fits bs
    obtain ⟨wf, inside, outside, prof⟩ :=
      ih (s := traceUnit bs s) (bs := bs.drop 64) fits' (by rw [List.length_drop]; omega) (by rw [ringLen_traceUnit]; omega)
    simp only [unitOff_traceUnit fits] at inside outside
    have first : (traceUnit bs s).store.spad = (putSpad s (unitOff s 0) (bs.take 64)).store.spad := by rw [traceUnit_eq fits]
    have firstLen : (bs.take 64).length = 64 := by rw [List.length_take]; omega
    refine ⟨wf, fun j below => ?_, fun a apart => ?_, ?_⟩
    · show byteAt (traceUnits n (bs.drop 64) (traceUnit bs s)).store.spad _ = _
      rcases Nat.lt_or_ge j 64 with here | later
      · have unit : j / 64 = 0 := by omega
        have place : j % 64 = j := by omega
        rw [unit, place, outside _ fun k inN => ?_, first,
          byteAt_putSpad_in (by rw [firstLen]; exact unitOff_inside fits 0) fits.1 (by omega)]
        · simp
        · rcases units_apart (s := s) (k := 0) (m := k + 1) (by omega) (by omega) with h | h <;> omega
      · have bytes := inside (j - 64) (by rw [List.length_drop]; omega)
        have unit : (j - 64) / 64 + 1 = j / 64 := by omega
        have place : (j - 64) % 64 = j % 64 := by omega
        rw [unit, place, List.getElem_drop] at bytes
        rw [bytes]
        congr 1
        omega
    · show byteAt (traceUnits n (bs.drop 64) (traceUnit bs s)).store.spad a = _
      rw [outside a fun k inN => apart (k + 1) (by omega), first]
      exact putSpad_out s _ _ fits.1 (by rw [firstLen]; exact apart 0 (by omega))
    · show (traceUnits n (bs.drop 64) (traceUnit bs s)).prof = _
      rw [prof, traceUnit_eq fits]
      show ({ s.prof with unitNo := s.prof.unitNo + 1 + n } : Profile) = _
      rw [Nat.add_assoc, Nat.add_comm 1 n]

/-! ### Records (R282) -/

theorem bytesAt_eq {m : List Host.Cell} {a n : Nat} {bs : List Byte} (len : bs.length = n)
    (bytes : ∀ i (below : i < bs.length), byteAt m (a + i) = bs[i]) : bytesAt m a n = bs := by
  induction bs generalizing a n with
  | nil =>
    subst len
    rfl
  | cons b bs ih =>
    subst len
    have first := bytes 0 (by simp)
    rw [List.length_cons, bytesAt, ih rfl fun i below => ?_]
    · simpa using first
    · have next := bytes (i + 1) (by simpa using below)
      rw [Nat.add_assoc, Nat.add_comm 1 i, next]
      rfl

/-- The doublewords of a header. -/
def dwBytes (header : List Nat) : List Byte := header.flatMap (leBytes 8)

theorem length_dwBytes (header : List Nat) : (dwBytes header).length = 8 * header.length := by
  induction header with
  | nil => rfl
  | cons h header ih =>
    rw [dwBytes, List.flatMap_cons, List.length_append, leBytes_length, List.length_cons]
    rw [dwBytes] at ih
    omega

theorem dwBytes_get {header : List Nat} {k i : Nat} (inside : k < header.length) (below : i < 8) :
    (dwBytes header)[8 * k + i]? = (leBytes 8 header[k])[i]? := by
  induction header generalizing k with
  | nil => simp at inside
  | cons h header ih =>
    rw [dwBytes, List.flatMap_cons]
    cases k with
    | zero =>
      rw [List.getElem?_append_left (by rw [leBytes_length]; omega)]
      simp
    | succ k =>
      rw [List.getElem?_append_right (by rw [leBytes_length]; omega), leBytes_length]
      have shift : 8 * (k + 1) + i - 8 = 8 * k + i := by omega
      rw [shift]
      exact ih (by simpa using inside)

/-- The doubleword `k` of the header stands in the unit of the header. -/
theorem readLe_header {m : List Host.Cell} {a : Nat} {header : List Nat}
    (bytes : ∀ j (below : j < (dwBytes header).length), byteAt m (a + j) = (dwBytes header)[j]) {k : Nat} (inside : k < header.length) :
    readLe m (a + 8 * k) 8 = header[k] % 2 ^ 64 := by
  have read : bytesAt m (a + 8 * k) 8 = leBytes 8 header[k] := by
    refine bytesAt_eq (leBytes_length _ _) fun i below => ?_
    rw [leBytes_length] at below
    have short : 8 * k + i < (dwBytes header).length := by rw [length_dwBytes]; omega
    have same := dwBytes_get inside below
    rw [List.getElem?_eq_getElem short, List.getElem?_eq_getElem (by rw [leBytes_length]; exact below)] at same
    rw [Nat.add_assoc, bytes _ short]
    exact Option.some.inj same
  unfold readLe
  rw [read, leNat_leBytes, show 256 ^ 8 = 2 ^ 64 from rfl]

/-- A record's header and body stand in the next units of the ring. -/
theorem ringHolds_traceRecord {s : State} {kind tag dw3 dw4 dw5 dw6 n : Nat} {body : List Byte} (fits : RingFits s)
    (len : body.length = 64 * n) (few : n < ringLen s) :
    RingHolds s (traceRecord kind tag dw3 dw4 dw5 dw6 n body s)
      [s.prof.recNo.toNat + 2 ^ 32 * (n % 2 ^ 16) + 2 ^ 48 * tag + 2 ^ 56 * kind, s.pkg.time.toNat, s.strand.icount.toNat, dw3, dw4, dw5,
        dw6, 0] body := by
  generalize isHeader : [s.prof.recNo.toNat + 2 ^ 32 * (n % 2 ^ 16) + 2 ^ 48 * tag + 2 ^ 56 * kind, s.pkg.time.toNat,
    s.strand.icount.toNat, dw3, dw4, dw5, dw6, 0] = header
  have eight : header.length = 8 := by rw [← isHeader]; rfl
  have sixtyFour : (dwBytes header).length = 64 := by rw [length_dwBytes, eight]
  have record : traceRecord kind tag dw3 dw4 dw5 dw6 n body s =
      { traceUnits (n + 1) (dwBytes header ++ body) s with
        prof := { (traceUnits (n + 1) (dwBytes header ++ body) s).prof with recNo := s.prof.recNo + 1 } } := by
    rw [traceUnits, List.drop_left' sixtyFour, traceUnit_append sixtyFour, ← isHeader]
    unfold traceRecord dwBytes
    simp only [List.flatMap_cons, List.flatMap_nil, List.append_nil, List.append_assoc]
  obtain ⟨-, inside, outside, prof⟩ :=
    unitsWritten (n := n + 1) (bs := dwBytes header ++ body) fits (by rw [List.length_append, sixtyFour, len]; omega) few
  rw [record]
  have units : body.length / 64 = n := by omega
  refine ⟨fun k below => ?_, fun j below => ?_, fun a apart => ?_, ?_, rfl⟩
  · have inHeader : k < header.length := by omega
    rw [List.getD_eq_getElem?_getD, List.getElem?_eq_getElem inHeader]
    refine readLe_header (fun j short => ?_) inHeader
    have byte := inside j (by rw [List.length_append]; omega)
    have unit : j / 64 = 0 := by omega
    have place : j % 64 = j := by omega
    rw [unit, place, List.getElem_append_left short] at byte
    exact byte
  · have byte := inside (64 + j) (by rw [List.length_append]; omega)
    have unit : (64 + j) / 64 = 1 + j / 64 := by omega
    have place : (64 + j) % 64 = j % 64 := by omega
    rw [unit, place, List.getElem_append_right (by omega)] at byte
    rw [List.getD_eq_getElem?_getD, List.getElem?_eq_getElem below]
    exact byte.trans (by simp [sixtyFour])
  · rw [units] at apart
    exact outside a fun k inN => apart k (by omega)
  · show (traceUnits (n + 1) (dwBytes header ++ body) s).prof.unitNo = _
    rw [prof, units]
    show s.prof.unitNo + (n + 1) = _
    omega

/-! ### The matrix of a snapshot (R279) -/

/-- A write that does not lower a count lowers no count, in whatever order the table stands. -/
theorem tget_le_tset {w : Nat} {v : BitVec w} (m : Table (BitVec w)) {j : Nat} (raised : (tget 0 m j).toNat ≤ v.toNat) (i : Nat) :
    (tget 0 m i).toNat ≤ (tget 0 (tset 0 m j v) i).toNat := by
  induction m with
  | nil => exact (by rw [tget]; exact Nat.zero_le _)
  | cons x t ih =>
    obtain ⟨key, old⟩ := x
    rcases Nat.lt_trichotomy i key with below | rfl | above
    · rw [tget_cons_lt _ _ _ below]
      exact Nat.zero_le _
    · rcases Nat.lt_trichotomy i j with less | rfl | more
      · rw [tset, if_neg (by omega : ¬j < i), if_neg (by omega : ¬j = i), tget_cons_self, tget_cons_self]
      · rw [tget_cons_self] at raised ⊢
        rw [tset, if_neg (by simp), if_pos rfl]
        split
        · next zero =>
          rw [zero] at raised
          exact raised.trans (Nat.zero_le _)
        · rwa [tget_cons_self]
      · rw [tset, if_pos more]
        split
        · exact Nat.le_refl _
        · rw [tget_cons_gt _ _ _ more]
    · rcases Nat.lt_trichotomy key j with less | rfl | more
      · rw [tget_cons_gt _ _ _ less] at raised
        rw [tset, if_neg (by omega : ¬j < key), if_neg (by omega : ¬j = key), tget_cons_gt _ _ _ above, tget_cons_gt _ _ _ above]
        exact ih raised
      · rw [tset, if_neg (by simp), if_pos rfl, tget_cons_gt _ _ _ above]
        split
        · exact Nat.le_refl _
        · rw [tget_cons_gt _ _ _ above]
      · rw [tset, if_pos more]
        split
        · exact Nat.le_refl _
        · rcases Nat.lt_trichotomy i j with less | rfl | greater
          · omega
          · rw [tget_cons_self]; exact raised
          · rw [tget_cons_gt _ _ _ greater]

/-- The counts of a matrix only rise. -/
theorem tget_le_countConflicts (s : State) (i : Nat) :
    (tget 0 s.prof.conflicts i).toNat ≤ (tget 0 (countConflicts s).prof.conflicts i).toNat := by
  unfold countConflicts
  dsimp only
  generalize List.range 640 = is
  generalize s.prof.conflicts = m
  induction is generalizing m with
  | nil => exact Nat.le_refl _
  | cons j is ih =>
    refine Nat.le_trans (tget_le_tset m (j := j) ?_ i) (ih _)
    have bound := (tget 0 m j).isLt
    rw [BitVec.toNat_ofNat, Nat.mod_eq_of_lt (by omega)]
    omega

/-- Only the matrix of conflicts and the number of free values change. -/
theorem countConflicts_eq (s : State) : countConflicts s = { s with
    freeCount := s.freeCount + 1, prof := { s.prof with conflicts := (countConflicts s).prof.conflicts } } := by
  unfold countConflicts
  generalize (List.range 640).foldl _ _ = m
  rfl

/-- The counts of a matrix, listed. -/
def counts (m : Table (BitVec 24)) : List Nat := (List.range 640).map fun i => (tget 0 m i).toNat

theorem snapBody_eq (m : Table (BitVec 24)) : snapBody m = (counts m).flatMap (leBytes 3) := by
  rw [snapBody, counts, List.flatMap_map]

theorem counted_countConflicts (s : State) : Counted s (counts (countConflicts s).prof.conflicts) := by
  refine ⟨by rw [counts, List.length_map, List.length_range], fun i below => ?_⟩
  have entry : (counts (countConflicts s).prof.conflicts).getD i 0 = (tget 0 (countConflicts s).prof.conflicts i).toNat := by
    rw [List.getD_eq_getElem?_getD, counts, List.getElem?_map, List.getElem?_range below]
    rfl
  rw [entry]
  exact ⟨tget_le_countConflicts s i, BitVec.isLt _⟩

theorem length_flatMap_const {α β : Type} {f : α → List β} {n : Nat} (len : ∀ x, (f x).length = n) (xs : List α) :
    (xs.flatMap f).length = n * xs.length := by
  rw [List.length_flatMap, List.map_congr_left (g := fun _ => n) fun x _ => len x, List.map_const', List.sum_replicate, smul_eq_mul,
    Nat.mul_comm]

theorem length_snapBody (m : Table (BitVec 24)) : (snapBody m).length = 64 * 30 := by
  rw [snapBody_eq, length_flatMap_const (leBytes_length 3), counts, List.length_map, List.length_range]

/-- The record of a snapshot. -/
theorem snapWritten_writeSnap {s : State} (r : SnapReq) (fits : RingFits s) : SnapWritten s (writeSnap r s) r.kind r.tag r.dw3 r.dw4 := by
  refine ⟨rfl, rfl, _, counted_countConflicts s, ?_⟩
  have few : 30 < ringLen s := by
    have long : 256 ≤ ringLen s := fits.2.1
    omega
  unfold writeSnap
  rw [← snapBody_eq, countConflicts_eq]
  generalize (countConflicts s).prof.conflicts = m
  exact ringHolds_traceRecord (s := { s with freeCount := s.freeCount + 1, prof := { s.prof with conflicts := m } }) (kind := r.kind)
    (tag := r.tag) (dw3 := r.dw3) (dw4 := r.dw4) (dw5 := 0) (dw6 := 0) fits (length_snapBody m) few

theorem snapWritten_traceSnap {s : State} {kind tag dw3 dw4 : Nat} (fits : RingFits s) (idle : s.prof.busy = false) :
    SnapWritten s (traceSnap kind tag dw3 dw4 s) kind tag dw3 dw4 := by
  unfold traceSnap
  dsimp only
  rw [if_neg (by rw [idle]; nofun)]
  exact snapWritten_writeSnap (s := { s with prof := { s.prof with snaps := s.prof.snaps + 1 } })
    { kind := kind, tag := tag, dw3 := dw3, dw4 := dw4 } fits

theorem traceSnap_queued {s : State} {kind tag dw3 dw4 : Nat} (busy : s.prof.busy = true) :
    traceSnap kind tag dw3 dw4 s = { s with
      prof := { s.prof with
        snaps := s.prof.snaps + 1, queued := s.prof.queued ++ [{ kind := kind, tag := tag, dw3 := dw3, dw4 := dw4 }] } } := by
  unfold traceSnap
  exact if_pos busy

end Sys2Proof.Machine
end

section
/-! Trap entry (spec/06_strand_memory_system.md R137; the cut record, spec/07_core.md R174) and the debug view (spec/13_cluster.md R284). -/

namespace Sys2Proof.Machine

/-! ### Entries in post-sequence order, and the semaphores that they name -/

theorem insertSeq_perm (e : Entry) (es : List Entry) : (insertSeq e es).Perm (e :: es) := by
  induction es with
  | nil => exact .refl _
  | cons x es ih =>
    unfold insertSeq
    split
    · exact .refl _
    · exact (List.Perm.cons x ih).trans (.swap e x es)

theorem insertSeq_sorted (e : Entry) {es : List Entry} (sorted : es.Pairwise (fun x y => x.seq ≤ y.seq)) :
    (insertSeq e es).Pairwise (fun x y => x.seq ≤ y.seq) := by
  induction es with
  | nil => exact List.pairwise_singleton _ _
  | cons x es ih =>
    obtain ⟨first, rest⟩ := List.pairwise_cons.mp sorted
    unfold insertSeq
    split
    · next less =>
      refine List.pairwise_cons.mpr ⟨fun y member => ?_, sorted⟩
      rcases List.mem_cons.mp member with rfl | later
      · exact less.le
      · exact less.le.trans (first y later)
    · next notLess =>
      refine List.pairwise_cons.mpr ⟨fun y member => ?_, ih rest⟩
      rcases List.mem_cons.mp ((insertSeq_perm e es).mem_iff.mp member) with rfl | later
      · exact Nat.le_of_not_lt notLess
      · exact first y later

theorem bySeq_perm (es : List Entry) : (bySeq es).Perm es := by
  induction es with
  | nil => exact .refl _
  | cons e es ih => exact (insertSeq_perm e _).trans (.cons e ih)

theorem bySeq_sorted (es : List Entry) : (bySeq es).Pairwise (fun x y => x.seq ≤ y.seq) := by
  induction es with
  | nil => exact .nil
  | cons e es ih => exact insertSeq_sorted e ih

theorem mem_sinsert (a x : Nat) (l : List Nat) : x ∈ sinsert a l ↔ x = a ∨ x ∈ l := by
  induction l with
  | nil => simp [sinsert]
  | cons b l ih =>
    unfold sinsert
    split
    · simp
    · split
      · next same =>
        subst same
        simp
      · rw [List.mem_cons, List.mem_cons, ih]
        exact or_left_comm

theorem sinsert_sorted (a : Nat) {l : List Nat} (sorted : l.Pairwise (· < ·)) : (sinsert a l).Pairwise (· < ·) := by
  induction l with
  | nil => exact List.pairwise_singleton _ _
  | cons b l ih =>
    obtain ⟨first, rest⟩ := List.pairwise_cons.mp sorted
    unfold sinsert
    split
    · next less =>
      refine List.pairwise_cons.mpr ⟨fun y member => ?_, sorted⟩
      rcases List.mem_cons.mp member with rfl | later
      · exact less
      · exact less.trans (first y later)
    · split
      · exact sorted
      · refine List.pairwise_cons.mpr ⟨fun y member => ?_, ih rest⟩
        rcases (mem_sinsert a y l).mp member with rfl | later
        · omega
        · exact first y later

theorem length_sinsert_le (a : Nat) (l : List Nat) : (sinsert a l).length ≤ l.length + 1 := by
  induction l with
  | nil => exact Nat.le_refl _
  | cons b l ih =>
    unfold sinsert
    split
    · exact Nat.le_refl _
    · split
      · exact Nat.le_succ _
      · exact Nat.succ_le_succ ih

/-- The semaphores that an entry names join those of the entries before it. -/
def joinSems (acc : List Nat) (e : Entry) : List Nat :=
  let acc := if recWv e.record then sinsert (recWsem e.record) acc else acc
  if recSigv e.record then sinsert (recSigsem e.record) acc else acc

/-- An entry's record waits for semaphore `n`, or signals it. -/
def NamesSem (e : Entry) (n : Nat) : Prop :=
  (recWv e.record = true ∧ recWsem e.record = n) ∨ (recSigv e.record = true ∧ recSigsem e.record = n)

theorem viewSems_eq (es : List Entry) : viewSems es = es.foldl joinSems [] := rfl

theorem joinSems_sorted (e : Entry) {acc : List Nat} (sorted : acc.Pairwise (· < ·)) : (joinSems acc e).Pairwise (· < ·) := by
  have first : (if recWv e.record = true then sinsert (recWsem e.record) acc else acc).Pairwise (· < ·) := by
    split
    · exact sinsert_sorted _ sorted
    · exact sorted
  unfold joinSems
  dsimp only
  split
  · exact sinsert_sorted _ first
  · exact first

theorem mem_joinSems (acc : List Nat) (e : Entry) (n : Nat) : n ∈ joinSems acc e ↔ n ∈ acc ∨ NamesSem e n := by
  unfold joinSems NamesSem
  cases recWv e.record <;> cases recSigv e.record <;> simp [mem_sinsert, eq_comm] <;> tauto

theorem length_joinSems_le (acc : List Nat) (e : Entry) : (joinSems acc e).length ≤ acc.length + 2 := by
  have first : (if recWv e.record = true then sinsert (recWsem e.record) acc else acc).length ≤ acc.length + 1 := by
    split
    · exact length_sinsert_le _ _
    · exact Nat.le_succ _
  unfold joinSems
  dsimp only
  split
  · exact (length_sinsert_le _ _).trans (Nat.succ_le_succ first)
  · exact first.trans (Nat.le_succ _)

theorem foldl_joinSems (es : List Entry) (acc : List Nat) (sorted : acc.Pairwise (· < ·)) :
    (es.foldl joinSems acc).Pairwise (· < ·) ∧ (es.foldl joinSems acc).length ≤ acc.length + 2 * es.length ∧
      ∀ n, n ∈ es.foldl joinSems acc ↔ n ∈ acc ∨ ∃ e ∈ es, NamesSem e n := by
  induction es generalizing acc with
  | nil => exact ⟨sorted, Nat.le_refl _, fun n => by simp⟩
  | cons e es ih =>
    obtain ⟨rising, few, members⟩ := ih (joinSems acc e) (joinSems_sorted e sorted)
    refine ⟨rising, ?_, fun n => ?_⟩
    · have := length_joinSems_le acc e
      rw [List.length_cons]
      exact few.trans (by omega)
    · rw [List.foldl_cons, members n, mem_joinSems, or_assoc]
      simp only [List.mem_cons, exists_eq_or_imp]

/-! ### The bytes of the debug view -/

/-- Bytes of a number whose low bytes are another's. -/
theorem leBytes_split (m n x y : Nat) (small : x < 256 ^ m) : leBytes (m + n) (x + 256 ^ m * y) = leBytes m x ++ leBytes n y := by
  induction m generalizing x with
  | zero =>
    have : x = 0 := by simpa using small
    subst this
    simp [leBytes]
  | succ m ih =>
    rw [Nat.add_right_comm, leBytes, leBytes, List.cons_append]
    have power : 256 ^ (m + 1) * y = 256 * (256 ^ m * y) := by ring
    rw [power]
    congr 1
    · apply BitVec.eq_of_toNat_eq
      rw [BitVec.toNat_ofNat, BitVec.toNat_ofNat]
      omega
    · have quotient : (x + 256 * (256 ^ m * y)) / 256 = x / 256 + 256 ^ m * y := by omega
      rw [quotient]
      exact ih _ (by rw [Nat.pow_succ] at small; omega)

theorem leBytes_zero_take {k n : Nat} (le : k ≤ n) : (leBytes n 0).take k = leBytes k 0 := by
  have zeros : ∀ n, leBytes n 0 = List.replicate n 0 := fun n => by
    induction n with
    | zero => rfl
    | succ n ih => rw [leBytes, Nat.zero_div, ih]; rfl
  rw [zeros, zeros, List.take_replicate, Nat.min_eq_left le]

theorem length_dimsBytes (d : Dims) : (dimsBytes d).length = 8 := by
  simp [dimsBytes, leBytes_length]

theorem length_boxImage (buf : Bool) (b : Option RBox) : (boxImage buf b).length = 20 := by
  unfold boxImage
  split
  · exact leBytes_length _ _
  · split <;> simp [leBytes_length, length_dimsBytes]

theorem length_entryImage (e : Entry) : (entryImage e).length = 128 := by
  simp [entryImage, leBytes_length, length_boxImage]

/-- The records that signal semaphore `n`. -/
def signals (n : Nat) (e : Entry) : Bool := recSigv e.record && recSigsem e.record == n

/-- A semaphore of the debug view: its number, its value, and the adds that are to come. -/
theorem viewSem_eq {s : State} {es : List Entry} {n : Nat} (perm : es.Perm s.thatch.entries) (small : n < 2 ^ 32) :
    viewSem s n = leBytes 4 n ++ leBytes 4 (getSem s n).toNat ++
      leBytes 4 (((es.filter (signals n)).map (fun e : Entry => recSigadd e.record)).sum % 2 ^ 32).toNat ++
      leBytes 4 (es.filter (signals n)).length := by
  have same := perm.filter (signals n)
  have sum := (same.map fun e : Entry => recSigadd e.record).sum_eq
  have low : (((es.filter (signals n)).map (fun e : Entry => recSigadd e.record)).sum % 2 ^ 32).toNat < 256 ^ 4 := by
    omega
  rw [sum] at low ⊢
  rw [same.length_eq, List.append_assoc, ← leBytes_split 4 4 _ _ small, ← leBytes_split 4 4 _ _ low]
  unfold viewSem unsignedOf
  dsimp only
  rw [List.length_map]
  rfl

/-- Doubleword 3 of a header names an active loop. -/
theorem loopDw_eq (s : State) (l : LoopId) (depth : Nat) : loopDw s (some l) depth = namedLoop s l depth := by
  unfold loopDw namedLoop isPipe getLc
  dsimp only
  by_cases piped : s.strand.xstat.pipe = true ∧ s.strand.xstat.pid.toNat = l.val
  · have flag : (s.strand.xstat.pipe && s.strand.xstat.pid.toNat == l.val) = true := by
      rw [piped.1, piped.2]
      exact beq_self_eq_true _
    rw [if_pos piped, flag, if_pos rfl]
    show _ + 2 ^ 18 * 1 + _ + _ + _ = _
    omega
  · have flag : (s.strand.xstat.pipe && s.strand.xstat.pid.toNat == l.val) = false := by
      rw [Bool.and_eq_false_iff, beq_eq_false_iff_ne, ← Bool.not_eq_true]
      exact Decidable.not_and_iff_or_not.mp piped
    rw [if_neg piped, flag, if_neg nofun]
    show _ + 2 ^ 18 * 0 + _ + _ + _ = _
    omega

/-- The entries and the semaphores of the debug view, filled up with zeros to whole units. -/
theorem take_view {view : List Byte} {e m : Nat} (len : view.length = 128 * e + 16 * m) :
    (view ++ leBytes 48 0).take (64 * (2 * e + (m + 3) / 4)) =
      view ++ leBytes (64 * (2 * e + (m + 3) / 4) - view.length) 0 := by
  rw [List.take_append, List.take_of_length_le (by omega), leBytes_zero_take (by omega)]

/-- The record of the debug view of `s`, whose entries in order are `es` and whose semaphores are `sems`. -/
theorem ringHolds_debugView {s : State} (on : viewOn s = true) (fits : RingFits s) (few : s.thatch.entries.length ≤ 64) (tag : Nat) :
    let es := bySeq s.thatch.entries
    let sems := viewSems es
    let view := es.flatMap entryImage ++ sems.flatMap (viewSem s)
    let units := 2 * es.length + (sems.length + 3) / 4
    RingHolds s (debugView tag s) [s.prof.recNo.toNat + 2 ^ 32 * (units + 30) + 2 ^ 48 * tag + 2 ^ 56 * 3, s.pkg.time.toNat,
        s.strand.icount.toNat, (if s.sys.exstat.depth = 0 then 0 else
          namedLoop { s with strand := { s.strand with xstat := s.sys.exstat } } (Fin.ofNat 4 s.sys.exstat.nest.toNat)
            s.sys.exstat.depth.toNat),
        s.sys.epc.toNat, (causeWord s.sys.cause).toNat, es.length + 2 ^ 32 * sems.length, 0]
      (view ++ leBytes (64 * units - view.length) 0 ++ (counts (countConflicts s).prof.conflicts).flatMap (leBytes 3)) := by
  intro es sems view units
  have fewEntries : es.length ≤ 64 := by rw [(bySeq_perm _).length_eq]; exact few
  have fewSems : sems.length ≤ 2 * es.length := by
    have bound := (foldl_joinSems es [] .nil).2.1
    rw [List.length_nil, Nat.zero_add] at bound
    exact bound
  have long : 256 ≤ ringLen s := fits.2.1
  have viewLen : view.length = 128 * es.length + 16 * sems.length := by
    rw [List.length_append, length_flatMap_const length_entryImage, length_flatMap_const (n := 16) fun n => ?_]
    rw [viewSem, List.length_append, leBytes_length, leBytes_length]
  have dw3 : (if s.sys.exstat.depth = 0 then 0 else
      namedLoop { s with strand := { s.strand with xstat := s.sys.exstat } } (Fin.ofNat 4 s.sys.exstat.nest.toNat)
        s.sys.exstat.depth.toNat) = loopDw { s with strand := { s.strand with xstat := s.sys.exstat } }
          (if s.sys.exstat.depth = 0 then none else some (innermost s.sys.exstat)) s.sys.exstat.depth.toNat := by
    split
    · rfl
    · exact (loopDw_eq _ _ _).symm
  have small : units + 30 = (units + 30) % 2 ^ 16 := by omega
  rw [dw3, small, ← take_view viewLen, ← snapBody_eq]
  unfold debugView
  rw [if_pos on, countConflicts_eq]
  generalize (countConflicts s).prof.conflicts = m
  refine ringHolds_traceRecord (s := { s with freeCount := s.freeCount + 1, prof := { s.prof with conflicts := m } }) fits ?_ ?_
  · have filled : 64 * units ≤ (view ++ leBytes 48 0).length := by
      rw [List.length_append, viewLen, leBytes_length]
      omega
    rw [List.length_append, List.length_take, length_snapBody]
    show min (64 * units) (view ++ leBytes 48 0).length + 64 * 30 = 64 * (units + 30)
    rw [Nat.min_eq_left filled]
    omega
  · show units + 30 < ringLen s
    omega

/-! ### The entry -/

theorem belowRuns_iff (s : State) : belowRuns s = true ↔ engineRuns s = true ∨ s.strand.loads ≠ [] ∨ s.strand.copies ≠ [] := by
  simp [belowRuns, or_assoc]

theorem stopForView_other {t : Trap} (notBrk : t.cause ≠ .brk) (s : State) : stopForView t s = s :=
  if_neg fun ⟨brk, _⟩ => notBrk brk

theorem trapEntry_defers {t : Trap} {s : State} (th : s.sys.th = false) (waits : cutWaits (stopForView t s) = true) (async : Bool)
    (q : Option Nat) : trapEntry t async q s = deferTrap t async q (stopForView t s) := by
  unfold trapEntry
  rw [if_neg (by rw [th]; nofun)]
  exact if_pos waits

theorem trapEntry_enters {t : Trap} {s : State} (th : s.sys.th = false) (waits : cutWaits (stopForView t s) = false) (async : Bool)
    (q : Option Nat) : trapEntry t async q s = enterTrap t async q (stopForView t s) := by
  unfold trapEntry
  rw [if_neg (by rw [th]; nofun)]
  exact if_neg (by rw [waits]; nofun)

/-- CAUSE of a trap's entry. -/
def entryCause (t : Trap) (async : Bool) : CauseReg :=
  { info := t.info, src := t.src, dbl := false, async := async, code := causeCode t.cause }

theorem enterTrap_cut {t : Trap} {s : State} (notBrk : t.cause ≠ .brk) (cut : s.sys.tcut.getLsbD 63 = true) (async : Bool)
    (q : Option Nat) :
    let u := enterTrap t async q s
    u.thatch = { s.thatch with stopped := true } ∧ u.strand.pc = s.sys.tvec ∧ u.sys.th = true ∧ u.sys.cause = entryCause t async ∧
      u.store = (putSpad s (s.sys.tcut.toNat / 2 ^ 6 % 2 ^ 17 * 64) (leBytes 8 s.strand.icount.toNat ++ leBytes 8 (cutOf s .m) ++
        leBytes 8 (cutOf s .v) ++ leBytes 8 (cutOf s .x) ++ leBytes 8 (cutOf s .c) ++ leBytes 8 (cutOf s .f) ++
        leBytes 8 (q.getD (2 ^ 64 - 1)) ++ leBytes 8 (causeWord (entryCause t async)).toNat)).store := by
  unfold enterTrap cutRecord
  dsimp only
  rw [if_neg notBrk, if_pos cut]
  refine ⟨rfl, rfl, rfl, rfl, ?_⟩
  cases q <;> rfl

theorem debugView_onlyTraced (tag : Nat) (s : State) : OnlyTraced s (debugView tag s) := by
  unfold debugView
  split
  · exact ((OnlyTraced.trans (t := countConflicts s) rfl (traceRecord_onlyTraced ..)).trans
      (u := { traceRecord _ _ _ _ _ _ _ _ _ with prof := _ }) rfl).trans rfl
  · exact .refl s

/-- An entry leaves the window but stops its queues where it writes a cut record. -/
theorem enterTrap_thatch (t : Trap) (async : Bool) (q : Option Nat) {s : State} (stopped : s.thatch.stopped = true) :
    (enterTrap t async q s).thatch.stopped = true ∧ (enterTrap t async q s).thatch.entries = s.thatch.entries := by
  have cut : ∀ {v : State}, v.thatch.stopped = true →
      (cutRecord q v).thatch.stopped = true ∧ (cutRecord q v).thatch.entries = v.thatch.entries := by
    intro v stopped
    unfold cutRecord
    split
    · exact ⟨rfl, rfl⟩
    · exact ⟨stopped, rfl⟩
  unfold enterTrap
  dsimp only
  split
  · rw [debugView_onlyTraced]
    exact cut stopped
  · exact cut stopped

/-- A trap that waits is the entry of its own cause once what runs below its cut record has ended. -/
theorem completeTrap_due {v : State} {d : TrapDue} (due : v.thatch.trapDue = some d) (th : v.sys.th = false)
    (quiet : belowRuns v = false) (notBrk : d.cause ≠ .brk) :
    completeTrap v = trapEntry { cause := d.cause, info := d.info, faddr := d.faddr, src := d.src } d.async d.recSeq
      { v with thatch := { v.thatch with trapDue := none } } := by
  have noView : viewWaits { cause := d.cause, info := d.info, faddr := d.faddr, src := d.src } v = false :=
    viewWaits_other v notBrk
  rw [trapEntry_enters (t := { cause := d.cause, info := d.info, faddr := d.faddr, src := d.src })
      (s := { v with thatch := { v.thatch with trapDue := none } }) th ?_, stopForView_other (by exact notBrk)]
  · unfold completeTrap
    rw [due]
    dsimp only
    rw [quiet, noView]
    rfl
  · rw [stopForView_other (by exact notBrk)]
    show (v.sys.tcut.getLsbD 63 && belowRuns v) = false
    rw [quiet, Bool.and_false]

theorem completeTrap_runs {v : State} (runs : belowRuns v = true) : completeTrap v = v := by
  unfold completeTrap
  split
  · rfl
  · dsimp only
    rw [runs]
    rfl

/-- The queues of a BRK's debug view are stopped, whether its entry waits or not. -/
theorem trapEntry_view {t : Trap} {s : State} (th : s.sys.th = false) (brk : t.cause = .brk) (on : viewOn s = true) (async : Bool)
    (q : Option Nat) :
    (trapEntry t async q s).thatch.stopped = true ∧
      (trapEntry t async q s).thatch.entries = s.thatch.entries.map (fun e => if sendsOn e then e else stopEntry e) := by
  have stops : stopForView t s = stopQueues s := if_pos ⟨brk, on⟩
  cases waits : cutWaits (stopForView t s)
  · rw [trapEntry_enters th waits, stops]
    exact enterTrap_thatch t async q rfl
  · rw [trapEntry_defers th waits, stops]
    exact ⟨rfl, rfl⟩

/-- What an entry without a cut record and a debug view writes. -/
theorem enterTrap_plain {t : Trap} {s : State} (notBrk : t.cause ≠ .brk) (noCut : s.sys.tcut.getLsbD 63 = false) (async : Bool)
    (q : Option Nat) : enterTrap t async q s = { s with
      sys := { s.sys with
        exstat := { xstatNow s with sk := false }
        elb := savedBounds s
        epc := s.strand.pc
        etgt := savedTarget s
        cause := entryCause t async
        faddr := t.faddr.getD s.sys.faddr
        ppl := s.sys.pl
        pl := true
        th := true
        unrec := if t.cause = .residue ∧ t.src ≠ 1 then satInc s.sys.unrec else s.sys.unrec }
      strand := { s.strand with
        xstat := { s.strand.xstat with depth := 0, pipe := false, q := 0, repk := 0, xp := false, xt := false, sk := false }
        pend := none, rep := none, cbrSaved := savedBranch s, stalled := false, asleep := false
        iterEnd := false, pc := s.sys.tvec }
      grp := { s.grp with heldWait := false } } := by
  unfold enterTrap cutRecord
  dsimp only
  rw [if_neg notBrk, if_neg (by rw [noCut]; nofun)]
  cases t.faddr <;> rfl

/-- The record of the debug view, its semaphores written out. -/
theorem ringHolds_view {s : State} (on : viewOn s = true) (fits : RingFits s) (few : s.thatch.entries.length ≤ 64) (tag : Nat) :
    let es := bySeq s.thatch.entries
    let sems := viewSems es
    let adds (n : Nat) : List Entry := es.filter (fun e => recSigv e.record && recSigsem e.record == n)
    let view := es.flatMap entryImage ++ sems.flatMap (fun (n : Nat) => leBytes 4 n ++ leBytes 4 (getSem s n).toNat ++
      leBytes 4 (((adds n).map (fun e : Entry => recSigadd e.record)).sum % 2 ^ 32).toNat ++ leBytes 4 (adds n).length)
    let units := 2 * es.length + (sems.length + 3) / 4
    RingHolds s (debugView tag s) [s.prof.recNo.toNat + 2 ^ 32 * (units + 30) + 2 ^ 48 * tag + 2 ^ 56 * 3, s.pkg.time.toNat,
        s.strand.icount.toNat, (if s.sys.exstat.depth = 0 then 0 else
          namedLoop { s with strand := { s.strand with xstat := s.sys.exstat } } (Fin.ofNat 4 s.sys.exstat.nest.toNat)
            s.sys.exstat.depth.toNat),
        s.sys.epc.toNat, (causeWord s.sys.cause).toNat, es.length + 2 ^ 32 * sems.length, 0]
      (view ++ leBytes (64 * units - view.length) 0 ++ (counts (countConflicts s).prof.conflicts).flatMap (leBytes 3)) := by
  have holds := ringHolds_debugView on fits few tag
  intro es sems adds view units
  have bytes : es.flatMap entryImage ++ sems.flatMap (viewSem s) = view := by
    refine congrArg (es.flatMap entryImage ++ ·) (List.flatMap_congr fun n member => ?_)
    have small : n < 2 ^ 11 := by
      rcases ((foldl_joinSems es [] .nil).2.2 n).mp member with none | ⟨e, -, ⟨-, rfl⟩ | ⟨-, rfl⟩⟩
      · exact absurd none List.not_mem_nil
      · exact Nat.mod_lt _ (by decide)
      · exact Nat.mod_lt _ (by decide)
    exact viewSem_eq (bySeq_perm _) (by omega)
  rw [← bytes]
  exact holds

/-- Settles O46: the cut record's entry at once or deferred, the queues of a debug view, its record, and the plain entry. -/
theorem trapTaken : Obligations.TrapTaken := by
  refine ⟨fun t async q s th notBrk cut => ?_, fun t async q s th brk on => trapEntry_view th brk on async q,
    fun tag s on fits few => ?_, fun t async q s th notBrk noCut => ?_⟩
  · have other := stopForView_other notBrk s
    have waits : cutWaits (stopForView t s) = belowRuns s := by
      rw [other, cutWaits, cut, Bool.true_and]
    intro u off cause cutBytes runs
    refine ⟨fun quiet => ?_, fun busy => ?_⟩
    · have done : belowRuns s = false := Bool.eq_false_iff.mpr fun busy => quiet ((belowRuns_iff s).mp busy)
      have enters : u = enterTrap t async q s := (trapEntry_enters th (waits.trans done) async q).trans (by rw [other])
      rw [enters]
      exact enterTrap_cut notBrk cut async q
    · have running : belowRuns s = true := (belowRuns_iff s).mpr busy
      have defers : u = deferTrap t async q s := (trapEntry_defers th (waits.trans running) async q).trans (by rw [other])
      rw [defers]
      refine ⟨rfl, rfl, rfl, rfl, rfl, completeTrap_runs running, fun v due vth stopped noLoads noCopies => ?_⟩
      have quiet : belowRuns v = false := by rw [belowRuns, stopped, noLoads, noCopies]; rfl
      exact completeTrap_due
        (d := { cause := t.cause, info := t.info, src := t.src, faddr := t.faddr, async := async, recSeq := q }) due vth quiet notBrk
  · obtain ⟨sorted, -, members⟩ := foldl_joinSems (bySeq s.thatch.entries) [] .nil
    refine ⟨bySeq s.thatch.entries, viewSems (bySeq s.thatch.entries), counts (countConflicts s).prof.conflicts, bySeq_perm _,
      bySeq_sorted _, sorted, fun n => ?_, counted_countConflicts s, ?_⟩
    · refine (members n).trans ?_
      rw [or_iff_right List.not_mem_nil]
      rfl
    · exact ringHolds_view on fits few tag
  · have other := stopForView_other notBrk s
    have noWait : cutWaits (stopForView t s) = false := by
      rw [other, cutWaits, noCut, Bool.false_and]
    intro u
    have enters : u = enterTrap t async q s := (trapEntry_enters th noWait async q).trans (by rw [other])
    rw [enters, enterTrap_plain notBrk noCut]
    exact ⟨rfl, rfl, rfl, rfl, rfl, rfl, rfl, rfl, rfl, rfl, rfl, rfl, rfl, rfl, rfl, rfl, rfl, rfl, rfl, rfl, rfl, rfl, rfl, rfl, rfl,
      rfl, rfl, rfl, rfl, rfl⟩

end Sys2Proof.Machine
end

section
/-! YIELD, HALT, TSTART, SNAP and SLEEP, and the record of a snapshot (spec/06_strand_memory_system.md R142 to R146, spec/13_cluster.md R279
to R282). -/

namespace Sys2Proof.Machine

/-! ### While a snapshot is being written, control writes nothing into the ring (R280) -/

/-- From `s` to `t` no unit of the ring has been written and no word counted: snapshots may have joined those that wait. -/
def OnlyQueued (s t : State) : Prop :=
  t.store = s.store ∧ t.prof = { s.prof with snaps := t.prof.snaps, queued := t.prof.queued } ∧
    t.strand.icount = s.strand.icount ∧ s.prof.snaps ≤ t.prof.snaps

theorem OnlyQueued.refl (s : State) : OnlyQueued s s := ⟨rfl, rfl, rfl, Nat.le_refl _⟩

theorem OnlyQueued.trans {s t u : State} (h : OnlyQueued s t) (k : OnlyQueued t u) : OnlyQueued s u := by
  obtain ⟨store, prof, icount, snaps⟩ := h
  obtain ⟨store', prof', icount', snaps'⟩ := k
  exact ⟨store'.trans store, by rw [prof', prof], icount'.trans icount, snaps.trans snaps'⟩

theorem OnlyQueued.busy {s t : State} (h : OnlyQueued s t) (busy : s.prof.busy = true) : t.prof.busy = true := by
  obtain ⟨-, prof, -⟩ := h
  rw [prof]
  exact busy

theorem onlyQueued_exitSnap {s : State} (busy : s.prof.busy = true) (dw3 how : Nat) : OnlyQueued s (exitSnap dw3 how s) := by
  unfold exitSnap
  split
  · exact ⟨rfl, rfl, rfl, Nat.le_refl _⟩
  · rw [traceSnap_queued busy]
    exact ⟨rfl, rfl, rfl, Nat.le_succ _⟩

theorem onlyQueued_endLoop {s : State} (busy : s.prof.busy = true) (how : Nat) : OnlyQueued s (endLoop how s) := by
  have shaped : ∀ x, OnlyQueued s (withXstat s x) := fun x => ⟨rfl, rfl, rfl, Nat.le_refl _⟩
  unfold endLoop
  dsimp only
  split
  · exact (shaped _).trans (onlyQueued_exitSnap (by exact busy) _ _)
  · exact shaped _

theorem onlyQueued_loopBack (l : LoopId) (s : State) : OnlyQueued s (loopBack l s) := by
  unfold loopBack
  dsimp only
  split <;> exact ⟨rfl, rfl, rfl, Nat.le_refl _⟩

theorem onlyQueued_withPc (s : State) (a : BitVec 32) : OnlyQueued s (withPc s a) := ⟨rfl, rfl, rfl, Nat.le_refl _⟩

theorem onlyQueued_afterWord {s : State} (busy : s.prof.busy = true) (n : Nat) (last : BitVec 32) : OnlyQueued s (afterWord n last s) := by
  induction n generalizing s with
  | zero => exact onlyQueued_withPc _ _
  | succ n ih =>
    have ends := onlyQueued_endLoop busy 0
    unfold afterWord
    dsimp only
    split
    · split
      · exact onlyQueued_loopBack _ _
      · exact ends.trans (ih (ends.busy busy))
    · exact onlyQueued_withPc _ _

theorem onlyQueued_transferTo {s : State} (busy : s.prof.busy = true) (how n : Nat) (t : BitVec 32) :
    OnlyQueued s (transferTo how n t s) := by
  induction n generalizing s with
  | zero => exact onlyQueued_withPc _ _
  | succ n ih =>
    have ends := onlyQueued_endLoop busy how
    unfold transferTo
    split
    · exact ends.trans (ih (ends.busy busy))
    · exact onlyQueued_withPc _ _

theorem onlyQueued_endLoopsTo {s : State} (busy : s.prof.busy = true) (n : Nat) (l : LoopId) : OnlyQueued s (endLoopsTo n l s) := by
  induction n generalizing s with
  | zero => exact .refl s
  | succ n ih =>
    have ends := onlyQueued_endLoop busy 1
    unfold endLoopsTo
    split
    · exact .refl s
    · split
      · exact ends
      · exact ends.trans (ih (ends.busy busy))

theorem onlyQueued_runAhead {s : State} (busy : s.prof.busy = true) (p : Pend) (hint : Bool) (inst last : BitVec 32) :
    OnlyQueued s (runAhead p hint inst last s) := by
  unfold runAhead
  dsimp only
  split
  · refine OnlyQueued.trans ?_ (onlyQueued_transferTo (by exact busy) _ _ _)
    exact ⟨rfl, rfl, rfl, Nat.le_refl _⟩
  · refine OnlyQueued.trans ?_ (onlyQueued_afterWord (by exact busy) _ _)
    exact ⟨rfl, rfl, rfl, Nat.le_refl _⟩

theorem onlyQueued_completeSlot {s : State} (busy : s.prof.busy = true) (p : Pend) (last : BitVec 32) :
    OnlyQueued s (completeSlot p last s) := by
  have ends : ∀ l, OnlyQueued s (endLoopsTo 4 l s) := onlyQueued_endLoopsTo busy 4
  unfold completeSlot
  split
  · split
    · exact onlyQueued_transferTo busy _ _ _
    · exact onlyQueued_afterWord busy _ _
  · split
    · exact onlyQueued_transferTo busy _ _ _
    · exact onlyQueued_afterWord busy _ _
  · split
    · exact (ends _).trans (onlyQueued_transferTo ((ends _).busy busy) _ _ _)
    · exact onlyQueued_afterWord busy _ _
  · exact onlyQueued_runAhead busy _ _ _ _

theorem onlyQueued_goOn {s : State} (busy : s.prof.busy = true) (size : BitVec 32) : OnlyQueued s (goOn size s) := by
  unfold goOn
  dsimp only
  split
  · split
    · exact ⟨rfl, rfl, rfl, Nat.le_refl _⟩
    · refine OnlyQueued.trans ?_ (onlyQueued_afterWord (by exact busy) _ _)
      exact ⟨rfl, rfl, rfl, Nat.le_refl _⟩
  · split
    · refine OnlyQueued.trans ?_ (onlyQueued_completeSlot (by exact busy) _ _)
      exact ⟨rfl, rfl, rfl, Nat.le_refl _⟩
    · refine OnlyQueued.trans ?_ (onlyQueued_afterWord (by exact busy) _ _)
      exact ⟨rfl, rfl, rfl, Nat.le_refl _⟩

/-- A record that stands in the ring still stands there behind the word. -/
theorem RingHolds.later {s t u : State} {header : List Nat} {body : List Byte} (holds : RingHolds s t header body)
    (store : u.store = t.store) (units : u.prof.unitNo = t.prof.unitNo) (records : u.prof.recNo = t.prof.recNo) :
    RingHolds s u header body := by
  unfold RingHolds at holds ⊢
  rw [store, units, records]
  exact holds

theorem SnapWritten.later {s t u : State} {kind tag dw3 dw4 : Nat} (written : SnapWritten s t kind tag dw3 dw4)
    (store : u.store = t.store) (prof : u.prof = { t.prof with snaps := u.prof.snaps, queued := u.prof.queued }) :
    SnapWritten s u kind tag dw3 dw4 := by
  obtain ⟨none, busy, m, counted, holds⟩ := written
  refine ⟨?_, ?_, m, counted, holds.later store ?_ ?_⟩ <;> rw [prof]
  · exact none
  · exact busy

/-! ### A loop ends -/

/-- The loop that ends is not traced. -/
theorem endLoop_untraced {s : State} {how : Nat}
    (off : s.sys.traceb.getLsbD 63 = false ∨ s.sys.traceb.getLsbD (56 + (innermost s.strand.xstat).val) = false) :
    (endLoop how s).store = s.store ∧ (endLoop how s).prof = s.prof := by
  have no : (traceOn s && s.sys.traceb.getLsbD (56 + (innermost s.strand.xstat).val)) = false := by
    rw [Bool.and_eq_false_iff]
    exact off
  unfold endLoop
  dsimp only
  rw [if_neg (by rw [no]; nofun)]
  exact ⟨rfl, rfl⟩

theorem endLoop_traced {s : State} {how : Nat} (on : s.sys.traceb.getLsbD 63 = true)
    (marked : s.sys.traceb.getLsbD (56 + (innermost s.strand.xstat).val) = true) (notAhead : s.sys.spec = false) :
    ∃ x : Xstat, endLoop how s = traceSnap 2 0
      (namedLoop s (innermost s.strand.xstat) (s.strand.xstat.depth.toNat - 1)) how (withXstat s x) := by
  have yes : (traceOn s && s.sys.traceb.getLsbD (56 + (innermost s.strand.xstat).val)) = true := by
    rw [Bool.and_eq_true]
    exact ⟨on, marked⟩
  refine ⟨afterLoop s.strand.xstat, ?_⟩
  unfold endLoop exitSnap
  dsimp only
  rw [if_pos yes, loopDw_eq]
  exact if_neg (by show ¬s.sys.spec = true; rw [notAhead]; nofun)

theorem endLoop_snaps : ∀ (s : State) (how : Nat),
    let l : LoopId := Fin.ofNat 4 s.strand.xstat.nest.toNat
    let u := endLoop how s
    let dw3 := namedLoop s l (s.strand.xstat.depth.toNat - 1)
    (s.sys.traceb.getLsbD 63 = false ∨ s.sys.traceb.getLsbD (56 + l.val) = false → u.store = s.store ∧ u.prof = s.prof) ∧
    (s.sys.traceb.getLsbD 63 = true → s.sys.traceb.getLsbD (56 + l.val) = true → s.sys.spec = false →
      (s.prof.busy = false → RingFits s → SnapWritten s u 2 0 dw3 how) ∧
      (s.prof.busy = true → u.store = s.store ∧
        u.prof.queued = s.prof.queued ++ [{ kind := 2, tag := 0, dw3 := dw3, dw4 := how }])) := by
  intro s how l u dw3
  refine ⟨fun off => endLoop_untraced off, fun on marked notAhead => ?_⟩
  obtain ⟨x, ends⟩ := endLoop_traced (how := how) on marked notAhead
  have isU : u = traceSnap 2 0 dw3 how (withXstat s x) := ends
  rw [isU]
  refine ⟨fun idle fits => ?_, fun busy => ?_⟩
  · exact snapWritten_traceSnap (s := withXstat s x) fits idle
  · rw [traceSnap_queued (by exact busy)]
    exact ⟨rfl, rfl⟩

/-! ### YIELD (R142) -/

/-- The offset of a yield's doubleword in the scratchpad. -/
def yieldOff (n : BitVec 8) (s : State) : Nat := bitsOf s.sys.ytab.toNat 0 23 + 8 * n.toNat

theorem yieldOff_eq (n : BitVec 8) (s : State) : yieldOff n s = s.sys.ytab.toNat % 2 ^ 23 + 8 * n.toNat := by
  rw [yieldOff, bitsOf, Nat.pow_zero, Nat.div_one]

/-- Where a yield that is taken goes. -/
def yieldTo (n : BitVec 8) (s : State) : State :=
  let e : Word := BitVec.ofNat 64 (readLe s.store.spad (yieldOff n s) 8)
  let s := clearIssue (addCount 1 s)
  let s := { s with
    sys := { s.sys with prgix := BitVec.ofNat 64 (bitsOf e.toNat 32 32 * 2 ^ 32 + n.toNat), epc := s.strand.pc + 1 }
    pkg := { s.pkg with saving := true } }
  withPc s (low32 e)

/-- YIELD as it acts. -/
def yieldActs (n : BitVec 8) (s : State) : Res :=
  if !yieldTaken n s then .done s
  else if Config.spadBytes < yieldOff n s + 8 then .trap (checkTrap .seg (BitVec.ofNat 64 (2 ^ 63 + yieldOff n s)) 0)
  else if meetsCopy s (BitVec.ofNat 64 (2 ^ 63 + yieldOff n s)) 8 then .stall s
  else .jump (yieldTo n s)

theorem exec_yield (n : BitVec 8) (s : State) : exec (.yield n) s = issue [] true 1 (yieldActs n) s := rfl

theorem yieldTaken_iff (n : BitVec 8) (s : State) : yieldTaken n s = true ↔ s.sys.pp = true ∧ s.strand.xstat.depth = 0 ∧
    s.strand.pend = none ∧ n.toNat ≤ s.sys.ytab.toNat / 2 ^ 24 % 2 ^ 8 := by
  simp only [yieldTaken, Bool.and_eq_true, beq_iff_eq, decide_eq_true_eq, Option.isNone_iff_eq_none, and_assoc]
  exact Iff.rfl

theorem readLe_lt (m : List Host.Cell) (a n : Nat) : readLe m a n < 256 ^ n := by
  unfold readLe
  have len : (bytesAt m a n).length = n := by
    induction n generalizing a with
    | zero => rfl
    | succ n ih => rw [bytesAt, List.length_cons, ih]
  have bound := leNat_lt (bytesAt m a n)
  rwa [len] at bound

theorem low32_ofNat (n : Nat) : low32 (BitVec.ofNat 64 n) = BitVec.ofNat 32 n := by
  apply BitVec.eq_of_toNat_eq
  rw [low32, BitVec.toNat_setWidth, BitVec.toNat_ofNat, BitVec.toNat_ofNat]
  omega

theorem yieldTo_spec (n : BitVec 8) (s : State) :
    let entry := readLe s.store.spad (yieldOff n s) 8
    let u := yieldTo n s
    u.strand.pc = BitVec.ofNat 32 entry ∧ u.sys.epc = s.strand.pc + 1 ∧ u.pkg.saving = true ∧
      u.sys.prgix = BitVec.ofNat 64 (entry / 2 ^ 32 % 2 ^ 32 * 2 ^ 32 + n.toNat) ∧ u.strand.g = s.strand.g ∧
      u.store = s.store ∧ u.pkg.preemptBy = s.pkg.preemptBy := by
  have small := readLe_lt s.store.spad (yieldOff n s) 8
  unfold yieldTo
  generalize readLe s.store.spad (yieldOff n s) 8 = entry at *
  dsimp only
  have whole : (BitVec.ofNat 64 entry).toNat = entry := by
    rw [BitVec.toNat_ofNat]
    exact Nat.mod_eq_of_lt small
  rw [whole, low32_ofNat]
  exact ⟨rfl, rfl, rfl, rfl, rfl, rfl, rfl⟩

/-! ### HALT (R144) -/

theorem haltWaits_iff (s : State) : haltWaits s = true ↔ tkc s ≠ 0 ∨ ldc s ≠ 0 ∨ stc s ≠ 0 ∨ cpc s ≠ 0 ∨ s.mem.replay ≠ [] := by
  simp only [haltWaits, Bool.or_eq_true, bne_iff_ne, Bool.not_eq_true', List.isEmpty_eq_false_iff, or_assoc, ne_eq]

/-- HALT as it acts. -/
def haltActs (s : State) : Res :=
  if haltWaits s then .stall s else withWriteBack (cachedHusks s) s (fun s => .jump (endHalt s))

theorem exec_halt (s : State) : exec .halt s = issue [] true 1 haltActs s := rfl

theorem withWriteBack_clean {ns : List Nat} {s : State} (clean : dirtyHusks s ns = []) (f : State → Res) :
    withWriteBack ns s f = f s := by
  unfold withWriteBack
  rw [clean]
  rfl

theorem endHalt_spec (s : State) :
    let u := endHalt s
    u.pkg.launch = none ∧
      (s.pkg.saving = false → u.strand.run = .halted ∧ u.pkg.completions = s.pkg.completions ++
        [.halted ((List.range 15).map (fun i => getG s (Fin.ofNat 64 (i + 1))))]) ∧
      (s.pkg.saving = true → u.strand.run = .preempted ∧ u.pkg.completions = s.pkg.completions ++
        [.preempted s.sys.prgix (grpixWord s.sys) (gstepWord s.sys) (gepochWord s.sys)]) := by
  refine ⟨rfl, fun saving => ?_, fun saving => ?_⟩ <;> unfold endHalt <;> dsimp only [addCount] <;> rw [saving] <;> exact ⟨rfl, rfl⟩

/-! ### SNAP, SLEEP and TSTART (R145, R146) -/

/-- Doubleword 3 of a SNAP's header. -/
def snapDw (s : State) : Nat :=
  loopDw s (if s.strand.xstat.depth = 0 then none else some (innermost s.strand.xstat)) s.strand.xstat.depth.toNat

theorem snapDw_eq (s : State) : snapDw s = if s.strand.xstat.depth = 0 then 0
    else namedLoop s (Fin.ofNat 4 s.strand.xstat.nest.toNat) s.strand.xstat.depth.toNat := by
  unfold snapDw
  split
  · rfl
  · exact loopDw_eq _ _ _

/-- SNAP as it acts. -/
def snapActs (n : BitVec 8) (s : State) : Res :=
  if traceOn s then .done (traceSnap 1 n.toNat (snapDw s) 0 s) else .done s

theorem exec_snap (n : BitVec 8) (s : State) : exec (.snap n) s = issue [] true 1 (snapActs n) s := rfl

theorem traceSnap_busy (kind tag dw3 dw4 : Nat) (s : State) : (traceSnap kind tag dw3 dw4 s).prof.busy = true := by
  unfold traceSnap
  dsimp only
  split
  · next busy => exact busy
  · rfl

/-- SNAP with no snapshot in progress. -/
theorem snap_written {s : State} {n : BitVec 8} (ready : Ready [] true s) (on : traceOn s = true) (idle : s.prof.busy = false) :
    ∃ u : State, exec (.snap n) s = .next u ∧ u.strand.icount = s.strand.icount + countOf s ∧ u.prof.busy = true ∧
      (RingFits s → SnapWritten s u 1 n.toNat (snapDw s) 0) := by
  have acts : snapActs n s = .done (traceSnap 1 n.toNat (snapDw s) 0 s) := if_pos on
  have same := traceSnap_onlyTraced 1 n.toNat (snapDw s) 0 s
  have strand : (traceSnap 1 n.toNat (snapDw s) 0 s).strand = s.strand := by rw [same]
  have busy := traceSnap_busy 1 n.toNat (snapDw s) 0 s
  have goes := onlyQueued_goOn (s := addCount (countOf s) (traceSnap 1 n.toNat (snapDw s) 0 s)) busy 1
  refine ⟨_, (exec_snap n s).trans (issue_done ready acts), ?_⟩
  have finishes : finish 1 s (.done (traceSnap 1 n.toNat (snapDw s) 0 s)) =
      goOn 1 (addCount (countOf s) (traceSnap 1 n.toNat (snapDw s) 0 s)) := by
    show snapGuard s (advance 1 _) = _
    rw [snapGuard_idle _ idle, advance, countOf, strand]
    rfl
  rw [finishes]
  refine ⟨?_, goes.busy busy, fun fits => ?_⟩
  · rw [goes.2.2.1]
    show (traceSnap 1 n.toNat (snapDw s) 0 s).strand.icount + countOf s = _
    rw [strand]
  · exact (snapWritten_traceSnap fits idle).later goes.1 goes.2.1

/-- SNAP while a snapshot is being written. -/
theorem snap_waits {s : State} {n : BitVec 8} (ready : Ready [] true s) (on : traceOn s = true) (busy : s.prof.busy = true) :
    exec (.snap n) s = .next (stallAt s) := by
  have acts : snapActs n s = .done (traceSnap 1 n.toNat (snapDw s) 0 s) := if_pos on
  have isQueued := traceSnap_queued (kind := 1) (tag := n.toNat) (dw3 := snapDw s) (dw4 := 0) busy
  have snaps : (traceSnap 1 n.toNat (snapDw s) 0 s).prof.snaps = s.prof.snaps + 1 := by rw [isQueued]
  have stillBusy := traceSnap_busy 1 n.toNat (snapDw s) 0 s
  rw [exec_snap, issue_done ready acts]
  generalize traceSnap 1 n.toNat (snapDw s) 0 s = q at *
  have more := (onlyQueued_goOn (s := addCount (countOf q) q) stillBusy 1).2.2.2
  have another : (advance 1 q).prof.snaps ≠ s.prof.snaps := Nat.ne_of_gt (Nat.lt_of_lt_of_le (Nat.lt_of_succ_le snaps.ge) more)
  exact congrArg Host.Outcome.next (snapGuard_stalls busy another)

theorem sleepEnds_iff (s : State) : sleepEnds s = true ↔ s.thatch.async ≠ [] ∨ s.pkg.debugReq = true ∨ s.sys.pp = true ∨
    (s.strand.asleep = true ∧ s.strand.semAdded = true) := by
  simp only [sleepEnds, Bool.or_eq_true, Bool.and_eq_true, Bool.not_eq_true', List.isEmpty_eq_false_iff, or_assoc, ne_eq]

/-- SLEEP as it acts. -/
def sleepActs (s : State) : Res :=
  if sleepEnds s then .done s
  else if s.strand.asleep then .stall s
  else .stall { s with strand := { s.strand with asleep := true, semAdded := false } }

theorem exec_sleep (s : State) : exec .sleep s = issue [] true 1 (privileged sleepActs) s := rfl

theorem privileged_allowed {f : State → Res} {s : State} (pl : s.sys.pl = true) : privileged f s = f s := if_pos pl

/-- TSTART as it acts. -/
def tstartActs (a : Reg) (s : State) : Res := if (getG s a).ule s.pkg.time then .done s else .stall s

theorem exec_tstart (a : Reg) (s : State) : exec (.tstart a) s = issue [a] true 1 (tstartActs a) s := rfl

/-- Settles O51: the snapshots of loops that end, and each instruction by the conditions on which it waits. -/
theorem strandSystem : Obligations.StrandSystem := by
  refine ⟨endLoop_snaps, fun s n a => ?_⟩
  intro done stalls off entry taken waits wakes
  have isOff : yieldOff n s = off := yieldOff_eq n s
  have isTaken : yieldTaken n s = true ↔ taken := yieldTaken_iff n s
  have yieldPast : taken → yieldActs n s = if Config.spadBytes < off + 8 then
      .trap (checkTrap .seg (BitVec.ofNat 64 (2 ^ 63 + off)) 0)
      else if meetsCopy s (BitVec.ofNat 64 (2 ^ 63 + off)) 8 then .stall s else .jump (yieldTo n s) := fun yes => by
    rw [yieldActs, if_neg (by rw [isTaken.mpr yes]; nofun), isOff]
  refine ⟨fun ready => ⟨fun no => ?_, fun yes inside meets => ?_, fun yes inside apart idle => ?_, fun yes beyond notAhead => ?_,
    fun wait => ?_, fun go clean idle => ?_, fun off => ?_, fun on idle => ?_, fun on busy => ?_, fun pl => ?_⟩, fun ready => ?_⟩
  · have acts : yieldActs n s = .done s := if_pos (by rw [Bool.eq_false_iff.mpr fun h => no (isTaken.mp h)]; rfl)
    exact (exec_yield n s).trans (issue_done ready acts)
  · have acts : yieldActs n s = .stall s := by
      exact (yieldPast yes).trans ((if_neg (Nat.not_lt.mpr inside)).trans (if_pos meets))
    exact exec_stalls (exec_yield n s) ready acts
  · have acts : yieldActs n s = .jump (yieldTo n s) := by
      exact (yieldPast yes).trans ((if_neg (Nat.not_lt.mpr inside)).trans (if_neg (by rw [apart]; nofun)))
    have goes := yieldTo_spec n s
    rw [isOff] at goes
    exact ⟨yieldTo n s, ((exec_yield n s).trans (issue_jump ready acts)).trans (by rw [snapGuard_idle _ idle]), goes⟩
  · have acts : yieldActs n s = .trap (checkTrap .seg (BitVec.ofNat 64 (2 ^ 63 + off)) 0) := by
      exact (yieldPast yes).trans (if_pos beyond)
    exact exec_trapsWith (exec_yield n s) ready (t := checkTrap .seg _ 0) nofun nofun rfl acts notAhead
  · exact exec_stalls (exec_halt s) ready (if_pos ((haltWaits_iff s).mpr wait))
  · have acts : haltActs s = .jump (endHalt s) :=
      (if_neg fun wait => go ((haltWaits_iff s).mp wait)).trans (withWriteBack_clean clean _)
    exact ⟨endHalt s, ((exec_halt s).trans (issue_jump ready acts)).trans (by rw [snapGuard_idle _ idle]), endHalt_spec s⟩
  · exact (exec_snap n s).trans (issue_done ready (if_neg (by rw [off]; nofun)))
  · rw [← snapDw_eq]
    exact snap_written ready on idle
  · exact snap_waits ready on busy
  · have acts : privileged sleepActs s = sleepActs s := privileged_allowed pl
    refine ⟨fun wake => ?_, fun sleeps asleep => ?_, fun sleeps awake => ?_⟩
    · exact (exec_sleep s).trans (issue_done ready (acts.trans (if_pos ((sleepEnds_iff s).mpr wake))))
    · have stays : sleepActs s = .stall s :=
        (if_neg fun wake => sleeps ((sleepEnds_iff s).mp wake)).trans (if_pos asleep)
      exact exec_stalls (exec_sleep s) ready (acts.trans stays)
    · have starts : sleepActs s = .stall { s with strand := { s.strand with asleep := true, semAdded := false } } :=
        (if_neg fun wake => sleeps ((sleepEnds_iff s).mp wake)).trans (if_neg (by rw [awake]; nofun))
      exact exec_stalls (exec_sleep s) ready (acts.trans starts)
  · refine ⟨fun reached => ?_, fun early => ?_⟩
    · have acts : tstartActs a s = .done s := if_pos (BitVec.ule_iff_toNat_le.mpr reached)
      exact (exec_tstart a s).trans (issue_done ready acts)
    · have acts : tstartActs a s = .stall s :=
        if_neg fun reached => Nat.not_le.mpr early (BitVec.ule_iff_toNat_le.mp reached)
      exact exec_stalls (exec_tstart a s) ready acts

end Sys2Proof.Machine
end

section
/-! MFS and MTS of the system registers (spec/06_strand_memory_system.md R131). -/

namespace Sys2Proof.Machine

/-! ### Masks as runs of bits -/

/-- The mask of runs of bits, each given by its lowest bit and its length, highest first. -/
def maskOf : List (Nat × Nat) → Nat
  | [] => 0
  | (lo, n) :: rs => 2 ^ lo * (2 ^ n - 1) + maskOf rs

/-- The bits of a number in runs. -/
def bitsIn (x : Nat) : List (Nat × Nat) → Nat
  | [] => 0
  | (lo, n) :: rs => 2 ^ lo * (x / 2 ^ lo % 2 ^ n) + bitsIn x rs

/-- Each run lies above those behind it. -/
def falling : List (Nat × Nat) → Bool
  | [] => true
  | (lo, _) :: rs => decide (maskOf rs < 2 ^ lo) && falling rs

theorem and_maskOf (x : Nat) {rs : List (Nat × Nat)} (apart : falling rs = true) : x &&& maskOf rs = bitsIn x rs := by
  induction rs with
  | nil => exact Nat.and_zero x
  | cons r rs ih =>
    obtain ⟨lo, n⟩ := r
    rw [falling, Bool.and_eq_true, decide_eq_true_eq] at apart
    obtain ⟨below, rest⟩ := apart
    have ih := ih rest
    have low : bitsIn x rs < 2 ^ lo := by
      rw [← ih]
      exact Nat.and_lt_two_pow x below
    apply Nat.eq_of_testBit_eq
    intro i
    rw [maskOf, bitsIn, Nat.testBit_and, Nat.testBit_two_pow_mul_add _ below, Nat.testBit_two_pow_mul_add _ low, ← ih, Nat.testBit_and,
      Nat.testBit_two_pow_sub_one, Nat.testBit_mod_two_pow, Nat.testBit_div_two_pow]
    split
    · rfl
    · next above =>
      rw [Nat.sub_add_cancel (Nat.le_of_not_lt above), Bool.and_comm]

/-- A word under a mask, by the runs of the mask. -/
theorem toNat_and_mask (v mask : Word) {rs : List (Nat × Nat)} (isMask : mask.toNat = maskOf rs) (apart : falling rs = true) :
    (v &&& mask).toNat = bitsIn v.toNat rs := by
  rw [BitVec.toNat_and, isMask, and_maskOf _ apart]

/-- A word of which the low n bits are another's. -/
theorem toNat_merge (old v mask : Word) {n : Nat} (small : n ≤ 64) (isMask : mask.toNat = 2 ^ n - 1) :
    ((old &&& ~~~mask) ||| (v &&& mask)).toNat = 2 ^ n * (old.toNat / 2 ^ n) + v.toNat % 2 ^ n := by
  have low : v.toNat % 2 ^ n < 2 ^ n := Nat.mod_lt _ (Nat.two_pow_pos n)
  apply Nat.eq_of_testBit_eq
  intro i
  rw [Nat.testBit_two_pow_mul_add _ low, Nat.testBit_mod_two_pow, Nat.testBit_div_two_pow, BitVec.testBit_toNat, BitVec.getLsbD_or,
    BitVec.getLsbD_and, BitVec.getLsbD_and, BitVec.getLsbD_not]
  have bit : mask.getLsbD i = decide (i < n) := by
    rw [← BitVec.testBit_toNat, isMask, Nat.testBit_two_pow_sub_one]
  rw [bit]
  by_cases below : i < n
  · have inWord : i < 64 := by omega
    simp [below, inWord, BitVec.testBit_toNat]
  · rw [if_neg below, Nat.sub_add_cancel (Nat.le_of_not_lt below), BitVec.testBit_toNat]
    rcases Nat.lt_or_ge i 64 with inWord | beyond
    · simp [below, inWord]
    · simp [below, BitVec.getLsbD_of_ge _ _ beyond]

/-! ### What a register reads behind its MTS -/

theorem word32_low32 (v : Word) : word32 (low32 v) = v &&& 0xFFFFFFFF := by
  apply BitVec.eq_of_toNat_eq
  rw [toNat_and_mask v _ (rs := [(0, 32)]) rfl (by decide)]
  simp only [word32, low32, bitsIn, BitVec.toNat_setWidth]
  omega

theorem setWidth_setWidth (v : Word) (n : Nat) {mask : Word} (small : n ≤ 64) (isMask : mask.toNat = maskOf [(0, n)]) :
    (v.setWidth n).setWidth 64 = v &&& mask := by
  apply BitVec.eq_of_toNat_eq
  rw [toNat_and_mask v _ isMask (by simp [falling, maskOf])]
  have below : v.toNat % 2 ^ n < 2 ^ 64 := (Nat.mod_lt _ (Nat.two_pow_pos n)).trans_le (Nat.pow_le_pow_right (by decide) small)
  simp only [BitVec.toNat_setWidth, bitsIn, Nat.pow_zero, Nat.div_one, Nat.one_mul, Nat.add_zero]
  exact Nat.mod_eq_of_lt below

theorem and_allOnes (v : Word) : v &&& 0xFFFFFFFFFFFFFFFF = v := by
  apply BitVec.eq_of_toNat_eq
  rw [toNat_and_mask v _ (rs := [(0, 64)]) rfl (by decide)]
  simp only [bitsIn]
  omega

theorem toNat_getLsbD (v : Word) (i : Nat) : (v.getLsbD i).toNat = v.toNat / 2 ^ i % 2 ^ 1 := by
  rw [← BitVec.testBit_toNat, Nat.toNat_testBit, Nat.pow_one]

theorem toNat_extract (v : Word) (lo n : Nat) : (v.extractLsb' lo n).toNat = v.toNat / 2 ^ lo % 2 ^ n := by
  rw [BitVec.extractLsb'_toNat, Nat.shiftRight_eq_div_pow]

/-- A word that is made of the bits of another one in the runs of a mask. -/
theorem ofNat_bitsIn {v mask : Word} {rs : List (Nat × Nat)} {sum : Nat} (isMask : mask.toNat = maskOf rs) (apart : falling rs = true)
    (isSum : sum = bitsIn v.toNat rs) : BitVec.ofNat 64 sum = v &&& mask := by
  apply BitVec.eq_of_toNat_eq
  have same := toNat_and_mask v mask isMask apart
  rw [isSum, ← same, BitVec.ofNat_toNat, BitVec.setWidth_eq]

theorem causeWord_causeOf (v : Word) : causeWord (causeOf v) = v &&& 0xFFFFFFFF0000733F := by
  refine ofNat_bitsIn (rs := [(32, 32), (12, 3), (9, 1), (8, 1), (0, 6)]) rfl (by decide) ?_
  simp only [causeOf, toNat_getLsbD, toNat_extract, bitsIn]
  ring

theorem xstatWord_xstatOf (v : Word) : xstatWord (xstatOf v) = v &&& 0xFFFFFFFF0000000F := by
  refine ofNat_bitsIn (rs := [(56, 8), (55, 1), (52, 3), (50, 2), (44, 6), (43, 1), (40, 3), (32, 8), (3, 1), (2, 1), (1, 1), (0, 1)]) rfl
    (by decide) ?_
  simp only [xstatOf, toNat_getLsbD, toNat_extract, bitsIn]
  ring

theorem append_halves (v : Word) : v.extractLsb' 32 32 ++ v.extractLsb' 0 32 = v := by
  apply BitVec.eq_of_getLsbD_eq
  intro i below
  rw [BitVec.getLsbD_append, BitVec.getLsbD_extractLsb', BitVec.getLsbD_extractLsb']
  split
  · next low => simp [low]
  · next high =>
    have place : 32 + (i - 32) = i := by omega
    have inHigh : i - 32 < 32 := by omega
    simp [place, inHigh]

theorem low32_eq (v : Word) : low32 v = v.extractLsb' 0 32 := by
  apply BitVec.eq_of_toNat_eq
  rw [low32, BitVec.toNat_setWidth, toNat_extract, Nat.pow_zero, Nat.div_one]

theorem boundsWord_boundsOf (v : Word) : boundsWord (boundsOf v) = v &&& 0xFFFFFFFFFFFFFFFF :=
  (append_halves v).trans (and_allOnes v).symm

/-- STATUS: MTS writes PL and PPL. -/
theorem statusWord_merge (r : SysRegs) (v : Word) :
    statusWord { r with pl := v.getLsbD 0, ppl := v.getLsbD 1 } = (statusWord r &&& ~~~(3 : Word)) ||| (v &&& 3) := by
  apply BitVec.eq_of_toNat_eq
  rw [toNat_merge _ _ _ (n := 2) (by decide) rfl]
  simp only [statusWord, toNat_getLsbD, BitVec.toNat_ofNat]
  have := r.pl.toNat_lt
  have := r.ppl.toNat_lt
  have := r.th.toNat_lt
  have := r.pp.toNat_lt
  have := r.spec.toNat_lt
  omega

theorem grpixWord_merge (r : SysRegs) (v : Word) :
    grpixWord { r with grpIx := v.setWidth 16 } = (grpixWord r &&& ~~~(0xFFFF : Word)) ||| (v &&& 0xFFFF) := by
  apply BitVec.eq_of_toNat_eq
  rw [toNat_merge _ _ _ (n := 16) (by decide) rfl]
  simp only [grpixWord, BitVec.toNat_setWidth, BitVec.toNat_ofNat]
  omega

theorem gstepWord_merge (r : SysRegs) (v : Word) :
    gstepWord { r with gstepStep := low32 v } = (gstepWord r &&& ~~~(0xFFFFFFFF : Word)) ||| (v &&& 0xFFFFFFFF) := by
  apply BitVec.eq_of_toNat_eq
  rw [toNat_merge _ _ _ (n := 32) (by decide) rfl]
  simp only [gstepWord, low32, BitVec.toNat_append, BitVec.toNat_setWidth]
  rw [← Nat.shiftLeft_add_eq_or_of_lt (Nat.mod_lt _ (by decide)), ← Nat.shiftLeft_add_eq_or_of_lt r.gstepStep.isLt, Nat.shiftLeft_eq]
  omega

theorem gepochWord_merge (r : SysRegs) (v : Word) :
    gepochWord { r with gepoch := v.setWidth 16 } = (gepochWord r &&& ~~~(0xFFFF : Word)) ||| (v &&& 0xFFFF) := by
  apply BitVec.eq_of_toNat_eq
  rw [toNat_merge _ _ _ (n := 16) (by decide) rfl]
  simp only [gepochWord, BitVec.toNat_setWidth, BitVec.toNat_ofNat]
  omega

/-- A limit with a floor. -/
theorem word32_floor1000 (v : Word) : word32 (floor1000 v) = BitVec.ofNat 64 (min (2 ^ 32 - 1) (max 1000 (v.toNat % 2 ^ 32))) := by
  apply BitVec.eq_of_toNat_eq
  simp only [word32, floor1000, low32, BitVec.toNat_setWidth, BitVec.toNat_ofNat]
  split
  · show 1000 % 2 ^ 64 = _
    omega
  · rw [BitVec.toNat_setWidth]
    omega

theorem word32_pipexpValue (v : Word) :
    word32 (pipexpValue v) = BitVec.ofNat 64 (min 1000000000 (max 1000 (v.toNat % 2 ^ 32))) := by
  have floored := congrArg BitVec.toNat (word32_floor1000 v)
  apply BitVec.eq_of_toNat_eq
  simp only [word32, BitVec.toNat_setWidth, BitVec.toNat_ofNat] at floored ⊢
  unfold pipexpValue
  dsimp only
  split
  · show 1000000000 % 2 ^ 64 = _
    omega
  · omega

/-! ### The table of the registers -/

/-- The registers that R131 assigns, with the words that they read. -/
def sysWords (s : State) : List (Nat × Word) :=
  [(0x00, statusWord s.sys), (0x01, causeWord s.sys.cause), (0x02, word32 s.sys.epc), (0x03, word32 s.sys.tvec), (0x04, s.sys.faddr),
   (0x05, word32 s.sys.etgt), (0x06, xstatWord s.sys.exstat), (0x07, s.sys.tcut), (0x08, boundsWord s.sys.elb[0]),
   (0x09, boundsWord s.sys.elb[1]), (0x0A, boundsWord s.sys.elb[2]), (0x0B, boundsWord s.sys.elb[3]), (0x0C, xstatWord (xstatNow s)),
   (0x0D, s.sys.flags.setWidth 64), (0x0E, s.sys.unrec ++ s.sys.recov), (0x10, s.sys.coreid.setWidth 64),
   (0x11, s.sys.nodeid.setWidth 64), (0x12, s.sys.asid.setWidth 64), (0x13, s.pkg.time), (0x14, s.sys.rnpool.setWidth 64),
   (0x15, s.sys.ssgrp.setWidth 64), (0x16, s.sys.ytab), (0x17, word32 s.sys.preedl), (0x18, word32 s.sys.lattol), (0x19, s.sys.rasb),
   (0x1A, BitVec.ofNat 64 s.strand.ras.length), (0x1B, s.strand.rasi), (0x1C, rasvWord s), (0x1D, s.sys.prgix),
   (0x20, s.sys.grpid.setWidth 64), (0x21, s.sys.grpn.setWidth 64), (0x22, grpixWord s.sys), (0x23, gstepWord s.sys),
   (0x24, gepochWord s.sys), (0x25, word32 s.sys.pipexp), (0x26, word32 s.sys.cbrto), (0x27, word32 s.sys.selftestPeriod),
   (0x28, s.sys.traceb), (0x29, pkgstatWord s), (0x30, lcWord (getLc s 0)), (0x31, lcWord (getLc s 1)), (0x32, lcWord (getLc s 2)),
   (0x33, lcWord (getLc s 3))]

/-- The numbers that R131 assigns. -/
def assigned : List Nat :=
  [0x00, 0x01, 0x02, 0x03, 0x04, 0x05, 0x06, 0x07, 0x08, 0x09, 0x0A, 0x0B, 0x0C, 0x0D, 0x0E, 0x10, 0x11, 0x12, 0x13, 0x14, 0x15, 0x16,
   0x17, 0x18, 0x19, 0x1A, 0x1B, 0x1C, 0x1D, 0x20, 0x21, 0x22, 0x23, 0x24, 0x25, 0x26, 0x27, 0x28, 0x29, 0x30, 0x31, 0x32, 0x33]

theorem keys_sysWords (s : State) : (sysWords s).map Prod.fst = assigned := rfl

theorem readSys_unassigned {k : Nat} (s : State) (not : k ∉ assigned) : readSys s k = none := by
  unfold readSys
  dsimp only
  split
  case h_44 => rfl
  all_goals exact absurd (by decide) not

theorem lookup_none {k : Nat} {l : List (Nat × Word)} (not : k ∉ l.map Prod.fst) : l.lookup k = none := by
  rw [List.lookup_eq_none_iff]
  intro p member
  rw [bne_iff_ne]
  rintro rfl
  exact not (List.mem_map_of_mem member)

theorem readSys_eq (s : State) (k : Nat) : readSys s k = (sysWords s).lookup k := by
  by_cases known : k ∈ assigned
  · simp only [assigned, List.mem_cons, List.not_mem_nil, or_false] at known
    rcases known with rfl | rfl | rfl | rfl | rfl | rfl | rfl | rfl | rfl | rfl | rfl | rfl | rfl | rfl | rfl | rfl | rfl | rfl | rfl | rfl | rfl | rfl | rfl | rfl | rfl | rfl | rfl | rfl | rfl | rfl | rfl | rfl | rfl | rfl | rfl | rfl | rfl | rfl | rfl | rfl | rfl | rfl | rfl <;> rfl
  · rw [readSys_unassigned s known, lookup_none (by rw [keys_sysWords]; exact known)]

/-- The table with another word for one register. -/
def putWord (n : Nat) (w : Word) (l : List (Nat × Word)) : List (Nat × Word) := l.map fun p => if p.1 = n then (n, w) else p

theorem lookup_putWord_same {n : Nat} (w : Word) {l : List (Nat × Word)} (known : n ∈ l.map Prod.fst) :
    (putWord n w l).lookup n = some w := by
  induction l with
  | nil => exact absurd known List.not_mem_nil
  | cons p l ih =>
    rw [putWord, List.map_cons, List.lookup_cons]
    by_cases first : p.1 = n
    · rw [if_pos first]
      simp
    · rw [if_neg first, beq_eq_false_iff_ne.mpr (Ne.symm first)]
      exact ih (by simpa [Ne.symm first] using known)

theorem lookup_putWord_other {n k : Nat} (w : Word) (l : List (Nat × Word)) (other : k ≠ n) : (putWord n w l).lookup k = l.lookup k := by
  induction l with
  | nil => rfl
  | cons p l ih =>
    rw [putWord, List.map_cons, List.lookup_cons, List.lookup_cons]
    by_cases first : p.1 = n
    · rw [if_pos first, first, beq_eq_false_iff_ne.mpr other]
      exact ih
    · rw [if_neg first]
      split
      · rfl
      · exact ih

/-- MTS of register `n` with `v` makes it read `w`, and leaves every other register as it was. -/
def Writes (n : Nat) (v w : Word) (s : State) : Prop :=
  readSys (writeSys n v s) n = some w ∧ ∀ k, k ≠ n → readSys (writeSys n v s) k = readSys s k

theorem writes_of_table {n : Nat} {v w : Word} {s : State} (known : n ∈ assigned)
    (table : sysWords (writeSys n v s) = putWord n w (sysWords s)) : Writes n v w s := by
  refine ⟨?_, fun k other => ?_⟩
  · rw [readSys_eq, table, lookup_putWord_same w (by rw [keys_sysWords]; exact known)]
  · rw [readSys_eq, readSys_eq, table, lookup_putWord_other w _ other]

/-- The bounds of one of the four loops of ELB0 to ELB3. -/
theorem sysWords_elb {s : State} {v : Word} {i : Nat} (below : i < 4) :
    sysWords (withSys s { s.sys with elb := s.sys.elb.set i (boundsOf v) }) = putWord (8 + i) (boundsWord (boundsOf v)) (sysWords s) := by
  have same : (s.sys.elb.set i (boundsOf v))[i] = boundsOf v := Vector.getElem_set_self below
  have other : ∀ j (inside : j < 4), i ≠ j → (s.sys.elb.set i (boundsOf v))[j] = s.sys.elb[j] := fun j inside differs =>
    Vector.getElem_set_ne below inside differs
  simp only [sysWords, withSys]
  rcases (by omega : i = 0 ∨ i = 1 ∨ i = 2 ∨ i = 3) with rfl | rfl | rfl | rfl
  · rw [same, other 1 (by decide) (by decide), other 2 (by decide) (by decide), other 3 (by decide) (by decide)]
    rfl
  · rw [same, other 0 (by decide) (by decide), other 2 (by decide) (by decide), other 3 (by decide) (by decide)]
    rfl
  · rw [same, other 0 (by decide) (by decide), other 1 (by decide) (by decide), other 3 (by decide) (by decide)]
    rfl
  · rw [same, other 0 (by decide) (by decide), other 1 (by decide) (by decide), other 2 (by decide) (by decide)]
    rfl

theorem recov_unrec (v : Word) : v.extractLsb' 32 32 ++ low32 v = v &&& 0xFFFFFFFFFFFFFFFF := by
  rw [low32_eq, append_halves, and_allOnes]

/-- The registers that read the bits of a mask as they were written, but RASI. -/
def maskedRegs : List (Nat × Word) :=
  [(0x02, 0xFFFFFFFF), (0x03, 0xFFFFFFFF), (0x04, 0xFFFFFFFFFFFFFFFF), (0x05, 0xFFFFFFFF), (0x07, 0x80000000007FFFC0),
   (0x0D, 0x3F), (0x0E, 0xFFFFFFFFFFFFFFFF), (0x15, 0xFFFF), (0x16, 0xFF7FFFF8), (0x18, 0xFFFFFFFF),
   (0x19, 0x87FFFFEFFFFFFFFF), (0x1D, 0xFFFFFFFF000000FF), (0x20, 0xFFFF),
   (0x21, 0x1FFFF), (0x27, 0xFFFFFFFF), (0x01, 0xFFFFFFFF0000733F), (0x06, 0xFFFFFFFF0000000F), (0x08, 0xFFFFFFFFFFFFFFFF),
   (0x09, 0xFFFFFFFFFFFFFFFF), (0x0A, 0xFFFFFFFFFFFFFFFF), (0x0B, 0xFFFFFFFFFFFFFFFF)]

theorem writes_masked (v : Word) (s : State) : ∀ m ∈ maskedRegs, Writes m.1 v (v &&& m.2) s := by
  have low := word32_low32 v
  have whole := and_allOnes v
  have elb {i : Nat} (below : i < 4) (writes : writeSys (8 + i) v s = withSys s { s.sys with elb := s.sys.elb.set i (boundsOf v) })
      (known : 8 + i ∈ assigned) : Writes (8 + i) v (v &&& 0xFFFFFFFFFFFFFFFF) s :=
    writes_of_table known (by rw [writes, sysWords_elb below, boundsWord_boundsOf])
  simp only [maskedRegs, List.forall_mem_cons, List.not_mem_nil, false_imp_iff, implies_true, and_true]
  refine ⟨?epc, ?tvec, ?faddr, ?etgt, ?tcut, ?flags, ?counters, ?ssgrp, ?ytab, ?lattol, ?rasb, ?prgix, ?grpid, ?grpn, ?selftest, ?cause,
    ?exstat, elb (i := 0) (by decide) rfl (by decide), elb (i := 1) (by decide) rfl (by decide), elb (i := 2) (by decide) rfl (by decide),
    elb (i := 3) (by decide) rfl (by decide)⟩
  case epc => exact writes_of_table (by decide) (by rw [← low]; rfl)
  case tvec => exact writes_of_table (by decide) (by rw [← low]; rfl)
  case faddr => exact writes_of_table (by decide) (by rw [whole]; rfl)
  case etgt => exact writes_of_table (by decide) (by rw [← low]; rfl)
  case tcut => exact writes_of_table (by decide) rfl
  case flags => exact writes_of_table (by decide) (by rw [← setWidth_setWidth v 6 (by decide) rfl]; rfl)
  case counters => exact writes_of_table (by decide) (by rw [← recov_unrec]; rfl)
  case ssgrp => exact writes_of_table (by decide) (by rw [← setWidth_setWidth v 16 (by decide) rfl]; rfl)
  case ytab => exact writes_of_table (by decide) rfl
  case lattol => exact writes_of_table (by decide) (by rw [← low]; rfl)
  case rasb => exact writes_of_table (by decide) rfl
  case prgix => exact writes_of_table (by decide) rfl
  case grpid => exact writes_of_table (by decide) (by rw [← setWidth_setWidth v 16 (by decide) rfl]; rfl)
  case grpn => exact writes_of_table (by decide) (by rw [← setWidth_setWidth v 17 (by decide) rfl]; rfl)
  case selftest => exact writes_of_table (by decide) (by rw [← low]; rfl)
  case cause => exact writes_of_table (by decide) (by rw [← causeWord_causeOf]; rfl)
  case exstat => exact writes_of_table (by decide) (by rw [← xstatWord_xstatOf]; rfl)

/-- RASI shows another entry of the return-address store in RASV (R91). -/
theorem writes_rasi (v : Word) (s : State) : readSys (writeSys 0x1B v s) 0x1B = some (v &&& 0xFFFFFFFFFFFFFFFF) ∧
    ∀ k, k ≠ 0x1B → k ≠ 0x1C → readSys (writeSys 0x1B v s) k = readSys s k := by
  have table : sysWords (writeSys 0x1B v s) = putWord 0x1B v (putWord 0x1C (rasvWord (writeSys 0x1B v s)) (sysWords s)) := rfl
  refine ⟨?_, fun k other notRasv => ?_⟩
  · rw [and_allOnes]
    rfl
  · rw [readSys_eq, readSys_eq, table, lookup_putWord_other _ _ other, lookup_putWord_other _ _ notRasv]

/-- The registers of which MTS writes the low bits. -/
theorem writes_fields (v : Word) (s : State) : ∀ m ∈ [((0x00 : Nat), (0x3 : Word)), (0x22, 0xFFFF), (0x23, 0xFFFFFFFF), (0x24, 0xFFFF)],
    ∀ old, readSys s m.1 = some old → Writes m.1 v ((old &&& ~~~m.2) ||| (v &&& m.2)) s := by
  simp only [List.forall_mem_cons, List.not_mem_nil, false_imp_iff, implies_true, and_true]
  refine ⟨fun old read => ?_, fun old read => ?_, fun old read => ?_, fun old read => ?_⟩ <;> cases read
  · exact writes_of_table (by decide) (by rw [← statusWord_merge]; rfl)
  · exact writes_of_table (by decide) (by rw [← grpixWord_merge]; rfl)
  · exact writes_of_table (by decide) (by rw [← gstepWord_merge]; rfl)
  · exact writes_of_table (by decide) (by rw [← gepochWord_merge]; rfl)

/-- The registers with bounds on their value. -/
theorem writes_bounded (v : Word) (s : State) :
    ∀ m ∈ [((0x17 : Nat), (1000 : Nat), (2 ^ 32 - 1 : Nat)), (0x25, 1000, 1000000000), (0x26, 1000, 2 ^ 32 - 1)],
      Writes m.1 v (BitVec.ofNat 64 (min m.2.2 (max m.2.1 (v.toNat % 2 ^ 32)))) s := by
  simp only [List.forall_mem_cons, List.not_mem_nil, false_imp_iff, implies_true, and_true]
  refine ⟨?_, ?_, ?_⟩
  · exact writes_of_table (by decide) (by rw [← word32_floor1000]; rfl)
  · exact writes_of_table (by decide) (by rw [← word32_pipexpValue]; rfl)
  · exact writes_of_table (by decide) (by rw [← word32_floor1000]; rfl)

/-! ### MTS as it acts -/

theorem mts_writes {n : Nat} {a : Reg} {i : Instr} {s : State} (arm : exec i s = mts n a s) (ready : Ready [a] true s)
    (known : readSys s n ≠ none) (allowed : s.sys.pl = true ∨ sysUser n = true ∨ sysReadOnly n = true) (free : mtsWaits n s = false)
    {u : State} (writes : writeSys n (getG s a) s = u) : exec i s = .next (finish 1 s (.done u)) := by
  have level : (!s.sys.pl && !sysUser n && !sysReadOnly n) = false := by
    rcases allowed with h | h | h <;> simp [h]
  have acts : mtsActs n a s = .done u := by
    rw [mtsActs, if_neg (by simpa [Option.isNone_iff_eq_none] using known), if_neg (by rw [level]; nofun), if_neg (by rw [free]; nofun),
      writes]
  exact (arm.trans (mts_eq n a s)).trans (issue_done ready acts)

theorem mts_unassigned {n : Nat} {a : Reg} {i : Instr} {s : State} (arm : exec i s = mts n a s) (ready : Ready [a] true s)
    (unknown : readSys s n = none) (notAhead : s.sys.spec = false) :
    exec i s = .next (trapEntry { cause := .illegal } false none s) := by
  have acts : mtsActs n a s = .trap { cause := .illegal } := if_pos (by rw [unknown]; rfl)
  exact exec_trapsWith (arm.trans (mts_eq n a s)) ready (t := { cause := .illegal }) nofun nofun rfl acts notAhead

theorem mts_stalls {n : Nat} {a : Reg} {i : Instr} {s : State} (arm : exec i s = mts n a s) (ready : Ready [a] true s)
    (known : readSys s n ≠ none) (allowed : s.sys.pl = true ∨ sysUser n = true ∨ sysReadOnly n = true) (waits : mtsWaits n s = true) :
    exec i s = .next (stallAt s) := by
  have level : (!s.sys.pl && !sysUser n && !sysReadOnly n) = false := by
    rcases allowed with h | h | h <;> simp [h]
  have acts : mtsActs n a s = .stall s := by
    rw [mtsActs, if_neg (by simpa [Option.isNone_iff_eq_none] using known), if_neg (by rw [level]; nofun), if_pos waits]
  exact exec_stalls (arm.trans (mts_eq n a s)) ready acts

/-- MFS as it acts. -/
def mfsActs (d : Reg) (r : BitVec 8) (s : State) : Res :=
  match readSys s r.toNat with
  | some v => .done (setG s d v)
  | none => .trap { cause := .illegal }

theorem exec_mfs (d : Reg) (r : BitVec 8) (s : State) : exec (.mfs d r) s = issue [d] true 1 (mfsActs d r) s := rfl

theorem mfs_reads {d : Reg} {r : BitVec 8} {s : State} {v : Word} (ready : Ready [d] true s) (read : readSys s r.toNat = some v) :
    exec (.mfs d r) s = .next (finish 1 s (.done (setG s d v))) := by
  have acts : mfsActs d r s = .done (setG s d v) := by rw [mfsActs, read]
  exact (exec_mfs d r s).trans (issue_done ready acts)

theorem mfs_unassigned {d : Reg} {r : BitVec 8} {s : State} (ready : Ready [d] true s) (unknown : readSys s r.toNat = none)
    (notAhead : s.sys.spec = false) : exec (.mfs d r) s = .next (trapEntry { cause := .illegal } false none s) := by
  have acts : mfsActs d r s = .trap { cause := .illegal } := by rw [mfsActs, unknown]
  exact exec_trapsWith (exec_mfs d r s) ready (t := { cause := .illegal }) nofun nofun rfl acts notAhead

theorem writeSys_readOnly {k : Nat} (v : Word) (s : State) (readOnly : sysReadOnly k = true) : writeSys k v s = s := by
  simp only [sysReadOnly, Bool.or_eq_true, beq_iff_eq] at readOnly
  rcases readOnly with (((((((rfl | rfl) | rfl) | rfl) | rfl) | rfl) | rfl) | rfl) <;> rfl

/-! ### RNPOOL, the return-address store and TRACEB -/

theorem mtsWaits_rnpool (s : State) : mtsWaits 0x14 s = !(poolUsed s).isEmpty := by
  simp [mtsWaits]

theorem writeRnpool_zero {v : Word} {s : State} (zero : (v.extractLsb' 0 10).toNat = 0) :
    writeRnpool v s = { s with sys := { s.sys with rnpool := 0 } } := by
  have none : v.extractLsb' 0 10 = 0 := BitVec.eq_of_toNat_eq zero
  unfold writeRnpool
  rw [none]
  rfl

/-- The pool that a word for RNPOOL names meets a valid husk. -/
def rnpoolMeets (v : Word) (s : State) : Bool :=
  huskMeets s ((0x600000 - (v.extractLsb' 0 10).toNat * 4096 : Nat) : Int) (0x600000 : Nat)

theorem writeRnpool_eq (v : Word) (s : State) : writeRnpool v s =
    if (decide (512 < (v.extractLsb' 0 10).toNat) || (v.extractLsb' 0 10 != 0 && rnpoolMeets v s)) = true then s
    else { s with sys := { s.sys with rnpool := v.extractLsb' 0 10 } } := rfl

theorem writeRnpool_large {v : Word} {s : State} (large : 512 < (v.extractLsb' 0 10).toNat) : writeRnpool v s = s := by
  rw [writeRnpool_eq]
  exact if_pos (by rw [decide_eq_true large]; rfl)

theorem writeRnpool_fits {v : Word} {s : State} (small : (v.extractLsb' 0 10).toNat ≤ 512) (apart : rnpoolMeets v s = false) :
    writeRnpool v s = { s with sys := { s.sys with rnpool := v.extractLsb' 0 10 } } := by
  rw [writeRnpool_eq, apart, Bool.and_false, Bool.or_false]
  exact if_neg (by rw [decide_eq_true_eq]; omega)

theorem writeRnpool_meets {v : Word} {s : State} (some : 0 < (v.extractLsb' 0 10).toNat) (meets : rnpoolMeets v s = true) :
    writeRnpool v s = s := by
  have notZero : (v.extractLsb' 0 10 != 0) = true := by
    rw [bne_iff_ne]
    intro zero
    rw [zero] at some
    exact absurd some (by decide)
  rw [writeRnpool_eq, meets, notZero]
  exact if_pos (Bool.or_true _)

theorem writeRasd_drops {v : Word} {s : State} (fewer : min v.toNat 16 ≤ s.strand.ras.length) : writeRasd v s =
    { s with strand := { s.strand with ras := s.strand.ras.drop (s.strand.ras.length - min v.toNat 16) } } := by
  unfold writeRasd rasDepth
  dsimp only
  split
  · rfl
  · next notFewer =>
    have same : min v.toNat 16 = s.strand.ras.length := by omega
    rw [same, Nat.sub_self]
    rfl

theorem writeRasd_fills {v : Word} {s : State} (more : s.strand.ras.length < min v.toNat 16) : writeRasd v s =
    { s with strand := { s.strand with ras := List.replicate (min v.toNat 16 - s.strand.ras.length) 0 ++ s.strand.ras } } := by
  unfold writeRasd rasDepth
  dsimp only
  rw [if_neg (by omega)]

/-- The ring that a word for TRACEB names lies where R281 allows. -/
def RingAllowed (s : State) (w : Word) : Prop :=
  256 ≤ w.toNat / 2 ^ 32 % 2 ^ 16 ∧ w.toNat / 2 ^ 6 % 2 ^ 17 * 64 + w.toNat / 2 ^ 32 % 2 ^ 16 * 64 ≤ 0x600000 ∧
    meetsPool s (w.toNat / 2 ^ 6 % 2 ^ 17 * 64 : Nat) (w.toNat / 2 ^ 6 % 2 ^ 17 * 64 + w.toNat / 2 ^ 32 % 2 ^ 16 * 64 : Nat) = false

/-- The bits of TRACEB. -/
def tracebBits (v : Word) : Word := v &&& 0xCF00FFFF007FFFC0

theorem tracebBits_en (v : Word) : (tracebBits v).getLsbD 63 = v.getLsbD 63 := by
  rw [tracebBits, BitVec.getLsbD_and]
  exact Bool.and_true _

/-- The ring that a word for TRACEB names is none. -/
def ringRefused (s : State) (w : Word) : Bool :=
  decide (bitsOf w.toNat 32 16 < 256) || decide (Config.spadBytes < bitsOf w.toNat 6 17 * 64 + bitsOf w.toNat 32 16 * 64)
    || meetsPool s (bitsOf w.toNat 6 17 * 64 : Nat) (bitsOf w.toNat 6 17 * 64 + bitsOf w.toNat 32 16 * 64 : Nat)

theorem ringRefused_iff (s : State) (w : Word) : ringRefused s w = true ↔ ¬RingAllowed s w := by
  simp only [ringRefused, RingAllowed, Bool.or_eq_true, decide_eq_true_eq, not_and_or, Nat.not_le, Bool.not_eq_false, or_assoc]
  exact Iff.rfl

theorem tracebValue_eq (s : State) (v : Word) : tracebValue s v =
    if (v.getLsbD 63 && ringRefused s (tracebBits v)) = true then tracebBits v &&& 0x7FFFFFFFFFFFFFFF else tracebBits v := by
  rw [← tracebBits_en]
  rfl

theorem tracebValue_allowed {s : State} {v : Word} (allowed : v.getLsbD 63 = false ∨ RingAllowed s (tracebBits v)) :
    tracebValue s v = tracebBits v := by
  rw [tracebValue_eq]
  refine if_neg fun refused => ?_
  rw [Bool.and_eq_true, ringRefused_iff] at refused
  obtain ⟨on, not⟩ := refused
  rcases allowed with off | fits
  · rw [off] at on
    cases on
  · exact not fits

theorem tracebValue_refused {s : State} {v : Word} (on : v.getLsbD 63 = true) (not : ¬RingAllowed s (tracebBits v)) :
    tracebValue s v = tracebBits v &&& 0x7FFFFFFFFFFFFFFF := by
  rw [tracebValue_eq]
  exact if_pos (by rw [on, (ringRefused_iff s _).mpr not]; rfl)

/-- MTS to RNPOOL and to XSTAT (R163, R80). -/
theorem userRegisters (s : State) (a : Reg) (ready : Ready [a] true s) :
    let is (i : Instr) (u : State) : Prop := exec i s = .next (finish 1 s (.done u))
    let v := getG s a
    (poolUsed s = [] → (v.extractLsb' 0 10).toNat = 0 →
      is (.rnpoolWrite a) { s with sys := { s.sys with rnpool := 0 } }) ∧
    (poolUsed s = [] → 512 < (v.extractLsb' 0 10).toNat → is (.rnpoolWrite a) s) ∧
    (poolUsed s = [] → 0 < (v.extractLsb' 0 10).toNat → (v.extractLsb' 0 10).toNat ≤ 512 →
      (rnpoolMeets v s = false → is (.rnpoolWrite a) { s with sys := { s.sys with rnpool := v.extractLsb' 0 10 } }) ∧
      (rnpoolMeets v s = true → is (.rnpoolWrite a) s)) ∧
    (poolUsed s ≠ [] → exec (.rnpoolWrite a) s = .next (stallAt s)) ∧
    is (.xstatWrite a) (withXstat s { s.strand.xstat with
      cqo := s.strand.xstat.cqo && v.getLsbD 1, cqu := s.strand.xstat.cqu && v.getLsbD 0 }) := by
  intro is v
  have pool (free : poolUsed s = []) {u : State} (writes : writeRnpool v s = u) : is (.rnpoolWrite a) u :=
    mts_writes (n := 0x14) (a := a) rfl ready nofun (.inr (.inl rfl)) (by rw [mtsWaits_rnpool, free]; rfl) writes
  refine ⟨fun free zero => pool free (writeRnpool_zero zero), fun free large => pool free (writeRnpool_large large),
    fun free some small => ⟨fun apart => pool free (writeRnpool_fits small apart), fun meets => pool free (writeRnpool_meets some meets)⟩,
    fun used => ?_, ?_⟩
  · refine mts_stalls (n := 0x14) (a := a) rfl ready nofun (.inr (.inl rfl)) ?_
    rw [mtsWaits_rnpool, Bool.not_eq_true', List.isEmpty_eq_false_iff]
    exact used
  · exact mts_writes (n := 0x0C) (a := a) rfl ready nofun (.inr (.inl rfl)) rfl rfl

/-- MTS to ASID, RASD, RASV and TRACEB (R267, R91, R281). -/
theorem privilegedRegisters (s : State) (a : Reg) (ready : Ready [a] true s) (pl : s.sys.pl = true) :
    let is (i : Instr) (u : State) : Prop := exec i s = .next (finish 1 s (.done u))
    let v := getG s a
    (tkc s = 0 → ldc s = 0 → stc s = 0 → cpc s = 0 → s.mem.replay = [] → is (.asidWrite a) (writeAsid v s)) ∧
    is (.rasdWrite a) (writeRasd v s) ∧ is (.rasvWrite a) (writeRasv v s) ∧ is (.tracebWrite a) (writeTraceb v s) := by
  intro is v
  refine ⟨fun noRecords noLoads noStores noCopies noParked => ?_, ?_, ?_, ?_⟩
  · refine mts_writes (n := 0x12) (a := a) rfl ready nofun (.inl pl) ?_ rfl
    simp [mtsWaits, noRecords, noLoads, noStores, noCopies, noParked]
  · exact mts_writes (n := 0x1A) (a := a) rfl ready nofun (.inl pl) rfl rfl
  · exact mts_writes (n := 0x1C) (a := a) rfl ready nofun (.inl pl) rfl rfl
  · exact mts_writes (n := 0x28) (a := a) rfl ready nofun (.inl pl) rfl rfl

/-- Settles O45: the table of the registers, MTS as it acts, and the registers that write more than their own bits. -/
theorem specialRegisters : Obligations.SpecialRegisters := by
  intro s d a r n masks fields bounded alone
  refine ⟨fun ready => ⟨fun v read => mfs_reads ready read, fun unknown notAhead => mfs_unassigned ready unknown notAhead⟩,
    fun ready => ⟨fun unknown notAhead => mts_unassigned rfl ready unknown notAhead,
      fun known free allowed => mts_writes rfl ready known allowed free rfl⟩,
    fun m member v => ?_, fun m member v old read => writes_fields v s m member old read, fun m member v => writes_bounded v s m member,
    fun k v readOnly => writeSys_readOnly v s readOnly, ?_, fun ready => userRegisters s a ready, fun ready pl => ?_⟩
  · have split : m ∈ maskedRegs ∨ m = (0x1B, 0xFFFFFFFFFFFFFFFF) := by
      simp only [masks, maskedRegs, List.mem_cons, List.not_mem_nil, or_false] at member ⊢
      tauto
    rcases split with masked | rfl
    · obtain ⟨reads, others⟩ := writes_masked v s m masked
      exact ⟨reads, fun k other _ => others k other⟩
    · obtain ⟨reads, others⟩ := writes_rasi v s
      exact ⟨reads, fun k other notRasv => others k other (notRasv rfl)⟩
  · simp only [List.forall_mem_cons, List.not_mem_nil, false_imp_iff, implies_true, and_true]
    exact ⟨rfl, rfl, rfl, rfl, rfl, rfl⟩
  · intro is v zeros
    obtain ⟨asid, rasd, rasv, traceb⟩ := privilegedRegisters s a ready pl
    refine ⟨asid, ⟨fun fewer => ?_, fun more => ?_⟩, fun inside => ?_, fun beyond => ?_, fun allowed => ?_, fun on not => ?_⟩
    · rw [writeRasd_drops fewer] at rasd
      exact rasd
    · rw [writeRasd_fills more] at rasd
      exact rasd
    · rw [writeRasv, if_pos inside] at rasv
      exact rasv
    · rw [writeRasv, if_neg (Nat.not_lt.mpr beyond)] at rasv
      exact rasv
    · rw [writeTraceb, tracebValue_allowed allowed] at traceb
      exact traceb
    · rw [writeTraceb, tracebValue_refused on not] at traceb
      exact traceb

end Sys2Proof.Machine
end

section
/-! What accesses of memory leave alone (spec/14_die.md): translations, their requests, the bits of a leaf, and write-backs of husks
change the memory system and the power states that requests end, and nothing else. -/

namespace Sys2Proof.Machine

/-- From `s` to `t` only the memory system and the power states in force differ, and memory keeps its canonical form. -/
structure OnlyMemory (s t : State) : Prop where
  same : t = { s with pkg := { s.pkg with gated := t.pkg.gated }, mem := t.mem }
  wf : memWf s.mem.mem → memWf t.mem.mem

theorem OnlyMemory.refl (s : State) : OnlyMemory s s := ⟨rfl, id⟩

theorem OnlyMemory.trans {s t u : State} (h : OnlyMemory s t) (k : OnlyMemory t u) : OnlyMemory s u :=
  ⟨by rw [k.same, h.same], fun wf => k.wf (h.wf wf)⟩

theorem OnlyMemory.strand {s t : State} (h : OnlyMemory s t) : t.strand = s.strand := by rw [h.same]
theorem OnlyMemory.sys {s t : State} (h : OnlyMemory s t) : t.sys = s.sys := by rw [h.same]
theorem OnlyMemory.store {s t : State} (h : OnlyMemory s t) : t.store = s.store := by rw [h.same]
theorem OnlyMemory.thatch {s t : State} (h : OnlyMemory s t) : t.thatch = s.thatch := by rw [h.same]
theorem OnlyMemory.fab {s t : State} (h : OnlyMemory s t) : t.fab = s.fab := by rw [h.same]
theorem OnlyMemory.grp {s t : State} (h : OnlyMemory s t) : t.grp = s.grp := by rw [h.same]
theorem OnlyMemory.prof {s t : State} (h : OnlyMemory s t) : t.prof = s.prof := by rw [h.same]

theorem OnlyAsked.onlyMemory {s t : State} (h : OnlyAsked s t) : OnlyMemory s t := by
  unfold OnlyAsked at h
  refine ⟨?_, fun wf => ?_⟩ <;> rw [h]
  exact wf

theorem onlyMemory_memWrite (ws : List ByteWrite) (s : State) : OnlyMemory s (memWrite ws s) := ⟨rfl, memWrite_wf ws s⟩

theorem onlyMemory_requestAt (pa : Nat) (s : State) : OnlyMemory s (requestAt pa s) := (requestAt_onlyAsked pa s).onlyMemory

/-- What else stands in the memory system may change at will. -/
theorem onlyMemory_of_mem {s t : State} (same : t = { s with mem := t.mem }) (mem : t.mem.mem = s.mem.mem) : OnlyMemory s t := by
  refine ⟨?_, fun wf => by rw [mem]; exact wf⟩
  rw [same]

theorem onlyMemory_setPte (a : Nat) (f : Nat → Nat) (s : State) : OnlyMemory s (setPte a f s) :=
  (onlyMemory_requestAt a s).trans (onlyMemory_memWrite _ _)

theorem onlyMemory_putTlb (map : Bool) (t : Tlb) (s : State) : OnlyMemory s (putTlb map t s) := by
  unfold putTlb
  split <;> exact onlyMemory_of_mem rfl rfl

theorem onlyMemory_markDirty (leaf : Option Nat) (s : State) : OnlyMemory s (markDirty leaf s) := by
  unfold markDirty
  split
  · exact .refl s
  · split
    · exact .refl s
    · exact (onlyMemory_setPte _ _ s).trans (onlyMemory_of_mem rfl rfl)

theorem onlyMemory_invalidate (p : Tlb → Bool) (s : State) : OnlyMemory s (invalidate p s) := onlyMemory_of_mem rfl rfl

theorem onlyMemory_foldl {α : Type} {f : State → α → State} (each : ∀ s x, OnlyMemory s (f s x)) (l : List α) (s : State) :
    OnlyMemory s (l.foldl f s) := by
  induction l generalizing s with
  | nil => exact .refl s
  | cons x t ih => exact (each s x).trans (ih (f s x))

/-! ### Translation -/

theorem tlbUse_ok {t : Tlb} {va kind : Nat} {s u : State} {pa : Nat} {mig sw : Bool} {leaf : Option Nat}
    (ok : tlbUse t va kind s = .ok pa mig sw leaf u) : u = s := by
  simp only [tlbUse] at ok
  split at ok
  · cases ok
  · split at ok
    · cases ok
    · revert ok
      generalize (kindWrites kind && _) = unreached
      cases unreached <;> intro ok <;> cases ok
      rfl

theorem onlyMemory_mapUnit {asid : BitVec 13} {e : SegEntry} {va : Nat} {s u : State} {t : Tlb} (ok : mapUnit asid e va s = .ok (t, u)) :
    OnlyMemory s u := by
  unfold mapUnit at ok
  split at ok
  · cases ok
    exact .refl s
  · split at ok
    · cases ok
    · cases ok
      exact (tableRequests_onlyAsked e va s).onlyMemory.trans (onlyMemory_putTlb true _ _)

theorem onlyMemory_xlate {map : Bool} {asid : BitVec 13} {va kind : Nat} {s u : State} {pa : Nat} {mig sw : Bool} {leaf : Option Nat}
    (ok : xlate map asid va kind s = .ok pa mig sw leaf u) : OnlyMemory s u := by
  have page {e : SegEntry} (ok : xlatePage map asid e va kind s = .ok pa mig sw leaf u) : OnlyMemory s u := by
    unfold xlatePage at ok
    split at ok
    · rw [tlbUse_ok ok]
      exact .refl s
    · split at ok
      · cases ok
      · next mapped =>
        rw [tlbUse_ok ok]
        split
        · exact onlyMemory_mapUnit mapped
        · exact (onlyMemory_mapUnit mapped).trans (onlyMemory_putTlb false _ _)
  unfold xlate at ok
  split at ok
  · cases ok
  · split at ok
    · cases ok
    · split at ok
      · cases ok
      · split at ok
        · cases ok
        · exact page ok

theorem onlyMemory_check {addr : Word} {size kind : Nat} {s u : State} {pa : Nat} {mig sw : Bool} {leaf : Option Nat}
    (ok : check addr size kind s = .mem pa mig sw leaf u) : OnlyMemory s u := by
  unfold check at ok
  dsimp only at ok
  split at ok
  · split at ok
    · cases ok
    · split at ok
      · cases ok
      · split at ok <;> cases ok
  · split at ok
    · cases ok
    · split at ok
      · cases ok
      · split at ok
        · split at ok <;> cases ok
        · next translated =>
          split at ok
          · cases ok
          · split at ok
            · cases ok
            · cases ok
              exact onlyMemory_xlate translated

theorem onlyMemory_engXBy {req : Nat → State → State} (asks : ∀ pa s, OnlyMemory s (req pa s)) {va kind : Nat} {s u : State} {pa : Nat}
    {leaf : Option Nat} (ok : engXBy req va kind s = .ok pa leaf u) : OnlyMemory s u := by
  unfold engXBy at ok
  split at ok
  · cases ok
  · split at ok
    · split at ok <;> cases ok
    · next translated =>
      split at ok
      · cases ok
      · split at ok
        · cases ok
        · split at ok
          · cases ok
          · cases ok
            exact (onlyMemory_xlate translated).trans (asks _ _)

theorem onlyMemory_engX {va kind : Nat} {s u : State} {pa : Nat} {leaf : Option Nat} (ok : engX va kind s = .ok pa leaf u) :
    OnlyMemory s u := onlyMemory_engXBy onlyMemory_requestAt ok

theorem onlyMemory_storeMem (pa n : Nat) (v : Word) (leaf : Option Nat) (s : State) : OnlyMemory s (storeMem pa n v leaf s) :=
  (onlyMemory_markDirty leaf s).trans (onlyMemory_memWrite _ _)

/-! ### Husks cached from memory (R270, R271) -/

theorem onlyMemory_touchPieces {kind : Nat} {ps : List Piece} {s u : State} (ok : touchPieces kind ps s = .ok u) : OnlyMemory s u := by
  induction ps generalizing s with
  | nil =>
    cases ok
    exact .refl _
  | cons p ps ih =>
    unfold touchPieces at ok
    split at ok
    · cases ok
    · cases ok
    · next translated =>
      split at ok
      · cases ok
      · exact (onlyMemory_engX translated).trans (ih ok)

theorem onlyMemory_scatterAll (h : Husk) (js : List Nat) (s : State) : OnlyMemory s (scatterAll h js s) :=
  (onlyMemory_foldl (f := fun s (w : ByteWrite × Option Nat) => markDirty w.2 s) (fun s w => onlyMemory_markDirty w.2 s) _ s).trans (onlyMemory_memWrite _ _)

theorem writeBack_ok {n : Nat} {s u : State} (ok : writeBack n s = .ok u) :
    ∃ t, OnlyMemory s t ∧ u = settleBlocks n false t := by
  unfold writeBack at ok
  dsimp only at ok
  split at ok
  · cases ok
  · next touched =>
    cases ok
    exact ⟨_, (onlyMemory_touchPieces touched).trans (onlyMemory_scatterAll _ _ _), rfl⟩

theorem dirtyBytes_congr {s t : State} (same : t.store = s.store) (n : Nat) : dirtyBytes t n = dirtyBytes s n := by
  unfold dirtyBytes getHusk
  rw [same]

theorem dirtyUnits_clean (b : Block) : dirtyUnits { b with dirty := 0 } = [] := by simp [dirtyUnits]

/-- A husk that has been written back has nothing dirty, and every other one what it had. -/
theorem dirtyBytes_settleBlocks (n m : Nat) (s : State) :
    dirtyBytes (settleBlocks n false s) m = if m = n then [] else dirtyBytes s m := by
  unfold dirtyBytes
  show List.flatMap _ (List.filter _ (s.store.blocks.filterMap fun b =>
    if b.1 / 2048 = n then (if false = true then none else some (b.1, { b.2 with dirty := 0 })) else some b)) = _
  generalize s.store.blocks = blocks
  induction blocks with
  | nil => exact (ite_self _).symm
  | cons b blocks ih =>
    by_cases settled : b.1 / 2048 = n
    · rw [List.filterMap_cons, if_pos settled, if_neg nofun]
      dsimp only
      by_cases this : b.1 / 2048 = m
      · rw [List.filter_cons_of_pos (by simpa using this), List.flatMap_cons, ih, if_pos (this.symm.trans settled),
          if_pos (this.symm.trans settled), List.append_nil]
        exact (congrArg (List.flatMap _) (dirtyUnits_clean b.2)).trans rfl
      · rw [List.filter_cons_of_neg (by simpa using this), ih, List.filter_cons_of_neg (by simpa using this)]
    · rw [List.filterMap_cons, if_neg settled]
      dsimp only
      by_cases this : b.1 / 2048 = m
      · have differs : m ≠ n := fun same => settled (this.trans same)
        rw [if_neg differs] at ih ⊢
        rw [List.filter_cons_of_pos (by simpa using this), List.flatMap_cons, ih, List.filter_cons_of_pos (by simpa using this),
          List.flatMap_cons]
        rfl
      · rw [List.filter_cons_of_neg (by simpa using this), ih, List.filter_cons_of_neg (by simpa using this)]

/-- From `s` to `t` only memory and the states of the cache's blocks differ, and nothing has become dirty. -/
structure WrittenBack (s t : State) : Prop where
  strand : t.strand = s.strand
  sys : t.sys = s.sys
  thatch : t.thatch = s.thatch
  fab : t.fab = s.fab
  grp : t.grp = s.grp
  prof : t.prof = s.prof
  store : t.store = { s.store with blocks := t.store.blocks }
  wf : memWf s.mem.mem → memWf t.mem.mem
  clean : ∀ n, dirtyBytes s n = [] → dirtyBytes t n = []

theorem WrittenBack.refl (s : State) : WrittenBack s s := ⟨rfl, rfl, rfl, rfl, rfl, rfl, rfl, id, fun _ => id⟩

theorem WrittenBack.trans {s t u : State} (h : WrittenBack s t) (k : WrittenBack t u) : WrittenBack s u where
  strand := k.strand.trans h.strand
  sys := k.sys.trans h.sys
  thatch := k.thatch.trans h.thatch
  fab := k.fab.trans h.fab
  grp := k.grp.trans h.grp
  prof := k.prof.trans h.prof
  store := by rw [k.store, h.store]
  wf := fun wf => k.wf (h.wf wf)
  clean := fun n clean => k.clean n (h.clean n clean)

theorem writtenBack_of_writeBack {n : Nat} {s u : State} (ok : writeBack n s = .ok u) : WrittenBack s u ∧ dirtyBytes u n = [] := by
  obtain ⟨t, memory, rfl⟩ := writeBack_ok ok
  have dirty := fun m => dirtyBytes_settleBlocks n m t
  refine ⟨⟨memory.strand, memory.sys, memory.thatch, memory.fab, memory.grp, memory.prof, ?_, memory.wf, fun m clean => ?_⟩, ?_⟩
  · have settled : (settleBlocks n false t).store = { t.store with blocks := (settleBlocks n false t).store.blocks } := rfl
    rw [settled, memory.store]
  · rw [dirty m, dirtyBytes_congr memory.store, clean]
    exact ite_self _
  · rw [dirty n, if_pos rfl]

theorem writtenBack_of_writeBackAll {ns : List Nat} {s v : State} {k : Nat} (done : writeBackAll ns s = (k, none, v)) :
    WrittenBack s v ∧ k = ns.length ∧ ∀ n ∈ ns, dirtyBytes v n = [] := by
  induction ns generalizing s k with
  | nil =>
    cases done
    exact ⟨.refl _, rfl, nofun⟩
  | cons n ns ih =>
    unfold writeBackAll at done
    split at done
    · cases done
    · next first =>
      obtain ⟨written, clean⟩ := writtenBack_of_writeBack first
      dsimp only at done
      injection done with count rest
      obtain ⟨written', count', clean'⟩ := ih (k := (writeBackAll ns _).1) (Prod.ext rfl rest)
      refine ⟨written.trans written', count.symm.trans (congrArg (· + 1) count'), fun m member => ?_⟩
      rcases List.mem_cons.mp member with rfl | later
      · exact written'.clean m clean
      · exact clean' m later

theorem dirtyHusks_nil {s : State} {ns : List Nat} (clean : ∀ n ∈ ns, dirtyBytes s n = []) : dirtyHusks s ns = [] := by
  unfold dirtyHusks
  rw [List.filter_eq_nil_iff]
  intro n member
  rw [clean n member]
  nofun

/-- Behind a write-back of husks none of them has anything to write back. -/
theorem writeBackAll_dirtyHusks {ns : List Nat} {s v : State} {k : Nat} (done : writeBackAll (dirtyHusks s ns) s = (k, none, v)) :
    WrittenBack s v ∧ k = (dirtyHusks s ns).length ∧ ∀ n ∈ ns, dirtyBytes v n = [] := by
  obtain ⟨written, count, clean⟩ := writtenBack_of_writeBackAll done
  refine ⟨written, count, fun n member => ?_⟩
  by_cases dirty : dirtyBytes s n = []
  · exact written.clean n dirty
  · exact clean n (List.mem_filter.mpr ⟨member, by simpa using dirty⟩)

end Sys2Proof.Machine
end

section
/-! Entry consistency (spec/13_cluster.md R272 to R277): ACQ, REL, BIND and UNBIND. -/

namespace Sys2Proof.Machine

/-! ### The object of a form -/

section Objects

variable {s u : State} {a : Reg} {pa : Nat} {leaf : Option Nat} {reads mig sw : Bool} {f : Nat → Option Nat → State → Res}

theorem withObject_spad (spad : (getG s a).getLsbD 63 = true) : withObject reads a s f = .trap (checkTrap .seg (getG s a) 2) := by
  unfold withObject
  exact if_pos spad

variable (mem : (getG s a).getLsbD 63 = false)
include mem

theorem withObject_bad {c : Cause} (bad : check (getG s a) 8 2 s = .bad c) :
    withObject reads a s f = .trap (accessTrap c (getG s a) 2) := by
  unfold withObject
  dsimp only
  rw [if_neg (by rw [mem]; nofun), bad]

theorem withObject_held (held : check (getG s a) 8 2 s = .held) : withObject reads a s f = .stall s := by
  unfold withObject
  dsimp only
  rw [if_neg (by rw [mem]; nofun), held]

theorem withObject_swept (ok : check (getG s a) 8 2 s = .mem pa mig true leaf u) :
    withObject reads a s f = .stall (raisePage (getG s a).toNat u) := by
  unfold withObject
  dsimp only
  rw [if_neg (by rw [mem]; nofun), ok]
  rfl

theorem withObject_waits (ok : check (getG s a) 8 2 s = .mem pa mig false leaf u)
    (waits : mig = true ∨ meetsCopy s (getG s a) 8 = true ∨ pageParked s (getG s a).toNat = true ∨ s.grp.issuing ≠ []) :
    withObject reads a s f = .stall u := by
  unfold withObject
  dsimp only
  rw [if_neg (by rw [mem]; nofun), ok]
  dsimp only
  rw [if_neg nofun]
  refine if_pos ?_
  rcases waits with h | h | h | h <;> simp [h]

variable (ok : check (getG s a) 8 2 s = .mem pa false false leaf u) (noCopy : meetsCopy s (getG s a) 8 = false)
  (notParked : pageParked s (getG s a).toNat = false) (noIssuing : s.grp.issuing = [])
include ok noCopy notParked noIssuing

theorem withObject_past : withObject reads a s f = if reads && poisonedAt s (memKey (ownNode s) pa) then
    .trap { accessTrap .ue (getG s a) 2 with line := some pa } else f pa leaf u := by
  unfold withObject
  dsimp only
  rw [if_neg (by rw [mem]; nofun), ok]
  dsimp only
  rw [if_neg nofun, if_neg (by rw [noCopy, notParked, noIssuing]; nofun)]

theorem withObject_poisoned (poisoned : poisonedAt s (memKey s.sys.nodeid.toNat pa) = true) :
    withObject true a s f = .trap { accessTrap .ue (getG s a) 2 with line := some pa } := by
  rw [withObject_past mem ok noCopy notParked noIssuing]
  exact if_pos (by rw [Bool.true_and]; exact poisoned)

theorem withObject_reads (clean : poisonedAt s (memKey s.sys.nodeid.toNat pa) = false) : withObject true a s f = f pa leaf u := by
  rw [withObject_past mem ok noCopy notParked noIssuing]
  exact if_neg (by rw [Bool.true_and]; exact Bool.eq_false_iff.mp clean)

theorem withObject_names : withObject false a s f = f pa leaf u := by
  rw [withObject_past mem ok noCopy notParked noIssuing]
  exact if_neg nofun

end Objects

/-! ### Write-backs of an instruction -/

/-- The trap of an instruction whose write-back meets a cause. -/
def unwrittenTrap (c : Cause) (va : Nat) : Trap :=
  { cause := c, info := 1, faddr := some (BitVec.ofNat 64 va), access := some false }

theorem withWriteBack_written {ns : List Nat} {s v : State} {k : Nat} (written : writeBackAll (dirtyHusks s ns) s = (k, none, v))
    (f : State → Res) : withWriteBack ns s f = f v := by
  unfold withWriteBack
  rw [written]

theorem withWriteBack_refused {ns : List Nat} {s v : State} {c : Cause} {va : Nat}
    (refused : writeBackAll (dirtyHusks s ns) s = (0, some (.cause c va), v)) (f : State → Res) :
    withWriteBack ns s f = .trap (unwrittenTrap c va) := by
  unfold withWriteBack
  rw [refused]
  rfl

/-! ### ACQ and REL -/

/-- The blocks of husks become invalid. -/
def emptyBlocks (ns : List Nat) (s : State) : State := ns.foldl (fun s n => settleBlocks n true s) s

theorem emptyBlocks_strand (ns : List Nat) (s : State) : (emptyBlocks ns s).strand = s.strand := by
  induction ns generalizing s with
  | nil => rfl
  | cons n ns ih => exact ih (settleBlocks n true s)

/-- ACQ of the object at `pa`. -/
def acqObject (a : Reg) (pa : Nat) (leaf : Option Nat) (s : State) : Res :=
  if objectWord s pa = ownerWord (requestAt pa s) then acqHusks a (requestAt pa s)
  else if objectWord s pa = 0 then
    heldStall (setObject pa leaf (ownerWord (requestAt pa s)) (requestAt pa s))
      (acqHusks a (setObject pa leaf (ownerWord (requestAt pa s)) (requestAt pa s)))
  else .stall (requestAt pa s)

/-- REL of the object at `pa`. -/
def relObject (sc : Scope) (a : Reg) (pa : Nat) (leaf : Option Nat) (s : State) : Res :=
  if (boundTo s (getG s a)).any (namesHusk s) then .stall s
  else withWriteBack (boundTo s (getG s a)) s (fun s =>
    if !s.mem.replay.isEmpty || !releaseReady sc s then .stall s
    else if objectWord s pa = ownerWord s then .done (setObject pa leaf 0 (requestAt pa s))
    else .done (requestAt pa s))

theorem exec_acq (sc : Scope) (a : Reg) (s : State) :
    exec (.acq sc a) s = issue [a] true 1 (fun s => withObject true a s (acqObject a)) s := rfl

theorem exec_rel (sc : Scope) (a : Reg) (s : State) :
    exec (.rel sc a) s = issue [a] true 1 (fun s => withObject true a s (relObject sc a)) s := rfl

section Husks

variable {t v : State} {a : Reg} {k : Nat}

theorem acqHusks_named (named : (boundTo t (getG t a)).any (namesHusk t) = true) : acqHusks a t = .stall t := by
  unfold acqHusks
  exact if_pos named

variable (free : (boundTo t (getG t a)).any (namesHusk t) = false)
include free

theorem acqHusks_free : acqHusks a t = withWriteBack (boundTo t (getG t a)) t (fun s =>
    if ldc (emptyBlocks (boundTo t (getG t a)) s) = 0 then .done (emptyBlocks (boundTo t (getG t a)) s)
    else .stall (emptyBlocks (boundTo t (getG t a)) s)) := by
  unfold acqHusks
  exact if_neg (by rw [free]; nofun)

theorem acqHusks_done (written : writeBackAll (dirtyHusks t (boundTo t (getG t a))) t = (k, none, v)) (noLoads : v.strand.loads = []) :
    acqHusks a t = .done (emptyBlocks (boundTo t (getG t a)) v) := by
  rw [acqHusks_free free, withWriteBack_written written]
  exact if_pos (by rw [ldc, emptyBlocks_strand, noLoads]; rfl)

theorem acqHusks_loads (written : writeBackAll (dirtyHusks t (boundTo t (getG t a))) t = (k, none, v)) (loads : v.strand.loads ≠ []) :
    acqHusks a t = .stall (emptyBlocks (boundTo t (getG t a)) v) := by
  rw [acqHusks_free free, withWriteBack_written written]
  exact if_neg (by rw [ldc, emptyBlocks_strand, List.length_eq_zero_iff]; exact loads)

theorem acqHusks_refused {c : Cause} {va : Nat}
    (refused : writeBackAll (dirtyHusks t (boundTo t (getG t a))) t = (0, some (.cause c va), v)) :
    acqHusks a t = .trap (unwrittenTrap c va) := by
  rw [acqHusks_free free, withWriteBack_refused refused]

end Husks

/-- ACQ of an object with no bound husk. -/
theorem acqHusks_alone {t : State} {a : Reg} (none : boundTo t (getG t a) = []) (noLoads : t.strand.loads = []) :
    acqHusks a t = .done t := by
  have acts := acqHusks_done (t := t) (v := t) (a := a) (k := 0) (by rw [none]; rfl) (by rw [none]; rfl) noLoads
  rw [none] at acts
  exact acts

section Object

variable {u : State} {a : Reg} {pa : Nat} {leaf : Option Nat} {sc : Scope}

theorem ownerWord_requestAt : ownerWord (requestAt pa u) = ownerWord u := by
  unfold ownerWord
  rw [(onlyMemory_requestAt pa u).sys]

theorem acqObject_owned (owned : objectWord u pa = ownerWord u) : acqObject a pa leaf u = acqHusks a (requestAt pa u) := by
  rw [acqObject, ownerWord_requestAt]
  exact if_pos owned

theorem ownerWord_ne_zero (s : State) : ownerWord s ≠ 0 := by
  intro zero
  have top := congrArg BitVec.toNat zero
  have node := s.sys.nodeid.isLt
  have core := s.sys.coreid.isLt
  rw [ownerWord, BitVec.toNat_ofNat, Nat.mod_eq_of_lt (by omega)] at top
  have : (0 : Word).toNat = 0 := rfl
  omega

theorem acqObject_free (free : objectWord u pa = 0) : acqObject a pa leaf u =
    heldStall (setObject pa leaf (ownerWord (requestAt pa u)) (requestAt pa u))
      (acqHusks a (setObject pa leaf (ownerWord (requestAt pa u)) (requestAt pa u))) := by
  rw [acqObject, free, if_neg (ownerWord_ne_zero _).symm, if_pos rfl]

theorem acqObject_other (notFree : objectWord u pa ≠ 0) (notOwned : objectWord u pa ≠ ownerWord u) :
    acqObject a pa leaf u = .stall (requestAt pa u) := by
  rw [acqObject, ownerWord_requestAt, if_neg notOwned, if_neg notFree]

theorem acqOwned (owned : objectWord u pa = ownerWord u) {r : Res} (acts : acqHusks a (requestAt pa u) = r) :
    acqObject a pa leaf u = r := (acqObject_owned owned).trans acts

theorem acqFree (free : objectWord u pa = 0) {r : Res} (plain : ∃ v, r = Res.done v ∨ r = .stall v)
    (acts : acqHusks a (setObject pa leaf (ownerWord (requestAt pa u)) (requestAt pa u)) = r) : acqObject a pa leaf u = r := by
  rw [acqObject_free free, acts]
  obtain ⟨v, rfl | rfl⟩ := plain <;> rfl

theorem relObject_named (named : (boundTo u (getG u a)).any (namesHusk u) = true) : relObject sc a pa leaf u = .stall u := by
  unfold relObject
  exact if_pos named

variable (free : (boundTo u (getG u a)).any (namesHusk u) = false)
include free

theorem relObject_free : relObject sc a pa leaf u = withWriteBack (boundTo u (getG u a)) u (fun s =>
    if !s.mem.replay.isEmpty || !releaseReady sc s then .stall s
    else if objectWord s pa = ownerWord s then .done (setObject pa leaf 0 (requestAt pa s))
    else .done (requestAt pa s)) := by
  unfold relObject
  exact if_neg (by rw [free]; nofun)

variable {v : State} {k : Nat} (written : writeBackAll (dirtyHusks u (boundTo u (getG u a))) u = (k, none, v))
include written

theorem relObject_waits (waits : v.mem.replay ≠ [] ∨ releaseReady sc v = false) : relObject sc a pa leaf u = .stall v := by
  rw [relObject_free free, withWriteBack_written written]
  refine if_pos ?_
  rcases waits with h | h <;> simp [h]

variable (noParked : v.mem.replay = []) (ready : releaseReady sc v = true)
include noParked ready

theorem relObject_owned (owned : objectWord v pa = ownerWord v) :
    relObject sc a pa leaf u = .done (setObject pa leaf 0 (requestAt pa v)) := by
  rw [relObject_free free, withWriteBack_written written, if_neg (by rw [noParked, ready]; nofun), if_pos owned]

theorem relObject_other (notOwned : objectWord v pa ≠ ownerWord v) : relObject sc a pa leaf u = .done (requestAt pa v) := by
  rw [relObject_free free, withWriteBack_written written, if_neg (by rw [noParked, ready]; nofun), if_neg notOwned]

end Object

/-! ### BIND and UNBIND -/

/-- A husk that is bound to an object behind its write-back. -/
def bindsTo (key n : Nat) (v : State) : State :=
  { markBound n key true (settleBlocks n true v) with
    store := { (markBound n key true (settleBlocks n true v)).store with
      bindings := (markBound n key true (settleBlocks n true v)).store.bindings ++ [(key, n)] } }

/-- A husk that is bound no more. -/
def unbinds (n : Nat) (v : State) : State :=
  { markBound n 0 false v with
    store := { (markBound n 0 false v).store with bindings := (markBound n 0 false v).store.bindings.filter (fun x => x.2 != n) } }

/-- BIND of husk `n`. -/
def bindHusk (a : Reg) (n : Nat) (s : State) : Res :=
  if hkBnd (getHusk s n) && hkObj (getHusk s n) == objKey (getG s a) then .done s
  else if hkBnd (getHusk s n) || decide (64 ≤ s.store.bindings.length) || decide (16 ≤ (boundTo s (getG s a)).length) then huskbad
  else withWriteBack [n] s (fun v => .done (bindsTo (objKey (getG s a)) n v))

/-- UNBIND of husk `n`. -/
def unbindHusk (a : Reg) (n : Nat) (s : State) : Res :=
  if !(hkBnd (getHusk s n) && hkObj (getHusk s n) == objKey (getG s a)) then huskbad
  else withWriteBack [n] s (fun v => .done (unbinds n v))

/-- BIND and UNBIND check the husk first. -/
def checkedHusk (f : Nat → State → Res) (n : Nat) (s : State) : Res :=
  if !bindable s n then huskbad else if namesHusk s n then .stall s else f n s

theorem exec_bind (a b : Reg) (s : State) : exec (.bind a b) s =
    issue [a, b] true 1 (fun s => withObject false a s (fun _ _ s => checkedHusk (bindHusk a) (getG s b).toNat s)) s := rfl

theorem exec_unbind (a b : Reg) (s : State) : exec (.unbind a b) s =
    issue [a, b] true 1 (fun s => withObject false a s (fun _ _ s => checkedHusk (unbindHusk a) (getG s b).toNat s)) s := rfl

theorem bindable_iff (s : State) (n : Nat) : bindable s n = true ↔
    n ≤ 1023 ∧ hkV (getHusk s n) = true ∧ hkKind (getHusk s n) = kMem ∧ hkMc (getHusk s n) = true := by
  simp only [bindable, Bool.and_eq_true, decide_eq_true_eq, beq_iff_eq, and_assoc]

section Bindings

variable {s : State} {a : Reg} {n : Nat} {f : Nat → State → Res}

theorem checkedHusk_bad (no : ¬bindable s n = true) : checkedHusk f n s = huskbad :=
  if_pos (by rw [Bool.eq_false_iff.mpr no]; rfl)

theorem checkedHusk_named (cached : bindable s n = true) (named : namesHusk s n = true) : checkedHusk f n s = .stall s :=
  (if_neg (by rw [cached]; nofun)).trans (if_pos named)

theorem checkedHusk_free (cached : bindable s n = true) (free : namesHusk s n = false) : checkedHusk f n s = f n s :=
  (if_neg (by rw [cached]; nofun)).trans (if_neg (by rw [free]; nofun))

theorem bindHusk_bound (bound : hkBnd (getHusk s n) = true) (same : hkObj (getHusk s n) = objKey (getG s a)) :
    bindHusk a n s = .done s :=
  if_pos (by rw [bound, same, beq_self_eq_true]; rfl)

theorem bindHusk_refused (notHere : ¬(hkBnd (getHusk s n) = true ∧ hkObj (getHusk s n) = objKey (getG s a)))
    (full : hkBnd (getHusk s n) = true ∨ 64 ≤ s.store.bindings.length ∨ 16 ≤ (boundTo s (getG s a)).length) :
    bindHusk a n s = huskbad := by
  refine (if_neg ?_).trans (if_pos ?_)
  · rw [Bool.and_eq_true, beq_iff_eq]
    exact notHere
  · rcases full with h | h | h <;> simp [h]

theorem bindHusk_binds (notBound : hkBnd (getHusk s n) = false) (room : s.store.bindings.length < 64)
    (roomHere : (boundTo s (getG s a)).length < 16) :
    bindHusk a n s = withWriteBack [n] s (fun v => .done (bindsTo (objKey (getG s a)) n v)) := by
  refine (if_neg ?_).trans (if_neg ?_)
  · rw [notBound]
    nofun
  · rw [notBound, decide_eq_false (Nat.not_le.mpr room), decide_eq_false (Nat.not_le.mpr roomHere)]
    nofun

theorem unbindHusk_refused (notHere : ¬(hkBnd (getHusk s n) = true ∧ hkObj (getHusk s n) = objKey (getG s a))) :
    unbindHusk a n s = huskbad := by
  refine if_pos ?_
  rw [Bool.not_eq_true', ← Bool.not_eq_true, Bool.and_eq_true, beq_iff_eq]
  exact notHere

theorem unbindHusk_unbinds (bound : hkBnd (getHusk s n) = true) (same : hkObj (getHusk s n) = objKey (getG s a)) :
    unbindHusk a n s = withWriteBack [n] s (fun v => .done (unbinds n v)) :=
  if_neg (by rw [bound, same, beq_self_eq_true]; nofun)

end Bindings

/-! ### The outcome of an instruction that has issued -/

section Outcomes

variable {i : Instr} {regs : List Reg} {f : State → Res} {s : State} (arm : exec i s = issue regs true 1 f s) (ready : Ready regs true s)
include arm ready

theorem exec_finishes {u : State} (acts : f s = .done u) : exec i s = .next (finish 1 s (.done u)) := arm.trans (issue_done ready acts)

theorem exec_consumes {t : Trap} (notBrk : t.cause ≠ .brk) (acts : f s = .trap t) :
    exec i s = .next (trapEntry t false none (consumedBy t s)) :=
  arm.trans (issue_trap ready (notAhead_of_ready ready) (viewWaits_other s notBrk) acts)

end Outcomes

/-! ### The obligation, in its parts -/

/-- The object of a form is a doubleword of memory that nothing holds. -/
structure FreeObject (s u : State) (a : Reg) (pa : Nat) (leaf : Option Nat) : Prop where
  mem : (getG s a).getLsbD 63 = false
  ok : check (getG s a) 8 2 s = .mem pa false false leaf u
  noCopy : meetsCopy s (getG s a) 8 = false
  notParked : pageParked s (getG s a).toNat = false
  noIssuing : s.grp.issuing = []

section Parts

variable {s u : State} {a b : Reg} {sc : Scope} {pa : Nat} {leaf : Option Nat} (object : FreeObject s u a pa leaf)
include object

theorem poisonedObject (ready : Ready [a] true s) (poisoned : poisonedAt s (memKey s.sys.nodeid.toNat pa) = true) :
    ∀ i ∈ [Instr.acq sc a, .rel sc a], exec i s = .next (trapEntry
      { cause := .ue, info := 2, faddr := some (getG s a), line := some pa, access := some true } false none
      (consumed false pa (requestAt pa (missRequests true 2 (getG s a).toNat s)))) := by
  obtain ⟨mem, ok, noCopy, notParked, noIssuing⟩ := object
  have acts {f : Nat → Option Nat → State → Res} : withObject true a s f = .trap { accessTrap .ue (getG s a) 2 with line := some pa } :=
    withObject_poisoned mem ok noCopy notParked noIssuing poisoned
  simp only [List.forall_mem_cons, List.not_mem_nil, false_imp_iff, implies_true, and_true]
  exact ⟨exec_consumes (exec_acq sc a s) ready nofun acts, exec_consumes (exec_rel sc a s) ready nofun acts⟩

variable (clean : poisonedAt s (memKey s.sys.nodeid.toNat pa) = false)
include clean

/-- What ACQ answers is what it does at its object. -/
theorem acq_acts {r : Res} (acts : acqObject a pa leaf u = r) : (withObject true a s (acqObject a)) = r := by
  obtain ⟨mem, ok, noCopy, notParked, noIssuing⟩ := object
  exact (withObject_reads mem ok noCopy notParked noIssuing clean).trans acts

theorem rel_acts {r : Res} (acts : relObject sc a pa leaf u = r) : (withObject true a s (relObject sc a)) = r := by
  obtain ⟨mem, ok, noCopy, notParked, noIssuing⟩ := object
  exact (withObject_reads mem ok noCopy notParked noIssuing clean).trans acts

variable (ready : Ready [a] true s)
include ready

theorem acq_done {v : State} (acts : acqObject a pa leaf u = .done v) : exec (.acq sc a) s = .next (finish 1 s (.done v)) :=
  exec_finishes (exec_acq sc a s) ready (acq_acts object clean acts)

theorem acq_stalls {v : State} (acts : acqObject a pa leaf u = .stall v) : exec (.acq sc a) s = .next (stallAt v) :=
  exec_stalls (exec_acq sc a s) ready (acq_acts object clean acts)

theorem rel_done {v : State} (acts : relObject sc a pa leaf u = .done v) : exec (.rel sc a) s = .next (finish 1 s (.done v)) :=
  exec_finishes (exec_rel sc a s) ready (rel_acts object clean acts)

theorem rel_stalls {v : State} (acts : relObject sc a pa leaf u = .stall v) : exec (.rel sc a) s = .next (stallAt v) :=
  exec_stalls (exec_rel sc a s) ready (rel_acts object clean acts)

/-- An object with no bound husk. -/
theorem objectAlone (none : boundTo u (getG u a) = []) :
    let w := requestAt pa u
    let held := setObject pa leaf (ownerWord w) w
    (objectWord u pa = ownerWord u → u.strand.loads = [] → exec (.acq sc a) s = .next (finish 1 s (.done w))) ∧
    (objectWord u pa = 0 → u.strand.loads = [] → boundTo held (getG held a) = [] → held.strand.loads = [] →
      exec (.acq sc a) s = .next (finish 1 s (.done held))) ∧
    (u.mem.replay = [] → releaseReady sc u = true → objectWord u pa = ownerWord u →
      exec (.rel sc a) s = .next (finish 1 s (.done (setObject pa leaf 0 w)))) ∧
    (u.mem.replay = [] → releaseReady sc u = true → objectWord u pa ≠ ownerWord u →
      exec (.rel sc a) s = .next (finish 1 s (.done w))) := by
  intro w held
  have asked := onlyMemory_requestAt pa u
  have noneW : boundTo w (getG w a) = [] := by
    unfold boundTo getG
    rw [asked.store, asked.strand]
    exact none
  have free : (boundTo u (getG u a)).any (namesHusk u) = false := by rw [none]; rfl
  have written : writeBackAll (dirtyHusks u (boundTo u (getG u a))) u = (0, .none, u) := by rw [none]; rfl
  refine ⟨fun owned noLoads => ?_, fun isFree noLoads noneHeld noLoadsHeld => ?_, fun noParked released owned => ?_,
    fun noParked released other => ?_⟩
  · refine acq_done object clean ready ((acqObject_owned owned).trans (acqHusks_alone noneW ?_))
    rw [asked.strand]
    exact noLoads
  · refine acq_done object clean ready ?_
    rw [acqObject_free isFree]
    exact congrArg (heldStall held) (acqHusks_alone noneHeld noLoadsHeld)
  · exact rel_done object clean ready (relObject_owned free written noParked released owned)
  · exact rel_done object clean ready (relObject_other free written noParked released other)

/-- ACQ of an object that this core holds as `t`: what stalls and what completes. -/
theorem acqTakes {t : State} (holds : ∀ {r}, (∃ v, r = Res.done v ∨ r = .stall v) → acqHusks a t = r → acqObject a pa leaf u = r) :
    ((boundTo t (getG t a)).any (namesHusk t) = true → exec (.acq sc a) s = .next (stallAt t)) ∧
      ((boundTo t (getG t a)).any (namesHusk t) = false →
        ∀ v, (∃ k, writeBackAll (dirtyHusks t (boundTo t (getG t a))) t = (k, none, v)) →
        (v.strand.loads = [] → exec (.acq sc a) s = .next (finish 1 s (.done (emptyBlocks (boundTo t (getG t a)) v)))) ∧
        (v.strand.loads ≠ [] → exec (.acq sc a) s = .next (stallAt (emptyBlocks (boundTo t (getG t a)) v)))) := by
  refine ⟨fun named => acq_stalls object clean ready (holds ⟨_, .inr rfl⟩ (acqHusks_named named)), fun free v ⟨k, written⟩ => ⟨fun noLoads => ?_,
    fun loads => ?_⟩⟩
  · exact acq_done object clean ready (holds ⟨_, .inl rfl⟩ (acqHusks_done free written noLoads))
  · exact acq_stalls object clean ready (holds ⟨_, .inr rfl⟩ (acqHusks_loads free written loads))

/-- ACQ of an object that this core owns, or takes, with any husks bound to it. -/
theorem acqHeld :
    let w := requestAt pa u
    let held := setObject pa leaf (ownerWord w) w
    let takes (t : State) : Prop :=
      ((boundTo t (getG t a)).any (namesHusk t) = true → exec (.acq sc a) s = .next (stallAt t)) ∧
      ((boundTo t (getG t a)).any (namesHusk t) = false →
        ∀ v, (∃ k, writeBackAll (dirtyHusks t (boundTo t (getG t a))) t = (k, none, v)) →
        (v.strand.loads = [] → exec (.acq sc a) s = .next (finish 1 s (.done (emptyBlocks (boundTo t (getG t a)) v)))) ∧
        (v.strand.loads ≠ [] → exec (.acq sc a) s = .next (stallAt (emptyBlocks (boundTo t (getG t a)) v))))
    (objectWord u pa = ownerWord u → takes w ∧ ((boundTo w (getG w a)).any (namesHusk w) = false → ∀ c va, c ≠ .brk →
      (∃ v, writeBackAll (dirtyHusks w (boundTo w (getG w a))) w = (0, some (.cause c va), v)) →
      exec (.acq sc a) s = .next (trapEntry (unwrittenTrap c va) false none (consumedBy (unwrittenTrap c va) s)))) ∧
    (objectWord u pa = 0 → takes held ∧ ((boundTo held (getG held a)).any (namesHusk held) = false → ∀ c va,
      (∃ v, writeBackAll (dirtyHusks held (boundTo held (getG held a))) held = (0, some (.cause c va), v)) →
      exec (.acq sc a) s = .next (stallAt held))) := by
  intro w held takes
  refine ⟨fun owned => ⟨acqTakes object clean ready fun _ acts => acqOwned owned acts, fun free c va notBrk ⟨v, refused⟩ => ?_⟩,
    fun isFree => ⟨acqTakes object clean ready fun plain acts => acqFree isFree plain acts, fun free c va ⟨v, refused⟩ => ?_⟩⟩
  · exact exec_consumes (exec_acq sc a s) ready notBrk (acq_acts object clean (acqOwned owned (acqHusks_refused free refused)))
  · refine acq_stalls object clean ready ?_
    rw [acqObject_free isFree]
    exact congrArg (heldStall held) (acqHusks_refused free refused)

theorem relHeld :
    ((boundTo u (getG u a)).any (namesHusk u) = true → exec (.rel sc a) s = .next (stallAt u)) ∧
    ((boundTo u (getG u a)).any (namesHusk u) = false →
      (∀ c va, c ≠ .brk → (∃ v, writeBackAll (dirtyHusks u (boundTo u (getG u a))) u = (0, some (.cause c va), v)) →
        exec (.rel sc a) s = .next (trapEntry (unwrittenTrap c va) false none (consumedBy (unwrittenTrap c va) s))) ∧
      ∀ v, (∃ k, writeBackAll (dirtyHusks u (boundTo u (getG u a))) u = (k, none, v)) →
        (v.mem.replay ≠ [] ∨ releaseReady sc v = false → exec (.rel sc a) s = .next (stallAt v)) ∧
        (v.mem.replay = [] → releaseReady sc v = true →
          (objectWord v pa = ownerWord v → exec (.rel sc a) s = .next (finish 1 s (.done (setObject pa leaf 0 (requestAt pa v))))) ∧
          (objectWord v pa ≠ ownerWord v → exec (.rel sc a) s = .next (finish 1 s (.done (requestAt pa v)))))) := by
  refine ⟨fun named => rel_stalls object clean ready (relObject_named named), fun free => ⟨fun c va notBrk ⟨v, refused⟩ => ?_,
    fun v ⟨k, written⟩ => ⟨fun waits => rel_stalls object clean ready (relObject_waits free written waits), fun noParked released =>
      ⟨fun owned => rel_done object clean ready (relObject_owned free written noParked released owned),
        fun other => rel_done object clean ready (relObject_other free written noParked released other)⟩⟩⟩⟩
  have acts : relObject sc a pa leaf u = .trap (unwrittenTrap c va) := by
    rw [relObject_free free, withWriteBack_refused refused]
  exact exec_consumes (exec_rel sc a s) ready notBrk (rel_acts object clean acts)

end Parts

section BindParts

variable {s u : State} {a b : Reg} {pa : Nat} {leaf : Option Nat} (object : FreeObject s u a pa leaf)
include object

/-- What BIND or UNBIND answers is what it does at its husk. -/
theorem binding_acts {f : Nat → State → Res} {r : Res} (acts : checkedHusk f (getG u b).toNat u = r) :
    withObject false a s (fun _ _ s => checkedHusk f (getG s b).toNat s) = r := by
  obtain ⟨mem, ok, noCopy, notParked, noIssuing⟩ := object
  exact (withObject_names mem ok noCopy notParked noIssuing).trans acts

variable (ready : Ready [a, b] true s)
include ready

theorem bind_done {v : State} (acts : checkedHusk (bindHusk a) (getG u b).toNat u = .done v) :
    exec (.bind a b) s = .next (finish 1 s (.done v)) := exec_finishes (exec_bind a b s) ready (binding_acts object acts)

theorem bind_traps {t : Trap} (notBrk : t.cause ≠ .brk) (acts : checkedHusk (bindHusk a) (getG u b).toNat u = .trap t) :
    exec (.bind a b) s = .next (trapEntry t false none (consumedBy t s)) :=
  exec_consumes (exec_bind a b s) ready notBrk (binding_acts object acts)

theorem unbind_done {v : State} (acts : checkedHusk (unbindHusk a) (getG u b).toNat u = .done v) :
    exec (.unbind a b) s = .next (finish 1 s (.done v)) := exec_finishes (exec_unbind a b s) ready (binding_acts object acts)

theorem unbind_traps {t : Trap} (notBrk : t.cause ≠ .brk) (acts : checkedHusk (unbindHusk a) (getG u b).toNat u = .trap t) :
    exec (.unbind a b) s = .next (trapEntry t false none (consumedBy t s)) :=
  exec_consumes (exec_unbind a b s) ready notBrk (binding_acts object acts)

/-- BIND and UNBIND of a husk of the cache, by where it is bound. -/
theorem bindHeld :
    let n := (getG u b).toNat
    let h := getHusk u n
    let key := objKey (getG u a)
    let traps (i : Instr) (t : Trap) : Prop := exec i s = .next (trapEntry t false none (consumedBy t s))
    let done (i : Instr) (t : State) : Prop := exec i s = .next (finish 1 s (.done t))
    let written (v : State) : Prop := ∃ k, writeBackAll (dirtyHusks u [n]) u = (k, none, v)
    let refused (c : Cause) (va : Nat) : Prop := ∃ v, writeBackAll (dirtyHusks u [n]) u = (0, some (.cause c va), v)
    bindable u n = true → namesHusk u n = false →
      (hkBnd h = true → hkObj h = key → done (.bind a b) u ∧
        (∀ v, written v → done (.unbind a b) (unbinds n v) ∧ (key, n) ∉ (unbinds n v).store.bindings) ∧
        (∀ c va, c ≠ .brk → refused c va → traps (.unbind a b) (unwrittenTrap c va))) ∧
      (hkBnd h = true → hkObj h ≠ key → traps (.bind a b) { cause := .huskbad } ∧ traps (.unbind a b) { cause := .huskbad }) ∧
      (hkBnd h = false → traps (.unbind a b) { cause := .huskbad }) ∧
      (hkBnd h = false → 64 ≤ u.store.bindings.length ∨ 16 ≤ (boundTo u (getG u a)).length → traps (.bind a b) { cause := .huskbad }) ∧
      (hkBnd h = false → u.store.bindings.length < 64 → (boundTo u (getG u a)).length < 16 →
        (∀ v, written v → done (.bind a b) (bindsTo key n v)) ∧
        (∀ c va, c ≠ .brk → refused c va → traps (.bind a b) (unwrittenTrap c va))) := by
  intro n h key traps done written refused cached free
  have reaches (f : Nat → State → Res) : checkedHusk f n u = f n u := checkedHusk_free cached free
  refine ⟨fun bound same => ⟨?_, fun v ⟨k, writes⟩ => ⟨?_, ?_⟩, fun c va notBrk ⟨v, refuses⟩ => ?_⟩, fun bound other => ⟨?_, ?_⟩,
    fun notBound => ?_, fun notBound full => ?_, fun notBound room roomHere => ⟨fun v ⟨k, writes⟩ => ?_, fun c va notBrk ⟨v, refuses⟩ => ?_⟩⟩
  · exact bind_done object ready ((reaches _).trans (bindHusk_bound bound same))
  · refine unbind_done object ready ((reaches _).trans ((unbindHusk_unbinds bound same).trans ?_))
    exact withWriteBack_written writes _
  · intro member
    have kept : (key, n) ∈ (markBound n 0 false v).store.bindings.filter (fun x => x.2 != n) := member
    obtain ⟨-, differs⟩ := List.mem_filter.mp kept
    exact absurd rfl (bne_iff_ne.mp differs)
  · refine unbind_traps object ready notBrk ((reaches _).trans ((unbindHusk_unbinds bound same).trans ?_))
    exact withWriteBack_refused refuses _
  · exact bind_traps object ready (t := { cause := .huskbad }) nofun
      ((reaches _).trans (bindHusk_refused (fun ⟨_, same⟩ => other same) (.inl bound)))
  · exact unbind_traps object ready (t := { cause := .huskbad }) nofun
      ((reaches _).trans (unbindHusk_refused fun ⟨_, same⟩ => other same))
  · exact unbind_traps object ready (t := { cause := .huskbad }) nofun
      ((reaches _).trans (unbindHusk_refused fun ⟨bound, _⟩ => Bool.false_ne_true (notBound.symm.trans bound)))
  · exact bind_traps object ready (t := { cause := .huskbad }) nofun
      ((reaches _).trans (bindHusk_refused (fun ⟨bound, _⟩ => Bool.false_ne_true (notBound.symm.trans bound)) (.inr full)))
  · refine bind_done object ready ((reaches _).trans ((bindHusk_binds notBound room roomHere).trans ?_))
    exact withWriteBack_written writes _
  · refine bind_traps object ready notBrk ((reaches _).trans ((bindHusk_binds notBound room roomHere).trans ?_))
    exact withWriteBack_refused refuses _

/-- BIND and UNBIND of a husk that is none of the cache, or that a record names. -/
theorem bindChecked :
    let n := (getG u b).toNat
    (¬bindable u n = true →
      exec (.bind a b) s = .next (trapEntry { cause := .huskbad } false none (consumedBy { cause := .huskbad } s)) ∧
      exec (.unbind a b) s = .next (trapEntry { cause := .huskbad } false none (consumedBy { cause := .huskbad } s))) ∧
    (bindable u n = true → namesHusk u n = true →
      exec (.bind a b) s = .next (stallAt u) ∧ exec (.unbind a b) s = .next (stallAt u)) := by
  refine ⟨fun no => ⟨?_, ?_⟩, fun cached named => ⟨?_, ?_⟩⟩
  · exact bind_traps object ready (t := { cause := .huskbad }) nofun (checkedHusk_bad no)
  · exact unbind_traps object ready (t := { cause := .huskbad }) nofun (checkedHusk_bad no)
  · exact exec_stalls (exec_bind a b s) ready (binding_acts object (checkedHusk_named cached named))
  · exact exec_stalls (exec_unbind a b s) ready (binding_acts object (checkedHusk_named cached named))

end BindParts

/-! ### The checks of the object -/

/-- An instruction that issues with an object of entry consistency. -/
def AtObject (i : Instr) (a : Reg) (s : State) : Prop :=
  ∃ (regs : List Reg) (reads : Bool) (f : Nat → Option Nat → State → Res),
    Ready regs true s ∧ exec i s = issue regs true 1 (fun s => withObject reads a s f) s

theorem objectChecks {i : Instr} {a : Reg} {s : State} (here : AtObject i a s) :
    ((getG s a).getLsbD 63 = true →
      exec i s = .next (trapEntry { cause := .seg, info := 2, faddr := some (getG s a) } false none s)) ∧
    ((getG s a).getLsbD 63 = false →
      (∀ c, c ≠ .brk → check (getG s a) 8 2 s = .bad c → exec i s = .next (trapEntry
        { cause := c, info := 2, faddr := some (getG s a), access := some true } false none (refusedAccess c 2 (getG s a) s))) ∧
      (check (getG s a) 8 2 s = .held → exec i s = .next (stallAt s)) ∧
      (∀ pa mig leaf u, check (getG s a) 8 2 s = .mem pa mig true leaf u →
        exec i s = .next (stallAt (raisePage (getG s a).toNat u))) ∧
      (∀ pa mig leaf u, check (getG s a) 8 2 s = .mem pa mig false leaf u →
        mig = true ∨ meetsCopy s (getG s a) 8 = true ∨ pageParked s (getG s a).toNat = true ∨ s.grp.issuing ≠ [] →
        exec i s = .next (stallAt u))) := by
  obtain ⟨regs, reads, f, ready, arm⟩ := here
  have notAhead := notAhead_of_ready ready
  refine ⟨fun spad => ?_, fun mem => ⟨fun c notBrk bad => ?_, fun held => ?_, fun pa mig leaf u ok => ?_, fun pa mig leaf u ok waits => ?_⟩⟩
  · exact exec_trapsWith arm ready (t := checkTrap .seg (getG s a) 2) nofun nofun rfl (withObject_spad spad) notAhead
  · exact exec_accessTraps arm ready (by decide) notBrk (withObject_bad mem bad) notAhead
  · exact exec_stalls arm ready (withObject_held mem held)
  · exact exec_stalls arm ready (withObject_swept mem ok)
  · exact exec_stalls arm ready (withObject_waits mem ok waits)

/-- Settles O39: the checks of the object, then each form by its husks. -/
theorem entryConsistencyResults : Obligations.EntryConsistencyResults := by
  refine ⟨fun s u a b sc pa leaf mem ok noCopy notParked noIssuing => ?_, fun t ns clean => ?_, fun t v ns k done => ?_,
    fun s a b sc i which => objectChecks ?_⟩
  · have object : FreeObject s u a pa leaf := ⟨mem, ok, noCopy, notParked, noIssuing⟩
    intro owner n w held traps done stalls bound empty written refused unwritten
    refine ⟨fun ready poisoned _ => poisonedObject object ready poisoned, fun ready clean => ⟨objectAlone object clean ready,
      fun notFree notOwned => acq_stalls object clean ready (acqObject_other notFree notOwned), acqHeld object clean ready,
      relHeld object clean ready⟩, fun ready => ?_⟩
    intro h cached key bad binds unbinds
    have isCached : bindable u n = true ↔ cached := bindable_iff u n
    obtain ⟨refusals, names⟩ := bindChecked object ready
    exact ⟨fun no => refusals fun yes => no (isCached.mp yes), fun yes named => names (isCached.mpr yes) named,
      fun yes free => bindHeld object ready (isCached.mpr yes) free⟩
  · rw [dirtyHusks_nil clean]
    rfl
  · obtain ⟨written, count, clean⟩ := writeBackAll_dirtyHusks done
    have store := written.store
    exact ⟨count, by rw [store], by rw [store], written.strand, clean⟩
  · rcases which with ⟨ready, rfl | rfl⟩ | ⟨ready, rfl | rfl⟩
    · exact ⟨_, _, _, ready, exec_acq sc a s⟩
    · exact ⟨_, _, _, ready, exec_rel sc a s⟩
    · exact ⟨_, _, _, ready, exec_bind a b s⟩
    · exact ⟨_, _, _, ready, exec_unbind a b s⟩

end Sys2Proof.Machine
end

section
/-! The events that reach the strand from outside (spec/06_strand_memory_system.md R136, R145, spec/07_core.md R176, R180,
spec/13_cluster.md R275, R280, R286). -/

namespace Sys2Proof.Machine

/-! ### The cause that is taken (R136, R286) -/

/-- The lower code of two causes; of one code the older cause. -/
def lowerCause (m : Option Async) (a : Async) : Option Async :=
  match m with
  | none => some a
  | some b => if causeCode a.cause < causeCode b.cause then some a else some b

theorem firstCause_eq (l : List Async) : firstCause l = l.foldl lowerCause none := rfl

theorem foldl_lowerCause (l : List Async) (m : Option Async) {a : Async} (first : l.foldl lowerCause m = some a) :
    (a ∈ l ∨ m = some a) ∧ (∀ b ∈ l, causeCode a.cause ≤ causeCode b.cause) ∧ ∀ b, m = some b → causeCode a.cause ≤ causeCode b.cause := by
  induction l generalizing m with
  | nil =>
    refine ⟨.inr first, nofun, fun b isM => ?_⟩
    rw [show m = some a from first] at isM
    rw [Option.some.inj isM]
    exact BitVec.le_refl _
  | cons x l ih =>
    obtain ⟨member, low, low'⟩ := ih (lowerCause m x) first
    have lowerX : causeCode a.cause ≤ causeCode x.cause ∧ ∀ b, m = some b → causeCode a.cause ≤ causeCode b.cause := by
      cases m with
      | none => exact ⟨low' x rfl, nofun⟩
      | some b =>
        by_cases less : causeCode x.cause < causeCode b.cause
        · have ax := low' x (if_pos less)
          refine ⟨ax, fun b' isB => ?_⟩
          rw [← Option.some.inj isB]
          exact BitVec.le_trans ax (BitVec.le_of_lt less)
        · have ab := low' b (if_neg less)
          refine ⟨BitVec.le_trans ab (BitVec.not_lt.mp less), fun b' isB => ?_⟩
          rw [← Option.some.inj isB]
          exact ab
    obtain ⟨ax, am⟩ := lowerX
    refine ⟨?_, fun b inList => ?_, am⟩
    · rcases member with later | isIt
      · exact .inl (List.mem_cons_of_mem _ later)
      · cases m with
        | none =>
          cases isIt
          exact .inl List.mem_cons_self
        | some b =>
          by_cases less : causeCode x.cause < causeCode b.cause
          · have same : some x = some a := (if_pos less).symm.trans isIt
            cases same
            exact .inl List.mem_cons_self
          · exact .inr ((if_neg less).symm.trans isIt)
    · rcases List.mem_cons.mp inList with rfl | later
      · exact ax
      · exact low b later

/-- A stop of the debug agent that may be taken now. -/
theorem debugDue_iff (s : State) : debugDue s = true ↔
    s.pkg.debugReq = true ∧ (s.strand.xstat.pipe = false ∨ s.strand.iterEnd = true) ∧ ¬(viewOn s = true ∧ s.prof.busy = true) := by
  simp only [debugDue, Bool.and_eq_true, Bool.or_eq_true, Bool.not_eq_true', and_assoc, ← Bool.not_eq_true]

theorem nextCause_some {s : State} {a : Async} (next : nextCause s = some a) :
    s.sys.th = false ∧ s.sys.spec = false ∧ atBoundary s = true ∧
      firstCause (s.thatch.async.filter (mayTake s) ++ (if debugDue s then [debugCause] else [])) = some a := by
  unfold nextCause at next
  split at next
  · cases next
  · next no =>
    simp only [Bool.or_eq_true, Bool.not_eq_true', not_or, Bool.not_eq_true, Bool.not_eq_false] at no
    obtain ⟨⟨th, spec⟩, boundary⟩ := no
    exact ⟨th, spec, boundary, next⟩

theorem nextCause_lowest {s : State} {a : Async} (next : nextCause s = some a) :
    (∀ b ∈ s.thatch.async, mayTake s b = true → causeCode a.cause ≤ causeCode b.cause) ∧
      (debugDue s = true → causeCode a.cause ≤ causeCode .brk) := by
  obtain ⟨-, -, -, first⟩ := nextCause_some next
  obtain ⟨-, low, -⟩ := foldl_lowerCause _ none first
  refine ⟨fun b pending may => low b (List.mem_append_left _ (List.mem_filter.mpr ⟨pending, may⟩)), fun due => ?_⟩
  exact low debugCause (List.mem_append_right _ (by rw [if_pos due]; exact List.mem_singleton.mpr rfl))

theorem nextCause_debug {s : State} (th : s.sys.th = false) (spec : s.sys.spec = false) (boundary : atBoundary s = true)
    (due : debugDue s = true) (alone : ∀ b ∈ s.thatch.async, mayTake s b = false) : nextCause s = some debugCause := by
  have none : s.thatch.async.filter (mayTake s) = [] := List.filter_eq_nil_iff.mpr fun b pending => by
    rw [alone b pending]
    nofun
  unfold nextCause
  rw [if_neg (by rw [th, spec, boundary]; nofun), none, if_pos due]
  rfl

theorem asyncCause_taken {s : State} {a : Async} (next : nextCause s = some a) : exec .asyncCauseTaken s = .next (takeCause a s) := by
  show Host.Outcome.next _ = _
  rw [next]

theorem takeCause_other {a : Async} (other : a ≠ debugCause) (s : State) : takeCause a s =
    trapEntry { cause := a.cause, info := a.info, faddr := a.faddr, src := a.src } true (causeSeq s a)
      { s with thatch := { s.thatch with async := s.thatch.async.erase a } } := by
  unfold takeCause
  dsimp only
  rw [if_neg other]

theorem takeCause_debug (s : State) : takeCause debugCause s =
    trapEntry { cause := .brk, info := 0x100 } true none { s with pkg := { s.pkg with debugReq := false } } := rfl

theorem causesTaken (s : State) :
    (∀ a, nextCause s = some a →
      s.sys.th = false ∧ s.sys.spec = false ∧
      (∀ b ∈ s.thatch.async, mayTake s b = true → causeCode a.cause ≤ causeCode b.cause) ∧
      (debugDue s = true → causeCode a.cause ≤ causeCode .brk) ∧
      (a ≠ debugCause → exec .asyncCauseTaken s = .next (trapEntry
        { cause := a.cause, info := a.info, faddr := a.faddr, src := a.src } true (causeSeq s a)
        { s with thatch := { s.thatch with async := s.thatch.async.erase a } })) ∧
      (a = debugCause → exec .asyncCauseTaken s = .next (trapEntry { cause := .brk, info := 0x100 } true none
        { s with pkg := { s.pkg with debugReq := false } }))) ∧
    (nextCause s = none → exec .asyncCauseTaken s = .next s) := by
  refine ⟨fun a next => ?_, fun next => ?_⟩
  · obtain ⟨th, spec, -, -⟩ := nextCause_some next
    obtain ⟨low, lowDebug⟩ := nextCause_lowest next
    refine ⟨th, spec, low, lowDebug, fun other => ?_, fun same => ?_⟩
    · rw [asyncCause_taken next, takeCause_other other]
    · rw [asyncCause_taken next, same, takeCause_debug]
  · show Host.Outcome.next _ = _
    rw [next]

/-! ### Requests, and forced stops (R176, R180) -/

theorem debugStopRequest_live {s : State} (isLive : live s = true) :
    exec .debugStopRequest s = .next { s with pkg := { s.pkg with debugReq := true } } := congrArg Host.Outcome.next (if_pos isLive)

theorem preemptRequest_live {s : State} (isLive : live s = true) (notYet : s.sys.pp = false) : exec .preemptRequest s =
    .next { wakeAll s with
      sys := { s.sys with pp := true }
      pkg := { (wakeAll s).pkg with preemptBy := some (s.pkg.time + s.sys.preedl.setWidth 64) } } :=
  congrArg Host.Outcome.next (if_pos ⟨isLive, notYet⟩)

/-- No record but one that sends on runs behind a stop. -/
theorem stopRunning_sendsOn (s : State) : ∀ e ∈ (stopRunning s).thatch.entries, e.state = .running → sendsOn e = true := by
  intro e member runs
  obtain ⟨x, -, rfl⟩ := List.mem_map.mp member
  by_cases sends : sendsOn x = true
  · rw [if_pos sends]
    exact sends
  · rw [if_neg sends] at runs
    unfold stopEntry at runs
    split at runs
    · split at runs <;> cases runs
    · next notRunning => exact absurd runs notRunning

theorem forcedStop_due {s : State} {by_ : Word} (deadline : s.pkg.preemptBy = some by_) (passed : by_.toNat ≤ s.pkg.time.toNat)
    (spec : s.sys.spec = false) (boundary : atBoundary s = true) : exec .forcedStop s =
    .next { stopRunning s with
      strand := { (stopRunning s).strand with run := .stopped }, pkg := { (stopRunning s).pkg with preemptBy := none } } := by
  have due : forcedDue s = true := by
    rw [forcedDue, deadline]
    dsimp only
    rw [spec, boundary, BitVec.ule_iff_toNat_le.mpr passed]
    rfl
  exact congrArg Host.Outcome.next (if_pos due)

theorem firmwareRestore_stopped {s : State} (stopped : s.strand.run = .stopped) : ∃ t : State, exec .firmwareRestore s = .next t ∧
    t.strand.run = .running ∧ t.sys.pp = false ∧ t.thatch.async = s.thatch.async ++ [{ cause := .preempt, info := 0, src := 0 }] :=
  ⟨_, congrArg Host.Outcome.next (if_pos stopped), rfl, rfl, rfl⟩

/-! ### Retries (R145, R275) -/

theorem retries_other {s : State} (other : ¬(s.strand.run = .running ∧ s.strand.stalled = true)) :
    exec .tstartTimeReached s = .next s ∧ exec .acqRetryTimeout s = .next s := ⟨if_neg other, if_neg other⟩

/-- The TSTART that stalls is looked at again. -/
theorem tstartRetry {s : State} {a : Reg} (ready : Ready [a] true s) (runs : s.strand.run = .running) (stalled : s.strand.stalled = true)
    (here : decodeAt s s.strand.pc = some (.ok (.tstart a))) :
    ((getG s a).toNat ≤ s.pkg.time.toNat → exec .tstartTimeReached s = .next (finish 1 s (.done s))) ∧
      (s.pkg.time.toNat < (getG s a).toNat → exec .tstartTimeReached s = .next s) := by
  have tries : exec .tstartTimeReached s = if (getG s a).ule s.pkg.time then exec (.tstart a) s else .next s := by
    show execTstartTimeReached s = _
    unfold execTstartTimeReached
    rw [if_pos ⟨runs, stalled⟩, here]
    rfl
  rw [tries]
  refine ⟨fun reached => ?_, fun early => ?_⟩
  · have past := BitVec.ule_iff_toNat_le.mpr reached
    rw [if_pos past]
    exact exec_finishes (exec_tstart a s) ready (if_pos past)
  · exact if_neg fun past => Nat.not_le.mpr early (BitVec.ule_iff_toNat_le.mp past)

theorem acqRetry_eq {s : State} {sc : Scope} {a : Reg} (runs : s.strand.run = .running) (stalled : s.strand.stalled = true)
    (here : decodeAt s s.strand.pc = some (.ok (.acq sc a))) : exec .acqRetryTimeout s = exec (.acq sc a) s := by
  show execAcqRetryTimeout s = _
  unfold execAcqRetryTimeout
  rw [if_pos ⟨runs, stalled⟩, here]
  rfl

theorem boundTo_congr {s t : State} (store : t.store = s.store) (strand : t.strand = s.strand) (a : Reg) :
    boundTo t (getG t a) = boundTo s (getG s a) := by
  unfold boundTo getG
  rw [store, strand]

/-- The ACQ that stalls at an object with no bound husk is tried again. -/
theorem acqRetry {s u : State} {sc : Scope} {a : Reg} {pa : Nat} {leaf : Option Nat} (object : FreeObject s u a pa leaf)
    (ready : Ready [a] true s) (runs : s.strand.run = .running) (stalled : s.strand.stalled = true)
    (here : decodeAt s s.strand.pc = some (.ok (.acq sc a))) (clean : poisonedAt s (memKey s.sys.nodeid.toNat pa) = false)
    (none : boundTo u (getG u a) = []) (noLoads : u.strand.loads = []) :
    let w := requestAt pa u
    (objectWord u pa = ownerWord u → exec .acqRetryTimeout s = .next (finish 1 s (.done w))) ∧
      (objectWord u pa = 0 → exec .acqRetryTimeout s = .next (finish 1 s (.done (setObject pa leaf (ownerWord u) w)))) ∧
      (objectWord u pa ≠ 0 → objectWord u pa ≠ ownerWord u → exec .acqRetryTimeout s = .next (stallAt w)) := by
  intro w
  rw [acqRetry_eq runs stalled here]
  obtain ⟨owned, free, -, -⟩ := objectAlone (sc := sc) object clean ready none
  have taken := (onlyMemory_requestAt pa u).trans (onlyMemory_storeMem pa 8 (ownerWord w) leaf w)
  have owner : ownerWord w = ownerWord u := ownerWord_requestAt
  refine ⟨fun isOwned => owned isOwned noLoads, fun isFree => ?_,
    fun notFree notOwned => acq_stalls object clean ready (acqObject_other notFree notOwned)⟩
  rw [← owner]
  refine free isFree noLoads ?_ ?_
  · exact (boundTo_congr taken.store taken.strand a).trans none
  · exact (congrArg Strand.loads taken.strand).trans noLoads

/-! ### The end of a snapshot (R280) -/

theorem traceUnits_prof (n : Nat) (bs : List Byte) (s : State) :
    (traceUnits n bs s).prof = { s.prof with unitNo := s.prof.unitNo + n } := by
  induction n generalizing bs s with
  | zero => rfl
  | succ n ih =>
    rw [traceUnits, ih]
    show ({ s.prof with unitNo := s.prof.unitNo + 1 + n } : Profile) = _
    rw [Nat.add_assoc, Nat.add_comm 1 n]

theorem traceRecord_prof (kind tag dw3 dw4 dw5 dw6 n : Nat) (body : List Byte) (s : State) :
    (traceRecord kind tag dw3 dw4 dw5 dw6 n body s).prof =
      { s.prof with unitNo := s.prof.unitNo + 1 + n, recNo := s.prof.recNo + 1 } := by
  unfold traceRecord
  dsimp only
  rw [traceUnits_prof]
  rfl

theorem writeSnap_prof (r : SnapReq) (s : State) : (writeSnap r s).prof = { s.prof with
    unitNo := s.prof.unitNo + 1 + 30, recNo := s.prof.recNo + 1, conflicts := [], busy := true } := by
  unfold writeSnap snapTaken
  dsimp only
  rw [traceRecord_prof, countConflicts_eq]

theorem snapshotWritten_queued {s : State} {r : SnapReq} {rs : List SnapReq} (queued : s.prof.queued = r :: rs) :
    ∃ t : State, exec .snapshotWritten s = .next t ∧ t.prof.queued = rs ∧ t.prof.busy = true ∧
      t.prof.recNo = s.prof.recNo + 1 ∧ t.prof.conflicts = [] ∧ t.strand = s.strand ∧ t.mem = s.mem ∧
      (RingFits s → SnapWritten s t r.kind r.tag r.dw3 r.dw4) := by
  have traced := writeSnap_onlyTraced r { s with prof := { s.prof with queued := rs } }
  have prof := writeSnap_prof r { s with prof := { s.prof with queued := rs } }
  refine ⟨writeSnap r { s with prof := { s.prof with queued := rs } }, ?_, ?_, ?_, ?_, ?_, ?_, ?_, fun fits => ?_⟩
  · show Host.Outcome.next _ = _
    rw [queued]
  · rw [prof]
  · rw [prof]
  · rw [prof]
  · rw [prof]
  · rw [traced]
  · rw [traced]
  · exact snapWritten_writeSnap (s := { s with prof := { s.prof with queued := rs } }) r fits

theorem snapshotWritten_last {s : State} (none : s.prof.queued = []) :
    exec .snapshotWritten s = .next { s with prof := { s.prof with busy := false } } := by
  show Host.Outcome.next _ = _
  rw [none]

/-- Settles O55: the cause that is taken, then each event by its guard. -/
theorem strandEvents : Obligations.StrandEvents := by
  intro s debug debugMay
  have isDue : debugDue s = true ↔ debugMay := debugDue_iff s
  obtain ⟨taken, noneTaken⟩ := causesTaken s
  refine ⟨fun a next => ?_, noneTaken, fun th spec boundary may alone => nextCause_debug th spec boundary (isDue.mpr may) alone,
    debugStopRequest_live, fun isLive notYet => ⟨_, preemptRequest_live isLive notYet, rfl, rfl, rfl⟩,
    fun by_ deadline passed spec boundary =>
      ⟨_, forcedStop_due deadline passed spec boundary, rfl, rfl, rfl, rfl, stopRunning_sendsOn s⟩,
    firmwareRestore_stopped, retries_other, fun runs stalled a ready => ⟨tstartRetry ready runs stalled,
      fun sc pa leaf u here mem ok noCopy notParked noIssuing clean none noLoads => ?_⟩, snapshotWritten_last,
    fun r rs queued => snapshotWritten_queued queued⟩
  · obtain ⟨th, spec, low, lowDebug, others, same⟩ := taken a next
    exact ⟨th, spec, low, fun may => lowDebug (isDue.mpr may), others, same⟩
  · exact acqRetry ⟨mem, ok, noCopy, notParked, noIssuing⟩ ready runs stalled here clean none noLoads

end Sys2Proof.Machine
end

section
/-! The husk instructions (spec/07_core.md R152 to R154). -/

namespace Sys2Proof.Machine

/-- A HUSK instruction with an image as it acts. -/
def huskActs (limit size kind : Nat) (names : State → Nat → Bool) (h a : Reg) (imm : BitVec 8) (f : Nat → Nat → State → Res)
    (s : State) : Res :=
  if (getG s h + zextW imm).toNat > limit then huskbad
  else if !(getG s a).getLsbD 63 then .trap (checkTrap .seg (getG s a) kind)
  else
    match check (getG s a) size kind s with
    | .bad c => .trap (checkTrap c (getG s a) kind)
    | .mem _ _ _ _ _ | .held => .trap (checkTrap .seg (getG s a) kind)
    | .spad off => if names s (getG s h + zextW imm).toNat || meetsCopy s (getG s a) size then .stall s
      else f (getG s h + zextW imm).toNat off s

/-- HKLD of husk `n` from the image at `off`. -/
def loadHusk (n off : Nat) (s : State) : Res :=
  if hkBnd (getHusk s n) || huskBad s (huskOf (bytesAt s.store.spad off 64)) then huskbad
  else withWriteBack [n] s (fun v => .done (setHusk n (huskOf (bytesAt s.store.spad off 64)) (settleBlocks n true v)))

/-- HKST of husk `n`. -/
def storeHusk (n off : Nat) (s : State) : Res := .done (putSpad s off (huskBytes (getHusk s n)))

/-- The companding table at an offset. -/
def tableAt (s : State) (off : Nat) : List Word := (List.range 16).map (fun i => BitVec.ofNat 64 (readLe s.store.spad (off + 8 * i) 8))

/-- HKTAB of table `n`. -/
def loadTable (n off : Nat) (s : State) : Res :=
  if tabValid (tableAt s off) then .done { s with store := { s.store with tabs := tset [] s.store.tabs n (tableAt s off) } } else huskbad

/-- HKINV as it acts. -/
def clearHusk (h : Reg) (imm : BitVec 8) (s : State) : Res :=
  if (getG s h + zextW imm).toNat > 1023 then huskbad
  else if namesHusk s (getG s h + zextW imm).toNat then .stall s
  else if hkBnd (getHusk s (getG s h + zextW imm).toNat) then huskbad
  else withWriteBack [(getG s h + zextW imm).toNat] s (fun v => .done (setHusk (getG s h + zextW imm).toNat
    { getHusk v (getG s h + zextW imm).toNat with
      d0 := (getHusk v (getG s h + zextW imm).toNat).d0 &&& ~~~(BitVec.ofNat 64 (2 ^ 15)) }
    (settleBlocks (getG s h + zextW imm).toNat true v)))

theorem exec_hkld (h a : Reg) (imm : BitVec 8) (s : State) :
    exec (.hkld h a imm) s = issue [h, a] true 1 (huskActs 1023 64 0 namesHusk h a imm loadHusk) s := rfl

theorem exec_hkst (h a : Reg) (imm : BitVec 8) (s : State) :
    exec (.hkst h a imm) s = issue [h, a] true 1 (huskActs 1023 64 1 namesHusk h a imm storeHusk) s := rfl

theorem exec_hktab (h a : Reg) (imm : BitVec 8) (s : State) :
    exec (.hktab h a imm) s = issue [h, a] true 1 (huskActs 15 128 0 namesTab h a imm loadTable) s := rfl

theorem exec_hkinv (h : Reg) (imm : BitVec 8) (s : State) : exec (.hkinv h imm) s = issue [h] true 1 (clearHusk h imm) s := rfl

section Images

variable {limit size kind : Nat} {names : State → Nat → Bool} {h a : Reg} {imm : BitVec 8} {f : Nat → Nat → State → Res} {s : State}

theorem huskActs_beyond (beyond : limit < (getG s h + zextW imm).toNat) : huskActs limit size kind names h a imm f s = huskbad :=
  if_pos beyond

variable (within : (getG s h + zextW imm).toNat ≤ limit)
include within

theorem huskActs_memory (mem : (getG s a).getLsbD 63 = false) :
    huskActs limit size kind names h a imm f s = .trap (checkTrap .seg (getG s a) kind) :=
  (if_neg (Nat.not_lt.mpr within)).trans (if_pos (by rw [mem]; rfl))

variable (spad : (getG s a).getLsbD 63 = true)
include spad

theorem huskActs_bad {c : Cause} (bad : check (getG s a) size kind s = .bad c) :
    huskActs limit size kind names h a imm f s = .trap (checkTrap c (getG s a) kind) := by
  refine (if_neg (Nat.not_lt.mpr within)).trans ((if_neg (by rw [spad]; nofun)).trans ?_)
  rw [bad]

variable {off : Nat} (ok : check (getG s a) size kind s = .spad off)
include ok

theorem huskActs_named (named : names s (getG s h + zextW imm).toNat = true) : huskActs limit size kind names h a imm f s = .stall s := by
  refine (if_neg (Nat.not_lt.mpr within)).trans ((if_neg (by rw [spad]; nofun)).trans ?_)
  rw [ok]
  exact if_pos (by rw [named]; rfl)

theorem huskActs_free (free : names s (getG s h + zextW imm).toNat = false) (noCopy : meetsCopy s (getG s a) size = false) :
    huskActs limit size kind names h a imm f s = f (getG s h + zextW imm).toNat off s := by
  refine (if_neg (Nat.not_lt.mpr within)).trans ((if_neg (by rw [spad]; nofun)).trans ?_)
  rw [ok]
  exact if_neg (by rw [free, noCopy]; nofun)

end Images

/-- Nothing is written back where nothing is dirty. -/
theorem withWriteBack_none {n : Nat} {s : State} (clean : dirtyBytes s n = []) (f : State → Res) : withWriteBack [n] s f = f s :=
  withWriteBack_clean (dirtyHusks_nil fun m member => by rw [List.mem_singleton.mp member, clean]) f

theorem loadHusk_ok {n off : Nat} {s : State} (notBound : hkBnd (getHusk s n) = false)
    (good : huskBad s (huskOf (bytesAt s.store.spad off 64)) = false) (clean : dirtyBytes s n = []) :
    loadHusk n off s = .done (setHusk n (huskOf (bytesAt s.store.spad off 64)) (settleBlocks n true s)) :=
  (if_neg (by rw [notBound, good]; nofun)).trans (withWriteBack_none clean _)

theorem loadHusk_bad {n off : Nat} {s : State}
    (bad : hkBnd (getHusk s n) = true ∨ huskBad s (huskOf (bytesAt s.store.spad off 64)) = true) : loadHusk n off s = huskbad :=
  if_pos (by rw [Bool.or_eq_true]; exact bad)

theorem clearHusk_ok {h : Reg} {imm : BitVec 8} {s : State} (within : (getG s h + zextW imm).toNat ≤ 1023)
    (free : namesHusk s (getG s h + zextW imm).toNat = false) (notBound : hkBnd (getHusk s (getG s h + zextW imm).toNat) = false)
    (clean : dirtyBytes s (getG s h + zextW imm).toNat = []) :
    clearHusk h imm s = .done (setHusk (getG s h + zextW imm).toNat
      { getHusk s (getG s h + zextW imm).toNat with d0 := (getHusk s (getG s h + zextW imm).toNat).d0 &&& 0xFFFFFFFFFFFF7FFF }
      (settleBlocks (getG s h + zextW imm).toNat true s)) :=
  (if_neg (Nat.not_lt.mpr within)).trans ((if_neg (by rw [free]; nofun)).trans
    ((if_neg (by rw [notBound]; nofun)).trans (withWriteBack_none clean _)))

/-- The refusals of a HUSK instruction with an image. -/
theorem huskRefusals {i : Instr} {limit size kind : Nat} {names : State → Nat → Bool} {h a : Reg} {imm : BitVec 8}
    {f : Nat → Nat → State → Res} {s : State} (off : Nat)
    (arm : exec i s = issue [h, a] true 1 (huskActs limit size kind names h a imm f) s) (ready : Ready [h, a] true s)
    (notAhead : s.sys.spec = false) :
    let n := (getG s h + zextW imm).toNat
    let traps (t : Trap) : Prop := exec i s = .next (trapEntry t false none s)
    (limit < n → traps { cause := .huskbad }) ∧
      (n ≤ limit → (getG s a).getLsbD 63 = false → traps (checkTrap .seg (getG s a) kind)) ∧
      (∀ c, n ≤ limit → (getG s a).getLsbD 63 = true → check (getG s a) size kind s = .bad c → c = .seg ∨ c = .align →
        traps (checkTrap c (getG s a) kind)) ∧
      (n ≤ limit → (getG s a).getLsbD 63 = true → check (getG s a) size kind s = .spad off → names s n = true →
        exec i s = .next (stallAt s)) := by
  intro n traps
  refine ⟨fun beyond => ?_, fun within mem => ?_, fun c within spad bad known => ?_, fun within spad ok named => ?_⟩
  · exact exec_trapsWith arm ready (t := { cause := .huskbad }) nofun nofun rfl (huskActs_beyond beyond) notAhead
  · exact exec_trapsWith arm ready (t := checkTrap .seg (getG s a) kind) nofun nofun rfl (huskActs_memory within mem) notAhead
  · have acts := huskActs_bad (names := names) (f := f) within spad bad
    rcases known with rfl | rfl
    · exact exec_trapsWith arm ready (t := checkTrap .seg (getG s a) kind) nofun nofun rfl acts notAhead
    · exact exec_trapsWith arm ready (t := checkTrap .align (getG s a) kind) nofun nofun rfl acts notAhead
  · exact exec_stalls arm ready (huskActs_named within spad ok named)

/-- Settles O38: the checks of the image, then what each instruction does with it. -/
theorem huskResults : Obligations.HuskResults := by
  intro s h a imm off n
  refine ⟨fun ready spad => ⟨fun within free noCopy => ⟨fun ok notBound good clean => ?_, fun ok => ?_⟩, fun within free noCopy ok => ?_⟩,
    fun ready within free notBound clean => exec_finishes (exec_hkinv h imm s) ready (clearHusk_ok within free notBound clean),
    fun notAhead => ?_⟩
  · exact exec_finishes (exec_hkld h a imm s) ready
      ((huskActs_free within spad ok free noCopy).trans (loadHusk_ok notBound good clean))
  · exact exec_finishes (exec_hkst h a imm s) ready (huskActs_free within spad ok free noCopy)
  · intro tab valid
    exact exec_finishes (exec_hktab h a imm s) ready ((huskActs_free within spad ok free noCopy).trans (if_pos valid))
  · intro traps refuses
    have bad (i : Instr) {regs : List Reg} {f : State → Res} (arm : exec i s = issue regs true 1 f s) (ready : Ready regs true s)
        (acts : f s = huskbad) : traps i { cause := .huskbad } :=
      exec_trapsWith arm ready (t := { cause := .huskbad }) nofun nofun rfl acts notAhead
    refine ⟨fun ready => ⟨huskRefusals off (exec_hkld h a imm s) ready notAhead, huskRefusals off (exec_hkst h a imm s) ready notAhead,
      huskRefusals off (exec_hktab h a imm s) ready notAhead, fun within spad free noCopy ok refused => ?_,
      fun within spad free noCopy ok invalid => ?_⟩, fun ready => ⟨fun beyond => ?_, fun within named => ?_,
      fun within free bound => ?_⟩⟩
    · exact bad _ (exec_hkld h a imm s) ready ((huskActs_free within spad ok free noCopy).trans (loadHusk_bad refused))
    · exact bad _ (exec_hktab h a imm s) ready
        ((huskActs_free within spad ok free noCopy).trans (if_neg (by rw [tableAt, invalid]; nofun)))
    · exact bad _ (exec_hkinv h imm s) ready (if_pos beyond)
    · exact exec_stalls (exec_hkinv h imm s) ready ((if_neg (Nat.not_lt.mpr within)).trans (if_pos named))
    · exact bad _ (exec_hkinv h imm s) ready ((if_neg (Nat.not_lt.mpr within)).trans
        ((if_neg (Bool.eq_false_iff.mp free)).trans (if_pos bound)))

end Sys2Proof.Machine
end

section
/-! The progress of a record (spec/07_core.md R175, R182), refuted: a record whose packet fails its pip is gone before its residue mismatch is
looked at, so no self-test falls due. -/

namespace Sys2Proof.Machine

/-- An M record that carries pip 0. -/
def carrier : Entry := { slot := 0, record := 4, boxes := {}, seq := 1, state := .running, dep := some 0 }

/-- The carrier runs, and its pip has failed. -/
def failedPip : State := { State.reset with
  thatch := { State.reset.thatch with entries := [carrier] }
  fab := { State.reset.fab with pips := [(0, { state := .failed })] } }

/-- The carrier's last unit sends a packet to this node and then meets a residue mismatch. -/
def sendsAndMismatches : Work :=
  { units := [{ effects := [.send
      { srcNode := 0, srcCore := 0, srcSlot := 0, dstNode := 0, dstCore := 0, asid := 0, body := .sem 0 0 }] }]
    cause := some { cause := .residue } }

/-- The packet fails the record with PIP_EXP (R350), which drops its entry. -/
theorem carrier_dropped : (doUnits 1 sendsAndMismatches carrier failedPip).store.testDue = false := by decide

/-- Refutes O43: behind a last unit that sends a packet over a failed pip, the record is no longer there, and its mismatch starts no
self-test. -/
theorem not_taskProgress : ¬ Obligations.TaskProgress := by
  rintro ⟨-, lastUnit⟩
  obtain ⟨-, mismatch⟩ := lastUnit 1 sendsAndMismatches carrier failedPip (by decide) (by decide) rfl
  obtain ⟨due, -⟩ := mismatch { cause := .residue } rfl rfl rfl (by decide)
  exact Bool.false_ne_true (carrier_dropped.symm.trans due)

end Sys2Proof.Machine
end

section
/-! The events of a started record (spec/07_core.md R166 to R169, R183; spec/10_copy.md R253): what a retirement leaves, said once, and
the branches of a swept page. -/

namespace Sys2Proof.Machine

/-! ### Retirement -/

theorem setG_eq (s : State) (d : Fin 64) (v : Word) : setG s d v = { s with strand := (setG s d v).strand } := by
  unfold setG
  split <;> rfl

/-- A delivery writes registers of the strand, and of the checkpoint of a strand that runs ahead. -/
theorem deliver_eq (e : Entry) (v : Word) (s : State) :
    deliver e v s = { s with strand := (deliver e v s).strand, grp := (deliver e v s).grp } := by
  unfold deliver
  dsimp only
  rw [setG_eq]
  split
  · split <;> rfl
  · rfl

theorem deliverScalar_eq (e : Entry) (s : State) :
    deliverScalar e s = { s with strand := (deliverScalar e s).strand, grp := (deliverScalar e s).grp } := by
  unfold deliverScalar
  split
  · split
    · exact deliver_eq e _ s
    · rfl
  · rfl

theorem cqAppend_eq (vs : List (BitVec 32)) (s : State) : cqAppend vs s = { s with strand := (cqAppend vs s).strand } := rfl

/-- What the end of a record's own life changes before its entry goes: flags, registers, the count queue and semaphores. -/
def delivered (e : Entry) (s : State) : State :=
  let s := mergeFlags { s with sys := { s.sys with recov := if e.rerun && !e.unrec then satInc s.sys.recov else s.sys.recov } } e.flags
  let s := cqAppend e.counts (deliverScalar e s)
  if recSigv e.record && !e.fold then addSem (recSigsem e.record) (BitVec.ofInt 32 (recSigadd e.record)) s else s

theorem retire_own {e : Entry} (own : e.quarter = none) (s : State) :
    retire e s = releaseAll (endFold e (countM e (pipRetired e (dropEntry e.slot (delivered e s))))) := by
  unfold retire delivered
  rw [own]
  rfl

/-- Neither the window nor the fabric is touched before the entry goes. -/
theorem delivered_thatch_fab (e : Entry) (s : State) : (delivered e s).thatch = s.thatch ∧ (delivered e s).fab = s.fab := by
  unfold delivered
  dsimp only
  rw [cqAppend_eq, deliverScalar_eq]
  split <;> exact ⟨rfl, rfl⟩

theorem delivered_flags (e : Entry) (s : State) : (delivered e s).sys.flags = s.sys.flags ||| e.flags := by
  unfold delivered
  dsimp only
  rw [cqAppend_eq, deliverScalar_eq]
  split <;> rfl

theorem delivered_signals {e : Entry} (signal : recSigv e.record = true) (own : e.fold = false) (s : State) :
    (delivered e s).store.sems = tset 0 s.store.sems (recSigsem e.record)
      (getSem s (recSigsem e.record) + BitVec.ofInt 32 (recSigadd e.record)) := by
  unfold delivered
  rw [signal, own]
  dsimp only
  rw [cqAppend_eq, deliverScalar_eq]
  rfl

theorem delivered_silent {e : Entry} (silent : recSigv e.record = false ∨ e.fold = true) (s : State) :
    (delivered e s).store.sems = s.store.sems := by
  have none : (recSigv e.record && !e.fold) = false := by rcases silent with h | h <;> rw [h] <;> simp
  unfold delivered
  rw [none]
  dsimp only
  rw [cqAppend_eq, deliverScalar_eq]
  rfl

theorem countM_eq (e : Entry) (s : State) : countM e s = { s with store := { s.store with mCount := (countM e s).store.mCount } } := by
  unfold countM
  split <;> rfl

theorem endFold_eq (e : Entry) (s : State) : endFold e s = { s with thatch := { s.thatch with dir := (endFold e s).thatch.dir } } := by
  unfold endFold
  split <;> rfl

theorem pipRetired_eq (e : Entry) (s : State) : pipRetired e s = { s with fab := { s.fab with pips := (pipRetired e s).fab.pips } } := by
  unfold pipRetired
  split <;> rfl

/-- A value that is not the default is read back, in whatever order the table stands. -/
theorem tget_tset_self {α : Type} [DecidableEq α] (d : α) (m : Table α) (k : Nat) {v : α} (kept : v ≠ d) : tget d (tset d m k v) k = v := by
  induction m with
  | nil =>
    rw [tset, if_neg kept]
    exact tget_cons_self d k v []
  | cons x t ih =>
    obtain ⟨key, old⟩ := x
    rw [tset, if_neg kept, if_neg kept]
    split
    · exact tget_cons_self d k v _
    · next below =>
      split
      · exact tget_cons_self d k v t
      · next other => rw [tget_cons_gt _ _ _ (by omega), ih]

theorem getPip_setPip (n : Nat) {p : Pip} (kept : p ≠ {}) (s : State) : getPip (setPip n p s) n = p := tget_tset_self _ _ n kept

theorem retired_ne (p : Pip) : ({ p with retired := true } : Pip) ≠ {} :=
  fun same => Bool.noConfusion (congrArg Pip.retired same)

/-- The entries that a retirement leaves: those of the other slots, some of them READY now. -/
def Freed (slot : Nat) (s t : State) : Prop :=
  ∃ f : Entry → Entry, (∀ x, (f x).slot = x.slot ∧ countsTkc (f x) = countsTkc x) ∧
    t.thatch.entries = (s.thatch.entries.filter (fun x => x.slot != slot)).map f

theorem freed_releaseAll {slot : Nat} {s t : State} (dropped : t.thatch.entries = (dropEntry slot s).thatch.entries) :
    Freed slot s (releaseAll t) := by
  refine ⟨fun e => if mayRelease t e then { e with state := .ready } else e, fun x => ?_, ?_⟩
  · dsimp only
    split <;> exact ⟨rfl, rfl⟩
  · exact congrArg (List.map _) dropped

theorem retire_freed (e : Entry) (s : State) : Freed e.slot s (retire e s) := by
  cases part : e.quarter with
  | some p =>
    have parts : retire e s = releaseAll (countM e (dropEntry e.slot s)) := by unfold retire; rw [part]; rfl
    rw [parts]
    exact freed_releaseAll (by rw [countM_eq])
  | none =>
    rw [retire_own part]
    refine freed_releaseAll ?_
    rw [endFold_eq, countM_eq, pipRetired_eq]
    exact congrArg (fun t : Thatch => t.entries.filter (fun x => x.slot != e.slot)) (delivered_thatch_fab e s).1

theorem Freed.gone {slot : Nat} {s t : State} (freed : Freed slot s t) : ∀ x ∈ t.thatch.entries, x.slot ≠ slot := by
  obtain ⟨f, keeps, left⟩ := freed
  intro x member
  rw [left] at member
  obtain ⟨y, among, rfl⟩ := List.mem_map.mp member
  rw [(keeps y).1]
  exact bne_iff_ne.mp (List.mem_filter.mp among).2

/-- TKC falls by the entries of the slot that it counted. -/
theorem Freed.tkc {slot : Nat} {s t : State} (freed : Freed slot s t) :
    tkc t + ((s.thatch.entries.filter (fun x => x.slot == slot)).filter countsTkc).length = tkc s := by
  obtain ⟨f, keeps, left⟩ := freed
  have same : countsTkc ∘ f = countsTkc := funext fun x => (keeps x).2
  unfold Machine.tkc
  rw [left, List.filter_map, same, List.length_map, List.filter_comm, List.filter_comm (p := countsTkc), Nat.add_comm]
  exact (List.length_eq_length_filter_add _).symm

/-- What stands behind a retirement, with the pip table that `pips` gives. -/
def Retires (slot : Nat) (e : Entry) (s : State) (pips : Nat → Pip) (t : State) : Prop :=
  (∀ x ∈ t.thatch.entries, x.slot ≠ slot) ∧
  tkc t + ((s.thatch.entries.filter (fun x => x.slot == slot)).filter countsTkc).length = tkc s ∧
  (e.quarter = none → t.sys.flags = s.sys.flags ||| e.flags ∧
    (recSigv e.record = true → e.fold = false →
      t.store.sems = tset 0 s.store.sems (recSigsem e.record)
        (getSem s (recSigsem e.record) + BitVec.ofInt 32 (recSigadd e.record))) ∧
    (recSigv e.record = false ∨ e.fold = true → t.store.sems = s.store.sems) ∧
    (∀ n, e.pip = some n → getPip t n = { pips n with retired := true }) ∧
    (e.pip = none → t.fab.pips = s.fab.pips))

theorem retire_pips {e : Entry} (own : e.quarter = none) (s : State) :
    (∀ n, e.pip = some n → getPip (retire e s) n = { getPip s n with retired := true }) ∧
    (e.pip = none → (retire e s).fab.pips = s.fab.pips) := by
  have whole : (retire e s).fab.pips = (pipRetired e (dropEntry e.slot (delivered e s))).fab.pips := by
    rw [retire_own own, endFold_eq, countM_eq]
    rfl
  have before : (delivered e s).fab = s.fab := (delivered_thatch_fab e s).2
  refine ⟨fun n pip => ?_, fun none => ?_⟩
  · have same : getPip (delivered e s) n = getPip s n := congrArg (fun f : Fabric => tget ({} : Pip) f.pips n) before
    refine (congrArg (fun t => tget ({} : Pip) t n) whole).trans ?_
    rw [pipRetired, pip, ← same]
    exact getPip_setPip n (retired_ne _) (dropEntry e.slot (delivered e s))
  · rw [whole, pipRetired, none]
    exact congrArg Fabric.pips before

theorem retire_net (e : Entry) (s : State) : (retire e s).fab.net = s.fab.net := by
  cases part : e.quarter with
  | some p =>
    have parts : retire e s = releaseAll (countM e (dropEntry e.slot s)) := by unfold retire; rw [part]; rfl
    rw [parts, countM_eq]
    rfl
  | none =>
    rw [retire_own part, endFold_eq, countM_eq, pipRetired_eq]
    exact (congrArg Fabric.net (delivered_thatch_fab e s).2 :)

theorem retire_retires (e : Entry) (s : State) : Retires e.slot e s (getPip s) (retire e s) := by
  have freed : Freed e.slot s (retire e s) := retire_freed e s
  refine ⟨freed.gone, freed.tkc, fun own => ⟨?_, fun signal plain => ?_, fun silent => ?_, retire_pips own s⟩⟩
  · rw [retire_own own, endFold_eq, countM_eq, pipRetired_eq]
    exact delivered_flags e s
  · rw [retire_own own, endFold_eq, countM_eq, pipRetired_eq]
    exact delivered_signals signal plain s
  · rw [retire_own own, endFold_eq, countM_eq, pipRetired_eq]
    exact delivered_silent silent s

/-! ### LANDED_ACK -/

/-- The pip of a record lands, if it has one. -/
def landOf (e : Entry) (s : State) : State := match e.pip with | some n => landPip n s | none => s

theorem landPip_inflight {n : Nat} {s : State} (open_ : (getPip s n).state = .inflight) :
    landPip n s = setPip n { getPip s n with state := .landed, dests := [] }
      (toNet ((getPip s n).dests.map (fun d => control s d (.release n))) s) := if_pos open_

theorem landOf_same (e : Entry) (s : State) : (landOf e s).thatch = s.thatch ∧ (landOf e s).sys = s.sys ∧ (landOf e s).store = s.store := by
  unfold landOf landPip
  split
  · dsimp only
    split
    · exact ⟨toNet_thatch _ _, toNet_sys _ _, toNet_store _ _⟩
    · exact ⟨rfl, rfl, rfl⟩
  · exact ⟨rfl, rfl, rfl⟩

theorem getPip_landPip (n : Nat) (s : State) : getPip (landPip n s) n =
    if (getPip s n).state = .inflight then { getPip s n with state := .landed, dests := [] } else getPip s n := by
  split
  · next open_ =>
    rw [landPip_inflight open_]
    exact getPip_setPip n (fun same => PipState.noConfusion (congrArg Pip.state same)) _
  · next closed => exact congrArg (getPip · n) (if_neg closed)

theorem retire_landed_retires (e : Entry) (s : State) : Retires e.slot e s (fun n =>
    if (getPip s n).state = .inflight then { getPip s n with state := .landed, dests := [] } else getPip s n)
    (retire e (landOf e s)) := by
  obtain ⟨gone, count, own⟩ := retire_retires e (landOf e s)
  obtain ⟨thatch, sys, store⟩ := landOf_same e s
  have table : tkc (landOf e s) = tkc s := congrArg (fun t : Thatch => (t.entries.filter countsTkc).length) thatch
  have sem : getSem (landOf e s) = getSem s := funext fun n => congrArg (fun t : Store => tget 0 t.sems n) store
  rw [thatch, table] at count
  refine ⟨gone, count, fun noPart => ?_⟩
  obtain ⟨flags, signals, silent, pips, noPip⟩ := own noPart
  rw [sys] at flags
  rw [store, sem] at signals
  rw [store] at silent
  refine ⟨flags, signals, silent, fun n pip => ?_, fun none => ?_⟩
  · rw [pips n pip]
    have lands : landOf e s = landPip n s := by unfold landOf; rw [pip]
    rw [lands, getPip_landPip]
  · have same : landOf e s = s := by unfold landOf; rw [none]
    rw [noPip none, same]

/-! ### The acknowledgements and the retries, by the record -/

theorem exec_writeAcknowledgement {slot : Nat} {s : State} {e : Entry} (found : findEntry s slot = some e) :
    exec (.writeAcknowledgement slot) s = .next
      (if acknowledged e && !pipOpen s e && !sweeping s e && !movedPageWaits s e then retire e s else s) :=
  congrArg Host.Outcome.next (by rw [found])

theorem exec_landedAck {slot : Nat} {s : State} {e : Entry} (found : findEntry s slot = some e) :
    exec (.landedAck slot) s = .next (if landed e then retire e (landOf e s) else s) :=
  congrArg Host.Outcome.next (by rw [found]; rfl)

theorem landed_eq {e : Entry} (acked : acknowledged e = true) (fabric : entryEng e = .f) : landed e = true := by
  rw [landed, acked, fabric]
  rfl

theorem landed_net {s : State} {e : Entry} {n : Nat} (pip : e.pip = some n) (open_ : (getPip s n).state = .inflight) :
    (retire e (landOf e s)).fab.net = (toNet ((getPip s n).dests.map (fun d => control s d (.release n))) s).fab.net := by
  have lands : landOf e s = landPip n s := by unfold landOf; rw [pip]
  rw [retire_net, lands, landPip_inflight open_]
  rfl

/-- The next try of an F.POST that was answered BUSY. -/
def busyTry (s : State) (e : Entry) : State :=
  if busyAnswered s e && e.retryAt.ule s.pkg.time then
    match e.image with
    | some i =>
      if routeRefused s (postDst e.record).1 then failRecord e .remote s
      else toNet [packetTo s e (postDst e.record) 0 (postBody i)] s
    | none => s
  else s

theorem exec_busyRetry {slot : Nat} {s : State} {e : Entry} (found : findEntry s slot = some e) :
    exec (.busyRetry slot) s = .next (busyTry s e) := congrArg Host.Outcome.next (by rw [found]; rfl)

theorem busyTry_due {s : State} {e : Entry} (busy : busyAnswered s e = true) (due : e.retryAt.toNat ≤ s.pkg.time.toNat)
    {i : Rec × Boxes} (image : e.image = some i) : busyTry s e =
      if routeRefused s (postDst e.record).1 then failRecord e .remote s
      else toNet [packetTo s e (postDst e.record) 0 (postBody i)] s := by
  have again : (busyAnswered s e && e.retryAt.ule s.pkg.time) = true := by rw [busy]; exact decide_eq_true due
  unfold busyTry
  rw [again, image]
  rfl

theorem busyTry_waits {s : State} {e : Entry} (waits : busyAnswered s e = false ∨ s.pkg.time.toNat < e.retryAt.toNat) :
    busyTry s e = s := by
  have not_ : ¬(busyAnswered s e && e.retryAt.ule s.pkg.time) = true := by
    rw [Bool.and_eq_true]
    rintro ⟨busy, due⟩
    rcases waits with free | early
    · exact Bool.false_ne_true (free.symm.trans busy)
    · exact absurd (of_decide_eq_true due) (Nat.not_le_of_lt early)
  exact if_neg not_

/-! ### The page of a sweep -/

theorem exec_ckptPageCopied {slot : Nat} {s : State} {e : Entry} {w : Sweep} {p : SweepPage} (runs : Runs .ckpt slot e s)
    (sweep : findSweep s e.seq = some w) (page : pageInProgress w = some p) :
    exec (.ckptPageCopied slot) s = .next (copyPage w p e s) := by
  obtain ⟨found, task, plain, running, -, -, power, -⟩ := runs
  refine congrArg Host.Outcome.next ?_
  rw [found]
  dsimp only
  rw [if_pos ⟨task, plain, running, power⟩, sweep]
  dsimp only
  rw [page]

section
variable {w : Sweep} {p : SweepPage} {e : Entry} {s : State}

theorem copyPage_ridges (under : s.pkg.ridging ≠ 0) (tables : tablesRidge s p.va = true) : copyPage w p e s = s :=
  if_pos ⟨under, tables⟩

/-- A page whose tables stand in no stack that is handed over, by its walk. -/
def copyWalked (w : Sweep) (p : SweepPage) (e : Entry) (s : State) : State :=
  match pageWalk s p.va with
  | .bad c _ => engineCause e { cause := c, faddr := some (BitVec.ofNat 64 p.va) } s
  | .leaf l =>
    if migrating s e.slot l then s
    else if 2 ^ 39 ≤ leafPa l p.va then engineCause e { cause := .seg, faddr := some (BitVec.ofNat 64 p.va) } s
    else if !reachesHome s (leafPa l p.va) then engineCause e { cause := .owner, faddr := some (BitVec.ofNat 64 p.va) } s
    else if ridgingAt s (leafPa l p.va) then s
    else if segRn (ckptTarget s e.record) then sendPage w p e (ckptTarget s e.record) (leafPa l p.va) s
    else copyHere w p e (leafPa l p.va) s

theorem copyPage_free (free : s.pkg.ridging = 0 ∨ tablesRidge s p.va = false) : copyPage w p e s = copyWalked w p e s := by
  refine if_neg ?_
  rintro ⟨under, tables⟩
  rcases free with none | clear
  · exact under none
  · exact Bool.false_ne_true (clear.symm.trans tables)

theorem copyWalked_bad {c : Cause} {line : Option Nat} (walk : pageWalk s p.va = .bad c line) : copyWalked w p e s =
    engineCause e { cause := c, faddr := some (BitVec.ofNat 64 p.va) } s := by
  unfold copyWalked
  rw [walk]

variable {l : Leaf} (walk : pageWalk s p.va = .leaf l)
include walk

theorem copyWalked_leaf : copyWalked w p e s =
    if migrating s e.slot l then s
    else if 2 ^ 39 ≤ leafPa l p.va then engineCause e { cause := .seg, faddr := some (BitVec.ofNat 64 p.va) } s
    else if !reachesHome s (leafPa l p.va) then engineCause e { cause := .owner, faddr := some (BitVec.ofNat 64 p.va) } s
    else if ridgingAt s (leafPa l p.va) then s
    else if segRn (ckptTarget s e.record) then sendPage w p e (ckptTarget s e.record) (leafPa l p.va) s
    else copyHere w p e (leafPa l p.va) s := by
  unfold copyWalked
  rw [walk]

theorem copyWalked_away (still : migrating s e.slot l = false) (low : leafPa l p.va < 2 ^ 39)
    (away : reachesHome s (leafPa l p.va) = false) :
    copyWalked w p e s = engineCause e { cause := .owner, faddr := some (BitVec.ofNat 64 p.va) } s := by
  rw [copyWalked_leaf walk, still, if_neg Bool.false_ne_true, if_neg (Nat.not_le_of_lt low), away]
  rfl

theorem copyWalked_held (still : migrating s e.slot l = false) (low : leafPa l p.va < 2 ^ 39)
    (reached : reachesHome s (leafPa l p.va) = true) (held : ridgingAt s (leafPa l p.va) = true) : copyWalked w p e s = s := by
  rw [copyWalked_leaf walk, still, if_neg Bool.false_ne_true, if_neg (Nat.not_le_of_lt low), reached, held]
  rfl

theorem copyWalked_here (still : migrating s e.slot l = false) (low : leafPa l p.va < 2 ^ 39)
    (reached : reachesHome s (leafPa l p.va) = true) (settled : ridgingAt s (leafPa l p.va) = false) : copyWalked w p e s =
    if segRn (ckptTarget s e.record) then sendPage w p e (ckptTarget s e.record) (leafPa l p.va) s
    else copyHere w p e (leafPa l p.va) s := by
  rw [copyWalked_leaf walk, still, if_neg Bool.false_ne_true, if_neg (Nat.not_le_of_lt low), reached, settled]
  rfl

end

section
variable {w : Sweep} {p : SweepPage} {e : Entry} {s : State} {tgt : SegEntry} {src : Nat}

theorem sendPage_acknowledged (sent : w.sent = some p.va) (acks : e.acks = 0) :
    sendPage w p e tgt src s = pageSwept w p src e.slot (poisonAway s tgt src p.dst) := (if_pos sent).trans (if_pos acks)

theorem sendPage_under (sent : w.sent = some p.va) (acks : e.acks ≠ 0) : sendPage w p e tgt src s = s :=
  (if_pos sent).trans (if_neg acks)

theorem sendPage_behind (other : w.sent ≠ some p.va) (acks : e.acks ≠ 0) : sendPage w p e tgt src s = s :=
  (if_neg other).trans (if_pos acks)

theorem sendPage_lost (other : w.sent ≠ some p.va) (acks : e.acks = 0) (lost : routeRefused s (segNode tgt) = true) :
    sendPage w p e tgt src s = engineCause e { cause := .remote } s :=
  (if_neg other).trans ((if_neg (not_not.mpr acks)).trans (if_pos lost))

theorem sendPage_goes (other : w.sent ≠ some p.va) (acks : e.acks = 0) (route : routeRefused s (segNode tgt) = false) :
    sendPage w p e tgt src s = putSweep { w with sent := some p.va }
      (sendAll e.slot (sweepPackets s e tgt src p.dst) (pageRequests w p (frameLines src) s)) :=
  (if_neg other).trans ((if_neg (not_not.mpr acks)).trans (if_neg (by rw [route]; exact Bool.false_ne_true)))

theorem copyHere_ok {ls : List (Nat × Nat × Option Nat)} {t : State} (ok : targetLines p.dst (List.range 512) s = .ok (ls, t)) :
    copyHere w p e src s =
      pageSwept w p src e.slot (ls.foldl (sweepLine src) (pageRequests w p (frameLines src ++ ls.map (fun l => l.2.1)) t)) := by
  unfold copyHere
  rw [ok]

theorem copyHere_cause {c : Cause} {va : Nat} (bad : targetLines p.dst (List.range 512) s = .error (.cause c va)) :
    copyHere w p e src s = engineCause e { cause := c, faddr := some (BitVec.ofNat 64 va) } s := by
  unfold copyHere
  rw [bad]

theorem copyHere_waits {va : Nat} (waits : targetLines p.dst (List.range 512) s = .error (.wait va)) :
    copyHere w p e src s = raisePage va s := by
  unfold copyHere
  rw [waits]

end

/-! ### A page that counts -/

theorem onlyMemory_faqLines (kind : BitVec 3) (ls : List Nat) (s : State) : OnlyMemory s (faqLines kind ls s) :=
  onlyMemory_foldl (f := fun s l => faqAppend (homeDie s l) kind s.sys.coreid l s) (fun _ _ => onlyMemory_of_mem rfl rfl) ls s

/-- What memory keeps of a page that has been copied: its entries of the fault-address queue, and the marks of its leaf. -/
def unmarked (w : Sweep) (p : SweepPage) (src : Nat) (s : State) : State :=
  let s' := faqLines 4 (poisonedLines s src 0) s
  if (w.pages.filter (fun q => q.va != p.va)).any (fun q => q.leaf == p.leaf) then s'
  else setPte p.leaf (fun v => setBit 60 false (setBit 59 false v)) s'

theorem onlyMemory_unmarked (w : Sweep) (p : SweepPage) (src : Nat) (s : State) : OnlyMemory s (unmarked w p src s) := by
  unfold unmarked
  dsimp only
  split
  · exact onlyMemory_faqLines 4 _ s
  · exact (onlyMemory_faqLines 4 _ s).trans (onlyMemory_setPte _ _ _)

/-- How many pages of a sweep have been poisoned, behind one more. -/
def poisonedNow (w : Sweep) (src : Nat) (s : State) : Nat :=
  if (poisonedLines s src 0).isEmpty then w.poisoned else w.poisoned + 1

theorem poisonedNow_eq (w : Sweep) (src : Nat) (s : State) :
    poisonedNow w src s = w.poisoned + (if poisonedLines s src 0 = [] then 0 else 1) := by
  unfold poisonedNow
  cases poisonedLines s src 0 <;> rfl

/-- The sweep without a page that has been copied. -/
def sweptPast (w : Sweep) (p : SweepPage) (src : Nat) (s : State) : Sweep :=
  { w with
    sent := none
    pages := w.pages.filter (fun q => q.va != p.va)
    raised := w.raised.filter (fun r => r.1 != pageOf p.va)
    copied := w.copied + 1
    poisoned := poisonedNow w src s }

/-- The record of a sweep that has copied one page more. -/
def countsPage (e : Entry) (poisoned : Nat) : Entry := { e with index := e.index + 1, part := BitVec.ofNat 64 poisoned }

theorem pageSwept_left {w : Sweep} {p : SweepPage} {src slot : Nat} {s : State} {e : Entry} (found : findEntry s slot = some e)
    (left : w.pages.filter (fun q => q.va != p.va) ≠ []) :
    pageSwept w p src slot s =
      putSweep (sweptPast w p src s) (putEntry (countsPage e (poisonedNow w src s)) (unmarked w p src s)) := by
  have there : findEntry (unmarked w p src s) slot = some e := by
    unfold findEntry
    rw [(onlyMemory_unmarked w p src s).thatch]
    exact found
  unfold unmarked at there ⊢
  unfold pageSwept
  dsimp only at there ⊢
  rw [there]
  exact if_neg left

theorem findSweep_putSweep {w : Sweep} {s : State} (mine : w.asid = s.sys.asid) : findSweep (putSweep w s) w.seq = some w := by
  have own : sweepOf s w.seq w = true := by
    unfold sweepOf
    rw [mine, beq_self_eq_true, beq_self_eq_true]
    rfl
  show ((s.mem.sweeps.filter (fun x => !sweepOf s w.seq x)) ++ [w]).find? (sweepOf s w.seq) = some w
  rw [List.find?_append, List.find?_eq_none.mpr (fun x among => by simpa using (List.mem_filter.mp among).2), Option.none_or,
    List.find?_cons_of_pos own]

theorem selfTest_rest (s : State) : (selfTest s).store.fenced = s.store.fenced ||| s.store.failing ∧ (selfTest s).store.testDue = false ∧
    (selfTest s).store.mCount = 0 ∧ (selfTest s).strand = s.strand ∧ (selfTest s).mem = s.mem ∧
    ((selfTest s).store.fenced ≠ 0 → (selfTest s).pkg.qf = true ∧ (selfTest s).pkg.repl = true) := by
  unfold selfTest
  dsimp only
  split
  · next whole => exact ⟨rfl, rfl, rfl, rfl, rfl, fun some => absurd whole some⟩
  · exact ⟨rfl, rfl, rfl, rfl, rfl, fun _ => ⟨rfl, rfl⟩⟩

/-- Settles O44: the events of a started record, its retirement, its retries and its swept page, and the self-test. -/
theorem engineEvents : Obligations.EngineEvents := by
  refine ⟨fun slot s e found => ?_, fun w p src slot s e found => ?_⟩
  · intro retires
    have slotIs : e.slot = slot := slot_of_findEntry found
    refine ⟨fun acked closed still => ⟨fun free => ?_, fun waits => ?_⟩, fun acked open_ => ?_, fun unacked => ⟨?_, ?_⟩,
      fun acked fabric => ?_, fun n pip open_ acked fabric own => ?_,
      fun busy i image => ⟨fun due => ⟨fun route => ?_, fun lost => ?_⟩, fun early => ?_⟩, fun free => ?_,
      fun runs w p sweep page => ?_, fun ready => ?_, fun idle => ?_⟩
    · refine ⟨retire e s, ?_, slotIs ▸ retire_retires e s⟩
      rw [exec_writeAcknowledgement found, acked, closed, still, free]
      rfl
    · rw [exec_writeAcknowledgement found, acked, closed, still, waits]
      rfl
    · rw [exec_writeAcknowledgement found, acked, open_]
      rfl
    · rw [exec_writeAcknowledgement found, unacked]
      rfl
    · rw [exec_landedAck found, landed, unacked]
      rfl
    · refine ⟨retire e (landOf e s), ?_, slotIs ▸ retire_landed_retires e s⟩
      rw [exec_landedAck found, if_pos (landed_eq acked fabric)]
    · refine ⟨retire e (landOf e s), ?_, landed_net pip open_⟩
      rw [exec_landedAck found, if_pos (landed_eq acked fabric)]
    · rw [exec_busyRetry found, busyTry_due busy due image, route]
      rfl
    · rw [exec_busyRetry found, busyTry_due busy due image, lost]
      rfl
    · rw [exec_busyRetry found, busyTry_waits (.inr early)]
    · rw [exec_busyRetry found, busyTry_waits (.inl free)]
    · intro is fails
      subst slotIs
      have swept {t : State} (page' : copyPage w p e s = t) : exec (.ckptPageCopied e.slot) s = .next t := by
        rw [exec_ckptPageCopied runs sweep page, page']
      refine ⟨fun under tables => swept (copyPage_ridges under tables), fun free => ⟨fun c line walk => ?_, fun l walk => ?_⟩⟩
      · exact swept ((copyPage_free free).trans (copyWalked_bad walk))
      · have walked := (copyPage_free (w := w) (e := e) free).trans (copyWalked_leaf walk)
        refine ⟨fun moves => swept ?_, fun still high => swept ?_, fun still low away => swept ?_,
          fun still low reached held => swept ?_, fun still low reached settled => ?_⟩
        · exact walked.trans (if_pos moves)
        · exact walked.trans ((if_neg (by rw [still]; exact Bool.false_ne_true)).trans (if_pos high))
        · exact (copyPage_free free).trans (copyWalked_away walk still low away)
        · exact (copyPage_free free).trans (copyWalked_held walk still low reached held)
        · have here := (copyPage_free (w := w) (e := e) free).trans (copyWalked_here walk still low reached settled)
          refine ⟨fun near => ?_, fun far => ?_⟩
          · have copies := here.trans (if_neg (by rw [show segRn (ckptTarget s e.record) = false from near]; exact Bool.false_ne_true))
            exact ⟨fun ls t ok => swept (copies.trans (copyHere_ok ok)), fun c va bad => swept (copies.trans (copyHere_cause bad)),
              fun va waits => swept (copies.trans (copyHere_waits waits))⟩
          · have sends := here.trans (if_pos far)
            exact ⟨fun sent acks => swept (sends.trans (sendPage_acknowledged sent acks)),
              fun sent acks => swept (sends.trans (sendPage_under sent acks)),
              fun other acks => swept (sends.trans (sendPage_behind other acks)),
              fun other acks lost => swept (sends.trans (sendPage_lost other acks lost)),
              fun other acks route => swept (sends.trans (sendPage_goes other acks route))⟩
    · exact ⟨selfTest s, congrArg Host.Outcome.next (if_pos ready), selfTest_rest s⟩
    · exact congrArg Host.Outcome.next (if_neg (by rw [idle]; exact Bool.false_ne_true))
  · intro rest poisoned left t mine
    have many : poisonedNow w src s = poisoned := poisonedNow_eq w src s
    have counted : t = putSweep (sweptPast w p src s) (putEntry (countsPage e (poisonedNow w src s)) (unmarked w p src s)) :=
      pageSwept_left found left
    have slotIs : e.slot = slot := slot_of_findEntry found
    have kept := onlyMemory_unmarked w p src s
    have there : findEntry (unmarked w p src s) slot = some e := by
      unfold findEntry
      rw [kept.thatch]
      exact found
    refine ⟨?_, countsPage e (poisonedNow w src s), ?_, rfl, congrArg (BitVec.ofNat 64) many, rfl⟩
    · rw [counted, ← many]
      exact findSweep_putSweep (w := sweptPast w p src s) (mine.trans (congrArg SysRegs.asid kept.sys.symm))
    · rw [counted]
      exact findEntry_putEntry there slotIs

end Sys2Proof.Machine
end

section
/-! The start of a record (spec/07_core.md R164, R196), refuted: an engine that turns to a READY record frees it instead of starting it
where it is a part that another core leads and the core runs a reduced array, whatever task the record names. -/

namespace Sys2Proof.Machine

/-- A READY M.MZ with work left that stands as a part of another core's record. -/
def strayPart : Entry :=
  { slot := 0, record := 4, boxes := {}, seq := 1, state := .ready, work := some { units := [{}] }
    quarter := some { lead := 0, pri := false, rst := false, w := {}, huskA := {}, huskB := {}, rows := [], cols := [] } }

/-- The stray part alone in the window of a core whose array is reduced. -/
def reducedCore : State := { State.reset with
  strand := { State.reset.strand with run := .running }
  thatch := { State.reset.thatch with entries := [strayPart] }
  store := { State.reset.store with fenced := 1 } }

/-- No record is left in the window. -/
def leavesNone (o : Out) : Bool := match o with | .next s => s.thatch.entries.isEmpty | _ => true

/-- The engine frees the part that has not started, and goes on with the one that runs. -/
theorem strayPart_freed : leavesNone (exec (.mMz 0 0) reducedCore) = true := by decide
theorem strayPart_runs : leavesNone (exec (.mMz 0 0) (startEntry strayPart reducedCore)) = false := by decide

/-- Refutes O36: the engine does not start a READY part on a reduced quad, though it is the record that its engine takes next. -/
theorem not_enteredRecord : ¬ Obligations.EnteredRecord := by
  rintro ⟨-, -, -, -, -, starts⟩
  obtain ⟨-, -, tasks, -⟩ := starts reducedCore strayPart
  obtain ⟨taken, -⟩ := (tasks 0 0 (by decide) rfl rfl).1 .mz (by decide) rfl (by decide)
  have same : exec (.mMz 0 0) reducedCore = exec (.mMz 0 0) (startEntry strayPart reducedCore) := taken (by decide)
  exact Bool.false_ne_true (strayPart_runs.symm.trans ((congrArg leavesNone same).symm.trans strayPart_freed))

end Sys2Proof.Machine
end

section
/-! What the parts below the strand leave alone: engines, memory, packets and the window change no level, no trap register, no program
counter and no speculation, and keep the byte stores in canonical form. -/

namespace Sys2Proof.Machine

/-- What only the strand, its traps, launches and the host change. -/
def visible (s : State) : SysRegs × BitVec 32 × Run × Option TrapDue × Bool :=
  ({ s.sys with flags := 0, recov := 0 }, s.strand.pc, s.strand.run, s.thatch.trapDue, s.grp.spec.isSome)

/-- The byte stores. -/
def byteStores (s : State) : List Host.Cell × List Host.Cell × List Host.Cell := (s.mem.mem, s.store.spad, s.fab.farSpad)

/-- From `s` to `t` nothing of this changes, and the byte stores stay canonical. -/
structure Quiet (s t : State) : Prop where
  seen : visible t = visible s
  canon : Canonical s → Canonical t

theorem Quiet.refl (s : State) : Quiet s s := ⟨rfl, id⟩

theorem Quiet.trans {s t u : State} (h : Quiet s t) (k : Quiet t u) : Quiet s u := ⟨k.seen.trans h.seen, k.canon ∘ h.canon⟩

theorem canonical_of_byteStores {s t : State} (same : byteStores t = byteStores s) (wf : Canonical s) : Canonical t := by
  injection same with mem rest
  injection rest with spad far
  unfold Canonical at *
  rw [mem, spad, far]
  exact wf

theorem Quiet.same {s t : State} (seen : visible t = visible s) (bytes : byteStores t = byteStores s) : Quiet s t :=
  ⟨seen, canonical_of_byteStores bytes⟩

theorem Quiet.pc {s t : State} (h : Quiet s t) : t.strand.pc = s.strand.pc := congrArg (fun v => v.2.1) h.seen
theorem Quiet.run {s t : State} (h : Quiet s t) : t.strand.run = s.strand.run := congrArg (fun v => v.2.2.1) h.seen
theorem Quiet.trapDue {s t : State} (h : Quiet s t) : t.thatch.trapDue = s.thatch.trapDue := congrArg (fun v => v.2.2.2.1) h.seen
theorem Quiet.spec {s t : State} (h : Quiet s t) : t.grp.spec.isSome = s.grp.spec.isSome := congrArg (fun v => v.2.2.2.2) h.seen
theorem Quiet.sys {s t : State} (h : Quiet s t) {α : Type} (f : SysRegs → α) (reads : ∀ r : SysRegs, f { r with flags := 0, recov := 0 } = f r) :
    f t.sys = f s.sys := by
  rw [← reads t.sys, ← reads s.sys]
  exact congrArg (fun v => f v.1) h.seen

theorem OnlyMemory.quiet {s t : State} (h : OnlyMemory s t) : Quiet s t := by
  refine ⟨?_, fun ⟨mem, spad, far⟩ => ⟨h.wf mem, by rw [h.store]; exact spad, by rw [h.fab]; exact far⟩⟩
  unfold visible
  rw [h.sys, h.strand, h.thatch, h.grp]

theorem OnlyAsked.quiet {s t : State} (h : OnlyAsked s t) : Quiet s t := h.onlyMemory.quiet

theorem quiet_foldl {α : Type} {f : State → α → State} (each : ∀ s x, Quiet s (f s x)) (l : List α) (s : State) : Quiet s (l.foldl f s) := by
  induction l generalizing s with
  | nil => exact .refl s
  | cons x t ih => exact (each s x).trans (ih (f s x))

/-! ### Memory and the scratchpad -/

theorem quiet_putSpad (s : State) (off : Nat) (bs : List Byte) : Quiet s (putSpad s off bs) :=
  ⟨rfl, fun ⟨mem, spad, far⟩ => ⟨mem, putSpad_wf s off bs spad, far⟩⟩

theorem quiet_faqAppend (die : Nat) (kind : BitVec 3) (core : BitVec 9) (pa : Nat) (s : State) : Quiet s (faqAppend die kind core pa s) :=
  .same rfl rfl

theorem quiet_consumed (engine : Bool) (pa : Nat) (s : State) : Quiet s (consumed engine pa s) := .same rfl rfl

theorem quiet_tableConsumed (engine : Bool) (c : Cause) (va : Nat) (s : State) : Quiet s (tableConsumed engine c va s) := by
  unfold tableConsumed
  split
  · exact quiet_consumed engine _ s
  · exact .refl s

theorem quiet_raiseAsync (a : Async) (s : State) : Quiet s (raiseAsync a s) := by
  unfold raiseAsync
  split
  · exact .same rfl rfl
  · exact .refl s

theorem quiet_raisePage (va : Nat) (s : State) : Quiet s (raisePage va s) := .same rfl rfl

theorem quiet_raiseFail (f : Option Fail) (s : State) : Quiet s (raiseFail f s) := by
  unfold raiseFail
  split
  · exact quiet_raisePage _ s
  · exact .refl s

theorem quiet_raiseParked (c : Cause) (id va : Nat) (s : State) : Quiet s (raiseParked c id va s) := by
  unfold raiseParked
  split
  · exact .refl s
  · exact quiet_raiseAsync _ s

theorem quiet_park (r : ParkReason) (va size : Nat) (data : Word) (s : State) : Quiet s (park r va size data s) := by
  have entered : Quiet s (raisePage va { s with mem := { s.mem with
      replay := s.mem.replay ++ [{ id := s.mem.nextPark, va := va, size := size, data := data, reason := r }]
      nextPark := s.mem.nextPark + 1 } }) := .same rfl rfl
  unfold park
  cases r with
  | page => exact entered.trans (quiet_raiseParked _ _ _ _)
  | wprot => exact entered.trans (quiet_raiseParked _ _ _ _)
  | mig => exact entered
  | sw => exact entered
  | order => exact entered

theorem quiet_storeNow {addr : Word} {size : Nat} {data : Word} {s u : State} (done : storeNow addr size data s = .done u) : Quiet s u := by
  unfold storeNow at done
  dsimp only at done
  split at done
  · split at done
    · split at done
      · cases done
      · cases done
        exact (missRequests_onlyAsked _ _ _ s).quiet.trans (quiet_park _ _ _ _ _)
    · cases done
  · cases done
  · split at done
    · cases done
    · cases done
      exact quiet_putSpad _ _ _
  · next translated =>
    have walked := (onlyMemory_check translated).quiet
    split at done
    · cases done
    · split at done
      · cases done
        exact walked.trans (quiet_park _ _ _ _ _)
      · split at done
        · cases done
          exact walked.trans (quiet_park _ _ _ _ _)
        · split at done
          · cases done
            exact walked.trans (quiet_park _ _ _ _ _)
          · cases done
            exact walked.trans ((onlyMemory_requestAt _ _).trans (onlyMemory_storeMem _ _ _ _ _)).quiet

/-! ### Parked and held stores -/

theorem quiet_retryOne (eret : Bool) (acc : State × List Parked) (p : Parked) : Quiet acc.1 (retryOne eret acc p).1 := by
  unfold retryOne
  split
  · exact .refl _
  · split
    · exact .refl _
    · split
      · exact (missRequests_onlyAsked _ _ _ _).quiet.trans ((quiet_tableConsumed _ _ _ _).trans (quiet_raiseParked _ _ _ _))
      · exact .refl _
      · exact .refl _
      · next translated =>
        split
        · exact .refl _
        · split
          · exact quiet_raisePage _ _
          · exact (((onlyMemory_check translated).trans (onlyMemory_requestAt _ _)).trans (onlyMemory_storeMem _ _ _ _ _)).quiet.trans
              (.same rfl rfl)

theorem quiet_retryParked (eret : Bool) (s : State) : Quiet s (retryParked eret s) := by
  have all (l : List Parked) (acc : State × List Parked) : Quiet acc.1 (l.foldl (retryOne eret) acc).1 := by
    induction l generalizing acc with
    | nil => exact .refl _
    | cons p l ih => exact (quiet_retryOne eret acc p).trans (ih _)
  exact (all s.mem.replay (s, [])).trans (.same rfl rfl)

theorem quiet_issueHeld {h : HeldStore} {s u : State} (issued : issueHeld h s = some u) : Quiet s u := by
  unfold issueHeld at issued
  split at issued
  · cases issued
    exact .same rfl rfl
  · split at issued
    · next done =>
      cases issued
      exact quiet_storeNow done
    · cases issued
    · cases issued
      refine Quiet.trans ?_ ((quiet_tableConsumed _ _ _ _).trans (quiet_raiseAsync _ _))
      split
      · exact .refl s
      · exact (missRequests_onlyAsked _ _ _ s).quiet

theorem quiet_drainHeld (hs : List HeldStore) (s : State) : Quiet s (drainHeld hs s) := by
  induction hs generalizing s with
  | nil => exact .same rfl rfl
  | cons h t ih =>
    unfold drainHeld
    split
    · next issued => exact (quiet_issueHeld issued).trans (ih _)
    · exact .same rfl rfl

/-! ### The trace -/

theorem quiet_withProf (p : Profile) (s : State) : Quiet s { s with prof := p } := .same rfl rfl

theorem quiet_traceUnit (bs : List Byte) (s : State) : Quiet s (traceUnit bs s) := (quiet_putSpad s _ _).trans (quiet_withProf _ _)

theorem quiet_traceUnits (n : Nat) (bs : List Byte) (s : State) : Quiet s (traceUnits n bs s) := by
  induction n generalizing bs s with
  | zero => exact .refl s
  | succ n ih => exact (quiet_traceUnit _ s).trans (ih (bs.drop 64) (traceUnit bs s))

theorem quiet_traceRecord (kind tag dw3 dw4 dw5 dw6 n : Nat) (body : List Byte) (s : State) :
    Quiet s (traceRecord kind tag dw3 dw4 dw5 dw6 n body s) :=
  ((quiet_traceUnit _ s).trans (quiet_traceUnits n body _)).trans (quiet_withProf _ _)

theorem quiet_countConflicts (s : State) : Quiet s (countConflicts s) := by
  rw [countConflicts_eq]
  generalize (countConflicts s).prof.conflicts = m
  exact .same rfl rfl

theorem quiet_snapTaken (s : State) : Quiet s (snapTaken s) := quiet_withProf _ s

theorem quiet_snapRecord (r : SnapReq) (body : List Byte) (s : State) :
    Quiet s (snapTaken (traceRecord r.kind r.tag r.dw3 r.dw4 0 0 30 body s)) :=
  (quiet_traceRecord r.kind r.tag r.dw3 r.dw4 0 0 30 body s).trans (quiet_snapTaken _)

theorem quiet_writeSnap (r : SnapReq) (s : State) : Quiet s (writeSnap r s) := by
  unfold writeSnap
  exact (quiet_countConflicts s).trans (quiet_snapRecord r _ _)

theorem quiet_traceSnap (kind tag dw3 dw4 : Nat) (s : State) : Quiet s (traceSnap kind tag dw3 dw4 s) := by
  unfold traceSnap
  dsimp only
  split
  · exact quiet_withProf _ s
  · exact (quiet_withProf { s.prof with snaps := s.prof.snaps + 1 } s).trans (quiet_writeSnap _ _)

/-! ### The window -/

theorem quiet_putEntry (e : Entry) (s : State) : Quiet s (putEntry e s) := .same rfl rfl
theorem quiet_dropEntry (slot : Nat) (s : State) : Quiet s (dropEntry slot s) := .same rfl rfl
theorem quiet_releaseAll (s : State) : Quiet s (releaseAll s) := .same rfl rfl
theorem quiet_setPip (n : Nat) (p : Pip) (s : State) : Quiet s (setPip n p s) := .same rfl rfl
theorem quiet_mergeFlags (s : State) (f : BitVec 6) : Quiet s (mergeFlags s f) := .same rfl rfl
theorem quiet_addSem (n : Nat) (v : BitVec 32) (s : State) : Quiet s (addSem n v s) := .same rfl rfl
theorem quiet_freePips (s : State) : Quiet s (freePips s) := .same rfl rfl
theorem quiet_holdQuad (s : State) : Quiet s (holdQuad s) := .same rfl rfl

theorem quiet_countPassed (e : Entry) (s : State) : Quiet s (countPassed e s) := by
  unfold countPassed
  split
  · exact .same rfl rfl
  · exact .refl s

theorem quiet_prefill (s : State) (w : RBox) : Quiet s (prefill s w) := by
  unfold prefill
  split
  · exact .refl s
  · exact quiet_putSpad _ _ _

theorem quiet_startEntry (e : Entry) (s : State) : Quiet s (startEntry e s) := by
  have put (x : Entry) : Quiet s (putEntry x (countPassed e s)) := (quiet_countPassed e s).trans (quiet_putEntry x _)
  unfold startEntry
  dsimp only
  split
  · split
    · exact (put _).trans (quiet_prefill _ _)
    · exact put _
  · exact put _

theorem quiet_sendOut (s : State) (p : Packet) : Quiet s (sendOut s p) := by
  unfold sendOut queueFlits
  dsimp only
  split
  · split <;> exact .same rfl rfl
  · split
    · exact .refl s
    · exact .same rfl rfl

theorem quiet_toNet (ps : List Packet) (s : State) : Quiet s (toNet ps s) := quiet_foldl quiet_sendOut ps s

theorem quiet_failPip (n : Nat) (s : State) : Quiet s (failPip n s) := by
  unfold failPip
  dsimp only
  split
  · exact (quiet_toNet _ s).trans (quiet_setPip _ _ _)
  · exact .refl s

theorem quiet_landPip (n : Nat) (s : State) : Quiet s (landPip n s) := by
  unfold landPip
  dsimp only
  split
  · exact (quiet_toNet _ s).trans (quiet_setPip _ _ _)
  · exact .refl s

theorem quiet_pipRetired (e : Entry) (s : State) : Quiet s (pipRetired e s) := by
  unfold pipRetired
  split
  · exact quiet_setPip _ _ s
  · exact .refl s

/-! ### Retirement, faults and failures -/

theorem quiet_setG (s : State) (d : Reg) (v : Word) : Quiet s (setG s d v) := by
  unfold setG
  split
  · exact .refl s
  · exact .same rfl rfl

theorem quiet_deliver (e : Entry) (v : Word) (s : State) : Quiet s (deliver e v s) := by
  unfold deliver
  dsimp only
  split
  · next cp ahead =>
    split
    · exact quiet_setG s _ v
    · exact (quiet_setG s _ v).trans (.same (by unfold visible; rw [ahead]; rfl) rfl)
  · exact quiet_setG s _ v

theorem quiet_deliverScalar (e : Entry) (s : State) : Quiet s (deliverScalar e s) := by
  unfold deliverScalar
  split
  · split
    · exact quiet_deliver e _ s
    · exact .refl s
  · exact .refl s

theorem quiet_cqAppend (vs : List (BitVec 32)) (s : State) : Quiet s (cqAppend vs s) := .same rfl rfl

theorem quiet_delivered (e : Entry) (s : State) : Quiet s (delivered e s) := by
  have flags (r : BitVec 32) : Quiet s (mergeFlags { s with sys := { s.sys with recov := r } } e.flags) := .same rfl rfl
  have counts (r : BitVec 32) := (flags r).trans ((quiet_deliverScalar e _).trans (quiet_cqAppend e.counts _))
  unfold delivered
  dsimp only
  split
  · exact (counts _).trans (quiet_addSem _ _ _)
  · exact counts _

theorem quiet_countM (e : Entry) (s : State) : Quiet s (countM e s) := by
  unfold countM
  split
  · exact .same rfl rfl
  · exact .refl s

theorem quiet_endFold (e : Entry) (s : State) : Quiet s (endFold e s) := by
  unfold endFold
  split
  · exact .same rfl rfl
  · exact .refl s

theorem quiet_retire (e : Entry) (s : State) : Quiet s (retire e s) := by
  cases part : e.quarter with
  | some p =>
    have parts : retire e s = releaseAll (countM e (dropEntry e.slot s)) := by unfold retire; rw [part]; rfl
    rw [parts]
    exact ((quiet_dropEntry e.slot s).trans (quiet_countM e _)).trans (quiet_releaseAll _)
  | none =>
    rw [retire_own part]
    exact ((((quiet_delivered e s).trans (quiet_dropEntry _ _)).trans (quiet_pipRetired e _)).trans (quiet_countM e _)).trans
      ((quiet_endFold e _).trans (quiet_releaseAll _))

theorem quiet_failAt (e : Entry) (c : Cause) (faddr : Option Word) (s : State) : Quiet s (failAt e c faddr s) := by
  have pips : Quiet s (match e.pip with | some n => failPip n s | none => s) := by
    split
    · exact quiet_failPip _ s
    · exact .refl s
  exact ((pips.trans (quiet_mergeFlags _ e.flags)).trans ((quiet_dropEntry _ _).trans (quiet_pipRetired e _))).trans
    ((quiet_raiseAsync _ _).trans (quiet_releaseAll _))

theorem quiet_walkedByEngine (c : Cause) (va : Nat) (s : State) : Quiet s (walkedByEngine c va s) := by
  unfold walkedByEngine
  split <;> first | exact (missRequests_onlyAsked _ _ _ s).quiet | exact .refl s

theorem quiet_consumedByEngine (c : EngineCause) (s : State) : Quiet s (consumedByEngine c s) := by
  unfold consumedByEngine
  split
  · exact .refl s
  · next va _ =>
    have walked := quiet_walkedByEngine c.cause va.toNat s
    dsimp only
    split
    · split
      · exact walked.trans (quiet_consumed _ _ _)
      · exact walked.trans ((onlyMemory_requestAt _ _).quiet.trans (quiet_consumed _ _ _))
    · exact walked

theorem quiet_faultEntry (e : Entry) (c : EngineCause) (s : State) : Quiet s (faultEntry e c s) := by
  have faulted (x : Entry) (w : BitVec 16) (u : State) : Quiet u (holdQuad { putEntry x u with
    thatch := { (putEntry x u).thatch with stopped := true, wire := w } }) := .same rfl rfl
  exact (quiet_consumedByEngine c s).trans ((faulted _ _ _).trans (quiet_raiseAsync _ _))

theorem quiet_engineCause (e : Entry) (c : EngineCause) (s : State) : Quiet s (engineCause e c s) := by
  have due : Quiet s { s with store := { s.store with testDue := true } } := .same rfl rfl
  unfold engineCause residueEntry
  split
  · exact (quiet_consumedByEngine c s).trans (quiet_failAt _ _ _ _)
  · split
    · dsimp only
      split
      · exact due.trans ((quiet_putEntry _ _).trans (quiet_releaseAll _))
      · exact due.trans (quiet_faultEntry _ _ _)
    · exact quiet_faultEntry e c s

/-! ### Packets of records -/

theorem quiet_listDest (n : Nat) (d : Nat × Nat) (s : State) : Quiet s (listDest n d s) := by
  unfold listDest
  dsimp only
  split
  · exact .refl s
  · exact quiet_setPip _ _ s

theorem quiet_sendPacket (e : Entry) (p : Packet) (s : State) : Quiet s (sendPacket e p s) := by
  unfold sendPacket failRecord
  split
  · exact quiet_engineCause _ _ s
  · split
    · exact (quiet_putEntry _ s).trans (quiet_toNet _ _)
    · exact (quiet_listDest _ _ s).trans ((quiet_putEntry _ _).trans (quiet_toNet _ _))
    · exact quiet_putEntry _ s
    · exact quiet_failAt _ _ _ s

theorem quiet_sendAll (slot : Nat) (ps : List Packet) (s : State) : Quiet s (sendAll slot ps s) :=
  quiet_foldl (fun s p => by
    split
    · exact quiet_sendPacket _ p s
    · exact .refl s) ps s

theorem quiet_sendWaiting (s : State) : Quiet s (sendWaiting s) :=
  quiet_foldl (fun s _ => (quiet_putEntry _ s).trans (quiet_sendAll _ _ _)) _ s

/-! ### The effects of a record, its end, and its commit -/

theorem quiet_peerWrite (core : Nat) (w : ByteWrite) (s : State) : Quiet s (peerWrite core w s) := by
  unfold peerWrite
  split
  · exact ⟨rfl, fun ⟨mem, spad, far⟩ => ⟨mem, spad, setMasked_wf _ far⟩⟩
  · exact .refl s

theorem quiet_applyEffect (s : State) (e : Effect) : Quiet s (applyEffect s e) := by
  unfold applyEffect
  split
  · split
    · exact ⟨rfl, fun ⟨mem, spad, far⟩ => ⟨mem, setMasked_wf _ spad, far⟩⟩
    · exact .refl s
  · exact .refl s
  · exact quiet_peerWrite _ _ s
  · exact .same rfl rfl
  · exact .same rfl rfl
  · exact .same rfl rfl
  · exact .refl s
  · exact (onlyMemory_markDirty _ s).quiet
  · exact .same rfl rfl

theorem quiet_applyEffects (es : List Effect) (s : State) : Quiet s (applyEffects es s) := by
  have each := quiet_foldl quiet_applyEffect es s
  unfold applyEffects
  dsimp only
  split
  · exact each
  · exact each.trans (onlyMemory_memWrite _ _).quiet

theorem quiet_endCommit (memory : Bool) (slot : Nat) (s : State) : Quiet s (endCommit memory slot s) := by
  unfold endCommit
  split
  · exact .refl s
  · split
    · exact quiet_releaseAll s
    · exact quiet_retire _ s

theorem quiet_commitEntry (e : Entry) (s : State) : Quiet s (commitEntry e s) :=
  ((quiet_applyEffects _ s).trans (quiet_putEntry _ _)).trans ((quiet_sendAll _ _ _).trans (quiet_endCommit _ _ _))

theorem quiet_doneEntry (e : Entry) (s : State) : Quiet s (doneEntry e s) := by
  unfold doneEntry
  dsimp only
  split
  · split
    · exact (quiet_putEntry _ s).trans (quiet_releaseAll _)
    · exact (quiet_putEntry _ s).trans (quiet_commitEntry _ _)
  · split
    · exact (quiet_putEntry _ s).trans (quiet_releaseAll _)
    · exact quiet_retire _ s

theorem quiet_endHeld (s : State) : Quiet s (endHeld s) := by
  unfold endHeld
  split
  · refine Quiet.trans ?_ (quiet_releaseAll _)
    refine Quiet.trans (.same rfl rfl : Quiet s { s with thatch := { s.thatch with
      entries := s.thatch.entries.map (fun e => if e.owed then { e with owed := false, heldAhead := false } else e) } }) ?_
    refine quiet_foldl (fun s e => ?_) _ _
    split
    · exact quiet_commitEntry _ s
    · exact .refl s
  · exact .refl s

end Sys2Proof.Machine
end

section
/-! The events of a group (spec/19_fabric_groups.md R358, R365 to R374): the root, results and their commit or squash, steps, aborts, and
the phase fence. -/

namespace Sys2Proof.Machine

/-! ### Messages on their way -/

theorem waitInFlight_eq (m : GroupMsg) (s : State) : waitInFlight m s =
    if s.grp.msgs.contains m then s else { s with grp := { s.grp with msgs := s.grp.msgs ++ [m] } } := rfl

/-- A message of this member may arrive at the root where none before it is on its way. -/
theorem toRoot_first {s : State} {own : Bool} {m : GroupMsg} (up : goesUp m = true)
    (first : own = false ∨ s.grp.msgs.find? (fun x => goesUp x && msgGid x == msgGid m) = some m) : toRoot s own m = true := by
  unfold toRoot isFirst
  rw [up]
  rcases first with other | first
  · rw [other]
    rfl
  · rw [first]
    simp

theorem toRoot_behind {s : State} {m : GroupMsg} (up : goesUp m = true)
    (behind : s.grp.msgs.find? (fun x => goesUp x && msgGid x == msgGid m) ≠ some m) : toRoot s true m = false := by
  unfold toRoot isFirst
  rw [up]
  simpa using behind

/-! ### The root -/

theorem gid_of_rootOf {s : State} {gid : BitVec 16} {r : Root} (found : rootOf s gid = some r) : r.gid = gid := by
  simpa using List.find?_some found

/-- A root that is there is found as it has been replaced. -/
theorem rootOf_withRoot {s : State} {gid : BitVec 16} {r x : Root} (found : rootOf s gid = some r) (same : x.gid = gid) :
    rootOf (withRoot x s) gid = some x := by
  unfold rootOf at found ⊢
  show (s.grp.roots.map (fun y => if y.gid = x.gid then x else y)).find? (fun r => r.gid == gid) = some x
  revert found
  induction s.grp.roots with
  | nil => nofun
  | cons y t ih =>
    intro found
    rw [List.map_cons]
    by_cases this : y.gid = gid
    · simp [this, same]
    · rw [List.find?_cons_of_neg (by simpa using this)] at found
      rw [if_neg (by rw [same]; exact this), List.find?_cons_of_neg (by simpa using this)]
      exact ih found

/-- What the root of a group does where it ends a branch. -/
def Ends (r : Root) (i : BitVec 32) (t : State) : Prop :=
  ∃ x, rootOf t r.gid = some x ∧ x.ended = i :: r.ended.filter (fun j => notAfter j i) ∧ x.gen = r.gen ∧ x.n = r.n

theorem ends_endInstance {s : State} {gid : BitVec 16} {r x : Root} (found : rootOf s gid = some r) (gid' : x.gid = r.gid)
    (ended : x.ended = r.ended) (gen : x.gen = r.gen) (n : x.n = r.n) (i : BitVec 32) (m : GroupMsg) :
    Ends r i (endInstance x i m s) := by
  have there : rootOf s r.gid = some r := by rw [gid_of_rootOf found]; exact found
  exact ⟨_, rootOf_withRoot (x := { x with
    ended := i :: x.ended.filter (fun j => notAfter j i), contribs := x.contribs.filter (fun c => c.inst != i) }) there gid',
    by rw [← ended], gen, n⟩

theorem endInstance_msgs (r : Root) (i : BitVec 32) (m : GroupMsg) (s : State) :
    (endInstance r i m s).grp.msgs = s.grp.msgs ++ [m] := rfl

/-- The reduction, by the number of ones. -/
theorem reduce_eq (red : Red) (n : Nat) (of : List Contrib) : reduce red n (of.map Contrib.vote) =
    (match red with
      | .and => decide ((of.filter (fun x => x.vote)).length = of.length)
      | .or => decide (0 < (of.filter (fun x => x.vote)).length)
      | .maj => decide (n < 2 * (of.filter (fun x => x.vote)).length)) := by
  cases red with
  | and =>
    refine Bool.eq_iff_iff.mpr ?_
    simp [reduce, List.length_filter_eq_length_iff]
  | or =>
    refine Bool.eq_iff_iff.mpr ?_
    simp [reduce, List.length_pos_iff_exists_mem]
  | maj =>
    show decide (n < 2 * ((of.map Contrib.vote).filter (fun v => v)).length) = _
    rw [List.filter_map, List.length_map]
    rfl

section
variable {s : State} {c : Contrib} {r : Root} (running : s.sys.gepochPf = false)
  (arrives : toRoot s (ownMember s c.gid c.ix) (.contrib c) = true) (root : rootOf s c.gid = some r)
include running

theorem exec_contribution_behind (behind : toRoot s (ownMember s c.gid c.ix) (.contrib c) = false) :
    exec (.contributionArrival c) s = .next s := by
  refine congrArg Host.Outcome.next ?_
  rw [running, behind]
  rfl

include arrives root

theorem exec_contribution : exec (.contributionArrival c) s = .next (rootTakes r c (dropMsg (.contrib c) s)) := by
  refine congrArg Host.Outcome.next ?_
  rw [running, arrives]
  show (match rootOf s c.gid with | some r => rootTakes r c (dropMsg (.contrib c) s) | none => dropMsg (.contrib c) s) = _
  rw [root]

end

/-- The contributions of a branch behind one more. -/
def votesWith (r : Root) (c : Contrib) : List Contrib := (r.contribs ++ [c]).filter (fun x => x.inst == c.inst)

theorem rootDrops_taken {r : Root} {c : Contrib} (gen : c.gen = r.gen) (open_ : r.ended.contains c.inst = false)
    (first : r.contribs.any (fun x => x.inst == c.inst && x.ix == c.ix) = false) : rootDrops r c = false := by
  unfold rootDrops
  rw [gen, open_, first]
  simp

section
variable {r : Root} {c : Contrib} (takes : rootDrops r c = false) (s : State)
include takes

theorem rootTakes_mismatch (mixed : (votesWith r c).any (fun x => x.red != c.red) = true) : rootTakes r c s =
    endInstance { r with contribs := r.contribs ++ [c] } c.inst (.timeout r.gid c.inst r.gen true) s :=
  (if_neg (by rw [takes]; exact Bool.false_ne_true)).trans (if_pos mixed)

theorem rootTakes_last (same : (votesWith r c).any (fun x => x.red != c.red) = false) (last : (votesWith r c).length = r.n) :
    rootTakes r c s = endInstance { r with contribs := r.contribs ++ [c] } c.inst
      (.result r.gid c.inst r.gen (reduce c.red r.n ((votesWith r c).map Contrib.vote))) s :=
  (if_neg (by rw [takes]; exact Bool.false_ne_true)).trans ((if_neg (by
    show ¬(votesWith r c).any (fun x => x.red != c.red) = true
    rw [same]
    exact Bool.false_ne_true)).trans (if_pos last))

end

/-! ### Resolution -/

/-- What a result or a timeout settles before the strand resolves. -/
def instanceOver (i : BitVec 32) (r : Bool) (s : State) : State :=
  let s := { s with
    grp := { s.grp with
      openAt := s.grp.openAt.filter (fun o => o.1 != i), stepAt := s.grp.stepAt.filter (fun o => o.1 != i)
      told := s.grp.told.filter (fun j => j != i) }
    strand := { s.strand with pend := s.strand.pend.map (settleOpen i r), cbrSaved := s.strand.cbrSaved.map (settleOpen i r) } }
  if s.grp.cbrx = some i then
    { s with grp := { s.grp with cbrx := none }, sys := { s.sys with grpXc := true, grpXr := r } }
  else s

theorem instanceOver_spec (i : BitVec 32) (r : Bool) (s : State) : (instanceOver i r s).grp.spec = s.grp.spec := by
  unfold instanceOver
  dsimp only
  split <;> rfl

theorem resolveInstance_quiet {i : BitVec 32} {r timeout : Bool} {s : State} (ordinary : s.grp.spec = none) :
    resolveInstance i r timeout s = instanceOver i r s := by
  have still : (instanceOver i r s).grp.spec = none := (instanceOver_spec i r s).trans ordinary
  show (match (instanceOver i r s).grp.spec with
    | some cp =>
      if cp.inst = i then (if r = cp.hint ∧ timeout = false then commit (instanceOver i r s) else squash cp r (instanceOver i r s))
      else instanceOver i r s
    | none => instanceOver i r s) = _
  rw [still]

theorem resolveInstance_ahead {i : BitVec 32} {r timeout : Bool} {s : State} {cp : Checkpoint} (ahead : s.grp.spec = some cp)
    (this : cp.inst = i) : resolveInstance i r timeout s =
      if r = cp.hint ∧ timeout = false then commit (instanceOver i r s) else squash cp r (instanceOver i r s) := by
  have still : (instanceOver i r s).grp.spec = some cp := (instanceOver_spec i r s).trans ahead
  show (match (instanceOver i r s).grp.spec with
    | some cp =>
      if cp.inst = i then (if r = cp.hint ∧ timeout = false then commit (instanceOver i r s) else squash cp r (instanceOver i r s))
      else instanceOver i r s
    | none => instanceOver i r s) = _
  rw [still]
  exact if_pos this

/-! ### Commit -/

/-- The strand as the commit makes it, before its snapshots and its held entries. -/
def committing (s : State) : State :=
  { s with
    sys := { s.sys with spec := false }
    grp := { s.grp with spec := none, issuing := s.grp.issuing ++ s.grp.hold, hold := [], heldWait := true }
    strand := { s.strand with loads := s.strand.loads.map (fun l => { l with ahead := false }) }
    thatch := { s.thatch with entries := s.thatch.entries.map (fun e => if e.ahead then { e with ahead := false, owed := true } else e) } }

theorem commit_eq (s : State) :
    commit s = endHeld (drainHeld (snapHeld (committing s)).grp.issuing (snapHeld (committing s))) := rfl

theorem quiet_snapHeld (s : State) : Quiet s (snapHeld s) :=
  (Quiet.same rfl rfl : Quiet s { s with grp := { s.grp with heldSnaps := [] } }).trans
    (quiet_foldl (fun s _ => quiet_traceSnap _ _ _ _ s) _ _)

theorem quiet_committing (s : State) : Quiet (committing s) (commit s) := by
  rw [commit_eq]
  exact ((quiet_snapHeld _).trans (quiet_drainHeld _ _)).trans (quiet_endHeld _)

theorem commit_spec (s : State) : (commit s).sys.spec = false ∧ (commit s).grp.spec = none :=
  ⟨(quiet_committing s).sys SysRegs.spec (fun _ => rfl), Option.isNone_iff_eq_none.mp
    (by rw [← Option.not_isSome, (quiet_committing s).spec]; rfl)⟩

/-- With an empty window and nothing held, the commit changes no register. -/
theorem commit_strand {s : State} (empty : s.thatch.entries = []) (held : s.grp.hold = []) (issuing : s.grp.issuing = []) :
    (commit s).strand = (committing s).strand := by
  have traced := snapHeld_onlyTraced (committing s)
  unfold OnlyTraced at traced
  have strand : (snapHeld (committing s)).strand = (committing s).strand := by rw [traced]
  have grp : (snapHeld (committing s)).grp.issuing = s.grp.issuing ++ s.grp.hold := by rw [traced]; rfl
  have entries : (snapHeld (committing s)).thatch.entries = [] := by
    rw [traced]
    exact congrArg (List.map _) empty
  rw [commit_eq, grp, held, issuing]
  refine Eq.trans (congrArg State.strand (if_neg ?_)) strand
  show ¬(_ && (snapHeld (committing s)).thatch.entries.any Entry.owed) = true
  rw [entries]
  exact nofun

/-! ### Squash -/

theorem comeHome_cons (offs : List Nat) (s : State) (older : List (Entry × Bool)) (e : Entry) (l : List Entry) :
    ∃ (x : Entry) (older' : List (Entry × Bool)), comeHome offs s older (e :: l) = x :: comeHome offs s older' l ∧ x.ahead = e.ahead :=
  ⟨_, _, rfl, rfl⟩

theorem mem_comeHome {offs : List Nat} {s : State} {l : List Entry} (kept : ∀ e ∈ l, e.ahead = false) (older : List (Entry × Bool)) :
    ∀ e ∈ comeHome offs s older l, e.ahead = false := by
  induction l generalizing older with
  | nil => exact fun e member => absurd (show e ∈ ([] : List Entry) from member) List.not_mem_nil
  | cons y l ih =>
    obtain ⟨x, older', first, same⟩ := comeHome_cons offs s older y l
    rw [first]
    intro e member
    rcases List.mem_cons.mp member with this | later
    · rw [this, same]
      exact kept y (.head _)
    · exact ih (fun e among => kept e (.tail _ among)) older' e later

theorem freeAhead_entries (s : State) : ∀ e ∈ (freeAhead s).thatch.entries, e.ahead = false :=
  mem_comeHome (fun e among => by simpa using (List.mem_filter.mp among).2) []

/-- The strand that continues behind a squash, with no loop active at the checkpoint. -/
theorem squash_eq {cp : Checkpoint} (outside : cp.xstat.depth = 0) (r : Bool) (s : State) :
    squash cp r s = releaseAll (withPc (restoreCheckpoint cp (freeAhead s)) (if r then cp.target else cp.fall)) := by
  have depth : (restoreCheckpoint cp (freeAhead s)).strand.xstat.depth = 0 := outside
  show releaseAll (if r then transferTo 2 4 cp.target (restoreCheckpoint cp (freeAhead s))
    else afterWord 4 (cp.fall - 1) (restoreCheckpoint cp (freeAhead s))) = _
  cases r with
  | true =>
    rw [if_pos rfl, if_pos rfl, transferTo, if_neg (fun active => active.1 depth)]
  | false =>
    rw [if_neg Bool.false_ne_true, if_neg Bool.false_ne_true, afterWord]
    rw [if_neg (fun active => active.1 depth), BitVec.sub_add_cancel]

/-- What a squash restores. -/
structure Squashed (cp : Checkpoint) (r : Bool) (t : State) : Prop where
  ordinary : t.sys.spec = false
  spec : t.grp.spec = none
  hold : t.grp.hold = []
  snaps : t.grp.heldSnaps = []
  g : t.strand.g = cp.g
  c : t.strand.c = cp.c
  tb : t.strand.tb = cp.tb
  ras : t.strand.ras = cp.ras
  boxes : t.store.boxes = cp.boxes
  pc : t.strand.pc = if r then cp.target else cp.fall
  entries : ∀ e ∈ t.thatch.entries, e.ahead = false

theorem squashed_squash {cp : Checkpoint} (outside : cp.xstat.depth = 0) (r : Bool) (s : State) : Squashed cp r (squash cp r s) := by
  rw [squash_eq outside]
  refine ⟨rfl, rfl, rfl, rfl, rfl, rfl, rfl, rfl, rfl, rfl, fun e among => ?_⟩
  obtain ⟨x, member, rfl⟩ := List.mem_map.mp among
  have home := freeAhead_entries s x member
  have same (b : Bool) : (if b then { x with state := .ready } else x).ahead = x.ahead := by split <;> rfl
  exact (same _).trans home

theorem Squashed.raiseAsync {cp : Checkpoint} {r : Bool} {t : State} (h : Squashed cp r t) (a : Async) : Squashed cp r (raiseAsync a t) := by
  unfold Machine.raiseAsync
  split
  · exact ⟨h.ordinary, h.spec, h.hold, h.snaps, h.g, h.c, h.tb, h.ras, h.boxes, h.pc, h.entries⟩
  · exact h

/-! ### Results and commits that arrive -/

section
variable {s : State} {gid : BitVec 16} {gen : Nat}

theorem exec_result_early {i : BitVec 32} {b : Bool} (early : sentHere s (.result gid i gen b) = false) :
    exec (.branchResultArrival ⟨gid, i⟩ gen b) s = .next s := congrArg Host.Outcome.next (if_pos early)

variable {i : BitVec 32} {b : Bool} (sent : sentHere s (.result gid i gen b) = true)
include sent

theorem exec_result : exec (.branchResultArrival ⟨gid, i⟩ gen b) s = .next
    (if resultMine s gid i gen then
      (if !rootHere s gid && stepOwed s i then waitInFlight (.result gid i gen b) s
        else resolveInstance i b false (dropMsg (.result gid i gen b) s))
    else dropMsg (.result gid i gen b) s) :=
  congrArg Host.Outcome.next (if_neg (fun early => Bool.noConfusion (sent.symm.trans early)))

theorem exec_result_other (other : gid ≠ s.sys.grpid ∨ s.sys.grpn = 0) :
    exec (.branchResultArrival ⟨gid, i⟩ gen b) s = .next (dropMsg (.result gid i gen b) s) := by
  have away : ownGroup s gid = false := by
    unfold ownGroup
    rcases other with h | h <;> simp [h]
  rw [exec_result sent, resultMine, away]
  rfl

end

theorem ownGroup_self {s : State} (member : s.sys.grpn ≠ 0) : ownGroup s s.sys.grpid = true := by
  unfold ownGroup
  simpa using member

section
variable {s : State} {i : BitVec 32} {b : Bool} (sent : sentHere s (.result s.sys.grpid i s.grp.gen b) = true)
  (member : s.sys.grpn ≠ 0) (waits : isOpen s i = true)
include sent member waits

theorem exec_result_mine : exec (.branchResultArrival ⟨s.sys.grpid, i⟩ s.grp.gen b) s = .next
    (if !rootHere s s.sys.grpid && stepOwed s i then waitInFlight (.result s.sys.grpid i s.grp.gen b) s
      else resolveInstance i b false (dropMsg (.result s.sys.grpid i s.grp.gen b) s)) := by
  rw [exec_result sent, resultMine, ownGroup_self member, waits, beq_self_eq_true]
  rfl

theorem exec_result_resolves (formed : (!rootHere s s.sys.grpid && stepOwed s i) = false) :
    exec (.branchResultArrival ⟨s.sys.grpid, i⟩ s.grp.gen b) s = .next
      (resolveInstance i b false (dropMsg (.result s.sys.grpid i s.grp.gen b) s)) := by
  rw [exec_result_mine sent member waits, formed]
  rfl

end

end Sys2Proof.Machine
end

section
/-! The events of a group, continued: timeouts, steps, aborts and the phase fence (spec/19_fabric_groups.md R367, R369, R370, R374), and
the statement about them all. -/

namespace Sys2Proof.Machine

/-! ### Timeouts (R367) -/

theorem exec_expiry_root {s : State} {i : BitVec 32} {r : Root} (expired : expiredInstance s = some i) (root : ownRoot s = some r) :
    exec .cbrtoExpiry s = .next (rootExpires r i s) := by
  refine congrArg Host.Outcome.next ?_
  rw [expired]
  dsimp only
  rw [root]

theorem exec_expiry_away {s : State} {i : BitVec 32} (expired : expiredInstance s = some i) (away : ownRoot s = none) :
    exec .cbrtoExpiry s = .next (sendMsg (.expiry s.sys.grpid i s.grp.gen) { s with grp := { s.grp with told := i :: s.grp.told } }) := by
  refine congrArg Host.Outcome.next ?_
  rw [expired]
  dsimp only
  rw [away]

theorem rootExpires_open {r : Root} {i : BitVec 32} (open_ : r.ended.contains i = false) (s : State) :
    rootExpires r i s = endInstance r i (.timeout r.gid i r.gen false) s := if_neg (by rw [open_]; exact Bool.false_ne_true)

theorem rootOf_of_ownRoot {s : State} {r : Root} (root : ownRoot s = some r) : rootOf s s.sys.grpid = some r := by
  unfold ownRoot at root
  split at root
  · cases root
  · exact root

/-- A timeout notice that is no expiry of this member: the root of the group that it reaches, or this member. -/
theorem exec_timeout {s : State} {gid : BitVec 16} {i : BitVec 32} {gen : Nat} {m : Bool}
    (fresh : s.grp.msgs.contains (.expiry gid i gen) = false ∨ m = true) :
    exec (.instanceTimeoutArrival ⟨gid, i⟩ gen m) s = .next
      (match (if s.grp.msgs.contains (.timeout gid i gen m) then none else rootOf s gid) with
        | some r => if gen = r.gen ∧ m = false then rootExpires r i s else s
        | none =>
          if ownGroup s gid && gen == s.grp.gen && (isOpen s i || notContributed s i) then memberTimeout i m (dropMsg (.timeout gid i gen m) s)
          else dropMsg (.timeout gid i gen m) s) := by
  refine congrArg Host.Outcome.next (if_neg ?_)
  rw [Bool.and_eq_true]
  rintro ⟨told, plain⟩
  rcases fresh with none | mismatch
  · exact Bool.false_ne_true (none.symm.trans told)
  · rw [mismatch] at plain
    exact Bool.false_ne_true plain

theorem exec_timeout_member {s : State} {i : BitVec 32} {m : Bool} (fresh : s.grp.msgs.contains (.expiry s.sys.grpid i s.grp.gen) = false ∨ m = true)
    (away : rootOf s s.sys.grpid = none ∨ s.grp.msgs.contains (.timeout s.sys.grpid i s.grp.gen m) = true) (member : s.sys.grpn ≠ 0)
    (waits : (isOpen s i || notContributed s i) = true) : exec (.instanceTimeoutArrival ⟨s.sys.grpid, i⟩ s.grp.gen m) s =
      .next (memberTimeout i m (dropMsg (.timeout s.sys.grpid i s.grp.gen m) s)) := by
  have noRoot : (if s.grp.msgs.contains (.timeout s.sys.grpid i s.grp.gen m) then none else rootOf s s.sys.grpid) = none := by
    rcases away with none | sent
    · rw [none]
      exact ite_self _
    · exact if_pos sent
  rw [exec_timeout fresh, noRoot, ownGroup_self member, beq_self_eq_true, waits]
  rfl

theorem memberTimeout_ahead {i : BitVec 32} {m : Bool} {s : State} (ahead : notContributed s i = true) (running : live s = true) :
    memberTimeout i m s = { s with
      sys := { s.sys with grpCi := i + 1, grpXc := true, grpXr := false }
      thatch := { s.thatch with async := s.thatch.async ++
        [{ cause := .cbrTimeout, info := BitVec.ofNat 32 (i.toNat % 2 ^ 31 + 2 ^ 31 * m.toNat), src := 6 }] } } := by
  unfold memberTimeout
  rw [ahead]
  exact if_pos running

theorem memberTimeout_open {i : BitVec 32} {m : Bool} {s : State} {cp : Checkpoint} (contributed : notContributed s i = false)
    (ahead : s.grp.spec = some cp) (this : cp.inst = i) (outside : cp.xstat.depth = 0) : Squashed cp false (memberTimeout i m s) := by
  unfold memberTimeout
  rw [contributed, resolveInstance_ahead ahead this, if_neg Bool.false_ne_true, if_neg (fun commits => Bool.noConfusion commits.2)]
  exact (squashed_squash outside false (instanceOver i false s)).raiseAsync _

theorem exec_timeout_root {s : State} {gid : BitVec 16} {i : BitVec 32} {r : Root} (fresh : s.grp.msgs.contains (.expiry gid i r.gen) = false)
    (unsent : s.grp.msgs.contains (.timeout gid i r.gen false) = false) (root : rootOf s gid = some r) :
    exec (.instanceTimeoutArrival ⟨gid, i⟩ r.gen false) s = .next (rootExpires r i s) := by
  rw [exec_timeout (.inl fresh), unsent, root]
  exact congrArg Host.Outcome.next (if_pos ⟨rfl, rfl⟩)

/-! ### Steps (R369) -/

section
variable {s : State} {m : StepMark} {r : Root} (running : s.sys.gepochPf = false)
  (arrives : toRoot s (ownMember s m.gid m.ix) (.mark m) = true) (root : rootOf s m.gid = some r) (gen : m.gen = r.gen)
  (first : r.marks.contains m = false)
include running arrives root gen first

theorem exec_mark : exec (.stepMarkArrival m) s = .next (commitSteps 16 { r with marks := r.marks ++ [m] } (dropMsg (.mark m) s)) := by
  refine congrArg Host.Outcome.next ?_
  rw [running, arrives]
  show (match rootOf s m.gid with
    | some r => if m.gen = r.gen ∧ r.marks.contains m = false then commitSteps 16 { r with marks := r.marks ++ [m] } (dropMsg (.mark m) s)
      else dropMsg (.mark m) s
    | none => dropMsg (.mark m) s) = _
  rw [root]
  exact if_pos ⟨gen, first⟩

end

theorem commitSteps_none {n : Nat} {r : Root} (partial_ : stepComplete r (r.step + 1) = false) (s : State) :
    commitSteps (n + 1) r s = withRoot r s := if_neg (by rw [partial_]; exact Bool.false_ne_true)

/-- The root behind its next step. -/
def steppedRoot (r : Root) : Root := { r with step := r.step + 1, marks := r.marks.filter (fun x => x.step != r.step + 1) }

theorem commitSteps_one {n : Nat} {r : Root} (whole : stepComplete r (r.step + 1) = true)
    (last : stepComplete (steppedRoot r) (r.step + 2) = false) (s : State) :
    commitSteps (n + 2) r s = withRoot (steppedRoot r) (sendMsg (.commit r.gid (r.step + 1) r.gen) s) := by
  have next : (steppedRoot r).step + 1 = r.step + 2 := BitVec.add_assoc r.step 1 1
  exact (if_pos whole).trans (commitSteps_none (r := steppedRoot r) (by rw [next]; exact last) _)

section
variable {s : State} {gid : BitVec 16} {st : BitVec 32} {gen : Nat} (sent : sentHere s (.commit gid st gen) = true)
include sent

theorem exec_commit : exec (.stepCommitArrival ⟨gid, st⟩ gen) s = .next
    (if gen = s.grp.gen ∧ ownGroup s gid = true ∧ st = s.sys.gstepStep + 1 then
      { dropMsg (.commit gid st gen) s with sys := { s.sys with gstepStep := st } }
    else dropMsg (.commit gid st gen) s) :=
  congrArg Host.Outcome.next (if_neg (fun early => Bool.noConfusion (sent.symm.trans early)))

theorem exec_commit_other (other : gid ≠ s.sys.grpid ∨ s.sys.grpn = 0) :
    exec (.stepCommitArrival ⟨gid, st⟩ gen) s = .next (dropMsg (.commit gid st gen) s) := by
  have away : ownGroup s gid = false := by
    unfold ownGroup
    rcases other with h | h <;> simp [h]
  rw [exec_commit sent, away]
  exact congrArg Host.Outcome.next (if_neg (fun mine => Bool.false_ne_true mine.2.1))

end

theorem exec_commit_mine {s : State} {st : BitVec 32} (sent : sentHere s (.commit s.sys.grpid st s.grp.gen) = true) (member : s.sys.grpn ≠ 0)
    (next : st = s.sys.gstepStep + 1) : exec (.stepCommitArrival ⟨s.sys.grpid, st⟩ s.grp.gen) s = .next
      { dropMsg (.commit s.sys.grpid st s.grp.gen) s with sys := { s.sys with gstepStep := st } } :=
  (exec_commit sent).trans (congrArg Host.Outcome.next (if_pos ⟨rfl, ownGroup_self member, next⟩))

/-! ### Aborts (R370) -/

theorem exec_abortAtRoot {s : State} {k : AbortToken} {r : Root} (running : s.sys.gepochPf = false) (root : rootOf s k.gid = some r)
    (gen : k.gen = r.gen) : exec (.abortTokenAtRoot k) s = .next (sendMsg (.abortDown { k with step := r.step })
      (withRoot { r with gen := r.gen + 1, contribs := [], marks := [], ended := [] } (dropMsg (.abortUp k) s))) := by
  refine congrArg Host.Outcome.next ?_
  rw [running]
  show (match rootOf s k.gid with
    | some r =>
      if k.gen = r.gen then
        sendMsg (.abortDown { k with step := r.step })
          (withRoot { r with gen := r.gen + 1, contribs := [], marks := [], ended := [] } (dropMsg (.abortUp k) s))
      else dropMsg (.abortUp k) s
    | none => dropMsg (.abortUp k) s) = _
  rw [root]
  exact if_pos gen

/-- Steps 1 to 3 of an abort. -/
def aborting (k : AbortToken) (s : State) : State := failPips (freeWindow (squashForAbort (dropMsg (.abortDown k) s)))

/-- Steps 4 and on. -/
def abortEnds (k : AbortToken) (s : State) : State :=
  raiseAsync { cause := .abort, info := k.info, src := 6 } { s with
    grp := { s.grp with gen := s.grp.gen + 1, openAt := [], stepAt := [], told := [], cbrx := none }
    sys := { s.sys with grpCi := 0, grpXc := false, gstepStep := k.step, gstepLocal := k.step } }

theorem exec_abort {s : State} {k : AbortToken} (running : s.sys.gepochPf = false) (sent : sentHere s (.abortDown k) = true)
    (gen : k.gen = s.grp.gen) (group : ownGroup s k.gid = true) :
    exec (.abortTokenArrival k) s = .next (abortEnds k (aborting k s)) := by
  refine congrArg Host.Outcome.next ?_
  exact (if_neg (by rw [running]; exact Bool.false_ne_true)).trans (if_pos ⟨sent, gen, group⟩)

/-- From `s` to `t` only pips and packets of the fabric differ. -/
def OnlyPips (s t : State) : Prop := t = { s with fab := t.fab, links := t.links }

theorem OnlyPips.trans {s t u : State} (h : OnlyPips s t) (k : OnlyPips t u) : OnlyPips s u := by
  unfold OnlyPips at *
  rw [k, h]

theorem onlyPips_foldl {α : Type} {f : State → α → State} (each : ∀ s x, OnlyPips s (f s x)) (l : List α) (s : State) :
    OnlyPips s (l.foldl f s) := by
  induction l generalizing s with
  | nil => exact (rfl : OnlyPips s s)
  | cons x t ih => exact (each s x).trans (ih (f s x))

theorem onlyPips_sendOut (s : State) (p : Packet) : OnlyPips s (sendOut s p) := by
  unfold sendOut queueFlits
  dsimp only
  split
  · split <;> rfl
  · split <;> rfl

theorem onlyPips_failPip (n : Nat) (s : State) : OnlyPips s (failPip n s) := by
  unfold failPip
  dsimp only
  split
  · exact (onlyPips_foldl onlyPips_sendOut _ s).trans (rfl : OnlyPips _ (setPip n _ _))
  · exact (rfl : OnlyPips s s)

theorem onlyPips_failPips (s : State) : OnlyPips s (failPips s) :=
  (onlyPips_foldl (fun s n => onlyPips_failPip n s) _ s).trans
    (rfl : OnlyPips ((s.fab.pips.map Prod.fst).foldl (fun s n => failPip n s) s) (failPips s))

theorem onlyPips_pipRetired (e : Entry) (s : State) : OnlyPips s (pipRetired e s) := by
  unfold pipRetired
  split <;> rfl

/-- The strand at an abort, with no speculation to squash. -/
theorem squashForAbort_ordinary {s : State} (ordinary : s.grp.spec = none) : squashForAbort s = { s with strand := { s.strand with
    pend := s.strand.pend.map closeOpen, cbrSaved := s.strand.cbrSaved.map closeOpen } } := by
  unfold squashForAbort
  rw [ordinary]

theorem freeWindow_rest (s : State) : (freeWindow s).thatch.entries = [] ∧ (freeWindow s).thatch.dir = [] ∧
    (freeWindow s).strand = s.strand ∧ (freeWindow s).grp = s.grp := by
  have pips := onlyPips_foldl (fun s e => onlyPips_pipRetired e s) s.thatch.entries s
  unfold OnlyPips at pips
  refine ⟨rfl, rfl, ?_, ?_⟩
  · exact (congrArg State.strand pips :)
  · exact (congrArg State.grp pips :)

theorem aborting_rest {s : State} (k : AbortToken) (ordinary : s.grp.spec = none) : (aborting k s).thatch.entries = [] ∧
    (aborting k s).thatch.dir = [] ∧ (aborting k s).grp.gen = s.grp.gen ∧ live (aborting k s) = live s := by
  obtain ⟨entries, dir, strand, grp⟩ := freeWindow_rest (squashForAbort (dropMsg (.abortDown k) s))
  have pips := onlyPips_failPips (freeWindow (squashForAbort (dropMsg (.abortDown k) s)))
  unfold OnlyPips at pips
  have squashed := squashForAbort_ordinary (s := dropMsg (.abortDown k) s) ordinary
  unfold aborting live
  rw [pips]
  refine ⟨entries, dir, (congrArg Group.gen grp).trans (by rw [squashed]; rfl), ?_⟩
  dsimp only
  rw [strand, squashed]
  rfl

theorem abortEnds_live {k : AbortToken} {s : State} (running : live s = true) : abortEnds k s = { s with
    thatch := { s.thatch with async := s.thatch.async ++ [{ cause := .abort, info := k.info, src := 6 }] }
    grp := { s.grp with gen := s.grp.gen + 1, openAt := [], stepAt := [], told := [], cbrx := none }
    sys := { s.sys with grpCi := 0, grpXc := false, gstepStep := k.step, gstepLocal := k.step } } := if_pos running

/-! ### The phase fence (R374) -/

theorem exec_phase_new {s : State} (free : s.fab.phase = none) (ep : BitVec 16) : exec (.phase ep) s = .next { wakeAll s with
    fab := { s.fab with phase := some { epoch := ep, drained := false, since := s.pkg.time } }
    sys := { s.sys with gepochPf := true } } := by
  refine congrArg Host.Outcome.next (if_neg ?_)
  show ¬s.fab.phase.isSome = true
  rw [free]
  nofun

theorem exec_drained {s : State} {p : Phase} (fence : s.fab.phase = some p) (fresh : p.drained = false) (clear : phaseBusy p.epoch s = false) :
    exec .drainedAnswer s = .next { s with
      fab := { s.fab with phase := some { p with drained := true } }
      pkg := { s.pkg with answers := s.pkg.answers ++ [.drained p.epoch] } } := by
  refine congrArg Host.Outcome.next ?_
  rw [fence]
  exact if_neg (by rw [fresh, clear]; nofun)

theorem exec_phaseDone {s : State} {p : Phase} (fence : s.fab.phase = some p) (drained : p.drained = true) :
    exec .phaseDone s = .next (releaseAll { wakeAll s with
      fab := { s.fab with phase := none, held := s.fab.held.map (fun (h : Held) => { h with time := shiftTimer p.since s.pkg.time h.time }) }
      grp := { s.grp with openAt := s.grp.openAt.map (fun (o : BitVec 32 × Word) => (o.1, shiftTimer p.since s.pkg.time o.2)) }
      sys := { s.sys with gepochPf := false, gepoch := if live s then p.epoch else s.sys.gepoch } }) := by
  refine congrArg Host.Outcome.next ?_
  show (match s.fab.phase with | some p => _ | none => _) = _
  rw [fence]
  exact if_pos drained

theorem shiftTimer_eq (since now t : Word) : shiftTimer since now t = if since.toNat ≤ t.toNat then now else t + (now - since) := by
  unfold shiftTimer
  by_cases later : since.toNat ≤ t.toNat
  · rw [if_pos later]
    exact if_pos (decide_eq_true later)
  · rw [if_neg later]
    exact if_neg (by simpa [BitVec.ule] using later)

/-! ### The statement -/

section
variable {s : State} {c : Contrib} {r : Root} (running : s.sys.gepochPf = false)
  (mine : ownMember s c.gid c.ix = false ∨ s.grp.msgs.find? (fun x => goesUp x && msgGid x == c.gid) = some (.contrib c))
  (root : rootOf s c.gid = some r) (gen : c.gen = r.gen) (open_ : r.ended.contains c.inst = false)
  (first : r.contribs.any (fun x => x.inst == c.inst && x.ix == c.ix) = false)
include running mine root gen open_ first

theorem contribution_last (same : (votesWith r c).any (fun x => x.red != c.red) = false) (last : (votesWith r c).length = r.n) :
    ∃ t : State, exec (.contributionArrival c) s = .next t ∧
      t.grp.msgs = s.grp.msgs.erase (.contrib c) ++ [.result c.gid c.inst r.gen (match c.red with
        | .and => decide (((votesWith r c).filter (fun x => x.vote)).length = (votesWith r c).length)
        | .or => decide (0 < ((votesWith r c).filter (fun x => x.vote)).length)
        | .maj => decide (r.n < 2 * ((votesWith r c).filter (fun x => x.vote)).length))] ∧
      Ends r c.inst t ∧ t.strand = s.strand := by
  have arrives := toRoot_first (s := s) (own := ownMember s c.gid c.ix) (m := .contrib c) rfl mine
  refine ⟨_, (exec_contribution running arrives root).trans
    (congrArg Host.Outcome.next (rootTakes_last (rootDrops_taken gen open_ first) _ same last)), ?_, ?_, rfl⟩
  · rw [reduce_eq, ← gid_of_rootOf root]
    rfl
  · exact ends_endInstance (s := dropMsg (.contrib c) s) (x := { r with contribs := r.contribs ++ [c] }) root rfl rfl rfl rfl _ _

theorem contribution_mixed (mixed : (votesWith r c).any (fun x => x.red != c.red) = true) :
    ∃ t : State, exec (.contributionArrival c) s = .next t ∧
      t.grp.msgs = s.grp.msgs.erase (.contrib c) ++ [.timeout c.gid c.inst r.gen true] ∧ Ends r c.inst t := by
  have arrives := toRoot_first (s := s) (own := ownMember s c.gid c.ix) (m := .contrib c) rfl mine
  refine ⟨_, (exec_contribution running arrives root).trans
    (congrArg Host.Outcome.next (rootTakes_mismatch (rootDrops_taken gen open_ first) _ mixed)), ?_, ?_⟩
  · rw [← gid_of_rootOf root]
    rfl
  · exact ends_endInstance (s := dropMsg (.contrib c) s) (x := { r with contribs := r.contribs ++ [c] }) root rfl rfl rfl rfl _ _

end

section
variable {s : State} {i : BitVec 32} {b : Bool} (sent : sentHere s (.result s.sys.grpid i s.grp.gen b) = true)
  (member : s.sys.grpn ≠ 0) (waits : isOpen s i = true)
include sent member waits

theorem result_for_cbrx (formed : (!rootHere s s.sys.grpid && stepOwed s i) = false) (cbrx : s.grp.cbrx = some i) (ordinary : s.grp.spec = none) :
    ∃ t : State, exec (.branchResultArrival ⟨s.sys.grpid, i⟩ s.grp.gen b) s = .next t ∧ t.sys.grpXc = true ∧ t.sys.grpXr = b ∧
      t.grp.cbrx = none ∧ t.grp.openAt = s.grp.openAt.filter (fun o => o.1 != i) := by
  refine ⟨_, exec_result_resolves sent member waits formed, ?_⟩
  rw [resolveInstance_quiet (s := dropMsg _ s) ordinary]
  unfold instanceOver
  dsimp only
  rw [if_pos (show (dropMsg (.result s.sys.grpid i s.grp.gen b) s).grp.cbrx = some i from cbrx)]
  exact ⟨rfl, rfl, rfl, rfl⟩

variable {cp : Checkpoint}

theorem result_commits (formed : (!rootHere s s.sys.grpid && stepOwed s i) = false) (noCbrx : s.grp.cbrx = none)
    (ahead : s.grp.spec = some cp) (this : cp.inst = i) (hint : b = cp.hint) (hold : s.grp.hold = []) (issuing : s.grp.issuing = []) :
    ∃ t : State, exec (.branchResultArrival ⟨s.sys.grpid, i⟩ s.grp.gen b) s = .next t ∧ t.sys.spec = false ∧ t.grp.spec = none ∧
      (s.thatch.entries = [] → t.strand.g = s.strand.g ∧ t.strand.pc = s.strand.pc) := by
  refine ⟨_, exec_result_resolves sent member waits formed, ?_⟩
  rw [resolveInstance_ahead (s := dropMsg _ s) ahead this, if_pos ⟨hint, rfl⟩]
  refine ⟨(commit_spec _).1, (commit_spec _).2, fun empty => ?_⟩
  have settles : instanceOver i b (dropMsg (.result s.sys.grpid i s.grp.gen b) s) = { s with
      grp := { s.grp with
        openAt := s.grp.openAt.filter (fun o => o.1 != i), stepAt := s.grp.stepAt.filter (fun o => o.1 != i)
        told := s.grp.told.filter (fun j => j != i), msgs := s.grp.msgs.erase (.result s.sys.grpid i s.grp.gen b) }
      strand := { s.strand with pend := s.strand.pend.map (settleOpen i b), cbrSaved := s.strand.cbrSaved.map (settleOpen i b) } } :=
    if_neg (by
      show ¬s.grp.cbrx = some i
      rw [noCbrx]
      nofun)
  rw [settles, commit_strand (by exact empty) (by exact hold) (by exact issuing)]
  exact ⟨rfl, rfl⟩

theorem result_squashes (formed : (!rootHere s s.sys.grpid && stepOwed s i) = false) (ahead : s.grp.spec = some cp) (this : cp.inst = i)
    (other : b ≠ cp.hint) (outside : cp.xstat.depth = 0) :
    ∃ t : State, exec (.branchResultArrival ⟨s.sys.grpid, i⟩ s.grp.gen b) s = .next t ∧ Squashed cp b t := by
  refine ⟨_, exec_result_resolves sent member waits formed, ?_⟩
  rw [resolveInstance_ahead (s := dropMsg _ s) ahead this, if_neg (fun commits => other commits.1)]
  exact squashed_squash outside b _

end

section
variable {s : State} {m : StepMark} {r : Root} (running : s.sys.gepochPf = false)
  (mine : ownMember s m.gid m.ix = false ∨ s.grp.msgs.find? (fun x => goesUp x && msgGid x == m.gid) = some (.mark m))
  (root : rootOf s m.gid = some r) (gen : m.gen = r.gen) (fresh : r.marks.contains m = false)
include running mine root gen fresh

theorem mark_waits (partial_ : stepComplete { r with marks := r.marks ++ [m] } (r.step + 1) = false) :
    ∃ t : State, exec (.stepMarkArrival m) s = .next t ∧ rootOf t m.gid = some { r with marks := r.marks ++ [m] } ∧
      t.grp.msgs = s.grp.msgs.erase (.mark m) := by
  have arrives := toRoot_first (s := s) (own := ownMember s m.gid m.ix) (m := .mark m) rfl mine
  refine ⟨_, (exec_mark running arrives root gen fresh).trans (congrArg Host.Outcome.next (commitSteps_none partial_ _)), ?_, rfl⟩
  exact rootOf_withRoot (s := dropMsg (.mark m) s) root (gid_of_rootOf root :)

theorem mark_commits (whole : stepComplete { r with marks := r.marks ++ [m] } (r.step + 1) = true)
    (last : stepComplete (steppedRoot { r with marks := r.marks ++ [m] }) (r.step + 2) = false) :
    ∃ t : State, exec (.stepMarkArrival m) s = .next t ∧ rootOf t m.gid = some (steppedRoot { r with marks := r.marks ++ [m] }) ∧
      t.grp.msgs = s.grp.msgs.erase (.mark m) ++ [.commit m.gid (r.step + 1) r.gen] := by
  have arrives := toRoot_first (s := s) (own := ownMember s m.gid m.ix) (m := .mark m) rfl mine
  refine ⟨_, (exec_mark running arrives root gen fresh).trans (congrArg Host.Outcome.next (commitSteps_one (n := 14) whole last _)), ?_, ?_⟩
  · exact rootOf_withRoot (s := sendMsg (.commit r.gid (r.step + 1) r.gen) (dropMsg (.mark m) s)) root (gid_of_rootOf root :)
  · rw [← gid_of_rootOf root]
    rfl

end

theorem abortArrives {s : State} {k : AbortToken} (running : s.sys.gepochPf = false) (sent : sentHere s (.abortDown k) = true)
    (gen : k.gen = s.grp.gen) (group : k.gid = s.sys.grpid) (member : s.sys.grpn ≠ 0) (ordinary : s.grp.spec = none) (runs : live s = true) :
    ∃ t : State, exec (.abortTokenArrival k) s = .next t ∧ t.thatch.entries = [] ∧ t.thatch.dir = [] ∧ t.grp.gen = s.grp.gen + 1 ∧
      t.grp.openAt = [] ∧ t.sys.grpCi = 0 ∧ t.sys.gstepStep = k.step ∧ t.sys.gstepLocal = k.step ∧
      { cause := .abort, info := k.info, src := 6 } ∈ t.thatch.async := by
  obtain ⟨entries, dir, same, still⟩ := aborting_rest k ordinary
  refine ⟨_, (exec_abort running sent gen (group ▸ ownGroup_self member)).trans
    (congrArg Host.Outcome.next (abortEnds_live (still.trans runs))), entries, dir, congrArg (· + 1) same, rfl, rfl, rfl, rfl, ?_⟩
  exact List.mem_append_right _ (List.mem_singleton_self _)

/-- Settles O54: the events of a group, at the root and at a member. -/
theorem groupEvents : Obligations.GroupEvents := by
  intro s g open_ inFlight mine ends
  have flies {m : GroupMsg} {i : Instr} (waits : s.sys.gepochPf = true → exec i s = .next (waitInFlight m s)) : inFlight i m := waits
  refine ⟨fun c => flies fun f => ?_, fun m => flies fun f => ?_, fun k => flies fun f => ?_, fun k => flies fun f => ?_,
    fun c r running own root gen still first => ?_, fun c running own behind => ?_, fun i b sent member waits => ?_,
    fun gid i gen b early => exec_result_early early, fun gid i gen b sent other => exec_result_other sent other,
    fun gid st gen sent other => exec_commit_other sent other, fun i expired => ⟨fun r root still => ?_, fun away => ?_⟩,
    fun i m fresh away member ahead running => ?_, fun gid i r fresh unsent root still => ?_,
    fun i cp away fresh member waits contributed ahead this outside => ?_, fun m r running own root gen fresh => ?_,
    fun st sent member next => ⟨_, exec_commit_mine sent member next, rfl, rfl⟩, fun k r running root gen => ?_,
    fun k running sent gen group member ordinary runs => abortArrives running sent gen group member ordinary runs,
    fun ep free => ⟨_, exec_phase_new free ep, rfl, rfl, rfl⟩, fun p fence => ⟨fun fresh clear => ⟨_, exec_drained fence fresh clear, rfl, rfl⟩, fun drained => ?_⟩⟩
  · exact congrArg Host.Outcome.next (if_pos f)
  · exact congrArg Host.Outcome.next (if_pos f)
  · exact congrArg Host.Outcome.next (if_pos f)
  · exact congrArg Host.Outcome.next (if_pos f)
  · exact ⟨fun same last => contribution_last running own root gen still first same last,
      fun mixed => contribution_mixed running own root gen still first mixed⟩
  · exact exec_contribution_behind running (by rw [own]; exact toRoot_behind rfl behind)
  · refine ⟨fun owed => ?_, fun formed cbrx ordinary => result_for_cbrx sent member waits formed cbrx ordinary,
      fun cp formed noCbrx ahead this hint hold issuing => result_commits sent member waits formed noCbrx ahead this hint hold issuing,
      fun cp formed noCbrx ahead this other outside => ?_⟩
    · exact (exec_result_mine sent member waits).trans (congrArg Host.Outcome.next (if_pos owed))
    · obtain ⟨t, runs, h⟩ := result_squashes sent member waits formed ahead this other outside
      exact ⟨t, runs, h.ordinary, h.spec, h.hold, h.snaps, h.g, h.c, h.tb, h.ras, h.boxes, h.pc, h.entries⟩
  · refine ⟨_, (exec_expiry_root expired root).trans (congrArg Host.Outcome.next (rootExpires_open still s)), rfl, ?_⟩
    exact ends_endInstance (rootOf_of_ownRoot root) rfl rfl rfl rfl _ _
  · exact exec_expiry_away expired away
  · refine ⟨_, (exec_timeout_member fresh away member (by rw [ahead, Bool.or_true])).trans
      (congrArg Host.Outcome.next (memberTimeout_ahead (s := dropMsg _ s) ahead running)), rfl, rfl, rfl, rfl⟩
  · refine ⟨_, (exec_timeout_root fresh unsent root).trans (congrArg Host.Outcome.next (rootExpires_open still s)),
      by rw [← gid_of_rootOf root]; rfl, ?_, rfl, rfl⟩
    exact ends_endInstance root rfl rfl rfl rfl _ _
  · have h := memberTimeout_open (s := dropMsg (.timeout g i s.grp.gen false) s) (m := false) contributed ahead this outside
    exact ⟨_, exec_timeout_member (.inl fresh) (.inl away) member (by rw [waits, Bool.true_or]), h.ordinary, h.g, h.pc⟩
  · exact ⟨fun partial_ => mark_waits running own root gen fresh partial_,
      fun whole last => mark_commits running own root gen fresh whole last⟩
  · refine ⟨_, exec_abortAtRoot running root gen, ?_, rfl⟩
    exact rootOf_withRoot (s := dropMsg (.abortUp k) s) root (gid_of_rootOf root :)
  · refine ⟨_, exec_phaseDone fence drained, rfl, rfl, fun runs => if_pos runs, ?_⟩
    exact List.map_congr_left fun o _ => congrArg (Prod.mk o.1) (shiftTimer_eq _ _ _)

end Sys2Proof.Machine
end

section
/-! Launches (spec/21_program_relaxation.md R380), refuted: a packet that names a member of a group on this core may name member 0 of that
group on another core of the package, and then brings its root here. -/

namespace Sys2Proof.Machine

/-- Member `ix` of a group of two. -/
def memberItems (ix : BitVec 16) (core : Option (BitVec 12 × BitVec 9)) : CoreItems :=
  { core := core, group := some { id := 1, n := 2, ix := ix, epoch := 0, budget := 0 } }

/-- A packet that launches member 1 on this core and member 0 on core 1 of the package. -/
def pairPacket : LaunchPkt := { toCoreItems := memberItems 1 none, others := [memberItems 0 (some (0, 1))] }

/-- The roots that stand on the package behind an event. -/
def rootsOf (o : Out) : List Root := match o with | .next s => s.grp.roots | _ => []

/-- Member 0 brings its root. -/
theorem pairPacket_root : (rootsOf (exec (.launchPacket pairPacket) State.reset)).length = 1 := by decide

/-- Refutes O56: member 1 is launched on this core, and the roots that stand here change. -/
theorem not_launchEvents : ¬ Obligations.LaunchEvents := by
  intro launches
  obtain ⟨accepted, -⟩ := launches State.reset pairPacket 0
  obtain ⟨⟨t, taken, -, -, -, -, -, -, -, -, -, -, -, -, -, -, -, groups⟩, -⟩ := accepted (.inl rfl) (by decide) (by decide)
  obtain ⟨-, others⟩ := groups _ rfl
  have untouched : t.grp.roots = [] := others (by decide)
  have one := pairPacket_root
  rw [taken] at one
  exact absurd one (by rw [show rootsOf (.next t) = [] from untouched]; decide)

end Sys2Proof.Machine
end

section
/-! The package and its management interface (spec/14_die.md R287 to R290; spec/16_package.md R311 to R318): requests at their home, what
waits there, the stack controllers, throttles, and bring-up. -/

namespace Sys2Proof.Machine

/-! ### Requests at their home -/

section
variable {q : HomeReq} {s : State}

theorem exec_homeAccess_outside (outside : 2 ^ 39 ≤ q.pa) : exec (.homeAccess q) s = .next s := congrArg Host.Outcome.next (if_pos outside)

variable (inside : q.pa < 2 ^ 39)
include inside

theorem exec_homeAccess_lost (lost : routed s q.fromDie (homeDie s q.pa) = false) :
    exec (.homeAccess q) s = .next (answer (.homeOwner q.pa) s) :=
  congrArg Host.Outcome.next ((if_neg (Nat.not_le_of_lt inside)).trans (if_pos (by rw [lost]; rfl)))

variable (route : routed s q.fromDie (homeDie s q.pa) = true)
include route

theorem exec_homeAccess : exec (.homeAccess q) s = .next (if homeWaits s q then homeHold q s else homeNow q s) :=
  congrArg Host.Outcome.next ((if_neg (Nat.not_le_of_lt inside)).trans (if_neg (by rw [route]; exact Bool.false_ne_true)))

end

theorem homeWaits_iff (s : State) (q : HomeReq) : homeWaits s q = true ↔ ridgingAt s q.pa = true ∨
    (homeWrites q.op = true ∧ (frameHeld s s.sys.nodeid.toNat q.pa).isSome = true) := by
  unfold homeWaits homePage
  rw [Bool.or_eq_true]
  refine or_congr_right ?_
  cases homeWrites q.op
  · simp
  · exact ⟨fun page => ⟨rfl, page⟩, fun page => page.2⟩

theorem homeHold_rest (q : HomeReq) (s : State) : (homeHold q s).mem.homeHeld = s.mem.homeHeld ++ [.req q] ∧
    (homeHold q s).mem.mem = s.mem.mem ∧ (homeHold q s).pkg.answers = s.pkg.answers := by
  unfold homeHold
  dsimp only
  split <;> exact ⟨rfl, rfl, rfl⟩

theorem homeHold_raises {q : HomeReq} {s : State} {a : BitVec 13} {va : Nat} (writes : homeWrites q.op = true)
    (page : frameHeld s s.sys.nodeid.toNat q.pa = some (a, va)) :
    (homeHold q s).mem.sweeps = (raiseFor (if q.core < 0x1FF then q.core else s.sys.coreid.toNat) a va s).mem.sweeps := by
  have held : homePage s q = some (a, va) := by
    unfold homePage
    rw [writes]
    exact page
  unfold homeHold
  rw [held]
  rfl

/-- The state in which a request is performed at its home. -/
def homeArrived (q : HomeReq) (s : State) : State := toController q.src q.pa (wakeAt q.pa (eccFinds (homeDie s q.pa) q.pa q.ecc s))

theorem homeNow_eq (q : HomeReq) (s : State) : homeNow q s = homePerform q (homeArrived q s) := rfl

/-- Asking the controller changes no line and no answer. -/
theorem homeArrived_rest (q : HomeReq) (s : State) : (homeArrived q s).mem.mem = s.mem.mem ∧ (homeArrived q s).sys = s.sys ∧
    (homeArrived q s).pkg.answers = s.pkg.answers ∧ (q.ecc ≠ .uncorrectable → (homeArrived q s).mem.poison = s.mem.poison) := by
  have asked := (wakeAt_onlyAsked q.pa (eccFinds (homeDie s q.pa) q.pa q.ecc s)).trans (toController_onlyAsked q.src q.pa _)
  unfold OnlyAsked at asked
  unfold homeArrived
  rw [asked]
  cases q.ecc with
  | clean => exact ⟨rfl, rfl, rfl, fun _ => rfl⟩
  | corrected => exact ⟨rfl, rfl, rfl, fun _ => rfl⟩
  | uncorrectable => exact ⟨rfl, rfl, rfl, fun never => absurd rfl never⟩

theorem homeArrived_poisoned {q : HomeReq} {s : State} (bad : poisonedAt s (memKey s.sys.nodeid.toNat q.pa) = true ∨ q.ecc = .uncorrectable) :
    poisonedAt (homeArrived q s) (memKey (ownNode (homeArrived q s)) q.pa) = true := by
  have asked := (wakeAt_onlyAsked q.pa (eccFinds (homeDie s q.pa) q.pa q.ecc s)).trans (toController_onlyAsked q.src q.pa _)
  unfold OnlyAsked at asked
  unfold homeArrived
  rw [asked]
  cases ecc : q.ecc with
  | clean => exact bad.resolve_right (by rw [ecc]; nofun)
  | corrected => exact bad.resolve_right (by rw [ecc]; nofun)
  | uncorrectable => exact List.contains_iff_mem.mpr ((mem_sinsert _ _ _).mpr (.inl rfl))

section
variable {q : HomeReq} {s : State}

theorem homeNow_read (read : q.op = .read) (clean : q.ecc = .clean) (good : poisonedAt s (memKey s.sys.nodeid.toNat q.pa) = false) :
    homeNow q s = answer (.homeData q.pa (bytesAt s.mem.mem (memKey s.sys.nodeid.toNat q.pa) q.size)) (homeArrived q s) := by
  obtain ⟨mem, sys, -, poison⟩ := homeArrived_rest q s
  have same : poisonedAt (homeArrived q s) (memKey (ownNode (homeArrived q s)) q.pa) = false := by
    unfold poisonedAt ownNode
    rw [poison (by rw [clean]; nofun), sys]
    exact good
  rw [homeNow_eq, homePerform, read]
  dsimp only
  rw [same, ownNode, sys, mem]
  rfl

theorem homeNow_poisoned (read : q.op = .read) (bad : poisonedAt s (memKey s.sys.nodeid.toNat q.pa) = true ∨ q.ecc = .uncorrectable) :
    homeNow q s = homePoisoned q (homeArrived q s) := by
  rw [homeNow_eq, homePerform, read]
  exact if_pos (homeArrived_poisoned bad)

theorem homeNow_write {d : List Byte} (write : q.op = .write d) :
    homeNow q s = memWrite (writesOf (memKey s.sys.nodeid.toNat q.pa) d) (homeArrived q s) := by
  rw [homeNow_eq, homePerform, write]
  dsimp only
  rw [ownNode, (homeArrived_rest q s).2.1]

/-- An atomic answers the old value, and writes nothing where it does not write. -/
theorem homeNow_amo {op : AtomOp} {b cmp : Word} (amo : q.op = .amo op b cmp) (clean : q.ecc = .clean)
    (good : poisonedAt s (memKey s.sys.nodeid.toNat q.pa) = false) :
    (homeNow q s).pkg.answers = s.pkg.answers ++
      [.homeData q.pa (leBytes q.size (readLe s.mem.mem (memKey s.sys.nodeid.toNat q.pa) q.size))] ∧
    (atomWrites op (readLe s.mem.mem (memKey s.sys.nodeid.toNat q.pa) q.size) (cmp.toNat % 2 ^ (8 * q.size)) = false →
      (homeNow q s).mem.mem = s.mem.mem) := by
  obtain ⟨mem, sys, answers, poison⟩ := homeArrived_rest q s
  have same : poisonedAt (homeArrived q s) (memKey (ownNode (homeArrived q s)) q.pa) = false := by
    unfold poisonedAt ownNode
    rw [poison (by rw [clean]; nofun), sys]
    exact good
  rw [homeNow_eq, homePerform, amo]
  dsimp only
  rw [same, ownNode, sys, mem, if_neg Bool.false_ne_true]
  split
  · next writes =>
    refine ⟨congrArg (· ++ _) answers, fun none => ?_⟩
    exact absurd (none.symm.trans writes) Bool.false_ne_true
  · exact ⟨congrArg (· ++ _) answers, fun _ => mem⟩

end

/-! ### What waits at its home -/

theorem releaseHome_one {s : State} {x : HomeItem} (alone : s.mem.homeHeld = [x]) : releaseHome s =
    if itemWaits s x then s else itemNow x { s with mem := { s.mem with homeHeld := [] } } := by
  have gone : [x].erase x = [] := List.erase_cons_head x []
  unfold releaseHome
  rw [alone, List.foldl_cons, List.foldl_nil, alone, gone]

/-! ### The stack controllers -/

theorem nextServed_mem {l : List McReq} {r : McReq} (next : nextServed l = some r) : r ∈ l := by
  unfold nextServed at next
  split at next
  · next x found =>
    cases next
    exact (List.mem_zipIdx' (List.mem_of_find?_eq_some found)).2 ▸ List.getElem_mem _
  · exact List.mem_of_mem_head? next

theorem nextServed_none {l : List McReq} (next : nextServed l = none) : l = [] := by
  unfold nextServed at next
  split at next
  · cases next
  · exact List.head?_eq_none_iff.mp next

/-- Background copy is served only where no older source is ready. -/
theorem nextServed_background {l : List McReq} {r : McReq} (next : nextServed l = some r) (copy : r.src = background) (i : Nat) (x : McReq)
    (at_ : l[i]? = some x) : x.src = background ∨ ∃ j y, j < i ∧ l[j]? = some y ∧ y.line = x.line := by
  unfold nextServed at next
  split at next
  · next z found =>
    cases next
    have other := List.find?_some found
    rw [copy] at other
    simp at other
  · next unready =>
    have waits := List.find?_eq_none.mp unready (x, i) (List.mem_zipIdx_iff_getElem?.mpr at_)
    by_cases background_ : x.src = background
    · exact .inl background_
    · refine .inr ?_
      have older : (l.take i).any (fun y => y.line == x.line) = true := by simpa [background_] using waits
      obtain ⟨y, member, line⟩ := List.any_eq_true.mp older
      obtain ⟨j, below, this⟩ := List.mem_take_iff_getElem.mp member
      exact ⟨j, y, by omega, by rw [← this]; exact List.getElem?_eq_getElem _, eq_of_beq line⟩

theorem length_serve (n : Nat) (l : List McReq) : (serve n l).length = l.length - n := by
  induction n generalizing l with
  | zero => rfl
  | succ n ih =>
    rw [serve]
    cases next : nextServed l with
    | some r =>
      have member := nextServed_mem next
      have := List.length_pos_of_mem member
      dsimp only
      rw [ih, List.length_erase_of_mem member]
      omega
    | none =>
      rw [nextServed_none next]
      exact (Nat.zero_sub _).symm

/-! ### Throttles -/

/-- The log behind a change. -/
def throttleLog (t : ThrottleRec) (s : State) : List ThLog :=
  s.pkg.thlog ++ [{ r := t, oldClk := s.pkg.clk, oldMv := s.pkg.mv, oldLim := s.pkg.lim }]

theorem throttleRecord_untraced {s : State} (off : traceOn s = false) (t : ThrottleRec) : throttleRecord t s = { s with pkg := { s.pkg with
    clk := t.newClk, mv := t.newMv, lim := t.newLim, thlog := (throttleLog t s).drop ((throttleLog t s).length - 1024) } } := by
  unfold throttleRecord throttleLog
  refine if_neg ?_
  rw [Bool.and_eq_true]
  exact fun both => Bool.false_ne_true (off.symm.trans both.1)

theorem throttleDue_thermal {t : ThrottleRec} (cause : t.cause = 0) (s : State) : throttleDue t s = true ↔ 1050 < t.measured.toNat := by
  unfold throttleDue
  rw [cause]
  exact decide_eq_true_iff

theorem throttleDue_current {t : ThrottleRec} (cause : t.cause = 1) (s : State) : throttleDue t s = true ↔
    min 6000 s.pkg.curLimit < t.measured.toNat ∧ 2460000 ≤ t.measured.toNat * 420 := by
  unfold throttleDue
  rw [cause]
  exact (Bool.and_eq_true_iff).trans (and_congr decide_eq_true_iff decide_eq_true_iff)

theorem throttleDue_budget {t : ThrottleRec} (cause : t.cause = 3) (s : State) :
    throttleDue t s = true ↔ s.pkg.pwrbud < t.measured.toNat := by
  unfold throttleDue
  rw [cause]
  exact decide_eq_true_iff

/-! ### Power states -/

theorem not_contains_awake (p : PowerState) (l : List PowerState) : (l.filter (fun g => !(g == p || wakes p g))).contains p = false := by
  rw [Bool.eq_false_iff]
  intro still
  have kept := (List.mem_filter.mp (List.contains_iff_mem.mp still)).2
  simp at kept

end Sys2Proof.Machine
end

section
/-! Bring-up (spec/16_package.md R318), and the statement about the package's events. -/

namespace Sys2Proof.Machine

/-! ### Bring-up -/

/-- The other cores whose arrays bring-up finds bad. -/
def badCores (b : BringUp) (s : State) : List (BitVec 9 × BitVec 4) := b.badOthers.filter (fun x => x.1 != s.sys.coreid && x.2 != 0)

/-- An array of the package failed its test. -/
def arraysFail (b : BringUp) (s : State) : Bool := b.badQuads != 0 || !(badCores b s).isEmpty

/-- The package at its new node id, with NODE of PODCFG. -/
def newNode (b : BringUp) (s : State) : State :=
  { renode b.node s with fab := { (renode b.node s).fab with podcfg := podcfgWith (renode b.node s).fab.podcfg b.node } }

/-- The package behind the steps of bring-up, before the frames of the bad-page list are poisoned. -/
def broughtUp (b : BringUp) (s : State) : State :=
  { newNode b s with
    links := bringLinks (newNode b s) b.linksDown (if b.lock then b.time else (renode b.node s).pkg.time)
    store := { (newNode b s).store with fenced := b.badQuads }
    thatch := { (newNode b s).thatch with
      partnersReduced := (newNode b s).thatch.partnersReduced ||
        (badCores b (newNode b s)).any (fun x => x.1.toNat / 4 == ownCore (newNode b s) / 4) }
    pkg := { (renode b.node s).pkg with
      broughtUp := true, own := 0, stackError := b.stacksFailed, ddl := b.dieLinksDown
      ddlStat := (renode b.node s).pkg.ddlStat || b.dieLinksDown != 0
      lnk := (renode b.node s).pkg.lnk || b.linksDown != 0
      qf := (renode b.node s).pkg.qf || arraysFail b (newNode b s)
      repl := (renode b.node s).pkg.repl || b.dieLinksDown != 0 || b.linksDown != 0 || arraysFail b (newNode b s)
      tlos := (renode b.node s).pkg.tlos || !b.lock
      time := if b.lock then b.time else (renode b.node s).pkg.time
      timeOff := 0
      ptpDomain := b.domain
      fencemap := (badCores b (newNode b s)).foldl (fun (t : Table (BitVec 4)) (x : BitVec 9 × BitVec 4) => tset 0 t x.1.toNat x.2)
        (tset 0 (renode b.node s).pkg.fencemap (ownCore (newNode b s)) b.badQuads) } }

theorem exec_powerOn {b : BringUp} {s : State} (down : s.pkg.broughtUp = false) (power : s.pkg.shut = false) :
    exec (.powerOn b) s = .next ((broughtUp b s).mem.bpl.toList.flatten.foldl poisonFrame (broughtUp b s)) :=
  congrArg Host.Outcome.next (if_neg (by rw [down, power]; exact Bool.false_ne_true))

theorem renode_coreid (n : BitVec 12) (s : State) : (renode n s).sys.coreid = s.sys.coreid := by
  unfold renode
  split <;> rfl

theorem renode_thatch (n : BitVec 12) (s : State) : (renode n s).thatch = s.thatch := by
  unfold renode
  split <;> rfl

theorem renode_podcfg (n : BitVec 12) (s : State) : (renode n s).fab.podcfg = s.fab.podcfg := by
  unfold renode
  split <;> rfl

theorem renode_bpl (n : BitVec 12) (s : State) : (renode n s).mem.bpl = s.mem.bpl := by
  unfold renode
  split <;> rfl

theorem badCores_newNode (b : BringUp) (s : State) : badCores b (newNode b s) = badCores b s := by
  unfold badCores
  rw [show (newNode b s).sys.coreid = s.sys.coreid from renode_coreid b.node s]

theorem ownCore_newNode (b : BringUp) (s : State) : ownCore (newNode b s) = s.sys.coreid.toNat :=
  congrArg BitVec.toNat (renode_coreid b.node s)

/-- With an empty bad-page list no frame is poisoned. -/
theorem exec_powerOn_unlisted {b : BringUp} {s : State} (down : s.pkg.broughtUp = false) (power : s.pkg.shut = false)
    (unlisted : ∀ d : Fin 4, s.mem.bpl[d] = []) : exec (.powerOn b) s = .next (broughtUp b s) := by
  have bpl : (broughtUp b s).mem.bpl = s.mem.bpl := renode_bpl b.node s
  have none : s.mem.bpl.toList.flatten = [] := by
    rw [List.flatten_eq_nil_iff]
    intro l member
    obtain ⟨i, below, rfl⟩ := List.mem_iff_getElem.mp member
    have bound : i < 4 := by simpa using below
    exact unlisted ⟨i, bound⟩
  rw [exec_powerOn down power, bpl, none]
  rfl

theorem arraysFail_iff (b : BringUp) (s : State) : arraysFail b s = true ↔ b.badQuads ≠ 0 ∨ ∃ x ∈ b.badOthers, x.1 ≠ s.sys.coreid ∧ x.2 ≠ 0 := by
  unfold arraysFail badCores
  rw [Bool.or_eq_true, bne_iff_ne, Bool.not_eq_true', ← Bool.not_eq_true, List.isEmpty_iff, List.filter_eq_nil_iff]
  refine or_congr_right ?_
  push Not
  refine exists_congr fun x => and_congr_right fun _ => ?_
  rw [Bool.and_eq_true, bne_iff_ne, bne_iff_ne]

section
variable (b : BringUp) (s : State)

theorem broughtUp_arrays : let failed := b.badQuads ≠ 0 ∨ ∃ x ∈ b.badOthers, x.1 ≠ s.sys.coreid ∧ x.2 ≠ 0
    (failed → (broughtUp b s).pkg.qf = true ∧ (broughtUp b s).pkg.repl = true) ∧ (¬failed → (broughtUp b s).pkg.qf = s.pkg.qf) := by
  have same : arraysFail b (newNode b s) = arraysFail b s := by
    unfold arraysFail
    rw [badCores_newNode]
  have pkg : (renode b.node s).pkg = s.pkg := renode_pkg b.node s
  intro failed
  refine ⟨fun bad => ?_, fun good => ?_⟩
  · have fails : arraysFail b (newNode b s) = true := same.trans ((arraysFail_iff b s).mpr bad)
    refine ⟨?_, ?_⟩
    · show ((renode b.node s).pkg.qf || arraysFail b (newNode b s)) = true
      rw [fails, Bool.or_true]
    · show ((renode b.node s).pkg.repl || b.dieLinksDown != 0 || b.linksDown != 0 || arraysFail b (newNode b s)) = true
      rw [fails, Bool.or_true]
  · have holds : arraysFail b (newNode b s) = false := by
      rw [same, Bool.eq_false_iff]
      exact fun fails => good ((arraysFail_iff b s).mp fails)
    show ((renode b.node s).pkg.qf || arraysFail b (newNode b s)) = s.pkg.qf
    rw [holds, Bool.or_false, pkg]

theorem broughtUp_partners_none (alone : b.badOthers = []) : (broughtUp b s).thatch.partnersReduced = s.thatch.partnersReduced := by
  show ((renode b.node s).thatch.partnersReduced || (badCores b (newNode b s)).any _) = _
  rw [renode_thatch, badCores, alone]
  exact Bool.or_false _

theorem broughtUp_partners_one {x : BitVec 9 × BitVec 4} (one : b.badOthers = [x]) (other : x.1 ≠ s.sys.coreid) (bad : x.2 ≠ 0) :
    (broughtUp b s).thatch.partnersReduced = (s.thatch.partnersReduced || decide (x.1.toNat / 4 = s.sys.coreid.toNat / 4)) ∧
    (broughtUp b s).pkg.fencemap = tset 0 (tset 0 s.pkg.fencemap s.sys.coreid.toNat b.badQuads) x.1.toNat x.2 := by
  have cores : badCores b (newNode b s) = [x] := by
    rw [badCores_newNode, badCores, one]
    exact List.filter_cons_of_pos (by rw [Bool.and_eq_true, bne_iff_ne, bne_iff_ne]; exact ⟨other, bad⟩)
  refine ⟨?_, ?_⟩
  · show ((renode b.node s).thatch.partnersReduced || (badCores b (newNode b s)).any (fun x => x.1.toNat / 4 == ownCore (newNode b s) / 4)) = _
    rw [renode_thatch, cores, ownCore_newNode, List.any_cons, List.any_nil, Bool.or_false]
    rfl
  · show (badCores b (newNode b s)).foldl _ (tset 0 (renode b.node s).pkg.fencemap (ownCore (newNode b s)) b.badQuads) = _
    rw [cores, ownCore_newNode, renode_pkg]
    rfl

/-- The links behind bring-up, as the pod that they are part of shapes them. -/
theorem broughtUp_links (p : Fin 24) : ((broughtUp b s).links[p]).state =
      (if edgePort (broughtUp b s) p then .down else if b.linksDown.getLsbD p.val then .retired else .up) ∧
    ∀ n, neighbour (broughtUp b s) (portAxis p) (portMinus p) = some n → ((broughtUp b s).links[p]).peer = BitVec.ofNat 12 n := by
  have link : (broughtUp b s).links[p] = { Link.reset with
      state := if edgePort (newNode b s) p then .down else if b.linksDown.getLsbD p.val then .retired else .up
      peer := BitVec.ofNat 12 ((neighbour (newNode b s) (portAxis p) (portMinus p)).getD 0)
      since := if b.lock then b.time else (renode b.node s).pkg.time
      drained := if b.lock then b.time else (renode b.node s).pkg.time } := Vector.getElem_ofFn p.isLt
  have edge : edgePort (broughtUp b s) p = edgePort (newNode b s) p := rfl
  have beside : neighbour (broughtUp b s) (portAxis p) (portMinus p) = neighbour (newNode b s) (portAxis p) (portMinus p) := rfl
  rw [link, edge, beside]
  exact ⟨rfl, fun n there => by rw [there]; rfl⟩

end

/-! ### The statement -/

theorem homeAccess_waits {q : HomeReq} {s : State} (inside : q.pa < 2 ^ 39) (route : routed s q.fromDie (homeDie s q.pa) = true)
    (waits : homeWaits s q = true) : exec (.homeAccess q) s = .next (homeHold q s) :=
  (exec_homeAccess inside route).trans (congrArg Host.Outcome.next (if_pos waits))

theorem homeAccess_now {q : HomeReq} {s : State} (inside : q.pa < 2 ^ 39) (route : routed s q.fromDie (homeDie s q.pa) = true)
    (free : homeWaits s q = false) : exec (.homeAccess q) s = .next (homeNow q s) :=
  (exec_homeAccess inside route).trans (congrArg Host.Outcome.next (if_neg (by rw [free]; exact Bool.false_ne_true)))

/-- A request of another party, by what it asks and what its line holds. -/
theorem homeAccess_performed {q : HomeReq} {s : State} (inside : q.pa < 2 ^ 39) (route : routed s q.fromDie (homeDie s q.pa) = true)
    (free : homeWaits s q = false) :
    (q.op = .read → q.ecc = .clean → poisonedAt s (memKey s.sys.nodeid.toNat q.pa) = false →
      ∃ t : State, (exec (.homeAccess q) s = .next t ∧ t.pkg.answers = s.pkg.answers ++
        [.homeData q.pa ((List.range q.size).map (fun i => byteAt s.mem.mem (memKey s.sys.nodeid.toNat q.pa + i)))]) ∧ t.mem.mem = s.mem.mem) ∧
    (q.op = .read → poisonedAt s (memKey s.sys.nodeid.toNat q.pa) = true ∨ q.ecc = .uncorrectable →
      ∃ t : State, (exec (.homeAccess q) s = .next t ∧ t.pkg.answers = s.pkg.answers ++ [.homeUe q.pa]) ∧ t.mem.mem = s.mem.mem) ∧
    (∀ d, q.op = .write d → q.ecc = .clean → ∃ t : State, exec (.homeAccess q) s = .next t ∧
      t.mem.mem = (memWrite (writesOf (memKey s.sys.nodeid.toNat q.pa) d) s).mem.mem ∧ t.pkg.answers = s.pkg.answers) ∧
    (∀ op b cmp, q.op = .amo op b cmp → q.ecc = .clean → poisonedAt s (memKey s.sys.nodeid.toNat q.pa) = false →
      ∃ t : State, (exec (.homeAccess q) s = .next t ∧ t.pkg.answers = s.pkg.answers ++
        [.homeData q.pa (leBytes q.size (readLe s.mem.mem (memKey s.sys.nodeid.toNat q.pa) q.size))]) ∧
        (atomWrites op (readLe s.mem.mem (memKey s.sys.nodeid.toNat q.pa) q.size) (cmp.toNat % 2 ^ (8 * q.size)) = false →
          t.mem.mem = s.mem.mem)) := by
  have now := homeAccess_now inside route free
  obtain ⟨mem, -, answers, -⟩ := homeArrived_rest q s
  refine ⟨fun read clean good => ⟨_, ⟨now, ?_⟩, ?_⟩, fun read bad => ⟨_, ⟨now, ?_⟩, ?_⟩, fun d write _ => ⟨_, now, ?_, ?_⟩,
    fun op b cmp amo clean good => ?_⟩
  · have bytes := bytesAt_eq (m := s.mem.mem) (a := memKey s.sys.nodeid.toNat q.pa) (n := q.size)
      (bs := (List.range q.size).map (fun i => byteAt s.mem.mem (memKey s.sys.nodeid.toNat q.pa + i))) (by simp) (fun i below => by simp)
    rw [homeNow_read read clean good, bytes]
    exact congrArg (· ++ _) answers
  · rw [homeNow_read read clean good]
    exact mem
  · rw [homeNow_poisoned read bad]
    exact congrArg (· ++ _) answers
  · rw [homeNow_poisoned read bad]
    exact mem
  · rw [homeNow_write write]
    exact congrArg (List.foldl setMasked · _) mem
  · rw [homeNow_write write]
    exact answers
  · exact ⟨_, ⟨now, (homeNow_amo amo clean good).1⟩, (homeNow_amo amo clean good).2⟩

section
variable (s : State)

theorem exec_throttle_eq (t : ThrottleRec) : exec (.throttle t) s = .next (if throttleDue t s then
    withPkg { (throttleRecord t s).pkg with throttled := (throttleRecord t s).pkg.throttled ++ [(t.cause, t.dies)] } (throttleRecord t s)
    else s) := rfl

theorem exec_throttleLift_eq (t : ThrottleRec) : exec (.throttleLift t) s = .next (if s.pkg.throttled.contains (t.cause, t.dies) then
    withPkg { (throttleRecord t s).pkg with throttled := (throttleRecord t s).pkg.throttled.erase (t.cause, t.dies) } (throttleRecord t s)
    else s) := rfl

theorem exec_throttle {t : ThrottleRec} (off : traceOn s = false) :
    (throttleDue t s = true → exec (.throttle t) s = .next { s with pkg := { s.pkg with
      clk := t.newClk, mv := t.newMv, lim := t.newLim, thlog := (throttleLog t s).drop ((throttleLog t s).length - 1024)
      throttled := s.pkg.throttled ++ [(t.cause, t.dies)] } }) ∧
    (throttleDue t s = false → exec (.throttle t) s = .next s) := by
  rw [exec_throttle_eq, throttleRecord_untraced off]
  generalize (throttleLog t s).drop ((throttleLog t s).length - 1024) = log
  exact ⟨fun due => congrArg Host.Outcome.next (if_pos due),
    fun idle => congrArg Host.Outcome.next (if_neg (by rw [idle]; exact Bool.false_ne_true))⟩

theorem exec_throttleLift {t : ThrottleRec} (off : traceOn s = false) :
    (s.pkg.throttled.contains (t.cause, t.dies) = true → exec (.throttleLift t) s = .next { s with pkg := { s.pkg with
      clk := t.newClk, mv := t.newMv, lim := t.newLim, thlog := (throttleLog t s).drop ((throttleLog t s).length - 1024)
      throttled := s.pkg.throttled.erase (t.cause, t.dies) } }) ∧
    (s.pkg.throttled.contains (t.cause, t.dies) = false → exec (.throttleLift t) s = .next s) := by
  rw [exec_throttleLift_eq, throttleRecord_untraced off]
  generalize (throttleLog t s).drop ((throttleLog t s).length - 1024) = log
  exact ⟨fun lifts => congrArg Host.Outcome.next (if_pos lifts),
    fun out => congrArg Host.Outcome.next (if_neg (by rw [out]; exact Bool.false_ne_true))⟩

theorem exec_mcBatch (k : Fin 8) (n : Nat) : ∃ t : State, exec (.mcBatch k n) s = .next t ∧
    let m := serve n (s.mem.mc[k]).marked
    m.length = (s.mem.mc[k]).marked.length - n ∧
    (m = [] → t.mem.mc[k] = formBatch { s.mem.mc[k] with marked := [] }) ∧ (m ≠ [] → t.mem.mc[k] = { s.mem.mc[k] with marked := m }) :=
  ⟨_, rfl, length_serve n _, fun none => (Vector.getElem_set_self _).trans (if_pos none),
    fun some => (Vector.getElem_set_self _).trans (if_neg some)⟩

theorem exec_thermalTrip (d : Nat) :
    (1150 < d → ∃ t : State, exec (.thermalTrip d) s = .next t ∧ t.pkg.trip = true ∧ t.pkg.repl = true ∧ t.pkg.broughtUp = false ∧
      t.pkg.shut = true ∧ (live s = true → t.strand.run = .tripped) ∧ ∀ k : Fin 24, (t.links[k]).state = .down) ∧
    (d ≤ 1150 → exec (.thermalTrip d) s = .next s) := by
  refine ⟨fun hot => ⟨_, congrArg Host.Outcome.next (if_pos hot), rfl, rfl, rfl, rfl, fun running => if_pos running, fun k => ?_⟩,
    fun cool => congrArg Host.Outcome.next (if_neg (Nat.not_lt_of_le cool))⟩
  exact congrArg Link.state (Vector.getElem_map _ k.isLt)

theorem exec_powerOn_all (b : BringUp) (down : s.pkg.broughtUp = false) (power : s.pkg.shut = false)
    (unlisted : ∀ d : Fin 4, s.mem.bpl[d] = []) : exec (.powerOn b) s = .next (broughtUp b s) ∧ (broughtUp b s).sys.nodeid = b.node ∧
      (broughtUp b s).fab.podcfg = (s.fab.podcfg &&& 0xF00FF000) ||| b.node.setWidth 64 ∧
      (b.lock = true → (broughtUp b s).pkg.time = b.time) ∧ (b.lock = false → (broughtUp b s).pkg.tlos = true) := by
  refine ⟨exec_powerOn_unlisted down power unlisted, renode_nodeid b.node s, ?_, fun lock => if_pos lock, fun lost => ?_⟩
  · exact congrArg (fun v => podcfgWith v b.node) (renode_podcfg b.node s)
  · show ((renode b.node s).pkg.tlos || !b.lock) = true
    rw [lost]
    exact Bool.or_true _

theorem bplInsert_new {f : Nat} {core : BitVec 9} (fresh : (s.mem.bpl[bplShare f]).contains f = false)
    (room : (s.mem.bpl[bplShare f]).length < 1024) :
    (bplInsert f core s).mem.bpl = s.mem.bpl.set (bplShare f) (sinsert f s.mem.bpl[bplShare f]) := by
  unfold bplInsert
  dsimp only
  rw [fresh, decide_eq_false (Nat.not_le_of_lt room), if_neg Bool.false_ne_true, if_neg Bool.false_ne_true]
  split <;> rfl

theorem exec_bplAdd {f : Nat} (fresh : (s.mem.bpl[bplShare f]).contains f = false) (room : (s.mem.bpl[bplShare f]).length < 1024) :
    ∃ t : State, exec (.bplAdd f) s = .next t ∧ t.mem.bpl[bplShare f] = sinsert f s.mem.bpl[bplShare f] := by
  have new := bplInsert_new (wakeAll s) (core := 0x1FF) fresh room
  exact ⟨_, rfl, (congrArg (fun v : Vector (List Nat) 4 => v[bplShare f]) new).trans (Vector.getElem_set_self _)⟩

end

/-- Settles O57: the events of the package and of its management interface. -/
theorem packageEvents : Obligations.PackageEvents := by
  intro s u
  refine ⟨fun m va w => ?_, fun q => ?_, fun x alone => ?_, fun k n => exec_mcBatch s k n,
    fun l r next => ⟨nextServed_mem next, fun copy i x at_ => nextServed_background next copy i x at_⟩, fun t off => ?_,
    fun d => exec_thermalTrip s d, fun p may free => ?_, fun p => ⟨_, rfl, not_contains_awake p _, rfl⟩, fun o => ⟨_, rfl, rfl, rfl, rfl⟩,
    fun b => ⟨fun refused => ?_, fun down power unlisted => ?_⟩,
    fun w => ⟨fun low high => congrArg Host.Outcome.next (if_pos ⟨low, high⟩), fun out => congrArg Host.Outcome.next (if_neg (by omega))⟩,
    fun d => ⟨_, rfl, Vector.getElem_set_self _, rfl⟩, fun d => ⟨_, rfl, ?_, rfl⟩, fun f fresh room => exec_bplAdd s fresh room,
    fun f => ⟨_, rfl, Vector.getElem_set_self _⟩, ⟨rfl, rfl⟩, fun m => ⟨_, rfl, rfl, rfl, rfl, rfl, rfl, rfl, rfl, rfl, rfl, rfl⟩⟩
  · intro kind
    refine ⟨fun held => congrArg Host.Outcome.next (if_pos held), fun free => ?_⟩
    have open_ : ¬walkHeld (!m) (if w then 1 else 0) va s = true := by
      show ¬walkHeld (!m) kind va s = true
      rw [free]
      exact Bool.false_ne_true
    refine ⟨fun v pa mig sw leaf ok => congrArg Host.Outcome.next ((if_neg open_).trans ?_),
      fun c bad => congrArg Host.Outcome.next ((if_neg open_).trans ?_)⟩
    · rw [show xlate m s.sys.asid va (if w then 1 else 0) s = .ok pa mig sw leaf v from ok]
    · rw [show xlate m s.sys.asid va (if w then 1 else 0) s = .bad c from bad]
  · intro key answered
    refine ⟨exec_homeAccess_outside, fun inside lost => ⟨_, ⟨exec_homeAccess_lost inside lost, rfl⟩, rfl⟩, homeWaits_iff s q,
      fun inside route waits => ?_, fun inside route free => homeAccess_performed inside route free⟩
    obtain ⟨held, mem, answers⟩ := homeHold_rest q s
    exact ⟨_, homeAccess_waits inside route waits, held, mem, answers, fun a va writes page => homeHold_raises writes page⟩
  · rw [releaseHome_one alone]
    exact ⟨fun waits => if_pos waits, fun free => if_neg (by rw [free]; exact Bool.false_ne_true)⟩
  · intro log logged
    exact ⟨(exec_throttle s off).1, (exec_throttle s off).2, (exec_throttleLift s off).1, (exec_throttleLift s off).2,
      fun cause => throttleDue_thermal cause s, fun cause => throttleDue_current cause s, fun cause => throttleDue_budget cause s⟩
  · exact congrArg Host.Outcome.next (if_pos (by rw [may, free]; rfl))
  · refine congrArg Host.Outcome.next (if_pos ?_)
    rw [Bool.or_eq_true]
    exact refused
  · obtain ⟨on, node, podcfg, time, tlos⟩ := exec_powerOn_all s b down power unlisted
    exact ⟨_, on, rfl, rfl, rfl, node, rfl, broughtUp_arrays b s, broughtUp_partners_none b s,
      fun x one other bad => broughtUp_partners_one b s one other bad, podcfg, fun p => (broughtUp_links b s p).1,
      fun p => (broughtUp_links b s p).2, time, tlos⟩
  · exact congrArg Faq.entries (Vector.getElem_set_self _)

end Sys2Proof.Machine
end

section
/-! A running record that its engine has planned nothing for performs units of its plan; the page tasks (R252, R253). -/

namespace Sys2Proof.Machine

/-- A record that runs, for which nothing has been planned, performs units of its engine's plan. -/
theorem runTask_runs {t : Task} {slot : Nat} {s : State} {e : Entry} (runs : Runs t slot e s) (plan : Plan) (n : Nat) :
    runTask t plan slot n s = .next (doUnits n (plan e s).2 e (plan e s).1) := by
  obtain ⟨found, task, ordinary, running, unplanned, unaltered, working, free⟩ := runs
  unfold runTask runEntry progress alterWork
  rw [found]
  simp [task, ordinary, running, unplanned, unaltered, working, free]

/-! ### C.CPYPG -/

/-- What the copy of a page does behind its units. -/
theorem execCCpypg_of_next {slot n : Nat} {s t : State} (run : runTask .cpypg cpypgPlan slot (n + 1) s = .next t) :
    (pageEnds slot s t = none → exec (.cCpypg slot n) s = .next t) ∧
      (∀ x, pageEnds slot s t = some x → recTask x.record = some .cpypg → exec (.cCpypg slot n) s = .next (endPage x t)) := by
  change (_ → execCCpypg slot n s = _) ∧ ∀ x, _ → _ → execCCpypg slot n s = _
  unfold execCCpypg
  rw [run]
  dsimp only
  constructor
  · intro ends
    rw [ends]
  · intro x ends task
    rw [ends]
    exact if_pos task

/-- What the copy of a page does, by its plan. -/
theorem cpypg_runs {slot : Nat} {s : State} {e : Entry} (runs : Runs .cpypg slot e s) (n : Nat) {p : State × Work}
    (planned : cpypgPlan e s = p) :
    (pageEnds slot s (doUnits (n + 1) p.2 e p.1) = none → exec (.cCpypg slot n) s = .next (doUnits (n + 1) p.2 e p.1)) ∧
      (∀ x, pageEnds slot s (doUnits (n + 1) p.2 e p.1) = some x → recTask x.record = some .cpypg →
        exec (.cCpypg slot n) s = .next (endPage x (doUnits (n + 1) p.2 e p.1))) := by
  subst planned
  exact execCCpypg_of_next (runTask_runs runs cpypgPlan (n + 1))

section Walked
variable {e : Entry} {s : State} (free : ¬(s.pkg.ridging ≠ 0 ∧ tablesRidge s (cpVa e.record) = true))
include free

theorem cpypgPlan_bad {c : Cause} {line : Option Nat} (walked : pageWalk s (cpVa e.record) = .bad c line) :
    cpypgPlan e s = badPlan { cause := c, faddr := some (BitVec.ofNat 64 (cpVa e.record)) } s := by
  unfold cpypgPlan
  refine (if_neg free).trans ?_
  rw [walked]

variable {l : Leaf} (walked : pageWalk s (cpVa e.record) = .leaf l)
include walked

theorem cpypgPlan_waits
    (waits : (e.index = 0 ∧ (migrating s e.slot l = true ∨ pteSw l.pte = true)) ∨
      (e.index = 0 ∧ cpRemap e.record = true ∧ memoryPending s = true)) : cpypgPlan e s = waitPlan s := by
  unfold cpypgPlan
  refine (if_neg free).trans ?_
  rw [walked]
  by_cases other : e.index = 0 ∧ (migrating s e.slot l = true ∨ pteSw l.pte = true)
  · exact if_pos other
  · exact (if_neg other).trans (if_pos (waits.resolve_left other))

variable (ready : ¬((e.index = 0 ∧ (migrating s e.slot l = true ∨ pteSw l.pte = true)) ∨
  (e.index = 0 ∧ cpRemap e.record = true ∧ memoryPending s = true)))
include ready

theorem cpypgPlan_beyond (beyond : 2 ^ 39 ≤ leafPa l (cpVa e.record)) :
    cpypgPlan e s = badPlan { cause := .seg, faddr := some (BitVec.ofNat 64 (cpVa e.record)) } s := by
  unfold cpypgPlan
  refine (if_neg free).trans ?_
  rw [walked]
  exact (if_neg (fun h => ready (.inl h))).trans ((if_neg (fun h => ready (.inr h))).trans (if_pos beyond))

variable (below : ¬ 2 ^ 39 ≤ leafPa l (cpVa e.record))
include below

theorem cpypgPlan_unreached (unreached : reachesHome s (leafPa l (cpVa e.record)) = false) :
    cpypgPlan e s = badPlan { cause := .owner, faddr := some (BitVec.ofNat 64 (cpVa e.record)) } s := by
  unfold cpypgPlan
  refine (if_neg free).trans ?_
  rw [walked]
  exact (if_neg (fun h => ready (.inl h))).trans ((if_neg (fun h => ready (.inr h))).trans ((if_neg below).trans
    (if_pos (by rw [unreached]; rfl))))

variable (reached : reachesHome s (leafPa l (cpVa e.record)) = true)
include reached

theorem cpypgPlan_held
    (held : ridgingAt s (leafPa l (cpVa e.record)) = true ∨ ridgingAt s (cpFrame e.record) = true) :
    cpypgPlan e s = waitPlan s := by
  unfold cpypgPlan
  refine (if_neg free).trans ?_
  rw [walked]
  exact (if_neg (fun h => ready (.inl h))).trans ((if_neg (fun h => ready (.inr h))).trans ((if_neg below).trans
    ((if_neg (by rw [reached]; decide)).trans (if_pos ((Bool.or_eq_true _ _).mpr held)))))

/-- The copy proceeds from its index. -/
theorem cpypgPlan_copies (srcFree : ridgingAt s (leafPa l (cpVa e.record)) = false)
    (frameFree : ridgingAt s (cpFrame e.record) = false) :
    cpypgPlan e s =
      (let w := pageWork s e (leafPa l (cpVa e.record))
       let t := copyRequests e (leafPa l (cpVa e.record)) (w.scalar == some 0) (pageRequestsAt (cpVa e.record) s)
       (if e.index = 0 ∧ cpRemap e.record then setMig true l (cpVa e.record) t else t, w)) := by
  unfold cpypgPlan
  refine (if_neg free).trans ?_
  rw [walked]
  exact (if_neg (fun h => ready (.inl h))).trans ((if_neg (fun h => ready (.inr h))).trans ((if_neg below).trans
    ((if_neg (by rw [reached]; decide)).trans (if_neg (by rw [srcFree, frameFree]; decide)))))

end Walked

/-! ### The work of a copy, by what it finds -/

section PageWork
variable {s : State} {e : Entry} {src : Nat}

theorem pageWork_poisoned (poisoned : poisonedLines s src e.index ≠ []) :
    pageWork s e src = { units := [{ step := 512 - e.index }], scalar := some 1 } := by
  unfold pageWork
  simp [poisoned]

theorem pageWork_refused (clean : poisonedLines s src e.index = []) (bad : frameBad s (cpFrame e.record) = true) :
    pageWork s e src = { units := [{ step := 512 - e.index }], scalar := some 2 } := by
  unfold pageWork
  simp [clean, bad]

theorem pageWork_copies (clean : poisonedLines s src e.index = []) (good : frameBad s (cpFrame e.record) = false) :
    pageWork s e src =
      { units := (List.range (512 - e.index)).map (fun k => lineCopy s src (cpFrame e.record) (e.index + k)), scalar := some 0 } := by
  unfold pageWork
  simp [clean, good]

end PageWork

/-- The requests of a copy that only reads. -/
theorem copyRequests_reads (e : Entry) (src : Nat) (s : State) :
    copyRequests e src false s = ((frameLines src).drop e.index).foldl (fun s l => requestAt l s) s := by
  unfold copyRequests
  rw [if_neg (by decide), List.append_nil]

theorem copyRequests_onlyAsked (e : Entry) (src : Nat) (copied : Bool) (s : State) : OnlyAsked s (copyRequests e src copied s) :=
  foldl_onlyAsked (fun s l => requestAt_onlyAsked l s) _ s

/-- Requests leave the ASID whose translation is marked. -/
theorem setMig_asked {s t : State} (asked : OnlyAsked s t) (l : Leaf) (va : Nat) :
    setMig true l va t = invalidate (mapsVa s.sys.asid va) (setPte l.at_ (setBit 60 true) t) := by
  have asid : t.sys.asid = s.sys.asid := by
    unfold OnlyAsked at asked
    rw [asked]
  unfold setMig
  rw [asid]

/-- `cpRemap` is the low bit of the record's modifier. -/
theorem cpRemap_iff (r : Rec) : cpRemap r = true ↔ recMod r % 2 = 1 := beq_iff_eq

/-- The mark of the translation that a copy sets before its first line. -/
def copyMarked (e : Entry) (l : Leaf) (s t : State) : State :=
  if e.index = 0 ∧ recMod e.record % 2 = 1 then invalidate (mapsVa s.sys.asid (recImm e.record)) (setPte l.at_ (setBit 60 true) t)
  else t

/-- The requests of the lines that a copy reads. -/
def copyReads (e : Entry) (src : Nat) (s : State) : State :=
  ((frameLines src).drop e.index).foldl (fun t x => requestAt x t) (pageRequestsAt (recImm e.record) s)

/-- A copy may proceed: nothing holds it, and its page has a home that is reached. -/
structure Proceeds (e : Entry) (l : Leaf) (s : State) : Prop where
  free : ¬(s.pkg.ridging ≠ 0 ∧ tablesRidge s (cpVa e.record) = true)
  walked : pageWalk s (cpVa e.record) = .leaf l
  ready : ¬((e.index = 0 ∧ (migrating s e.slot l = true ∨ pteSw l.pte = true)) ∨
    (e.index = 0 ∧ cpRemap e.record = true ∧ memoryPending s = true))
  below : ¬ 2 ^ 39 ≤ leafPa l (cpVa e.record)
  reached : reachesHome s (leafPa l (cpVa e.record)) = true
  srcFree : ridgingAt s (leafPa l (cpVa e.record)) = false
  frameFree : ridgingAt s (cpFrame e.record) = false

namespace Proceeds
variable {e : Entry} {l : Leaf} {s : State} (go : Proceeds e l s)
include go

theorem plan {w : Work} (found : pageWork s e (leafPa l (cpVa e.record)) = w) :
    cpypgPlan e s = (copyMarked e l s (copyRequests e (leafPa l (cpVa e.record)) (w.scalar == some 0)
      (pageRequestsAt (cpVa e.record) s)), w) := by
  subst found
  refine (cpypgPlan_copies go.free go.walked go.ready go.below go.reached go.srcFree go.frameFree).trans
    (congrArg (Prod.mk · _) ?_)
  exact if_congr (and_congr_right fun _ => cpRemap_iff e.record)
    (setMig_asked ((pageRequestsAt_onlyAsked _ s).trans (copyRequests_onlyAsked _ _ _ _)) l (cpVa e.record)) rfl

theorem plan_poisoned (poisoned : poisonedLines s (leafPa l (cpVa e.record)) e.index ≠ []) :
    cpypgPlan e s = (copyMarked e l s (copyReads e (leafPa l (cpVa e.record)) s),
      { units := [{ step := 512 - e.index }], scalar := some 1 }) :=
  (go.plan (pageWork_poisoned poisoned)).trans (congrArg (fun t => (copyMarked e l s t, _)) (copyRequests_reads ..))

variable (clean : poisonedLines s (leafPa l (cpVa e.record)) e.index = [])
include clean

theorem plan_refused (bad : frameBad s (cpFrame e.record) = true) :
    cpypgPlan e s = (copyMarked e l s (copyReads e (leafPa l (cpVa e.record)) s),
      { units := [{ step := 512 - e.index }], scalar := some 2 }) :=
  (go.plan (pageWork_refused clean bad)).trans (congrArg (fun t => (copyMarked e l s t, _)) (copyRequests_reads ..))

theorem plan_copies (good : frameBad s (cpFrame e.record) = false) :
    cpypgPlan e s = (copyMarked e l s (copyRequests e (leafPa l (cpVa e.record)) true (pageRequestsAt (cpVa e.record) s)),
      { units := (List.range (512 - e.index)).map (fun k => lineCopy s (leafPa l (cpVa e.record)) (cpFrame e.record) (e.index + k)),
        scalar := some 0 }) :=
  (go.plan (pageWork_copies clean good)).trans
    (congrArg (fun b => (copyMarked e l s (copyRequests e _ b _), _)) (beq_self_eq_true (some (0 : Word))))

end Proceeds

/-! ### The end of a copy -/

section EndPage
variable {s : State} {e : Entry} {l : Leaf} (mapped : pageLeaf s (cpVa e.record) = some l)
include mapped

theorem endPage_moved (copied : e.scalar = some 0) (moves : cpRemap e.record = true) :
    endPage e s = moveWaiting (leafPa l (cpVa e.record)) (cpFrame e.record)
      (invalidate (mapsVa s.sys.asid (cpVa e.record)) (setPte l.at_ (remapPte (cpFrame e.record)) s)) := by
  unfold endPage
  dsimp only
  rw [mapped]
  exact (if_pos copied).trans (if_pos moves)

theorem endPage_copied (copied : e.scalar = some 0) (stays : ¬ cpRemap e.record = true) : endPage e s = s := by
  unfold endPage
  dsimp only
  rw [mapped]
  exact (if_pos copied).trans (if_neg stays)

/-- The mark of a migration that failed is taken back. -/
def unmigrated (e : Entry) (l : Leaf) (s : State) : State :=
  if cpRemap e.record then setMig false l (cpVa e.record) s else s

theorem endPage_poisoned (poisoned : e.scalar = some 1) :
    endPage e s = unmigrated e l (bplInsert (leafPa l (cpVa e.record) / 0x8000) s.sys.coreid
      (faqLines 2 (poisonedLines s (leafPa l (cpVa e.record)) 0) (spoilFrame (cpFrame e.record) s))) := by
  unfold endPage
  dsimp only
  rw [mapped]
  rw [show (0x8000 : Nat) = Config.pageBytes from rfl]
  exact (if_neg (by rw [poisoned]; decide)).trans (if_pos poisoned)

theorem endPage_refused (refused : e.scalar = some 2) :
    endPage e s = unmigrated e l (faqAppend (homeDie s (cpFrame e.record)) 3 s.sys.coreid (cpFrame e.record)
      (spoilFrame (cpFrame e.record) s)) := by
  unfold endPage
  dsimp only
  rw [mapped]
  exact (if_neg (by rw [refused]; decide)).trans (if_neg (by rw [refused]; decide))

end EndPage

/-- Moving the writes that wait for a page changes neither memory nor translations. -/
theorem moveWaiting_mem (src dst : Nat) (s : State) :
    (moveWaiting src dst s).mem.mem = s.mem.mem ∧ (moveWaiting src dst s).mem.tlb = s.mem.tlb := ⟨rfl, rfl⟩

theorem moveWaiting_homeHeld (src dst : Nat) (s : State) :
    (moveWaiting src dst s).mem.homeHeld = s.mem.homeHeld.map (movedItem src dst) := rfl

/-- An update of a leaf and of the buffers leaves what waits at the homes. -/
theorem remapped_homeHeld (p : Tlb → Bool) (a : Nat) (f : Nat → Nat) (s : State) :
    (invalidate p (setPte a f s)).mem.homeHeld = s.mem.homeHeld := by
  have asked : OnlyAsked s (requestAt a s) := requestAt_onlyAsked a s
  change (requestAt a s).mem.homeHeld = _
  rw [asked]

/-- A write that waits for a page proceeds to the page's new frame. -/
theorem moveWaiting_moves {s u : State} (kept : u.mem.homeHeld = s.mem.homeHeld) (src dst : Nat) :
    (∀ (i : Nat) (q : HomeReq) (d : List Byte), s.mem.homeHeld[i]? = some (.req q) → q.op = .write d →
      (moveWaiting src dst u).mem.homeHeld[i]? =
        some (.req (if q.pa / 0x8000 = src / 0x8000 then { q with pa := dst + q.pa % 0x8000 } else q))) ∧
      ∀ (i : Nat) (p : Packet) (ws : List ByteWrite), s.mem.homeHeld[i]? = some (.pkt p) → p.body = .write ws →
        (moveWaiting src dst u).mem.homeHeld[i]? = some (.pkt { p with body := .write (ws.map (fun x =>
          { x with addr := if x.addr / 0x8000 = src / 0x8000 then dst + x.addr % 0x8000 else x.addr })) }) := by
  have moved : ∀ i, (moveWaiting src dst u).mem.homeHeld[i]? = (s.mem.homeHeld[i]?).map (movedItem src dst) := fun i => by
    rw [moveWaiting_homeHeld, kept]
    exact List.getElem?_map ..
  constructor
  · intro i q d at_ written
    rw [moved, at_]
    simp only [Option.map_some, movedItem, written]
    change some (HomeItem.req { q with pa := if q.pa / 0x8000 = src / 0x8000 then _ else _, op := _ }) = _
    by_cases same : q.pa / 0x8000 = src / 0x8000
    · rw [if_pos same, if_pos same]
      rfl
    · rw [if_neg same, if_neg same, ← written]
  · intro i p ws at_ written
    rw [moved, at_]
    simp only [Option.map_some, movedItem, movedBody, written]
    rfl

/-! ### C.CKPT -/

/-- The engine of a C.CKPT that runs takes a turn at its sweep. -/
theorem ckpt_runs {slot : Nat} {s : State} {e : Entry} (runs : Runs .ckpt slot e s) (n : Nat) :
    exec (.cCkpt slot n) s = .next (sweepTurn e s) := by
  obtain ⟨found, task, ordinary, running, _, _, working, _⟩ := runs
  refine congrArg Host.Outcome.next ?_
  rw [found]
  exact (if_pos ⟨task, ordinary, working⟩).trans (if_pos running)

section SweepTurn
variable {s : State} {e : Entry}

theorem sweepTurn_waits (new : findSweep s e.seq = none) (waits : memoryPending s = true ∨ sweepRidges s e.record = true) :
    sweepTurn e s = s := by
  unfold sweepTurn
  rw [new]
  exact if_pos ((Bool.or_eq_true _ _).mpr waits)

theorem sweepTurn_begins (new : findSweep s e.seq = none) (ready : ¬(memoryPending s = true ∨ sweepRidges s e.record = true)) :
    sweepTurn e s = beginSweep e s := by
  unfold sweepTurn
  rw [new]
  exact if_neg (fun h => ready ((Bool.or_eq_true _ _).mp h))

theorem sweepTurn_ends {w : Sweep} (begun : findSweep s e.seq = some w) (swept : w.pages = []) :
    sweepTurn e s = endSweep w e s := by
  unfold sweepTurn
  rw [begun]
  exact if_pos swept

theorem sweepTurn_stays {w : Sweep} (begun : findSweep s e.seq = some w) (left : w.pages ≠ []) : sweepTurn e s = s := by
  unfold sweepTurn
  rw [begun]
  exact if_neg left

/-- The sweep that a record begins. -/
def newSweep (e : Entry) (s : State) : Sweep :=
  { asid := s.sys.asid, seq := e.seq, pages := takenPages e s, raised := [], copied := e.index, poisoned := e.part.toNat }

/-- The state in which a sweep has taken its pages. -/
def sweepMarked (e : Entry) (s : State) : State := markSweep (takenPages e s) (requestsAt (sweepReads s e.record) s)

theorem beginSweep_fails {c : Cause} {va : Nat} (fails : sweepCause s e.record = some (c, va)) :
    beginSweep e s = engineCause e { cause := c, faddr := some (BitVec.ofNat 64 va) } s := by
  unfold beginSweep
  rw [fails]

theorem beginSweep_empty (reads : sweepCause s e.record = none) (empty : takenPages e s = []) :
    beginSweep e s = endSweep (newSweep e s) e (sweepMarked e s) := by
  unfold beginSweep
  rw [reads]
  exact if_pos empty

theorem beginSweep_takes (reads : sweepCause s e.record = none) (taken : takenPages e s ≠ []) :
    beginSweep e s = putSweep (newSweep e s) (sweepMarked e s) := by
  unfold beginSweep
  rw [reads]
  exact if_neg taken

end SweepTurn

/-! ### The obligation -/

/-- Settles O60: a copy runs by its plan in each case of its walk; its end and the turns of a sweep follow their branches. -/
theorem pageTasks : Obligations.PageTasks := by
  unfold Obligations.PageTasks
  intro slot n s e
  refine ⟨?copies, ?ends, ?sweeps⟩
  case copies =>
    intro runs va frame moves ends fails
    have at_ : e.slot = slot := slot_of_findEntry runs.1
    have planned : ∀ p, cpypgPlan e s = p → ends p := fun _ => cpypg_runs runs n
    refine ⟨fun ridging held => planned _ (if_pos ⟨ridging, held⟩), fun free => ?_⟩
    have free : ¬(s.pkg.ridging ≠ 0 ∧ tablesRidge s (cpVa e.record) = true) := fun h =>
      free.elim h.1 (fun unheld => Bool.false_ne_true (unheld.symm.trans h.2))
    refine ⟨fun c line walked => planned _ (cpypgPlan_bad free walked), ?_⟩
    intro l walked waits src
    have ready : ¬waits → ¬((e.index = 0 ∧ (migrating s e.slot l = true ∨ pteSw l.pte = true)) ∨
        (e.index = 0 ∧ cpRemap e.record = true ∧ memoryPending s = true)) := fun w => by
      rw [cpRemap_iff, at_]
      exact w
    refine ⟨fun w => planned _ (cpypgPlan_waits free walked (by rw [cpRemap_iff, at_]; exact w)),
      fun w far => planned _ (cpypgPlan_beyond free walked (ready w) far),
      fun w near away => planned _ (cpypgPlan_unreached free walked (ready w) (Nat.not_le.mpr near) away),
      fun w near reached held => planned _ (cpypgPlan_held free walked (ready w) (Nat.not_le.mpr near) reached held), ?_⟩
    intro w near reached srcFree frameFree walkedState mark none_ asked readAll
    have go : Proceeds e l s := ⟨free, walked, ready w, Nat.not_le.mpr near, reached, srcFree, frameFree⟩
    exact ⟨fun poisoned => planned _ (go.plan_poisoned poisoned), fun clean bad => planned _ (go.plan_refused clean bad),
      fun clean good => planned _ (go.plan_copies clean good)⟩
  case ends =>
    intro l mapped va src moves back
    have backs : ∀ t, unmigrated e l t = back t := fun t => if_congr (cpRemap_iff e.record) rfl rfl
    refine ⟨fun copied m => ?_, fun copied m => endPage_copied mapped copied (fun h => m ((cpRemap_iff _).mp h)),
      fun poisoned => ?_, fun refused => ?_⟩
    rotate_left
    · exact (endPage_poisoned mapped poisoned).trans ((backs _).trans (congrArg back rfl))
    · exact (endPage_refused mapped refused).trans ((backs _).trans (congrArg back rfl))
    have moved := endPage_moved mapped copied ((cpRemap_iff _).mpr m)
    intro mappedState t
    change t = moveWaiting src (recXf e.record) mappedState at moved
    rw [moved]
    exact ⟨rfl, (moveWaiting_mem _ _ _).1, (moveWaiting_mem _ _ _).2, moveWaiting_moves (remapped_homeHeld _ _ _ s) src (recXf e.record)⟩
  case sweeps =>
    intro runs marks ps leaves marked ends new waits is
    have turn := ckpt_runs runs n
    refine ⟨fun fresh => ⟨fun w => turn.trans (congrArg _ (sweepTurn_waits fresh w)), fun w c va fails => ?_, fun w reads empty => ?_,
      fun w reads taken => ?_⟩, fun w begun => ⟨fun swept => turn.trans (congrArg _ (sweepTurn_ends begun swept)),
      fun left => turn.trans (congrArg _ (sweepTurn_stays begun left))⟩⟩
    · exact turn.trans (congrArg _ ((sweepTurn_begins fresh w).trans (beginSweep_fails fails)))
    · exact turn.trans (congrArg _ ((sweepTurn_begins fresh w).trans (beginSweep_empty reads empty)))
    · exact turn.trans (congrArg _ ((sweepTurn_begins fresh w).trans (beginSweep_takes reads taken)))

end Sys2Proof.Machine
end

section
/-! The events of a link (R320 to R335). -/

namespace Sys2Proof.Machine

/-! ### Transmission -/

/-- A link that is up transmits. -/
theorem exec_flitTransmit {s : State} {p : Fin 24} (up : (s.links[p]).state = .up) (v : BitVec 2) :
    exec (.flitTransmit ⟨p, v⟩) s = .next (withLink p (transmit v s.pkg.time s.links[p]) s) :=
  congrArg Host.Outcome.next (if_pos up)

theorem exec_flitTransmit_not_up {s : State} {p : Fin 24} (down : (s.links[p]).state ≠ .up) (v : BitVec 2) :
    exec (.flitTransmit ⟨p, v⟩) s = .next s :=
  congrArg Host.Outcome.next (if_neg down)

section Transmit
variable {l : Link} (v : BitVec 2) (now : Word)

theorem transmit_ctrl {c : BitVec 2048} {cs : List (BitVec 2048)} (ctrl : l.ctrl = c :: cs) :
    transmit v now l = { l with ctrl := cs, sent := l.sent ++ [c] } := by
  unfold transmit
  rw [ctrl]

variable (quiet : l.ctrl = [])
include quiet

theorem transmit_resend {n : BitVec 16} {ns : List (BitVec 16)} (again : l.resend = n :: ns) :
    transmit v now l = sendAgain n ns l := by
  unfold transmit
  rw [quiet, again]

variable (caught : l.resend = [])
include caught

theorem transmit_blocked (blocked : l.moving ≠ none ∨ 512 ≤ l.buffer.length) : transmit v now l = l := by
  unfold transmit
  rw [quiet, caught]
  exact if_pos ((Bool.or_eq_true _ _).mpr (blocked.imp Option.isSome_iff_ne_none.mpr decide_eq_true))

variable (still : l.moving = none) (room : l.buffer.length < 512)
include still room

/-- With nothing to repeat and room in the replay buffer, a link sends its marker, or new DATA. -/
theorem transmit_free : transmit v now l =
    if markerReady l then settleKeys (sendMarker now l)
    else if l.khold then l
    else
      match ofVc v l.queue with
      | [] => l
      | q :: _ => settleKeys (sendNew q now { l with queue := l.queue.erase q }) := by
  unfold transmit
  rw [quiet, caught]
  refine (if_neg ?_).trans rfl
  rw [still, decide_eq_false (Nat.not_le.mpr room)]
  exact Bool.false_ne_true

theorem transmit_marker (ready : markerReady l = true) : transmit v now l = settleKeys (sendMarker now l) :=
  (transmit_free v now quiet caught still room).trans (if_pos ready)

theorem transmit_khold (unready : markerReady l = false) (hold : l.khold = true) : transmit v now l = l :=
  (transmit_free v now quiet caught still room).trans ((if_neg (Bool.eq_false_iff.mp unready)).trans (if_pos hold))

variable (unready : markerReady l = false) (free : l.khold = false)
include unready free

theorem transmit_data {q : FlitReq} {qs : List FlitReq} (next : ofVc v l.queue = q :: qs) :
    transmit v now l = settleKeys (sendNew q now { l with queue := l.queue.erase q }) := by
  refine (transmit_free v now quiet caught still room).trans
    ((if_neg (Bool.eq_false_iff.mp unready)).trans ((if_neg (Bool.eq_false_iff.mp free)).trans ?_))
  rw [next]

theorem transmit_idle (empty : ofVc v l.queue = []) : transmit v now l = l := by
  refine (transmit_free v now quiet caught still room).trans
    ((if_neg (Bool.eq_false_iff.mp unready)).trans ((if_neg (Bool.eq_false_iff.mp free)).trans ?_))
  rw [empty]

end Transmit

/-- The flits of a channel that the others' flits stand before. -/
theorem ofVc_behind {v : BitVec 2} {os qs : List FlitReq} {q : FlitReq} (others : ∀ o ∈ os, o.vc ≠ v) (mine : q.vc = v) :
    ofVc v (os ++ q :: qs) = q :: ofVc v qs := by
  unfold ofVc
  rw [List.filter_append, List.filter_eq_nil_iff.mpr (fun o at_ => mt beq_iff_eq.mp (others o at_)), List.nil_append,
    List.filter_cons, if_pos (beq_iff_eq.mpr mine)]

/-- A flit that no flit before it equals leaves alone. -/
theorem erase_behind {v : BitVec 2} {os qs : List FlitReq} {q : FlitReq} (others : ∀ o ∈ os, o.vc ≠ v) (mine : q.vc = v) :
    (os ++ q :: qs).erase q = os ++ qs := by
  rw [List.erase_append_right _ (fun at_ => others q at_ mine), List.erase_cons_head]

theorem sendAgain_raw (n : BitVec 16) (ns : List (BitVec 16)) (l : Link) :
    (sendAgain n ns l).buffer.map SentFlit.raw = l.buffer.map SentFlit.raw := by
  unfold sendAgain
  rw [List.map_map]
  exact List.map_congr_left (fun f _ => by dsimp only [Function.comp]; split <;> rfl)

/-! ### Arrival -/

section Arrival
variable {s : State} {p : Fin 24} {raw : BitVec 2048} {ok : Bool}

theorem exec_flitArrival_not_up (down : (s.links[p]).state ≠ .up) : exec (.flitArrival p raw ok) s = .next s :=
  congrArg Host.Outcome.next (if_pos down)

variable (up : (s.links[p]).state = .up)
include up

theorem exec_flitArrival_bad (bad : flitBad s.links[p] raw ok = true) :
    exec (.flitArrival p raw ok) s = .next (withLink p (badFlit raw s.links[p]) s) :=
  congrArg Host.Outcome.next ((if_neg (fun h => h up)).trans (if_pos bad))

variable (good : flitBad s.links[p] raw ok = false)
include good

theorem exec_flitArrival_ctrl (ctrl : flitType raw = flitCtrl) : exec (.flitArrival p raw ok) s = .next (takeCtrl p raw s) :=
  congrArg Host.Outcome.next ((if_neg (fun h => h up)).trans ((if_neg (Bool.eq_false_iff.mp good)).trans (if_pos ctrl)))

theorem exec_flitArrival_train (train : flitType raw = flitTrain) :
    exec (.flitArrival p raw ok) s = .next (countRetrain p .retraining s) :=
  congrArg Host.Outcome.next ((if_neg (fun h => h up)).trans ((if_neg (Bool.eq_false_iff.mp good)).trans
    ((if_neg (by rw [train]; decide)).trans (if_pos train))))

theorem exec_flitArrival_data (carries : carriesSeq raw = true) :
    exec (.flitArrival p raw ok) s = .next (takeData p raw s) := by
  have type : flitType raw = 1 ∨ flitType raw = 3 := by simpa [carriesSeq, flitData, flitMarker] using carries
  have notCtrl : flitType raw ≠ flitCtrl := by unfold flitCtrl; omega
  have notTrain : flitType raw ≠ flitTrain := by unfold flitTrain; omega
  exact congrArg Host.Outcome.next ((if_neg (fun h => h up)).trans ((if_neg (Bool.eq_false_iff.mp good)).trans
    ((if_neg notCtrl).trans ((if_neg notTrain).trans (if_pos carries)))))

end Arrival

/-- A corrupted flit that should be the next is answered with a NAK. -/
theorem badFlit_next {raw : BitVec 2048} {l : Link} (next : flitSeq raw = l.rxSeq + 1) (carries : carriesSeq raw = true) :
    badFlit raw l = sendCtrl true l := by
  have type : flitType raw = 1 ∨ flitType raw = 3 := by simpa [carriesSeq, flitData, flitMarker] using carries
  unfold badFlit
  exact (if_neg (by unfold flitCtrl flitTrain; omega)).trans (if_neg (fun h => h.2 next))

/-- Queueing flits leaves all of a link but its queue. -/
theorem queueFlits_link (q : Fin 24) (fs : List FlitReq) (s : State) (p : Fin 24) :
    ∃ queue, (queueFlits q fs s).links[p] = { s.links[p] with queue := queue } := by
  cases fs with
  | nil => exact ⟨_, rfl⟩
  | cons f fs =>
    unfold queueFlits
    dsimp only
    rcases eq_or_ne (queuePort s q f.src f.dst) p with same | other
    · subst same
      exact ⟨_, Vector.getElem_set_self _⟩
    · exact ⟨_, Vector.getElem_set_ne _ _ (Fin.val_ne_of_ne other)⟩

/-- A whole packet that goes on leaves all of the link by which it came but its queue and what failed there. -/
theorem forward_link (port : Fin 24) (pkt : List FlitReq) (s : State) (p : Fin 24) :
    ∃ queue failed, (forward port pkt s).links[p] = { s.links[p] with queue := queue, failed := failed } := by
  unfold forward
  split
  · exact ⟨_, _, rfl⟩
  · dsimp only
    split
    · exact ⟨_, _, rfl⟩
    · split
      · rcases eq_or_ne port p with same | other
        · subst same
          exact ⟨_, _, Vector.getElem_set_self _⟩
        · exact ⟨(s.links[p]).queue, (s.links[p]).failed, Vector.getElem_set_ne port.isLt p.isLt (Fin.val_ne_of_ne other)⟩
      · exact (queueFlits_link _ _ s p).imp (fun _ queued => ⟨(s.links[p]).failed, queued⟩)

/-- Link `p` of a state in which link `p` has been replaced. -/
theorem withLink_self (p : Fin 24) (l : Link) (s : State) : (withLink p l s).links[p] = l := Vector.getElem_set_self _

section Accept
variable {p : Fin 24} {raw : BitVec 2048} {s : State}

/-- The link behind a flit that was accepted, before its answer. -/
def accepted (raw : BitVec 2048) (l : Link) : Link := countRx raw { l with rxSeq := flitSeq raw, nakOut := false }

theorem accepted_rxSeq (raw : BitVec 2048) (l : Link) : (accepted raw l).rxSeq = flitSeq raw := by
  unfold accepted countRx
  split <;> rfl

theorem accepted_partialPkt (raw : BitVec 2048) (l : Link) : (accepted raw l).partialPkt = l.partialPkt := by
  unfold accepted countRx
  split <;> rfl

theorem accepted_delivered (raw : BitVec 2048) (l : Link) : (accepted raw l).delivered = l.delivered := by
  unfold accepted countRx
  split <;> rfl

theorem acceptFlit_marker (marker : (flitReqOf s.links[p] raw).marker = true) :
    ∃ rx, acceptFlit p raw s = withLink p (sendCtrl false { accepted raw s.links[p] with rx := rx }) s :=
  ⟨_, if_pos marker⟩

theorem acceptFlit_last (data : (flitReqOf s.links[p] raw).marker = false) (last : (flitReqOf s.links[p] raw).last = true) :
    acceptFlit p raw s =
      (let q := flitReqOf s.links[p] raw
       let l := accepted raw s.links[p]
       let pkt := l.partialPkt[vcIx q] ++ [q]
       forward p pkt (withLink p (sendCtrl false { l with
         partialPkt := l.partialPkt.set (vcIx q) [], delivered := l.delivered ++ [pkt] }) s)) :=
  (if_neg (Bool.eq_false_iff.mp data)).trans (if_pos last)

theorem acceptFlit_more (data : (flitReqOf s.links[p] raw).marker = false) (more : (flitReqOf s.links[p] raw).last = false) :
    acceptFlit p raw s =
      (let q := flitReqOf s.links[p] raw
       let l := accepted raw s.links[p]
       withLink p (sendCtrl false { l with partialPkt := l.partialPkt.set (vcIx q) (l.partialPkt[vcIx q] ++ [q]) }) s) :=
  (if_neg (Bool.eq_false_iff.mp data)).trans (if_neg (Bool.eq_false_iff.mp more))

/-- What the link shows of the next flit in order: SEQ while no packet ends, and the buffer of the flit's channel. -/
theorem acceptFlit_link (p : Fin 24) (raw : BitVec 2048) (s : State) :
    let l := s.links[p]
    let t := acceptFlit p raw s
    (raw.getLsbD 24 = false → (t.links[p]).rxSeq = flitSeq raw) ∧
      (flitType raw = flitData → let q := flitReqOf l raw
        (q.last = false → (t.links[p]).partialPkt = l.partialPkt.set (vcIx q) (l.partialPkt[vcIx q] ++ [q])) ∧
        (q.last = true → (t.links[p]).partialPkt = l.partialPkt.set (vcIx q) [] ∧
          (t.links[p]).delivered = l.delivered ++ [l.partialPkt[vcIx q] ++ [q]])) := by
  dsimp only
  refine ⟨fun more => ?_, fun data => ⟨fun more => ?_, fun last => ?_⟩⟩
  · cases marker : (flitReqOf s.links[p] raw).marker with
    | true =>
      obtain ⟨rx, accepts⟩ := acceptFlit_marker (s := s) marker
      rw [accepts, withLink_self]
      exact accepted_rxSeq ..
    | false =>
      rw [acceptFlit_more marker more]
      dsimp only
      rw [withLink_self]
      exact accepted_rxSeq ..
  · have marker : (flitReqOf s.links[p] raw).marker = false := beq_eq_false_iff_ne.mpr (by rw [data]; decide)
    rw [acceptFlit_more marker more]
    dsimp only
    rw [withLink_self, accepted_partialPkt]
    rfl
  · have marker : (flitReqOf s.links[p] raw).marker = false := beq_eq_false_iff_ne.mpr (by rw [data]; decide)
    rw [acceptFlit_last marker last]
    dsimp only
    rw [accepted_partialPkt, accepted_delivered]
    obtain ⟨queue, failed, goes⟩ := forward_link p ((s.links[p]).partialPkt[vcIx (flitReqOf s.links[p] raw)] ++
      [flitReqOf s.links[p] raw]) (withLink p (sendCtrl false { accepted raw s.links[p] with
        partialPkt := (s.links[p]).partialPkt.set (vcIx (flitReqOf s.links[p] raw)) []
        delivered := (s.links[p]).delivered ++ [(s.links[p]).partialPkt[vcIx (flitReqOf s.links[p] raw)] ++
          [flitReqOf s.links[p] raw]] }) s) p
    rw [goes, withLink_self]
    exact ⟨rfl, rfl⟩

end Accept

/-! ### Retrains -/

section Retrain
variable {p : Fin 24} {s : State} {st : LinkState}

theorem countRetrain_room (room : (s.links[p]).bkt ≠ 8) :
    countRetrain p st s = withLink p { s.links[p] with
      state := st, since := s.pkg.time, rtcnt := if (s.links[p]).rtcnt = 255 then 255 else (s.links[p]).rtcnt + 1,
      bkt := (s.links[p]).bkt + 1 } s := by
  unfold countRetrain
  dsimp only
  rw [if_neg room]
  exact if_neg (mt beq_iff_eq.mp room)

theorem countRetrain_full (full : (s.links[p]).bkt = 8) :
    ((countRetrain p st s).links[p]).state = .retired ∧ ((countRetrain p st s).links[p]).noticeDue = true ∧
      (countRetrain p st s).pkg.lnk = true := by
  unfold countRetrain
  dsimp only
  rw [if_pos (beq_iff_eq.mpr full)]
  refine ⟨?_, ?_, rfl⟩
  · exact congrArg Link.state (withLink_self ..)
  · exact congrArg Link.noticeDue (withLink_self ..)

end Retrain

/-- A first replay of a buffer sends every flit again. -/
theorem replayFrom_first {p : Fin 24} {s : State} {f : SentFlit} {fs : List SentFlit} (buffered : (s.links[p]).buffer = f :: fs)
    (once : f.resent = false) (good : f.fails = 0) :
    replayFrom p s = withLink p { s.links[p] with
      resend := (s.links[p]).buffer.map SentFlit.seq, advanced := s.pkg.time } s := by
  unfold replayFrom
  dsimp only
  rw [buffered]
  dsimp only
  rw [if_neg (Bool.eq_false_iff.mp once)]
  refine (if_neg (by rw [good]; decide)).trans ?_
  rw [← buffered]

end Sys2Proof.Machine
end

section
/-! The retirement of a link and what the host orders of it (R326 to R333). -/

namespace Sys2Proof.Machine

/-! ### CTRL flits -/

section TakeCtrl
variable {p : Fin 24} {raw : BitVec 2048} {s : State}

/-- The link behind a CTRL flit, before a circuit move that waited for it. -/
def ctrlTaken (raw : BitVec 2048) (now : Word) (l : Link) : Link :=
  settleKeys { ackUpTo (flitAck raw) now l with peerRx := raw.extractLsb' 128 2 }

theorem takeCtrl_ack (ack : flitNak raw = false) :
    takeCtrl p raw s = withLink p (endMove s.pkg.time (ctrlTaken raw s.pkg.time s.links[p])) s :=
  if_neg (Bool.eq_false_iff.mp ack)

theorem ackUpTo_moving (a : BitVec 16) (now : Word) (l : Link) : (ackUpTo a now l).moving = l.moving := by
  unfold ackUpTo
  dsimp only
  split <;> rfl

theorem endMove_stays {now : Word} {l : Link} (stays : l.moving = none ∨ l.buffer ≠ []) : endMove now l = l := by
  unfold endMove
  split
  · next peer moves => exact if_neg (stays.resolve_left (by rw [moves]; exact Option.some_ne_none peer))
  · rfl

theorem endMove_moves {now : Word} {l : Link} {peer : BitVec 12} (moves : l.moving = some peer) (empty : l.buffer = []) :
    endMove now l = planned peer now l := by
  unfold endMove
  rw [moves]
  exact if_pos empty

end TakeCtrl

/-! ### Retirement -/

/-- Replacing a link twice. -/
theorem withLink_withLink (p : Fin 24) (l m : Link) (s : State) : withLink p m (withLink p l s) = withLink p m s := by
  unfold withLink
  rw [Vector.set_set]

section Retirement
variable {p : Fin 24} {s : State}

theorem exec_linkStateNotice (retired : (s.links[p]).state = .retired) (due : (s.links[p]).noticeDue = true) (seq : BitVec 16) :
    exec (.linkStateNotice p seq) s =
      .next (endRetire p (reroute p (toReroute s.links[p] seq) (withLink p (emptied s.links[p]) s))) :=
  congrArg Host.Outcome.next (if_pos ⟨retired, due⟩)

theorem exec_noticeTimeout (retired : (s.links[p]).state = .retired) (due : (s.links[p]).noticeDue = true)
    (late : decide (((s.links[p]).since + 1000000).toNat ≤ s.pkg.time.toNat) = true) :
    exec (.noticeTimeout p) s = .next (endRetire p (reroute p (toKeep s.links[p])
      ((toLose s.links[p]).foldl (fun s pkt => failPacket p pkt s) (withLink p (emptied s.links[p]) s)))) :=
  congrArg Host.Outcome.next (if_pos ⟨retired, due, late⟩)

theorem exec_retired_idle (idle : (s.links[p]).state ≠ .retired ∨ (s.links[p]).noticeDue = false) :
    exec (.noticeTimeout p) s = .next s ∧ ∀ seq, exec (.linkStateNotice p seq) s = .next s := by
  have quiet : ¬((s.links[p]).state = .retired ∧ (s.links[p]).noticeDue = true) := fun h =>
    idle.elim (fun away => away h.1) (fun free => Bool.false_ne_true (free.symm.trans h.2))
  exact ⟨congrArg Host.Outcome.next (if_neg (fun h => quiet ⟨h.1, h.2.1⟩)), fun _ => congrArg Host.Outcome.next (if_neg quiet)⟩

theorem endRetire_stays (stays : (s.links[p]).restart = false) : endRetire p s = s := if_neg (Bool.eq_false_iff.mp stays)

theorem endRetire_returns (returns : (s.links[p]).restart = true) :
    endRetire p s = withLink p (backInService s.pkg.time s.links[p]) s := if_pos returns

/-- The end of a retirement leaves every queue. -/
theorem endRetire_queue (n : Fin 24) : ((endRetire p s).links[n]).queue = (s.links[n]).queue := by
  unfold endRetire
  dsimp only
  split
  · rcases eq_or_ne p n with same | other
    · subst same
      have returned := withLink_self p (backInService s.pkg.time s.links[p]) s
      rw [returned]
      rfl
    · exact congrArg Link.queue (Vector.getElem_set_ne p.isLt n.isLt (Fin.val_ne_of_ne other))
  · rfl

end Retirement

/-! ### The flits of a retired link -/

section Flits
variable {l : Link}

theorem againOf_empty (kept : l.kept = []) (buffer : l.buffer = []) (seq : BitVec 16) (v : BitVec 2) : againOf l seq v = [] := by
  unfold againOf sentFlits
  rw [kept, buffer]
  rfl

theorem toReroute_empty (queue : l.queue = []) (kept : l.kept = []) (buffer : l.buffer = []) (seq : BitVec 16) :
    toReroute l seq = [] := by
  unfold toReroute
  simp only [againOf_empty kept buffer, queue]
  rfl

theorem toLose_empty (queue : l.queue = []) (kept : l.kept = []) (buffer : l.buffer = []) : toLose l = [] := by
  unfold toLose begunOf
  simp only [againOf_empty kept buffer, queue]
  rfl

theorem toKeep_empty (queue : l.queue = []) : toKeep l = [] := by
  unfold toKeep begunOf
  simp only [queue]
  rfl

/-- The packets of one flit of a channel. -/
theorem packetsByVc_single (f : FlitReq) : packetsByVc (fun v => if f.vc = v then [f] else []) = [[f]] := by
  have one : ∀ v, packetsOfFlits (if f.vc = v then [f] else []) [] = if f.vc = v then [[f]] else [] := fun v => by
    split
    · cases h : f.last <;> simp [packetsOfFlits, h]
    · rfl
  unfold packetsByVc
  simp only [one]
  generalize f.vc = v
  revert v
  generalize [[f]] = l
  have four : List.range 4 = [0, 1, 2, 3] := rfl
  rw [four]
  intro v
  have cases4 : v = 0 ∨ v = 1 ∨ v = 2 ∨ v = 3 := by revert v; decide
  rcases cases4 with h | h | h | h <;> subst h <;> simp

theorem ofVc_single (v : BitVec 2) (f : FlitReq) : ofVc v [f] = if f.vc = v then [f] else [] := by
  unfold ofVc
  rw [List.filter_cons]
  by_cases mine : f.vc = v
  · rw [if_pos (beq_iff_eq.mpr mine), if_pos mine]
    rfl
  · rw [if_neg (mt beq_iff_eq.mp mine), if_neg mine]
    rfl

theorem toReroute_single {f : FlitReq} (queue : l.queue = [f]) (kept : l.kept = []) (buffer : l.buffer = []) (seq : BitVec 16) :
    toReroute l seq = [[f]] := by
  unfold toReroute
  simp only [againOf_empty kept buffer, queue, List.nil_append, ofVc_single]
  exact packetsByVc_single f

theorem begunOf_first {f : FlitReq} (queue : l.queue = [f]) (first : f.first = true) (v : BitVec 2) : begunOf l v = [] := by
  unfold begunOf
  rw [queue, ofVc_single]
  split
  · rw [List.takeWhile_cons, if_neg (by rw [first]; exact Bool.false_ne_true)]
  · rfl

theorem toLose_first {f : FlitReq} (queue : l.queue = [f]) (first : f.first = true) (kept : l.kept = []) (buffer : l.buffer = []) :
    toLose l = [] := by
  unfold toLose
  simp only [againOf_empty kept buffer, begunOf_first queue first]
  rfl

theorem toKeep_first {f : FlitReq} (queue : l.queue = [f]) (first : f.first = true) : toKeep l = [[f]] := by
  unfold toKeep
  simp only [begunOf_first queue first, queue, ofVc_single]
  exact packetsByVc_single f

theorem toLose_begun {f : FlitReq} (queue : l.queue = []) (kept : l.kept = [f]) (buffer : l.buffer = []) (more : f.last = false) :
    toLose l = [[f]] := by
  have again : ∀ v, againOf l l.acked v = if f.vc = v then [f] else [] := fun v => by
    unfold againOf sentFlits
    rw [kept, buffer]
    by_cases mine : f.vc = v
    · rw [if_pos mine]
      simp [mine, beyond, more]
    · rw [if_neg mine]
      simp [mine, beyond]
  unfold toLose begunOf
  simp only [again, queue]
  refine Eq.trans (congrArg packetsByVc (funext fun v => List.append_nil _)) (packetsByVc_single f)

end Flits

/-! ### Packets that take another link -/

theorem rerouteOne_moves {p n : Fin 24} {s : State} {f : FlitReq} (found : otherPort s p f.src.toNat f.dst.toNat = some n) :
    ((rerouteOne p s [f]).links[n]).queue = insertAhead [{ f with vc := reroutedVc s p n f.vc }] (s.links[n]).queue := by
  unfold rerouteOne
  dsimp only [List.head?_cons]
  rw [found]
  exact congrArg Link.queue (withLink_self n { s.links[n] with
    queue := insertAhead [{ f with vc := reroutedVc s p n f.vc }] (s.links[n]).queue } s)

/-- Flits that a link has queued leave whether it returns to service. -/
def KeepsRestart (s t : State) : Prop := ∀ p : Fin 24, (t.links[p]).restart = (s.links[p]).restart

namespace KeepsRestart

theorem refl (s : State) : KeepsRestart s s := fun _ => rfl

theorem trans {s t u : State} (h : KeepsRestart s t) (k : KeepsRestart t u) : KeepsRestart s u := fun p => (k p).trans (h p)

theorem of_links {s t : State} (h : t.links = s.links) : KeepsRestart s t := fun p => by rw [h]

theorem queueFlits (q : Fin 24) (fs : List FlitReq) (s : State) : KeepsRestart s (queueFlits q fs s) := fun p => by
  obtain ⟨_, queued⟩ := queueFlits_link q fs s p
  rw [queued]

theorem sendOut (s : State) (p : Packet) : KeepsRestart s (sendOut s p) := by
  unfold Machine.sendOut
  dsimp only
  split
  · exact (KeepsRestart.of_links rfl).trans (queueFlits _ _ _)
  · split
    · exact .refl s
    · exact .of_links rfl

theorem toNet (ps : List Packet) (s : State) : KeepsRestart s (toNet ps s) := by
  unfold Machine.toNet
  induction ps generalizing s with
  | nil => exact .refl s
  | cons p ps ih => exact (sendOut s p).trans (ih _)

theorem failPip (n : Nat) (s : State) : KeepsRestart s (failPip n s) := by
  unfold Machine.failPip
  dsimp only
  split
  · exact (toNet _ s).trans (.of_links rfl)
  · exact .refl s

theorem raiseAsync (a : Async) (s : State) : KeepsRestart s (raiseAsync a s) := by
  unfold Machine.raiseAsync
  split
  · exact .of_links rfl
  · exact .refl s

theorem consumedByEngine {c : EngineCause} (nowhere : c.faddr = none) (s : State) : consumedByEngine c s = s := by
  unfold Machine.consumedByEngine
  rw [nowhere]

theorem pipRetired (e : Entry) (s : State) : KeepsRestart s (pipRetired e s) := by
  unfold Machine.pipRetired
  split
  · exact .of_links rfl
  · exact .refl s

theorem failAt (e : Entry) (c : Cause) (faddr : Option Word) (s : State) : KeepsRestart s (failAt e c faddr s) := by
  have pips : KeepsRestart s (match e.pip with | some n => Machine.failPip n s | none => s) := by
    split
    · exact failPip _ s
    · exact .refl s
  have dropped : ∀ u, KeepsRestart u (dropEntry e.slot (mergeFlags u e.flags)) := fun _ => .of_links rfl
  have released : ∀ u, KeepsRestart u (releaseAll u) := fun _ => .of_links rfl
  exact (((pips.trans (dropped _)).trans (pipRetired e _)).trans (raiseAsync _ _)).trans (released _)

theorem faultEntry (e : Entry) (s : State) : KeepsRestart s (faultEntry e { cause := .remote } s) :=
  (KeepsRestart.of_links rfl).trans (raiseAsync _ _)

theorem engineCause (e : Entry) (s : State) : KeepsRestart s (engineCause e { cause := .remote } s) := by
  unfold Machine.engineCause
  split
  · rw [consumedByEngine rfl]
    exact failAt _ _ _ s
  · rw [if_neg (by decide)]
    exact faultEntry e s

theorem packetFails (e : Entry) (s : State) : KeepsRestart s (packetFails e s) := by
  unfold Machine.packetFails
  dsimp only
  split
  · split
    · exact (KeepsRestart.of_links rfl).trans (engineCause _ _)
    · exact .of_links rfl
  · exact engineCause _ s

end KeepsRestart

/-- A packet of this package that is lost fails its record. -/
theorem failPacket_own {p : Fin 24} {s : State} {f : FlitReq} {q : Packet} {e : Entry} (packet : packetOf s f = some q)
    (own : ownPacket s q = true) (record : ofRecord q.body = true) (found : findEntry s q.srcSlot = some e) :
    failPacket p [f] s = packetFails e { s with fab := { s.fab with net := s.fab.net.erase q } } := by
  have lost : failPacket p [f] s = losePacket s q := by
    unfold failPacket
    rw [List.head?_cons, Option.bind_some, packet]
  have own' : (ownPacket { s with fab := { s.fab with net := s.fab.net.erase q } } q && ofRecord q.body) = true :=
    (Bool.and_eq_true _ _).mpr ⟨own, record⟩
  have found' : findEntry { s with fab := { s.fab with net := s.fab.net.erase q } } q.srcSlot = some e := found
  rw [lost]
  refine (if_pos own').trans ?_
  rw [found']

theorem packetFails_other {e : Entry} {s : State} (other : entryEng e ≠ .c) :
    packetFails e s = engineCause { e with acks := e.acks - 1 } { cause := .remote } s := if_neg other

theorem packetFails_running {e : Entry} {s : State} (copies : entryEng e = .c) (running : e.state = .running) :
    packetFails e s = engineCause { e with acks := e.acks - 1 } { cause := .remote } (unsend e.seq s) :=
  (if_pos copies).trans (if_pos running)

theorem packetFails_stopped {e : Entry} {s : State} (copies : entryEng e = .c) (stopped : e.state ≠ .running) :
    packetFails e s = putEntry { e with acks := e.acks - 1 } (unsend e.seq s) :=
  (if_pos copies).trans (if_neg stopped)

end Sys2Proof.Machine
end

section
/-! What the host orders of a link, and the obligation about the events of a link (R320 to R335). -/

namespace Sys2Proof.Machine

/-! ### Keys -/

theorem validBits_eq_zero (v : Vector KeySlot 2) : validBits v = 0 ↔ (v[0]).valid = false ∧ (v[1]).valid = false := by
  unfold validBits
  cases (v[0]).valid <;> cases (v[1]).valid <;> decide

theorem loadTx_txks (slot : Bool) (k : KeySlot) (l : Link) :
    (loadTx slot k l).txks = if (l.tx[0]).valid = false ∧ (l.tx[1]).valid = false then slot else l.txks :=
  if_congr (validBits_eq_zero l.tx) rfl rfl

theorem loadTx_slot (slot : Bool) (k : KeySlot) (l : Link) : (loadTx slot k l).tx[slotIx slot] = k :=
  Vector.getElem_set_self _

/-- Both slots are empty, whichever is the active one. -/
theorem slots_empty (active : Bool) (v : Vector KeySlot 2) :
    (!(v[slotIx active]).valid && !(v[slotIx (!active)]).valid) = (!(v[0]).valid && !(v[1]).valid) := by
  cases active
  · rfl
  · exact Bool.and_comm ..

/-- KHOLD behind a write of ENREQ: the active slot is used up, or encryption is required and no slot is loaded. -/
theorem settleKeys_khold (l : Link) (on : Bool) :
    (settleKeys { l with enreq := on }).khold =
      (((txSlot l).valid && decide (2 ^ 32 - 1 ≤ (txSlot l).ctr)) || (on && !(l.tx[0]).valid && !(l.tx[1]).valid)) := by
  rw [Bool.and_assoc, ← slots_empty l.txks l.tx, ← Bool.and_assoc]
  rfl

section Load
variable {s : State} {p : Fin 24} (slot : Bool) (key : BitVec 256) (salt : BitVec 32)

theorem exec_keySlotLoad_tx_refused (active : (txSlot s.links[p]).valid = true) :
    exec (.keySlotLoad p true (s.links[p]).txks key salt) s = .next (wakeAll s) :=
  congrArg Host.Outcome.next ((if_pos rfl).trans (if_pos ⟨rfl, active⟩))

theorem exec_keySlotLoad_tx (free : slot ≠ (s.links[p]).txks ∨ (txSlot s.links[p]).valid = false) :
    exec (.keySlotLoad p true slot key salt) s =
      .next (withLink p (loadTx slot { valid := true, key := key, salt := salt, ctr := 0 } s.links[p]) (wakeAll s)) :=
  congrArg Host.Outcome.next ((if_pos rfl).trans (if_neg fun h =>
    free.elim (fun other => other h.1) (fun empty => Bool.false_ne_true (empty.symm.trans h.2))))

theorem exec_keySlotLoad_rx_refused (used : ((s.links[p]).rx[slotIx slot]).valid = true) :
    exec (.keySlotLoad p false slot key salt) s = .next (wakeAll s) :=
  congrArg Host.Outcome.next ((if_neg Bool.false_ne_true).trans (if_pos used))

theorem exec_keySlotLoad_rx (free : ((s.links[p]).rx[slotIx slot]).valid = false) :
    exec (.keySlotLoad p false slot key salt) s = .next (withLink p (sendCtrl false { s.links[p] with
      rx := (s.links[p]).rx.set (slotIx slot) { valid := true, key := key, salt := salt, ctr := 0 } }) (wakeAll s)) :=
  congrArg Host.Outcome.next ((if_neg Bool.false_ne_true).trans (if_neg (Bool.eq_false_iff.mp free)))

end Load

/-! ### The pod -/

/-- The state behind a write of PODCFG, before its edges go down. -/
def podWritten (v : Word) (s : State) : State :=
  let u := renode (v.setWidth 12) (wakeAll s)
  { u with fab := { u.fab with podcfg := podcfgWith v (v.setWidth 12) } }

theorem exec_podcfgWrite (v : Word) (s : State) :
    exec (.podcfgWrite v) s = .next { podWritten v s with links := Vector.ofFn (dropEdge (podWritten v s)) } := rfl

theorem podWritten_links (v : Word) (s : State) : (podWritten v s).links = s.links := renode_links _ (wakeAll s)

theorem podWritten_now (v : Word) (s : State) : (podWritten v s).pkg.time = s.pkg.time :=
  (congrArg Package.time (renode_pkg (v.setWidth 12) (wakeAll s)) : (renode (v.setWidth 12) (wakeAll s)).pkg.time = _)

/-- The edges of the pod do not depend on the links' states. -/
theorem edgePort_links (u : State) (links : Vector Link 24) (p : Fin 24) :
    edgePort { u with links := links } p = edgePort u p := by
  unfold edgePort axisWraps crosses axisLen
  rfl

/-- A link of the pod's new shape. -/
theorem getElem_dropEdges (u : State) (p : Fin 24) :
    ({ u with links := Vector.ofFn (dropEdge u) } : State).links[p] =
      if edgePort { u with links := Vector.ofFn (dropEdge u) } p then { u.links[p] with state := .down, since := u.pkg.time }
      else u.links[p] := by
  rw [edgePort_links]
  exact Vector.getElem_ofFn p.isLt

end Sys2Proof.Machine
end

section
/-! The obligation about the events of a link. -/

namespace Sys2Proof.Machine

/-- What a link that is up becomes by transmitting. -/
theorem transmits {s : State} {p : Fin 24} (up : (s.links[p]).state = .up) {v : BitVec 2} {m : Link}
    (sends : transmit v s.pkg.time s.links[p] = m) :
    exec (.flitTransmit ⟨p, v⟩) s = .next { s with links := s.links.set p m } := sends ▸ exec_flitTransmit up v

/-- A link transmits the next flit of the channel that is served, or nothing where the channel has none. -/
theorem transmit_serves {s : State} {p : Fin 24} (up : (s.links[p]).state = .up) (quiet : (s.links[p]).ctrl = [])
    (caught : (s.links[p]).resend = []) (still : (s.links[p]).moving = none) (room : (s.links[p]).buffer.length < 512)
    (unready : markerReady s.links[p] = false) (free : (s.links[p]).khold = false) (v : BitVec 2) :
    (∀ os q qs, (s.links[p]).queue = os ++ q :: qs → (∀ o ∈ os, o.vc ≠ v) → q.vc = v →
      ∃ m, exec (.flitTransmit ⟨p, v⟩) s = .next { s with links := s.links.set p m } ∧ m.queue = os ++ qs ∧
        m.nextSeq = (s.links[p]).nextSeq + 1 ∧ m.buffer.map SentFlit.req = (s.links[p]).buffer.map SentFlit.req ++ [q]) ∧
      ((∀ o ∈ (s.links[p]).queue, o.vc ≠ v) →
        exec (.flitTransmit ⟨p, v⟩) s = .next { s with links := s.links.set p s.links[p] }) := by
  constructor
  · intro os q qs queue others mine
    have sends := transmit_data v s.pkg.time quiet caught still room unready free
      ((congrArg (ofVc v) queue).trans (ofVc_behind others mine))
    exact ⟨_, transmits up sends, (congrArg (List.erase · q) queue).trans (erase_behind others mine), rfl, List.map_append⟩
  · intro others
    exact transmits up (transmit_idle v s.pkg.time quiet caught still room unready free
      (List.filter_eq_nil_iff.mpr (fun o at_ => mt beq_iff_eq.mp (others o at_))))

/-- What a retired link does with nothing left to send, or with one packet that another link takes. -/
theorem retired_links {s : State} {p : Fin 24} (retired : (s.links[p]).state = .retired) (due : (s.links[p]).noticeDue = true)
    (buffer : (s.links[p]).buffer = []) :
    let l := s.links[p]
    let late : Bool := decide ((l.since + 1000000).toNat ≤ s.pkg.time.toNat)
    let left := withLink p (emptied l) s
    (l.queue = [] → l.kept = [] →
      (∀ seq,
        (l.restart = false → exec (.linkStateNotice p seq) s = .next left) ∧
        (l.restart = true → exec (.linkStateNotice p seq) s = .next (withLink p (backInService s.pkg.time (emptied l)) s))) ∧
      (late = true → l.restart = false → exec (.noticeTimeout p) s = .next left)) ∧
    (∀ f, l.queue = [f] → l.kept = [] → f.first = true → ∀ n, otherPort left p f.src.toNat f.dst.toNat = some n →
      let sent (t : State) : Prop :=
        (t.links[n]).queue = insertAhead [{ f with vc := reroutedVc left p n f.vc }] (left.links[n]).queue
      (∀ seq, ∃ t : State, exec (.linkStateNotice p seq) s = .next t ∧ sent t) ∧
      (late = true → ∃ t : State, exec (.noticeTimeout p) s = .next t ∧ sent t)) := by
  intro l late left
  have bare : left.links[p] = emptied l := withLink_self p (emptied l) s
  have restart : (left.links[p]).restart = l.restart := by rw [bare]; rfl
  refine ⟨fun queue kept => ⟨fun seq => ?_, fun timed stays => ?_⟩, ?_⟩
  · have ends : exec (.linkStateNotice p seq) s = .next (endRetire p left) := by
      rw [exec_linkStateNotice retired due, toReroute_empty queue kept buffer]
      rfl
    refine ⟨fun stays => ends.trans (congrArg _ (endRetire_stays (restart.trans stays))), fun returns => ends.trans (congrArg _ ?_)⟩
    rw [endRetire_returns (restart.trans returns), bare]
    exact withLink_withLink p _ _ s
  · rw [exec_noticeTimeout retired due timed, toLose_empty queue kept buffer, toKeep_empty queue]
    exact congrArg _ (endRetire_stays (restart.trans stays))
  · intro f queue kept first n found sent
    have moves : sent (endRetire p (reroute p [[f]] left)) := (endRetire_queue n).trans (rerouteOne_moves found)
    refine ⟨fun seq => ⟨_, ?_, moves⟩, fun timed => ⟨_, ?_, moves⟩⟩
    · rw [exec_linkStateNotice retired due, toReroute_single queue kept buffer]
    · rw [exec_noticeTimeout retired due timed, toLose_first queue first kept buffer, toKeep_first queue first]
      rfl

/-- A begun packet of this package is lost for want of a notice. -/
theorem noticeTimeout_loses {s : State} {p : Fin 24} {f : FlitReq} {q : Packet} {e : Entry}
    (retired : (s.links[p]).state = .retired) (due : (s.links[p]).noticeDue = true) (buffer : (s.links[p]).buffer = [])
    (queue : (s.links[p]).queue = []) (kept : (s.links[p]).kept = [f]) (more : f.last = false)
    (late : decide (((s.links[p]).since + 1000000).toNat ≤ s.pkg.time.toNat) = true) (stays : (s.links[p]).restart = false)
    (packet : packetOf s f = some q) (own : ownPacket s q = true) (record : ofRecord q.body = true)
    (found : findEntry s q.srcSlot = some e) :
    exec (.noticeTimeout p) s = .next (packetFails e { withLink p (emptied s.links[p]) s with
      fab := { s.fab with net := s.fab.net.erase q } }) := by
  have fails : failPacket p [f] (withLink p (emptied s.links[p]) s) =
      packetFails e { withLink p (emptied s.links[p]) s with fab := { s.fab with net := s.fab.net.erase q } } :=
    failPacket_own (s := withLink p (emptied s.links[p]) s) packet own record found
  rw [exec_noticeTimeout retired due late, toLose_begun queue kept buffer more, toKeep_empty queue, List.foldl_cons, List.foldl_nil,
    fails]
  refine congrArg _ (endRetire_stays ((KeepsRestart.packetFails e _ p).trans ?_))
  exact (congrArg Link.restart (withLink_self p (emptied s.links[p]) s)).trans stays

/-- Settles O58: each event of a link by the branch that its conditions choose. -/
theorem linkEvents : Obligations.LinkEvents := by
  unfold Obligations.LinkEvents
  intro s p l now becomes u managed
  refine ⟨?send, ?down, ?data, ?train, ?bad, ?ctrl, ?timeout, ?trained, ?restart, ?drain, ?retired, ?idle, ?bkt, ?bktUp, ?keys, rfl,
    ?enreq, ?move, ?pod⟩
  case send =>
    intro up
    refine ⟨fun c cs v ctrl => transmits up (transmit_ctrl v now ctrl), fun quiet n ns v again =>
      ⟨_, transmits up (transmit_resend v now quiet again), rfl, rfl, sendAgain_raw n ns l⟩,
      fun quiet caught v blocked => transmits up (transmit_blocked v now quiet caught blocked),
      fun quiet caught still room v => ⟨fun ready =>
        ⟨_, transmits up (transmit_marker v now quiet caught still room ready), rfl, rfl, rfl⟩,
        fun unready hold => transmits up (transmit_khold v now quiet caught still room unready hold),
        fun unready free => transmit_serves up quiet caught still room unready free v⟩⟩
  case down => exact fun down => ⟨exec_flitTransmit_not_up down, fun _ _ => exec_flitArrival_not_up down⟩
  case data =>
    intro raw ok up good carries _
    have data := exec_flitArrival_data up good carries
    refine ⟨fun other old => ?_, fun other new quiet => ?_, fun next => ?_⟩
    · exact data.trans (congrArg Host.Outcome.next ((if_neg other).trans (if_pos old)))
    · exact data.trans (congrArg Host.Outcome.next ((if_neg other).trans ((if_neg (Nat.not_lt.mpr new)).trans
        (if_neg (Bool.eq_false_iff.mp quiet)))))
    · exact ⟨_, data.trans (congrArg Host.Outcome.next (if_pos next)), acceptFlit_link p raw s⟩
  case train =>
    intro raw ok up good train
    have train := exec_flitArrival_train up good train
    exact ⟨fun room => train.trans (congrArg Host.Outcome.next (countRetrain_room room)),
      fun full => ⟨_, train, countRetrain_full full⟩⟩
  case bad =>
    exact fun raw ok up bad next carries => (exec_flitArrival_bad up bad).trans
      (congrArg (fun m => Host.Outcome.next (withLink p m s)) (badFlit_next next carries))
  case ctrl =>
    intro raw ok up good ctrl ack m
    have taken := (exec_flitArrival_ctrl up good ctrl).trans (congrArg Host.Outcome.next (takeCtrl_ack ack))
    refine ⟨fun stays => taken.trans (congrArg (fun m => Host.Outcome.next (withLink p m s)) (endMove_stays ?_)),
      fun peer moves empty => ⟨_, taken.trans (congrArg (fun m => Host.Outcome.next (withLink p m s)) (endMove_moves ?_ empty)),
        rfl, rfl, rfl⟩⟩
    · exact stays.imp_left (fun still => (ackUpTo_moving _ _ l).trans still)
    · exact (ackUpTo_moving _ _ l).trans moves
  case timeout =>
    intro f fs up buffered _ once good
    refine ⟨fun late => ?_, fun early => ?_⟩
    · have holds : l.state = .up ∧ l.buffer ≠ [] ∧ (l.advanced + 2000).ule s.pkg.time = true :=
        ⟨up, by rw [buffered]; exact List.cons_ne_nil f fs, decide_eq_true late⟩
      exact congrArg Host.Outcome.next ((if_pos holds).trans (replayFrom_first buffered once good))
    · exact congrArg Host.Outcome.next (if_neg fun h => absurd (of_decide_eq_true h.2.2) (Nat.not_le.mpr early))
  case trained =>
    intro a b v state wid spd lanes
    have training : ¬(l.state ≠ .training ∧ l.state ≠ .retraining) := fun h => state.elim h.1 h.2
    have agree : (a.wid == b.wid && a.spd == b.spd && a.lanes == b.lanes) = true := by
      rw [wid, spd, lanes, beq_self_eq_true, beq_self_eq_true, beq_self_eq_true]
      rfl
    exact ⟨_, congrArg Host.Outcome.next ((if_neg training).trans (if_pos agree)), rfl, rfl, rfl, rfl, rfl⟩
  case restart =>
    exact fun planned => ⟨fun inner => congrArg Host.Outcome.next ((if_neg (Bool.eq_false_iff.mp inner)).trans (if_pos (.inl planned))),
      fun edge => congrArg Host.Outcome.next (if_pos edge)⟩
  case drain => exact fun up late => congrArg Host.Outcome.next (if_pos ⟨up, decide_eq_true late⟩)
  case retired =>
    intro retired due buffer late bare left
    obtain ⟨nothing, one⟩ := retired_links retired due buffer
    refine ⟨fun queue kept => ?_, fun f queue kept first _ => one f queue kept first, fun f q e queue kept more timed stays packet own record found => ?_⟩
    · obtain ⟨notice, timeout⟩ := nothing queue kept
      exact ⟨fun seq => ⟨(notice seq).1, fun returns => ⟨_, (notice seq).2 returns, rfl, rfl, rfl⟩⟩, timeout⟩
    · have loses := noticeTimeout_loses retired due buffer queue kept more timed stays packet own record found
      exact ⟨fun other => loses.trans (congrArg _ (packetFails_other other)),
        fun copies running => loses.trans (congrArg _ (packetFails_running copies running)),
        fun copies stopped => loses.trans (congrArg _ (packetFails_stopped copies stopped))⟩
  case idle => exact exec_retired_idle
  case bkt =>
    intro retired
    exact ⟨fun due => congrArg Host.Outcome.next ((if_pos retired).trans (if_pos due)), fun free =>
      ⟨_, congrArg Host.Outcome.next ((if_pos retired).trans (if_neg (Bool.eq_false_iff.mp free))), rfl, rfl, rfl, rfl⟩⟩
  case bktUp => exact fun up => congrArg Host.Outcome.next (if_neg up)
  case keys =>
    intro slot key salt
    exact ⟨exec_keySlotLoad_tx_refused key salt, fun free => ⟨_, exec_keySlotLoad_tx slot key salt free,
      congrArg KeySlot.key (loadTx_slot ..), congrArg KeySlot.valid (loadTx_slot ..), congrArg KeySlot.ctr (loadTx_slot ..),
      loadTx_txks ..⟩, exec_keySlotLoad_rx_refused slot key salt, fun free => ⟨_, exec_keySlotLoad_rx slot key salt free,
      congrArg KeySlot.key (Vector.getElem_set_self _), congrArg KeySlot.valid (Vector.getElem_set_self _), List.length_append⟩⟩
  case enreq => exact fun on => ⟨_, rfl, rfl, settleKeys_khold l on⟩
  case move =>
    intro peer
    refine ⟨fun no => congrArg Host.Outcome.next (if_pos ?_), fun circuit up => ?_⟩
    · rcases no with electric | down
      · rw [electric]
        rfl
      · rw [bne_iff_ne.mpr down, Bool.or_true]
    · have may : ¬(!optical s p || l.state != .up) = true := by
        rw [circuit, up]
        decide
      exact ⟨fun empty => ⟨_, congrArg Host.Outcome.next ((if_neg may).trans (if_pos empty)), rfl, rfl⟩,
        fun full => congrArg Host.Outcome.next ((if_neg may).trans (if_neg full))⟩
  case pod =>
    intro v
    refine ⟨_, exec_podcfgWrite v s, renode_nodeid .., rfl, renode_strand .., ?_⟩
    refine (getElem_dropEdges (podWritten v s) p).trans ?_
    simp only [podWritten_links, podWritten_now]
    rfl

end Sys2Proof.Machine
end

section
/-! Packets at their destination (R336 to R344, R348 to R352): what leaves the fabric, and what it meets here. -/

namespace Sys2Proof.Machine

/-! ### A packet that has come -/

/-- The state whose fabric the packet has left. -/
def withoutPacket (p : Packet) (s : State) : State := { s with fab := { s.fab with net := s.fab.net.erase p } }

/-- The state in which the packet has left the fabric and has asked the units here. -/
def takenPacket (p : Packet) (s : State) : State := wakePacket p (withoutPacket p s)

/-- A packet has come: one of another core, or one of this core whose flits have gone and that is the first of its route. -/
def HasCome (s : State) (p : Packet) : Prop := ownPacket s p = false ∨ (flitsWait s p = false ∧ overtakes s p = false)

section Leave
variable {s : State} {p : Packet}

theorem leaveNet_come (there : s.fab.net.contains p = true) (come : HasCome s p) : leaveNet p s = some (withoutPacket p s) := by
  refine if_pos ?_
  unfold atTarget
  rcases come with other | ⟨gone, first⟩
  · rw [other]
    rfl
  · rw [there, gone, first, Bool.and_false]
    cases ownPacket s p <;> rfl

theorem fromNet_come (there : s.fab.net.contains p = true) (come : HasCome s p) : fromNet p s = some (takenPacket p s) := by
  unfold fromNet
  rw [leaveNet_come there come]
  rfl

theorem leaveNet_stays (own : ownPacket s p = true) (stays : flitsWait s p = true ∨ overtakes s p = true) : leaveNet p s = none := by
  refine if_neg ?_
  unfold atTarget
  rcases stays with waits | behind
  · rw [own, waits, Bool.not_true, Bool.and_false]
    exact Bool.false_ne_true
  · rw [own, behind, Bool.and_true, Bool.not_true, Bool.and_false]
    exact Bool.false_ne_true

variable {f : State → State}

theorem arrive_stays (own : ownPacket s p = true) (stays : flitsWait s p = true ∨ overtakes s p = true) : arrive p f s = .next s := by
  refine congrArg Host.Outcome.next ?_
  rw [leaveNet_stays own stays]
  exact ite_self s

variable (plain : p.mark = none) (there : s.fab.net.contains p = true) (come : HasCome s p)
include plain there come

theorem arrive_waits (held : packetHeld s p = true) : arrive p f s = .next (waitHere p (withoutPacket p s)) := by
  refine congrArg Host.Outcome.next ((if_neg (by rw [plain]; decide)).trans ?_)
  rw [leaveNet_come there come]
  exact if_pos ((packetHeld_fab p _ s).trans held)

theorem arrive_performs (free : packetHeld s p = false) : arrive p f s = .next (f (takenPacket p s)) := by
  refine congrArg Host.Outcome.next ((if_neg (by rw [plain]; decide)).trans ?_)
  rw [leaveNet_come there come]
  exact if_neg (by rw [show packetHeld (withoutPacket p s) p = packetHeld s p from packetHeld_fab p _ s, free]; decide)

end Leave

/-- A packet that accesses no memory is never held. -/
theorem packetHeld_none {s : State} {p : Packet} (writes : bodyWrites p.body = []) (touches : bodyTouches p.body = []) :
    packetHeld s p = false := by
  unfold packetHeld heldPage
  rw [writes, touches, List.any_nil, Bool.and_false]
  rfl

/-- What waits here stands behind what waited before. -/
theorem waitHere_come (p : Packet) (s : State) :
    waitHere p (withoutPacket p s) =
      (let raised : State := match heldPage s p with
        | some x => raiseFor (if p.srcNode = ownNode s then p.srcCore else p.dstCore) x.1 x.2 (withoutPacket p s)
        | none => withoutPacket p s
       { raised with mem := { raised.mem with homeHeld := s.mem.homeHeld ++ [.pkt p] } }) := by
  have page : heldPage (withoutPacket p s) p = heldPage s p := heldPage_fab p _ s
  unfold waitHere
  rw [page]
  cases heldPage s p <;> rfl

/-! ### What a packet that is taken finds -/

/-- From `s` to `t` a packet has left the fabric, and has asked the units here. -/
def Taken (p : Packet) (s t : State) : Prop :=
  t = { s with
    fab := { s.fab with net := s.fab.net.erase p }, pkg := { s.pkg with gated := t.pkg.gated }, mem := { s.mem with mc := t.mem.mc } }

theorem taken_takenPacket (p : Packet) (s : State) : Taken p s (takenPacket p s) := wakePacket_onlyAsked p (withoutPacket p s)

theorem ringUp_of_ddl {s t : State} (same : t.pkg.ddl = s.pkg.ddl) (a n : Nat) : ringUp t a n = ringUp s a n := by
  induction n generalizing a with
  | zero => rfl
  | succ n ih => simp only [ringUp, ih, same]

namespace Taken
variable {p : Packet} {s t : State} (taken : Taken p s t)
include taken

theorem own (q : Packet) : ownPacket t q = ownPacket s q := by
  unfold Taken at taken
  rw [taken]
  rfl

theorem entry (slot : Nat) : findEntry t slot = findEntry s slot := by
  unfold Taken at taken
  rw [taken]
  rfl

theorem isOwn (node core : Nat) : isOwn t node core = isOwn s node core := by
  unfold Taken at taken
  rw [taken]
  rfl

theorem coreRuns (q : Packet) : coreRuns t q = coreRuns s q := by
  unfold Taken at taken
  rw [taken]
  rfl

theorem reserveLeft (q : Packet) : reserveLeft t q = reserveLeft s q := by
  unfold Taken at taken
  rw [taken]
  rfl

theorem poisonedAt (key : Nat) : poisonedAt t key = poisonedAt s key := by
  unfold Taken at taken
  rw [taken]
  rfl

theorem memory : t.mem.mem = s.mem.mem := by
  unfold Taken at taken
  rw [taken]

theorem thatch : t.thatch = s.thatch := by
  unfold Taken at taken
  rw [taken]

theorem sems : t.store.sems = s.store.sems := by
  unfold Taken at taken
  rw [taken]

theorem held : t.fab.held = s.fab.held := by
  unfold Taken at taken
  rw [taken]

theorem now : t.pkg.time = s.pkg.time := by
  unfold Taken at taken
  rw [taken]

theorem expired (node core srcNode srcCore pip : Nat) :
    tripleExpired t node core srcNode srcCore pip = tripleExpired s node core srcNode srcCore pip := by
  unfold Taken at taken
  rw [taken]
  rfl

theorem addrRefused (q : Packet) (pa : Nat) : addrRefused t q pa = addrRefused s q pa := by
  have ddl : t.pkg.ddl = s.pkg.ddl := by
    unfold Taken at taken
    rw [taken]
  have home : homeDie t pa = homeDie s pa := by
    unfold Taken at taken
    rw [taken]
    rfl
  have ingress : ingressDie t q = ingressDie s q := by
    unfold Taken at taken
    rw [taken]
    rfl
  have node : ownNode t = ownNode s := by
    unfold Taken at taken
    rw [taken]
    rfl
  unfold Machine.addrRefused routed
  rw [home, ingress, node]
  simp only [ringUp_of_ddl ddl]

theorem coreRefuses (q : Packet) : coreRefuses t q = coreRefuses s q := by
  unfold Machine.coreRefuses
  rw [taken.coreRuns]

end Taken

end Sys2Proof.Machine
end

section
/-! What a packet performs where it has come (R339 to R344). -/

namespace Sys2Proof.Machine

/-! ### Acknowledgement -/

section Ack
variable {p : Packet} {s : State}

theorem ackPacket_other (other : ownPacket s p = false) : ackPacket p s = s := if_neg (Bool.eq_false_iff.mp other)

theorem ackPacket_own {e : Entry} (own : ownPacket s p = true) (found : findEntry s p.srcSlot = some e) :
    ackPacket p s = putEntry { e with acks := e.acks - 1 } s := by
  refine (if_pos own).trans ?_
  rw [found]

theorem refuse_own (own : ownPacket s p = true) : refuse p s = toNet [refusal p false] s := if_pos own

theorem refuse_other (other : ownPacket s p = false) : refuse p s = s := if_neg (Bool.eq_false_iff.mp other)

end Ack

/-! ### Memory -/

theorem performWrite_done {p : Packet} {s : State} {ws : List ByteWrite} (good : ws.any (fun w => addrRefused s p w.addr) = false) :
    performWrite p ws s = ackPacket p (memWrite (ws.map (fun w => { w with addr := memKey p.dstNode w.addr })) s) :=
  if_neg (Bool.eq_false_iff.mp good)

section Read
variable {p : Packet} {s : State} {bytes : List Nat}

theorem performRead_refused (bad : bytes.any (addrRefused s p) = true) : performRead p bytes s = refuse p s := if_pos bad

variable (good : bytes.any (addrRefused s p) = false)
include good

theorem performRead_poisoned {pa : Nat} (poisoned : bytes.find? (fun pa => poisonedAt s (memKey p.dstNode pa)) = some pa) :
    performRead p bytes s = failUe p boxA pa (fabricConsumed p.dstNode pa s) := by
  unfold performRead
  refine (if_neg (Bool.eq_false_iff.mp good)).trans ?_
  rw [poisoned]

variable (clean : bytes.find? (fun pa => poisonedAt s (memKey p.dstNode pa)) = none)
include clean

theorem performRead_other (other : ownPacket s p = false) : performRead p bytes s = s := by
  unfold performRead
  refine (if_neg (Bool.eq_false_iff.mp good)).trans ?_
  rw [clean]
  exact if_neg (Bool.eq_false_iff.mp other)

theorem performRead_own {e : Entry} (own : ownPacket s p = true) (found : findEntry s p.srcSlot = some e) :
    performRead p bytes s = readAnswer p e s := by
  unfold performRead
  refine (if_neg (Bool.eq_false_iff.mp good)).trans ?_
  rw [clean]
  refine (if_pos own).trans ?_
  rw [found]

end Read

section ReadAnswer
variable {p : Packet} {e : Entry} {s : State}

/-- The effects of the elements that a read brings. -/
def readEffects (p : Packet) (e : Entry) (s : State) : List Effect :=
  (readRange s (boxA e) p.idx).flatMap (fun n => elemEffects s (boxW e) n (remoteRead s p.dstNode (boxA e) n))

theorem readAnswer_ordinary (ordinary : recRst e.record = false) :
    readAnswer p e s = settleRead e.slot (applyEffects (readEffects p e s) (putEntry { e with acks := e.acks - 1 } s)) := by
  unfold readAnswer
  rw [ordinary]
  rfl

theorem readAnswer_restartable (restarts : recRst e.record = true) :
    readAnswer p e s =
      settleRead e.slot (putEntry { e with acks := e.acks - 1, buffered := e.buffered ++ readEffects p e s } s) := by
  unfold readAnswer
  rw [restarts]
  rfl

end ReadAnswer

section Amo
variable {p : Packet} {s : State} {pa : Nat} {wide : Bool}

/-- The bytes of an atomic are accepted and good. -/
theorem amoBytes_good (good : ∀ k, k < (if wide then 8 else 4) →
      addrRefused s p (k + pa) = false ∧ poisonedAt s (memKey p.dstNode (k + pa)) = false) :
    (amoBytes pa wide).any (addrRefused s p) = false ∧
      (amoBytes pa wide).find? (fun a => poisonedAt s (memKey p.dstNode a)) = none := by
  have each : ∀ a ∈ amoBytes pa wide, addrRefused s p a = false ∧ poisonedAt s (memKey p.dstNode a) = false := fun a at_ => by
    obtain ⟨k, below, rfl⟩ := List.mem_map.mp at_
    exact good k (List.mem_range.mp below)
  exact ⟨List.any_eq_false.mpr (fun a at_ => Bool.eq_false_iff.mp (each a at_).1),
    List.find?_eq_none.mpr (fun a at_ => Bool.eq_false_iff.mp (each a at_).2)⟩

/-- What the location of an atomic becomes. -/
def amoWritten (p : Packet) (pa : Nat) (wide : Bool) (op : AtomOp) (b cmp : Word) (s : State) : State :=
  let size := if wide then 8 else 4
  let old := readLe s.mem.mem (memKey p.dstNode pa) size
  let c := cmp.toNat % 2 ^ (8 * size)
  if atomWrites op old c then
    memWrite (writesOf (memKey p.dstNode pa) (leBytes size (atomNew op (8 * size) old (b.toNat % 2 ^ (8 * size)) c))) s
  else s

theorem performAmo_good (op : AtomOp) (b cmp : Word) (good : ∀ k, k < (if wide then 8 else 4) →
      addrRefused s p (k + pa) = false ∧ poisonedAt s (memKey p.dstNode (k + pa)) = false) :
    performAmo p pa wide op b cmp s = amoAnswer p (readLe s.mem.mem (memKey p.dstNode pa) (if wide then 8 else 4))
      (amoWritten p pa wide op b cmp s) := by
  obtain ⟨accepted, clean⟩ := amoBytes_good good
  unfold performAmo
  refine (if_neg (Bool.eq_false_iff.mp accepted)).trans ?_
  rw [clean]
  rfl

theorem amoWritten_thatch (op : AtomOp) (b cmp : Word) : (amoWritten p pa wide op b cmp s).thatch = s.thatch :=
  (apply_ite State.thatch _ _ _).trans (ite_self s.thatch)

theorem amoWritten_sys (op : AtomOp) (b cmp : Word) : (amoWritten p pa wide op b cmp s).sys = s.sys :=
  (apply_ite State.sys _ _ _).trans (ite_self s.sys)

end Amo

/-! ### Semaphores -/

/-- An add of this core's semaphore, with the others as they were. -/
theorem getSem_addSem {s : State} (sorted : (s.store.sems.map Prod.fst).Pairwise (· < ·)) (n : Nat) (v : BitVec 32) (k : Nat) :
    getSem (releaseAll (addSem n v s)) k = if k = n then getSem s n + v else getSem s k :=
  tget_tset 0 n k (getSem s n + v) sorted

theorem addSemAt_own {s : State} {node core : Nat} (own : isOwn s node core = true) (n : Nat) (v : BitVec 32) :
    addSemAt node core n v s = releaseAll (addSem n v s) := if_pos own

theorem performSem_other {p : Packet} {s : State} (own : isOwn s p.dstNode p.dstCore = true) (runs : coreRuns s p = true)
    (other : ownPacket s p = false) (n : Nat) (v : BitVec 32) : performSem p n v s = releaseAll (addSem n v s) := by
  refine (if_pos runs).trans ?_
  rw [addSemAt_own own]
  exact ackPacket_other (s := releaseAll (addSem n v s)) other

/-! ### Posts -/

/-- Edges on writes are of that kind. -/
theorem kind_of_mem_writeEdges {s : State} {reads : List RBox} {w : Option RBox} {x : Entry} {d : Edge}
    (at_ : d ∈ writeEdges s reads w x) : d.kind = .write := by
  unfold writeEdges at at_
  cases tracked : trackedW x with
  | none =>
    rw [tracked] at at_
    exact absurd at_ List.not_mem_nil
  | some ew =>
    rw [tracked] at at_
    dsimp only at at_
    split_ifs at at_
    · rw [List.mem_singleton.mp at_]
    · exact absurd at_ List.not_mem_nil

theorem renameOff_unread {s : State} {e : Entry} (unread : e.edges.any (fun d => d.kind == .read) = false) (room : Nat) :
    renameOff s e room = none := by
  unfold renameOff
  split
  · rw [unread]
    exact if_neg (by rw [Bool.and_false]; exact Bool.false_ne_true)
  · rfl

/-- A record with no edge on a read is not renamed: the window grows by one. -/
theorem length_enter {s : State} {e : Entry} (room : Nat) (unread : ∀ x ∈ s.thatch.entries, readEdges s (trackedW e) x = []) :
    (enter e room s).thatch.entries.length = s.thatch.entries.length + 1 := by
  have kinds : ∀ reads, (s.thatch.entries.flatMap (fun x => writeEdges s reads (trackedW e) x ++ readEdges s (trackedW e) x)).any
      (fun d => d.kind == .read) = false := fun reads => by
    refine List.any_eq_false.mpr (fun d at_ => ?_)
    obtain ⟨x, member, at_⟩ := List.mem_flatMap.mp at_
    rw [unread x member, List.append_nil] at at_
    rw [kind_of_mem_writeEdges at_]
    decide
  unfold enter
  dsimp only
  rw [renameOff_unread (kinds _)]
  exact List.length_append

theorem trackedW_eq (e : Entry) : trackedW e = none ∨ trackedW e = e.boxes.w := by
  unfold trackedW
  split
  · exact .inl rfl
  · exact .inr rfl

theorem readEdges_trackedW {s : State} {e x : Entry} (unread : readEdges s e.boxes.w x = []) : readEdges s (trackedW e) x = [] := by
  rcases trackedW_eq e with untracked | tracked
  · rw [untracked]
    rfl
  · rw [tracked]
    exact unread

theorem performPost_idle {p : Packet} {s : State} (idle : coreRuns s p = false) (other : ownPacket s p = false) (r : Rec) (b : Boxes) :
    performPost p r b s = s := by
  refine (if_pos (by rw [idle]; rfl)).trans ?_
  exact refuse_other other

theorem targetView_own {p : Packet} {s : State} (own : isOwn s p.dstNode p.dstCore = true) : targetView s p = s := if_pos own

/-- A record that a core takes from another is one entry more in its window. -/
theorem length_performPost {p : Packet} {s : State} {r : Rec} {b : Boxes} (own : isOwn s p.dstNode p.dstCore = true)
    (runs : coreRuns s p = true) (room : reserveLeft s p ≠ 0) (accepted : postRefused s r b = false)
    (unread : ∀ x ∈ s.thatch.entries, readEdges s b.w x = []) :
    (performPost p r b s).thatch.entries.length = s.thatch.entries.length + 1 := by
  let e : Entry := { slot := 0, record := r, boxes := b, seq := 0, state := .pending, own := false, remote := true }
  have entered : performPost p r b s = ackPacket p (releaseAll (enter e 1 s)) := by
    refine (if_neg (by rw [runs]; decide)).trans ((if_neg room).trans ?_)
    rw [targetView_own own]
    exact (if_neg (by rw [accepted]; decide)).trans (congrArg (ackPacket p) (if_pos own))
  have acked : ∀ t : State, (ackPacket p t).thatch.entries.length = t.thatch.entries.length := fun t => by
    unfold ackPacket
    split
    · split
      · exact List.length_map _
      · rfl
    · rfl
  rw [entered, acked]
  exact (List.length_map _).trans (length_enter 1 (fun x member => readEdges_trackedW (e := e) (unread x member)))

/-! ### Box writes -/

section Box
variable {p : Packet} {s : State}

/-- From `s` to `t` only bytes of the scratchpad have changed. -/
def OnlySpad (s t : State) : Prop := t = { s with store := { s.store with spad := t.store.spad } }

theorem OnlySpad.trans {s t u : State} (h : OnlySpad s t) (k : OnlySpad t u) : OnlySpad s u := by
  unfold OnlySpad at *
  rw [k, h]

theorem applyEffect_onlySpad (w : ByteWrite) (s : State) : OnlySpad s (applyEffect s (.spad w)) := by
  unfold applyEffect
  dsimp only
  split <;> rfl

theorem OnlySpad.isOwn {s t : State} (h : OnlySpad s t) (node core : Nat) : isOwn t node core = isOwn s node core := by
  unfold OnlySpad at h
  rw [h]
  rfl

theorem OnlySpad.own {s t : State} (h : OnlySpad s t) (p : Packet) : ownPacket t p = ownPacket s p := by
  unfold OnlySpad at h
  rw [h]
  rfl

theorem OnlySpad.sems {s t : State} (h : OnlySpad s t) : t.store.sems = s.store.sems := by
  unfold OnlySpad at h
  rw [h]

theorem foldl_onlySpad (ws : List ByteWrite) (s : State) : OnlySpad s (ws.foldl (fun s x => applyEffect s (.spad x)) s) := by
  induction ws generalizing s with
  | nil => exact rfl
  | cons w ws ih => exact (applyEffect_onlySpad w s).trans (ih _)

theorem foldl_writeSpadAt_own (own : isOwn s p.dstNode p.dstCore = true) (ws : List ByteWrite) :
    ws.foldl (fun s x => writeSpadAt p.dstNode p.dstCore x s) s = ws.foldl (fun s x => applyEffect s (.spad x)) s := by
  induction ws generalizing s with
  | nil => rfl
  | cons w ws ih =>
    have here : writeSpadAt p.dstNode p.dstCore w s = applyEffect s (.spad w) := if_pos own
    rw [List.foldl_cons, List.foldl_cons, here]
    exact ih (((applyEffect_onlySpad w s).isOwn _ _).trans own)

/-- The last piece of a stream adds to its semaphore. -/
def signalled (sem : Option Nat) (last : Bool) (s : State) : State :=
  match sem with
  | some n => if last then releaseAll (addSem n 1 s) else s
  | none => s

theorem performBox_idle {w : RBox} {bits first : Nat} {bs : List Byte} {last : Bool} {sem : Option Nat} {bad : Bool}
    (idle : coreRuns s p = false) (other : ownPacket s p = false) : performBox p w bits first bs last sem bad s = s := by
  refine (if_pos (by rw [idle]; rfl)).trans ?_
  exact refuse_other other

variable {w : RBox} {bits first : Nat} {bs : List Byte} {last : Bool} {sem : Option Nat}
  (own : isOwn s p.dstNode p.dstCore = true) (runs : coreRuns s p = true) (accepted : boxWriteRefused s w bits = false)
  (other : ownPacket s p = false)
include own runs accepted other

/-- A piece of a stream that this core accepts from another. -/
theorem performBox_other :
    performBox p w bits first bs last sem false s =
      signalled sem last ((boxWrites s w first bs).foldl (fun s x => applyEffect s (.spad x)) s) := by
  have ends : completesWrite s p last = last := if_neg (Bool.eq_false_iff.mp other)
  have only := foldl_onlySpad (boxWrites s w first bs) s
  unfold performBox
  dsimp only
  rw [targetView_own own]
  refine (if_neg (by rw [runs, accepted]; decide)).trans ?_
  rw [ends, foldl_writeSpadAt_own own]
  generalize (boxWrites s w first bs).foldl (fun s x => applyEffect s (.spad x)) s = written at only ⊢
  have otherWritten : ownPacket written p = false := (only.own p).trans other
  have ownWritten : isOwn written p.dstNode p.dstCore = true := (only.isOwn _ _).trans own
  cases sem with
  | none => exact ackPacket_other otherWritten
  | some n =>
    cases last with
    | false => exact ackPacket_other otherWritten
    | true =>
      exact (congrArg (ackPacket p) (addSemAt_own ownWritten n 1)).trans
        (ackPacket_other (s := releaseAll (addSem n 1 written)) otherWritten)

/-- A piece that releases no semaphore. -/
theorem performBox_plain (silent : sem = none ∨ last = false) :
    performBox p w bits first bs last sem false s = (boxWrites s w first bs).foldl (fun s x => applyEffect s (.spad x)) s := by
  rw [performBox_other own runs accepted other]
  rcases silent with unnamed | more
  · rw [unnamed]
    rfl
  · rw [more]
    cases sem <;> rfl

end Box

end Sys2Proof.Machine
end

section
/-! Marked packets, the hold queue and refusals (R348 to R352); the obligation about packets at their destination. -/

namespace Sys2Proof.Machine

/-! ### The hold queue -/

/-- What a marked packet that has come meets: its triple has expired, the core refuses it, the queue is full, or it is held. -/
def markedMeets (p : Packet) (pip : Nat) (s : State) : State :=
  if tripleExpired s p.dstNode p.dstCore p.srcNode p.srcCore pip then
    toNet [expiredNotice p.dstNode p.dstCore p.srcNode p.srcCore pip] s
  else if coreRefuses s p then refuse p s
  else if 64 ≤ (s.fab.held.filter (heldBy p.dstNode p.dstCore)).length then bounce p s
  else
    { s with fab := { s.fab with
      held := s.fab.held ++ [{ node := p.dstNode, core := p.dstCore, time := s.pkg.time, p := p }] } }

section Marked
variable {s : State} {p : Packet}

theorem exec_markedPacketArrival {pip : Nat} (there : s.fab.net.contains p = true) (come : HasCome s p) (marked : p.mark = some pip)
    (asks : ∀ full, p.body ≠ .refused full) : exec (.markedPacketArrival p) s = .next (markedMeets p pip (takenPacket p s)) := by
  change execMarkedPacketArrival p s = _
  unfold execMarkedPacketArrival
  rw [marked, fromNet_come there come]
  cases body : p.body with
  | refused full => exact absurd body (asks full)
  | _ => rfl

theorem exec_markedPacketArrival_stays (own : ownPacket s p = true) (stays : flitsWait s p = true ∨ overtakes s p = true) :
    exec (.markedPacketArrival p) s = .next s := by
  have away : fromNet p s = none := by
    unfold fromNet
    rw [leaveNet_stays own stays]
    rfl
  refine congrArg Host.Outcome.next ?_
  rw [away]
  cases p.mark <;> cases p.body <;> rfl

end Marked

section Meets
variable {s : State} {p : Packet} {pip : Nat}

theorem markedMeets_expired (expired : tripleExpired s p.dstNode p.dstCore p.srcNode p.srcCore pip = true) :
    markedMeets p pip s = toNet [expiredNotice p.dstNode p.dstCore p.srcNode p.srcCore pip] s := if_pos expired

variable (lives : tripleExpired s p.dstNode p.dstCore p.srcNode p.srcCore pip = false)
include lives

theorem markedMeets_refused (refuses : coreRefuses s p = true) : markedMeets p pip s = refuse p s :=
  (if_neg (Bool.eq_false_iff.mp lives)).trans (if_pos refuses)

variable (accepts : coreRefuses s p = false)
include accepts

theorem markedMeets_full (full : 64 ≤ (s.fab.held.filter (heldBy p.dstNode p.dstCore)).length) :
    markedMeets p pip s = bounce p s :=
  (if_neg (Bool.eq_false_iff.mp lives)).trans ((if_neg (Bool.eq_false_iff.mp accepts)).trans (if_pos full))

theorem markedMeets_held (room : (s.fab.held.filter (heldBy p.dstNode p.dstCore)).length < 64) :
    markedMeets p pip s = { s with fab := { s.fab with
      held := s.fab.held ++ [{ node := p.dstNode, core := p.dstCore, time := s.pkg.time, p := p }] } } :=
  (if_neg (Bool.eq_false_iff.mp lives)).trans ((if_neg (Bool.eq_false_iff.mp accepts)).trans (if_neg (Nat.not_le.mpr room)))

end Meets

theorem bounce_own {s : State} {p : Packet} {e : Entry} (own : ownPacket s p = true) (found : findEntry s p.srcSlot = some e) :
    bounce p s = toNet [refusal p true] (putEntry { e with bounced := e.bounced ++ [p] } s) := by
  refine (if_pos own).trans ?_
  rw [found]

/-! ### Expiry -/

/-- An expired triple holds nothing more. -/
theorem expire_held (h : Held) (pip : Nat) (s : State) :
    (expire h pip s).fab.held = s.fab.held.filter (fun x => !(heldBy h.node h.core x && ofTriple h.p.srcNode h.p.srcCore pip x.p)) := by
  have raised : ∀ a t, (raiseAsync a t).fab = t.fab := fun a t => by
    unfold raiseAsync
    split <;> rfl
  unfold expire
  dsimp only
  split
  · rw [raised]
    exact toNet_held ..
  · exact toNet_held ..

theorem exec_holdExpiry {s : State} {i : Nat} {h : Held} (at_ : s.fab.held[i]? = some h) :
    exec (.holdExpiry i) s =
      .next (if holderPipexp s h.node h.core ≤ heldFor s h then expire h (h.p.mark.getD 0) s else s) := by
  refine congrArg Host.Outcome.next ?_
  rw [at_]

/-! ### Refusals -/

section Refusal
variable {s : State} {p : Packet} {full : Bool} (body : p.body = .refused full) (own : toOwn s p = true)
include body own

theorem exec_remoteRefusalArrival_there (there : s.fab.net.contains p = true) :
    exec (.remoteRefusalArrival p) s = .next (refused p (refusedPacket p s) full (withoutPacket p s)) := by
  refine congrArg Host.Outcome.next ?_
  rw [body]
  exact (if_neg (by rw [own]; decide)).trans (if_pos there)

/-- A refusal of a target that is no model's answers a packet on its way. -/
theorem exec_remoteRefusalArrival_away (away : s.fab.net.contains p = false) (empty : full = false) :
    exec (.remoteRefusalArrival p) s =
      .next (((s.fab.net.find? (fun q => ownPacket s q && !flitsWait s q && answers p q)).map
        (fun q => refused p q false (withoutPacket q s))).getD s) := by
  subst empty
  refine congrArg Host.Outcome.next ?_
  rw [body]
  refine (if_neg (by rw [own]; decide)).trans ((if_neg (Bool.eq_false_iff.mp away)).trans ?_)
  have same : (fun q => ownPacket s q && !flitsWait s q && answers p q && (!false || q.mark.isSome)) =
      (fun q => ownPacket s q && !flitsWait s q && answers p q) := funext fun q => Bool.and_true _
  rw [same]
  cases s.fab.net.find? (fun q => ownPacket s q && !flitsWait s q && answers p q) <;> rfl

end Refusal

section Refused
variable {s : State} {p q : Packet} {e : Entry}

theorem refused_none {full : Bool} (gone : findEntry s p.srcSlot = none) : refused p q full s = s := by
  unfold refused
  rw [gone]

variable (found : findEntry s p.srcSlot = some e)
include found

theorem refused_full : refused p q true s = holdBack q e s := by
  unfold refused
  rw [found]
  rfl

theorem refused_fails : refused p q false s = packetFails e s := by
  unfold refused
  rw [found]
  rfl

theorem refusedPacket_found : refusedPacket p s = (e.bounced.find? (answers p)).getD p := by
  unfold refusedPacket
  rw [found]

end Refused

end Sys2Proof.Machine
end

section
/-! The obligation about packets at their destination. -/

namespace Sys2Proof.Machine

/-! ### Arrivals by body -/

section Bodies
variable {s : State} {p : Packet}

theorem exec_remoteWriteArrival {ws : List ByteWrite} (body : p.body = .write ws) :
    exec (.remoteWriteArrival p) s = arrive p (performWrite p ws) s := by
  change execRemoteWriteArrival p s = _
  unfold execRemoteWriteArrival
  rw [body]

theorem exec_remoteReadArrival {bytes : List Nat} (body : p.body = .read bytes) :
    exec (.remoteReadArrival p) s = arrive p (performRead p bytes) s := by
  change execRemoteReadArrival p s = _
  unfold execRemoteReadArrival
  rw [body]

theorem exec_remoteAmoArrival {pa : Nat} {wide : Bool} {op : AtomOp} {b cmp : Word} (body : p.body = .amo pa wide op b cmp) :
    exec (.remoteAmoArrival p) s = arrive p (performAmo p pa wide op b cmp) s := by
  change execRemoteAmoArrival p s = _
  unfold execRemoteAmoArrival
  rw [body]

theorem exec_remoteSemArrival {n : Nat} {v : BitVec 32} (body : p.body = .sem n v) :
    exec (.remoteSemArrival p) s = arrive p (performSem p n v) s := by
  change execRemoteSemArrival p s = _
  unfold execRemoteSemArrival
  rw [body]

theorem exec_remotePostArrival {r : Rec} {b : Boxes} (body : p.body = .post r b) :
    exec (.remotePostArrival p) s = arrive p (performPost p r b) s := by
  change execRemotePostArrival p s = _
  unfold execRemotePostArrival
  rw [body]

section Streams
variable {w : RBox} {bits fmt first : Nat} {bs : List Byte} {last : Bool} {sem : Option Nat}

theorem exec_haloWriteArrival (body : p.body = .halo w bits fmt first bs last sem) :
    exec (.haloWriteArrival p) s = arrive p (performBox p w bits first bs last sem false) s := by
  change execHaloWriteArrival p s = _
  unfold execHaloWriteArrival
  rw [body]

theorem exec_redWriteArrival (body : p.body = .red w bits fmt first bs last sem) :
    exec (.redWriteArrival p) s = arrive p (fun s => performBox p w bits first bs last sem (formatDiffers s p w fmt) s) s := by
  change execRedWriteArrival p s = _
  unfold execRedWriteArrival
  rw [body]

end Streams

/-- An arrival of a packet of this core that is not yet here. -/
theorem exec_arrival_stays (own : ownPacket s p = true) (stays : flitsWait s p = true ∨ overtakes s p = true) :
    exec (.remoteWriteArrival p) s = .next s ∧ exec (.remoteReadArrival p) s = .next s ∧ exec (.remoteSemArrival p) s = .next s := by
  change execRemoteWriteArrival p s = _ ∧ execRemoteReadArrival p s = _ ∧ execRemoteSemArrival p s = _
  unfold execRemoteWriteArrival execRemoteReadArrival execRemoteSemArrival
  cases p.body with
  | write ws => exact ⟨arrive_stays own stays, rfl, rfl⟩
  | read bytes => exact ⟨rfl, arrive_stays own stays, rfl⟩
  | sem n v => exact ⟨rfl, rfl, arrive_stays own stays⟩
  | _ => exact ⟨rfl, rfl, rfl⟩

end Bodies

/-! ### Packets of other cores -/

section Others
variable {s : State} {p : Packet} (there : s.fab.net.contains p = true) (other : ownPacket s p = false) (plain : p.mark = none)
include there other plain

theorem other_writes {ws : List ByteWrite} (body : p.body = .write ws) (free : packetHeld s p = false)
    (good : ws.any (fun w => addrRefused s p w.addr) = false) :
    exec (.remoteWriteArrival p) s =
      .next (memWrite (ws.map (fun w => { w with addr := memKey p.dstNode w.addr })) (takenPacket p s)) := by
  have taken := taken_takenPacket p s
  rw [exec_remoteWriteArrival body, arrive_performs plain there (.inl other) free, performWrite_done]
  · exact congrArg _ (ackPacket_other (s := memWrite _ (takenPacket p s)) ((taken.own p).trans other))
  · simp only [taken.addrRefused, good]

theorem other_reads {bytes : List Nat} (body : p.body = .read bytes) (free : packetHeld s p = false)
    (good : bytes.any (addrRefused s p) = false) (clean : ∀ pa ∈ bytes, poisonedAt s (memKey p.dstNode pa) = false) :
    exec (.remoteReadArrival p) s = .next (takenPacket p s) := by
  have taken := taken_takenPacket p s
  rw [exec_remoteReadArrival body, arrive_performs plain there (.inl other) free, performRead_other]
  · rw [show addrRefused (takenPacket p s) p = addrRefused s p from funext (taken.addrRefused p)]
    exact good
  · exact List.find?_eq_none.mpr (fun pa at_ => by rw [taken.poisonedAt, clean pa at_]; exact Bool.false_ne_true)
  · exact (taken.own p).trans other

/-- The atomic of a packet of another core. -/
theorem other_amo {pa : Nat} {wide : Bool} {op : AtomOp} {b cmp : Word} (body : p.body = .amo pa wide op b cmp)
    (free : packetHeld s p = false) (good : ∀ k, k < (if wide then 8 else 4) →
      addrRefused s p (k + pa) = false ∧ poisonedAt s (memKey p.dstNode (k + pa)) = false) :
    exec (.remoteAmoArrival p) s = .next (amoWritten p pa wide op b cmp (takenPacket p s)) := by
  have taken := taken_takenPacket p s
  rw [exec_remoteAmoArrival body, arrive_performs plain there (.inl other) free, performAmo_good]
  · refine congrArg _ (if_neg (Bool.eq_false_iff.mp ?_))
    have same : ownPacket (amoWritten p pa wide op b cmp (takenPacket p s)) p = ownPacket (takenPacket p s) p := by
      unfold ownPacket ownNode ownCore
      rw [amoWritten_sys]
    exact same.trans ((taken.own p).trans other)
  · intro k below
    rw [taken.addrRefused, taken.poisonedAt]
    exact good k below

theorem other_sem {n : Nat} {v : BitVec 32} (body : p.body = .sem n v) (own : isOwn s p.dstNode p.dstCore = true)
    (runs : coreRuns s p = true) : exec (.remoteSemArrival p) s = .next (releaseAll (addSem n v (takenPacket p s))) := by
  have taken := taken_takenPacket p s
  rw [exec_remoteSemArrival body, arrive_performs plain there (.inl other) (packetHeld_none (by rw [body]; rfl) (by rw [body]; rfl)),
    performSem_other ((taken.isOwn _ _).trans own) ((taken.coreRuns p).trans runs) ((taken.own p).trans other)]

theorem other_post {r : Rec} {b : Boxes} (body : p.body = .post r b) :
    exec (.remotePostArrival p) s = .next (performPost p r b (takenPacket p s)) := by
  rw [exec_remotePostArrival body, arrive_performs plain there (.inl other) (packetHeld_none (by rw [body]; rfl) (by rw [body]; rfl))]

variable {w : RBox} {bits fmt first : Nat} {bs : List Byte} {last : Bool} {sem : Option Nat}

theorem other_halo (body : p.body = .halo w bits fmt first bs last sem) :
    exec (.haloWriteArrival p) s = .next (performBox p w bits first bs last sem false (takenPacket p s)) := by
  rw [exec_haloWriteArrival body, arrive_performs plain there (.inl other) (packetHeld_none (by rw [body]; rfl) (by rw [body]; rfl))]

theorem other_red (body : p.body = .red w bits fmt first bs last sem) (own : isOwn s p.dstNode p.dstCore = true)
    (format : hkFmtCode (boxHusk (takenPacket p s) w) = fmt) :
    exec (.redWriteArrival p) s = .next (performBox p w bits first bs last sem false (takenPacket p s)) := by
  have same : formatDiffers (takenPacket p s) p w fmt = false := by
    unfold formatDiffers
    rw [targetView_own (((taken_takenPacket p s).isOwn _ _).trans own), format, bne_self_eq_false]
  rw [exec_redWriteArrival body, arrive_performs plain there (.inl other) (packetHeld_none (by rw [body]; rfl) (by rw [body]; rfl)), same]

end Others

/-! ### Packets of this core -/

theorem amoAnswer_own {p : Packet} {s : State} {e : Entry} {old : Nat} (own : ownPacket s p = true)
    (found : findEntry s p.srcSlot = some e) :
    amoAnswer p old s = putEntry { e with acks := e.acks - 1, scalar := some (BitVec.ofNat 64 old) } s := by
  refine (if_pos own).trans ?_
  rw [found]

section Own
variable {s : State} {p : Packet} {e : Entry} (there : s.fab.net.contains p = true) (own : ownPacket s p = true)
  (come : HasCome s p) (plain : p.mark = none) (free : packetHeld s p = false) (found : findEntry s p.srcSlot = some e)
include there own come plain free found

theorem own_writes {ws : List ByteWrite} (body : p.body = .write ws) (good : ws.any (fun w => addrRefused s p w.addr) = false) :
    exec (.remoteWriteArrival p) s = .next (putEntry { e with acks := e.acks - 1 }
      (memWrite (ws.map (fun w => { w with addr := memKey p.dstNode w.addr })) (takenPacket p s))) := by
  have taken := taken_takenPacket p s
  rw [exec_remoteWriteArrival body, arrive_performs plain there come free, performWrite_done]
  · exact congrArg _ (ackPacket_own (s := memWrite _ (takenPacket p s)) ((taken.own p).trans own) ((taken.entry _).trans found))
  · simp only [taken.addrRefused, good]

section Read
variable {bytes : List Nat} (body : p.body = .read bytes)
include body

omit found in
theorem own_read_refused (bad : bytes.any (addrRefused s p) = true) :
    exec (.remoteReadArrival p) s = .next (toNet [refusal p false] (takenPacket p s)) := by
  have taken := taken_takenPacket p s
  rw [exec_remoteReadArrival body, arrive_performs plain there come free, performRead_refused, refuse_own ((taken.own p).trans own)]
  rw [show addrRefused (takenPacket p s) p = addrRefused s p from funext (taken.addrRefused p)]
  exact bad

variable (good : bytes.any (addrRefused s p) = false)
include good

theorem own_read_answered (clean : ∀ pa ∈ bytes, poisonedAt s (memKey p.dstNode pa) = false) :
    exec (.remoteReadArrival p) s = .next (readAnswer p e (takenPacket p s)) := by
  have taken := taken_takenPacket p s
  rw [exec_remoteReadArrival body, arrive_performs plain there come free, performRead_own _ _ ((taken.own p).trans own)
    ((taken.entry _).trans found)]
  · rw [show addrRefused (takenPacket p s) p = addrRefused s p from funext (taken.addrRefused p)]
    exact good
  · exact List.find?_eq_none.mpr (fun pa at_ => by rw [taken.poisonedAt, clean pa at_]; exact Bool.false_ne_true)

theorem own_read_poisoned {pa : Nat} (poisoned : bytes.find? (fun x => poisonedAt s (memKey p.dstNode x)) = some pa) :
    exec (.remoteReadArrival p) s = .next (failAt e .ue
      (some (BitVec.ofNat 64 (remoteVa (fabricConsumed p.dstNode pa (takenPacket p s)) (boxA e) pa / 64 * 64)))
      (fabricConsumed p.dstNode pa (takenPacket p s))) := by
  have taken := taken_takenPacket p s
  have consumes : ∀ t, ownPacket (fabricConsumed p.dstNode pa t) p = ownPacket t p ∧
      findEntry (fabricConsumed p.dstNode pa t) p.srcSlot = findEntry t p.srcSlot := fun t => by
    unfold fabricConsumed
    split <;> exact ⟨rfl, rfl⟩
  rw [exec_remoteReadArrival body, arrive_performs plain there come free, performRead_poisoned (pa := pa)]
  · refine congrArg _ ((if_pos ((consumes _).1.trans ((taken.own p).trans own))).trans ?_)
    rw [(consumes _).2, taken.entry, found]
  · rw [show addrRefused (takenPacket p s) p = addrRefused s p from funext (taken.addrRefused p)]
    exact good
  · rw [show (fun x => poisonedAt (takenPacket p s) (memKey p.dstNode x)) = fun x => poisonedAt s (memKey p.dstNode x) from
      funext (fun x => taken.poisonedAt _)]
    exact poisoned

end Read

theorem own_amo {pa : Nat} {wide : Bool} {op : AtomOp} {b cmp : Word} (body : p.body = .amo pa wide op b cmp)
    (good : ∀ k, k < (if wide then 8 else 4) →
      addrRefused s p (k + pa) = false ∧ poisonedAt s (memKey p.dstNode (k + pa)) = false) :
    ∃ t : State, exec (.remoteAmoArrival p) s = .next t ∧ ∃ x : Entry, findEntry t p.srcSlot = some x ∧
      x.scalar = some (BitVec.ofNat 64 (readLe s.mem.mem (memKey p.dstNode pa) (if wide then 8 else 4))) ∧ x.acks = e.acks - 1 := by
  have taken := taken_takenPacket p s
  have ownAt : ownPacket (amoWritten p pa wide op b cmp (takenPacket p s)) p = true := by
    have same : ownPacket (amoWritten p pa wide op b cmp (takenPacket p s)) p = ownPacket (takenPacket p s) p := by
      unfold ownPacket ownNode ownCore
      rw [amoWritten_sys]
    exact same.trans ((taken.own p).trans own)
  have foundAt : findEntry (amoWritten p pa wide op b cmp (takenPacket p s)) p.srcSlot = some e := by
    unfold findEntry
    rw [amoWritten_thatch]
    exact (taken.entry _).trans found
  have goodAt : ∀ k, k < (if wide then 8 else 4) → addrRefused (takenPacket p s) p (k + pa) = false ∧
      poisonedAt (takenPacket p s) (memKey p.dstNode (k + pa)) = false := fun k below => by
    rw [taken.addrRefused, taken.poisonedAt]
    exact good k below
  have performed := (exec_remoteAmoArrival body).trans ((arrive_performs plain there come free).trans (congrArg Host.Outcome.next
    ((performAmo_good op b cmp goodAt).trans (amoAnswer_own ownAt foundAt))))
  have slot : e.slot = p.srcSlot := slot_of_findEntry found
  exact ⟨_, performed, _, findEntry_putEntry foundAt slot, by rw [taken.memory], rfl⟩

end Own

/-! ### RELEASE, CANCEL and EXPIRED -/

section Control
variable {s : State} {p : Packet} {pip : Nat} (there : s.fab.net.contains p = true)
include there

theorem exec_releaseArrival (come : HasCome s p) (body : p.body = .release pip) :
    exec (.releaseArrival p) s = .next (((s.fab.held.filter (fun h =>
      heldBy p.dstNode p.dstCore h && ofTriple p.srcNode p.srcCore pip h.p)).map Held.p).foldl releaseOne
        (dropTriple p.dstNode p.dstCore p.srcNode p.srcCore pip (takenPacket p s))) := by
  refine congrArg Host.Outcome.next ?_
  rw [body, fromNet_come there come]
  dsimp only
  rw [(taken_takenPacket p s).held]

theorem exec_cancelArrival (come : HasCome s p) (body : p.body = .cancel pip) :
    exec (.cancelArrival p) s = .next (
      if ownPacket s p then failMarked (p.dstNode, p.dstCore) pip (dropTriple p.dstNode p.dstCore p.srcNode p.srcCore pip (takenPacket p s))
      else dropTriple p.dstNode p.dstCore p.srcNode p.srcCore pip (takenPacket p s)) := by
  have same : ownPacket (dropTriple p.dstNode p.dstCore p.srcNode p.srcCore pip (takenPacket p s)) p = ownPacket s p :=
    (taken_takenPacket p s).own p
  refine congrArg Host.Outcome.next ?_
  rw [body, fromNet_come there come]
  dsimp only
  rw [same]

theorem exec_expiredArrival (own : toOwn s p = true) (body : p.body = .expired pip) :
    exec (.expiredArrival p) s = .next (failMarked (p.srcNode, p.srcCore) pip (withoutPacket p s)) := by
  refine congrArg Host.Outcome.next ?_
  rw [body]
  exact if_pos ((Bool.and_eq_true _ _).mpr ⟨own, there⟩)

end Control

/-! ### The obligation -/

/-- Settles O59: each packet by what it is and what it meets. -/
theorem arrivalEvents : Obligations.ArrivalEvents := by
  unfold Obligations.ArrivalEvents
  intro s p erased taken at_ sorted
  have left := taken_takenPacket p s
  refine ⟨?waits, ?others, ?flits, ?order, ?own, ?marked, ?released, ?expiry, ?expired, ?refusal, ?away⟩
  case waits =>
    intro there plain held come raised waits
    have waiting {f : State → State} : arrive p f s = .next waits :=
      (arrive_waits plain there come held).trans (congrArg _ (waitHere_come p s))
    exact ⟨fun ws body => (exec_remoteWriteArrival body).trans waiting, fun bs body => (exec_remoteReadArrival body).trans waiting,
      fun pa wide op b cmp body => (exec_remoteAmoArrival body).trans waiting⟩
  case others =>
    intro there other plain
    have otherAt := (left.own p).trans other
    refine ⟨fun ws body free good => other_writes there other plain body free good,
      fun bs body free good clean => other_reads there other plain body free good clean, ?amo, ?sem, ?idle, ?post, ?halo, ?red⟩
    case amo =>
      intro pa wide op b cmp body free size old c good
      have performed := other_amo there other plain body free good
      have memory : readLe (takenPacket p s).mem.mem (at_ pa) size = old := by rw [left.memory]
      refine ⟨fun writes => performed.trans (congrArg _ ?_), fun kept => performed.trans (congrArg _ ?_)⟩
      · unfold amoWritten
        dsimp only
        rw [memory]
        exact if_pos writes
      · unfold amoWritten
        dsimp only
        rw [memory]
        exact if_neg (Bool.eq_false_iff.mp kept)
    case sem =>
      intro n v body own runs sorted
      have sems : ∀ k, getSem (takenPacket p s) k = getSem s k := fun k => congrArg (tget 0 · k) left.sems
      have added := getSem_addSem (s := takenPacket p s) (left.sems ▸ sorted) n v
      refine ⟨_, other_sem there other plain body own runs, ?_, fun k different => ?_⟩
      · rw [added, if_pos rfl, sems]
      · rw [added, if_neg different, sems]
    case idle =>
      exact fun r b body idle => (other_post there other plain body).trans
        (congrArg _ (performPost_idle ((left.coreRuns p).trans idle) otherAt r b))
    case post =>
      intro r b body own runs room accepted _ unread _
      refine ⟨_, other_post there other plain body, ?_⟩
      have grows := length_performPost ((left.isOwn _ _).trans own) ((left.coreRuns p).trans runs)
        (by rw [left.reserveLeft]; exact room) accepted (fun x member => unread x (left.thatch ▸ member))
      rw [grows, left.thatch]
    case halo =>
      intro w bits fmt first bs last sem body
      refine ⟨fun idle => (other_halo there other plain body).trans
        (congrArg _ (performBox_idle ((left.coreRuns p).trans idle) otherAt)), fun own runs accepted => ?_⟩
      have ownAt := (left.isOwn _ _).trans own
      have runsAt := (left.coreRuns p).trans runs
      intro written
      have only : OnlySpad (takenPacket p s) written := foldl_onlySpad _ _
      refine ⟨fun silent => (other_halo there other plain body).trans
        (congrArg _ (performBox_plain ownAt runsAt accepted otherAt silent)), fun n named ends sorted => ?_⟩
      refine ⟨releaseAll (addSem n 1 written), (other_halo there other plain body).trans
        (congrArg _ ((performBox_other ownAt runsAt accepted otherAt).trans ?_)), rfl, ?_⟩
      · rw [named, ends]
        rfl
      · have sems : written.store.sems = s.store.sems := only.sems.trans left.sems
        rw [getSem_addSem (sems ▸ sorted), if_pos rfl]
        exact congrArg (tget 0 · n + 1) sems
    case red =>
      intro w bits fmt first bs last sem body own runs accepted format silent
      exact (other_red there other plain body own format).trans (congrArg _
        (performBox_plain ((left.isOwn _ _).trans own) ((left.coreRuns p).trans runs) accepted otherAt silent))
  case flits =>
    intro _ own waits
    obtain ⟨writes, reads, _⟩ := exec_arrival_stays own (.inl waits)
    exact ⟨writes, reads, exec_markedPacketArrival_stays own (.inl waits)⟩
  case order => exact fun _ own behind => exec_arrival_stays own (.inr behind)
  case own =>
    intro e there own gone first plain free found
    have come : HasCome s p := .inr ⟨gone, first⟩
    have slot : e.slot = p.srcSlot := slot_of_findEntry found
    refine ⟨fun ws body good => own_writes there own come plain free found body good, fun bs body => ⟨fun bad =>
      own_read_refused there own come plain free body bad, fun good clean => ?_, fun pa good poisoned =>
      own_read_poisoned there own come plain free found body good poisoned⟩,
      fun pa wide op b cmp body good => own_amo there own come plain free found body good⟩
    have answered := own_read_answered there own come plain free found body good clean
    intro es
    exact ⟨fun ordinary => answered.trans (congrArg _ ((readAnswer_ordinary ordinary).trans (by rw [slot]; rfl))),
      fun restarts => answered.trans (congrArg _ ((readAnswer_restartable restarts).trans (by rw [slot]; rfl)))⟩
  case marked =>
    intro pip there come marked asks
    have meets := exec_markedPacketArrival there come marked asks
    refine ⟨fun expired => meets.trans (congrArg _ (markedMeets_expired ((left.expired _ _ _ _ _).trans expired))), fun lives => ?_⟩
    have livesAt := (left.expired p.dstNode p.dstCore p.srcNode p.srcCore pip).trans lives
    refine ⟨fun refuses => ?_, fun accepts room => ?_, fun e accepts full own found => ?_⟩
    · refine meets.trans (congrArg _ ((markedMeets_refused livesAt ((left.coreRefuses p).trans refuses)).trans ?_))
      unfold refuse
      rw [left.own]
      rfl
    · refine meets.trans (congrArg _ ((markedMeets_held livesAt ((left.coreRefuses p).trans accepts) (by rw [left.held]; exact room)).trans ?_))
      rw [left.held, left.now]
      rfl
    · exact meets.trans (congrArg _ ((markedMeets_full livesAt ((left.coreRefuses p).trans accepts) (by rw [left.held]; exact full)).trans
        (bounce_own ((left.own p).trans own) ((left.entry _).trans found))))
  case released =>
    exact fun pip there come => ⟨exec_releaseArrival there come, exec_cancelArrival there come⟩
  case expiry =>
    intro i h at_
    refine ⟨fun late => ⟨_, (exec_holdExpiry at_).trans (congrArg _ (if_pos late)), ?_⟩,
      fun early => (exec_holdExpiry at_).trans (congrArg _ (if_neg (Nat.not_le.mpr early)))⟩
    rw [expire_held]
    refine List.any_eq_false.mpr (fun x member => ?_)
    have kept := (List.mem_filter.mp member).2
    rw [Bool.not_eq_true'] at kept
    exact Bool.eq_false_iff.mp kept
  case expired => exact fun pip body own there => exec_expiredArrival there own body
  case refusal =>
    intro full body own there is
    have answered := exec_remoteRefusalArrival_there body own there
    refine ⟨fun gone => answered.trans (congrArg _ (refused_none (s := withoutPacket p s) gone)), fun e found => ?_⟩
    have foundAt : findEntry (withoutPacket p s) p.srcSlot = some e := found
    have which := refusedPacket_found found
    intro q
    refine ⟨fun isFull => ?_, fun fails other => ?_, fun fails copies running => ?_, fun fails copies stopped => ?_⟩
    · subst isFull
      exact answered.trans (congrArg _ ((refused_full foundAt).trans (by rw [which]; rfl)))
    · subst fails
      exact answered.trans (congrArg _ ((refused_fails foundAt).trans (packetFails_other other)))
    · subst fails
      exact answered.trans (congrArg _ ((refused_fails foundAt).trans (packetFails_running copies running)))
    · subst fails
      exact answered.trans (congrArg _ ((refused_fails foundAt).trans (packetFails_stopped copies stopped)))
  case away =>
    intro body own away
    have answered := exec_remoteRefusalArrival_away body own away rfl
    refine ⟨fun none => answered.trans (congrArg _ (by rw [none]; rfl)), fun q e found entry other => ?_⟩
    refine answered.trans (congrArg _ ?_)
    rw [found]
    exact (refused_fails (s := withoutPacket q s) entry).trans (packetFails_other other)

end Sys2Proof.Machine
end

section
/-! The save image (R177): its parts, their places and their lengths. -/

namespace Sys2Proof.Machine

/-! ### Slices of byte strings -/

section Slices
variable {α : Type} {a b : List α} {m off n : Nat}

/-- A slice behind a first part. -/
theorem slice_behind (len : a.length = m) (behind : m ≤ off) : ((a ++ b).drop off).take n = (b.drop (off - m)).take n := by
  rw [List.drop_append, List.drop_eq_nil_of_le (len ▸ behind), List.nil_append, len]

/-- A slice of a first part. -/
theorem slice_inside (len : a.length = m) (inside : off + n ≤ m) : ((a ++ b).drop off).take n = (a.drop off).take n := by
  rw [List.drop_append_of_le_length (by omega), List.take_append_of_le_length (by rw [List.length_drop]; omega)]

theorem slice_whole (len : a.length = n) : (a.drop 0).take n = a := by
  rw [List.drop_zero, ← len, List.take_length]

/-- A slice that is a first part. -/
theorem slice_first (len : a.length = n) : ((a ++ b).drop 0).take n = a :=
  (slice_inside len (Nat.zero_add n).le).trans (slice_whole len)

/-- An element of parts of one length. -/
theorem slice_flatMap {β : Type} {f : β → List α} (len : ∀ x, (f x).length = m) {l : List β} {k : Nat} {x : β}
    (at_ : l[k]? = some x) : ((l.flatMap f).drop (m * k)).take m = f x := by
  induction l generalizing k with
  | nil => exact absurd at_ (by simp)
  | cons y l ih =>
    cases k with
    | zero =>
      obtain rfl : y = x := Option.some.inj at_
      rw [List.flatMap_cons, Nat.mul_zero]
      exact slice_first (len y)
    | succ k =>
      have below : m ≤ m * (k + 1) := Nat.le_mul_of_pos_right m (Nat.succ_pos k)
      rw [List.flatMap_cons, slice_behind (len y) below, show m * (k + 1) - m = m * k by rw [Nat.mul_succ]; omega]
      exact ih at_

theorem length_flatMap_of {β : Type} {f : β → List α} (len : ∀ x, (f x).length = m) (l : List β) :
    (l.flatMap f).length = m * l.length := by
  induction l with
  | nil => rfl
  | cons y l ih => rw [List.flatMap_cons, List.length_append, len, ih, List.length_cons, Nat.mul_succ, Nat.add_comm]

end Slices

theorem length_padTo (n : Nat) (bs : List Byte) : (padTo n bs).length = n := by
  unfold padTo
  rw [List.length_append, List.length_take, List.length_replicate]
  omega

/-- An element of parts of one length, padded or cut. -/
theorem slice_padTo {β : Type} {f : β → List Byte} {m n : Nat} (len : ∀ x, (f x).length = m) {l : List β} {k : Nat} {x : β}
    (at_ : l[k]? = some x) (inside : m * (k + 1) ≤ n) : ((padTo n (l.flatMap f)).drop (m * k)).take m = f x := by
  have below : k < l.length := (List.getElem?_eq_some_iff.mp at_).1
  have room : m * k + m ≤ m * l.length := by
    rw [← Nat.mul_succ]
    exact Nat.mul_le_mul_left m below
  rw [Nat.mul_succ] at inside
  unfold padTo
  rw [slice_inside (m := min n (m * l.length)) (by rw [List.length_take, length_flatMap_of len]) (le_min inside room),
    List.drop_take, List.take_take, min_eq_left (by omega)]
  exact slice_flatMap len at_

/-! ### The parts of the image -/

/-- The header of the image. -/
def headPart (s : State) : List Byte :=
  leBytes 8 0x9401 ++ (leBytes 8 s.sys.coreid.toNat ++ (leBytes 8 s.thatch.nextSeq ++ (leBytes 8 s.sys.rnpool.toNat ++
    (leBytes 8 (imageEntries s).length ++ (leBytes 8 (tkc s) ++ leBytes 16 0)))))

def windowPart (s : State) : List Byte := padTo 8192 ((imageEntries s).flatMap entryImage)

def boxPart (s : State) : List Byte := s.store.boxes.toList.flatMap boxRegImage

def blockPart_ (s : State) : List Byte := engines.zipIdx.flatMap (fun g => engineBlockBytes (imageEntries s) g.2 g.1)

def dirPart (s : State) : List Byte := padTo 1024 (s.thatch.dir.flatMap (dirImage (imageEntries s)))

def queuePart (s : State) : List Byte :=
  leBytes 8 s.strand.cq.length ++ (leBytes 56 0 ++ padTo 256 (s.strand.cq.flatMap (fun v => leBytes 4 v.toNat)))

def returnPart (s : State) : List Byte :=
  leBytes 8 s.strand.ras.length ++ (padTo 128 (s.strand.ras.flatMap (fun v => leBytes 8 v.toNat)) ++
    (leBytes 8 s.sys.rasb.toNat ++ leBytes 48 0))

theorem saveImage_eq (s : State) : saveImage s = headPart s ++ (windowPart s ++ (boxPart s ++ (blockPart_ s ++ (dirPart s ++
    (queuePart s ++ (returnPart s ++ leBytes 4224 0)))))) := by
  unfold saveImage headPart windowPart boxPart blockPart_ dirPart queuePart returnPart
  simp only [List.append_assoc]

theorem length_headPart (s : State) : (headPart s).length = 64 := by
  simp only [headPart, List.length_append, leBytes_length]

theorem length_windowPart (s : State) : (windowPart s).length = 8192 := length_padTo _ _

theorem length_boxRegImage (b : BoxReg) : (boxRegImage b).length = 32 := by
  simp only [boxRegImage, dimsBytes, List.length_append, leBytes_length]

theorem length_boxPart (s : State) : (boxPart s).length = 2048 := by
  unfold boxPart
  rw [length_flatMap_of length_boxRegImage, Vector.length_toList]

theorem length_blockPart (s : State) : (blockPart_ s).length = 320 := by
  unfold blockPart_
  rw [length_flatMap_of (m := 64) (fun g => by simp only [engineBlockBytes, blockBytes, List.length_map, List.length_range])]
  rfl

theorem length_dirPart (s : State) : (dirPart s).length = 1024 := length_padTo _ _

theorem length_queuePart (s : State) : (queuePart s).length = 320 := by
  simp only [queuePart, List.length_append, leBytes_length, length_padTo]

theorem length_returnPart (s : State) : (returnPart s).length = 192 := by
  simp only [returnPart, List.length_append, leBytes_length, length_padTo]

theorem length_saveImage (s : State) : (saveImage s).length = 16384 := by
  rw [saveImage_eq]
  simp only [List.length_append, length_headPart, length_windowPart, length_boxPart, length_blockPart, length_dirPart,
    length_queuePart, length_returnPart, leBytes_length]

/-! ### Where the parts stand -/

section Places
variable (s : State) {off n : Nat}

theorem slice_head (inside : off + n ≤ 64) : ((saveImage s).drop off).take n = ((headPart s).drop off).take n := by
  rw [saveImage_eq, slice_inside (length_headPart s) inside]

theorem slice_window (inside : off + n ≤ 8192) :
    ((saveImage s).drop (0x40 + off)).take n = ((windowPart s).drop off).take n := by
  rw [saveImage_eq, slice_behind (length_headPart s) (Nat.le_add_right _ _), Nat.add_sub_cancel_left,
    slice_inside (length_windowPart s) inside]

theorem slice_boxes (inside : off + n ≤ 2048) :
    ((saveImage s).drop (0x2040 + off)).take n = ((boxPart s).drop off).take n := by
  rw [saveImage_eq, slice_behind (length_headPart s) (by omega), slice_behind (length_windowPart s) (by omega),
    show 0x2040 + off - 64 - 8192 = off by omega, slice_inside (length_boxPart s) inside]

theorem slice_queue (inside : off + n ≤ 320) :
    ((saveImage s).drop (0x2D80 + off)).take n = ((queuePart s).drop off).take n := by
  rw [saveImage_eq, slice_behind (length_headPart s) (by omega), slice_behind (length_windowPart s) (by omega),
    slice_behind (length_boxPart s) (by omega), slice_behind (length_blockPart s) (by omega),
    slice_behind (length_dirPart s) (by omega), show 0x2D80 + off - 64 - 8192 - 2048 - 320 - 1024 = off by omega,
    slice_inside (length_queuePart s) inside]

theorem slice_returns (inside : off + n ≤ 192) :
    ((saveImage s).drop (0x2EC0 + off)).take n = ((returnPart s).drop off).take n := by
  rw [saveImage_eq, slice_behind (length_headPart s) (by omega), slice_behind (length_windowPart s) (by omega),
    slice_behind (length_boxPart s) (by omega), slice_behind (length_blockPart s) (by omega),
    slice_behind (length_dirPart s) (by omega), slice_behind (length_queuePart s) (by omega),
    show 0x2EC0 + off - 64 - 8192 - 2048 - 320 - 1024 - 320 = off by omega, slice_inside (length_returnPart s) inside]

end Places

/-! ### What the image holds -/

section Holds
variable (s : State)

theorem leNat_word (v : Nat) : leNat (leBytes 8 v) = v % 2 ^ 64 := leNat_leBytes 8 v

theorem imgNat_version : imgNat (saveImage s) 0 8 = 0x9401 := by
  unfold imgNat
  rw [slice_head s (by decide), headPart, slice_first (leBytes_length 8 _), leNat_word]
  exact Nat.mod_eq_of_lt (by decide)

theorem imgNat_core : imgNat (saveImage s) 8 8 = s.sys.coreid.toNat := by
  unfold imgNat
  rw [slice_head s (by decide), headPart, slice_behind (leBytes_length 8 _) (by decide), slice_first (leBytes_length 8 _),
    leNat_leBytes]
  exact Nat.mod_eq_of_lt (s.sys.coreid.isLt.trans (by decide))

theorem imgNat_rnpool : imgNat (saveImage s) 0x18 8 = s.sys.rnpool.toNat := by
  unfold imgNat
  rw [slice_head s (by decide), headPart, slice_behind (leBytes_length 8 _) (by decide),
    slice_behind (leBytes_length 8 _) (by decide), slice_behind (leBytes_length 8 _) (by decide),
    slice_first (leBytes_length 8 _), leNat_leBytes]
  exact Nat.mod_eq_of_lt (s.sys.rnpool.isLt.trans_le (by decide))

theorem imgNat_count : imgNat (saveImage s) 0x20 8 = (imageEntries s).length % 2 ^ 64 := by
  unfold imgNat
  rw [slice_head s (by decide), headPart, slice_behind (leBytes_length 8 _) (by decide),
    slice_behind (leBytes_length 8 _) (by decide), slice_behind (leBytes_length 8 _) (by decide),
    slice_behind (leBytes_length 8 _) (by decide), slice_first (leBytes_length 8 _), leNat_word]

theorem slice_entry {k : Nat} {e : Entry} (below : k < 64) (at_ : (imageEntries s)[k]? = some e) :
    ((saveImage s).drop (0x40 + 128 * k)).take 128 = entryImage e := by
  rw [slice_window s (by omega), windowPart]
  exact slice_padTo length_entryImage at_ (by omega)

theorem slice_box (x : Bx) : ((saveImage s).drop (0x2040 + 32 * x.val)).take 32 = boxRegImage (getBox s x) := by
  rw [slice_boxes s (by have := x.isLt; omega), boxPart]
  refine slice_flatMap length_boxRegImage (List.getElem?_eq_some_iff.mpr ⟨?_, ?_⟩)
  · rw [Vector.length_toList]
    exact x.isLt
  · exact Vector.getElem_toList _

theorem imgNat_queued : imgNat (saveImage s) 0x2D80 8 = s.strand.cq.length % 2 ^ 64 := by
  unfold imgNat
  rw [slice_queue s (off := 0) (by decide), queuePart, slice_first (leBytes_length 8 _), leNat_word]

theorem imgNat_queue {k : Nat} {v : BitVec 32} (below : k < 64) (at_ : s.strand.cq[k]? = some v) :
    imgNat (saveImage s) (0x2DC0 + 4 * k) 4 = v.toNat := by
  unfold imgNat
  rw [show 0x2DC0 + 4 * k = 0x2D80 + (64 + 4 * k) by omega, slice_queue s (by omega), queuePart,
    slice_behind (leBytes_length 8 _) (by omega), slice_behind (leBytes_length 56 _) (by omega),
    show 64 + 4 * k - 8 - 56 = 4 * k by omega, slice_padTo (fun v => leBytes_length 4 _) at_ (by omega), leNat_leBytes]
  exact Nat.mod_eq_of_lt v.isLt

theorem imgNat_returned : imgNat (saveImage s) 0x2EC0 8 = s.strand.ras.length % 2 ^ 64 := by
  unfold imgNat
  rw [slice_returns s (off := 0) (by decide), returnPart, slice_first (leBytes_length 8 _), leNat_word]

theorem imgNat_return {k : Nat} {v : BitVec 32} (below : k < 16) (at_ : s.strand.ras[k]? = some v) :
    imgNat (saveImage s) (0x2EC8 + 8 * k) 8 = v.toNat := by
  unfold imgNat
  rw [show 0x2EC8 + 8 * k = 0x2EC0 + (8 + 8 * k) by omega, slice_returns s (by omega), returnPart,
    slice_behind (leBytes_length 8 _) (by omega), show 8 + 8 * k - 8 = 8 * k by omega,
    slice_inside (length_padTo 128 _) (by omega), slice_padTo (fun v => leBytes_length 8 _) at_ (by omega), leNat_leBytes]
  exact Nat.mod_eq_of_lt (v.isLt.trans (by decide))

theorem imgNat_rasb : imgNat (saveImage s) 0x2F48 8 = s.sys.rasb.toNat := by
  unfold imgNat
  rw [show 0x2F48 = 0x2EC0 + 136 from rfl, slice_returns s (by decide), returnPart, slice_behind (leBytes_length 8 _) (by decide),
    slice_behind (length_padTo 128 _) (by decide), slice_first (leBytes_length 8 _), leNat_leBytes]
  exact Nat.mod_eq_of_lt s.sys.rasb.isLt

end Holds

end Sys2Proof.Machine
end

section
/-! SAVEQ (R143, R178): where it stalls, where it traps, and what it leaves. -/

namespace Sys2Proof.Machine

/-! ### Accesses leave the sweeps -/

/-- From `s` to `t` the sweeps stand. -/
def SweepsStand (s t : State) : Prop := t.mem.sweeps = s.mem.sweeps

theorem SweepsStand.trans {s t u : State} (h : SweepsStand s t) (k : SweepsStand t u) : SweepsStand s u := Eq.trans k h

theorem OnlyAsked.sweeps {s t : State} (h : OnlyAsked s t) : SweepsStand s t := by
  unfold OnlyAsked at h
  unfold SweepsStand
  rw [h]

theorem sweepsStand_memWrite (ws : List ByteWrite) (s : State) : SweepsStand s (memWrite ws s) := rfl

theorem sweepsStand_setPte (a : Nat) (f : Nat → Nat) (s : State) : SweepsStand s (setPte a f s) :=
  (requestAt_onlyAsked a s).sweeps.trans (sweepsStand_memWrite _ _)

theorem sweepsStand_markDirty (leaf : Option Nat) (s : State) : SweepsStand s (markDirty leaf s) := by
  unfold markDirty
  split
  · exact rfl
  · split
    · exact rfl
    · exact sweepsStand_setPte _ (setBit 58 true) s

theorem sweepsStand_putTlb (map : Bool) (t : Tlb) (s : State) : SweepsStand s (putTlb map t s) := by
  unfold putTlb
  split <;> exact rfl

theorem sweepsStand_mapUnit {asid : BitVec 13} {e : SegEntry} {va : Nat} {s u : State} {t : Tlb}
    (ok : mapUnit asid e va s = .ok (t, u)) : SweepsStand s u := by
  unfold mapUnit at ok
  split at ok
  · cases ok
    exact rfl
  · split at ok
    · cases ok
    · cases ok
      exact (tableRequests_onlyAsked e va s).sweeps.trans (sweepsStand_putTlb true _ _)

theorem sweepsStand_xlate {map : Bool} {asid : BitVec 13} {va kind : Nat} {s u : State} {pa : Nat} {mig sw : Bool}
    {leaf : Option Nat} (ok : xlate map asid va kind s = .ok pa mig sw leaf u) : SweepsStand s u := by
  have page {e : SegEntry} (ok : xlatePage map asid e va kind s = .ok pa mig sw leaf u) : SweepsStand s u := by
    unfold xlatePage at ok
    split at ok
    · rw [tlbUse_ok ok]
      exact rfl
    · split at ok
      · cases ok
      · next mapped =>
        rw [tlbUse_ok ok]
        split
        · exact sweepsStand_mapUnit mapped
        · exact (sweepsStand_mapUnit mapped).trans (sweepsStand_putTlb false _ _)
  unfold xlate at ok
  split at ok
  · cases ok
  · split at ok
    · cases ok
    · split at ok
      · cases ok
      · split at ok
        · cases ok
        · exact page ok

/-- An access that its check accepts has come through a translation. -/
theorem xlate_of_check {addr : Word} {size kind : Nat} {s u : State} {pa : Nat} {mig sw : Bool} {leaf : Option Nat}
    (ok : check addr size kind s = .mem pa mig sw leaf u) : xlate false s.sys.asid addr.toNat kind s = .ok pa mig sw leaf u := by
  unfold check at ok
  dsimp only at ok
  split at ok
  · split at ok
    · cases ok
    · split at ok
      · cases ok
      · split at ok <;> cases ok
  · split at ok
    · cases ok
    · split at ok
      · cases ok
      · split at ok
        · split at ok <;> cases ok
        · next translated =>
          split at ok
          · cases ok
          · split at ok
            · cases ok
            · cases ok
              exact translated

/-- The units of an image that are accepted have been translated, and nothing else. -/
theorem checkUnits_ok {kind n : Nat} {addr : Word} {s u : State} {us : List (Nat × Option Nat)} {held : Bool}
    (ok : checkUnits kind addr n s = .ok (us, held, u)) : OnlyMemory s u ∧ SweepsStand s u := by
  induction n generalizing addr s us held with
  | zero =>
    cases ok
    exact ⟨.refl _, rfl⟩
  | succ n ih =>
    unfold checkUnits at ok
    split at ok
    · cases ok
    · cases ok
      exact ⟨.refl _, rfl⟩
    · split at ok
      · cases ok
      · next rest =>
        cases ok
        exact ih rest
    · next checked =>
      split at ok
      · cases ok
      · next rest =>
        cases ok
        obtain ⟨only, sweeps⟩ := ih rest
        exact ⟨(onlyMemory_check checked).trans only, (sweepsStand_xlate (xlate_of_check checked)).trans sweeps⟩

theorem imageAt_ok {kind : Nat} {addr : Word} {s u : State} {p : ImageAt} (ok : imageAt kind addr s = .ok (p, u)) :
    OnlyMemory s u ∧ SweepsStand s u := by
  unfold imageAt at ok
  split at ok
  · cases ok
  · split at ok
    · cases ok
    · next units =>
      split at ok <;> cases ok <;> exact checkUnits_ok units

/-! ### The write of the image -/

theorem sweepsStand_foldl {α : Type} {f : State → α → State} (each : ∀ s x, SweepsStand s (f s x)) (l : List α) (s : State) :
    SweepsStand s (l.foldl f s) := by
  induction l generalizing s with
  | nil => exact rfl
  | cons x t ih => exact (each s x).trans (ih _)

theorem sweepsStand_writeImage (p : ImageAt) (bs : List Byte) (s : State) : SweepsStand s (writeImage p bs s) := by
  unfold writeImage
  split
  · exact rfl
  · exact sweepsStand_foldl (fun s (u : (Nat × Option Nat) × Nat) => ((requestAt_onlyAsked u.1.1 s).sweeps.trans (sweepsStand_markDirty u.1.2 _)).trans
      (sweepsStand_memWrite _ _)) _ s

/-- Writing an image leaves all but memory, the scratchpad and the power states. -/
theorem writeImage_rest (p : ImageAt) (bs : List Byte) (s : State) :
    (writeImage p bs s).strand = s.strand ∧ (writeImage p bs s).sys = s.sys ∧ (writeImage p bs s).thatch = s.thatch := by
  unfold writeImage
  split
  · exact ⟨rfl, rfl, rfl⟩
  · have only := onlyMemory_foldl (fun s (u : (Nat × Option Nat) × Nat) => ((onlyMemory_requestAt u.1.1 s).trans (onlyMemory_markDirty u.1.2 _)).trans
      (onlyMemory_memWrite (writesOf (memKey (ownNode s) u.1.1) ((bs.drop (64 * u.2)).take 64)) _))
    next us held => exact ⟨(only us.zipIdx s).strand, (only us.zipIdx s).sys, (only us.zipIdx s).thatch⟩

/-! ### The save -/

/-- What stopping the engines for a save leaves as it was. -/
structure Begun (s t : State) : Prop where
  strand : t.strand = s.strand
  sys : t.sys = s.sys
  store : t.store = s.store
  mem : t.mem = s.mem

theorem begun_saveBegin (s : State) : Begun s (saveBegin s) := by
  have ends : ∀ (es : List Entry) t, Begun t (es.foldl (fun s e => match e.pip with | some n => failPip n s | none => s) t) := by
    intro es
    induction es with
    | nil => exact fun t => ⟨rfl, rfl, rfl, rfl⟩
    | cons e es ih =>
      intro t
      have one : Begun t (match e.pip with | some n => failPip n t | none => t) := by
        split
        · unfold failPip
          dsimp only
          split
          · exact ⟨toNet_strand .., toNet_sys .., toNet_store .., toNet_mem ..⟩
          · exact ⟨rfl, rfl, rfl, rfl⟩
        · exact ⟨rfl, rfl, rfl, rfl⟩
      have rest := ih (match e.pip with | some n => failPip n t | none => t)
      exact ⟨rest.strand.trans one.strand, rest.sys.trans one.sys, rest.store.trans one.store, rest.mem.trans one.mem⟩
  have begun := ends ((stopQueues { s with thatch := { s.thatch with savePips := true } }).thatch.entries.filter savedEntry)
    (stopQueues { s with thatch := { s.thatch with savePips := true } })
  exact ⟨begun.strand, begun.sys, begun.store, begun.mem⟩

/-- The stopped window of a save. -/
def saveStopped (b : State) : State := { b with thatch := { b.thatch with entries := b.thatch.entries.map stopEntry } }

/-- What the pips that have ended leave as it was. -/
theorem foldl_pipRetired (es : List Entry) (s : State) :
    (es.foldl (fun s e => pipRetired e s) s).strand = s.strand ∧ (es.foldl (fun s e => pipRetired e s) s).sys = s.sys ∧
      (es.foldl (fun s e => pipRetired e s) s).store = s.store ∧ (es.foldl (fun s e => pipRetired e s) s).mem = s.mem := by
  induction es generalizing s with
  | nil => exact ⟨rfl, rfl, rfl, rfl⟩
  | cons e es ih =>
    obtain ⟨strand, sys, store, mem⟩ := ih (pipRetired e s)
    have one : (pipRetired e s).strand = s.strand ∧ (pipRetired e s).sys = s.sys ∧ (pipRetired e s).store = s.store ∧
        (pipRetired e s).mem = s.mem := by
      unfold pipRetired
      split <;> exact ⟨rfl, rfl, rfl, rfl⟩
    obtain ⟨strand1, sys1, store1, mem1⟩ := one
    exact ⟨strand.trans strand1, sys.trans sys1, store.trans store1, mem.trans mem1⟩

/-- The state in which the image is written and the pips of the saved records have ended. -/
def saveWritten (p : ImageAt) (b : State) : State :=
  (writeImage p (saveImage (saveStopped b)) (saveStopped b)).thatch.entries.foldl (fun s e => pipRetired e s)
    (writeImage p (saveImage (saveStopped b)) (saveStopped b))

theorem saveEnd_eq (p : ImageAt) (b : State) :
    saveEnd p b = { saveWritten p b with
      mem := { (saveWritten p b).mem with sweeps := (saveWritten p b).mem.sweeps.map (fun w =>
        if w.asid = (saveWritten p b).sys.asid then { w with sent := none } else w) }
      thatch := { (saveWritten p b).thatch with entries := [], dir := [], stopped := false, savePips := false }
      pkg := { (saveWritten p b).pkg with
        preemptBy := if (saveWritten p b).pkg.saving then none else (saveWritten p b).pkg.preemptBy } } := rfl

/-- What a save leaves of the strand, of the stores and of memory. -/
theorem saveEnd_leaves (p : ImageAt) (b : State) :
    (saveEnd p b).strand = b.strand ∧ (saveEnd p b).store = (writeImage p (saveImage (saveStopped b)) (saveStopped b)).store ∧
      (saveEnd p b).mem = { (writeImage p (saveImage (saveStopped b)) (saveStopped b)).mem with
        sweeps := b.mem.sweeps.map (fun x => if x.asid = b.sys.asid then { x with sent := none } else x) } := by
  obtain ⟨strand, sys, store, mem⟩ := foldl_pipRetired (writeImage p (saveImage (saveStopped b)) (saveStopped b)).thatch.entries
    (writeImage p (saveImage (saveStopped b)) (saveStopped b))
  obtain ⟨strandW, sysW, _⟩ := writeImage_rest p (saveImage (saveStopped b)) (saveStopped b)
  have sweeps : (writeImage p (saveImage (saveStopped b)) (saveStopped b)).mem.sweeps = b.mem.sweeps := sweepsStand_writeImage ..
  have sysAll : (saveWritten p b).sys = b.sys := sys.trans sysW
  have memAll : (saveWritten p b).mem = (writeImage p (saveImage (saveStopped b)) (saveStopped b)).mem := mem
  rw [saveEnd_eq]
  refine ⟨strand.trans strandW, store, ?_⟩
  dsimp only
  rw [memAll, sysAll, sweeps]

/-! ### SAVEQ at issue -/

section Saveq
variable {s u : State} {a : Reg} {p : ImageAt}

/-- What SAVEQ does when it acts. -/
def saveqActs (a : Reg) (s : State) : Res :=
  match imageAt 1 (getG s a) s with
  | .error (t, s') => .trapIn t s'
  | .ok (p, u) =>
    if imageHeld p || meetsCopy u (getG s a) imageSize then .stall u
    else if saveWaits (saveBegin u) then .stall (saveBegin u) else .done (saveEnd p (saveBegin u))

theorem exec_saveq (a : Reg) (s : State) : exec (.saveq a) s = issue [a] true 1 (saveqActs a) s := rfl

theorem saveqActs_refused {t : Trap} (refused : imageAt 1 (getG s a) s = .error (t, u)) : saveqActs a s = .trapIn t u := by
  unfold saveqActs
  rw [refused]

variable (placed : imageAt 1 (getG s a) s = .ok (p, u))
include placed

theorem saveqActs_held (held : imageHeld p = true ∨ meetsCopy u (getG s a) imageSize = true) : saveqActs a s = .stall u := by
  unfold saveqActs
  rw [placed]
  exact if_pos ((Bool.or_eq_true _ _).mpr held)

variable (free : imageHeld p = false) (apart : meetsCopy u (getG s a) imageSize = false)
include free apart

theorem saveqActs_waits (waits : saveWaits (saveBegin u) = true) : saveqActs a s = .stall (saveBegin u) := by
  unfold saveqActs
  rw [placed]
  exact (if_neg (by rw [free, apart]; decide)).trans (if_pos waits)

theorem saveqActs_saves (ready : saveWaits (saveBegin u) = false) : saveqActs a s = .done (saveEnd p (saveBegin u)) := by
  unfold saveqActs
  rw [placed]
  exact (if_neg (by rw [free, apart]; decide)).trans (if_neg (by rw [ready]; decide))

end Saveq

end Sys2Proof.Machine
end

section
/-! RESTQ (R143, R179): the entries that come back, and what it leaves. -/

namespace Sys2Proof.Machine

/-! ### One entry -/

/-- What a saved entry and the one that comes back for it share, and how that one stands. -/
structure Restored (v : Saved) (e : Entry) : Prop where
  shares : (e.record, e.seq, e.index, e.flags, e.fold, e.remote) = (v.record, v.seq, v.index, v.flags, savedFold v, savedRemote v)
  pending : e.state = .pending
  unplanned : e.work = none
  counts : countsTkc e = (!savedFold v && !savedRemote v)

/-- What the return of an entry leaves as it was. -/
structure Untouched (s t : State) : Prop where
  strand : t.strand = s.strand
  sys : t.sys = s.sys
  store : t.store = s.store
  mem : t.mem = s.mem

theorem Untouched.trans {s t u : State} (h : Untouched s t) (k : Untouched t u) : Untouched s u :=
  ⟨k.strand.trans h.strand, k.sys.trans h.sys, k.store.trans h.store, k.mem.trans h.mem⟩

theorem untouched_restEntry (img : List Byte) (dir : List (RBox × Nat × Bool)) (s : State) (v : Saved) :
    Untouched s (restEntry img dir s v) := ⟨rfl, rfl, rfl, rfl⟩

/-- A saved entry comes back as the last of the window. -/
theorem restEntry_entries (img : List Byte) (dir : List (RBox × Nat × Bool)) (s : State) (v : Saved) :
    ∃ e, (restEntry img dir s v).thatch.entries = s.thatch.entries ++ [e] ∧ Restored v e := by
  refine ⟨_, rfl, rfl, rfl, rfl, ?_⟩
  unfold countsTkc
  dsimp only
  cases savedRemote v <;> cases savedFold v <;> rfl

/-- The saved entries come back in their order. -/
theorem foldl_restEntry (img : List Byte) (dir : List (RBox × Nat × Bool)) (vs : List Saved) (s : State) :
    Untouched s (vs.foldl (restEntry img dir) s) ∧
      ∃ es, (vs.foldl (restEntry img dir) s).thatch.entries = s.thatch.entries ++ es ∧ List.Forall₂ Restored vs es := by
  induction vs generalizing s with
  | nil => exact ⟨⟨rfl, rfl, rfl, rfl⟩, [], (List.append_nil _).symm, .nil⟩
  | cons v vs ih =>
    obtain ⟨untouched, es, entries, restored⟩ := ih (restEntry img dir s v)
    obtain ⟨e, pushed, one⟩ := restEntry_entries img dir s v
    exact ⟨(untouched_restEntry img dir s v).trans untouched, e :: es,
      by rw [List.foldl_cons, entries, pushed, List.append_assoc, List.singleton_append], .cons one restored⟩

/-- What a restored window shares with the saved entries, counted and in order. -/
theorem restored_lists {vs : List Saved} {es : List Entry} (restored : List.Forall₂ Restored vs es) :
    es.map (fun e => (e.record, e.seq, e.index, e.flags, e.fold, e.remote)) =
        vs.map (fun v => (v.record, v.seq, v.index, v.flags, savedFold v, savedRemote v)) ∧
      (∀ e ∈ es, e.state = .pending ∧ e.work = none) ∧
      (es.filter countsTkc).length = (vs.filter (fun v => !savedFold v && !savedRemote v)).length := by
  induction restored with
  | nil => exact ⟨rfl, fun e at_ => absurd at_ List.not_mem_nil, rfl⟩
  | cons one _ ih =>
    obtain ⟨keys, stand, counts⟩ := ih
    refine ⟨congrArg₂ _ one.shares keys, fun e at_ => ?_, ?_⟩
    · rcases List.mem_cons.mp at_ with rfl | rest
      · exact ⟨one.pending, one.unplanned⟩
      · exact stand e rest
    · rw [List.filter_cons, List.filter_cons, one.counts]
      split
      · rw [List.length_cons, List.length_cons, counts]
      · exact counts

/-! ### The whole restoration -/

/-- What RESTQ brings back before the entries. -/
def restoreRegs (img : List Byte) (s : State) : State :=
  { s with
    store := { s.store with boxes := Vector.ofFn (fun i : Fin 64 => boxRegOf ((img.drop (0x2040 + 32 * i.val)).take 32)) }
    strand := { s.strand with
      ras := (List.range (min 16 (imgNat img 0x2EC0 8))).map (fun i => BitVec.ofNat 32 (imgNat img (0x2EC8 + 8 * i) 8))
      cq := (List.range (min 64 (imgNat img 0x2D80 8))).map (fun i => BitVec.ofNat 32 (imgNat img (0x2DC0 + 4 * i) 4)) }
    sys := { s.sys with rasb := BitVec.ofNat 64 (imgNat img (0x2EC0 + 8 * 17) 8) &&& rasbMask }
    thatch := { s.thatch with nextSeq := max s.thatch.nextSeq (imgNat img 16 8) } }

/-- The state in which the entries are back, and the directory is open as it was saved. -/
def restoreEntries (img : List Byte) (s : State) : State :=
  let t := (savedEntries img).foldl (restEntry img (savedDir img)) (restoreRegs img s)
  { t with thatch := { t.thatch with
    dir := t.thatch.dir.map (fun d =>
      match (savedDir img).find? (fun x => x.2.1 == d.off) with | some x => { d with isOpen := x.2.2 } | none => d) } }

theorem restore_eq (img : List Byte) (s : State) : restore img s = releaseAll (restoreEntries img s) := rfl

/-- Releasing records changes their states alone. -/
theorem releaseAll_entries (s : State) (f : Entry → Entry) (same : f = fun e => if mayRelease s e then { e with state := .ready } else e) :
    (releaseAll s).thatch.entries = s.thatch.entries.map f := by
  subst same
  rfl

theorem map_released {β : Type} (key : Entry → β) (kept : ∀ e, key { e with state := .ready } = key e) (s : State) (l : List Entry) :
    (l.map (fun e => if mayRelease s e then { e with state := .ready } else e)).map key = l.map key := by
  rw [List.map_map]
  refine List.map_congr_left (fun e _ => ?_)
  dsimp only [Function.comp]
  split
  · exact kept e
  · rfl

theorem filter_released (s : State) (l : List Entry) :
    ((l.map (fun e => if mayRelease s e then { e with state := .ready } else e)).filter countsTkc).length =
      (l.filter countsTkc).length := by
  have same : (countsTkc ∘ fun e => if mayRelease s e then { e with state := .ready } else e) = countsTkc := funext fun e => by
    dsimp only [Function.comp]
    split <;> rfl
  rw [← List.countP_eq_length_filter, ← List.countP_eq_length_filter, List.countP_map, same]

theorem getBox_restoreRegs (img : List Byte) (s : State) (x : Bx) :
    getBox (restoreRegs img s) x = boxRegOf ((img.drop (0x2040 + 32 * x.val)).take 32) := Vector.getElem_ofFn x.isLt

theorem getBox_of_store {s t : State} (store : t.store = s.store) (x : Bx) : getBox t x = getBox s x := by
  unfold getBox
  rw [store]

/-- The entries come back behind those of the window, released or not. -/
theorem restore_window (img : List Byte) (s : State) : Untouched (restoreRegs img s) (restore img s) ∧
    ∃ es, List.Forall₂ Restored (savedEntries img) es ∧ (restore img s).thatch.entries = (s.thatch.entries ++ es).map (fun e =>
      if mayRelease (restoreEntries img s) e then { e with state := .ready } else e) := by
  obtain ⟨untouched, es, entries, restored⟩ := foldl_restEntry img (savedDir img) (savedEntries img) (restoreRegs img s)
  rw [restore_eq]
  exact ⟨untouched.trans ⟨rfl, rfl, rfl, rfl⟩, es, restored, congrArg (List.map _) entries⟩

/-- The registers that RESTQ brings back, and what it leaves. -/
theorem restore_registers (img : List Byte) (s : State) :
    (∀ x : Bx, getBox (restore img s) x = boxRegOf ((img.drop (0x2040 + 32 * x.val)).take 32)) ∧
      (restore img s).strand = (restoreRegs img s).strand ∧ (restore img s).sys = (restoreRegs img s).sys ∧
      (restore img s).mem = s.mem ∧ (restore img s).store.spad = s.store.spad := by
  obtain ⟨untouched, _⟩ := restore_window img s
  refine ⟨fun x => ?_, untouched.strand, untouched.sys, untouched.mem, ?_⟩
  · rw [getBox_of_store untouched.store x]
    exact getBox_restoreRegs img s x
  · rw [untouched.store]
    dsimp only [restoreRegs]

/-- The entries that RESTQ brings back, and with them TKC. -/
theorem restore_entries (img : List Byte) (s : State) (idle : tkc s = 0) :
    (restore img s).thatch.entries.map (fun e => (e.record, e.seq, e.index, e.flags, e.fold, e.remote)) =
        s.thatch.entries.map (fun e => (e.record, e.seq, e.index, e.flags, e.fold, e.remote)) ++
          (savedEntries img).map (fun v => (v.record, v.seq, v.index, v.flags, savedFold v, savedRemote v)) ∧
      (∀ e ∈ (restore img s).thatch.entries.drop s.thatch.entries.length,
        (e.state = .pending ∨ e.state = .ready) ∧ e.work = none) ∧
      tkc (restore img s) = ((savedEntries img).filter (fun v => !savedFold v && !savedRemote v)).length := by
  obtain ⟨_, es, restored, window⟩ := restore_window img s
  obtain ⟨keys, stand, counts⟩ := restored_lists restored
  unfold tkc
  rw [window]
  refine ⟨?_, fun e at_ => ?_, ?_⟩
  · rw [map_released (fun e : Entry => (e.record, e.seq, e.index, e.flags, e.fold, e.remote)) (fun _ => rfl), List.map_append, keys]
  · rw [List.map_append, List.drop_left' (List.length_map _)] at at_
    obtain ⟨x, member, rfl⟩ := List.mem_map.mp at_
    obtain ⟨pending, unplanned⟩ := stand x member
    split
    · exact ⟨.inr rfl, unplanned⟩
    · exact ⟨.inl pending, unplanned⟩
  · have old : (s.thatch.entries.filter countsTkc).length = 0 := idle
    rw [filter_released, List.filter_append, List.length_append, old, counts, Nat.zero_add]

/-! ### RESTQ at issue -/

section Restq
variable {s u : State} {a : Reg} {p : ImageAt}

/-- What RESTQ does when it acts. -/
def restqActs (a : Reg) (s : State) : Res :=
  match imageAt 0 (getG s a) s with
  | .error (t, s') => .trapIn t s'
  | .ok (p, u) =>
    if imageHeld p || meetsCopy u (getG s a) imageSize || tkc u != 0 || localCount u != 0 then .stall u
    else
      match imagePoison p u with
      | some i => .trap { accessTrap .ue (getG s a + BitVec.ofNat 64 (64 * i)) 0 with line := imageLine p i }
      | none =>
        if imgNat (readImage p u) 0 8 ≠ 0x9401 then .trap { cause := .taskbad }
        else
          match restBad u (savedDir (readImage p u)) (savedEntries (readImage p u)) with
          | some c => .trap { cause := c }
          | none => .done (restore (readImage p u) (imageRequests p u))

theorem exec_restq (a : Reg) (s : State) : exec (.restq a) s = issue [a] true 1 (restqActs a) s := rfl

theorem restqActs_refused {t : Trap} (refused : imageAt 0 (getG s a) s = .error (t, u)) : restqActs a s = .trapIn t u := by
  unfold restqActs
  rw [refused]

variable (placed : imageAt 0 (getG s a) s = .ok (p, u))
include placed

theorem restqActs_held (held : imageHeld p = true ∨ meetsCopy u (getG s a) imageSize = true) : restqActs a s = .stall u := by
  unfold restqActs
  rw [placed]
  refine if_pos ?_
  rw [(Bool.or_eq_true _ _).mpr held]
  rfl

theorem restqActs_restores (free : imageHeld p = false) (apart : meetsCopy u (getG s a) imageSize = false) (idle : tkc u = 0)
    (empty : localCount u = 0) (clean : imagePoison p u = none) (version : imgNat (readImage p u) 0 8 = 0x9401)
    (good : restBad u (savedDir (readImage p u)) (savedEntries (readImage p u)) = none) :
    restqActs a s = .done (restore (readImage p u) (imageRequests p u)) := by
  unfold restqActs
  rw [placed]
  refine (if_neg (by rw [free, apart, idle, empty]; decide)).trans ?_
  rw [clean]
  refine (if_neg (not_not.mpr version)).trans ?_
  rw [good]

end Restq

end Sys2Proof.Machine
end

section
/-! MAPINV (R268) and RIDGE (R307, R308); the obligation about SAVEQ, RESTQ, MAPINV and RIDGE. -/

namespace Sys2Proof.Machine

/-! ### MAPINV -/

/-- What a removal of translations leaves. -/
theorem invalidate_leaves (f : Tlb → Bool) (s : State) :
    (invalidate f s).mem.tlb.any f = false ∧ (invalidate f s).mem.mapCache.any f = false ∧
      ∀ t ∈ s.mem.tlb, f t = false → t ∈ (invalidate f s).mem.tlb := by
  have gone : ∀ l : List Tlb, (l.filter (fun t => !f t)).any f = false := fun l =>
    List.any_eq_false.mpr fun t at_ named => by
      have kept := (List.mem_filter.mp at_).2
      rw [named] at kept
      exact Bool.false_ne_true kept
  exact ⟨gone _, gone _, fun t at_ other => List.mem_filter.mpr ⟨at_, by rw [other]; rfl⟩⟩

/-- What MAPINV does at the privileged level. -/
def mapinvActs (p : State → Option (Tlb → Bool)) (a : State → Word) (s : State) : Res :=
  match p s with
  | none => .trap { cause := .seg, faddr := some (a s) }
  | some f => if memoryPending (invalidate f s) then .stall (invalidate f s) else .done (invalidate f s)

section Mapinv
variable {p : State → Option (Tlb → Bool)} {a : State → Word} {regs : List Reg} {s : State} (ready : Ready regs true s)
  (pl : s.sys.pl = true)
include ready pl

theorem mapinv_removes {f : Tlb → Bool} (names : p s = some f) {i : Instr} (is : exec i s = mapinv p regs a s) :
    (memoryPending (invalidate f s) = false → exec i s = .next (finish 1 s (.done (invalidate f s)))) ∧
      (memoryPending (invalidate f s) = true → exec i s = .next (stallAt (invalidate f s))) ∧
      (invalidate f s).mem.tlb.any f = false ∧ (invalidate f s).mem.mapCache.any f = false ∧
      ∀ t ∈ s.mem.tlb, f t = false → t ∈ (invalidate f s).mem.tlb := by
  have acts : mapinvActs p a s = if memoryPending (invalidate f s) then .stall (invalidate f s) else .done (invalidate f s) := by
    unfold mapinvActs
    rw [names]
  refine ⟨fun idle => ?_, fun pending => ?_, invalidate_leaves f s⟩
  · exact is.trans (issue_done ready ((privileged_allowed (f := mapinvActs p a) pl).trans (acts.trans
      (if_neg (by rw [idle]; decide)))))
  · exact is.trans (issue_stall ready ((privileged_allowed (f := mapinvActs p a) pl).trans (acts.trans (if_pos pending))))

theorem mapinv_traps (none : p s = Option.none) (calm : s.sys.spec = false) {i : Instr} (is : exec i s = mapinv p regs a s) :
    exec i s = .next (trapEntry { cause := .seg, faddr := some (a s) } false Option.none s) := by
  have acts : mapinvActs p a s = .trap { cause := .seg, faddr := some (a s) } := by
    unfold mapinvActs
    rw [none]
  have trapped := issue_trap (size := 1) ready calm (viewWaits_other s (t := { cause := .seg, faddr := some (a s) }) (fun brk : Cause.seg = .brk => Cause.noConfusion brk))
    ((privileged_allowed (f := mapinvActs p a) pl).trans acts)
  rw [consumedBy_other s (fun ue : Cause.seg = .ue => Cause.noConfusion ue), walkedBy_none s rfl] at trapped
  exact is.trans trapped

end Mapinv

/-! ### RIDGE -/

/-- What RIDGE does at the privileged level. -/
def ridgeActs (d : Reg) (k : BitVec 3) (s : State) : Res :=
  if s.strand.ridgeWait = some k then endRidge d k s
  else if ridgeStatus s k.toNat = 0 then endRidge d k (beginRidge k s)
  else .done (setG s d (ridgeWord s k.toNat (ridgeStatus s k.toNat)))

/-- The state in which a hand-over of the stack has begun. -/
def ridgeBegun (k : BitVec 3) (s : State) : State := if s.strand.ridgeWait = some k then s else beginRidge k s

theorem exec_ridge {d : Reg} {k : BitVec 3} {s : State} (ready : Ready [d] true s) (pl : s.sys.pl = true) :
    exec (.ridge d k) s = .next (finish 1 s (ridgeActs d k s)) :=
  (issue_ready 1 (privileged (ridgeActs d k)) ready).trans
    (congrArg (fun r => Host.Outcome.next (finish 1 s r)) (privileged_allowed (f := ridgeActs d k) pl))

theorem ridgeActs_refused {d : Reg} {k : BitVec 3} {s : State} (free : s.strand.ridgeWait ≠ some k) (bad : ridgeStatus s k.toNat ≠ 0) :
    ridgeActs d k s = .done (setG s d (ridgeWord s k.toNat (ridgeStatus s k.toNat))) := (if_neg free).trans (if_neg bad)

theorem ridgeActs_proceeds {d : Reg} {k : BitVec 3} {s : State} (may : s.strand.ridgeWait = some k ∨ ridgeStatus s k.toNat = 0) :
    ridgeActs d k s = endRidge d k (ridgeBegun k s) := by
  unfold ridgeActs ridgeBegun
  split
  · rfl
  · next free => exact if_pos (may.resolve_left free)

theorem endRidge_waits {d : Reg} {k : BitVec 3} {s : State} (pending : stackPending k.toNat s = true) : endRidge d k s = .stall s :=
  if_pos pending

theorem endRidge_ends {d : Reg} {k : BitVec 3} {s : State} (idle : stackPending k.toNat s = false) :
    endRidge d k s = .done (setG (handOver k s) d (ridgeWord (handOver k s) k.toNat 0)) := if_neg (Bool.eq_false_iff.mp idle)

/-- The bit of a stack. -/
theorem stackBit (k : BitVec 3) : (BitVec.ofNat 8 (2 ^ k.toNat)).getLsbD k.toNat = true := by revert k; decide

/-- What has begun leaves the owner bits and memory. -/
theorem ridgeBegun_leaves (k : BitVec 3) (s : State) :
    (ridgeBegun k s).pkg.own = s.pkg.own ∧ (ridgeBegun k s).mem.mem = s.mem.mem ∧ ownNode (ridgeBegun k s) = ownNode s := by
  unfold ridgeBegun
  split <;> exact ⟨rfl, rfl, rfl⟩

/-- What a hand-over leaves. -/
theorem handOver_leaves (k : BitVec 3) (s : State) :
    (handOver k s).pkg.own = s.pkg.own ^^^ BitVec.ofNat 8 (2 ^ k.toNat) ∧ (handOver k s).strand.ridgeWait = none ∧
      (handOver k s).pkg.ridging.getLsbD k.toNat = false ∧ (handOver k s).mem.mem = s.mem.mem ∧
      ∀ a ∈ (handOver k s).mem.dirty, ¬(a / 2 ^ 48 = ownNode s ∧ a % 2 ^ 48 / 2 ^ 36 % 8 = k.toNat) := by
  refine ⟨rfl, rfl, ?_, rfl, fun a at_ here => ?_⟩
  · change (s.pkg.ridging &&& ~~~BitVec.ofNat 8 (2 ^ k.toNat)).getLsbD k.toNat = false
    rw [BitVec.getLsbD_and, BitVec.getLsbD_not, stackBit, Bool.not_true, Bool.and_false, Bool.and_false]
  · have kept := (List.mem_filter.mp at_).2
    dsimp only at kept
    rw [here.1, here.2, beq_self_eq_true, beq_self_eq_true] at kept
    exact Bool.false_ne_true kept

/-- What the beginning of a hand-over leaves. -/
theorem beginRidge_leaves (k : BitVec 3) (s : State) :
    (beginRidge k s).strand.ridgeWait = some k ∧ (beginRidge k s).pkg.ridging.getLsbD k.toNat = true ∧
      (beginRidge k s).mem.tlb.any (mapsStack k.toNat) = false ∧ (beginRidge k s).mem.mapCache.any (mapsStack k.toNat) = false ∧
      (beginRidge k s).mem.mem = s.mem.mem ∧
      ∀ j : Fin 8, j.val = k.toNat → (beginRidge k s).pkg.gated.contains (.selfRefresh j) = false := by
  obtain ⟨tlb, mapCache, _⟩ := invalidate_leaves (mapsStack k.toNat) (wakeAt (k.toNat * 2 ^ 36) s)
  refine ⟨rfl, ?_, tlb, mapCache, rfl, fun j same => ?_⟩
  · change (s.pkg.ridging ||| BitVec.ofNat 8 (2 ^ k.toNat)).getLsbD k.toNat = true
    rw [BitVec.getLsbD_or, stackBit, Bool.or_true]
  · refine Bool.eq_false_iff.mpr (fun there => ?_)
    have kept := (List.mem_filter.mp (List.contains_iff_mem.mp there)).2
    have stack : k.toNat * 2 ^ 36 / 2 ^ 36 % 8 = k.toNat := by
      rw [Nat.mul_div_cancel _ (by decide)]
      exact Nat.mod_eq_of_lt k.isLt
    dsimp only at kept
    rw [stack, same, bne_self_eq_false] at kept
    exact Bool.false_ne_true kept

end Sys2Proof.Machine
end

section
/-! The obligation about SAVEQ, RESTQ, MAPINV and RIDGE, from the lemmas of its parts. -/

namespace Sys2Proof.Machine

/-! ### What the saved image and the restored state hold, of the state at issue -/

/-- What SAVEQ leaves and writes. -/
theorem saveEnd_spec {s u : State} {a : Reg} {p : ImageAt} (placed : imageAt 1 (getG s a) s = .ok (p, u)) :
    let b := saveBegin u
    let v : State := saveStopped b
    let img := saveImage v
    let t := saveEnd p b
    let es := imageEntries v
    t.thatch.entries = [] ∧ t.thatch.dir = [] ∧ tkc t = 0 ∧ t.strand = u.strand ∧
      t.store = (writeImage p img v).store ∧ t.mem = { (writeImage p img v).mem with
        sweeps := s.mem.sweeps.map (fun x => if x.asid = s.sys.asid then { x with sent := none } else x) } ∧ img.length = 16384 ∧
      imgNat img 0 8 = 0x9401 ∧ imgNat img 8 8 = u.sys.coreid.toNat ∧ imgNat img 0x18 8 = u.sys.rnpool.toNat ∧
      imgNat img 0x20 8 = es.length % 2 ^ 64 ∧
      (∀ k e, k < 64 → es[k]? = some e → (img.drop (0x40 + 128 * k)).take 128 = entryImage e) ∧
      (∀ x : Bx, (img.drop (0x2040 + 32 * x.val)).take 32 = boxRegImage (getBox u x)) ∧
      imgNat img 0x2D80 8 = u.strand.cq.length % 2 ^ 64 ∧
      (∀ k v, k < 64 → u.strand.cq[k]? = some v → imgNat img (0x2DC0 + 4 * k) 4 = v.toNat) ∧
      imgNat img 0x2EC0 8 = u.strand.ras.length % 2 ^ 64 ∧
      (∀ k v, k < 16 → u.strand.ras[k]? = some v → imgNat img (0x2EC8 + 8 * k) 8 = v.toNat) ∧
      imgNat img 0x2F48 8 = u.sys.rasb.toNat := by
  intro b v img t es
  obtain ⟨only, sweeps⟩ := imageAt_ok placed
  have begun := begun_saveBegin u
  obtain ⟨strand, store, mem⟩ := saveEnd_leaves p b
  have strandV : v.strand = u.strand := begun.strand
  have sysV : v.sys = u.sys := begun.sys
  refine ⟨rfl, rfl, rfl, strand.trans begun.strand, store, mem.trans ?_, length_saveImage v, imgNat_version v, ?_, ?_,
    imgNat_count v, fun k e below at_ => slice_entry v below at_, fun x => ?_, ?_, fun k x below at_ => ?_, ?_,
    fun k x below at_ => ?_, ?_⟩
  · rw [begun.mem, begun.sys, only.sys, sweeps]
  · rw [← sysV]
    exact imgNat_core v
  · rw [← sysV]
    exact imgNat_rnpool v
  · rw [← getBox_of_store (t := v) begun.store x]
    exact slice_box v x
  · rw [← strandV]
    exact imgNat_queued v
  · rw [← strandV] at at_
    exact imgNat_queue v below at_
  · rw [← strandV]
    exact imgNat_returned v
  · rw [← strandV] at at_
    exact imgNat_return v below at_
  · rw [← sysV]
    exact imgNat_rasb v

/-- What RESTQ brings back and leaves. -/
theorem restore_spec (p : ImageAt) {u : State} (idle : tkc u = 0) :
    let img := readImage p u
    let asked := imageRequests p u
    let t := restore img asked
    let vs := savedEntries img
    (∀ x : Bx, getBox t x = boxRegOf ((img.drop (0x2040 + 32 * x.val)).take 32)) ∧
      t.strand.cq = (List.range (min 64 (imgNat img 0x2D80 8))).map (fun i => BitVec.ofNat 32 (imgNat img (0x2DC0 + 4 * i) 4)) ∧
      t.strand.ras = (List.range (min 16 (imgNat img 0x2EC0 8))).map (fun i => BitVec.ofNat 32 (imgNat img (0x2EC8 + 8 * i) 8)) ∧
      t.sys.rasb = BitVec.ofNat 64 (imgNat img 0x2F48 8) &&& 0x87FFFFEFFFFFFFFF ∧
      t.thatch.entries.map (fun e => (e.record, e.seq, e.index, e.flags, e.fold, e.remote)) =
        u.thatch.entries.map (fun e => (e.record, e.seq, e.index, e.flags, e.fold, e.remote)) ++
          vs.map (fun v => (v.record, v.seq, v.index, v.flags, savedFold v, savedRemote v)) ∧
      (∀ e ∈ t.thatch.entries.drop u.thatch.entries.length, (e.state = .pending ∨ e.state = .ready) ∧ e.work = none) ∧
      tkc t = (vs.filter (fun v => !savedFold v && !savedRemote v)).length ∧
      t.strand.g = u.strand.g ∧ t.strand.c = u.strand.c ∧ t.mem = asked.mem ∧ t.store.spad = u.store.spad := by
  intro img asked t vs
  have only := (imageRequests_onlyAsked p u).onlyMemory
  obtain ⟨boxes, strand, sys, mem, spad⟩ := restore_registers img asked
  have idleAsked : tkc asked = 0 := by
    unfold tkc
    rw [only.thatch]
    exact idle
  obtain ⟨entries, states, counted⟩ := restore_entries img asked idleAsked
  rw [only.thatch] at entries states
  refine ⟨boxes, ?_, ?_, ?_, entries, states, counted, ?_, ?_, mem, ?_⟩
  · rw [strand]
    rfl
  · rw [strand]
    rfl
  · rw [sys]
    rfl
  · rw [strand, ← only.strand]
    rfl
  · rw [strand, ← only.strand]
    rfl
  · rw [spad, only.store]

/-! ### The removals of MAPINV -/

theorem exec_mapinvAddr (a : Reg) (s : State) : exec (.mapinvAddr a) s =
    mapinv (fun s => some (mapsVa s.sys.asid (getG s a).toNat)) [a] (fun s => getG s a) s := rfl

theorem exec_mapinvSeg (a : Reg) (s : State) : exec (.mapinvSeg a) s =
    mapinv (fun s => if (getG s a).toNat < 64 then some (inSegment s (getG s a).toNat) else none) [a] (fun s => getG s a) s := rfl

theorem exec_mapinvAsid (a : Reg) (s : State) : exec (.mapinvAsid a) s =
    mapinv (fun s => if (getG s a).toNat < 8192 then some (fun t => t.asid.toNat == (getG s a).toNat) else none) [a]
      (fun s => getG s a) s := rfl

theorem exec_mapinvAll (s : State) : exec .mapinvAll s = mapinv (fun _ => some (fun _ => true)) [] (fun _ => 0) s := rfl

/-! ### The pending accesses of a hand-over -/

/-- The accesses of the window and of the copies that go to a stack, as a test of effects. -/
def pendingBy (into : Nat → Bool) (effect : State → Effect → Bool) (s : State) : Bool :=
  s.strand.copies.any (fun c => c.pages.any (fun p => into p.2)) ||
    s.thatch.entries.any (fun e => if recRst e.record then e.done && e.buffered.any (effect s) else
      match e.work with | some w => w.units.any (fun u => u.effects.any (effect s)) | none => false)

theorem pendingBy_stack {k : Nat} {effect : State → Effect → Bool} (same : ∀ s x, effect s x = effectAt s k x) (s : State) :
    pendingBy (inStack k) effect s = stackPending k s := by
  have effects : effect s = effectAt s k := funext (same s)
  exact (congrArg (fun f => pendingBy (inStack k) (fun _ => f) s) effects).trans rfl

/-- What RIDGE delivers behind a hand-over: the new owner. -/
theorem ridgeWord_moved (s : State) (k : Nat) : ridgeWord s k 0 = BitVec.ofNat 64 (ownerDie s k * 2 ^ 8) :=
  congrArg (BitVec.ofNat 64) (Nat.add_zero _)

/-- RIDGE at the privileged level (R307, R308). -/
theorem ridge_spec {d : Reg} {k : BitVec 3} {s : State} (ready : Ready [d] true s) (pl : s.sys.pl = true) :
    (s.strand.ridgeWait ≠ some k → ridgeStatus s k.toNat ≠ 0 → exec (.ridge d k) s =
      .next (finish 1 s (.done (setG s d (ridgeWord s k.toNat (ridgeStatus s k.toNat)))))) ∧
      (s.strand.ridgeWait = some k ∨ ridgeStatus s k.toNat = 0 →
        (stackPending k.toNat (ridgeBegun k s) = true → exec (.ridge d k) s = .next (stallAt (ridgeBegun k s))) ∧
        (stackPending k.toNat (ridgeBegun k s) = false → exec (.ridge d k) s = .next (finish 1 s
          (.done (setG (handOver k (ridgeBegun k s)) d (BitVec.ofNat 64 (ownerDie (handOver k (ridgeBegun k s)) k.toNat * 2 ^ 8))))))) := by
  have acts := exec_ridge (k := k) ready pl
  refine ⟨fun free bad => ?_, fun may => ⟨fun pending => ?_, fun idle => ?_⟩⟩
  · rw [acts, ridgeActs_refused free bad]
  · rw [acts, ridgeActs_proceeds may, endRidge_waits pending]
    rfl
  · rw [acts, ridgeActs_proceeds may, endRidge_ends idle, ridgeWord_moved]

/-- What a hand-over that has run its course leaves. -/
theorem moved_leaves (k : BitVec 3) (s : State) :
    (handOver k (ridgeBegun k s)).pkg.own = s.pkg.own ^^^ BitVec.ofNat 8 (2 ^ k.toNat) ∧
      (handOver k (ridgeBegun k s)).strand.ridgeWait = none ∧
      (handOver k (ridgeBegun k s)).pkg.ridging.getLsbD k.toNat = false ∧
      (handOver k (ridgeBegun k s)).mem.mem = s.mem.mem ∧
      ∀ a ∈ (handOver k (ridgeBegun k s)).mem.dirty, ¬(a / 2 ^ 48 = ownNode s ∧ a % 2 ^ 48 / 2 ^ 36 % 8 = k.toNat) := by
  obtain ⟨own, mem, node⟩ := ridgeBegun_leaves k s
  have moved := handOver_leaves k (ridgeBegun k s)
  rwa [own, mem, node] at moved

/-- MAPINV at the privileged level, of the operands that name nothing (R268). -/
theorem mapinv_unnamed {a : Reg} {s : State} (ready : Ready [a] true s) (pl : s.sys.pl = true) (calm : s.sys.spec = false) :
    (64 ≤ (getG s a).toNat → exec (.mapinvSeg a) s = .next (trapEntry { cause := .seg, faddr := some (getG s a) } false none s)) ∧
      (8192 ≤ (getG s a).toNat →
        exec (.mapinvAsid a) s = .next (trapEntry { cause := .seg, faddr := some (getG s a) } false none s)) :=
  ⟨fun above => mapinv_traps (p := fun s => if (getG s a).toNat < 64 then some (inSegment s (getG s a).toNat) else none)
      (a := fun s => getG s a) ready pl (if_neg (not_lt.mpr above)) calm (exec_mapinvSeg a s),
    fun above => mapinv_traps
      (p := fun s => if (getG s a).toNat < 8192 then some (fun t => t.asid.toNat == (getG s a).toNat) else none)
      (a := fun s => getG s a) ready pl (if_neg (not_lt.mpr above)) calm (exec_mapinvAsid a s)⟩

/-- Settles O52: each instruction by what it does at issue; the image by the places of its parts, the restored window by the
restoration of one entry, and the hand-over by its two halves. -/
theorem saveMapRidge : Obligations.SaveMapRidge := by
  unfold Obligations.SaveMapRidge
  intro s d a k
  refine ⟨fun ready p u => ?_, fun ready calm t u other => ⟨fun refused => ?_, fun refused => ?_⟩,
    fun ready p u held placed same free apart => ?_, fun ready p u placed free apart idle empty clean version good => ?_,
    fun pl => ?_⟩
  · intro held met
    exact ⟨fun placed => issue_stall ready (saveqActs_held placed met), fun placed => issue_stall ready (restqActs_held placed met)⟩
  · exact issue_trapIn ready calm (viewWaits_other s other) (saveqActs_refused refused)
  · exact issue_trapIn ready calm (viewWaits_other s other) (restqActs_refused refused)
  · have unheld : imageHeld p = false := same.symm.trans free
    refine ⟨fun may => ⟨?_, saveEnd_spec placed⟩, fun waits => ?_⟩
    · rw [exec_saveq, issue_ready 1 _ ready, saveqActs_saves placed unheld apart may]
    · exact issue_stall ready (saveqActs_waits placed unheld apart waits)
  · refine ⟨?_, restore_spec p idle⟩
    rw [exec_restq, issue_ready 1 _ ready, restqActs_restores placed free apart idle empty clean version good]
  · intro removes
    refine ⟨fun ready => ⟨?_, fun below => ?_, fun below => ?_,
      fun above calm => (mapinv_unnamed ready pl calm).1 above, fun above calm => (mapinv_unnamed ready pl calm).2 above⟩,
      fun ready => ?_, fun ready => ?_⟩
    · exact mapinv_removes ready pl rfl (exec_mapinvAddr a s)
    · exact mapinv_removes ready pl (if_pos below) (exec_mapinvSeg a s)
    · exact mapinv_removes ready pl (if_pos below) (exec_mapinvAsid a s)
    · exact mapinv_removes ready pl rfl (exec_mapinvAll s)
    · intro own refused begun moved into effect pending
      have stack : ∀ s, pending s = stackPending k.toNat s := pendingBy_stack (fun s x => by cases x <;> rfl)
      obtain ⟨refuses, proceeds⟩ := ridge_spec ready pl
      refine ⟨refuses, fun may => ⟨fun waits => ?_, fun over_ => ?_, moved_leaves k s⟩, beginRidge_leaves k s⟩
      · exact (proceeds may).1 ((stack begun).symm.trans waits)
      · exact (proceeds may).2 ((stack begun).symm.trans over_)

end Sys2Proof.Machine
end

section
/-! What a posted record leaves (R159): its entry or pair of entries, the registers that it steps, and the pip that it obtains. -/

namespace Sys2Proof.Machine

/-! ### Entry -/

/-- What the entry of a record adds to the window: itself, or itself renamed and the fold of its buffer. -/
structure Entered (e : Entry) (s : State) (n : Entry) : Prop where
  slot : n.slot = s.thatch.nextSlot
  seq : n.seq = s.thatch.nextSeq
  record : n.record = e.record
  state : n.state = .pending
  pip : n.pip = e.pip
  counts : countsTkc n = countsTkc e
  boxes : n.boxes = { redirectAll s e.boxes with w := n.boxes.w }

/-- A record that is not renamed is the one new entry. -/
structure EnteredPlain (e : Entry) (s t : State) (n : Entry) : Prop extends Entered e s n where
  keeps : n.boxes.w = e.boxes.w
  entries : t.thatch.entries = s.thatch.entries ++ [n]
  nextSeq : t.thatch.nextSeq = s.thatch.nextSeq + 1

/-- A renamed record comes with the fold of its buffer, and with a directory entry. -/
structure EnteredRenamed (e : Entry) (s t : State) (n f : Entry) (d : DirEntry) : Prop extends Entered e s n where
  entries : t.thatch.entries = s.thatch.entries ++ [n, f]
  nextSeq : t.thatch.nextSeq = s.thatch.nextSeq + 2
  listed : d ∈ t.thatch.dir
  recSlot : d.recSlot = n.slot
  foldSlot : d.foldSlot = n.slot + 1
  home : e.boxes.w = some d.home
  buffer : n.boxes.w = some { d.home with rb := some { off := d.off, o := d.home.o, e := d.home.e } }
  foldAt : f.slot = n.slot + 1
  fold : f.fold = true
  foldHome : f.boxes.w = some d.home
  foldReads : f.boxes.a = n.boxes.w
  foldCounts : countsTkc f = false

theorem countsTkc_fold {f : Entry} (fold : f.fold = true) : countsTkc f = false := by
  unfold countsTkc
  rw [fold, Bool.not_true, Bool.and_false, Bool.false_and]

/-- A box that a record tracks is its W. -/
theorem w_of_trackedW {e : Entry} {w : RBox} (tracked : trackedW e = some w) : e.boxes.w = some w := by
  unfold trackedW at tracked
  split at tracked
  · cases tracked
  · exact tracked

/-- An entry with its number, its redirected boxes and its edges. -/
def numberedEntry (e : Entry) (s : State) : Entry :=
  let e : Entry :=
    { e with slot := s.thatch.nextSlot, seq := s.thatch.nextSeq, boxes := redirectAll s e.boxes, state := .pending }
  { e with edges := s.thatch.entries.flatMap (fun x => writeEdges s (readBoxes e.boxes) (trackedW e) x ++ readEdges s (trackedW e) x) }

/-- The entry of a record whose W is renamed. -/
def renamedEntry (e : Entry) (w : RBox) (off : Nat) : Entry :=
  { e with
    boxes := { e.boxes with w := some { w with rb := some { off := off, o := w.o, e := w.e } } }
    edges := e.edges.filter (fun d => d.kind == .write) }

/-- The fold of its buffer. -/
def foldEntry (e : Entry) (w : RBox) (off : Nat) : Entry :=
  { slot := e.slot + 1, record := foldRecord
    boxes := { w := some w, a := some { w with rb := some { off := off, o := w.o, e := w.e } } }, seq := e.seq + 1
    state := .pending, edges := { kind := .write, slot := e.slot } :: e.edges.filter (fun d => d.kind == .read), fold := true
    own := e.own, ahead := e.ahead }

theorem enterRenamed_entries (e : Entry) (w : RBox) (off : Nat) (s : State) :
    (enterRenamed e w off s).thatch.entries = s.thatch.entries ++ [renamedEntry e w off, foldEntry e w off] :=
  List.append_assoc ..

theorem enter_cases (e : Entry) (room : Nat) (s : State) :
    (∃ n, EnteredPlain e s (enter e room s) n) ∨ ∃ n f d, EnteredRenamed e s (enter e room s) n f d := by
  unfold enter
  dsimp only
  split
  · next off wb _ tracked =>
    refine .inr ⟨renamedEntry (numberedEntry e s) wb off, foldEntry (numberedEntry e s) wb off,
      { home := wb, off := off, bytes := bufBytes s wb, recSlot := s.thatch.nextSlot, foldSlot := s.thatch.nextSlot + 1
        isOpen := true }, ⟨rfl, rfl, rfl, rfl, rfl, rfl, rfl⟩, enterRenamed_entries (numberedEntry e s) wb off s, rfl,
      List.mem_append_right _ (List.mem_singleton.mpr rfl), rfl, rfl, ?_, rfl, rfl, rfl, rfl, rfl, countsTkc_fold rfl⟩
    exact w_of_trackedW tracked
  · exact .inl ⟨numberedEntry e s, ⟨rfl, rfl, rfl, rfl, rfl, rfl, rfl⟩, rfl, rfl, rfl⟩

/-- Entry changes the window alone. -/
theorem enter_only (e : Entry) (room : Nat) (s : State) : enter e room s = { s with thatch := (enter e room s).thatch } := by
  unfold enter
  dsimp only
  split <;> rfl

/-! ### The registers that a record steps -/

theorem getBox_setBox (s : State) (x y : Bx) (b : BoxReg) : getBox (setBox s x b) y = if y = x then b else getBox s y := by
  unfold getBox setBox
  dsimp only
  rw [Fin.getElem_fin, Vector.getElem_set]
  split
  · next same => rw [if_pos (Fin.ext same.symm)]
  · next other => rw [if_neg fun same => other (congrArg Fin.val same.symm)]; rfl

/-- Stepping registers, each once. -/
theorem foldl_stepBox {l : List Nat} (once : l.Nodup) (small : ∀ n ∈ l, n < 64) (s : State) (x : Bx) :
    getBox (l.foldl (fun s n => setBox s (Fin.ofNat 64 n) (stepBox (getBox s (Fin.ofNat 64 n)))) s) x =
      if x.val ∈ l then stepBox (getBox s x) else getBox s x := by
  induction l generalizing s with
  | nil => exact (if_neg List.not_mem_nil).symm
  | cons n l ih =>
    obtain ⟨new, rest⟩ := List.nodup_cons.mp once
    have below : n < 64 := small n List.mem_cons_self
    have named : (x = Fin.ofNat 64 n) ↔ x.val = n := by
      rw [Fin.ext_iff, Fin.val_ofNat, Nat.mod_eq_of_lt below]
    rw [List.foldl_cons, ih rest (fun m at_ => small m (List.mem_cons_of_mem n at_)), getBox_setBox]
    by_cases same : x.val = n
    · have first : x = Fin.ofNat 64 n := named.mpr same
      rw [if_neg (same ▸ new), if_pos first, if_pos (List.mem_cons.mpr (.inl same)), ← first]
    · rw [if_neg (fun first => same (named.mp first))]
      simp only [List.mem_cons, same, false_or]

theorem boxRegs_below (r : Rec) : ∀ n ∈ boxRegs r, n < 64 := by
  have field (lo : Nat) : rf r lo 6 < 64 := Nat.mod_lt _ (by decide)
  intro n at_
  have there := List.mem_dedup.mp at_
  simp only [List.mem_append] at there
  rcases there with ((there | there) | there) | there <;> split at there <;>
    first | (rw [List.mem_singleton.mp there]; exact field _) | exact absurd there List.not_mem_nil

/-- Each register that the box fields of a record name is stepped once. -/
theorem getBox_stepBoxes (r : Rec) (s : State) (x : Bx) :
    getBox (stepBoxes r s) x = if x.val ∈ boxRegs r then stepBox (getBox s x) else getBox s x :=
  foldl_stepBox (List.nodup_dedup _) (boxRegs_below r) s x

/-- From `s` to `t` the box registers alone have changed. -/
def OnlyBoxes (s t : State) : Prop := t = { s with store := { s.store with boxes := t.store.boxes } }

theorem stepBoxes_only (r : Rec) (s : State) : OnlyBoxes s (stepBoxes r s) := by
  unfold stepBoxes
  generalize boxRegs r = l
  induction l generalizing s with
  | nil => exact rfl
  | cons n l ih =>
    have rest := ih (setBox s (Fin.ofNat 64 n) (stepBox (getBox s (Fin.ofNat 64 n))))
    unfold OnlyBoxes at rest ⊢
    rw [List.foldl_cons]
    exact rest

/-! ### The state behind a POST -/

/-- The registers that a posted record steps, and behind them those of the image of an F.POST. -/
def steppedBoxes (r : Rec) (img : Option (Rec × Boxes)) (s : State) : State :=
  match img with
  | some i => stepBoxes i.1 (stepBoxes r s)
  | none => stepBoxes r s

theorem steppedBoxes_only (r : Rec) (img : Option (Rec × Boxes)) (s : State) : OnlyBoxes s (steppedBoxes r img s) := by
  unfold steppedBoxes
  split
  · have one := stepBoxes_only r s
    next i =>
    have two := stepBoxes_only i.1 (stepBoxes r s)
    unfold OnlyBoxes at one two ⊢
    rw [two, one]
  · exact stepBoxes_only r s

/-- The entry of a posted record, before the window gives it a number. -/
def postedEntry (r : Rec) (b : Boxes) (s : State) : Entry :=
  { slot := 0, record := r, boxes := b, seq := 0, state := .pending
    pip := if obtainsPip r then freePip s else none, dep := boundDep s r, image := postedImage s r }

/-- The state behind the entry of a record and the step of its registers. -/
def postedState (r : Rec) (b : Boxes) (s : State) : State :=
  steppedBoxes r (postedImage s r) (enter (postedEntry r b s) 2 s)

/-- The state with the pip obtained. -/
def postedPip (r : Rec) (b : Boxes) (s : State) : State :=
  match (if obtainsPip r then freePip s else none) with
  | some n => obtainPip r n s.thatch.nextSeq (postedState r b s)
  | none => postedState r b s

theorem postedState_only (r : Rec) (b : Boxes) (s : State) :
    (postedState r b s).thatch = (enter (postedEntry r b s) 2 s).thatch ∧ (postedState r b s).strand = s.strand ∧
      (postedState r b s).fab = s.fab := by
  have boxes := steppedBoxes_only r (postedImage s r) (enter (postedEntry r b s) 2 s)
  have window := enter_only (postedEntry r b s) 2 s
  unfold postedState OnlyBoxes at *
  rw [boxes]
  refine ⟨rfl, ?_, ?_⟩ <;> rw [window]

theorem postedPip_window (r : Rec) (b : Boxes) (s : State) :
    (postedPip r b s).thatch = (enter (postedEntry r b s) 2 s).thatch ∧
      (postedPip r b s).store = (postedState r b s).store := by
  unfold postedPip
  split
  · unfold obtainPip
    refine ⟨?_, ?_⟩
    · rw [setG_eq]
      exact (postedState_only r b s).1
    · rw [setG_eq]
      rfl
  · exact ⟨(postedState_only r b s).1, rfl⟩

/-- Without speculation a record enters as POST describes it. -/
theorem enterPosted_eq (r : Rec) (b : Boxes) {s : State} (calm : s.sys.spec = false) :
    enterPosted r b s = releaseAll (postedPip r b s) := by
  unfold enterPosted postedPip postedState postedEntry steppedBoxes
  rw [calm, Bool.false_and] <;> rfl

end Sys2Proof.Machine
end

section
/-! POST and POSTM (R159): what they leave, where they wait and where they trap. -/

namespace Sys2Proof.Machine

/-! ### What the state behind a POST holds -/

theorem countsTkc_ready (s : State) (l : List Entry) :
    ((l.map (fun e => if mayRelease s e then { e with state := .ready } else e)).filter countsTkc).length =
      (l.filter countsTkc).length := filter_released s l

/-- A released entry differs in its state alone. -/
def released (s : State) (e : Entry) : Entry := if mayRelease s e then { e with state := .ready } else e

theorem released_cases (s : State) (e : Entry) : released s e = e ∨ released s e = { e with state := .ready } := by
  unfold released
  split
  · exact .inr rfl
  · exact .inl rfl

/-- A field other than its state stands when an entry is released. -/
theorem released_field {β : Type} (f : Entry → β) (kept : ∀ e : Entry, f { e with state := .ready } = f e) (s : State) (e : Entry) :
    f (released s e) = f e := by
  rcases released_cases s e with same | ready
  · rw [same]
  · rw [ready, kept]

theorem releaseAll_window (s : State) : (releaseAll s).thatch.entries = s.thatch.entries.map (released s) := rfl

/-- A new entry stands in the window, released or not. -/
theorem mem_releaseAll {s : State} {l m : List Entry} (window : s.thatch.entries = l ++ m) {n : Entry} (at_ : n ∈ m) :
    released s n ∈ (releaseAll s).thatch.entries := by
  rw [releaseAll_window, window, List.map_append]
  exact List.mem_append_right _ (List.mem_map_of_mem at_)

theorem length_releaseAll (s : State) : (releaseAll s).thatch.entries.length = s.thatch.entries.length := List.length_map _

section Posted
variable (r : Rec) (b : Boxes) (s : State)

/-- The pip that a posted record obtains. -/
def postedPipNo (r : Rec) (s : State) : Option Nat := if obtainsPip r then freePip s else none

/-- The new entry, and what stands with it. -/
theorem posted_entry :
    ∃ n ∈ (releaseAll (postedPip r b s)).thatch.entries, n.slot = s.thatch.nextSlot ∧ n.seq = s.thatch.nextSeq ∧ n.record = r ∧
      (n.state = .pending ∨ n.state = .ready) ∧ n.pip = postedPipNo r s ∧ n.boxes = { redirectAll s b with w := n.boxes.w } ∧
      ((n.boxes.w = b.w ∧ (releaseAll (postedPip r b s)).thatch.entries.length = s.thatch.entries.length + 1 ∧
          (releaseAll (postedPip r b s)).thatch.nextSeq = s.thatch.nextSeq + 1) ∨
        (∃ d ∈ (releaseAll (postedPip r b s)).thatch.dir, ∃ f ∈ (releaseAll (postedPip r b s)).thatch.entries,
          d.recSlot = n.slot ∧ d.foldSlot = n.slot + 1 ∧ b.w = some d.home ∧
          n.boxes.w = some { d.home with rb := some { off := d.off, o := d.home.o, e := d.home.e } } ∧
          f.slot = n.slot + 1 ∧ f.fold = true ∧ f.boxes.w = some d.home ∧ f.boxes.a = n.boxes.w ∧
          (releaseAll (postedPip r b s)).thatch.entries.length = s.thatch.entries.length + 2 ∧
          (releaseAll (postedPip r b s)).thatch.nextSeq = s.thatch.nextSeq + 2)) := by
  have window := (postedPip_window r b s).1
  generalize postedPip r b s = p at window ⊢
  have stands {n : Entry} (entered : Entered (postedEntry r b s) s n) : (released p n).slot = s.thatch.nextSlot ∧
      (released p n).seq = s.thatch.nextSeq ∧ (released p n).record = r ∧
      ((released p n).state = .pending ∨ (released p n).state = .ready) ∧ (released p n).pip = postedPipNo r s ∧
      (released p n).boxes = { redirectAll s b with w := (released p n).boxes.w } := by
    rcases released_cases p n with same | ready
    · rw [same]
      exact ⟨entered.slot, entered.seq, entered.record, .inl entered.state, entered.pip, entered.boxes⟩
    · rw [ready]
      exact ⟨entered.slot, entered.seq, entered.record, .inr rfl, entered.pip, entered.boxes⟩
  have boxes (n : Entry) : (released p n).boxes = n.boxes := released_field Entry.boxes (fun _ => rfl) p n
  have slot (n : Entry) : (released p n).slot = n.slot := released_field Entry.slot (fun _ => rfl) p n
  rcases enter_cases (postedEntry r b s) 2 s with ⟨n, plain⟩ | ⟨n, f, d, renamed⟩
  · have entries := (congrArg Thatch.entries window).trans plain.entries
    obtain ⟨slotN, seqN, recordN, stateN, pipN, boxesN⟩ := stands plain.toEntered
    refine ⟨released p n, mem_releaseAll entries (List.mem_singleton.mpr rfl), slotN, seqN, recordN, stateN, pipN, boxesN,
      .inl ⟨?_, ?_, (congrArg Thatch.nextSeq window).trans plain.nextSeq⟩⟩
    · rw [boxes]
      exact plain.keeps
    · rw [length_releaseAll, entries, List.length_append, List.length_singleton]
  · have entries := (congrArg Thatch.entries window).trans renamed.entries
    obtain ⟨slotN, seqN, recordN, stateN, pipN, boxesN⟩ := stands renamed.toEntered
    refine ⟨released p n, mem_releaseAll entries List.mem_cons_self, slotN, seqN, recordN, stateN, pipN, boxesN,
      .inr ⟨d, (congrArg Thatch.dir window).symm ▸ renamed.listed, released p f,
        mem_releaseAll entries (List.mem_cons_of_mem _ (List.mem_singleton.mpr rfl)), ?_⟩⟩
    rw [slot n, slot f, boxes n, boxes f]
    refine ⟨renamed.recSlot, renamed.foldSlot, renamed.home, renamed.buffer, renamed.foldAt,
      (released_field Entry.fold (fun _ => rfl) p f).trans renamed.fold, renamed.foldHome, renamed.foldReads, ?_,
      (congrArg Thatch.nextSeq window).trans renamed.nextSeq⟩
    rw [length_releaseAll, entries, List.length_append, List.length_cons, List.length_singleton]

/-- TKC grows by one. -/
theorem posted_tkc : tkc (releaseAll (postedPip r b s)) = tkc s + 1 := by
  have window := (postedPip_window r b s).1
  have counted : countsTkc (postedEntry r b s) = true := rfl
  unfold tkc
  rw [releaseAll_window, show released (postedPip r b s) = fun e => if mayRelease (postedPip r b s) e then { e with state := .ready } else e
    from rfl, filter_released, window]
  rcases enter_cases (postedEntry r b s) 2 s with ⟨n, plain⟩ | ⟨n, f, d, renamed⟩
  · rw [plain.entries, List.filter_append, List.length_append, List.filter_cons_of_pos (plain.counts.trans counted),
      List.filter_nil, List.length_singleton]
  · rw [renamed.entries, List.filter_append, List.length_append, List.filter_cons_of_pos (renamed.counts.trans counted),
      List.filter_cons_of_neg (by rw [renamed.foldCounts]; decide), List.filter_nil, List.length_singleton]

/-- The registers that the box fields name are stepped. -/
theorem posted_boxes (plain : postedImage s r = none) (x : Bx) :
    getBox (releaseAll (postedPip r b s)) x = if x.val ∈ boxRegs r then stepBox (getBox s x) else getBox s x := by
  have store : (releaseAll (postedPip r b s)).store = (postedState r b s).store := (postedPip_window r b s).2
  have entered : (enter (postedEntry r b s) 2 s).store = s.store := by rw [enter_only]
  rw [getBox_of_store store, postedState, plain, steppedBoxes, getBox_stepBoxes, getBox_of_store entered]

/-- The pip that is obtained is in flight, and its number delivered. -/
theorem posted_pip {n : Nat} (got : postedPipNo r s = some n) :
    getPip (releaseAll (postedPip r b s)) n = { state := .inflight, seq := s.thatch.nextSeq } ∧
      (recGres r ≠ 0 → getG (releaseAll (postedPip r b s)) (recGres r) = BitVec.ofNat 64 n) := by
  have state : postedPip r b s = obtainPip r n s.thatch.nextSeq (postedState r b s) := by
    unfold postedPip
    rw [show (if obtainsPip r then freePip s else none) = some n from got]
  have kept : ({ state := .inflight, seq := s.thatch.nextSeq } : Pip) ≠ {} := fun same => PipState.noConfusion (congrArg Pip.state same)
  rw [state]
  refine ⟨?_, fun named => ?_⟩
  · refine Eq.trans ?_ (getPip_setPip n kept (postedState r b s))
    unfold obtainPip getPip releaseAll
    rw [setG_eq]
  · exact getG_setG_same (setPip n { state := .inflight, seq := s.thatch.nextSeq } (postedState r b s)) (recGres r) (BitVec.ofNat 64 n) named

theorem posted_registers (without : postedPipNo r s = none) : (releaseAll (postedPip r b s)).strand.g = s.strand.g := by
  have state : postedPip r b s = postedState r b s := by
    unfold postedPip
    rw [show (if obtainsPip r then freePip s else none) = none from without]
  rw [state]
  exact congrArg Strand.g (postedState_only r b s).2.1

end Posted

/-! ### The end of the checks -/

theorem imageMeets_of_ready {r : Rec} {u : State} {b : Boxes} (ready : postWaits u r b = false) : imageMeets u r = false := by
  unfold postWaits at ready
  simp only [Bool.or_eq_false_iff] at ready
  obtain ⟨⟨⟨_, image⟩, _⟩, _⟩ := ready
  exact image

section Ends
variable {r : Rec} {u : State} {b : Boxes} (calm : u.sys.spec = false)
include calm

theorem madeRecord_calm : madeRecord u r = r := by
  unfold madeRecord
  rw [calm]
  rfl

theorem postRecord_held (met : imageMeets u r = true) (good : fieldsBad r = false) (may : (taskPriv r && !u.sys.pl) = false) :
    postRecord r u = .stall u := by
  unfold postRecord
  rw [madeRecord_calm calm]
  exact if_pos (by rw [met, good, may]; rfl)

/-- A record whose image no copy meets, or whose fields are refused, is checked. -/
theorem postRecord_refused (apart : imageMeets u r = false ∨ fieldsBad r = true ∨ (taskPriv r && !u.sys.pl) = true) {c : Cause}
    (refused : checkRecord r u = .error c) : postRecord r u = .trap { cause := c } := by
  unfold postRecord
  rw [madeRecord_calm calm]
  refine (if_neg ?_).trans ?_
  · rcases apart with free | bad | bad
    · simp [free]
    · simp [bad]
    · simp [bad]
  · rw [refused]

variable (accepted : checkRecord r u = .ok b)
include accepted

theorem postRecord_waits (waits : postWaits u r b = true) : postRecord r u = .stall u := by
  unfold postRecord
  rw [madeRecord_calm calm]
  dsimp only
  split
  · rfl
  · rw [accepted]
    exact if_pos (by rw [waits, Bool.or_true])

theorem postRecord_enters (ready : postWaits u r b = false) : postRecord r u = .done (releaseAll (postedPip r b u)) := by
  unfold postRecord
  rw [madeRecord_calm calm]
  refine (if_neg (by rw [imageMeets_of_ready ready]; simp)).trans ?_
  rw [accepted]
  refine (if_neg (by rw [ready, calm]; simp)).trans ?_
  rw [enterPosted_eq r b calm]

end Ends

/-- A cause of the checks alone traps as it is: it names no address and no line. -/
theorem consumedBy_bare (c : Cause) (s : State) : consumedBy { cause := c } s = s := by
  unfold consumedBy
  rw [walkedBy_none s rfl]
  cases c <;> rfl


/-! ### POST and POSTM -/

theorem finish_traps {size : BitVec 32} {s : State} {t : Trap} (spec : s.sys.spec = false) (other : t.cause ≠ .brk) (bare : consumedBy t s = s) :
    finish size s (.trap t) = trapEntry t false none s := by
  refine (if_neg ?_).trans ?_
  · rw [spec, viewWaits_other s other]
    decide
  · rw [bare]

section Posts
variable {s u : State} {r : Rec} {regs : List Reg} {size : BitVec 32} {f : State → Res}

/-- An instruction that acts as the end of a POST does, on the state `u` behind its reads. -/
structure PostsAs (size : BitVec 32) (r : Rec) (s u : State) (i : Instr) : Prop where
  acts : exec i s = .next (finish size s (postRecord r u))
  spec : s.sys.spec = false
  calm : u.sys.spec = false

theorem PostsAs.of_issue {i : Instr} (ready : Ready regs false s) (spec : s.sys.spec = false) (calm : u.sys.spec = false)
    (is : exec i s = issue regs false size f s) (here : f s = postRecord r u) : PostsAs size r s u i :=
  ⟨by rw [is, issue_ready size f ready, here], spec, calm⟩

variable {i : Instr} (posts : PostsAs size r s u i) {b : Boxes}
include posts

theorem PostsAs.enters (accepted : checkRecord r u = .ok b) (ready : postWaits u r b = false) :
    exec i s = .next (finish size s (.done (releaseAll (postedPip r b u)))) := by
  rw [posts.acts, postRecord_enters posts.calm accepted ready]

theorem PostsAs.waits (accepted : checkRecord r u = .ok b) (waits : postWaits u r b = true) : exec i s = .next (stallAt u) := by
  rw [posts.acts, postRecord_waits posts.calm accepted waits]
  rfl

theorem PostsAs.held (met : imageMeets u r = true) (good : fieldsBad r = false) (may : (taskPriv r && !u.sys.pl) = false) :
    exec i s = .next (stallAt u) := by
  rw [posts.acts, postRecord_held posts.calm met good may]
  rfl

theorem PostsAs.refused (apart : imageMeets u r = false ∨ fieldsBad r = true ∨ (taskPriv r && !u.sys.pl) = true) {c : Cause}
    (refused : checkRecord r u = .error c) (other : c ≠ .brk) : exec i s = .next (trapEntry { cause := c } false none s) := by
  rw [posts.acts, postRecord_refused posts.calm apart refused, finish_traps posts.spec other (consumedBy_bare c s)]

end Posts

end Sys2Proof.Machine
end

section
/-! The checks of a record by its fields (R68, R69): the rows of the tasks, and what each refuses. -/

namespace Sys2Proof.Machine

/-! ### The rows of the tasks -/

/-- The tasks: engine; TOP; boxes required and allowed besides (W 8, A 4, B 2, C 1); the assigned bits of MOD, IMM64 and XF; GV. -/
def taskRows : List (Nat × List Nat × Nat × Nat × Nat × Nat × Nat × Nat) :=
  let all := 2 ^ 64 - 1
  [(0, [0x01, 0x02], 14, 0, 0, 0, 0, 0), (0, [0x03], 15, 0, 0, 0xFF, 0, 0), (0, [0x04, 0x05], 8, 0, 0, 0, 0, 0),
   (1, [0x01, 0x02, 0x03, 0x0B, 0x0C], 14, 0, 7, 0, 0, 0), (1, [0x04], 15, 0, 7, 0, 0, 0), (1, [0x05], 14, 0, 3, 0, 0, 0),
   (1, [0x06, 0x07, 0x08, 0x09, 0x0A, 0x0F, 0x10, 0x11, 0x45], 12, 0, 3, 0, 0, 0), (1, [0x0D, 0x0E], 12, 0, 7, 0, 0, 0),
   (1, [0x12], 12, 0, 3, 0xFFFF, 0, 0), (1, [0x20, 0x21, 0x22], 12, 2, 0, all, 0, 0), (1, [0x23, 0x28, 0x29], 12, 0, 0, 0, 0, 0),
   (1, [0x24, 0x25, 0x26], 12, 0, 0, 0x3F, 0, 0), (1, [0x27], 12, 2, 4, all, 0, 0), (1, [0x30], 14, 0, 0, 7, 0, 0),
   (1, [0x31], 15, 0, 0, 0, 0, 0), (1, [0x38, 0x39], 12, 0, 7, 7, 0, 0), (1, [0x3A, 0x3B, 0x3C], 4, 0, 0, 0, 0, 1),
   (1, [0x40], 8, 0, 7, all, 0, 0), (1, [0x41], 13, 0, 0, 0, 0, 2), (1, [0x42, 0x43], 14, 0, 0, 0, 0, 0),
   (1, [0x44], 12, 0, 4, 0, 1, 0),
   (2, [0x01], 12, 0, 0, 0, 0, 0), (2, [0x02], 12, 0, 0, 0xFF, 0, 0), (2, [0x03], 12, 0, 0, 0xF, 0, 0),
   (3, [0x01, 0x06, 0x07, 0x08, 0x09], 12, 0, 0, 0, 0, 0), (3, [0x02], 4, 8, 0, 0, 0, 1), (3, [0x03], 6, 0, 0, 0, 0, 1),
   (3, [0x04], 8, 0, 0, all, 0, 0), (3, [0x05], 8, 0, 1, 0xFFFF, 0, 0),
   (3, [0x0A], 0, 0, 1, 0x7FFFFFFFF8000, 0xFFFFFFFFF8000, 2), (3, [0x0B], 0, 0, 0, all, 0xFFFFFFFF803F, 2),
   (4, [0x01], 12, 0, 0, 0, 0x1FF, 0), (4, [0x02], 12, 0, 0, 0, 0x1FF, 1), (4, [0x03], 12, 0, 0, 0, 0, 0),
   (4, [0x04], 8, 0, 0xF, all, all, 2), (4, [0x05], 0, 0, 0, 0x7FFFFF, 0x1FFFFF, 0), (4, [0x06], 0, 0, 0, all, 0x1FF, 0),
   (4, [0x07], 15, 0, 0, 0, 0, 2), (4, [0x08], 12, 0, 7, 0x73FFFFFFF, 0, 0), (4, [0x09], 12, 0, 0, 0x7FFF, 0x1FF, 2)]

/-- The bits of the uses of one kind (W 8, A 4, B 2, C 1). -/
def useBits (u : Use) (p : Shape) : Nat :=
  (if p.w = u then 8 else 0) + (if p.a = u then 4 else 0) + (if p.b = u then 2 else 0) + (if p.c = u then 1 else 0)

/-- The row that a shape makes. -/
def rowOf (p : Shape) : Nat × Nat × Nat × Nat × Nat × Nat := (useBits .req p, useBits .opt p, p.mod, p.imm, p.xf, p.gv)

/-- Every row is the shape of each of its tasks. -/
theorem taskRows_shapes : ∀ x ∈ taskRows, ∀ top ∈ x.2.1, (taskOf x.1 top).map (fun t => rowOf (shapeOf t)) = some x.2.2 := by decide

/-- Every task has a row. -/
theorem taskRows_complete {eng top : Nat} {t : Task} (is : taskOf eng top = some t) : ∃ x ∈ taskRows, x.1 = eng ∧ top ∈ x.2.1 := by
  unfold taskOf at is
  split at is <;> (try split at is) <;> first | decide | exact absurd is (by simp)

/-! ### What a row refuses -/

theorem useBits_req (p : Shape) : (useBits .req p / 2 ^ 3 % 2 = 1 ↔ p.w = .req) ∧ (useBits .req p / 2 ^ 2 % 2 = 1 ↔ p.a = .req) ∧
    (useBits .req p / 2 ^ 1 % 2 = 1 ↔ p.b = .req) ∧ (useBits .req p / 2 ^ 0 % 2 = 1 ↔ p.c = .req) := by
  unfold useBits
  split_ifs <;> simp_all

theorem useBits_used (p : Shape) : ((useBits .req p + useBits .opt p) / 2 ^ 3 % 2 = 0 ↔ p.w = .no) ∧
    ((useBits .req p + useBits .opt p) / 2 ^ 2 % 2 = 0 ↔ p.a = .no) ∧
    ((useBits .req p + useBits .opt p) / 2 ^ 1 % 2 = 0 ↔ p.b = .no) ∧
    ((useBits .req p + useBits .opt p) / 2 ^ 0 % 2 = 0 ↔ p.c = .no) := by
  unfold useBits
  obtain ⟨w, a, b, c, _, _, _, _⟩ := p
  cases w <;> cases a <;> cases b <;> cases c <;> simp

/-- A bit field is zero or one. -/
theorem rf_bit (r : Rec) (lo : Nat) : rf r lo 1 = 0 ∨ rf r lo 1 = 1 := by
  have small : rf r lo 1 < 2 := Nat.mod_lt _ (by decide)
  omega

theorem useBad_iff (u : Use) (r : Rec) (lo field : Nat) : useBad u (rf r lo 1 == 1) field = true ↔
    (rf r lo 1 = 0 ∧ (field ≠ 0 ∨ u = .req)) ∨ (rf r lo 1 = 1 ∧ u = .no) := by
  unfold useBad
  rcases rf_bit r lo with bit | bit <;> rw [bit] <;> cases u <;> simp

theorem outside_iff (v mask : Nat) : outside v mask = true ↔ v &&& mask ≠ v := by simp [outside]

theorem recSigadd_eq (r : Rec) : recSigadd r ≠ 0 ↔ rf r 95 8 ≠ 0 := by
  have small : rf r 95 8 < 256 := Nat.mod_lt _ (by decide)
  unfold recSigadd signedOf
  split <;> omega

/-- A record of a task is refused by its fields where its task's shape refuses it. -/
theorem fieldsBad_iff {r : Rec} {t : Task} (task : recTask r = some t) (zero : rf r 13 3 = 0) (zeros : rf r 103 25 = 0) :
    fieldsBad r = true ↔
      (useBad (shapeOf t).w (rf r 44 1 == 1) (rf r 20 6) = true ∨ useBad (shapeOf t).a (rf r 45 1 == 1) (rf r 26 6) = true ∨
        useBad (shapeOf t).b (rf r 46 1 == 1) (rf r 32 6) = true ∨ useBad (shapeOf t).c (rf r 47 1 == 1) (rf r 38 6) = true) ∨
      (rf r 54 1 = 0 ∧ (rf r 48 6 ≠ 0 ∨ (shapeOf t).gv = 1)) ∨ (rf r 54 1 = 1 ∧ (shapeOf t).gv = 0) ∨
      (rf r 55 1 = 0 ∧ (rf r 56 11 ≠ 0 ∨ rf r 67 16 ≠ 0)) ∨ (rf r 83 1 = 0 ∧ (rf r 84 11 ≠ 0 ∨ rf r 95 8 ≠ 0)) ∨
      rf r 16 4 &&& (shapeOf t).mod ≠ rf r 16 4 ∨ rf r 128 64 &&& (shapeOf t).imm ≠ rf r 128 64 ∨
      rf r 192 64 &&& (shapeOf t).xf ≠ rf r 192 64 := by
  unfold fieldsBad
  rw [zero, zeros, task]
  simp only [Bool.or_eq_true, Bool.and_eq_true, outside_iff, bne_iff_ne, ne_eq, Bool.not_eq_true', beq_iff_eq, recSigadd_eq,
    recVW, recVA, recVB, recVC, recBoxW, recBoxA, recBoxB, recBoxC, recGv, recWv, recWsem, recWthr, recSigv, recSigsem,
    recMod, recImm, recXf]
  rcases rf_bit r 54 with gv | gv <;> rcases rf_bit r 55 with wv | wv <;> rcases rf_bit r 83 with sigv | sigv <;>
    simp [gv, wv, sigv, or_assoc]

theorem fieldsBad_reserved {r : Rec} (bits : rf r 13 3 ≠ 0 ∨ rf r 103 25 ≠ 0) : fieldsBad r = true := by
  unfold fieldsBad
  rcases bits with low | high
  · simp [low]
  · simp [high]

theorem fieldsBad_unassigned {r : Rec} (unassigned : recTask r = none) : fieldsBad r = true := by
  unfold fieldsBad
  rw [unassigned, Bool.or_true]

/-- A task that has no row is none. -/
theorem recTask_of_no_row {r : Rec} (absent : ∀ x ∈ taskRows, x.1 = rf r 8 3 → rf r 0 8 ∉ x.2.1) : recTask r = none := by
  cases task : recTask r with
  | none => rfl
  | some t =>
    obtain ⟨x, at_, eng, top⟩ := taskRows_complete task
    exact absurd top (absent x at_ eng)

/-- The task of a row has the row's shape. -/
theorem shape_of_row {r : Rec} {tops : List Nat} {row : Nat × Nat × Nat × Nat × Nat × Nat} (at_ : (rf r 8 3, tops, row) ∈ taskRows)
    (top : rf r 0 8 ∈ tops) : ∃ t, recTask r = some t ∧ rowOf (shapeOf t) = row :=
  Option.map_eq_some_iff.mp (taskRows_shapes _ at_ _ top)

/-- A quantified box field is one of the four. -/
theorem exists_field {p : Nat → Prop} : (∃ k < 4, p k) ↔ p 0 ∨ p 1 ∨ p 2 ∨ p 3 := by
  constructor
  · rintro ⟨k, below, holds⟩
    have cases : k = 0 ∨ k = 1 ∨ k = 2 ∨ k = 3 := by omega
    rcases cases with rfl | rfl | rfl | rfl
    · exact .inl holds
    · exact .inr (.inl holds)
    · exact .inr (.inr (.inl holds))
    · exact .inr (.inr (.inr holds))
  · rintro (holds | holds | holds | holds)
    · exact ⟨0, by decide, holds⟩
    · exact ⟨1, by decide, holds⟩
    · exact ⟨2, by decide, holds⟩
    · exact ⟨3, by decide, holds⟩

/-- What the row of a record's task refuses. -/
theorem fieldsBad_row {r : Rec} {tops : List Nat} {req opt mod imm xf gv : Nat}
    (at_ : (rf r 8 3, tops, req, opt, mod, imm, xf, gv) ∈ taskRows) (top : rf r 0 8 ∈ tops) (zero : rf r 13 3 = 0)
    (zeros : rf r 103 25 = 0) :
    fieldsBad r = true ↔
      (∃ k < 4, (rf r (44 + k) 1 = 0 ∧ (rf r (20 + 6 * k) 6 ≠ 0 ∨ req / 2 ^ (3 - k) % 2 = 1)) ∨
        (rf r (44 + k) 1 = 1 ∧ (req + opt) / 2 ^ (3 - k) % 2 = 0)) ∨
      (rf r 54 1 = 0 ∧ (rf r 48 6 ≠ 0 ∨ gv = 1)) ∨ (rf r 54 1 = 1 ∧ gv = 0) ∨
      (rf r 55 1 = 0 ∧ (rf r 56 11 ≠ 0 ∨ rf r 67 16 ≠ 0)) ∨ (rf r 83 1 = 0 ∧ (rf r 84 11 ≠ 0 ∨ rf r 95 8 ≠ 0)) ∨
      rf r 16 4 &&& mod ≠ rf r 16 4 ∨ rf r 128 64 &&& imm ≠ rf r 128 64 ∨ rf r 192 64 &&& xf ≠ rf r 192 64 := by
  obtain ⟨t, task, row⟩ := shape_of_row at_ top
  obtain ⟨rfl, rfl, rfl, rfl, rfl, rfl⟩ : useBits .req (shapeOf t) = req ∧ useBits .opt (shapeOf t) = opt ∧ (shapeOf t).mod = mod ∧
      (shapeOf t).imm = imm ∧ (shapeOf t).xf = xf ∧ (shapeOf t).gv = gv := by
    simpa only [rowOf, Prod.mk.injEq] using row
  obtain ⟨reqW, reqA, reqB, reqC⟩ := useBits_req (shapeOf t)
  obtain ⟨usedW, usedA, usedB, usedC⟩ := useBits_used (shapeOf t)
  rw [fieldsBad_iff task zero zeros, exists_field]
  simp only [useBad_iff, ← reqW, ← reqA, ← reqB, ← reqC, ← usedW, ← usedA, ← usedB, ← usedC]

/-! ### The codes of the tasks -/

/-- The engine and TOP of a task. -/
def codeOf : Task → Nat × Nat
  | .mm => (0, 1) | .mmq => (0, 2) | .mmg => (0, 3) | .mz => (0, 4) | .mst => (0, 5)
  | .vadd => (1, 0x01) | .vsub => (1, 0x02) | .vmul => (1, 0x03) | .vfma => (1, 0x04) | .vdiv => (1, 0x05)
  | .vsqrt => (1, 0x06) | .vrcp => (1, 0x07) | .vrsq => (1, 0x08) | .vexp2 => (1, 0x09) | .vlog2 => (1, 0x0A)
  | .vmin => (1, 0x0B) | .vmax => (1, 0x0C) | .vabs => (1, 0x0D) | .vneg => (1, 0x0E) | .vcvt => (1, 0x0F)
  | .vqnt => (1, 0x10) | .vdq => (1, 0x11) | .vscl => (1, 0x12) | .vand => (1, 0x20) | .vor => (1, 0x21) | .vxor => (1, 0x22)
  | .vnot => (1, 0x23) | .vshl => (1, 0x24) | .vshr => (1, 0x25) | .vsra => (1, 0x26) | .vclm => (1, 0x27)
  | .vpopc => (1, 0x28) | .vclz => (1, 0x29) | .vcmp => (1, 0x30) | .vsel => (1, 0x31) | .vred => (1, 0x38)
  | .vscan => (1, 0x39) | .vany => (1, 0x3A) | .vall => (1, 0x3B) | .vcnt => (1, 0x3C) | .viota => (1, 0x40)
  | .vcomp => (1, 0x41) | .vgth => (1, 0x42) | .vsct => (1, 0x43) | .vhist => (1, 0x44) | .vbcst => (1, 0x45)
  | .xpose => (2, 1) | .xperm => (2, 2) | .xrev => (2, 3)
  | .cpy => (3, 1) | .cpyf => (3, 2) | .cmpb => (3, 3) | .fill => (3, 4) | .adv => (3, 5) | .drn => (3, 6) | .drna => (3, 7)
  | .accl => (3, 8) | .selk => (3, 9) | .cpypg => (3, 0xA) | .ckpt => (3, 0xB)
  | .wr => (4, 1) | .wrp => (4, 2) | .rd => (4, 3) | .amo => (4, 4) | .post => (4, 5) | .sem => (4, 6) | .rte => (4, 7)
  | .fred => (4, 8) | .halo => (4, 9)

theorem taskOf_codeOf (t : Task) : taskOf (codeOf t).1 (codeOf t).2 = some t := by cases t <;> rfl

theorem codeOf_of_taskOf {eng top : Nat} {t : Task} (is : taskOf eng top = some t) : codeOf t = (eng, top) := by
  unfold taskOf at is
  split at is <;> (try split at is) <;> cases is <;> rfl

/-- A record is of a task where its engine and TOP are the task's. -/
theorem recTask_iff (r : Rec) (t : Task) : recTask r = some t ↔ rf r 8 3 = (codeOf t).1 ∧ rf r 0 8 = (codeOf t).2 := by
  refine ⟨fun is => ?_, fun ⟨eng, top⟩ => ?_⟩
  · rw [codeOf_of_taskOf is]
    exact ⟨rfl, rfl⟩
  · unfold recTask recEng recTop
    rw [eng, top]
    exact taskOf_codeOf t

theorem taskPriv_iff (r : Rec) : taskPriv r = true ↔ rf r 8 3 = 3 ∧ (rf r 0 8 = 0x0A ∨ rf r 0 8 = 0x0B) := by
  unfold taskPriv
  rw [Bool.or_eq_true, beq_iff_eq, beq_iff_eq, recTask_iff, recTask_iff]
  exact and_or_left.symm

end Sys2Proof.Machine
end

section
/-! The resolution of a record's boxes and its last checks (R44, R157, R159). -/

namespace Sys2Proof.Machine

/-! ### One box field -/

/-- The box register that a record's field names: W, A, B, C. -/
def fieldBox (s : State) (r : Rec) (k : Nat) : BoxReg := getBox s (Fin.ofNat 64 (rf r (20 + 6 * k) 6))

/-- A box exceeds an extent. -/
def exceedsBox (b : BoxReg) (rank : Nat) (ext : Nat → Nat) : Prop := ∃ d < rank, ext d < dget b.o d + dget b.e d

/-- The cause that the resolution of a box meets, with its husk or without. -/
def boxRefused (s : State) (far : Prop) (b : BoxReg) (c : Cause) : Prop :=
  (b.bv = false ∧ c = .boxbad) ∨
    (b.bv = true ∧ ¬far ∧
      ((b.acc = true ∧ exceedsBox b 3 (fun d => [256, 128, 2].getD d 0) ∧ c = .boxbad) ∨
        (b.acc = false ∧ hkV (getHusk s b.hid) = false ∧ c = .huskbad) ∨
        (b.acc = false ∧ hkV (getHusk s b.hid) = true ∧
          exceedsBox b (hkRank (getHusk s b.hid)) (hkExt (getHusk s b.hid)) ∧ c = .boxbad)))

theorem any_exceeds (b : BoxReg) (rank : Nat) (ext : Nat → Nat) :
    (List.range rank).any (fun d => decide (ext d < dget b.o d + dget b.e d)) = true ↔ exceedsBox b rank ext := by
  simp only [List.any_eq_true, List.mem_range, decide_eq_true_eq, exceedsBox]

theorem exceeds_acc (b : BoxReg) : exceedsBox b 3 accExt ↔ exceedsBox b 3 (fun d => [256, 128, 2].getD d 0) := by
  have same : ∀ d < 3, accExt d = [256, 128, 2].getD d 0 := by decide
  exact exists_congr fun d => and_congr_right fun below => by rw [same d below]

/-- The resolver of a box field. -/
def resolver (s : State) (far : Prop) [Decidable far] : Nat → Except Cause RBox := if far then resolveFar s else resolve s

section Resolver
variable {s : State} {far : Prop} [Decidable far] {n : Nat}

/-- A resolution ends in the cause that the box meets, or in the box. -/
theorem resolver_spec (s : State) (far : Prop) [Decidable far] (n : Nat) :
    (∃ c, boxRefused s far (getBox s (Fin.ofNat 64 n)) c ∧ resolver s far n = .error c ∧
      ∀ d, boxRefused s far (getBox s (Fin.ofNat 64 n)) d → d = c) ∨
    ((∀ c, ¬boxRefused s far (getBox s (Fin.ofNat 64 n)) c) ∧ resolver s far n = .ok (rawBox (getBox s (Fin.ofNat 64 n)))) := by
  unfold resolver
  generalize here : getBox s (Fin.ofNat 64 n) = b
  by_cases isFar : far
  · rw [if_pos isFar]
    unfold resolveFar
    rw [here]
    cases valid : b.bv with
    | false => exact .inl ⟨.boxbad, .inl ⟨valid, rfl⟩, by simp [valid], by simp [boxRefused, valid]⟩
    | true => exact .inr ⟨by simp [boxRefused, valid, isFar], by simp [valid]⟩
  · rw [if_neg isFar]
    unfold resolve
    dsimp only
    rw [here]
    cases valid : b.bv with
    | false => exact .inl ⟨.boxbad, .inl ⟨valid, rfl⟩, by simp, by simp [boxRefused, valid]⟩
    | true =>
      cases acc : b.acc with
      | true =>
        by_cases over_ : exceedsBox b 3 accExt
        · have out := exceeds_acc b |>.mp over_
          refine .inl ⟨.boxbad, .inr ⟨valid, isFar, .inl ⟨acc, out, rfl⟩⟩, ?_, by simp [boxRefused, valid, acc]⟩
          exact if_pos ((any_exceeds b 3 accExt).mpr over_)
        · have fits := mt (exceeds_acc b).mpr over_
          refine .inr ⟨fun c refused => ?_, if_neg (mt (any_exceeds b 3 accExt).mp over_)⟩
          rcases refused with ⟨unset, _⟩ | ⟨_, _, ⟨_, out, _⟩ | ⟨other, _⟩ | ⟨other, _⟩⟩
          · exact Bool.noConfusion (valid.symm.trans unset)
          · exact fits out
          · exact Bool.noConfusion (acc.symm.trans other)
          · exact Bool.noConfusion (acc.symm.trans other)
      | false =>
        cases husk : hkV (getHusk s b.hid) with
        | false =>
          exact .inl ⟨.huskbad, .inr ⟨valid, isFar, .inr (.inl ⟨acc, husk, rfl⟩)⟩, by simp, by simp [boxRefused, valid, acc, husk]⟩
        | true =>
          by_cases over_ : exceedsBox b (hkRank (getHusk s b.hid)) (hkExt (getHusk s b.hid))
          · refine .inl ⟨.boxbad, .inr ⟨valid, isFar, .inr (.inr ⟨acc, husk, over_, rfl⟩)⟩, ?_, by simp [boxRefused, valid, acc, husk]⟩
            exact if_pos ((any_exceeds b _ _).mpr over_)
          · exact .inr ⟨by simp [boxRefused, valid, acc, husk, over_], if_neg (mt (any_exceeds b _ _).mp over_)⟩

end Resolver

/-! ### The four fields -/

/-- A record's W of F.HALO is resolved without its husk. -/
def farField (r : Rec) (k : Nat) : Prop := k = 0 ∧ rf r 8 3 = 4 ∧ rf r 0 8 = 9

/-- The cause that a box field meets. -/
def fieldRefused (s : State) (r : Rec) (k : Nat) (c : Cause) : Prop :=
  rf r (44 + k) 1 = 1 ∧ boxRefused s (farField r k) (fieldBox s r k) c

/-- The box of a field that is accepted. -/
def fieldGot (s : State) (r : Rec) (k : Nat) : Option RBox :=
  if rf r (44 + k) 1 = 1 then some (rawBox (fieldBox s r k)) else none

/-- The resolution of a field. -/
def fieldResult (s : State) (r : Rec) (k : Nat) : Except Cause (Option RBox) :=
  resolveIf (rf r (44 + k) 1 == 1) (if k = 0 ∧ recTask r = some .halo then resolveFar s else resolve s) (rf r (20 + 6 * k) 6)

theorem fieldResult_spec (s : State) (r : Rec) (k : Nat) :
    (∀ c, fieldRefused s r k c → fieldResult s r k = .error c) ∧
      ((∀ c, ¬fieldRefused s r k c) → fieldResult s r k = .ok (fieldGot s r k)) := by
  unfold fieldRefused fieldResult fieldGot resolveIf
  rcases rf_bit r (44 + k) with bit | bit
  · rw [bit]
    exact ⟨fun c refused => absurd refused.1 (by decide), fun _ => rfl⟩
  · rw [bit]
    have spec := resolver_spec s (k = 0 ∧ rf r 8 3 = 4 ∧ rf r 0 8 = 9) (rf r (20 + 6 * k) 6)
    unfold resolver at spec
    rw [show (if k = 0 ∧ recTask r = some .halo then resolveFar s else resolve s) =
      if k = 0 ∧ rf r 8 3 = 4 ∧ rf r 0 8 = 9 then resolveFar s else resolve s from
      if_congr (and_congr_right fun _ => recTask_iff r .halo) rfl rfl]
    rcases spec with ⟨c, refused, result, only⟩ | ⟨accepted, result⟩
    · refine ⟨fun d here => ?_, fun clear => absurd ⟨rfl, refused⟩ (clear c)⟩
      rw [only d here.2, result]
      rfl
    · refine ⟨fun c here => absurd here.2 (accepted c), fun _ => ?_⟩
      rw [result]
      rfl

/-- The boxes of a record, by their fields. -/
theorem resolveAll_eq (s : State) (r : Rec) : resolveAll s r = resolveWith
    (if 0 = 0 ∧ recTask r = some .halo then resolveFar s else resolve s) (resolve s) r := by
  unfold resolveAll
  simp only [true_and]

/-- The boxes of a record whose fields are accepted. -/
def gotBoxes (s : State) (r : Rec) : Boxes :=
  { w := fieldGot s r 0, a := fieldGot s r 1, b := fieldGot s r 2, c := fieldGot s r 3 }

section Resolved
variable {s : State} {r : Rec}

theorem resolveAll_fields : resolveAll s r =
    (fieldResult s r 0).bind fun w => (fieldResult s r 1).bind fun a => (fieldResult s r 2).bind fun b =>
      (fieldResult s r 3).bind fun c => .ok { w := w, a := a, b := b, c := c } := by
  have later (k : Nat) (behind : k ≠ 0) : fieldResult s r k = resolveIf (rf r (44 + k) 1 == 1) (resolve s) (rf r (20 + 6 * k) 6) := by
    unfold fieldResult
    rw [if_neg (fun both => behind both.1)]
  rw [resolveAll_eq, later 1 (by decide), later 2 (by decide), later 3 (by decide)]
  unfold resolveWith fieldResult recVW recVA recVB recVC recBoxW recBoxA recBoxB recBoxC
  cases resolveIf (rf r 44 1 == 1) (if 0 = 0 ∧ recTask r = some .halo then resolveFar s else resolve s) (rf r 20 6) <;>
    cases resolveIf (rf r 45 1 == 1) (resolve s) (rf r 26 6) <;> cases resolveIf (rf r 46 1 == 1) (resolve s) (rf r 32 6) <;>
      cases resolveIf (rf r 47 1 == 1) (resolve s) (rf r 38 6) <;> rfl

/-- The first field that is refused decides. -/
theorem resolveAll_refused {k : Nat} {c : Cause} (below : k < 4) (refused : fieldRefused s r k c)
    (first : ∀ j d, j < k → ¬fieldRefused s r j d) : resolveAll s r = .error c := by
  have here := (fieldResult_spec s r k).1 c refused
  have before (j : Nat) (le : j < k) : fieldResult s r j = .ok (fieldGot s r j) :=
    (fieldResult_spec s r j).2 (fun d => first j d le)
  rw [resolveAll_fields]
  have cases : k = 0 ∨ k = 1 ∨ k = 2 ∨ k = 3 := by omega
  rcases cases with rfl | rfl | rfl | rfl
  · rw [here]
    rfl
  · rw [before 0 (by decide), here]
    rfl
  · rw [before 0 (by decide), before 1 (by decide), here]
    rfl
  · rw [before 0 (by decide), before 1 (by decide), before 2 (by decide), here]
    rfl

theorem resolveAll_accepted (clear : ∀ k c, k < 4 → ¬fieldRefused s r k c) : resolveAll s r = .ok (gotBoxes s r) := by
  have got (k : Nat) (below : k < 4) : fieldResult s r k = .ok (fieldGot s r k) :=
    (fieldResult_spec s r k).2 (fun c => clear k c below)
  rw [resolveAll_fields, got 0 (by decide), got 1 (by decide), got 2 (by decide), got 3 (by decide)]
  rfl

end Resolved

/-! ### The order of the checks -/

section Checked
variable {s : State} {r : Rec}

theorem checkRecord_fields (bad : fieldsBad r = true) : checkRecord r s = .error .taskbad := if_pos bad

variable (good : fieldsBad r = false)
include good

theorem checkRecord_priv (privileged : taskPriv r = true) (user : s.sys.pl = false) : checkRecord r s = .error .priv :=
  (if_neg (by rw [good]; decide)).trans (if_pos (by rw [privileged, user]; rfl))

variable (may : (taskPriv r && !s.sys.pl) = false)
include may

theorem checkRecord_boxes {c : Cause} (refused : resolveAll s r = .error c) : checkRecord r s = .error c := by
  unfold checkRecord
  refine (if_neg (by rw [good]; decide)).trans ((if_neg (by rw [may]; decide)).trans ?_)
  rw [refused]

variable {b : Boxes} (resolved : resolveAll s r = .ok b)
include resolved

theorem checkRecord_entry {c : Cause} (refused : checkEntry r b s = some c) : checkRecord r s = .error c := by
  unfold checkRecord
  refine (if_neg (by rw [good]; decide)).trans ((if_neg (by rw [may]; decide)).trans ?_)
  rw [resolved]
  dsimp only
  rw [refused]

theorem checkRecord_last (accepted : checkEntry r b s = none) :
    checkRecord r s = if restartBad r b s then .error .taskbad else if cutBad r b s then .error .boxbad else .ok b := by
  unfold checkRecord
  refine (if_neg (by rw [good]; decide)).trans ((if_neg (by rw [may]; decide)).trans ?_)
  rw [resolved]
  dsimp only
  rw [accepted]

end Checked

end Sys2Proof.Machine
end

section
/-! Which record the checks refuse, in their order (R44): the second part of the obligation about POST. -/

namespace Sys2Proof.Machine

/-! ### The size of a restartable record -/

/-- A box in the scratchpad, by its husk. -/
def boxInSpad (s : State) (x : RBox) : Prop := x.acc = false ∧ (hkKind (getHusk s x.hid) = 0 ∨ hkKind (getHusk s x.hid) = 3 ∨
  (hkKind (getHusk s x.hid) = 2 ∧ hkMc (getHusk s x.hid) = true))

/-- A box on memory or on another core, by its husk. -/
def boxInMemory (s : State) (x : RBox) : Prop :=
  x.acc = false ∧ (hkKind (getHusk s x.hid) = 1 ∨ (hkKind (getHusk s x.hid) = 2 ∧ hkMc (getHusk s x.hid) = false))

/-- The footprint of a box in the scratchpad. -/
def boxFootprint (s : State) (x : RBox) : Nat :=
  ((if hkKind (getHusk s x.hid) = 3 then hkLend (getHusk s x.hid) - hkLbase (getHusk s x.hid) else boxBytes s x) + 63) / 64 * 64

theorem writesSpad_iff (s : State) (x : RBox) : writesSpad s x = true ↔ boxInSpad s x := by
  unfold writesSpad isLocal isMc isWin boxInSpad boxHusk kLocal kMem kWin
  simp only [Bool.or_eq_true, Bool.and_eq_true, Bool.not_eq_true', beq_iff_eq]
  tauto

theorem inMemory_iff (s : State) (x : RBox) : (isDirect s x || isPeer s x) = true ↔ boxInMemory s x := by
  unfold isDirect isMem isPeer boxInMemory boxHusk kMem kPeer
  simp only [Bool.or_eq_true, Bool.and_eq_true, Bool.not_eq_true', beq_iff_eq]
  tauto

theorem bufBytes_eq {s : State} {x : RBox} (here : boxInSpad s x) : bufBytes s x = boxFootprint s x := by
  obtain ⟨acc, _⟩ := here
  have win : (isWin s x = true) = (hkKind (getHusk s x.hid) = 3) := by
    unfold isWin boxHusk kWin
    rw [acc, Bool.not_false, Bool.true_and, beq_iff_eq]
  unfold bufBytes boxFootprint
  simp only [win]
  rfl

/-- A restartable record needs its W in the pool, and at most 256 KiB of the write-hold area. -/
theorem restartBad_iff (r : Rec) (b : Boxes) (s : State) : restartBad r b s = true ↔ rf r 11 1 = 1 ∧ ∃ x, b.w = some x ∧
    ((recTask r ≠ some .halo ∧ boxInSpad s x ∧ s.sys.rnpool.toNat * 4096 < boxFootprint s x) ∨
      (recTask r = some .halo ∧ 262144 < boxBytes s (b.a.getD {})) ∨ (recTask r = some .fred ∧ 262144 < boxBytes s x) ∨
      (recTask r ≠ some .halo ∧ recTask r ≠ some .fred ∧ boxInMemory s x ∧ 262144 < boxBytes s x)) := by
  unfold restartBad memWrites
  rw [Bool.and_eq_true, show (recRst r = true) = (rf r 11 1 = 1) from propext beq_iff_eq]
  refine and_congr_right fun _ => ?_
  cases b.w with
  | none => simp
  | some x =>
    have size : (writesSpad s x = true ∧ s.sys.rnpool.toNat * 4096 < bufBytes s x) ↔
        (boxInSpad s x ∧ s.sys.rnpool.toNat * 4096 < boxFootprint s x) := by
      rw [writesSpad_iff]
      exact and_congr_right fun here => by rw [bufBytes_eq here]
    simp only [Option.some.injEq, exists_eq_left', Bool.or_eq_true, Bool.and_eq_true, bne_iff_ne, decide_eq_true_eq, and_assoc, size,
      theBox]
    by_cases halo : recTask r = some .halo
    · have other : recTask r ≠ some .fred := by rw [halo]; decide
      simp [halo]
    · by_cases fred : recTask r = some .fred
      · simp [fred]
      · have memory : (isDirect s x = true ∨ isPeer s x = true) ↔ boxInMemory s x := by rw [← inMemory_iff, Bool.or_eq_true]
        by_cases here : boxInMemory s x
        · simp [halo, fred, here, memory]
        · simp [halo, fred, here, memory]

/-- The same, by the codes of the tasks. -/
theorem restartBad_codes (r : Rec) (b : Boxes) (s : State) : restartBad r b s = true ↔ rf r 11 1 = 1 ∧ ∃ x, b.w = some x ∧
    ((¬(rf r 8 3 = 4 ∧ rf r 0 8 = 9) ∧ boxInSpad s x ∧ s.sys.rnpool.toNat * 4096 < boxFootprint s x) ∨
      ((rf r 8 3 = 4 ∧ rf r 0 8 = 9) ∧ 262144 < boxBytes s (b.a.getD {})) ∨ (rf r 8 3 = 4 ∧ rf r 0 8 = 8 ∧ 262144 < boxBytes s x) ∨
      (¬(rf r 8 3 = 4 ∧ rf r 0 8 = 9) ∧ ¬(rf r 8 3 = 4 ∧ rf r 0 8 = 8) ∧ boxInMemory s x ∧ 262144 < boxBytes s x)) := by
  rw [restartBad_iff]
  simp only [recTask_iff, ne_eq, codeOf, and_assoc]

/-! ### The checks of a record, in their order -/

theorem taskPriv_user {s : State} {r : Rec} (may : rf r 8 3 = 3 ∧ (rf r 0 8 = 0x0A ∨ rf r 0 8 = 0x0B) → s.sys.pl = true) :
    (taskPriv r && !s.sys.pl) = false := by
  cases privileged : taskPriv r with
  | false => rfl
  | true =>
    rw [may ((taskPriv_iff r).mp privileged)]
    rfl

/-- The checks of a record: its fields, its privilege, its boxes, its task's entry, the size of a restartable one. -/
theorem checkRecord_spec (s : State) (r : Rec) :
    (fieldsBad r = true → checkRecord r s = .error .taskbad) ∧
    (fieldsBad r = false → rf r 8 3 = 3 ∧ (rf r 0 8 = 0x0A ∨ rf r 0 8 = 0x0B) → s.sys.pl = false →
      checkRecord r s = .error .priv) ∧
    (fieldsBad r = false → (rf r 8 3 = 3 ∧ (rf r 0 8 = 0x0A ∨ rf r 0 8 = 0x0B) → s.sys.pl = true) →
      (∀ k c, k < 4 → fieldRefused s r k c → (∀ j d, j < k → ¬fieldRefused s r j d) → checkRecord r s = .error c) ∧
      ((∀ k c, k < 4 → ¬fieldRefused s r k c) →
        (∀ c, checkEntry r (gotBoxes s r) s = some c → checkRecord r s = .error c) ∧
        (checkEntry r (gotBoxes s r) s = none →
          (restartBad r (gotBoxes s r) s = true → checkRecord r s = .error .taskbad) ∧
          (restartBad r (gotBoxes s r) s = false → cutBad r (gotBoxes s r) s = true → checkRecord r s = .error .boxbad) ∧
          (restartBad r (gotBoxes s r) s = false → cutBad r (gotBoxes s r) s = false → checkRecord r s = .ok (gotBoxes s r))))) := by
  refine ⟨checkRecord_fields, fun good privileged user => checkRecord_priv good ((taskPriv_iff r).mpr privileged) user,
    fun good allowed => ?_⟩
  have may := taskPriv_user allowed
  refine ⟨fun k c below refused first => checkRecord_boxes good may (resolveAll_refused below refused first), fun clear => ?_⟩
  have resolved := resolveAll_accepted clear
  refine ⟨fun c refused => checkRecord_entry good may resolved refused, fun accepted => ?_⟩
  rw [checkRecord_last good may resolved accepted]
  refine ⟨fun big => if_pos big, fun small cut => ?_, fun small uncut => ?_⟩
  · rw [small, cut]
    rfl
  · rw [small, uncut]
    rfl

end Sys2Proof.Machine
end

section
/-! The checks of a task's entry in their stages (R192, R203, R213, R236): the matrix, transpose, vector and copy tasks. -/

namespace Sys2Proof.Machine

/-! ### Stages -/

/-- The stage of a cause of the entry checks. -/
def stageOf : Cause → Nat
  | .taskbad => 0 | .priv => 1 | .boxbad => 2 | _ => 3

/-- The checks of one cause. -/
def badOf (l : List (Bool × Cause)) (c : Cause) : Prop := ∃ x ∈ l, x.1 = true ∧ x.2 = c

/-- The checks come in the order of their stages, and have no other cause. -/
def staged : List (Bool × Cause) → Bool
  | [] => true
  | x :: l => [Cause.taskbad, .priv, .boxbad, .huskbad].contains x.2 && l.all (fun y => decide (stageOf x.2 ≤ stageOf y.2)) && staged l

theorem firstBad_none {l : List (Bool × Cause)} (none : ∀ x ∈ l, x.1 = false) : firstBad l = Option.none := by
  induction l with
  | nil => rfl
  | cons x l ih =>
    unfold firstBad
    rw [none x List.mem_cons_self]
    exact ih fun y at_ => none y (List.mem_cons_of_mem x at_)

/-- The first stage that refuses gives the cause. -/
theorem firstBad_stage {l : List (Bool × Cause)} (ordered : staged l = true) {c : Cause}
    (known : c ∈ [Cause.taskbad, .priv, .boxbad, .huskbad]) (bad : badOf l c)
    (earlier : ∀ d ∈ [Cause.taskbad, .priv, .boxbad, .huskbad], stageOf d < stageOf c → ¬badOf l d) : firstBad l = some c := by
  induction l with
  | nil =>
    obtain ⟨x, at_, _⟩ := bad
    exact absurd at_ List.not_mem_nil
  | cons x l ih =>
    unfold staged at ordered
    rw [Bool.and_eq_true, Bool.and_eq_true, List.contains_iff_mem, List.all_eq_true] at ordered
    obtain ⟨⟨ofX, later⟩, rest⟩ := ordered
    have le : stageOf x.2 ≤ stageOf c := by
      obtain ⟨y, at_, _, rfl⟩ := bad
      rcases List.mem_cons.mp at_ with rfl | behind
      · exact le_refl _
      · exact of_decide_eq_true (later y behind)
    unfold firstBad
    cases holds : x.1 with
    | true =>
      have same : stageOf x.2 = stageOf c := le.antisymm (not_lt.mp fun less =>
        earlier x.2 ofX less ⟨x, List.mem_cons_self, holds, rfl⟩)
      have inj : ∀ a ∈ [Cause.taskbad, .priv, .boxbad, .huskbad], ∀ b ∈ [Cause.taskbad, .priv, .boxbad, .huskbad],
          stageOf a = stageOf b → a = b := by decide
      exact congrArg some (inj _ ofX _ known same)
    | false =>
      refine ih rest ?_ fun d knownD less bad => ?_
      · obtain ⟨y, at_, met, same⟩ := bad
        rcases List.mem_cons.mp at_ with rfl | behind
        · exact absurd met (by rw [holds]; decide)
        · exact ⟨y, behind, met, same⟩
      · obtain ⟨y, at_, met⟩ := bad
        exact earlier d knownD less ⟨y, List.mem_cons_of_mem x at_, met⟩

/-- The three stages of an entry without a privileged image. -/
def Staged (o : Option Cause) (t b k : Prop) : Prop :=
  (t → o = some .taskbad) ∧ (¬t → b → o = some .boxbad) ∧ (¬t → ¬b → k → o = some .huskbad) ∧ (¬t → ¬b → ¬k → o = none)

theorem staged_firstBad {l : List (Bool × Cause)} {t b k : Prop} (ordered : staged l = true) (task : badOf l .taskbad ↔ t)
    (unpriv : ¬badOf l .priv) (box : badOf l .boxbad ↔ b) (husk : ¬b → (badOf l .huskbad ↔ k)) : Staged (firstBad l) t b k := by
  have known : ∀ x ∈ l, x.2 ∈ [Cause.taskbad, .priv, .boxbad, .huskbad] := by
    clear task unpriv box husk
    induction l with
    | nil => exact fun x at_ => absurd at_ List.not_mem_nil
    | cons y l ih =>
      unfold staged at ordered
      rw [Bool.and_eq_true, Bool.and_eq_true, List.contains_iff_mem] at ordered
      intro x at_
      rcases List.mem_cons.mp at_ with rfl | behind
      · exact ordered.1.1
      · exact ih ordered.2 x behind
  refine ⟨fun bad => ?_, fun fine bad => ?_, fun fine fits bad => ?_, fun fine fits whole => ?_⟩
  · refine firstBad_stage ordered (by decide) (task.mpr bad) fun d at_ less => ?_
    exact absurd less (Nat.not_lt_zero _)
  · refine firstBad_stage ordered (by decide) (box.mpr bad) fun d at_ less => ?_
    simp only [List.mem_cons, List.not_mem_nil, or_false] at at_
    rcases at_ with rfl | rfl | rfl | rfl
    · exact mt task.mp fine
    · exact unpriv
    · exact absurd less (by decide)
    · exact absurd less (by decide)
  · refine firstBad_stage ordered (by decide) ((husk fits).mpr bad) fun d at_ less => ?_
    simp only [List.mem_cons, List.not_mem_nil, or_false] at at_
    rcases at_ with rfl | rfl | rfl | rfl
    · exact mt task.mp fine
    · exact unpriv
    · exact mt box.mp fits
    · exact absurd less (by decide)
  · refine firstBad_none fun x at_ => Bool.eq_false_iff.mpr fun met => ?_
    have cause := known x at_
    simp only [List.mem_cons, List.not_mem_nil, or_false] at cause
    rcases cause with cause | cause | cause | cause
    · exact fine (task.mp ⟨x, at_, met, cause⟩)
    · exact unpriv ⟨x, at_, met, cause⟩
    · exact fits (box.mp ⟨x, at_, met, cause⟩)
    · exact whole ((husk fits).mp ⟨x, at_, met, cause⟩)

@[simp] theorem badOf_nil (c : Cause) : badOf [] c ↔ False := by simp [badOf]

@[simp] theorem badOf_cons (b : Bool) (d c : Cause) (l : List (Bool × Cause)) :
    badOf ((b, d) :: l) c ↔ (b = true ∧ d = c) ∨ badOf l c := by simp [badOf]

/-! ### What the tests of a box say -/

/-- A husk's kind, of a box outside the accumulator. -/
def kindIs (s : State) (k : Nat) (x : RBox) : Prop := x.acc = false ∧ hkKind (getHusk s x.hid) = k

/-- A cached husk. -/
def cachedBox (s : State) (x : RBox) : Prop := kindIs s 2 x ∧ hkMc (getHusk s x.hid) = true

/-- A husk on a segment of another node. -/
def remoteBox (s : State) (x : RBox) : Prop :=
  kindIs s 2 x ∧ ∃ e, segNumber s s.sys.asid (hkSeg (getHusk s x.hid)) = some e ∧ segRn e = true

/-- The ring of a WIN husk is too small (R240). -/
def ringSmall (s : State) (x : RBox) : Prop := kindIs s 3 x ∧ (hkNrow (getHusk s x.hid) = 0 ∨
  hkLend (getHusk s x.hid) < hkLbase (getHusk s x.hid) + hkNrow (getHusk s x.hid) * hkRow (getHusk s x.hid))

/-- Two boxes have the same extents. -/
def sameExtents (s : State) (x y : RBox) : Prop := ∀ d < 4, boxE s x d = boxE s y d

/-- A box of numbers. -/
def numBox (s : State) (x : RBox) : Prop := fmtIsFloat (boxFmt s x) = true ∨ fmtIsInt (boxFmt s x) = true

/-- A box that holds nothing of the scratchpad or of memory. -/
def noneBox (s : State) (x : RBox) : Prop := x.acc = true ∨ boxEmpty s x = true

section Tests
variable (s : State) (x y : RBox)

theorem isLocal_iff : isLocal s x = true ↔ kindIs s 0 x := by simp [isLocal, kindIs, boxHusk, kLocal]
theorem isWin_iff : isWin s x = true ↔ kindIs s 3 x := by simp [isWin, kindIs, boxHusk, kWin]
theorem isPeer_iff : isPeer s x = true ↔ kindIs s 1 x := by simp [isPeer, kindIs, boxHusk, kPeer]
theorem isMem_iff : isMem s x = true ↔ kindIs s 2 x := by simp [isMem, kindIs, boxHusk, kMem]
theorem isMc_iff : isMc s x = true ↔ cachedBox s x := by simp [isMc, cachedBox, kindIs, boxHusk, kMem]

theorem isRemoteMem_iff : isRemoteMem s x = true ↔ remoteBox s x := by
  unfold isRemoteMem remoteBox boxHusk
  rw [Bool.and_eq_true, isMem_iff]
  refine and_congr_right fun _ => ?_
  cases segNumber s s.sys.asid (hkSeg (getHusk s x.hid)) <;> simp

theorem ringBad_iff : ringBad s x = true ↔ ringSmall s x := by
  unfold ringBad ringSmall boxHusk
  simp only [Bool.and_eq_true, Bool.or_eq_true, isWin_iff, beq_iff_eq, decide_eq_true_eq]

theorem sameExt_iff : sameExt s x y = true ↔ sameExtents s x y := by
  unfold sameExt sameExtents
  simp only [List.all_eq_true, List.mem_range, beq_iff_eq]

theorem fmtNum_iff : fmtNum s x = true ↔ numBox s x := by simp [fmtNum, numBox, fmtFloat, fmtInt]

theorem noneBox_iff : (x.acc || boxEmpty s x) = true ↔ noneBox s x := by simp [noneBox]

end Tests

/-- The boxes of a record of two or three boxes. -/
def boxesWA (w a : RBox) : Boxes := { w := some w, a := some a, b := none, c := none }
def boxesWAB (w a v : RBox) : Boxes := { w := some w, a := some a, b := some v, c := none }

section TwoThree
variable (w a v : RBox)

@[simp] theorem validBoxes_WA : validBoxes (boxesWA w a) = [w, a] := rfl
@[simp] theorem readBoxes_WA : readBoxes (boxesWA w a) = [a] := rfl
@[simp] theorem validBoxes_WAB : validBoxes (boxesWAB w a v) = [w, a, v] := rfl
@[simp] theorem readBoxes_WAB : readBoxes (boxesWAB w a v) = [a, v] := rfl
@[simp] theorem boxesWA_w : (boxesWA w a).w = some w := rfl
@[simp] theorem boxesWA_a : (boxesWA w a).a = some a := rfl
@[simp] theorem boxesWAB_w : (boxesWAB w a v).w = some w := rfl
@[simp] theorem boxesWAB_a : (boxesWAB w a v).a = some a := rfl
@[simp] theorem boxesWAB_b : (boxesWAB w a v).b = some v := rfl
@[simp] theorem theBox_some : theBox (some w) = w := rfl

end TwoThree

theorem operandTall_iff (s : State) (x : RBox) (group : Bool) :
    operandTall s x group = true ↔ boxE s x 2 ≠ 1 ∧ group = false ∨ boxE s x 3 ≠ 1 := by
  cases group <;> simp [operandTall, or_comm]

theorem operandFmt_iff (s : State) (x : RBox) :
    operandFmt s x = false ↔ boxFmt s x ∉ [Fmt.f32, .f16, .bf16, .f8, .c8, .s8, .n8] := by
  unfold operandFmt fmtIs
  rw [List.contains_eq_mem, decide_eq_false_iff_not]

/-! ### The entries -/

section Entries
variable (s : State) (w a v : RBox)

/-- M.MM and M.MMQ (R192). -/
theorem staged_product {t : Task} {q : Nat} (product : (t = .mm ∧ q = 1) ∨ (t = .mmq ∧ q = 2)) :
    Staged (checkMatrix t (boxesWAB w a v) s) False
      (w.acc = false ∨ a.acc = true ∨ v.acc = true ∨ boxEmpty s w = true ∨ boxEmpty s a = true ∨ boxEmpty s v = true ∨
        boxE s w 2 ≠ 1 ∨ boxE s a 2 ≠ 1 ∨ boxE s a 3 ≠ 1 ∨ boxE s v 2 ≠ 1 ∨ boxE s v 3 ≠ 1 ∨ boxE s a 1 ≠ q * boxE s w 1 ∨
        boxE s v 0 ≠ q * boxE s w 0 ∨ boxE s a 0 ≠ boxE s v 1 ∨ 2048 < boxE s a 0)
      (∃ x ∈ [a, v], boxFmt s x ∉ [.f32, .f16, .bf16, .f8, .c8, .s8, .n8] ∨ kindIs s 1 x ∨ ringSmall s x) := by
  rcases product with ⟨rfl, rfl⟩ | ⟨rfl, rfl⟩ <;> unfold checkMatrix <;> dsimp only <;> refine staged_firstBad rfl ?_ ?_ ?_ ?_
  case inl.refine_3 | inr.refine_3 =>
    simp [operandTall_iff, -boxesWAB_w, -boxesWAB_a, -boxesWAB_b]
    simp [or_assoc]
  case inl.refine_4 | inr.refine_4 =>
    intro _
    have reads : ∀ x, (boxFmt s x ∉ [Fmt.f32, .f16, .bf16, .f8, .c8, .s8, .n8] ∨ kindIs s 1 x ∨ ringSmall s x) ↔
        (operandFmt s x = false ∨ isPeer s x = true ∨ ringBad s x = true) := fun x => by
      rw [operandFmt_iff, isPeer_iff, ringBad_iff]
    simp only [List.mem_cons, List.not_mem_nil, or_false, exists_eq_or_imp, exists_eq_left] at reads ⊢
    rw [reads, reads]
    simp
    tauto
  all_goals simp

/-- X.XPOSE (R203). -/
theorem staged_xpose (r : Rec) : Staged (checkTranspose .xpose r (boxesWA w a) s) False
    (w.acc = true ∨ a.acc = true ∨ boxE s w 0 ≠ boxE s a 1 ∨ boxE s w 1 ≠ boxE s a 0 ∨ boxE s w 2 ≠ boxE s a 2 ∨
      boxE s w 3 ≠ boxE s a 3 ∨ overlap s w a = true ∨ (boxRank s w = 1 ∧ boxRank s a = 1))
    (¬(kindIs s 0 a ∨ kindIs s 3 a) ∨ ¬kindIs s 0 w ∨ ringSmall s a ∨ boxFmt s w = .rq ∨ boxFmt s a = .rq ∨
      boxBits s w ≠ boxBits s a) := by
  unfold checkTranspose
  dsimp only
  refine staged_firstBad rfl ?_ ?_ ?_ ?_
  case refine_3 => simp [List.range_succ, permOf, or_assoc]
  case refine_4 => intro _; simp [← isLocal_iff, ← isWin_iff, ← ringBad_iff, or_assoc]
  all_goals simp

/-- V.ADD, V.SUB, V.MUL, V.MIN and V.MAX (R213). -/
theorem staged_arith (r : Rec) {t : Task} (arith : t ∈ [Task.vadd, .vsub, .vmul, .vmin, .vmax]) :
    Staged (checkVector t r (boxesWAB w a v) s) False
      (noneBox s w ∨ noneBox s a ∨ noneBox s v ∨ ¬sameExtents s w a ∨ ¬sameExtents s w v ∨
        ∃ x ∈ [a, v], overlap s w x = true ∧ sameBox s w x = false)
      (¬(kindIs s 0 w ∨ cachedBox s w) ∨ (∃ x ∈ [a, v], ¬(kindIs s 0 x ∨ kindIs s 3 x ∨ cachedBox s x) ∨ ringSmall s x) ∨
        ¬numBox s w ∨ ¬numBox s a ∨ ¬numBox s v ∨
        (fmtIsInt (boxFmt s w) = true ∧ (fmtIsInt (boxFmt s a) = false ∨ fmtIsInt (boxFmt s v) = false))) := by
  have one : checkVector t r (boxesWAB w a v) s = checkVector .vadd r (boxesWAB w a v) s := by
    simp only [List.mem_cons, List.not_mem_nil, or_false] at arith
    rcases arith with rfl | rfl | rfl | rfl | rfl <;> rfl
  rw [one]
  unfold checkVector
  dsimp only
  refine staged_firstBad rfl (by simp [vecBimm, vecShift]) (by simp) ?_ fun _ => ?_
  · simp [← noneBox_iff, ← sameExt_iff, vecShapeBad, vecElementwise]
    tauto
  · simp [← isLocal_iff, ← isWin_iff, ← isMc_iff, ← ringBad_iff, ← fmtNum_iff, vecFmtBad, fmtInt]
    simp only [and_assoc, or_assoc, or_comm, or_left_comm]

/-- C.CPY (R236, R238, R242). -/
theorem staged_cpy (r : Rec) : Staged (checkCopy .cpy r (boxesWA w a) s) False
    (noneBox s w ∨ noneBox s a ∨ boxElems s w ≠ boxElems s a ∨ overlap s w a = true)
    (¬(kindIs s 0 w ∨ kindIs s 1 w ∨ kindIs s 2 w) ∨
      (∃ x ∈ [w, a], (kindIs s 1 x ∧ hkPeer (getHusk s x.hid) = s.sys.coreid.toNat) ∨ ringSmall s x) ∨
      boxBits s w ≠ boxBits s a) := by
  unfold checkCopy
  dsimp only
  refine staged_firstBad rfl (by simp) (by simp) ?_ fun fits => ?_
  · simp [← noneBox_iff, copyShapeBad, show copyAccW .cpy = false from rfl, show copyAccA .cpy = false from rfl]
    tauto
  · have here : w.acc = false := Bool.eq_false_iff.mpr fun acc => fits (.inl (.inl acc))
    simp [← isLocal_iff, ← isPeer_iff, ← isMem_iff, ← ringBad_iff, copyKindBad, copyFmtBad, ownCore, boxHusk, here]
    tauto

end Entries

end Sys2Proof.Machine
end

section
/-! The checks of the fabric tasks' entries in their stages (R338 to R344). -/

namespace Sys2Proof.Machine

/-- A field of a field. -/
theorem bitsOf_rf (r : Rec) {lo n k m : Nat} (inside : k + m ≤ n) : bitsOf (rf r lo n) k m = rf r (lo + k) m := by
  unfold rf bitsOf
  rw [show 2 ^ n = 2 ^ k * 2 ^ (n - k) by rw [← pow_add, Nat.add_sub_cancel' (by omega)], Nat.mod_mul_right_div_self,
    Nat.mod_mod_of_dvd _ (pow_dvd_pow 2 (by omega)), Nat.div_div_eq_div_mul, ← pow_add]

/-- A dependence field without its valid bit (R350). -/
def depBad (r : Rec) : Prop := rf r 200 1 = 0 ∧ rf r 192 8 ≠ 0

/-- A core that does not exist (R4). -/
def coreAbsent (core : Nat) : Prop := 6 ≤ core / 16 % 8

theorem depBad_iff (r : Rec) : (bitsOf (recXf r) 8 1 == 0 && bitsOf (recXf r) 0 8 != 0) = true ↔ depBad r := by
  unfold recXf depBad
  rw [bitsOf_rf r (by decide), bitsOf_rf r (by decide), Bool.and_eq_true, beq_iff_eq, bne_iff_ne]

theorem coreMissing_iff (core : Nat) : coreMissing core = true ↔ coreAbsent core := decide_eq_true_iff

section Fabric
variable (s : State) (r : Rec) (w a v c : RBox)

/-- F.WR and F.WRP (R338). -/
theorem staged_write {t : Task} (write : t = .wr ∨ t = .wrp) : Staged (checkFabric t r (boxesWA w a) s) (depBad r)
    (noneBox s w ∨ noneBox s a ∨ boxElems s w ≠ boxElems s a ∨ overlap s w a = true)
    (boxFmt s w = .rq ∨ boxFmt s a = .rq ∨ boxBits s w ≠ boxBits s a ∨ ¬remoteBox s w ∨ ¬kindIs s 0 a) := by
  rcases write with rfl | rfl <;> unfold checkFabric <;> dsimp only
  all_goals
    refine staged_firstBad rfl ?_ ?_ ?_ fun _ => ?_
    · simp [fabricTaskBad, ← depBad_iff]
    · simp
    · simp [← noneBox_iff, or_assoc]
    · simp [← isLocal_iff, ← isRemoteMem_iff, or_assoc]

/-- F.RD (R338). -/
theorem staged_read : Staged (checkFabric .rd r (boxesWA w a) s) False
    (noneBox s w ∨ noneBox s a ∨ boxElems s w ≠ boxElems s a ∨ overlap s w a = true)
    (boxFmt s w = .rq ∨ boxFmt s a = .rq ∨ boxBits s w ≠ boxBits s a ∨ ¬kindIs s 0 w ∨ ¬remoteBox s a) := by
  unfold checkFabric
  dsimp only
  refine staged_firstBad rfl ?_ ?_ ?_ fun _ => ?_
  · simp [fabricTaskBad]
  · simp
  · simp [← noneBox_iff, or_assoc]
  · simp [← isLocal_iff, ← isRemoteMem_iff, or_assoc]

/-- F.AMO (R338, R340). -/
theorem staged_amo : Staged (checkFabric .amo r { w := some w } s)
    (9 < rf r 16 4 ∨ (rf r 16 4 ≠ 9 ∧ rf r 192 64 ≠ 0) ∨
      (w.acc = false ∧ boxBits s w = 32 ∧ (2 ^ 32 ≤ rf r 128 64 ∨ 2 ^ 32 ≤ rf r 192 64)))
    (noneBox s w ∨ boxElems s w ≠ 1) (¬remoteBox s w ∨ boxFmt s w ∉ [.s32, .n32, .s64, .n64]) := by
  unfold checkFabric
  dsimp only
  refine staged_firstBad rfl ?_ ?_ ?_ fun _ => ?_
  · simp [fabricTaskBad, -theBox_some]
    simp [recMod, recImm, recXf, or_assoc, and_assoc]
  · simp
  · simp [← noneBox_iff, validBoxes, boxList, or_assoc]
  · simp [← isRemoteMem_iff, amoFmt, fmtIs]

/-- F.SEM (R338). -/
theorem staged_sem : Staged (checkFabric .sem r {} s) (depBad r ∨ coreAbsent (rf r 140 9)) False False := by
  unfold checkFabric
  dsimp only
  refine staged_firstBad rfl ?_ ?_ ?_ fun _ => ?_
  · have core : bitsOf (recImm r) 12 9 = rf r 140 9 := bitsOf_rf r (by decide)
    simp [fabricTaskBad, ← depBad_iff, ← coreMissing_iff, core]
  all_goals simp [validBoxes, boxList]

/-- F.RTE (R338, R346). -/
theorem staged_route : Staged (checkFabric .rte r { w := some w, a := some a, b := some v, c := some c } s) False
    (noneBox s w ∨ noneBox s a ∨ noneBox s v ∨ noneBox s c ∨ 8 < boxE s a 0 ∨ 4096 < boxE s a 1 ∨ boxE s a 2 ≠ 1 ∨ boxE s a 3 ≠ 1 ∨
      boxRank s v ≠ 1 ∨ 4096 < boxE s v 0 ∨ boxRank s c ≠ 1 ∨ boxE s c 0 ≠ boxE s v 0 ∨ boxRank s w ≠ 1 ∨ boxE s w 0 ≠ boxE s a 1 ∨
      overlap s w a = true)
    (¬kindIs s 0 w ∨ ¬kindIs s 0 a ∨ ¬kindIs s 0 v ∨ ¬kindIs s 0 c ∨ fmtIsInt (boxFmt s a) = false ∨ boxFmt s v ∉ [.n32, .s32] ∨
      boxFmt s c ≠ .n32 ∨ boxFmt s w ≠ .n64) := by
  unfold checkFabric
  dsimp only
  refine staged_firstBad rfl ?_ ?_ ?_ fun _ => ?_
  · simp [fabricTaskBad]
  · simp
  · simp [validBoxes, boxList, -theBox_some]
    simp [noneBox, or_assoc]
  · simp [← isLocal_iff, fmtInt, fmtIs, or_assoc]

/-- F.RED (R338, R344). -/
theorem staged_fred : Staged (checkFabric .fred r (boxesWA w a) s) (rf r 160 3 = 7 ∨ (rf r 155 1 = 0 ∧ rf r 144 11 ≠ 0))
    (noneBox s w ∨ noneBox s a ∨ ¬sameExtents s w a ∨ overlap s w a = true)
    (¬kindIs s 0 w ∨ ¬kindIs s 0 a ∨
      (rf r 160 3 < 4 ∧ (¬numBox s w ∨ ¬numBox s a ∨ (fmtIsInt (boxFmt s w) = true ∧ fmtIsInt (boxFmt s a) = false))) ∨
      (4 ≤ rf r 160 3 ∧ (fmtIsInt (boxFmt s w) = false ∨ fmtIsInt (boxFmt s a) = false ∨ boxBits s w ≠ boxBits s a))) := by
  have op : bitsOf (recImm r) 32 3 = rf r 160 3 := bitsOf_rf r (by decide)
  have valid : bitsOf (recImm r) 27 1 = rf r 155 1 := bitsOf_rf r (by decide)
  have sem : bitsOf (recImm r) 16 11 = rf r 144 11 := bitsOf_rf r (by decide)
  unfold checkFabric
  dsimp only
  refine staged_firstBad rfl ?_ ?_ ?_ fun _ => ?_
  · simp [fabricTaskBad, op, valid, sem]
  · simp
  · simp [← noneBox_iff, ← sameExt_iff, or_assoc]
  · unfold fredFmtBad
    rw [op]
    by_cases arith : rf r 160 3 < 4
    · simp [← isLocal_iff, ← fmtNum_iff, arith, fmtInt, or_assoc, not_le.mpr arith]
    · simp [← isLocal_iff, arith, fmtInt, or_assoc, not_lt.mp arith]

/-- F.HALO (R338, R343). -/
theorem staged_halo : Staged (checkFabric .halo r (boxesWA w a) s) (depBad r)
    (w.acc = true ∨ noneBox s a ∨ farElems w.e ≠ boxElems s a) (¬kindIs s 0 a ∨ boxFmt s a = .rq) := by
  unfold checkFabric
  dsimp only
  refine staged_firstBad rfl ?_ ?_ ?_ fun _ => ?_
  · simp [fabricTaskBad, ← depBad_iff]
  · simp
  · simp [← noneBox_iff]
    tauto
  · simp [← isLocal_iff]

/-- The elements of a box whose husk is not known here. -/
theorem farElems_eq (e : Dims) : farElems e = ((List.range (if e.x3 ≠ 0 then 4 else if e.x2 ≠ 0 then 3 else if e.x1 ≠ 0 then 2 else 1)).map
    (dget e)).foldl (fun x y => x * y) 1 := by
  unfold farElems
  split_ifs <;> simp [List.range_succ, dget]

/-- A valid box field of a record names a register that holds no box. -/
def boxUnset (s : State) (r : Rec) : Prop :=
  ∃ k < 4, rf r (44 + k) 1 = 1 ∧ (getBox s (Fin.ofNat 64 (rf r (20 + 6 * k) 6))).bv = false

theorem resolveIf_far (s : State) (r : Rec) (lo n : Nat) :
    (rf r lo 1 = 1 ∧ (getBox s (Fin.ofNat 64 n)).bv = false → resolveIf (rf r lo 1 == 1) (resolveFar s) n = .error .boxbad) ∧
      (¬(rf r lo 1 = 1 ∧ (getBox s (Fin.ofNat 64 n)).bv = false) → ∃ b, resolveIf (rf r lo 1 == 1) (resolveFar s) n = .ok b) := by
  unfold resolveIf resolveFar
  dsimp only
  rcases rf_bit r lo with bit | bit <;> cases valid : (getBox s (Fin.ofNat 64 n)).bv <;> simp [bit]

theorem resolveWith_bind (w f : Nat → Except Cause RBox) (r : Rec) : resolveWith w f r =
    (resolveIf (rf r 44 1 == 1) w (rf r 20 6)).bind fun bw => (resolveIf (rf r 45 1 == 1) f (rf r 26 6)).bind fun ba =>
      (resolveIf (rf r 46 1 == 1) f (rf r 32 6)).bind fun bb => (resolveIf (rf r 47 1 == 1) f (rf r 38 6)).bind fun bc =>
        .ok { w := bw, a := ba, b := bb, c := bc } := by
  unfold resolveWith recVW recVA recVB recVC recBoxW recBoxA recBoxB recBoxC
  cases resolveIf (rf r 44 1 == 1) w (rf r 20 6) <;> cases resolveIf (rf r 45 1 == 1) f (rf r 26 6) <;>
    cases resolveIf (rf r 46 1 == 1) f (rf r 32 6) <;> cases resolveIf (rf r 47 1 == 1) f (rf r 38 6) <;> rfl

/-- A computation whose continuation fails in every case fails. -/
theorem bind_fails {α β : Type} {x : Except Cause α} {f : α → Except Cause β} (fails : ∀ a, ∃ c, f a = .error c) :
    ∃ c, x.bind f = .error c := by
  cases x with
  | error c => exact ⟨c, rfl⟩
  | ok a => exact fails a

theorem bind_error {α β : Type} {x : Except Cause α} {f : α → Except Cause β} {c : Cause} (error : x = .error c) :
    ∃ c, x.bind f = .error c := by
  rw [error]
  exact ⟨c, rfl⟩

/-- The boxes of an image are refused where one of its fields names no box. -/
theorem resolveWith_far (s : State) (r : Rec) :
    (boxUnset s r → ∃ c, resolveWith (resolveFar s) (resolveFar s) r = .error c) ∧
      (¬boxUnset s r → ∃ b, resolveWith (resolveFar s) (resolveFar s) r = .ok b) := by
  have field (k : Nat) := resolveIf_far s r (44 + k) (rf r (20 + 6 * k) 6)
  rw [resolveWith_bind]
  constructor
  · rintro ⟨k, below, unset⟩
    have bad := (field k).1 unset
    have cases : k = 0 ∨ k = 1 ∨ k = 2 ∨ k = 3 := by omega
    rcases cases with rfl | rfl | rfl | rfl
    · exact bind_error bad
    · exact bind_fails fun _ => bind_error bad
    · exact bind_fails fun _ => bind_fails fun _ => bind_error bad
    · exact bind_fails fun _ => bind_fails fun _ => bind_fails fun _ => bind_error bad
  · intro clear
    have good (k : Nat) (below : k < 4) : ∃ b, resolveIf (rf r (44 + k) 1 == 1) (resolveFar s) (rf r (20 + 6 * k) 6) = .ok b :=
      (field k).2 fun unset => clear ⟨k, below, unset⟩
    obtain ⟨w, gotW⟩ := good 0 (by decide)
    obtain ⟨a, gotA⟩ := good 1 (by decide)
    obtain ⟨b, gotB⟩ := good 2 (by decide)
    obtain ⟨c, gotC⟩ := good 3 (by decide)
    rw [gotW, gotA, gotB, gotC]
    exact ⟨_, rfl⟩

/-- An F.POST whose image is refused by its place, its fields, its engine or its scalar, or for a core that does not exist (R342). -/
def imageRefused (s : State) (r : Rec) : Prop :=
  rf r 128 64 % 32 ≠ 0 ∨ 0x600000 < rf r 128 64 + 32 ∨ fieldsBad (postImage r s) = true ∨ rf (postImage r s) 8 3 = 4 ∨
    rf (postImage r s) 54 1 = 1 ∨ coreAbsent (rf r 204 9)

/-- The checks of F.POST: its image, the image's privilege, the image's boxes. -/
theorem checkPost_spec :
    (imageRefused s r → checkFabric .post r {} s = some .taskbad) ∧
    (¬imageRefused s r → taskPriv (postImage r s) = true → s.sys.pl = false → checkFabric .post r {} s = some .priv) ∧
    (¬imageRefused s r → (taskPriv (postImage r s) && !s.sys.pl) = false →
      (boxUnset s (postImage r s) → checkFabric .post r {} s = some .boxbad) ∧
      (¬boxUnset s (postImage r s) → checkFabric .post r {} s = none)) := by
  have task : fabricTaskBad .post r {} s = true ↔ imageRefused s r := by
    have core : bitsOf (recXf r) 12 9 = rf r 204 9 := bitsOf_rf r (by decide)
    unfold fabricTaskBad imageBad imageOffBad imageRefused recEng recGv recImm
    dsimp only
    rw [core]
    simp [← coreMissing_iff, or_assoc]
    exact Iff.rfl
  obtain ⟨unset, set⟩ := resolveWith_far s (postImage r s)
  unfold checkFabric
  dsimp only
  refine ⟨fun bad => if_pos (task.mpr bad), fun good privileged user => ?_, fun good may => ⟨fun no => ?_, fun all => ?_⟩⟩
  · rw [Bool.eq_false_iff.mpr (mt task.mp good)]
    simp [firstBad, privileged, user]
  · obtain ⟨c, error⟩ := unset no
    rw [Bool.eq_false_iff.mpr (mt task.mp good), show (Task.post == .post && taskPriv (postImage r s) && !s.sys.pl) = false from may]
    simp [firstBad, error]
  · obtain ⟨b, ok⟩ := set all
    rw [Bool.eq_false_iff.mpr (mt task.mp good), show (Task.post == .post && taskPriv (postImage r s) && !s.sys.pl) = false from may]
    simp [firstBad, ok, validBoxes, boxList]

end Fabric

end Sys2Proof.Machine
end

section
/-! The obligation about POST and POSTM, from its four parts. -/

namespace Sys2Proof.Machine

/-! ### What POST and POSTM do -/

/-- What an instruction that posts a record does, by the checks of the record. -/
theorem posts_spec {s u : State} {r : Rec} {size : BitVec 32} {i : Instr} (posts : PostsAs size r s u i) :
    (∀ b, checkRecord r u = .ok b → postWaits u r b = false →
      let pip := if obtainsPip r then freePip u else none
      let img := postedImage u r
      let e : Entry :=
        { slot := 0, record := r, boxes := b, seq := 0, state := .pending, pip := pip, dep := boundDep u r, image := img }
      let w := stepBoxes r (enter e 2 u)
      let x := match img with | some i => stepBoxes i.1 w | none => w
      let y := match pip with | some n => obtainPip r n u.thatch.nextSeq x | none => x
      let t := releaseAll y
      exec i s = .next (finish size s (.done t)) ∧ tkc t = tkc u + 1 ∧
      (∃ n ∈ t.thatch.entries, n.slot = u.thatch.nextSlot ∧ n.seq = u.thatch.nextSeq ∧ n.record = r ∧
        (n.state = .pending ∨ n.state = .ready) ∧ n.pip = pip ∧ n.boxes = { redirectAll u b with w := n.boxes.w } ∧
        ((n.boxes.w = b.w ∧ t.thatch.entries.length = u.thatch.entries.length + 1 ∧
            t.thatch.nextSeq = u.thatch.nextSeq + 1) ∨
          (∃ d ∈ t.thatch.dir, ∃ f ∈ t.thatch.entries, d.recSlot = n.slot ∧ d.foldSlot = n.slot + 1 ∧ b.w = some d.home ∧
            n.boxes.w = some { d.home with rb := some { off := d.off, o := d.home.o, e := d.home.e } } ∧
            f.slot = n.slot + 1 ∧ f.fold = true ∧ f.boxes.w = some d.home ∧ f.boxes.a = n.boxes.w ∧
            t.thatch.entries.length = u.thatch.entries.length + 2 ∧ t.thatch.nextSeq = u.thatch.nextSeq + 2))) ∧
      (img = none → ∀ x : Bx, getBox t x = if x.val ∈ boxRegs r then stepBox (getBox u x) else getBox u x) ∧
      (∀ n, pip = some n → getPip t n = { state := .inflight, seq := u.thatch.nextSeq } ∧
        (recGres r ≠ 0 → getG t (recGres r) = BitVec.ofNat 64 n)) ∧
      (pip = none → t.strand.g = u.strand.g)) ∧
    (∀ b, checkRecord r u = .ok b → postWaits u r b = true → exec i s = .next (stallAt u)) ∧
    (imageMeets u r = true → fieldsBad r = false → (taskPriv r && !u.sys.pl) = false → exec i s = .next (stallAt u)) ∧
    (imageMeets u r = false ∨ fieldsBad r = true ∨ (taskPriv r && !u.sys.pl) = true →
      ∀ c, checkRecord r u = .error c → c ≠ .brk → exec i s = .next (trapEntry { cause := c } false none s)) := by
  refine ⟨fun b accepted ready => ?_, fun b accepted waits => posts.waits accepted waits, posts.held,
    fun apart c refused other => posts.refused apart refused other⟩
  exact ⟨posts.enters accepted ready, posted_tkc r b u, posted_entry r b u, posted_boxes r b u, fun n => posted_pip r b u,
    posted_registers r b u⟩

/-- What POST does when it acts. -/
def postActs (r : Rec) (s : State) : Res := if postLeavesBody s then .trap { cause := .loopShape } else postRecord r s

/-- What POSTM does when it acts. -/
def postmActs (a : Reg) (s : State) : Res :=
  if !(getG s a).getLsbD 63 then .trap (checkTrap .seg (getG s a) 0)
  else
    match strandRead (getG s a) 32 0 s with
    | .trap t => .trap t
    | .stall s' => .stall s'
    | .ue s' => .stall s'
    | .bytes bs s' => postRecord (BitVec.ofNat 256 (leNat bs)) s'

theorem exec_post (r : Rec) (s : State) : exec (.post r) s = issue [] false 9 (postActs r) s := rfl

theorem exec_postm (a : Reg) (s : State) : exec (.postm a) s = issue [a] false 1 (postmActs a) s := rfl

theorem postmActs_reads {a : Reg} {s u : State} {bs : List Byte} (spad : (getG s a).getLsbD 63 = true)
    (read : strandRead (getG s a) 32 0 s = .bytes bs u) : postmActs a s = postRecord (BitVec.ofNat 256 (leNat bs)) u := by
  unfold postmActs
  refine (if_neg (by rw [spad]; decide)).trans ?_
  rw [read]

/-- POST and POSTM (R58, R159). -/
theorem post_postm (s : State) (r : Rec) (a : Reg) (calm : s.sys.spec = false) :
    (Ready [] false s → (postLeavesBody s = false → PostsAs 9 r s s (.post r)) ∧
      (postLeavesBody s = true → exec (.post r) s = .next (trapEntry { cause := .loopShape } false none s))) ∧
    (Ready [a] false s →
      ((getG s a).getLsbD 63 = true → ∀ bs u, strandRead (getG s a) 32 0 s = .bytes bs u → u.sys.spec = false →
        PostsAs 1 (BitVec.ofNat 256 (leNat bs)) s u (.postm a)) ∧
      ((getG s a).getLsbD 63 = false →
        exec (.postm a) s = .next (trapEntry { cause := .seg, faddr := some (getG s a) } false none s))) := by
  refine ⟨fun ready => ⟨fun inside => ?_, fun leaves => ?_⟩, fun ready => ⟨fun spad bs u read calmU => ?_, fun mem => ?_⟩⟩
  · exact .of_issue ready calm calm (exec_post r s) (if_neg (by rw [inside]; decide))
  · have trapped := issue_trap (size := 9) ready calm (viewWaits_other s (t := { cause := .loopShape }) (fun brk => Cause.noConfusion brk))
      (f := postActs r) (if_pos leaves)
    rw [consumedBy_bare] at trapped
    exact trapped
  · exact .of_issue ready calm calmU (exec_postm a s) (postmActs_reads spad read)
  · rw [exec_postm, issue_ready 1 _ ready]
    refine congrArg Host.Outcome.next ?_
    rw [show postmActs a s = .trap (checkTrap .seg (getG s a) 0) from if_pos (by rw [mem]; rfl)]
    refine finish_traps calm (fun brk => Cause.noConfusion brk) ?_
    rw [consumedBy_other s (fun ue => Cause.noConfusion ue), walkedBy_none s rfl]

/-! ### The entries -/

theorem checkEntry_of {r : Rec} {t : Task} (task : recTask r = some t) (b : Boxes) (s : State) :
    (rf r 8 3 = 0 → checkEntry r b s = checkMatrix t b s) ∧ (rf r 8 3 = 1 → checkEntry r b s = checkVector t r b s) ∧
      (rf r 8 3 = 2 → checkEntry r b s = checkTranspose t r b s) ∧ (rf r 8 3 = 3 → checkEntry r b s = checkCopy t r b s) ∧
      (rf r 8 3 = 4 → checkEntry r b s = checkFabric t r b s) := by
  unfold checkEntry recEng
  rw [task]
  refine ⟨fun eng => ?_, fun eng => ?_, fun eng => ?_, fun eng => ?_, fun eng => ?_⟩ <;> (rw [eng]; rfl)

theorem entry_matrix {r : Rec} {t : Task} (eng : rf r 8 3 = 0) (top : rf r 0 8 = (codeOf t).2) (ofT : (codeOf t).1 = 0) (b : Boxes)
    (s : State) : checkEntry r b s = checkMatrix t b s :=
  (checkEntry_of ((recTask_iff r t).mpr ⟨eng.trans ofT.symm, top⟩) b s).1 eng

theorem entry_vector {r : Rec} {t : Task} (eng : rf r 8 3 = 1) (top : rf r 0 8 = (codeOf t).2) (ofT : (codeOf t).1 = 1) (b : Boxes)
    (s : State) : checkEntry r b s = checkVector t r b s :=
  (checkEntry_of ((recTask_iff r t).mpr ⟨eng.trans ofT.symm, top⟩) b s).2.1 eng

theorem entry_transpose {r : Rec} {t : Task} (eng : rf r 8 3 = 2) (top : rf r 0 8 = (codeOf t).2) (ofT : (codeOf t).1 = 2) (b : Boxes)
    (s : State) : checkEntry r b s = checkTranspose t r b s :=
  (checkEntry_of ((recTask_iff r t).mpr ⟨eng.trans ofT.symm, top⟩) b s).2.2.1 eng

theorem entry_copy {r : Rec} {t : Task} (eng : rf r 8 3 = 3) (top : rf r 0 8 = (codeOf t).2) (ofT : (codeOf t).1 = 3) (b : Boxes)
    (s : State) : checkEntry r b s = checkCopy t r b s :=
  (checkEntry_of ((recTask_iff r t).mpr ⟨eng.trans ofT.symm, top⟩) b s).2.2.2.1 eng

theorem entry_fabric {r : Rec} {t : Task} (eng : rf r 8 3 = 4) (top : rf r 0 8 = (codeOf t).2) (ofT : (codeOf t).1 = 4) (b : Boxes)
    (s : State) : checkEntry r b s = checkFabric t r b s :=
  (checkEntry_of ((recTask_iff r t).mpr ⟨eng.trans ofT.symm, top⟩) b s).2.2.2.2 eng

/-- The checks of F.POST, by the codes of its image. -/
theorem post_entry {s : State} {r : Rec} (eng : rf r 8 3 = 4) (top : rf r 0 8 = 5) :
    (imageRefused s r → checkEntry r {} s = some .taskbad) ∧
    (¬imageRefused s r → rf (postImage r s) 8 3 = 3 ∧ (rf (postImage r s) 0 8 = 0x0A ∨ rf (postImage r s) 0 8 = 0x0B) →
      s.sys.pl = false → checkEntry r {} s = some .priv) ∧
    (¬imageRefused s r → (rf (postImage r s) 8 3 = 3 ∧ (rf (postImage r s) 0 8 = 0x0A ∨ rf (postImage r s) 0 8 = 0x0B) →
        s.sys.pl = true) →
      (boxUnset s (postImage r s) → checkEntry r {} s = some .boxbad) ∧
      (¬boxUnset s (postImage r s) → checkEntry r {} s = none)) := by
  rw [entry_fabric (t := .post) eng top rfl]
  obtain ⟨bad, privileged, boxes⟩ := checkPost_spec s r
  exact ⟨bad, fun good priv user => privileged good ((taskPriv_iff _).mpr priv) user, fun good may => boxes good (taskPriv_user may)⟩

/-- Settles O35: POST by the entry of its record and the order of its checks; the fields by the rows of the tasks, the boxes field by
field, the entries by their stages. -/
theorem postResults : Obligations.PostResults := by
  unfold Obligations.PostResults
  refine ⟨fun s r a calm => ?_, fun s r => ?_, fun s r w a v c => ?_⟩
  · intro traps posts
    obtain ⟨post, postm⟩ := post_postm s r a calm
    refine ⟨fun ready => ⟨fun inside => posts_spec ((post ready).1 inside), (post ready).2⟩,
      fun ready => ⟨fun spad bs u read calmU => posts_spec ((postm ready).1 spad bs u read calmU), (postm ready).2⟩⟩
  · intro f eng top all rows
    refine ⟨fieldsBad_reserved, fun absent => fieldsBad_unassigned (recTask_of_no_row absent),
      fun tops req opt mod imm xf gv at_ named zero zeros => fieldsBad_row at_ named zero zeros, ?_⟩
    intro priv
    obtain ⟨fields, privileged, boxes⟩ := checkRecord_spec s r
    refine ⟨fields, privileged, fun good may => ?_⟩
    intro halo box husk exceeds refused got b inSpad inMemory footprint tooBig
    obtain ⟨bad, accepted⟩ := boxes good may
    refine ⟨bad, fun clear => ?_⟩
    obtain ⟨entry, last⟩ := accepted clear
    refine ⟨entry, fun fine => ?_⟩
    obtain ⟨size, cut, good⟩ := last fine
    have big : restartBad r (gotBoxes s r) s = true ↔ tooBig := restartBad_codes r (gotBoxes s r) s
    exact ⟨fun over_ => size (big.mpr over_), fun fits => cut (Bool.eq_false_iff.mpr (mt big.mp fits)),
      fun fits => good (Bool.eq_false_iff.mpr (mt big.mp fits))⟩
  · intro f is h kind cached remote ring e same meets fmt num bits none_ stagedO wa wab
    refine ⟨fun q product => ?_, fun is => ?_, fun ⟨t, arith, is⟩ => ?_, fun is => ?_, ?_⟩
    · rcases product with ⟨⟨eng, top⟩, rfl⟩ | ⟨⟨eng, top⟩, rfl⟩
      · rw [entry_matrix (t := .mm) eng top rfl]
        exact staged_product s w a v (.inl ⟨rfl, rfl⟩)
      · rw [entry_matrix (t := .mmq) eng top rfl]
        exact staged_product s w a v (.inr ⟨rfl, rfl⟩)
    · rw [entry_transpose (t := .xpose) is.1 is.2 rfl]
      exact staged_xpose s w a r
    · simp only [List.mem_cons, List.not_mem_nil, or_false] at arith
      rcases arith with rfl | rfl | rfl | rfl | rfl
      · rw [entry_vector (t := .vadd) is.1 is.2 rfl]
        exact staged_arith s w a v r (by decide)
      · rw [entry_vector (t := .vsub) is.1 is.2 rfl]
        exact staged_arith s w a v r (by decide)
      · rw [entry_vector (t := .vmul) is.1 is.2 rfl]
        exact staged_arith s w a v r (by decide)
      · rw [entry_vector (t := .vmin) is.1 is.2 rfl]
        exact staged_arith s w a v r (by decide)
      · rw [entry_vector (t := .vmax) is.1 is.2 rfl]
        exact staged_arith s w a v r (by decide)
    · rw [entry_copy (t := .cpy) is.1 is.2 rfl]
      exact staged_cpy s w a r
    · intro dep absent
      refine ⟨fun is => ?_, fun is => ?_, fun is => ?_, fun is => ?_, fun is => ?_, fun is => ?_, fun is => ?_, fun is => ?_⟩
      · rcases is with is | is
        · rw [entry_fabric (t := .wr) is.1 is.2 rfl]
          exact staged_write s r w a (.inl rfl)
        · rw [entry_fabric (t := .wrp) is.1 is.2 rfl]
          exact staged_write s r w a (.inr rfl)
      · rw [entry_fabric (t := .rd) is.1 is.2 rfl]
        exact staged_read s r w a
      · rw [entry_fabric (t := .amo) is.1 is.2 rfl]
        exact staged_amo s r w
      · exact post_entry is.1 is.2
      · rw [entry_fabric (t := .sem) is.1 is.2 rfl]
        exact staged_sem s r
      · rw [entry_fabric (t := .rte) is.1 is.2 rfl]
        exact staged_route s r w a v c
      · rw [entry_fabric (t := .fred) is.1 is.2 rfl]
        exact staged_fred s r w a
      · rw [entry_fabric (t := .halo) is.1 is.2 rfl]
        have halo := staged_halo s r w a
        rw [farElems_eq] at halo
        exact halo

end Sys2Proof.Machine
end

section
/-! The residues of an accumulator element and its drain (R33 to R37). -/

namespace Sys2Proof.Machine

/-! ### The Chinese remainder of R35 -/

section Crt
variable {x : Int} {ra rb rc : Nat} (a : (ra : Int) = x % 4093) (b : (rb : Int) = x % 4095) (c : (rc : Int) = x % 4096)
include a b

/-- The second digit. -/
theorem crt_second : ((rb : Int) - ra) * 2047 % 4095 = x / 4093 % 4095 := by omega

include c

/-- The third digit. -/
theorem crt_third : ((rc : Int) - ra - 4093 * (x / 4093 % 4095)) * 2731 % 4096 = x / 4093 / 4095 % 4096 := by omega

/-- Residues of a sum in R34's range give the sum back. -/
theorem crt_eq (low : -34326190080 < x) (high : x ≤ 34326190080) : crt ra rb rc = x := by
  have second := crt_second a b
  have third := crt_third a b c
  unfold crt
  dsimp only
  rw [second]
  have small : 0 ≤ x / 4093 % 4095 := by omega
  have digit : (((x / 4093 % 4095).toNat : Nat) : Int) = x / 4093 % 4095 := Int.toNat_of_nonneg small
  rw [digit, third]
  split <;> omega

end Crt

/-! ### The check and the drain of an element -/

section Element
variable {a : Acc} {x : Int} (low : -34326190080 < x) (high : x ≤ 34326190080) (ra : (a.ra.toNat : Int) = x % 4093)
  (rb : (a.rb.toNat : Int) = x % 4095) (rc : (a.rc.toNat : Int) = x % 4096)
include low high ra rb rc

/-- The check sees a residue that does not fit (R36). -/
theorem accMismatch_iff (clean : a.po = false) : accMismatch a = true ↔ (a.rk.toNat : Int) ≠ x % 251 := by
  have smallA : a.ra.toNat < modA := by unfold modA; omega
  have smallB : a.rb.toNat < modB := by unfold modB; omega
  unfold accMismatch accCanonical resMod
  rw [clean, crt_eq ra rb rc low high, decide_eq_true smallA, decide_eq_true smallB]
  by_cases small : a.rk.toNat < 251
  · simp only [modK, small, decide_true, Bool.and_self, Bool.not_true, Bool.false_or, Bool.not_false, Bool.true_and, bne_iff_ne, ne_eq]
    omega
  · simp only [modK, small, decide_false, Bool.and_false, Bool.not_false, Bool.true_or, Bool.true_and, ne_eq, true_iff]
    omega

theorem accSum_eq (full : a.empty = false) : accSum a = x := by
  have smallA : a.ra.toNat % modA = a.ra.toNat := Nat.mod_eq_of_lt (by unfold modA; omega)
  have smallB : a.rb.toNat % modB = a.rb.toNat := Nat.mod_eq_of_lt (by unfold modB; omega)
  unfold accSum
  rw [full, smallA, smallB, crt_eq ra rb rc low high]
  rfl

/-- A float drain rounds the sum once (R37). -/
theorem drain_float (clean : a.po = false) (full : a.empty = false) {f : Fmt} (float : f ≠ .s32) :
    drain a f = roundVal f 0 (.fin (decide (x < 0)) x.natAbs (a.er.toInt + a.ec.toInt - 20)) := by
  unfold drain
  rw [clean, accSum_eq low high ra rb rc full]
  exact (if_neg Bool.false_ne_true).trans (if_neg float)

end Element

/-- The bounds of a 32-bit integer. -/
theorem clampInt_s32 (w : Int) : clampInt .s32 w = if w < -2 ^ 31 then -2 ^ 31 else if 2 ^ 31 - 1 < w then 2 ^ 31 - 1 else w := rfl

/-- An integer drain rounds the sum and saturates it (R37). -/
theorem drain_int {a : Acc} (clean : a.po = false) :
    let e := a.er.toInt + a.ec.toInt - 20
    let r := roundInt 0 (decide (accSum a < 0)) (accSum a).natAbs e false
    drain a .s32 = (unsignedOf 32 (clampInt .s32 r.1), (if clampInt .s32 r.1 = r.1 then 0 else flagSAT) |||
      (if r.2 = true ∨ clampInt .s32 r.1 ≠ r.1 then flagNX else 0)) := by
  intro e r
  unfold drain
  rw [clean]
  exact (if_neg Bool.false_ne_true).trans (if_pos rfl)

theorem drain_s32 {a : Acc} {x : Int} (clean : a.po = false) (sum : accSum a = x) :
    let e := a.er.toInt + a.ec.toInt - 20
    let w := (roundInt 0 (decide (x < 0)) x.natAbs e false).1
    let held := if w < -2 ^ 31 then -2 ^ 31 else if 2 ^ 31 - 1 < w then 2 ^ 31 - 1 else w
    drain a .s32 = ((held % 2 ^ 32).toNat, (if held = w then 0 else flagSAT) |||
      (if held = w ∧ (roundInt 0 (decide (x < 0)) x.natAbs e false).2 = false then 0 else flagNX)) := by
  intro e w held
  have drained := drain_int clean
  rw [sum] at drained
  dsimp only at drained
  rw [drained, clampInt_s32]
  suffices inexact : (if (roundInt 0 (decide (x < 0)) x.natAbs e false).2 = true ∨ held ≠ w then flagNX else 0) =
      if held = w ∧ (roundInt 0 (decide (x < 0)) x.natAbs e false).2 = false then 0 else flagNX from
    Prod.ext rfl (congrArg (fun f => (if held = w then 0 else flagSAT) ||| f) inexact)
  by_cases same : held = w
  · cases inexact : (roundInt 0 (decide (x < 0)) x.natAbs e false).2 <;> simp [same]
  · simp [same]

/-- A poisoned element drains as NaN with NV, and no check refuses it. -/
theorem drain_poisoned {a : Acc} (poisoned : a.po = true) :
    accMismatch a = false ∧ ∀ f, drain a f = (if f = .s32 then 0 else canonNaN f, flagNV) := by
  refine ⟨?_, fun f => if_pos poisoned⟩
  unfold accMismatch
  rw [poisoned]
  rfl

/-- An EMPTY element drains as +0. -/
theorem drain_empty {a : Acc} (clean : a.po = false) (empty : a.empty = true) (f : Fmt) : drain a f = (0, 0) := by
  have zero : accSum a = 0 := if_pos empty
  by_cases int : f = .s32
  · subst int
    have drained := drain_s32 clean zero
    dsimp only at drained
    have round (e : Int) : roundInt 0 (decide ((0 : Int) < 0)) (0 : Int).natAbs e false = (0, false) := by
      unfold roundInt restOf
      by_cases up : 0 ≤ e <;> simp [up, roundsUp]
    rw [drained, round]
    rfl
  · unfold drain
    rw [clean, zero]
    exact (if_neg Bool.false_ne_true).trans ((if_neg int).trans rfl)

theorem accMismatch_noncanonical {a : Acc} (clean : a.po = false) (out : 4093 ≤ a.ra.toNat ∨ 4095 ≤ a.rb.toNat ∨ 251 ≤ a.rk.toNat) :
    accMismatch a = true := by
  have bad : accCanonical a = false := by
    unfold accCanonical modA modB modK
    rcases out with out | out | out <;> simp [out]
  unfold accMismatch
  rw [clean, bad]
  rfl

/-- The first two parts of the obligation about the copy tasks: the residues of a sum and their drain. -/
theorem drain_spec :
    (∀ (a : Acc) (x : Int), -34326190080 < x → x ≤ 34326190080 → (a.ra.toNat : Int) = x % 4093 → (a.rb.toNat : Int) = x % 4095 →
      (a.rc.toNat : Int) = x % 4096 →
      let e := a.er.toInt + a.ec.toInt - 20
      let w := (roundInt 0 (decide (x < 0)) x.natAbs e false).1
      let held := if w < -2 ^ 31 then -2 ^ 31 else if 2 ^ 31 - 1 < w then 2 ^ 31 - 1 else w
      crt a.ra.toNat a.rb.toNat a.rc.toNat = x ∧
      (a.po = false → (accMismatch a = true ↔ (a.rk.toNat : Int) ≠ x % 251)) ∧
      (a.po = false → a.empty = false → (∀ f ∈ [Fmt.f32, .f16, .bf16], drain a f = roundVal f 0 (.fin (decide (x < 0)) x.natAbs e)) ∧
        drain a .s32 = ((held % 2 ^ 32).toNat, (if held = w then 0 else flagSAT) |||
          (if held = w ∧ (roundInt 0 (decide (x < 0)) x.natAbs e false).2 = false then 0 else flagNX)))) ∧
    (∀ a : Acc,
      (a.po = true → accMismatch a = false ∧ drain a .s32 = (0, flagNV) ∧ drain a .f32 = (0x7FC00000, flagNV) ∧
        drain a .f16 = (0x7E00, flagNV) ∧ drain a .bf16 = (0x7FC0, flagNV)) ∧
      (a.po = false → a.empty = true → ∀ f ∈ [Fmt.f32, .f16, .bf16, .s32], drain a f = (0, 0)) ∧
      (a.po = false → 4093 ≤ a.ra.toNat ∨ 4095 ≤ a.rb.toNat ∨ 251 ≤ a.rk.toNat → accMismatch a = true)) := by
  refine ⟨fun a x low high ra rb rc => ?_, fun a => ⟨fun poisoned => ?_, fun clean empty f _ => drain_empty clean empty f,
    accMismatch_noncanonical⟩⟩
  · intro e w held
    refine ⟨crt_eq ra rb rc low high, accMismatch_iff low high ra rb rc, fun clean full => ⟨fun f at_ => ?_, ?_⟩⟩
    · refine drain_float low high ra rb rc clean full fun int => ?_
      subst int
      exact absurd at_ (by decide)
    · exact drain_s32 clean (accSum_eq low high ra rb rc full)
  · obtain ⟨fine, drains⟩ := drain_poisoned poisoned
    exact ⟨fine, drains .s32, drains .f32, drains .f16, drains .bf16⟩

end Sys2Proof.Machine
end

section
/-! The plans of the copy and fabric tasks (R242 to R250, R339 to R345). -/

namespace Sys2Proof.Machine

/-- A record that runs performs units of what its engine plans. -/
theorem does_plan {s : State} {e : Entry} {slot n : Nat} {i : Instr} {t : Task} {plan : Plan} {p : State × Work}
    (is : exec i s = runTask t plan slot n s) (planned : plan e s = p) :
    Runs t slot e s → exec i s = .next (doUnits n p.2 e p.1) := fun runs => by
  rw [is, runTask_runs runs plan n, planned]

/-- The low bits of a number. -/
theorem bitsOf_low (x n : Nat) : bitsOf x 0 n = x % 2 ^ n := by rw [bitsOf, Nat.pow_zero, Nat.div_one]

section Plans
variable {s : State} {e : Entry}

/-! ### The copy tasks -/

theorem cpyPlan_held (held : readsHeld s e = true) : cpyPlan e s =
    unitPlan e.index (unitCount (boxBytes s (boxW e))) (fun u => [readUnit (boxA e) u, writeUnit (boxW e) u])
      (fun s u => streamPortion s (boxW e) (streamByte s (boxA e)) u) (fun _ => none) s := if_pos held

theorem cpyPlan_lost (lost : readsHeld s e = false) : cpyPlan e s = (s, { cause := some { cause := .boxbad } }) :=
  if_neg (by rw [lost]; decide)

theorem cpyfPlan_lost (lost : readsHeld s e = false) : cpyfPlan e s = (s, { cause := some { cause := .boxbad } }) :=
  if_neg (by rw [lost]; decide)

theorem cmpbPlan_lost (lost : readsHeld s e = false) : cmpbPlan e s = (s, { cause := some { cause := .boxbad } }) :=
  if_neg (by rw [lost]; decide)

theorem cmpbPlan_held (held : readsHeld s e = true) : cmpbPlan e s =
    partPlan e.index (unitCount (boxBytes s (boxA e))) e.part (fun u => [readUnit (boxA e) u, readUnit (boxB e) u])
      (fun s u v => ({}, compareUnit s (boxA e) (boxB e) u v)) some s := if_pos held

theorem cpyfPlan_copies (held : readsHeld s e = true) {w : RBox} (named : e.boxes.w = some w) : cpyfPlan e s =
    partPlan e.index (unitCount (boxBytes s (boxA e))) e.part (fun u => [readUnit (boxA e) u, writeUnit w u])
      (fun s u h => (streamPortion s w (streamByte s (boxA e)) u, fingerUnit s (boxA e) u h)) some s := by
  unfold cpyfPlan
  rw [named]
  exact if_pos held

theorem cpyfPlan_sums (held : readsHeld s e = true) (none : e.boxes.w = none) : cpyfPlan e s =
    partPlan e.index (unitCount (boxBytes s (boxA e))) e.part (fun u => [readUnit (boxA e) u])
      (fun s u h => ({}, fingerUnit s (boxA e) u h)) some s := by
  unfold cpyfPlan
  rw [none]
  exact if_pos held

/-- What C.ADV plans. -/
theorem advPlan_far (far : hkRows (boxHusk s (boxW e)) < advHead e.record (boxHusk s (boxW e))) :
    advPlan e s = (s, { cause := some { cause := .boxbad } }) := if_pos far

theorem advPlan_near (near : advHead e.record (boxHusk s (boxW e)) ≤ hkRows (boxHusk s (boxW e))) :
    let h := boxHusk s (boxW e)
    let new := advHead e.record h
    let r := advTouches h ((advUnits h new).drop e.index) s
    advPlan e s = (r.2.2, { units := r.1.map (advPortion r.2.2 h) ++
      (if r.2.1.isNone then [{ effects := [.head (boxW e).hid (BitVec.ofNat 32 new)], step := 0 }] else [])
                            cause := failCause r.2.1, waits := failWaits r.2.1 }) := if_neg (not_lt.mpr near)

/-! ### A plan that stops before a unit -/

theorem stopBefore_none {p : Nat} {bad : Nat → Bool} {r : State × Work} (clear : ∀ k, k < r.2.units.length → bad (p + k) = false) :
    stopBefore p bad r = r := by
  have none : (List.range r.2.units.length).find? (fun k => bad (p + k)) = Option.none :=
    List.find?_eq_none.mpr fun k at_ => by rw [clear k (List.mem_range.mp at_)]; decide
  unfold stopBefore
  rw [none]

theorem stopBefore_some {p : Nat} {bad : Nat → Bool} {r : State × Work} {k : Nat} (below : k < r.2.units.length)
    (here : bad (p + k) = true) (first : ∀ j, j < k → bad (p + j) = false) :
    stopBefore p bad r = (r.1, { r.2 with units := r.2.units.take k, cause := some { cause := .residue }, waits := false }) := by
  have found : (List.range r.2.units.length).find? (fun k => bad (p + k)) = some k := by
    refine List.find?_range_eq_some.mpr ⟨here, List.mem_range.mpr below, fun j less => ?_⟩
    rw [first j less]
    rfl
  unfold stopBefore
  rw [found]

/-- An element of unit u fails the check of W's husk. -/
def drnBad (s : State) (e : Entry) (u : Nat) : Bool :=
  (List.range (unitElems s (boxW e) u).2).any (fun k => drainBad s e ((unitElems s (boxW e) u).1 + k))

theorem drnPlan_eq (s : State) (e : Entry) : drnPlan e s = stopBefore e.index (drnBad s e)
    (unitPlan e.index (unitCount (boxBytes s (boxW e))) (fun u => [writeUnit (boxW e) u])
      (fun s' u => elemPortion s' e (fun t _ n => drain (accElem t (boxA e) n) (boxFmt s (boxW e))) (unitElems s' (boxW e) u))
      (fun _ => none) s) := rfl

/-- The pairs of a row of one record, drained, as C.SELK ranks them. -/
def selkPairs (e : Entry) : ElemOp := fun t _ x =>
  let k := max 1 (boxE t (boxW e) 0)
  let d (j : Nat) : Nat × BitVec 6 := drain (accElem t (boxA e) (x / k * boxE t (boxA e) 0 + j)) .f32
  let js := List.range (boxE t (boxA e) 0)
  ((match (rankRow (js.map (fun j => ((d j).1, j))))[x % k]? with
    | some p => p.2 % 2 ^ 16 * 2 ^ 32 + p.1
    | none => 0x0000FFFF7FC00000), js.foldl (fun f j => f ||| (d j).2) 0)

theorem selkPairs_eq (e : Entry) : (fun (t : State) (_ : Entry) x => selkOp t e x) = selkPairs e := by
  funext t f x
  unfold selkOp drainRow selkPairs
  dsimp only
  rw [List.map_map, List.foldl_map] <;> rfl

/-- A portion of elements asks its operation of its own record alone. -/
theorem elemPortion_at (s : State) (e : Entry) (f : ElemOp) (r : Nat × Nat) :
    elemPortion s e f r = elemPortion s e (fun t _ x => f t e x) r := rfl

theorem selkPlan_eq (s : State) (e : Entry) : selkPlan e s = stopBefore e.index (selkBad s e)
    (unitPlan e.index (unitCount (boxBytes s (boxW e))) (fun u => [writeUnit (boxW e) u])
      (fun s' u => elemPortion s' e (selkPairs e) (unitElems s' (boxW e) u)) (fun _ => none) s) := by
  have portions : (fun (t : State) u => elemPortion t e selkOp (unitElems t (boxW e) u)) =
      fun t u => elemPortion t e (selkPairs e) (unitElems t (boxW e) u) := by
    funext t u
    rw [← selkPairs_eq]
    exact elemPortion_at t e selkOp _
  rw [← portions]
  rfl

/-! ### The fabric tasks -/

theorem sendWork_sends {dst : Nat × Nat} {bodies : List (PktBody × Nat)} (open_ : routeRefused s dst.1 = false) :
    sendWork s e dst bodies = (s, { units := dropUnits e.index (sendPortions s e dst bodies) }) := if_neg (by rw [open_]; decide)

theorem sendWork_refused {dst : Nat × Nat} {bodies : List (PktBody × Nat)} (refused : routeRefused s dst.1 = true) :
    sendWork s e dst bodies = (s, { cause := some { cause := .remote } }) := if_pos refused

/-- A record that sends performs its packets, or fails where no route is left. -/
theorem sends_plan {slot n : Nat} {i : Instr} {t : Task} {plan : Plan} (is : exec i s = runTask t plan slot n s)
    {dst : Nat × Nat} {bodies : List (PktBody × Nat)} (planned : plan e s = sendWork s e dst bodies) :
    (routeRefused s dst.1 = false → Runs t slot e s →
      exec i s = .next (doUnits n { units := dropUnits e.index (sendPortions s e dst bodies) } e s)) ∧
    (routeRefused s dst.1 = true → Runs t slot e s → exec i s = .next (doUnits n { cause := some { cause := .remote } } e s)) :=
  ⟨fun open_ => does_plan is (planned.trans (sendWork_sends open_)), fun refused => does_plan is (planned.trans (sendWork_refused refused))⟩

theorem slot_of_runs {slot : Nat} {t : Task} (runs : Runs t slot e s) : e.slot = slot := slot_of_findEntry runs.1

/-- F.RD sends its next requests (R339). -/
theorem exec_read {slot n : Nat} (runs : Runs .rd slot e s) : exec (.fRd slot n) s = .next (sendReads n e s) := by
  obtain ⟨found, task, ordinary, running, _, _, working, _⟩ := runs
  change execFRd slot n s = _
  unfold execFRd
  rw [found]
  simp [task, ordinary, running, working]

theorem sendReads_sends {n : Nat} (may : (readPackets s e).length ≤ e.index ∨ routeRefused s (remoteDst s (boxA e)).1 = false) :
    let ps := ((readPackets s e).drop e.index).take n
    sendReads n e s = settleRead e.slot (toNet ps (putEntry { e with acks := e.acks + ps.length, index := e.index + ps.length } s)) := by
  refine if_neg fun ⟨below, refused⟩ => ?_
  rcases may with past | open_
  · exact absurd below (not_lt.mpr past)
  · exact Bool.noConfusion (open_.symm.trans refused)

theorem sendReads_refused {n : Nat} (below : e.index < (readPackets s e).length)
    (refused : routeRefused s (remoteDst s (boxA e)).1 = true) : sendReads n e s = failRecord e .remote s := if_pos ⟨below, refused⟩

theorem postPlan_image {i : Rec × Boxes} (image : e.image = some i) : postPlan e s =
    sendWork s e (recXf e.record % 2 ^ 12, recXf e.record / 2 ^ 12 % 2 ^ 9) [(.post i.1 i.2, 112)] := by
  unfold postPlan postDst
  rw [image, bitsOf_low]
  rfl

theorem semPlan_eq : semPlan e s = sendWork s e (recImm e.record % 2 ^ 12, recImm e.record / 2 ^ 12 % 2 ^ 9)
    [(.sem (recImm e.record / 2 ^ 21 % 2 ^ 11) (BitVec.ofNat 32 (recImm e.record / 2 ^ 32 % 2 ^ 32)), 8)] := by
  unfold semPlan
  dsimp only
  rw [bitsOf_low]
  rfl

theorem haloPlan_neighbour {m : Nat}
    (there : neighbour s (recImm e.record % 4) (recImm e.record / 4 % 2 == 1) = some m) :
    haloPlan e s = sendWork s e (m, ownCore s) (streamBodies (fun first bs last =>
      .halo (boxW e) (boxBits s (boxA e)) (hkFmtCode (boxHusk s (boxA e))) first bs last
        (if bitsOf (recImm e.record) 3 1 = 1 then some (bitsOf (recImm e.record) 4 11) else none)) (streamOf s (boxA e))) := by
  unfold haloPlan
  dsimp only
  rw [bitsOf_low, show neighbour s (recImm e.record % 2 ^ 2) (bitsOf (recImm e.record) 2 1 == 1) = some m from there]

/-! ### The list of F.RTE -/

theorem insertNat_perm (v : Nat) (l : List Nat) : (insertNat v l).Perm (v :: l) := by
  induction l with
  | nil => exact .refl _
  | cons x l ih =>
    unfold insertNat
    split
    · exact .refl _
    · exact (ih.cons x).trans (.swap v x l)

theorem insertNat_sorted {v : Nat} {l : List Nat} (sorted : l.Pairwise (· ≤ ·)) : (insertNat v l).Pairwise (· ≤ ·) := by
  induction l with
  | nil => exact List.pairwise_singleton _ _
  | cons x l ih =>
    obtain ⟨least, rest⟩ := List.pairwise_cons.mp sorted
    unfold insertNat
    split
    · next below =>
      exact List.pairwise_cons.mpr ⟨fun y at_ => (List.mem_cons.mp at_).elim (fun same => same ▸ below.le)
        (fun behind => below.le.trans (least y behind)), sorted⟩
    · next above =>
      refine List.pairwise_cons.mpr ⟨fun y at_ => ?_, ih rest⟩
      rcases List.mem_cons.mp ((insertNat_perm v l).subset at_) with rfl | behind
      · exact not_lt.mp above
      · exact least y behind

theorem sortNat_spec (l : List Nat) : (l.foldr insertNat []).Pairwise (· ≤ ·) ∧ (l.foldr insertNat []).Perm l := by
  induction l with
  | nil => exact ⟨.nil, .refl _⟩
  | cons x l ih => exact ⟨insertNat_sorted ih.1, (insertNat_perm x _).trans (ih.2.cons x)⟩

/-- Places of a list as a range. -/
theorem zipIdx_eq_range {α : Type} (d : α) (l : List α) : l.zipIdx = (List.range l.length).map (fun t => (l.getD t d, t)) := by
  refine List.ext_getElem (by simp) fun k _ below => ?_
  have inside : k < l.length := by simpa using below
  simp [List.getD_eq_getElem?_getD, List.getElem?_eq_getElem inside]

theorem rteKey_eq (s : State) (e : Entry) (p : Nat × Nat) :
    rteKey s e p = readElem s (boxC e) p.1 % 2 ^ 12 * 2 ^ 44 + p.1 * 2 ^ 32 + p.2 * 2 ^ 16 := by rw [rteKey, bitsOf_low]

theorem rteList_spec (s : State) (e : Entry) (st : Rte) : ∃ placed : List Nat, placed.Pairwise (· ≤ ·) ∧
    placed.Perm ((List.range st.ex.length).filterMap (fun t => (st.ex.getD t none).map (fun p =>
      readElem s (boxC e) p.1 % 2 ^ 12 * 2 ^ 44 + p.1 * 2 ^ 32 + p.2 * 2 ^ 16 + t))) ∧
    rteList s e st = placed ++ ((List.range st.ex.length).filter (fun t => (st.ex.getD t none).isNone)).map (2 ^ 63 + ·) := by
  obtain ⟨sorted, perm⟩ := sortNat_spec
    ((List.range st.ex.length).filterMap (fun t => (st.ex.getD t none).map (fun p =>
      readElem s (boxC e) p.1 % 2 ^ 12 * 2 ^ 44 + p.1 * 2 ^ 32 + p.2 * 2 ^ 16 + t)))
  refine ⟨_, sorted, perm, ?_⟩
  unfold rteList
  simp only [rteKey_eq]
  rw [zipIdx_eq_range none, List.filterMap_map, List.filterMap_map]
  refine congrArg₂ _ rfl ?_
  rw [← List.filterMap_eq_map', List.filterMap_filter]
  rfl

end Plans

end Sys2Proof.Machine
end

section
/-! F.RED, C.CMPB and the choices of F.RTE; the obligation about the copy and fabric tasks. -/

namespace Sys2Proof.Machine

/-! ### F.RED (R344) -/

section Red
variable (s : State) (e : Entry)

/-- The axis of F.RED, its node and the node to which it sends on. -/
def redAxis (e : Entry) : Nat := bitsOf (recImm e.record) 28 2
def redPlace (s : State) (e : Entry) : Nat := coord (ownNode s) (redAxis e)
def redDst (s : State) (e : Entry) : Nat × Nat := (withCoord (ownNode s) (redAxis e) (redPlace s e + 1), ownCore s)

/-- What F.RED combines. -/
def redOuts (s : State) (e : Entry) : List (Nat × BitVec 6) :=
  (List.range (boxElems s (boxW e))).map (redCombine s e (redPlace s e))

/-- The combine of F.RED. -/
def redPortion (s : State) (e : Entry) : Portion :=
  { effects := (redOuts s e).zipIdx.flatMap (fun o => elemEffects s (boxW e) o.2 o.1.1)
    flags := (redOuts s e).foldl (fun f o => f ||| o.2) 0 }

/-- The bodies that F.RED sends on. -/
def redBodies (s : State) (e : Entry) (bs : List Byte) : List (PktBody × Nat) :=
  streamBodies (fun first b last => .red (mirrorBox (boxW e)) (boxBits s (boxW e)) (hkFmtCode (boxHusk s (boxW e))) first b last
    (if bitsOf (recImm e.record) 27 1 = 1 then some (bitsOf (recImm e.record) 16 11) else none)) bs

theorem redPlan_late (first : e.index = 0) (late : recImm e.record % 2 ^ 16 < s.sys.gepoch.toNat) :
    redPlan e s = (s, { cause := some { cause := .remote } }) := if_pos ⟨first, late⟩

/-- What F.RED plans in its epoch. -/
theorem redPlan_eq (timely : ¬(e.index = 0 ∧ recImm e.record % 2 ^ 16 < s.sys.gepoch.toNat)) :
    let more := decide (redPlace s e + 1 < axisLen s (redAxis e))
    let refused := more && routeRefused s (redDst s e).1
    let stream := if e.index = 0 then packElems (boxBits s (boxW e)) ((redOuts s e).map Prod.fst) else streamOf s (boxW e)
    let sends := if more && !refused then sendPortions s e (redDst s e) (redBodies s e stream) else []
    redPlan e s = (s, { units := if e.index = 0 then withCombine (redPortion s e) sends else dropUnits e.index sends
                        cause := if refused then some { cause := .remote } else none }) := if_neg timely

section Epoch
variable {s e} (first : e.index = 0) (timely : s.sys.gepoch.toNat ≤ recImm e.record % 2 ^ 16)
include first timely

theorem redPlan_last (last : axisLen s (redAxis e) ≤ redPlace s e + 1) : redPlan e s = (s, { units := [redPortion s e] }) := by
  refine (redPlan_eq s e fun both => absurd both.2 (not_lt.mpr timely)).trans ?_
  rw [decide_eq_false (not_lt.mpr last), if_pos first]
  rfl

variable (more : redPlace s e + 1 < axisLen s (redAxis e))
include more

theorem redPlan_refused (refused : routeRefused s (redDst s e).1 = true) :
    redPlan e s = (s, { units := [redPortion s e], cause := some { cause := .remote } }) := by
  refine (redPlan_eq s e fun both => absurd both.2 (not_lt.mpr timely)).trans ?_
  rw [decide_eq_true more, refused, if_pos first]
  rfl

theorem redPlan_sends (open_ : routeRefused s (redDst s e).1 = false) {p : Portion} {t : List Portion}
    (on : sendPortions s e (redDst s e) (redBodies s e (packElems (boxBits s (boxW e)) ((redOuts s e).map Prod.fst))) = p :: t) :
    redPlan e s = (s, { units := { p with effects := (redPortion s e).effects ++ p.effects, flags := (redPortion s e).flags } :: t }) := by
  refine (redPlan_eq s e fun both => absurd both.2 (not_lt.mpr timely)).trans ?_
  rw [decide_eq_true more, open_, if_pos first, if_pos first]
  simp only [Bool.and_false, Bool.not_false, Bool.and_true, if_true]
  rw [on]
  rfl

end Epoch

/-- Behind its combine F.RED sends the stream of W. -/
theorem redPlan_on (behind : e.index ≠ 0) (more : redPlace s e + 1 < axisLen s (redAxis e))
    (open_ : routeRefused s (redDst s e).1 = false) :
    redPlan e s = (s, { units := dropUnits e.index (sendPortions s e (redDst s e) (redBodies s e (streamOf s (boxW e)))) }) := by
  refine (redPlan_eq s e fun both => behind both.1).trans ?_
  rw [decide_eq_true more, open_, if_neg behind, if_neg behind]
  rfl

/-- One element of F.RED. -/
theorem redCombine_spec (c i : Nat) :
    let f := boxFmt s (boxW e)
    let op := recImm e.record / 2 ^ 32 % 8
    let x := valA s e i
    let y := boxValue s (boxW e) i
    (4 ≤ op → redCombine s e c i =
      (if c = 0 then rawA s e i else (redOp f (recMod e.record) op (readElem s (boxW e) i) (rawA s e i)).1, 0)) ∧
    (op < 4 → c = 0 → redCombine s e c i = withFlags (snanOf [x]) (fit f (recMod e.record) x)) ∧
    (c ≠ 0 → (op = 0 → redCombine s e c i =
        withFlags (snanOf [y, x]) (fitWith f (recMod e.record) (addVal (recMod e.record % 4) y x))) ∧
      (op = 1 → redCombine s e c i = withFlags (snanOf [y, x]) (fitWith f (recMod e.record) (mulVal y x))) ∧
      (op = 2 → redCombine s e c i = withFlags (snanOf [y, x]) (fit f (recMod e.record) (minmaxVal false y x))) ∧
      (op = 3 → redCombine s e c i = withFlags (snanOf [y, x]) (fit f (recMod e.record) (minmaxVal true y x)))) := by
  intro f op x y
  have code : bitsOf (recImm e.record) 32 3 = op := rfl
  unfold redCombine
  dsimp only
  rw [code]
  refine ⟨fun wide => if_pos wide, fun arith first => (if_neg (not_le.mpr arith)).trans (if_pos first),
    fun later => ⟨fun is => ?_, fun is => ?_, fun is => ?_, fun is => ?_⟩⟩ <;>
  · rw [is, if_neg (by decide), if_neg later]
    rfl

end Red

/-! ### C.CMPB (R244) -/

section Compare
variable (s : State) (a b : RBox)

theorem firstDiff_none {j n : Nat} (same : ∀ i, j ≤ i → i < j + n → streamByte s a i = streamByte s b i) :
    firstDiff s a b j n = none := by
  induction n generalizing j with
  | zero => rfl
  | succ n ih =>
    unfold firstDiff
    rw [if_pos (same j (le_refl j) (by omega))]
    exact ih fun i from_ below => same i (by omega) (by omega)

theorem firstDiff_some {j n k : Nat} (from_ : j ≤ k) (below : k < j + n) (differ : streamByte s a k ≠ streamByte s b k)
    (same : ∀ i, j ≤ i → i < k → streamByte s a i = streamByte s b i) : firstDiff s a b j n = some k := by
  induction n generalizing j with
  | zero => omega
  | succ n ih =>
    unfold firstDiff
    by_cases here : j = k
    · subst here
      exact if_neg differ
    · rw [if_pos (same j (le_refl j) (by omega))]
      exact ih (by omega) (by omega) fun i le less => same i (by omega) less

theorem compareUnit_spec (u : Nat) (v : Word) :
    (v ≠ 0 → compareUnit s a b u v = v) ∧
    (v = 0 → (∀ j, 64 * u ≤ j → j < 64 * u + 64 → j < boxBytes s a → streamByte s a j = streamByte s b j) →
      compareUnit s a b u v = 0) ∧
    (∀ j, v = 0 → 64 * u ≤ j → j < 64 * u + 64 → j < boxBytes s a → streamByte s a j ≠ streamByte s b j →
      (∀ i, 64 * u ≤ i → i < j → streamByte s a i = streamByte s b i) →
      compareUnit s a b u v = BitVec.ofNat 64 (1 + j)) := by
  refine ⟨fun found => if_pos found, fun zero same => ?_, fun j zero from_ inUnit inside differ first => ?_⟩
  · unfold compareUnit
    rw [if_neg (not_not.mpr zero), firstDiff_none s a b fun i le less => same i le (by omega) (by omega)]
  · unfold compareUnit
    rw [if_neg (not_not.mpr zero), firstDiff_some s a b from_ (by omega) differ first]

end Compare

/-! ### One choice of F.RTE (R345) -/

theorem rteStep_spec (s : State) (e : Entry) (st : Rte) (k t : Nat) :
    let x := intOf (boxFmt s (boxA e)) (readElem s (boxA e) (t * boxE s (boxA e) 0 + k))
    let free := intOf (boxFmt s (boxB e)) (readElem s (boxB e) x.toNat)
    let used := st.used.getD x.toNat 0
    let open_ : Prop := st.ex.getD t none = none ∧ 0 ≤ x ∧ x < boxE s (boxB e) 0 ∧ readElem s (boxC e) x.toNat ≤ 4095 ∧
      (used : Int) < free
    (open_ → rteStep s e st k t = { used := st.used.set x.toNat (used + 1), ex := st.ex.set t (some (x.toNat, used)) }) ∧
    (¬open_ → rteStep s e st k t = st) := by
  intro x free used open_
  unfold rteStep
  dsimp only
  refine ⟨fun ⟨unassigned, low, high, node, room⟩ => ?_, fun shut => ?_⟩
  · refine (if_neg ?_).trans (if_pos ⟨node, room⟩)
    rw [unassigned]
    unfold inRange
    rw [decide_eq_true low, decide_eq_true high]
    decide
  · split
    · rfl
    · next may =>
      simp only [Bool.or_eq_true, not_or, Bool.not_eq_true, Bool.not_eq_false', Option.isSome_eq_false_iff, Option.isNone_iff_eq_none,
        inRange, Bool.and_eq_true, decide_eq_true_eq] at may
      obtain ⟨unassigned, low, high⟩ := may
      exact if_neg fun ⟨node, room⟩ => shut ⟨unassigned, low, high, node, room⟩

end Sys2Proof.Machine
end

section
/-! The obligation about the copy, fold and fabric tasks, from the plans of its tasks. -/

namespace Sys2Proof.Machine

section Copies
variable (slot n : Nat) (s : State) (e : Entry)

/-- A fold runs as C.CPY does (R162). -/
theorem fold_runs (found : findEntry s slot = some e) (fold : e.fold = true) (running : e.state = .running) (unplanned : e.work = none)
    (unaltered : e.altered = none) (working : s.pkg.shut = false) :
    exec (.fold slot n) s = .next (doUnits n (cpyPlan e s).2 e (cpyPlan e s).1) := by
  have quad : isQuad e = false := by
    unfold isQuad
    rw [fold, Bool.not_true, Bool.and_false]
  change execFold slot n s = _
  unfold execFold runEntry progress alterWork
  rw [found]
  simp [fold, running, unplanned, unaltered, working, quad]

/-- A drain or a selection that its check stops (R247, R250). -/
theorem checked_plan {i : Instr} {t : Task} {plan : Plan} {bad : Nat → Bool} {p : State × Work}
    (is : exec i s = runTask t plan slot n s) (planned : plan e s = stopBefore e.index bad p) :
    ((∀ k, k < p.2.units.length → bad (e.index + k) = false) → Runs t slot e s → exec i s = .next (doUnits n p.2 e p.1)) ∧
      (∀ k, k < p.2.units.length → bad (e.index + k) = true → (∀ j, j < k → bad (e.index + j) = false) → Runs t slot e s →
        exec i s = .next (doUnits n { p.2 with units := p.2.units.take k, cause := some { cause := .residue }, waits := false } e p.1)) :=
  ⟨fun clear => does_plan is (planned.trans (stopBefore_none clear)),
    fun _ below here first => does_plan is (planned.trans (stopBefore_some below here first))⟩

end Copies

/-- Settles O42: each task by what its engine plans, the numbers by the Chinese remainder and one rounding. -/
theorem copyFabricTasks : Obligations.CopyFabricTasks := by
  unfold Obligations.CopyFabricTasks
  refine ⟨drain_spec.1, drain_spec.2, fun slot n s e => ?_, compareUnit_spec, rteStep_spec, redCombine_spec⟩
  intro w a imm does whenHeld sends inUnit toW reads writes byW byA copy
  refine ⟨⟨fun held => does_plan rfl (cpyPlan_held held), fun lost => does_plan rfl (cpyPlan_lost lost)⟩,
    fun found fold running unplanned unaltered working => ⟨fun held => ?_, fun lost => ?_⟩, ?_,
    ⟨fun held => does_plan rfl (cmpbPlan_held held), fun lost => does_plan rfl (cmpbPlan_lost lost)⟩, does_plan rfl rfl, ?_, ?_,
    does_plan rfl rfl, does_plan rfl rfl, ?_, ?_, ?_, ?_, ?_, ?_, ?_, ?_⟩
  · exact (fold_runs slot n s e found fold running unplanned unaltered working).trans (by rw [cpyPlan_held held]; rfl)
  · exact (fold_runs slot n s e found fold running unplanned unaltered working).trans (by rw [cpyPlan_lost lost])
  · intro finger
    exact ⟨fun x named => ⟨fun held => does_plan rfl (cpyfPlan_copies held named), fun lost => does_plan rfl (cpyfPlan_lost lost)⟩,
      fun none => ⟨fun held => does_plan rfl (cpyfPlan_sums held none), fun lost => does_plan rfl (cpyfPlan_lost lost)⟩⟩
  · intro h new rows r
    exact ⟨fun far => does_plan rfl (advPlan_far far), fun near => does_plan rfl (advPlan_near near)⟩
  · intro checked mismatch row
    have drn := checked_plan slot n s e (i := .cDrn slot n) (t := .drn) (plan := drnPlan) rfl (drnPlan_eq s e)
    have selk := checked_plan slot n s e (i := .cSelk slot n) (t := .selk) (plan := selkPlan) rfl (selkPlan_eq s e)
    unfold drnBad drainBad at drn
    unfold selkBad drainBad at selk
    exact ⟨⟨fun clear => drn.1 fun k => clear k, fun k below here first => drn.2 k below here first⟩,
      fun clear => selk.1 fun k => clear k, fun k below here first => selk.2 k below here first⟩
  · intro ws
    exact ⟨sends_plan rfl rfl, sends_plan rfl rfl⟩
  · intro runs ps
    obtain rfl := slot_of_runs runs
    exact ⟨fun may => (exec_read runs).trans (congrArg Host.Outcome.next (sendReads_sends may)),
      fun below refused => (exec_read runs).trans (congrArg Host.Outcome.next (sendReads_refused below refused))⟩
  · exact sends_plan rfl rfl
  · intro i image
    exact sends_plan rfl (postPlan_image image)
  · exact sends_plan rfl semPlan_eq
  · intro m there
    exact sends_plan rfl (haloPlan_neighbour there)
  · intro st
    exact ⟨does_plan rfl rfl, rteList_spec s e st⟩
  · intro axis c dst outs combine bodies on
    refine ⟨fun first late => does_plan rfl (redPlan_late s e first late), fun first timely => ⟨fun last => ?_, fun more refused => ?_,
      fun more open_ p t packets => ?_⟩, fun behind more open_ => ?_⟩
    · exact does_plan rfl (redPlan_last first timely last)
    · exact does_plan rfl (redPlan_refused first timely more refused)
    · exact does_plan rfl (redPlan_sends first timely more open_ packets)
    · exact does_plan rfl (redPlan_on s e behind more open_)

end Sys2Proof.Machine
end

section
/-! What the engines plan for the matrix and the transpose tasks (R185 to R206). -/

namespace Sys2Proof.Machine

section Plans
variable {s : State} {e : Entry}

/-! ### The products -/

section Products
variable {qs : List Quarter} {groups : State → RBox → Option (List Nat)}

theorem productPlan_gone (gone : arrayGone s = true) : productPlan qs groups e s = (s, { cause := some arrayCause }) := if_pos gone

theorem productPlan_lost (good : arrayGone s = false) (lost : (winHeld s (theBox e.boxes.a) && winHeld s (theBox e.boxes.b)) = false) :
    productPlan qs groups e s = (s, { cause := some { cause := .boxbad } }) :=
  (if_neg (Bool.eq_false_iff.mp good)).trans (if_pos (by rw [lost]; rfl))

/-- A product whose offsets are none. -/
theorem productPlan_ungrouped (good : arrayGone s = false) (heldA : winHeld s (theBox e.boxes.a) = true)
    (heldB : winHeld s (theBox e.boxes.b) = true) (ungrouped : groups s (theBox e.boxes.c) = none) :
    productPlan qs groups e s = (s, { cause := some { cause := .boxbad } }) := by
  unfold productPlan
  dsimp only
  rw [good, heldA, heldB, ungrouped] <;> rfl

theorem productPlan_runs (good : arrayGone s = false) (heldA : winHeld s (theBox e.boxes.a) = true)
    (heldB : winHeld s (theBox e.boxes.b) = true) {offs : List Nat} (grouped : groups s (theBox e.boxes.c) = some offs) :
    productPlan qs groups e s =
      unitPlan (e.index / 16) (stripes (boxE s (theBox e.boxes.w) 1))
        (fun u => [fun t =>
          (if u = e.index / 16 then
            [{ box := theBox e.boxes.b, first := 0, count := boxElems t (theBox e.boxes.b), write := false }] else []) ++
            qs.map (fun q => { box := theBox e.boxes.a, first := (q.row + 16 * u) * boxE s (theBox e.boxes.a) 0
                               count := (stripeRows (boxE s (theBox e.boxes.w) 1) u).length * boxE s (theBox e.boxes.a) 0
                               write := false })])
        (fun t u => joinPortions (stripeRows (boxE s (theBox e.boxes.w) 1) u).length
          (qs.flatMap (fun q => (stripeRows (boxE s (theBox e.boxes.w) 1) u).map (fun i =>
            rowPortion t (theBox e.boxes.w) (theBox e.boxes.a) q i
              (colScales t (theBox e.boxes.w) (theBox e.boxes.b) q (groupOf offs i)
                (offs.getD (groupOf offs i) 0) (offs.getD (groupOf offs i + 1) 0))))))
        (fun _ => none) s := by
  unfold productPlan
  dsimp only
  rw [good, heldA, heldB, grouped] <;> rfl

end Products

/-! ### M.MMQ -/

theorem mmqPlan_part {p : Part} (part : e.quarter = some p) : mmqPlan e s = quarterPlan p e s := by
  unfold mmqPlan
  rw [part]

theorem mmqPlan_reduced (lead : e.quarter = none) (reduced : quadReduced s = true) (good : arrayGone s = false) :
    mmqPlan e s = (s, { cause := some { cause := .residue, info := some (BitVec.ofNat 32 e.seq) } }) := by
  unfold mmqPlan
  rw [lead]
  exact if_pos (by rw [reduced, good]; rfl)

theorem mmqPlan_whole (lead : e.quarter = none) (whole : quadReduced s = false) :
    mmqPlan e s = productPlan (quarters s (theBox e.boxes.w)) (oneGroup (boxE s (theBox e.boxes.w) 1)) e s := by
  unfold mmqPlan
  rw [lead]
  exact if_neg (by rw [whole]; exact Bool.false_ne_true)

/-- An M.MMQ that the stall wire holds stops at its stripe boundary (R196). -/
theorem exec_mmq_held {slot n : Nat} (found : findEntry s slot = some e) (task : recTask e.record = some .mmq) (ordinary : e.fold = false)
    (running : e.state = .running) (working : s.pkg.shut = false) (held : wireHeld s = true) :
    exec (.mMmq slot n) s = .next (releaseAll (holdQuad s)) := by
  have quad : isQuad e = true := by rw [isQuad, task, ordinary]; rfl
  change runTask .mmq mmqPlan slot n s = _
  unfold runTask runEntry
  rw [found]
  simp [task, ordinary, working, running, quad, held]

/-- What holding the quad makes of an entry. -/
def heldQuad (s : State) (e : Entry) : Entry :=
  if isQuad e && e.state == .running && wireHeld s then stopEntry e
  else if isQuad e && e.state == .stopped && !wireHeld s && !s.thatch.stopped && s.strand.run != .stopped then { e with state := .ready }
  else e

theorem slot_stopEntry (e : Entry) : (stopEntry e).slot = e.slot := by
  unfold stopEntry
  split
  · split <;> rfl
  · rfl

theorem slot_heldQuad (s : State) (e : Entry) : (heldQuad s e).slot = e.slot := by
  unfold heldQuad
  split
  · exact slot_stopEntry e
  · split <;> rfl

theorem findEntry_holdQuad {slot : Nat} (found : findEntry s slot = some e) : findEntry (holdQuad s) slot = some (heldQuad s e) := by
  have slots : (fun x : Entry => x.slot == slot) ∘ heldQuad s = fun x => x.slot == slot := by
    funext x
    exact congrArg (· == slot) (slot_heldQuad s x)
  change (s.thatch.entries.map (heldQuad s)).find? (fun x => x.slot == slot) = _
  rw [List.find?_map, slots]
  exact congrArg (Option.map (heldQuad s)) found

theorem heldQuad_stops (task : recTask e.record = some .mmq) (ordinary : e.fold = false) (running : e.state = .running)
    (held : wireHeld s = true) : heldQuad s e = stopEntry e :=
  if_pos (by rw [isQuad, task, ordinary, running, held]; rfl)

/-- An engine of a package that has shut down does nothing. -/
theorem runTask_shut {t : Task} {plan : Plan} {slot n : Nat} (shut : s.pkg.shut = true) : runTask t plan slot n s = .next s := by
  unfold runTask
  cases findEntry s slot with
  | none => rfl
  | some e =>
    refine congrArg Host.Outcome.next ?_
    dsimp only
    split
    · exact if_pos shut
    · rfl

/-! ### M.MMG, M.MZ and M.MST -/

theorem mzPlan_gone (gone : arrayGone s = true) : mzPlan e s = (s, { cause := some arrayCause }) := if_pos gone

theorem mstPlan_gone (gone : arrayGone s = true) : mstPlan e s = (s, { cause := some arrayCause }) := if_pos gone

theorem mzPlan_clears (good : arrayGone s = false) : mzPlan e s =
    unitPlan (e.index / 16) (stripes (boxE s (theBox e.boxes.w) 1)) (fun _ => [])
      (fun t u =>
        { effects := (stripeRows (boxE s (theBox e.boxes.w) 1) u).flatMap (fun i =>
            (List.range (boxE t (theBox e.boxes.w) 0)).map (fun j => .acc (tileKey t (theBox e.boxes.w) i j) {}))
          step := (stripeRows (boxE s (theBox e.boxes.w) 1) u).length }) (fun _ => none) s :=
  if_neg (Bool.eq_false_iff.mp good)

theorem mstWord_eq (before after : BitVec 4) :
    mstWord before after = (15 - after.toNat) + 16 * (after &&& ~~~before).toNat := by
  rw [mstWord, BitVec.toNat_not]

theorem mstPlan_tests (good : arrayGone s = false) : mstPlan e s =
    (selfTest s, { units := [{ effects := elemEffects (selfTest s) (theBox e.boxes.w) 0
                                ((15 - (selfTest s).store.fenced.toNat) +
                                  16 * ((selfTest s).store.fenced &&& ~~~s.store.fenced).toNat)
                               step := boxE s (theBox e.boxes.w) 1 }] }) := by
  rw [← mstWord_eq]
  exact if_neg (Bool.eq_false_iff.mp good)

end Plans

/-! ### The transpose tasks -/

theorem permIndex_swaps (i : Dims) : permIndex 0xE1 i = { x0 := i.x1, x1 := i.x0, x2 := i.x2, x3 := i.x3 } := rfl

/-- The digits of a permutation lie in its low 8 bits. -/
theorem permOf_low (x : Nat) {d : Nat} (below : d < 4) : permOf (x % 256) d = x / 4 ^ d % 4 := by
  unfold permOf
  interval_cases d <;> norm_num <;> omega

theorem permIndex_low (x : Nat) (i : Dims) :
    permIndex (x % 256) i = (List.range 4).foldl (fun j d => dput j (x / 4 ^ d % 4) (dget i d)) {} :=
  List.foldl_ext _ _ _ fun j d at_ => by rw [permOf_low x (List.mem_range.mp at_)]

/-- Which dimensions X.XREV reverses stands in the low 4 bits. -/
theorem revBit_low (x : Nat) {d : Nat} (below : d < 4) : bitsOf (x % 16) d 1 = x / 2 ^ d % 2 := by
  unfold bitsOf
  interval_cases d <;> norm_num <;> omega

theorem revIndex_low (s : State) (a : RBox) (x : Nat) (i : Dims) : revIndex s a (x % 16) i =
    (List.range 4).foldl (fun j d => dput j d (if x / 2 ^ d % 2 = 1 then boxE s a d - 1 - dget i d else dget i d)) {} :=
  List.foldl_ext _ _ _ fun j d at_ => by rw [revBit_low x (List.mem_range.mp at_)]

/-! ### A row and a column of a product -/

theorem rowVals_length (s : State) (a : RBox) (i : Nat) : (rowVals s a i).length = boxE s a 0 := by
  rw [rowVals, List.length_map, List.length_range]

/-- What a row of a product makes of element j. -/
theorem rowPortion_at {s : State} {w a : RBox} {q : Quarter} {i j : Nat} {cols : List (Scale × BitVec 6)} {c : Scale × BitVec 6}
    (whole : cols.length = boxE s w 0) (at_ : cols[j]? = some c) :
    (rowPortion s w a q i cols).effects[j]? = some (accEffect q.core (accKey s w (i * boxE s w 0 + j))
      (accumulate (coreAcc s q.core (accKey s w (i * boxE s w 0 + j))) (boxE s a 0)
        (scaleOf (boxHusk s a) (rowVals s a (q.row + i)) (storedOf (fun x => x.er.toInt)
          ((List.range (boxE s w 0)).map (fun j => coreAcc s q.core (accKey s w (i * boxE s w 0 + j)))))) c.1).1) := by
  have below : j < boxE s w 0 := whole ▸ (List.getElem?_eq_some_iff.mp at_).1
  unfold rowPortion tileRow
  simp only [rowVals_length, List.getElem?_zipWith, List.getElem?_map, List.getElem?_range below, at_, Option.map_some, List.map_map]
  rfl

/-- The scale of column j. -/
theorem colScales_at {s : State} {w b : RBox} {q : Quarter} {j g lo hi : Nat} (below : j < boxE s w 0) :
    ((colScales s w b q g lo hi)[j]?).map Prod.fst = some (scaleOf (boxHusk s b) (colVals s b (q.col + j) g)
      (storedOf (fun x => x.ec.toInt) ((List.range (hi - lo)).map (fun i =>
        coreAcc s q.core (accKey s w ((lo + i) * boxE s w 0 + j)))))) := by
  unfold colScales
  rw [List.getElem?_map, List.getElem?_range below]
  rfl

/-! ### What is added to an element (R187) -/

section Accumulate
variable (el : Acc) (k : Nat)

theorem accumulate_poisoned {ra cb : Scale} (po : el.po = true) : accumulate el k ra cb = (el, 0) := if_pos po

theorem accumulate_poisons {ra cb : Scale} (clean : el.po = false) (bad : ra = .poison ∨ cb = .poison ∨ 8191 < el.kc.toNat + k) :
    accumulate el k ra cb = ({ el with po := true, empty := false }, flagNV) := by
  unfold accumulate
  rw [clean]
  cases ra <;> cases cb <;> simp_all

theorem accumulate_none {ra cb : Scale} (clean : el.po = false) (fits : el.kc.toNat + k ≤ 8191) (row : ra ≠ .poison) (col : cb ≠ .poison)
    (zero : ra = .none ∨ cb = .none) : accumulate el k ra cb = (el, 0) := by
  unfold accumulate
  rw [clean]
  cases ra <;> cases cb <;> simp_all

theorem accumulate_adds {e f : Int} {p q : List Int} (clean : el.po = false) (fits : el.kc.toNat + k ≤ 8191) :
    accumulate el k (.at_ e p) (.at_ f q) = ({ accAdd el (dot p q) with
      er := if el.empty then BitVec.ofInt 9 e else el.er
      ec := if el.empty then BitVec.ofInt 9 f else el.ec
      empty := false, kc := BitVec.ofNat 13 (el.kc.toNat + k) }, 0) := by
  unfold accumulate
  rw [clean]
  exact if_neg (Nat.not_lt.mpr fits)

/-- A channel of the residues adds modulo its number (R33). -/
theorem channel_adds {n m r : Nat} (fits : m ≤ 2 ^ n) (pos : 0 < m) (x : Int) :
    (((BitVec.ofNat n ((r + resMod m x) % m)).toNat : Nat) : Int) = ((r : Int) + x) % (m : Int) := by
  have below : (r + resMod m x) % m < 2 ^ n := (Nat.mod_lt _ pos).trans_le fits
  have same : ((resMod m x : Nat) : Int) = x % (m : Int) := Int.toNat_of_nonneg (Int.emod_nonneg _ (by omega))
  rw [BitVec.toNat_ofNat, Nat.mod_eq_of_lt below, Int.natCast_emod, Int.natCast_add, same, Int.add_emod_emod]

theorem accumulate_spec {e f : Int} {p q : List Int} (clean : el.po = false) (fits : el.kc.toNat + k ≤ 8191) :
    let t := accumulate el k (.at_ e p) (.at_ f q)
    let x := (p.zipWith (fun u v => u * v) q).sum
    t.2 = 0 ∧ t.1.po = false ∧ t.1.empty = false ∧ t.1.kc.toNat = el.kc.toNat + k ∧
    t.1.er = (if el.empty then BitVec.ofInt 9 e else el.er) ∧ t.1.ec = (if el.empty then BitVec.ofInt 9 f else el.ec) ∧
    (t.1.ra.toNat : Int) = ((el.ra.toNat : Int) + x) % 4093 ∧ (t.1.rb.toNat : Int) = ((el.rb.toNat : Int) + x) % 4095 ∧
    (t.1.rc.toNat : Int) = ((el.rc.toNat : Int) + x) % 4096 ∧ (t.1.rk.toNat : Int) = ((el.rk.toNat : Int) + x) % 251 := by
  intro t x
  have is : t = _ := accumulate_adds el k clean fits
  rw [is]
  exact ⟨rfl, clean, rfl, Nat.mod_eq_of_lt (show el.kc.toNat + k < 2 ^ 13 by omega), rfl, rfl,
    channel_adds (m := 4093) (by decide) (by decide) x, channel_adds (m := 4095) (by decide) (by decide) x,
    channel_adds (m := 4096) (by decide) (by decide) x, channel_adds (m := 251) (by decide) (by decide) x⟩

end Accumulate

end Sys2Proof.Machine
end

section
/-! The obligation about the matrix and transpose tasks, from the plans of its tasks. -/

namespace Sys2Proof.Machine

section Products
variable {slot n : Nat} {s : State} {e : Entry}

/-- How a product runs: with no array, with a window that does not hold its rows, and else by its groups. -/
theorem products_run {i : Instr} {t : Task} {plan : Plan} {qs : List Quarter} {groups : State → RBox → Option (List Nat)}
    (is : exec i s = runTask t plan slot n s) (planned : plan e s = productPlan qs groups e s) :
    (arrayGone s = true → Runs t slot e s → exec i s = .next (doUnits n { cause := some arrayCause } e s)) ∧
    (arrayGone s = false → (winHeld s (theBox e.boxes.a) && winHeld s (theBox e.boxes.b)) = false →
      Runs t slot e s → exec i s = .next (doUnits n { cause := some { cause := .boxbad } } e s)) ∧
    (arrayGone s = false → winHeld s (theBox e.boxes.a) = true → winHeld s (theBox e.boxes.b) = true →
      groups s (theBox e.boxes.c) = none → Runs t slot e s → exec i s = .next (doUnits n { cause := some { cause := .boxbad } } e s)) :=
  ⟨fun gone => does_plan is (planned.trans (productPlan_gone gone)),
    fun good lost => does_plan is (planned.trans (productPlan_lost good lost)),
    fun good heldA heldB ungrouped => does_plan is (planned.trans (productPlan_ungrouped good heldA heldB ungrouped))⟩

end Products

theorem mmPlan_eq (s : State) (e : Entry) : mmPlan e s =
    productPlan [{ core := none, row := 0, col := 0 }] (oneGroup (boxE s (theBox e.boxes.w) 1)) e s := rfl

/-- The groups of an M.MMG, where its offsets are some. -/
def mmgGroups (w : RBox) (s : State) : State → RBox → Option (List Nat) := fun s' c =>
  if offsetsBad (groupOffsets s' c) (boxE s w 1) then none else some (groupOffsets s' c)

theorem mmgPlan_eq (s : State) (e : Entry) : mmgPlan e s =
    productPlan [{ core := none, row := 0, col := 0 }] (mmgGroups (theBox e.boxes.w) s) e s := rfl

/-- Settles O40: each task by what its engine plans, a product by its rows, its columns and what it adds. -/
theorem matrixTransposeTasks : Obligations.MatrixTransposeTasks := by
  unfold Obligations.MatrixTransposeTasks
  refine ⟨fun slot n s e => ?_, fun s w a b q i j g lo hi cols c => ?_, fun el k ra cb => ?_⟩
  · intro does fails gone w a b one rows k stripe product products
    refine ⟨?_, fun lead whole => ?_, fun lead reduced good => does_plan rfl (mmqPlan_reduced lead reduced good), fun p part => ?_,
      fun found task ordinary running working held => ⟨exec_mmq_held found task ordinary running working held,
        _, findEntry_holdQuad found, heldQuad_stops task ordinary running held⟩,
      fun shut => ⟨runTask_shut shut, runTask_shut shut, runTask_shut shut⟩, ?_,
      fun none => ⟨does_plan rfl (mzPlan_gone none), does_plan rfl (mstPlan_gone none)⟩,
      fun good => does_plan rfl (mzPlan_clears good), fun good => does_plan rfl (mstPlan_tests good), ?_⟩
    · obtain ⟨lost, unheld, _⟩ := products_run (i := .mMm slot n) (s := s) (n := n) (plan := mmPlan) (e := e) rfl (mmPlan_eq s e)
      refine ⟨lost, unheld, fun good heldA heldB => ⟨?_, fun no => absurd no (Option.some_ne_none _)⟩⟩
      rintro _ ⟨⟩
      exact does_plan rfl ((mmPlan_eq s e).trans (productPlan_runs good heldA heldB rfl))
    · obtain ⟨lost, unheld, _⟩ := products_run (i := .mMmq slot n) (plan := mmqPlan) (e := e) rfl (mmqPlan_whole lead whole)
      refine ⟨lost, unheld, fun good heldA heldB => ⟨?_, fun no => absurd no (Option.some_ne_none _)⟩⟩
      rintro _ ⟨⟩
      exact does_plan rfl ((mmqPlan_whole lead whole).trans (productPlan_runs good heldA heldB rfl))
    · exact does_plan rfl (mmqPlan_part part)
    · obtain ⟨lost, unheld, ungrouped⟩ := products_run (i := .mMmg slot n) (s := s) (n := n) (plan := mmgPlan) (e := e) rfl (mmgPlan_eq s e)
      exact ⟨lost, unheld, fun good heldA heldB =>
        ⟨fun o grouped => does_plan rfl ((mmgPlan_eq s e).trans (productPlan_runs good heldA heldB grouped)), ungrouped good heldA heldB⟩⟩
    · intro moves
      refine ⟨does_plan rfl rfl, does_plan rfl ?_, does_plan rfl ?_⟩
      · exact congrArg (fun f => xPlan (fun _ _ => f) e s) (funext fun i => permIndex_low (recImm e.record) i)
      · exact congrArg (fun f : State → Entry → Dims → Dims => xPlan f e s)
          (funext fun t => funext fun x => funext fun i => revIndex_low t (theBox x.boxes.a) (recImm x.record) i)
  · intro old
    exact ⟨fun whole at_ => rowPortion_at whole at_, fun below => colScales_at below⟩
  · intro t
    refine ⟨accumulate_poisoned el k, accumulate_poisons el k, accumulate_none el k, ?_⟩
    rintro e f p q rfl rfl clean fits
    exact accumulate_spec el k clean fits

end Sys2Proof.Machine
end

section
/-! Rounding to a float format (R17, R25, R27): the codes of a format, and what a value between two of them rounds to. -/

namespace Sys2Proof.Machine

section Formats
variable {f : Fmt}

/-- The low bits of a code: the significand without its hidden bit. -/
def fracBits (f : Fmt) : Nat := fmtPrec f - 1

/-- The code of the largest finite magnitude, and that of an infinity (of F8 the largest number). -/
def infCode (f : Fmt) : Nat := if f = .f8 then 0x7E else (2 ^ (fmtBits f - fmtPrec f) - 1) * 2 ^ (fmtPrec f - 1)
def topCode (f : Fmt) : Nat := if f = .f8 then 0x7E else infCode f - 1

/-- The significand of a code's magnitude, and the exponent of its last place. -/
def sigOf (f : Fmt) (c : Nat) : Nat := if c < 2 ^ fracBits f then c else 2 ^ fracBits f + c % 2 ^ fracBits f
def placeOf (f : Fmt) (c : Nat) : Int := fmtEmin f - (fracBits f : Int) + ((max 1 (c / 2 ^ fracBits f) - 1 : Nat) : Int)

/-- What the significand, the last place and the largest number of a float format are. -/
theorem format_facts (float : fmtIsFloat f = true) :
    3 ≤ fracBits f ∧ fmtPrec f = fracBits f + 1 ∧ fmtMax f = (sigOf f (topCode f), placeOf f (topCode f)) ∧
      2 ^ fracBits f ≤ topCode f ∧ topCode f < 2 ^ (fmtBits f - 1) := by
  cases f <;> first | exact Bool.noConfusion float | decide

theorem topCode_lt (float : fmtIsFloat f = true) : topCode f < 2 ^ (fmtBits f - 1) := (format_facts float).2.2.2.2

theorem fmtPrec_eq (float : fmtIsFloat f = true) : fmtPrec f = fracBits f + 1 := (format_facts float).2.1

theorem sigOf_small {c : Nat} (small : c < 2 ^ fracBits f) : sigOf f c = c := if_pos small

theorem sigOf_normal {c : Nat} (normal : 2 ^ fracBits f ≤ c) : sigOf f c = 2 ^ fracBits f + c % 2 ^ fracBits f :=
  if_neg (Nat.not_lt.mpr normal)

theorem sigOf_lt (c : Nat) : sigOf f c < 2 ^ fracBits f * 2 := by
  have low := Nat.mod_lt c (Nat.two_pow_pos (fracBits f))
  unfold sigOf
  split <;> omega

theorem placeOf_small {c : Nat} (small : c < 2 ^ fracBits f) : placeOf f c = fmtEmin f - (fracBits f : Int) := by
  rw [placeOf, Nat.div_eq_of_lt small]
  simp

theorem div_pos_of_normal {c : Nat} (normal : 2 ^ fracBits f ≤ c) : 1 ≤ c / 2 ^ fracBits f :=
  (Nat.one_le_div_iff (Nat.two_pow_pos _)).mpr normal

/-- A normal code is its exponent and its fraction. -/
theorem placeOf_normal {c : Nat} (normal : 2 ^ fracBits f ≤ c) :
    placeOf f c = fmtEmin f - (fracBits f : Int) + (((c / 2 ^ fracBits f : Nat) : Int) - 1) := by
  have pos := div_pos_of_normal normal
  rw [placeOf, Nat.max_eq_right pos, Int.natCast_sub pos]
  rfl

theorem placeOf_mono {c d : Nat} (le : c ≤ d) : placeOf f c ≤ placeOf f d := by
  have := Nat.div_le_div_right (c := 2 ^ fracBits f) le
  unfold placeOf
  omega

/-! ### Beyond the largest number -/

/-- Magnitudes compare over the lesser of their exponents. -/
theorem cmpMag_gt_of_le {m n : Nat} {e g : Int} (le : e ≤ g) : cmpMag m e n g = .gt ↔ n * 2 ^ (g - e).toNat < m := by
  rw [cmpMag, if_pos le, compare_gt_iff_gt]

/-- The magnitude of a code, or the next one at its place, lies beyond the largest number where its code does. -/
theorem overflows_iff (float : fmtIsFloat f = true) {c up : Nat} (below : c ≤ topCode f) (one : up ≤ 1) :
    cmpMag (sigOf f c + up) (placeOf f c) (fmtMax f).1 (fmtMax f).2 = .gt ↔ topCode f < c + up := by
  obtain ⟨_, _, largest, normal, _⟩ := format_facts float
  rw [largest, cmpMag_gt_of_le (placeOf_mono below)]
  dsimp only
  have pos := Nat.two_pow_pos (fracBits f)
  have low := sigOf_lt (f := f) c
  have split_c := Nat.div_add_mod c (2 ^ fracBits f)
  have split_top := Nat.div_add_mod (topCode f) (2 ^ fracBits f)
  rw [sigOf_normal normal, placeOf_normal normal]
  rcases (Nat.div_le_div_right (c := 2 ^ fracBits f) below).lt_or_eq with less | same
  · -- a place below the largest one
    have nat : 2 ^ fracBits f * (c / 2 ^ fracBits f + 1) ≤ 2 ^ fracBits f * (topCode f / 2 ^ fracBits f) := Nat.mul_le_mul_left _ less
    have lowC := Nat.mod_lt c pos
    rw [Nat.mul_add_one] at nat
    have within : ¬ topCode f < c + up := by omega
    have far : 1 ≤ (fmtEmin f - (fracBits f : Int) + (((topCode f / 2 ^ fracBits f : Nat) : Int) - 1) - placeOf f c).toNat ∨
        c < 2 ^ fracBits f ∧ topCode f / 2 ^ fracBits f = 1 := by
      unfold placeOf
      by_cases small : c < 2 ^ fracBits f
      · rw [Nat.div_eq_of_lt small] at less ⊢
        simp only [small, true_and, Nat.zero_le, Nat.max_eq_left, Nat.sub_self]
        omega
      · have := div_pos_of_normal (Nat.not_lt.mp small)
        omega
    refine iff_of_false ?_ within
    rw [Nat.not_lt]
    rcases far with far | ⟨small, _⟩
    · have double := Nat.pow_le_pow_right (n := 2) (by decide) far
      calc sigOf f c + up ≤ 2 ^ fracBits f * 2 := by omega
        _ ≤ (2 ^ fracBits f + topCode f % 2 ^ fracBits f) * 2 ^ _ := Nat.mul_le_mul (by omega) double
    · rw [sigOf_small small]
      have := Nat.le_mul_of_pos_right (2 ^ fracBits f + topCode f % 2 ^ fracBits f)
        (Nat.two_pow_pos (fmtEmin f - (fracBits f : Int) + (((topCode f / 2 ^ fracBits f : Nat) : Int) - 1) - placeOf f c).toNat)
      omega
  · -- the place of the largest number
    have normalC : 2 ^ fracBits f ≤ c := by
      have := div_pos_of_normal normal
      rw [← same] at this
      exact (Nat.one_le_div_iff pos).mp this
    rw [placeOf_normal normalC, same, sub_self, Int.toNat_zero, Nat.pow_zero, Nat.mul_one, sigOf_normal normalC]
    rw [same] at split_c
    omega

/-! ### One rounding (R27) -/

/-- What a magnitude beyond the largest number rounds to. -/
def hugeBits (f : Fmt) (mode : Nat) (neg : Bool) : Nat × BitVec 6 :=
  (signBit f neg + (if mode = 1 ∨ (mode = 2 ∧ neg = false) ∨ (mode = 3 ∧ neg = true) then topCode f else infCode f), flagOF ||| flagNX)

/-- The bits and the flags of a rounded significand. -/
def roundedBits (f : Fmt) (mode : Nat) (neg : Bool) (y : Nat) (q : Int) (rest : Nat) : Nat × BitVec 6 :=
  if cmpMag y q (fmtMax f).1 (fmtMax f).2 = .gt then hugeBits f mode neg
  else
    let fl : BitVec 6 := if rest = 0 then 0 else if y < 2 ^ fracBits f then flagNX ||| flagUF else flagNX
    if y < 2 ^ fracBits f then (signBit f neg + y, fl)
    else if y = 2 ^ fmtPrec f then
      (signBit f neg + (q + 1 + (fracBits f : Int) + fmtBias f).toNat * 2 ^ fracBits f + (2 ^ fracBits f - 2 ^ fracBits f), fl)
    else (signBit f neg + (q + (fracBits f : Int) + fmtBias f).toNat * 2 ^ fracBits f + (y - 2 ^ fracBits f), fl)

/-- The last place that a rounding keeps. -/
def keptPlace (f : Fmt) (m : Nat) (e : Int) : Int :=
  max (e + (Nat.log2 m : Int) - (fracBits f : Int)) (fmtEmin f - (fracBits f : Int))

theorem huge_cases (float : fmtIsFloat f = true) {mode : Nat} (modes : mode < 4) (neg : Bool) :
    (if f = .f8 then (maxBits f neg, flagOF ||| flagNX)
      else if mode = 0 then (infBits f neg, flagOF ||| flagNX)
      else if mode = 1 || (mode = 2 && !neg) || (mode = 3 && neg) then (maxBits f neg, flagOF ||| flagNX)
      else (infBits f neg, flagOF ||| flagNX)) = hugeBits f mode neg := by
  have top : maxBits f neg = signBit f neg + topCode f := by
    unfold maxBits topCode infCode
    split <;> rfl
  have inf : infBits f neg = signBit f neg + infCode f := rfl
  have same : f = .f8 → topCode f = infCode f := by
    rintro rfl
    rfl
  rw [top, inf, hugeBits]
  by_cases f8 : f = .f8
  · rw [if_pos f8, same f8, ite_self]
  · rw [if_neg f8]
    interval_cases mode <;> cases neg <;> rfl

/-- The significand that a rounding keeps, and what lies below it. -/
def keptParts (m : Nat) (e q : Int) (sticky : Bool) : Nat × Nat :=
  if q ≤ e then (m * 2 ^ (e - q).toNat, if sticky then 1 else 0) else (m / 2 ^ (q - e).toNat, restOf m (q - e).toNat sticky)

/-- The kept significand, rounded. -/
def roundedSig (mode : Nat) (neg : Bool) (y : Nat × Nat) : Nat := if roundsUp mode neg (y.1 % 2 == 1) y.2 then y.1 + 1 else y.1

theorem roundFin_settled (float : fmtIsFloat f = true) {mode : Nat} (modes : mode < 4) {neg : Bool} {m : Nat} {e : Int} {sticky : Bool}
    (some : (m = 0 && !sticky) = false) : roundFin f mode neg m e sticky =
      roundedBits f mode neg (roundedSig mode neg (keptParts m e (keptPlace f m e) sticky)) (keptPlace f m e)
        (keptParts m e (keptPlace f m e) sticky).2 := by
  have place : ((fmtPrec f : Int) - 1) = (fracBits f : Int) := by
    rw [fmtPrec_eq float]
    push_cast
    ring
  unfold roundFin roundedBits roundedSig
  rw [if_neg (Bool.eq_false_iff.mp some)]
  dsimp only
  rw [place, ← keptPlace, ← keptParts, huge_cases float modes, show fmtPrec f - 1 = fracBits f from rfl]
  refine if_congr Iff.rfl rfl ?_
  refine if_congr Iff.rfl rfl ?_
  split_ifs <;> rfl

/-! ### The codes of a format are its values -/

/-- The significand of a code, or the next one, at the code's place settles at the code, or the next one. -/
theorem roundedBits_code (float : fmtIsFloat f = true) {mode : Nat} {neg : Bool} {c up rest : Nat} (below : c ≤ topCode f) (one : up ≤ 1) :
    roundedBits f mode neg (sigOf f c + up) (placeOf f c) rest = if topCode f < c + up then hugeBits f mode neg else
      (signBit f neg + c + up, if rest = 0 then 0 else if c + up < 2 ^ fracBits f then flagNX ||| flagUF else flagNX) := by
  have pos := Nat.two_pow_pos (fracBits f)
  have two : 2 ≤ 2 ^ fracBits f := (Nat.pow_le_pow_right (n := 2) (by decide) (format_facts float).1).trans' (by decide)
  have prec : 2 ^ fmtPrec f = 2 ^ fracBits f * 2 := by rw [fmtPrec_eq float, Nat.pow_succ]
  have split_c := Nat.div_add_mod c (2 ^ fracBits f)
  have lowC := Nat.mod_lt c pos
  unfold roundedBits
  refine if_congr (overflows_iff float below one) rfl ?_
  dsimp only
  rw [prec]
  by_cases small : c < 2 ^ fracBits f
  · rw [sigOf_small small, Nat.add_assoc]
    by_cases stays : c + up < 2 ^ fracBits f
    · rw [if_pos stays, if_pos stays, ← Nat.add_assoc]
    have place : (placeOf f c + (fracBits f : Int) + fmtBias f).toNat = 1 := by
      rw [placeOf_small small, fmtBias]
      omega
    rw [if_neg stays, if_neg (by omega), place, if_neg stays]
    congr 1
    omega
  · have normal := Nat.not_lt.mp small
    have expo := div_pos_of_normal normal
    have place : (placeOf f c + (fracBits f : Int) + fmtBias f).toNat = c / 2 ^ fracBits f := by
      rw [placeOf_normal normal, fmtBias]
      omega
    have next : (placeOf f c + 1 + (fracBits f : Int) + fmtBias f).toNat = c / 2 ^ fracBits f + 1 := by
      rw [placeOf_normal normal, fmtBias]
      omega
    rw [sigOf_normal normal, if_neg (by omega), place, next]
    have large : ¬ c + up < 2 ^ fracBits f := by omega
    have wide : ¬ 2 ^ fracBits f + c % 2 ^ fracBits f + up < 2 ^ fracBits f := by omega
    rw [if_neg large, if_neg wide]
    split
    · congr 1
      rw [Nat.add_mul, Nat.one_mul, Nat.mul_comm (c / 2 ^ fracBits f)]
      omega
    · congr 1
      rw [Nat.mul_comm (c / 2 ^ fracBits f)]
      omega

/-- The significand of a code fills its place, unless it is subnormal. -/
theorem log2_sigOf_normal {c : Nat} (normal : 2 ^ fracBits f ≤ c) : Nat.log2 (sigOf f c) = fracBits f := by
  have low := Nat.mod_lt c (Nat.two_pow_pos (fracBits f))
  rw [sigOf_normal normal, Nat.log2_eq_iff (by omega)]
  exact ⟨by omega, by omega⟩

/-- What lies in or above a code's significand keeps the code's place. -/
theorem keptPlace_code {c k r : Nat} (rest : r < 2 ^ k) (some : 0 < sigOf f c * 2 ^ k + r) :
    keptPlace f (sigOf f c * 2 ^ k + r) (placeOf f c - (k : Int)) = placeOf f c := by
  have pos := Nat.two_pow_pos k
  unfold keptPlace
  by_cases small : c < 2 ^ fracBits f
  · have bound : sigOf f c * 2 ^ k + r < 2 ^ (fracBits f + k) := by
      rw [sigOf_small small, Nat.pow_add]
      calc c * 2 ^ k + r < (c + 1) * 2 ^ k := by rw [Nat.add_mul, Nat.one_mul]; omega
        _ ≤ 2 ^ fracBits f * 2 ^ k := Nat.mul_le_mul_right _ small
    have log := (Nat.log2_lt some.ne').mpr bound
    rw [placeOf_small small]
    omega
  · have normal := Nat.not_lt.mp small
    have low := Nat.mod_lt c (Nat.two_pow_pos (fracBits f))
    have log : Nat.log2 (sigOf f c * 2 ^ k + r) = fracBits f + k := by
      rw [Nat.log2_eq_iff some.ne', sigOf_normal normal, Nat.pow_add, show fracBits f + k + 1 = (fracBits f + 1) + k by omega,
        Nat.pow_add _ (fracBits f + 1)]
      constructor
      · exact (Nat.mul_le_mul_right _ (Nat.le_add_right _ _)).trans (Nat.le_add_right _ _)
      · calc (2 ^ fracBits f + c % 2 ^ fracBits f) * 2 ^ k + r < (2 ^ fracBits f + c % 2 ^ fracBits f + 1) * 2 ^ k := by
              rw [Nat.add_mul _ 1, Nat.one_mul]; omega
          _ ≤ 2 ^ (fracBits f + 1) * 2 ^ k := Nat.mul_le_mul_right _ (by rw [Nat.pow_succ]; omega)
    have least : fmtEmin f - (fracBits f : Int) ≤ placeOf f c := by
      unfold placeOf
      omega
    rw [log]
    omega

/-! ### Rounding between two codes -/

/-- What is left below a place rounds away as `awayBy` says. -/
theorem roundsUp_restOf (mode : Nat) (neg odd : Bool) {m k r : Nat} (low : m % 2 ^ k = r) (rest : r < 2 ^ k) :
    roundsUp mode neg odd (restOf m k false) = awayBy mode neg odd r k ∧ (restOf m k false = 0 ↔ r = 0) := by
  unfold roundsUp restOf awayBy
  rw [low]
  rcases Nat.eq_zero_or_pos k with rfl | pos
  · rw [Nat.pow_zero, Nat.lt_one_iff] at rest
    subst rest
    exact ⟨rfl, Iff.rfl⟩
  · obtain ⟨j, rfl⟩ : ∃ j, k = j + 1 := ⟨k - 1, by omega⟩
    have double : 2 ^ (j + 1) = 2 * 2 ^ j := by rw [Nat.pow_succ, Nat.mul_comm]
    rw [double] at rest ⊢
    rw [Nat.add_sub_cancel]
    rcases Nat.eq_zero_or_pos r with rfl | some
    · simp
    · rcases lt_trichotomy r (2 ^ j) with less | rfl | more
      · have short : ¬ 2 * 2 ^ j < 2 * r := by omega
        have unequal : ¬ 2 * r = 2 * 2 ^ j := by omega
        simp only [some.ne', less, short, unequal, some]
        rcases mode with _ | _ | _ | _ <;> simp
      · simp only [some.ne', lt_irrefl, some]
        rcases mode with _ | _ | _ | _ <;> simp
      · have long : 2 * 2 ^ j < 2 * r := by omega
        have unequal : ¬ 2 * r = 2 * 2 ^ j := by omega
        simp only [some.ne', more.not_gt, more.ne', long, unequal, some]
        rcases mode with _ | _ | _ | _ <;> simp

end Formats

end Sys2Proof.Machine
end

section
/-! The codes of the float formats and rounding to them (R17 to R19, R25, R27). -/

namespace Sys2Proof.Machine

section Formats
variable {f : Fmt}

/-! ### Reading a code -/

/-- The width of a float format: a sign, an exponent and a fraction. -/
theorem fmtBits_eq (float : fmtIsFloat f = true) : fmtBits f - 1 = fracBits f + (fmtBits f - fmtPrec f) := by
  cases f <;> first | exact Bool.noConfusion float | decide

/-- The fields of a signed code. -/
theorem code_fields (float : fmtIsFloat f = true) (neg : Bool) {c : Nat} (below : c < 2 ^ (fmtBits f - 1)) :
    ((signBit f neg + c) / 2 ^ (fmtBits f - 1) % 2 == 1) = neg ∧
      (signBit f neg + c) / 2 ^ fracBits f % 2 ^ (fmtBits f - fmtPrec f) = c / 2 ^ fracBits f ∧
      (signBit f neg + c) % 2 ^ fracBits f = c % 2 ^ fracBits f := by
  have pos := Nat.two_pow_pos (fracBits f)
  have width : 2 ^ (fmtBits f - 1) = 2 ^ fracBits f * 2 ^ (fmtBits f - fmtPrec f) := by rw [fmtBits_eq float, Nat.pow_add]
  have expo : c / 2 ^ fracBits f < 2 ^ (fmtBits f - fmtPrec f) := Nat.div_lt_of_lt_mul (width ▸ below)
  unfold signBit
  cases neg
  · simp only [Bool.false_eq_true, if_false, Nat.zero_add, Nat.div_eq_of_lt below, Nat.mod_eq_of_lt expo, and_self, and_true]
    rfl
  · rw [if_pos rfl, Nat.add_div_left _ (Nat.two_pow_pos _), Nat.div_eq_of_lt below, width, Nat.mul_add_div pos, Nat.mul_add_mod,
      Nat.add_mod_left, Nat.mod_eq_of_lt expo]
    exact ⟨rfl, rfl, rfl⟩

/-- What a code below the exponent of all ones means. -/
theorem valOfBits_code (float : fmtIsFloat f = true) (neg : Bool) {c : Nat} (below : c ≤ topCode f) :
    valOfBits f (signBit f neg + c) = .fin neg (sigOf f c) (placeOf f c) := by
  have pos := Nat.two_pow_pos (fracBits f)
  obtain ⟨sign, expo, frac⟩ := code_fields float neg (below.trans_lt (topCode_lt float))
  have split_c := Nat.div_add_mod c (2 ^ fracBits f)
  unfold valOfBits
  rw [if_pos float]
  dsimp only
  rw [show fmtPrec f - 1 = fracBits f from rfl, sign, expo, frac]
  have finite : (if c / 2 ^ fracBits f = 0 then Val.fin neg (c % 2 ^ fracBits f) (fmtEmin f - (fracBits f : Int))
      else .fin neg (2 ^ fracBits f + c % 2 ^ fracBits f) (((c / 2 ^ fracBits f : Nat) : Int) - fmtBias f - (fracBits f : Int))) =
        .fin neg (sigOf f c) (placeOf f c) := by
    by_cases small : c < 2 ^ fracBits f
    · rw [if_pos (Nat.div_eq_of_lt small), Nat.mod_eq_of_lt small, sigOf_small small, placeOf_small small]
    · have normal := Nat.not_lt.mp small
      have expo := div_pos_of_normal normal
      rw [if_neg (by omega), sigOf_normal normal, placeOf_normal normal, fmtBias]
      congr 1
      omega
  by_cases f8 : f = .f8
  · subst f8
    have top : c ≤ 126 := below
    have whole : ¬ (decide (c / 2 ^ fracBits .f8 = 15) && decide (c % 2 ^ fracBits .f8 = 7)) = true := by
      rw [Bool.and_eq_true, decide_eq_true_eq, decide_eq_true_eq]
      change ¬ (c / 8 = 15 ∧ c % 8 = 7)
      omega
    rw [if_pos rfl, if_neg whole, ← finite]
    refine if_congr Iff.rfl rfl ?_
    congr 1
    change _ - 10 = _ - 7 - 3
    omega
  · have infinite : topCode f < (2 ^ (fmtBits f - fmtPrec f) - 1) * 2 ^ fracBits f := by
      cases f <;> first | exact Bool.noConfusion float | exact absurd rfl f8 | decide
    have ordinary : ¬ c / 2 ^ fracBits f = 2 ^ (fmtBits f - fmtPrec f) - 1 := fun same => by
      have := Nat.div_mul_le_self c (2 ^ fracBits f)
      rw [same] at this
      omega
    rw [if_neg f8, if_neg ordinary, finite]

/-- The codes above the largest number. -/
theorem valOfBits_f8_nan (neg : Bool) : valOfBits .f8 (signBit .f8 neg + 0x7F) = .nan false := by cases neg <;> rfl

theorem valOfBits_special (float : fmtIsFloat f = true) (wide : f ≠ .f8) (neg : Bool) {r : Nat} (frac : r < 2 ^ fracBits f) :
    valOfBits f (signBit f neg + (infCode f + r)) = if r = 0 then .inf neg else .nan (decide (r < 2 ^ (fmtPrec f - 2))) := by
  have inf : infCode f = 2 ^ fracBits f * (2 ^ (fmtBits f - fmtPrec f) - 1) := (if_neg wide).trans (Nat.mul_comm _ _)
  have pos := Nat.two_pow_pos (fmtBits f - fmtPrec f)
  have width : 2 ^ (fmtBits f - 1) = 2 ^ fracBits f * 2 ^ (fmtBits f - fmtPrec f) := by rw [fmtBits_eq float, Nat.pow_add]
  have below : infCode f + r < 2 ^ (fmtBits f - 1) := by
    rw [width, inf]
    calc 2 ^ fracBits f * (2 ^ (fmtBits f - fmtPrec f) - 1) + r
        < 2 ^ fracBits f * (2 ^ (fmtBits f - fmtPrec f) - 1) + 2 ^ fracBits f := by omega
      _ = 2 ^ fracBits f * 2 ^ (fmtBits f - fmtPrec f) := by rw [← Nat.mul_add_one, Nat.sub_add_cancel pos]
  obtain ⟨sign, expo, low⟩ := code_fields float neg below
  rw [inf, Nat.mul_add_div (Nat.two_pow_pos _), Nat.div_eq_of_lt frac, Nat.add_zero] at expo
  rw [inf, Nat.mul_add_mod, Nat.mod_eq_of_lt frac] at low
  unfold valOfBits
  rw [if_pos float, ← inf] at *
  dsimp only
  rw [show fmtPrec f - 1 = fracBits f from rfl, sign, expo, low, if_neg wide, if_pos rfl]

/-! ### Rounding a code's value, and what lies between two codes -/

theorem keptParts_code (c k r : Nat) (rest : r < 2 ^ k) (some : 0 < k) (q : Int) :
    keptParts (c * 2 ^ k + r) (q - (k : Int)) q false = (c, restOf (c * 2 ^ k + r) k false) := by
  have shift : (q - (q - (k : Int))).toNat = k := by omega
  rw [keptParts, if_neg (by omega), shift, Nat.mul_comm, Nat.mul_add_div (Nat.two_pow_pos k), Nat.div_eq_of_lt rest, Nat.add_zero]

theorem sigOf_zero {c : Nat} (zero : sigOf f c = 0) : c = 0 := by
  have pos := Nat.two_pow_pos (fracBits f)
  unfold sigOf at zero
  split at zero <;> omega

theorem sigOf_odd (float : fmtIsFloat f = true) (c : Nat) : sigOf f c % 2 = c % 2 := by
  have two : 2 ∣ 2 ^ fracBits f := dvd_pow_self 2 (by have := (format_facts float).1; omega)
  unfold sigOf
  split
  · rfl
  · rw [Nat.add_mod, Nat.mod_mod_of_dvd _ two, Nat.mod_eq_zero_of_dvd two, Nat.zero_add, Nat.mod_mod]

theorem roundVal_code (float : fmtIsFloat f = true) {mode : Nat} (modes : mode < 4) (neg : Bool) {c : Nat} (below : c ≤ topCode f) :
    roundVal f mode (.fin neg (sigOf f c) (placeOf f c)) = (signBit f neg + c, 0) := by
  change roundFin f mode neg _ _ false = _
  rcases Nat.eq_zero_or_pos (sigOf f c) with zero | some
  · rw [zero, sigOf_zero zero]
    rfl
  · have kept : keptPlace f (sigOf f c) (placeOf f c) = placeOf f c := by
      have := keptPlace_code (f := f) (c := c) (k := 0) (r := 0) Nat.one_pos (by omega)
      simpa using this
    have parts : keptParts (sigOf f c) (placeOf f c) (placeOf f c) false = (sigOf f c, 0) := by
      rw [keptParts, if_pos le_rfl, sub_self]
      simp
    have exact_ : roundedSig mode neg (sigOf f c, 0) = sigOf f c + 0 := rfl
    rw [roundFin_settled float modes (by simp [some.ne']), kept, parts, exact_, roundedBits_code float below (by decide), if_neg (by omega),
      if_pos rfl, Nat.add_zero]

theorem roundVal_between (float : fmtIsFloat f = true) {mode : Nat} (modes : mode < 4) (neg : Bool) {c k r : Nat}
    (below : c ≤ topCode f) (some : 0 < r) (rest : r < 2 ^ k) :
    roundVal f mode (.fin neg (sigOf f c * 2 ^ k + r) (placeOf f c - (k : Int))) =
      if topCode f < c + (awayBy mode neg (c % 2 == 1) r k).toNat then hugeBits f mode neg else
        (signBit f neg + c + (awayBy mode neg (c % 2 == 1) r k).toNat,
          if c + (awayBy mode neg (c % 2 == 1) r k).toNat < 2 ^ fracBits f then flagNX ||| flagUF else flagNX) := by
  change roundFin f mode neg _ _ false = _
  have places : 0 < k := by
    rcases Nat.eq_zero_or_pos k with rfl | pos
    · omega
    · exact pos
  have low : (sigOf f c * 2 ^ k + r) % 2 ^ k = r := by rw [Nat.mul_comm, Nat.mul_add_mod, Nat.mod_eq_of_lt rest]
  obtain ⟨up, zero⟩ := roundsUp_restOf mode neg (sigOf f c % 2 == 1) low rest
  have sig : roundedSig mode neg (sigOf f c, restOf (sigOf f c * 2 ^ k + r) k false) =
      sigOf f c + (awayBy mode neg (c % 2 == 1) r k).toNat := by
    rw [roundedSig]
    dsimp only
    rw [up, sigOf_odd float]
    cases awayBy mode neg (c % 2 == 1) r k <;> rfl
  rw [roundFin_settled float modes (by simp [some.ne']), keptPlace_code rest (by omega), keptParts_code _ _ _ rest places, sig,
    roundedBits_code float below (Bool.toNat_le _), if_neg (show ¬ restOf (sigOf f c * 2 ^ k + r) k false = 0 from fun no =>
      some.ne' (zero.mp no))]

/-! ### Beyond the largest number -/

/-- A rounding keeps a full significand of a number above the subnormal ones. -/
theorem keptParts_full {m : Nat} {e : Int} {sticky : Bool} (some : 0 < m)
    (normal : fmtEmin f ≤ e + (Nat.log2 m : Int)) : 2 ^ fracBits f ≤ (keptParts m e (keptPlace f m e) sticky).1 := by
  have place : keptPlace f m e = e + (Nat.log2 m : Int) - (fracBits f : Int) := max_eq_left (by omega)
  have size := Nat.log2_self_le some.ne'
  rw [place]
  unfold keptParts
  split
  · next short =>
    have : fracBits f = Nat.log2 m + (e - (e + (Nat.log2 m : Int) - (fracBits f : Int))).toNat := by omega
    calc 2 ^ fracBits f = 2 ^ Nat.log2 m * 2 ^ (e - (e + (Nat.log2 m : Int) - (fracBits f : Int))).toNat := by
          rw [← Nat.pow_add, ← this]
      _ ≤ m * _ := Nat.mul_le_mul_right _ size
  · next long =>
    have : Nat.log2 m = fracBits f + (e + (Nat.log2 m : Int) - (fracBits f : Int) - e).toNat := by omega
    refine (Nat.le_div_iff_mul_le (Nat.two_pow_pos _)).mpr ?_
    rw [← Nat.pow_add, ← this]
    exact size

theorem roundVal_huge (float : fmtIsFloat f = true) {mode : Nat} (modes : mode < 4) (neg : Bool) {m : Nat} {e : Int} (some : 0 < m)
    (large : placeOf f (topCode f) + (fracBits f : Int) < e + (Nat.log2 m : Int)) :
    roundVal f mode (.fin neg m e) = hugeBits f mode neg := by
  change roundFin f mode neg m e false = _
  obtain ⟨_, _, largest, _, _⟩ := format_facts float
  have least : fmtEmin f - (fracBits f : Int) ≤ placeOf f (topCode f) := by
    unfold placeOf
    omega
  have full := keptParts_full (f := f) (sticky := false) some (show fmtEmin f ≤ e + (Nat.log2 m : Int) by omega)
  have place : placeOf f (topCode f) < keptPlace f m e := by
    unfold keptPlace
    omega
  rw [roundFin_settled float modes (by simp [some.ne'])]
  refine if_pos ?_
  have sig : 2 ^ fracBits f ≤ roundedSig mode neg (keptParts m e (keptPlace f m e) false) := by
    unfold roundedSig
    split <;> omega
  have top := sigOf_lt (f := f) (topCode f)
  have double := Nat.pow_le_pow_right (n := 2) (by decide)
    (show 1 ≤ (keptPlace f m e - placeOf f (topCode f)).toNat by omega)
  rw [largest, cmpMag, if_neg (by omega), compare_gt_iff_gt]
  calc sigOf f (topCode f) < 2 ^ fracBits f * 2 := top
    _ ≤ _ := Nat.mul_le_mul sig double

/-! ### What an approximation leaves -/

theorem restOf_sticky (m : Nat) {k : Nat} (pos : 0 < k) : restOf (2 * m + 1) (k + 1) false = restOf m k true := by
  obtain ⟨j, rfl⟩ : ∃ j, k = j + 1 := ⟨k - 1, by omega⟩
  have low : (2 * m + 1) % 2 ^ (j + 1 + 1) = 2 * (m % 2 ^ (j + 1)) + 1 := by
    rw [Nat.pow_succ, Nat.mul_comm _ 2, Nat.mod_mul, show (2 * m + 1) / 2 = m by omega]
    omega
  have double : 2 ^ (j + 1) = 2 * 2 ^ j := by rw [Nat.pow_succ, Nat.mul_comm]
  unfold restOf
  rw [low, Nat.add_sub_cancel, Nat.add_sub_cancel, double]
  have half : (2 * (m % (2 * 2 ^ j)) + 1 < 2 * 2 ^ j) ↔ m % (2 * 2 ^ j) < 2 ^ j := by omega
  have odd : ¬ 2 * (m % (2 * 2 ^ j)) + 1 = 2 * 2 ^ j := by omega
  simp [half, odd]

theorem roundFin_sticky (float : fmtIsFloat f = true) {mode : Nat} (modes : mode < 4) (neg : Bool) {m : Nat} {e : Int}
    (large : 2 ^ 26 ≤ m) : roundFin f mode neg m e true = roundVal f mode (.fin neg (2 * m + 1) (e - 1)) := by
  change _ = roundFin f mode neg _ _ false
  have some : 0 < m := large.trans_lt' (by decide)
  have log : Nat.log2 (2 * m + 1) = Nat.log2 m + 1 := by
    rw [Nat.log2_eq_iff (by omega)]
    have low := Nat.log2_self_le some.ne'
    have high := Nat.lt_log2_self (n := m)
    rw [Nat.pow_succ] at high
    rw [Nat.pow_succ, Nat.pow_succ]
    omega
  have place : keptPlace f (2 * m + 1) (e - 1) = keptPlace f m e := by
    unfold keptPlace
    rw [log]
    omega
  have digits : 26 ≤ Nat.log2 m := (Nat.le_log2 some.ne').mpr large
  have frac : fracBits f ≤ 23 := by cases f <;> decide
  have behind : e < keptPlace f m e := by
    unfold keptPlace
    omega
  have shift : (keptPlace f m e - (e - 1)).toNat = (keptPlace f m e - e).toNat + 1 := by omega
  have parts : keptParts (2 * m + 1) (e - 1) (keptPlace f m e) false = keptParts m e (keptPlace f m e) true := by
    rw [keptParts, keptParts, if_neg (by omega), if_neg (by omega), shift, restOf_sticky m (by omega), Nat.pow_succ,
      Nat.mul_comm _ 2, ← Nat.div_div_eq_div_mul]
    congr 2
    omega
  rw [roundFin_settled float modes (by simp), roundFin_settled float modes (by simp), place, parts]

end Formats

end Sys2Proof.Machine
end

section
/-! Integers, and the sums, products and comparisons of exact values (R18, R20, R28, R214, R217). -/

namespace Sys2Proof.Machine

/-! ### Rounding to an integer (R28) -/

theorem valInt_eq (neg : Bool) (m : Nat) : valInt neg m = (if neg then -1 else 1) * (m : Int) := by cases neg <;> simp [valInt]

theorem roundInt_between (mode : Nat) (neg : Bool) (y : Nat) {k r : Nat} (rest : r < 2 ^ k) :
    roundInt mode neg (y * 2 ^ k + r) (-(k : Int)) false =
      ((if neg then -1 else 1) * ((y + (awayBy mode neg (y % 2 == 1) r k).toNat : Nat) : Int), decide (r ≠ 0)) := by
  have low : (y * 2 ^ k + r) % 2 ^ k = r := by rw [Nat.mul_comm, Nat.mul_add_mod, Nat.mod_eq_of_lt rest]
  obtain ⟨up, zero⟩ := roundsUp_restOf mode neg (y % 2 == 1) low rest
  have parts : (if (0 : Int) ≤ -(k : Int) then ((y * 2 ^ k + r) * 2 ^ (-(k : Int)).toNat, if false then 1 else 0)
      else ((y * 2 ^ k + r) / 2 ^ (- -(k : Int)).toNat, restOf (y * 2 ^ k + r) (- -(k : Int)).toNat false)) =
        (y, restOf (y * 2 ^ k + r) k false) := by
    rw [neg_neg, Int.toNat_natCast]
    split
    · next none =>
      obtain rfl : k = 0 := by omega
      obtain rfl : r = 0 := by omega
      simp [restOf]
    · rw [Nat.mul_comm y, Nat.mul_add_div (Nat.two_pow_pos k), Nat.div_eq_of_lt rest, Nat.add_zero]
  unfold roundInt
  rw [parts]
  dsimp only
  rw [up, ← valInt_eq, valInt]
  refine Prod.ext ?_ (decide_eq_decide.mpr (not_congr zero))
  cases awayBy mode neg (y % 2 == 1) r k <;> rfl

/-! ### The integer formats (R20) -/

section Integers
variable {f : Fmt}

theorem unsignedOf_eq (n : Nat) (v : Int) : unsignedOf n v = (v % 2 ^ n).toNat := by
  rw [unsignedOf, Int.natCast_pow]
  rfl

theorem signedOf_unsignedOf {n : Nat} (pos : 0 < n) {v : Int} (low : -(2 ^ (n - 1) : Nat) ≤ v) (high : v < (2 ^ (n - 1) : Nat)) :
    signedOf n (unsignedOf n v) = v := by
  obtain ⟨j, rfl⟩ : ∃ j, n = j + 1 := ⟨n - 1, by omega⟩
  rw [Nat.add_sub_cancel] at low high
  have double : 2 ^ (j + 1) = 2 ^ j * 2 := Nat.pow_succ ..
  have some := Nat.two_pow_pos j
  unfold signedOf unsignedOf
  rw [Nat.add_sub_cancel, double]
  have within : (v % ((2 ^ j * 2 : Nat) : Int)).toNat < 2 ^ j * 2 := by
    have := Int.emod_lt_of_pos v (show (0 : Int) < ((2 ^ j * 2 : Nat) : Int) by omega)
    omega
  rw [Nat.mod_eq_of_lt within]
  rcases lt_or_ge v 0 with negative | positive
  · have value : v % ((2 ^ j * 2 : Nat) : Int) = v + ((2 ^ j * 2 : Nat) : Int) := by
      rw [← Int.add_emod_right, Int.emod_eq_of_lt (by omega) (by omega)]
    rw [value, if_neg (by omega)]
    omega
  · rw [Int.emod_eq_of_lt positive (by omega), if_pos (by omega)]
    omega

/-- What the shapes of the integer formats say. -/
theorem intShapes_mem {w : Nat} {lo hi : Int} (mem : (f, w, lo, hi) ∈ intShapes) :
    fmtIsFloat f = false ∧ 0 < fmtBits f ∧ w = fmtBits f ∧ lo = intMin f ∧ hi = intMax f := by
  simp only [intShapes, List.mem_cons, Prod.mk.injEq, List.not_mem_nil, or_false] at mem
  rcases mem with ⟨rfl, rfl, rfl, rfl⟩ | ⟨rfl, rfl, rfl, rfl⟩ | ⟨rfl, rfl, rfl, rfl⟩ | ⟨rfl, rfl, rfl, rfl⟩ | ⟨rfl, rfl, rfl, rfl⟩ |
    ⟨rfl, rfl, rfl, rfl⟩ | ⟨rfl, rfl, rfl, rfl⟩ | ⟨rfl, rfl, rfl, rfl⟩ <;> decide

/-- The codes of an integer format are its values. -/
theorem valOfBits_int (whole : fmtIsFloat f = false) (pos : 0 < fmtBits f) {v : Int} (low : intMin f ≤ v) (high : v ≤ intMax f) :
    valOfBits f (unsignedOf (fmtBits f) v) = .fin (decide (v < 0)) v.natAbs 0 := by
  unfold valOfBits
  rw [if_neg (Bool.eq_false_iff.mp whole)]
  unfold intMin at low
  unfold intMax at high
  cases signed : fmtIsSigned f
  · rw [signed, if_neg Bool.false_ne_true] at low high
    rw [if_neg Bool.false_ne_true]
    have value : unsignedOf (fmtBits f) v = v.toNat := by
      rw [unsignedOf, Int.emod_eq_of_lt low (by omega)]
    rw [value, Nat.mod_eq_of_lt (by omega), decide_eq_false (by omega)]
    congr 1
    omega
  · rw [signed, if_pos rfl] at low high
    rw [if_pos rfl]
    dsimp only
    rw [signedOf_unsignedOf pos low (by omega)]

/-- A float's integer, saturated (R28). -/
theorem floatToInt_fin (mode : Nat) (neg : Bool) (m : Nat) (e : Int) :
    floatToInt f mode (.fin neg m e) =
      if (roundInt mode neg m e false).1 < intMin f then (unsignedOf (fmtBits f) (intMin f), flagNV ||| flagSAT) else
        if intMax f < (roundInt mode neg m e false).1 then (unsignedOf (fmtBits f) (intMax f), flagNV ||| flagSAT) else
          (unsignedOf (fmtBits f) (roundInt mode neg m e false).1, if (roundInt mode neg m e false).2 then flagNX else 0) := by
  unfold floatToInt clampInt
  dsimp only
  generalize roundInt mode neg m e false = r
  obtain ⟨v, inexact⟩ := r
  dsimp only
  by_cases under : v < intMin f
  · rw [if_pos (.inl under), if_pos under, if_pos under]
  · rw [if_neg under, if_neg under]
    by_cases above : intMax f < v
    · rw [if_pos (.inr above), if_pos above, if_pos above]
    · rw [if_neg (fun no => no.elim under above), if_neg above]

/-- An integer in W's format (R214): it wraps, or saturates. -/
theorem fit_int (whole : fmtIsFloat f = false) (mod : Nat) (v : Int) : fit f mod (.fin (decide (v < 0)) v.natAbs 0) =
    if 4 ≤ mod ∧ v < intMin f then (unsignedOf (fmtBits f) (intMin f), flagSAT) else
      if 4 ≤ mod ∧ intMax f < v then (unsignedOf (fmtBits f) (intMax f), flagSAT) else (unsignedOf (fmtBits f) v, 0) := by
  have value : valToInt (.fin (decide (v < 0)) v.natAbs 0) = v := by
    unfold valToInt valInt
    dsimp only
    rw [if_pos le_rfl, Int.toNat_zero, Nat.pow_zero, Nat.mul_one]
    split
    · next neg => have := of_decide_eq_true neg; omega
    · next pos => have := of_decide_eq_false (Bool.eq_false_iff.mpr pos); omega
  unfold fit fitInt clampInt
  rw [if_neg (Bool.eq_false_iff.mp whole), value]
  by_cases sat : 4 ≤ mod
  · by_cases under : v < intMin f
    · simp [sat, under, under.ne']
    · by_cases above : intMax f < v
      · simp [sat, under, above, above.ne]
      · simp [sat, under, above]
  · simp [sat]

end Integers

/-! ### Sums, products and comparisons -/

section Values
variable (mode : Nat) (a b : Bool) (m n : Nat) (e g : Int)

/-- Two finite values over the lesser of their exponents. -/
def overLesser (a : Bool) (m : Nat) (e k : Int) : Int := (if a then -1 else 1) * ((m * 2 ^ (e - k).toNat : Nat) : Int)

theorem addVal_fin : addVal mode (.fin a m e) (.fin b n g) =
    (if overLesser a m e (min e g) + overLesser b n g (min e g) = 0 then .fin (if a = b then a else decide (mode = 2)) 0 0
      else .fin (decide (overLesser a m e (min e g) + overLesser b n g (min e g) < 0))
        (overLesser a m e (min e g) + overLesser b n g (min e g)).natAbs (min e g), 0) := by
  unfold addVal overLesser
  dsimp only
  rw [valInt_eq, valInt_eq]
  by_cases zero : (if a then -1 else 1) * ((m * 2 ^ (e - min e g).toNat : Nat) : Int) +
      (if b then -1 else 1) * ((n * 2 ^ (g - min e g).toNat : Nat) : Int) = 0
  · rw [if_pos zero, if_pos zero]
    rfl
  · rw [if_neg zero, if_neg zero]

theorem addVal_nan (q : Bool) (v : Val) : addVal mode (.nan q) v = (.nan false, 0) ∧ addVal mode v (.nan q) = (.nan false, 0) :=
  ⟨by cases v <;> rfl, by cases v <;> rfl⟩

theorem mulVal_nan (q : Bool) (v : Val) : mulVal (.nan q) v = (.nan false, 0) ∧ mulVal v (.nan q) = (.nan false, 0) :=
  ⟨by cases v <;> rfl, by cases v <;> rfl⟩

theorem minmaxVal_nan (big q : Bool) (v : Val) : minmaxVal big (.nan q) v = .nan false ∧ minmaxVal big v (.nan q) = .nan false :=
  ⟨rfl, by cases v <;> rfl⟩

theorem cmpVal_fin : cmpVal (.fin a m e) (.fin b n g) = compare (overLesser a m e (min e g)) (overLesser b n g (min e g)) := by
  unfold cmpVal overLesser
  dsimp only
  rw [valInt_eq, valInt_eq]

theorem minmaxVal_fin (big : Bool) : minmaxVal big (.fin a m e) (.fin b n g) =
    if (if big then overLesser b n g (min e g) < overLesser a m e (min e g)
        else overLesser a m e (min e g) < overLesser b n g (min e g)) ∨
      (overLesser a m e (min e g) = overLesser b n g (min e g) ∧ a = !big) then .fin a m e else .fin b n g := by
  unfold minmaxVal
  rw [cmpVal_fin]
  refine (if_neg Bool.false_ne_true).trans ?_
  rcases lt_trichotomy (overLesser a m e (min e g)) (overLesser b n g (min e g)) with less | same | more
  · rw [compare_lt_iff_lt.mpr less]
    cases big <;> simp [less, less.ne, less.not_gt]
  · rw [same, compare_eq_iff_eq.mpr rfl]
    cases big <;> cases a <;> simp [valNeg]
  · rw [compare_gt_iff_gt.mpr more]
    cases big <;> simp [more, more.ne', more.not_gt]

end Values

end Sys2Proof.Machine
end

section
/-! Quotients, roots, powers and logarithms (R29, R217, R218): the integer below, and whether anything is left. -/

namespace Sys2Proof.Machine

/-! ### The integer square root -/

theorem isqrt_spec (x : Nat) : ∀ n r, r ^ 2 ≤ x → x < (r + 2 ^ n) ^ 2 → (isqrt n r x) ^ 2 ≤ x ∧ x < (isqrt n r x + 1) ^ 2
  | 0, _, low, high => ⟨low, high⟩
  | n + 1, r, low, high => by
    have double : r + 2 ^ (n + 1) = r + 2 ^ n + 2 ^ n := by
      rw [Nat.pow_succ]
      omega
    rw [double] at high
    unfold isqrt
    split
    · next fits => exact isqrt_spec x n (r + 2 ^ n) (by rw [Nat.pow_two]; exact fits) high
    · next exceeds => exact isqrt_spec x n r low (by rw [Nat.pow_two]; exact Nat.not_le.mp exceeds)

theorem sqrtNat_spec (x : Nat) : sqrtNat x ^ 2 ≤ x ∧ x < (sqrtNat x + 1) ^ 2 := by
  refine isqrt_spec x _ 0 (Nat.zero_le _) ?_
  rw [Nat.zero_add, ← Nat.pow_mul]
  exact Nat.lt_log2_self.trans_le (Nat.pow_le_pow_right (by decide) (by omega))

/-- The root of a large number is large. -/
theorem le_sqrtNat {x k : Nat} (large : 2 ^ (2 * k) ≤ x) : 2 ^ k ≤ sqrtNat x := by
  by_contra less
  have bound : (sqrtNat x + 1) ^ 2 ≤ (2 ^ k) ^ 2 := Nat.pow_le_pow_left (Nat.not_le.mp less) 2
  rw [← Nat.pow_mul, Nat.mul_comm] at bound
  exact absurd (sqrtNat_spec x).2 (by omega)

/-! ### Quotients -/

theorem divApprox_spec (neg : Bool) {m n : Nat} (e g : Int) (some : 0 < m) (pos : 0 < n) :
    let d := divApprox neg m e n g
    let x := m * 2 ^ (e - g - d.e).toNat
    d.neg = neg ∧ 2 ^ 64 ≤ d.m ∧ d.e ≤ e - g ∧ d.m * n ≤ x ∧ x < (d.m + 1) * n ∧ d.sticky = decide (d.m * n ≠ x) := by
  intro d x
  have shift : (e - g - d.e).toNat = 128 + Nat.log2 n := by
    change (e - g - (e - g - ((128 + Nat.log2 n : Nat) : Int))).toNat = _
    omega
  have value : x = m * 2 ^ (128 + Nat.log2 n) := congrArg (fun k => m * 2 ^ k) shift
  have quotient : d.m = x / n := by
    rw [value]
    rfl
  have places : d.e ≤ e - g := by
    change e - g - ((128 + Nat.log2 n : Nat) : Int) ≤ _
    omega
  have whole := Nat.div_add_mod x n
  have low := Nat.mod_lt x pos
  refine ⟨rfl, ?_, places, ?_, ?_, ?_⟩
  · rw [quotient, Nat.le_div_iff_mul_le pos, value, show 128 + Nat.log2 n = 127 + (Nat.log2 n + 1) by omega, Nat.pow_add]
    calc 2 ^ 64 * n ≤ 2 ^ 127 * 2 ^ (Nat.log2 n + 1) := Nat.mul_le_mul (by decide) Nat.lt_log2_self.le
      _ ≤ m * _ := Nat.le_mul_of_pos_left _ some
  · rw [quotient]
    exact Nat.div_mul_le_self x n
  · rw [quotient, Nat.add_mul, Nat.one_mul, Nat.mul_comm]
    omega
  · have sticky : d.sticky = decide (x % n ≠ 0) := by
      rw [value]
      rfl
    rw [sticky, quotient, Nat.mul_comm]
    exact decide_eq_decide.mpr (by omega)

/-! ### Roots -/

/-- An exponent made even, the significand taking the place. -/
def evened (m : Nat) (e : Int) : Nat × Int := if e % 2 = 0 then (m, e) else (m * 2, e - 1)

theorem evened_spec (m : Nat) (e : Int) :
    (∃ j : Nat, j ≤ 1 ∧ (evened m e).1 = m * 2 ^ j ∧ (evened m e).2 = e - j) ∧ (evened m e).2 / 2 * 2 = (evened m e).2 := by
  unfold evened
  split
  · next even => exact ⟨⟨0, by decide, by simp, by simp⟩, by dsimp only; omega⟩
  · next odd => exact ⟨⟨1, by decide, by simp, by simp⟩, by dsimp only; omega⟩

theorem sqrtApprox_spec {m : Nat} (e : Int) (some : 0 < m) :
    let q := sqrtApprox m e
    let y := m * 2 ^ (e - 2 * q.e).toNat
    q.neg = false ∧ 2 ^ 64 ≤ q.m ∧ 2 * q.e ≤ e ∧ q.m ^ 2 ≤ y ∧ y < (q.m + 1) ^ 2 ∧ q.sticky = decide (q.m ^ 2 ≠ y) := by
  intro q y
  obtain ⟨⟨j, one, sig, place⟩, even⟩ := evened_spec m e
  have expo : q.e = (evened m e).2 / 2 - 128 := rfl
  have shift : (e - 2 * q.e).toNat = j + 256 := by omega
  have value : y = (evened m e).1 * 2 ^ 256 := by
    change m * 2 ^ (e - 2 * q.e).toNat = _
    rw [shift, sig, Nat.pow_add, Nat.mul_assoc]
  have root : q.m = sqrtNat y := by
    rw [value]
    rfl
  obtain ⟨low, high⟩ := sqrtNat_spec y
  have large : 2 ^ (2 * 128) ≤ y := by
    rw [value, sig]
    exact Nat.le_mul_of_pos_left _ (Nat.mul_pos some (Nat.two_pow_pos j))
  refine ⟨rfl, ?_, by omega, root ▸ low, root ▸ high, ?_⟩
  · rw [root]
    exact (le_sqrtNat large).trans' (Nat.pow_le_pow_right (by decide) (by decide))
  · rw [root, Nat.pow_two, value]
    rfl

theorem rsqApprox_spec {m : Nat} (e : Int) (some : 0 < m) :
    let r := rsqApprox m e
    let z := 2 ^ (-e - 2 * r.e).toNat
    r.neg = false ∧ 2 ^ 64 ≤ r.m ∧ 2 * r.e ≤ -e ∧ r.m ^ 2 * m ≤ z ∧ z < (r.m + 1) ^ 2 * m ∧ r.sticky = decide (r.m ^ 2 * m ≠ z) := by
  intro r z
  obtain ⟨⟨j, one, sig, place⟩, even⟩ := evened_spec m e
  have pos : 0 < (evened m e).1 := sig ▸ Nat.mul_pos some (Nat.two_pow_pos j)
  have expo : r.e = -((evened m e).2 / 2) - ((128 + Nat.log2 (evened m e).1 : Nat) : Int) := rfl
  have shift : 2 * (128 + Nat.log2 (evened m e).1) = (-e - 2 * r.e).toNat + j := by omega
  have value : 2 ^ (2 * (128 + Nat.log2 (evened m e).1)) = z * 2 ^ j := by
    rw [shift, Nat.pow_add]
  have root : r.m = sqrtNat (z * 2 ^ j / (evened m e).1) := by
    rw [← value]
    rfl
  have twos := Nat.two_pow_pos j
  obtain ⟨low, high⟩ := sqrtNat_spec (z * 2 ^ j / (evened m e).1)
  rw [← root] at low high
  have below : r.m ^ 2 * m * 2 ^ j ≤ z * 2 ^ j := by
    rw [Nat.mul_assoc, ← sig]
    exact (Nat.le_div_iff_mul_le pos).mp low
  have above : z * 2 ^ j < (r.m + 1) ^ 2 * m * 2 ^ j := by
    rw [Nat.mul_assoc, ← sig]
    exact (Nat.div_lt_iff_lt_mul pos).mp high
  refine ⟨rfl, ?_, by omega, Nat.le_of_mul_le_mul_right below twos, Nat.lt_of_mul_lt_mul_right above, ?_⟩
  · rw [root]
    refine (le_sqrtNat (k := 64) ?_)
    rw [Nat.le_div_iff_mul_le pos, ← value]
    calc 2 ^ (2 * 64) * (evened m e).1 ≤ 2 ^ (2 * 64) * 2 ^ (Nat.log2 (evened m e).1 + 1) := Nat.mul_le_mul_left _ Nat.lt_log2_self.le
      _ = 2 ^ (2 * 64 + (Nat.log2 (evened m e).1 + 1)) := (Nat.pow_add ..).symm
      _ ≤ _ := Nat.pow_le_pow_right (by decide) (by omega)
  · have sticky : r.sticky = decide (r.m * r.m * (evened m e).1 ≠ z * 2 ^ j) := by
      rw [← value]
      rfl
    rw [sticky, sig, ← Nat.pow_two, ← Nat.mul_assoc]
    exact decide_eq_decide.mpr (not_congr (Nat.mul_left_inj twos.ne'))

/-! ### Powers and logarithms -/

theorem two_pow_odd (n : Nat) : 2 * 2 ^ n * 2 ^ n = 2 ^ (2 * n + 1) := by ring

theorem exp2Approx_whole (neg : Bool) {m : Nat} (small : m < 4096) : exp2Approx neg m 0 =
    { neg := false, m := 1, e := (if neg then -(m : Int) else (m : Int)), sticky := false } := by
  unfold exp2Approx
  by_cases zero : m = 0
  · subst zero
    cases neg <;> rfl
  · have log : Nat.log2 m < 12 := (Nat.log2_lt zero).mpr small
    rw [if_neg zero, if_neg (by omega)]
    simp [valInt]

theorem exp2Approx_half (neg : Bool) {m : Nat} (small : m < 4096) (odd : m % 2 = 1) :
    let h := exp2Approx neg m (-1)
    h.neg = false ∧ h.m ^ 2 ≤ 2 ^ 641 ∧ 2 ^ 641 < (h.m + 1) ^ 2 ∧
      h.e = (if neg then -((m / 2 : Nat) : Int) - 1 else ((m / 2 : Nat) : Int)) - 320 ∧ h.sticky = true := by
  have zero : m ≠ 0 := by omega
  have log : Nat.log2 m < 12 := (Nat.log2_lt zero).mpr small
  have rest : valInt neg m % ((2 ^ (- -1 : Int).toNat : Nat) : Int) = 1 := by
    rw [valInt_eq]
    change _ % 2 = 1
    cases neg
    · simp only [Bool.false_eq_true, if_false]; omega
    · simp only [if_true]; omega
  have root : exp2Frac 1 1 (2 * 2 ^ expPlaces) (2 ^ expPlaces) = sqrtNat (2 * 2 ^ expPlaces * 2 ^ expPlaces) := by
    change (if 1 / 2 ^ 0 % 2 = 1 then 2 ^ expPlaces * sqrtNat (2 * 2 ^ expPlaces * 2 ^ expPlaces) / 2 ^ expPlaces
      else 2 ^ expPlaces) = _
    rw [if_pos (by decide), Nat.mul_div_cancel_left _ (Nat.two_pow_pos _)]
  have is : exp2Approx neg m (-1) = { neg := false, m := sqrtNat (2 * 2 ^ expPlaces * 2 ^ expPlaces)
                                      e := valInt neg m / 2 - (expPlaces : Int), sticky := true } := by
    unfold exp2Approx
    have fraction : (if (0 : Int) ≤ -1 then valInt neg (m * 2 ^ (-1 : Int).toNat) else valInt neg m) = valInt neg m :=
      if_neg (by decide)
    rw [if_neg zero, if_neg (by omega), fraction]
    dsimp only
    rw [rest]
    exact congrArg (fun x => Approx.mk false x (valInt neg m / 2 - (expPlaces : Int)) true) root
  intro h
  have same : h = _ := is
  obtain ⟨low, high⟩ := sqrtNat_spec (2 * 2 ^ expPlaces * 2 ^ expPlaces)
  have power : 2 * 2 ^ expPlaces * 2 ^ expPlaces = 2 ^ 641 := two_pow_odd 320
  rw [same, ← power]
  dsimp only
  refine ⟨rfl, low, high, ?_, rfl⟩
  change valInt neg m / 2 - 320 = _
  rw [valInt_eq]
  cases neg
  · simp only [Bool.false_eq_true, if_false]; omega
  · simp only [if_true]; omega

theorem log2Approx_power (t : Nat) (e : Int) : log2Approx (2 ^ t) e =
    { neg := decide (e + (t : Int) < 0), m := (e + (t : Int)).natAbs, e := 0, sticky := false } := by
  unfold log2Approx
  rw [Nat.log2_two_pow]
  exact if_pos rfl

end Sys2Proof.Machine
end

section
/-! The tree of a reduction (R30) and the companded codes (R21 to R24). -/

namespace Sys2Proof.Machine

/-! ### The tree of a reduction -/

section Tree
variable (op : Nat → Nat → Nat × BitVec 6)

theorem powBelow_eq {n t : Nat} (above : 2 ^ t < n) (below : n ≤ 2 ^ (t + 1)) : powBelow n = 2 ^ t := by
  have pos := Nat.two_pow_pos t
  have log : Nat.log2 (n - 1) = t := (Nat.log2_eq_iff (by omega)).mpr ⟨by omega, by omega⟩
  rw [powBelow, log]

/-- The pairs that a step of the tree combines. -/
theorem treePairs {xs : List Nat} {h : Nat} (fits : xs.length ≤ 2 * h) :
    ((xs.take h).take (xs.drop h).length).zipWith op (xs.drop h) =
      (List.range (xs.length - h)).map (fun i => op (xs.getD i 0) (xs.getD (i + h) 0)) := by
  refine List.ext_getElem (by simp; omega) fun i low high => ?_
  have inside : i < xs.length - h := by simpa using high
  simp only [List.getElem_zipWith, List.getElem_take, List.getElem_drop, List.getElem_map, List.getElem_range,
    List.getD_eq_getElem xs 0 (show i < xs.length by omega), List.getD_eq_getElem xs 0 (show i + h < xs.length by omega),
    Nat.add_comm h i]

theorem treeRed_short (fuel : Nat) {xs : List Nat} (short : xs.length ≤ 1) (fl : BitVec 6) : treeRed op fuel xs fl = (xs, fl) := by
  cases fuel with
  | zero => rfl
  | succ n => exact if_pos short

theorem treeRed_step (fuel : Nat) {xs : List Nat} (fl : BitVec 6) {t : Nat} (above : 2 ^ t < xs.length) (below : xs.length ≤ 2 ^ (t + 1)) :
    treeRed op (fuel + 1) xs fl = treeRed op fuel
      ((List.range (2 ^ t)).map (fun i =>
        if i + 2 ^ t < xs.length then (op (xs.getD i 0) (xs.getD (i + 2 ^ t) 0)).1 else xs.getD i 0))
      ((List.range (xs.length - 2 ^ t)).foldl (fun g i => g ||| (op (xs.getD i 0) (xs.getD (i + 2 ^ t) 0)).2) fl) := by
  have pos := Nat.two_pow_pos t
  have double : xs.length ≤ 2 * 2 ^ t := by rw [Nat.mul_comm]; exact below
  have values : ((List.range (xs.length - 2 ^ t)).map (fun i => op (xs.getD i 0) (xs.getD (i + 2 ^ t) 0))).map Prod.fst ++
      (xs.take (2 ^ t)).drop (xs.drop (2 ^ t)).length = (List.range (2 ^ t)).map (fun i =>
        if i + 2 ^ t < xs.length then (op (xs.getD i 0) (xs.getD (i + 2 ^ t) 0)).1 else xs.getD i 0) := by
    refine List.ext_getElem (by simp; omega) fun i low high => ?_
    have inside : i < 2 ^ t := by simpa using high
    rw [List.getElem_map, List.getElem_range]
    by_cases paired : i + 2 ^ t < xs.length
    · rw [if_pos paired, List.getElem_append_left (by simp; omega), List.getElem_map, List.getElem_map, List.getElem_range]
    · rw [if_neg paired, List.getElem_append_right (by simp; omega), List.getD_eq_getElem xs 0 (by omega)]
      simp only [List.getElem_drop, List.getElem_take, List.length_map, List.length_range, List.length_drop]
      congr 1
      omega
  change (if xs.length ≤ 1 then _ else treeRed op fuel (treeStep op (powBelow xs.length) xs fl).1
    (treeStep op (powBelow xs.length) xs fl).2) = _
  rw [if_neg (by omega), powBelow_eq above below]
  unfold treeStep
  dsimp only
  rw [treePairs op double, values, List.foldl_map]

end Tree

theorem redTree_eq (s : State) (e : Entry) (first n : Nat) :
    let elem (i : Nat) : Nat × BitVec 6 := if 4 ≤ recImm e.record then (rawA s e i, 0) else
      withFlags (if valSnan (valA s e i) then flagNV else 0) (fit (boxFmt s (boxW e)) (recMod e.record) (valA s e i))
    let ys := (List.range n).map (fun k => elem (first + k))
    let r := treeRed (redOp (boxFmt s (boxW e)) (recMod e.record) (recImm e.record)) n (ys.map Prod.fst)
      (ys.foldl (fun g y => g ||| y.2) 0)
    redTree s e first n = (r.1.headD 0, r.2) := by
  have elems : redElem s e = fun i => if 4 ≤ recImm e.record then (rawA s e i, 0) else
      withFlags (if valSnan (valA s e i) then flagNV else 0) (fit (boxFmt s (boxW e)) (recMod e.record) (valA s e i)) := by
    funext i
    unfold redElem snanOf
    simp only [List.any_cons, List.any_nil, Bool.or_false]
  unfold redTree
  rw [elems]

/-! ### Companded codes -/

/-- The entries of a table that lie above a code do not decide it. -/
theorem segOf_above {tab : List Word} {c : Nat} (best : Word) (above : ∀ w ∈ tab, c < segCB w) : segOf tab c best = best := by
  induction tab with
  | nil => rfl
  | cons w t ih =>
    unfold segOf
    rw [if_neg (by have := above w (List.mem_cons_self ..); omega)]
    exact ih fun x at_ => above x (List.mem_cons_of_mem _ at_)

theorem segOf_last {tab : List Word} {c : Nat} : ∀ (best : Word) {j : Nat}, j < tab.length → segCB (tab.getD j 0) ≤ c →
    (∀ i, j < i → i < tab.length → c < segCB (tab.getD i 0)) → segOf tab c best = tab.getD j 0 := by
  induction tab with
  | nil => exact fun _ _ inside => absurd inside (Nat.not_lt_zero _)
  | cons w t ih =>
    intro best j inside low above
    unfold segOf
    cases j with
    | zero =>
      rw [List.getD_cons_zero] at low ⊢
      rw [if_pos low]
      refine segOf_above w fun x at_ => ?_
      obtain ⟨i, below, rfl⟩ := List.getElem_of_mem at_
      have := above (i + 1) (Nat.succ_pos i) (Nat.succ_lt_succ below)
      rwa [List.getD_cons_succ, List.getD_eq_getElem t 0 below] at this
    | succ j =>
      rw [List.getD_cons_succ] at low ⊢
      exact ih _ (Nat.lt_of_succ_lt_succ inside) low fun i more below => by
        have := above (i + 1) (Nat.succ_lt_succ more) (Nat.succ_lt_succ below)
        rwa [List.getD_cons_succ] at this

section Codes
variable {tab : List Word} (sb : Int)

theorem decodeCode_at (valid : tabValid tab = true) {c j : Nat} (inside : j < 16) (low : (tab.getD j 0).toNat % 2 ^ 8 ≤ c)
    (above : ∀ i, j < i → i < 16 → c < (tab.getD i 0).toNat % 2 ^ 8) : decodeCode tab c =
      (tab.getD j 0).toNat / 2 ^ 8 % 2 ^ 12 +
        ((tab.getD j 0).toNat / 2 ^ 20 % 2 ^ 16 * (c - (tab.getD j 0).toNat % 2 ^ 8) + 8) / 16 := by
  have length : tab.length = 16 := by
    unfold tabValid at valid
    simp only [Bool.and_eq_true, beq_iff_eq] at valid
    exact valid.1.1.1.1.1.1
  have field (i : Nat) : segCB (tab.getD i 0) = (tab.getD i 0).toNat % 2 ^ 8 := bitsOf_low _ _
  have seg : segOf tab c (tab.headD 0) = tab.getD j 0 :=
    segOf_last _ (length ▸ inside) ((field j).trans_le low) fun i more below =>
      (above i more (length ▸ below)).trans_eq (field i).symm
  unfold decodeCode
  dsimp only
  rw [seg, field]
  rfl

/-- The least code decodes to zero. -/
theorem decodeCode_zero (valid : tabValid tab = true) : decodeCode tab 0 = 0 := by
  have parts := valid
  unfold tabValid at parts
  simp only [Bool.and_eq_true, beq_iff_eq, decide_eq_true_eq] at parts
  obtain ⟨⟨⟨⟨⟨⟨length, start⟩, value⟩, rising⟩, _⟩, _⟩, _⟩ := parts
  obtain _ | ⟨w, t⟩ := tab
  · cases length
  rw [List.headD_cons] at start value
  rw [List.map_cons, List.pairwise_cons] at rising
  have seg : segOf (w :: t) 0 w = w := by
    unfold segOf
    rw [if_pos start.le]
    exact segOf_above w fun x at_ => start ▸ rising.1 _ (List.mem_map_of_mem at_)
  unfold decodeCode
  rw [List.headD_cons, seg]
  dsimp only
  rw [value, start, Nat.mul_zero]

/-! What a code is worth. -/

theorem c8Value_positive {c : Nat} (below : c ≤ 127) : c8Value tab sb c = .fin false (decodeCode tab c) (sb - 10) := by
  have value : signedOf 8 c = c := by
    unfold signedOf
    rw [Nat.mod_eq_of_lt (by omega), if_pos (by omega)]
  unfold c8Value
  rw [value, if_neg (by omega), Int.natAbs_natCast, decide_eq_false (by omega)]

theorem c8Value_negative {c : Nat} (below : c ≤ 127) (some : 0 < c) :
    c8Value tab sb (256 - c) = .fin true (decodeCode tab c) (sb - 10) := by
  have value : signedOf 8 (256 - c) = -c := by
    unfold signedOf
    rw [Nat.mod_eq_of_lt (by omega), if_neg (by omega)]
    omega
  unfold c8Value
  rw [value, if_neg (by omega), Int.natAbs_neg, Int.natAbs_natCast, decide_eq_true (by omega)]

/-- The code of a signed magnitude. -/
def signedCode (neg : Bool) (c : Nat) : Nat := if neg ∧ c ≠ 0 then 256 - c else c

theorem signedCode_eq (neg : Bool) {c : Nat} (below : c ≤ 127) :
    unsignedOf 8 (if neg then -(c : Int) else (c : Int)) = signedCode neg c := by
  unfold unsignedOf signedCode
  cases neg
  · simp only [Bool.false_eq_true, if_false, false_and]
    omega
  · simp only [if_true, true_and]
    split <;> omega

end Codes

/-! ### The nearest code, the one below and the one above -/

/-- Among equally near codes the even one, and then the least. -/
def Nearer (dist : Nat → Nat) (c d : Nat) : Prop :=
  dist c < dist d ∨ (dist c = dist d ∧ (c % 2 < d % 2 ∨ (c % 2 = d % 2 ∧ c ≤ d)))

theorem nearest_spec (dist : Nat → Nat) (n : Nat) :
    let r := (List.range n).foldl
      (fun b c => if dist c < dist b ∨ (dist c = dist b ∧ b % 2 = 1 ∧ c % 2 = 0) then c else b) 0
    (r < n ∨ r = 0) ∧ ∀ d, d < n → Nearer dist r d := by
  induction n with
  | zero => exact ⟨.inr rfl, fun d no => absurd no (Nat.not_lt_zero d)⟩
  | succ n ih =>
    obtain ⟨range, best⟩ := ih
    rw [List.range_succ, List.foldl_append, List.foldl_cons, List.foldl_nil]
    generalize (List.range n).foldl (fun b c => if dist c < dist b ∨ (dist c = dist b ∧ b % 2 = 1 ∧ c % 2 = 0) then c else b) 0 = r
      at range best
    intro r'
    by_cases better : dist n < dist r ∨ (dist n = dist r ∧ r % 2 = 1 ∧ n % 2 = 0)
    · have is : r' = n := if_pos better
      rw [is]
      refine ⟨.inl (Nat.lt_succ_self n), fun d below => ?_⟩
      rcases (Nat.lt_succ_iff.mp below).lt_or_eq with less | rfl
      · have near := best d less
        unfold Nearer at *
        omega
      · exact .inr ⟨rfl, .inr ⟨rfl, le_rfl⟩⟩
    · have is : r' = r := if_neg better
      rw [is]
      refine ⟨by omega, fun d below => ?_⟩
      rcases (Nat.lt_succ_iff.mp below).lt_or_eq with less | rfl
      · exact best d less
      · unfold Nearer
        omega

/-- The last number that holds, where 0 does. -/
theorem lastHit_spec (p : Nat → Prop) [DecidablePred p] (zero : p 0) (n : Nat) :
    let r := (List.range n).foldl (fun b c => if p c then c else b) 0
    p r ∧ (r < n ∨ r = 0) ∧ ∀ d, d < n → p d → d ≤ r := by
  induction n with
  | zero => exact ⟨zero, .inr rfl, fun d no => absurd no (Nat.not_lt_zero d)⟩
  | succ n ih =>
    obtain ⟨holds, range, last⟩ := ih
    rw [List.range_succ, List.foldl_append, List.foldl_cons, List.foldl_nil]
    generalize (List.range n).foldl (fun b c => if p c then c else b) 0 = r at holds range last
    intro r'
    by_cases hit : p n
    · have is : r' = n := if_pos hit
      rw [is]
      exact ⟨hit, .inl (Nat.lt_succ_self n), fun d below _ => Nat.lt_succ_iff.mp below⟩
    · have is : r' = r := if_neg hit
      rw [is]
      refine ⟨holds, by omega, fun d below at_ => ?_⟩
      rcases (Nat.lt_succ_iff.mp below).lt_or_eq with less | rfl
      · exact last d less at_
      · exact absurd at_ hit

/-- The first number that holds, where one does. -/
theorem firstHit_spec (p : Nat → Prop) [DecidablePred p] (n : Nat) : ∀ z d, d < n → p d →
    let r := (List.range n).reverse.foldl (fun b c => if p c then c else b) z
    p r ∧ r < n ∧ ∀ d, d < n → p d → r ≤ d := by
  induction n with
  | zero => exact fun _ d no => absurd no (Nat.not_lt_zero d)
  | succ n ih =>
    intro z d below hit
    rw [List.range_succ, List.reverse_append, List.reverse_singleton, List.foldl_append, List.foldl_cons, List.foldl_nil]
    by_cases earlier : ∃ c, c < n ∧ p c
    · obtain ⟨c, less, at_⟩ := earlier
      obtain ⟨holds, range, first⟩ := ih (if p n then n else z) c less at_
      refine ⟨holds, range.trans (Nat.lt_succ_self n), fun x inside here => ?_⟩
      rcases (Nat.lt_succ_iff.mp inside).lt_or_eq with less | rfl
      · exact first x less here
      · exact range.le
    · obtain rfl : d = n := by
        by_contra other
        exact earlier ⟨d, by omega, hit⟩
      have none : ∀ m z, m ≤ d → (List.range m).reverse.foldl (fun b c => if p c then c else b) z = z := by
        intro m
        induction m with
        | zero => exact fun _ _ => rfl
        | succ m step =>
          intro z within
          rw [List.range_succ, List.reverse_append, List.reverse_singleton, List.foldl_append, List.foldl_cons, List.foldl_nil,
            if_neg fun at_ => earlier ⟨m, within, at_⟩]
          exact step z (by omega)
      rw [none d _ le_rfl, if_pos hit]
      refine ⟨hit, Nat.lt_succ_self d, fun x inside here => ?_⟩
      by_contra more
      exact earlier ⟨x, by omega, here⟩

end Sys2Proof.Machine
end

section
/-! Quantisation to C8 (R24): the code that a mode picks. -/

namespace Sys2Proof.Machine

theorem cmpMag_left (a m : Nat) (k : Int) : cmpMag a 0 m k = compare (a * 2 ^ (-k).toNat) (m * 2 ^ k.toNat) := by
  unfold cmpMag
  rcases le_or_gt 0 k with up | down
  · rw [if_pos up, sub_zero, show (-k).toNat = 0 by omega, Nat.pow_zero, Nat.mul_one]
  · rw [if_neg (by omega), zero_sub, show k.toNat = 0 by omega, Nat.pow_zero, Nat.mul_one]

theorem cmpMag_right (a m : Nat) (k : Int) : cmpMag m k a 0 = compare (m * 2 ^ k.toNat) (a * 2 ^ (-k).toNat) := by
  unfold cmpMag
  rcases le_or_gt k 0 with down | up
  · rw [if_pos down, zero_sub, show k.toNat = 0 by omega, Nat.pow_zero, Nat.mul_one]
  · rw [if_neg (by omega), sub_zero, show (-k).toNat = 0 by omega, Nat.pow_zero, Nat.mul_one]

section Quant
variable (tab : List Word) (m : Nat) (k : Int)

/-- A code's number and the value's, over one power of two. -/
def codeScaled (c : Nat) : Nat := decodeCode tab c * 2 ^ (-k).toNat
def valScaled : Nat := m * 2 ^ k.toNat

/-- How far a code lies from the value. -/
def codeDist (c : Nat) : Nat := ((codeScaled tab k c : Int) - (valScaled m k : Int)).natAbs

theorem c8Nearest_eq : c8Nearest tab m k = (List.range 128).foldl
    (fun b c => if codeDist tab m k c < codeDist tab m k b ∨ (codeDist tab m k c = codeDist tab m k b ∧ b % 2 = 1 ∧ c % 2 = 0)
      then c else b) 0 := by
  have dist : (fun c => if 0 ≤ k then ((decodeCode tab c : Int) - (m * 2 ^ k.toNat : Nat)).natAbs
      else ((decodeCode tab c * 2 ^ (-k).toNat : Nat) - (m : Int) : Int).natAbs) = codeDist tab m k := by
    funext c
    unfold codeDist codeScaled valScaled
    rcases le_or_gt 0 k with up | down
    · rw [if_pos up, show (-k).toNat = 0 by omega, Nat.pow_zero, Nat.mul_one]
    · rw [if_neg (by omega), show k.toNat = 0 by omega, Nat.pow_zero, Nat.mul_one]
  rw [← dist]
  rfl

theorem c8Below_eq : c8Below tab m k = (List.range 128).foldl (fun b c => if codeScaled tab k c ≤ valScaled m k then c else b) 0 := by
  unfold c8Below codeScaled valScaled
  simp only [cmpMag_left, ne_eq, compare_gt_iff_gt, not_lt]

theorem c8Above_eq : c8Above tab m k =
    (List.range 128).reverse.foldl (fun b c => if valScaled m k ≤ codeScaled tab k c then c else b) 127 := by
  unfold c8Above codeScaled valScaled
  simp only [cmpMag_left, ne_eq, compare_lt_iff_lt, not_lt]

end Quant

/-- A mode that rounds a magnitude towards zero. -/
def TowardsZero (mode : Nat) (neg : Bool) : Prop := mode = 1 ∨ (mode = 2 ∧ neg = false) ∨ (mode = 3 ∧ neg = true)

theorem away_iff {mode : Nat} (modes : mode < 4) (far : mode ≠ 0) (neg : Bool) :
    ((mode = 2 ∧ neg = true) ∨ (mode = 3 ∧ ¬neg = true)) ↔ ¬TowardsZero mode neg := by
  unfold TowardsZero
  interval_cases mode <;> cases neg <;> simp at *

/-- The code that a mode picks for a value within reach. -/
def pickedCode (tab : List Word) (mode : Nat) (neg : Bool) (m : Nat) (k : Int) : Nat :=
  if mode = 0 then c8Nearest tab m k else
    if (mode = 2 ∧ neg = true) ∨ (mode = 3 ∧ ¬neg = true) then c8Above tab m k else c8Below tab m k

section Picked
variable {tab : List Word} (valid : tabValid tab = true) {mode : Nat} {neg : Bool} {m : Nat} {k : Int}

theorem pickedCode_near (near : mode = 0) : pickedCode tab mode neg m k ≤ 127 ∧
    ∀ d, d ≤ 127 → Nearer (codeDist tab m k) (pickedCode tab mode neg m k) d := by
  obtain ⟨range, best⟩ := nearest_spec (codeDist tab m k) 128
  rw [pickedCode, if_pos near, c8Nearest_eq]
  exact ⟨by omega, fun d within => best d (by omega)⟩

include valid in
theorem pickedCode_below (modes : mode < 4) (towards : TowardsZero mode neg) : pickedCode tab mode neg m k ≤ 127 ∧
    codeScaled tab k (pickedCode tab mode neg m k) ≤ valScaled m k ∧
    ∀ d, d ≤ 127 → codeScaled tab k d ≤ valScaled m k → d ≤ pickedCode tab mode neg m k := by
  have far : mode ≠ 0 := by
    rintro rfl
    unfold TowardsZero at towards
    simp at towards
  have zero : codeScaled tab k 0 ≤ valScaled m k := by
    rw [codeScaled, decodeCode_zero valid, Nat.zero_mul]
    exact Nat.zero_le _
  obtain ⟨holds, range, last⟩ := lastHit_spec (fun c => codeScaled tab k c ≤ valScaled m k) zero 128
  rw [pickedCode, if_neg far, if_neg (fun away => (away_iff modes far neg).mp away towards), c8Below_eq]
  exact ⟨by omega, holds, fun d within => last d (by omega)⟩

theorem pickedCode_above (modes : mode < 4) (far : mode ≠ 0) (away : ¬TowardsZero mode neg)
    (reach : valScaled m k ≤ codeScaled tab k 127) : pickedCode tab mode neg m k ≤ 127 ∧
    valScaled m k ≤ codeScaled tab k (pickedCode tab mode neg m k) ∧
    ∀ d, d ≤ 127 → valScaled m k ≤ codeScaled tab k d → pickedCode tab mode neg m k ≤ d := by
  obtain ⟨holds, range, first⟩ := firstHit_spec (fun c => valScaled m k ≤ codeScaled tab k c) 128 127 127 (by decide) reach
  rw [pickedCode, if_neg far, if_pos ((away_iff modes far neg).mpr away), c8Above_eq]
  exact ⟨by omega, holds, fun d within => first d (by omega)⟩

include valid in
theorem pickedCode_le (modes : mode < 4) (reach : valScaled m k ≤ codeScaled tab k 127) : pickedCode tab mode neg m k ≤ 127 := by
  by_cases near : mode = 0
  · exact (pickedCode_near near).1
  · by_cases towards : TowardsZero mode neg
    · exact (pickedCode_below valid modes towards).1
    · exact (pickedCode_above modes near towards reach).1

end Picked

section Quant
variable {tab : List Word} (sb : Int) (mode : Nat) (neg : Bool) {m : Nat} (e : Int)

/-- A value beyond the largest code saturates to it. -/
theorem c8Quant_beyond (some : 0 < m) (beyond : codeScaled tab (e + 10 - sb) 127 < valScaled m (e + 10 - sb)) :
    c8Quant tab sb mode (.fin neg m e) = (signedCode neg 127, flagOF ||| flagNX) := by
  rw [← signedCode_eq neg (le_refl 127)]
  refine (if_neg some.ne').trans (if_pos ?_)
  rw [cmpMag_right, compare_gt_iff_gt]
  exact beyond

/-- Within reach it takes the code that the mode picks, NX where that is not its value. -/
theorem c8Quant_within (some : 0 < m) (within : valScaled m (e + 10 - sb) ≤ codeScaled tab (e + 10 - sb) 127)
    (below : pickedCode tab mode neg m (e + 10 - sb) ≤ 127) : c8Quant tab sb mode (.fin neg m e) =
      (signedCode neg (pickedCode tab mode neg m (e + 10 - sb)),
        if codeScaled tab (e + 10 - sb) (pickedCode tab mode neg m (e + 10 - sb)) = valScaled m (e + 10 - sb) then 0 else flagNX) := by
  rw [← signedCode_eq neg below]
  refine (if_neg some.ne').trans ((if_neg ?_).trans ?_)
  · rw [cmpMag_right, compare_gt_iff_gt]
    exact Nat.not_lt.mpr within
  · refine congrArg (Prod.mk _) (if_congr ?_ rfl rfl)
    exact (cmpMag_left ..).congr_left.trans compare_eq_iff_eq

theorem c8Quant_spec (valid : tabValid tab = true) (modes : mode < 4) (some : 0 < m) :
    let q (c : Nat) : Nat := decodeCode tab c
    let code (neg : Bool) (c : Nat) : Nat := if neg ∧ c ≠ 0 then 256 - c else c
    let r := c8Quant tab sb mode (.fin neg m e)
    let k := e + 10 - sb
    let x (c : Nat) : Int := (q c * 2 ^ (-k).toNat : Nat)
    let u : Int := (m * 2 ^ k.toNat : Nat)
    let towardsZero : Prop := mode = 1 ∨ (mode = 2 ∧ neg = false) ∨ (mode = 3 ∧ neg = true)
    (x 127 < u → r = (code neg 127, flagOF ||| flagNX)) ∧
    (u ≤ x 127 → ∃ c, c ≤ 127 ∧ r = (code neg c, if x c = u then 0 else flagNX) ∧
      (mode = 0 → ∀ d, d ≤ 127 → (x c - u).natAbs < (x d - u).natAbs ∨ ((x c - u).natAbs = (x d - u).natAbs ∧
        (c % 2 < d % 2 ∨ (c % 2 = d % 2 ∧ c ≤ d)))) ∧
      (towardsZero → x c ≤ u ∧ ∀ d, d ≤ 127 → x d ≤ u → d ≤ c) ∧
      (mode ≠ 0 → ¬towardsZero → u ≤ x c ∧ ∀ d, d ≤ 127 → u ≤ x d → c ≤ d)) := by
  intro q code r k x u towardsZero
  refine ⟨fun beyond => c8Quant_beyond sb mode neg e some (Int.ofNat_lt.mp beyond), fun within => ?_⟩
  have reach : valScaled m k ≤ codeScaled tab k 127 := Int.ofNat_le.mp within
  have below := pickedCode_le (neg := neg) valid modes reach
  refine ⟨pickedCode tab mode neg m k, below, ?_, fun near => (pickedCode_near near).2, fun towards => ?_, fun far away => ?_⟩
  · refine (c8Quant_within sb mode neg e some reach below).trans (congrArg (Prod.mk _) (if_congr ?_ rfl rfl))
    exact Int.natCast_inj.symm
  · obtain ⟨_, low, last⟩ := pickedCode_below (m := m) (k := k) valid modes towards
    exact ⟨Int.ofNat_le.mpr low, fun d inside at_ => last d inside (Int.ofNat_le.mp at_)⟩
  · obtain ⟨_, high, first⟩ := pickedCode_above modes far away reach
    exact ⟨Int.ofNat_le.mpr high, fun d inside at_ => first d inside (Int.ofNat_le.mp at_)⟩

end Quant

end Sys2Proof.Machine
end

section
/-! The vector tasks that A counts (R215, R227 to R232): votes, moves and the histogram. -/

namespace Sys2Proof.Machine

/-- The elements of a unit of A, and the ones of a box in them. -/
def inUnit (e : Entry) (s : State) (u : Nat) : List Nat :=
  (List.range (unitElems s (boxA e) u).2).map (· + (unitElems s (boxA e) u).1)

def unitOnes (e : Entry) (s : State) (b : RBox) (u : Nat) : Nat := ((inUnit e s u).map (readElem s b)).sum

theorem onesIn_eq (s : State) (e : Entry) (b : RBox) (u : Nat) : onesIn s b (unitElems s (boxA e) u) = unitOnes e s b u := by
  unfold onesIn unitOnes inUnit
  rw [List.map_map]
  refine congrArg (fun f => ((List.range (unitElems s (boxA e) u).2).map f).sum) (funext fun k => ?_)
  exact congrArg (readElem s b) (Nat.add_comm ..)

/-- The elements that V.COMP keeps of a unit, one behind the other. -/
def keptPairs (e : Entry) (s : State) (u c : Nat) : List (Nat × Nat) :=
  (((inUnit e s u).filter (fun k => readElem s (boxC e) k == 1)).zipIdx.map (fun k => (c + k.2, k.1))).filter
    (fun p => decide (p.1 < boxElems s (boxW e)))

theorem compMoves_eq (s : State) (e : Entry) (u n : Nat) : compMoves s e u n = keptPairs e s u n := by
  have comm : (fun k => readElem s (boxC e) ((unitElems s (boxA e) u).1 + k) == 1) =
      (fun k => readElem s (boxC e) k == 1) ∘ (· + (unitElems s (boxA e) u).1) := by
    funext k
    rw [Function.comp_apply, Nat.add_comm]
  unfold compMoves keptPairs inUnit
  dsimp only
  refine congrArg (List.filter _) ?_
  rw [comm, List.filter_map, List.zipIdx_map, List.map_map]
  refine congrArg (fun f => List.map f _) (funext fun k => ?_)
  exact congrArg (Prod.mk (n + k.2)) (Nat.add_comm ..)

/-- The elements that V.SCT writes of a unit, each where B says. -/
def placedPairs (e : Entry) (s : State) (u : Nat) : List (Nat × Nat) :=
  ((inUnit e s u).filter (fun k => decide (0 ≤ gthIndex s e k) && decide (gthIndex s e k < boxElems s (boxW e)))).map
    (fun k => ((gthIndex s e k).toNat, k))

theorem sctMoves_eq (s : State) (e : Entry) (u n : Nat) : sctMoves s e u n = placedPairs e s u := by
  have comm : (fun k => inRange (gthIndex s e ((unitElems s (boxA e) u).1 + k)) (boxElems s (boxW e))) =
      (fun k => decide (0 ≤ gthIndex s e k) && decide (gthIndex s e k < boxElems s (boxW e))) ∘ (· + (unitElems s (boxA e) u).1) := by
    funext k
    rw [Function.comp_apply, Nat.add_comm]
    rfl
  unfold sctMoves placedPairs inUnit
  dsimp only
  rw [List.filter_map, comm, List.map_map]
  refine congrArg (fun f => List.map f _) (funext fun k => ?_)
  rw [Function.comp_apply, Nat.add_comm]

section Plans
variable {s : State} {e : Entry} {slot n : Nat} {i : Instr} {t : Task}

/-- A plan of a task that A counts fails where a window does not hold its rows. -/
theorem parts_run {plan : Plan} {p : State × Work} (is : exec i s = runTask t plan slot n s)
    (lost : readsHeld s e = false → plan e s = (s, { cause := some { cause := .boxbad } }))
    (held : readsHeld s e = true → plan e s = p) (runs : Runs t slot e s) :
    (readsHeld s e = false → exec i s = .next (doUnits n { cause := some { cause := .boxbad } } e s)) ∧
      (readsHeld s e = true → exec i s = .next (doUnits n p.2 e p.1)) :=
  ⟨fun no => does_plan is (lost no) runs, fun yes => does_plan is (held yes) runs⟩

theorem votePlan_held (deliver : State → Entry → Nat → Nat) (held : readsHeld s e = true) : votePlan deliver e s =
    partPlan e.index (unitCount (boxBytes s (boxA e))) e.part (fun u => [fun s => [unitTouch s (boxA e) u false]])
      (fun s u c => ({}, c + BitVec.ofNat 64 (unitOnes e s (boxA e) u)))
      (fun c => some (BitVec.ofNat 64 (deliver s e c.toNat))) s := by
  refine (if_pos held).trans ?_
  simp only [onesIn_eq]

/-- A vote (R228). -/
theorem vote_runs {deliver : State → Entry → Nat → Nat} (is : exec i s = runTask t (votePlan deliver) slot n s) (runs : Runs t slot e s) :
    (readsHeld s e = false → exec i s = .next (doUnits n { cause := some { cause := .boxbad } } e s)) ∧
      (readsHeld s e = true →
        let p := partPlan e.index (unitCount (boxBytes s (boxA e))) e.part (fun u => [fun s => [unitTouch s (boxA e) u false]])
          (fun s u c => ({}, c + BitVec.ofNat 64 (unitOnes e s (boxA e) u)))
          (fun c => some (BitVec.ofNat 64 (deliver s e c.toNat))) s
        exec i s = .next (doUnits n p.2 e p.1)) :=
  parts_run is (fun lost => if_neg (Bool.eq_false_iff.mp lost)) (votePlan_held deliver) runs

/-- What a move plans: the pairs of each unit, behind the count of those below. -/
def pairsPlan (m : RBox) (pairs : State → Nat → Nat → List (Nat × Nat)) (count : State → Nat → Nat) (deliver : Word → Option Word)
    (e : Entry) (s : State) : State × Work :=
  partPlan e.index (unitCount (boxBytes s (boxA e))) e.part
    (fun u =>
      [fun _ => [touchOf m (unitElems s (boxA e) u).1 (unitElems s (boxA e) u).2,
                 touchOf (boxA e) (unitElems s (boxA e) u).1 (unitElems s (boxA e) u).2],
       fun t => (pairs t u (e.part.toNat + ((List.range (u - e.index)).map (fun k => count t (e.index + k))).sum)).map
         (fun p => { box := boxW e, first := p.1, count := 1, write := true })])
    (fun s u c => ({ effects := (pairs s u c.toNat).flatMap (fun p => elemEffects s (boxW e) p.1 (rawA s e p.2)) },
      c + BitVec.ofNat 64 (count s u))) deliver s

theorem movePlan_held {m : Entry → RBox} {moves : State → Entry → Nat → Nat → List (Nat × Nat)} {count : State → Entry → Nat → Nat}
    {deliver : Entry → Word → Option Word} {pairs : State → Nat → Nat → List (Nat × Nat)} {counts : State → Nat → Nat}
    (same : ∀ s u n, moves s e u n = pairs s u n) (counted : ∀ s u, count s e u = counts s u) (held : readsHeld s e = true) :
    movePlan m moves count deliver e s = pairsPlan (m e) pairs counts (deliver e) e s := by
  refine (if_pos held).trans ?_
  unfold pairsPlan
  simp only [same, counted]

theorem move_runs {m : Entry → RBox} {moves : State → Entry → Nat → Nat → List (Nat × Nat)} {count : State → Entry → Nat → Nat}
    {deliver : Entry → Word → Option Word} {pairs : State → Nat → Nat → List (Nat × Nat)} {counts : State → Nat → Nat}
    (is : exec i s = runTask t (movePlan m moves count deliver) slot n s)
    (same : ∀ s u n, moves s e u n = pairs s u n) (counted : ∀ s u, count s e u = counts s u) (runs : Runs t slot e s) :
    (readsHeld s e = false → exec i s = .next (doUnits n { cause := some { cause := .boxbad } } e s)) ∧
      (readsHeld s e = true →
        let p := pairsPlan (m e) pairs counts (deliver e) e s
        exec i s = .next (doUnits n p.2 e p.1)) :=
  parts_run is (fun lost => if_neg (Bool.eq_false_iff.mp lost)) (movePlan_held same counted) runs

/-! ### V.GTH and V.HIST -/

theorem gthOp_eq : gthOp = fun s e i =>
    (if 0 ≤ gthIndex s e i ∧ gthIndex s e i < boxElems s (boxA e) then rawA s e (gthIndex s e i).toNat else 0, 0) := by
  funext s e i
  unfold gthOp inRange
  simp only [Bool.and_eq_true, decide_eq_true_eq]

/-- What a bin holds once the elements below `hi` are counted. -/
def binValue (e : Entry) (s : State) (hi v : Nat) : Nat :=
  ((if histFrom e = 0 ∧ recMod e.record < 4 then 0 else readElem s (boxW e) v) +
    histCount s e (unitElems s (boxA e) (histFrom e)).1 hi v) % 2 ^ 32

theorem histBin_eq (s : State) (e : Entry) (hi v : Nat) : histBin s e hi v = binValue e s hi v := by
  unfold histBin histClears binValue
  simp only [Bool.and_eq_true, beq_iff_eq, decide_eq_true_eq]

theorem histPlan_lost (lost : readsHeld s e = false) : histPlan e s = (s, { cause := some { cause := .boxbad } }) :=
  if_neg (Bool.eq_false_iff.mp lost)

/-- What V.HIST plans of its units. -/
def histUnits (e : Entry) (s : State) : State × Work :=
  unitPlan e.index (unitCount (boxBytes s (boxA e)))
    (fun u => [fun s => [unitTouch s (boxA e) u false],
               fun s => (histBins s e u).map (fun v => { box := boxW e, first := v, count := 1, write := true })])
    (fun s u => { effects := (histBins s e u).flatMap (fun v =>
      elemEffects s (boxW e) v (binValue e s ((unitElems s (boxA e) u).1 + (unitElems s (boxA e) u).2) v)) })
    (fun _ => none) s

theorem histPlan_held (held : readsHeld s e = true) : histPlan e s = ((histUnits e s).1, { (histUnits e s).2 with
    counts := if recXf e.record % 2 = 1 then
        (List.range (boxElems (histUnits e s).1 (boxW e))).map (fun v =>
          BitVec.ofNat 32 (binValue e (histUnits e s).1 (boxElems (histUnits e s).1 (boxA e)) v))
      else [] }) := by
  refine (if_pos held).trans ?_
  unfold histUnits
  simp only [histBin_eq]

end Plans

end Sys2Proof.Machine
end

section
/-! The obligation about the vector tasks: the numbers, and each task by what its engine plans. -/

namespace Sys2Proof.Machine

/-- What the shapes of the float formats say. -/
theorem floatShapes_mem {f : Fmt} {p w : Nat} {emin emax : Int} (mem : (f, p, w, emin, emax) ∈ floatShapes) :
    fmtIsFloat f = true ∧ p = fmtPrec f ∧ w = fmtBits f ∧ emin = fmtEmin f ∧ emax = placeOf f (topCode f) + (fracBits f : Int) := by
  simp only [floatShapes, List.mem_cons, Prod.mk.injEq, List.not_mem_nil, or_false] at mem
  rcases mem with ⟨rfl, rfl, rfl, rfl, rfl⟩ | ⟨rfl, rfl, rfl, rfl, rfl⟩ | ⟨rfl, rfl, rfl, rfl, rfl⟩ | ⟨rfl, rfl, rfl, rfl, rfl⟩ <;> decide

theorem canonNaN_eq {f : Fmt} (float : fmtIsFloat f = true) : canonNaN f = if f = .f8 then 0x7F else infCode f + 2 ^ (fmtPrec f - 2) := by
  cases f <;> first | exact Bool.noConfusion float | decide

/-- The tree of R30 over six elements. -/
theorem treeRed_six (op : Nat → Nat → Nat × BitVec 6) (x : Fin 6 → Nat) :
    (treeRed op 6 [x 0, x 1, x 2, x 3, x 4, x 5] 0).1 =
      [(op (op (op (x 0) (x 4)).1 (x 2)).1 (op (op (x 1) (x 5)).1 (x 3)).1).1] := by
  rw [treeRed_step op 5 0 (xs := [x 0, x 1, x 2, x 3, x 4, x 5]) (t := 2) (show 4 < 6 by decide) (show 6 ≤ 8 by decide)]
  generalize List.foldl _ _ _ = flags
  change (treeRed op 5 [(op (x 0) (x 4)).1, (op (x 1) (x 5)).1, x 2, x 3] flags).1 = _
  rw [treeRed_step op 4 flags (xs := [_, _, _, _]) (t := 1) (show 2 < 4 by decide) (show 4 ≤ 4 by decide)]
  generalize List.foldl _ _ _ = flags'
  change (treeRed op 4 [(op (op (x 0) (x 4)).1 (x 2)).1, (op (op (x 1) (x 5)).1 (x 3)).1] flags').1 = _
  rw [treeRed_step op 3 flags' (xs := [_, _]) (t := 0) (show 1 < 2 by decide) (show 2 ≤ 2 by decide)]
  exact congrArg Prod.fst (treeRed_short op 3 (le_refl 1) _)

/-- The functions of one or two values (R29, R217, R218), case by case. -/
theorem functions_spec (f : Fmt) (mode : Nat) (a b : Bool) (m n : Nat) (e g : Int) :
    let sign (x : Bool) : Nat := if x then 2 ^ (fmtBits f - 1) else 0
    let nan : Nat × BitVec 6 := ((roundVal f mode (.nan false)).1, flagNV)
    let zeroDiv (x : Bool) : Nat × BitVec 6 := withFlags flagDZ (roundVal f mode (.inf x))
    let rounded (x : Approx) : Nat × BitVec 6 := roundFin f mode x.neg x.m x.e x.sticky
    divBits f mode (.fin a m e) (.fin b n g) = (if n = 0 then (if m = 0 then nan else zeroDiv (a != b))
      else if m = 0 then (sign (a != b), 0) else rounded (divApprox (a != b) m e n g)) ∧
    divBits f mode (.inf a) (.inf b) = nan ∧ divBits f mode (.inf a) (.fin b n g) = roundVal f mode (.inf (a != b)) ∧
    divBits f mode (.fin a m e) (.inf b) = (sign (a != b), 0) ∧
    sqrtBits f mode (.fin a m e) = (if m = 0 then (sign a, 0) else if a then nan else rounded (sqrtApprox m e)) ∧
    sqrtBits f mode (.inf a) = (if a then nan else roundVal f mode (.inf false)) ∧
    rcpBits f mode (.fin a m e) = (if m = 0 then zeroDiv a else rounded (divApprox a 1 0 m e)) ∧ rcpBits f mode (.inf a) = (sign a, 0) ∧
    rsqBits f mode (.fin a m e) = (if m = 0 then zeroDiv a else if a then nan else rounded (rsqApprox m e)) ∧
    rsqBits f mode (.inf a) = (if a then nan else (0, 0)) ∧
    exp2Bits f mode (.fin a m e) = rounded (exp2Approx a m e) ∧
    exp2Bits f mode (.inf a) = (if a then (0, 0) else roundVal f mode (.inf false)) ∧
    log2Bits f mode (.fin a m e) = (if m = 0 then zeroDiv true else if a then nan else rounded (log2Approx m e)) ∧
    log2Bits f mode (.inf a) = (if a then nan else roundVal f mode (.inf false)) :=
  ⟨rfl, rfl, rfl, rfl, rfl, rfl, rfl, rfl, rfl, rfl, rfl, rfl, rfl, rfl⟩

section Numbers

/-- The codes of a float format and rounding to it, as the obligation states them. -/
theorem floats_spec {f : Fmt} {p w : Nat} {emin emax : Int} {mode : Nat} (neg : Bool) (mem : (f, p, w, emin, emax) ∈ floatShapes)
    (modes : mode < 4) :
    (∀ c ≤ topCode f,
      let m := if c < 2 ^ (p - 1) then c else 2 ^ (p - 1) + c % 2 ^ (p - 1)
      let q : Int := emin - ((p - 1 : Nat) : Int) + ((max 1 (c / 2 ^ (p - 1)) - 1 : Nat) : Int)
      valOfBits f (signBit f neg + c) = .fin neg m q ∧ roundVal f mode (.fin neg m q) = (signBit f neg + c, 0) ∧
      ∀ k r : Nat, 0 < r → r < 2 ^ k →
        let up := (awayBy mode neg (c % 2 == 1) r k).toNat
        roundVal f mode (.fin neg (m * 2 ^ k + r) (q - (k : Int))) = if topCode f < c + up then hugeBits f mode neg else
          (signBit f neg + c + up, if c + up < 2 ^ (p - 1) then flagNX ||| flagUF else flagNX)) ∧
    (∀ (m : Nat) (e : Int), 0 < m → emax < e + (Nat.log2 m : Int) → roundVal f mode (.fin neg m e) = hugeBits f mode neg) ∧
    (∀ b, roundVal f mode (.nan b) = (if f = .f8 then 0x7F else infCode f + 2 ^ (p - 2), 0)) ∧
    (f = .f8 → valOfBits f (signBit f neg + 0x7F) = .nan false) ∧
    (f ≠ .f8 → valOfBits f (signBit f neg + infCode f) = .inf neg ∧
      ∀ r, 0 < r → r < 2 ^ (p - 1) → valOfBits f (signBit f neg + infCode f + r) = .nan (decide (r < 2 ^ (p - 2)))) ∧
    (∀ (m : Nat) (e : Int), 2 ^ 26 ≤ m → roundFin f mode neg m e true = roundVal f mode (.fin neg (2 * m + 1) (e - 1))) := by
  obtain ⟨float, rfl, rfl, rfl, rfl⟩ := floatShapes_mem mem
  refine ⟨fun c below => ⟨valOfBits_code float neg below, roundVal_code float modes neg below,
      fun k r some rest => roundVal_between float modes neg below some rest⟩,
    fun m e some large => roundVal_huge float modes neg some large,
    fun b => congrArg (fun x => (x, (0 : BitVec 6))) (canonNaN_eq float), ?_, fun wide => ⟨?_, fun r some frac => ?_⟩,
    fun m e large => roundFin_sticky float modes neg large⟩
  · rintro rfl
    exact valOfBits_f8_nan neg
  · have value := valOfBits_special float wide neg (Nat.two_pow_pos (fracBits f))
    rwa [Nat.add_zero, if_pos rfl] at value
  · have value := valOfBits_special float wide neg (r := r) frac
    rwa [if_neg some.ne', ← Nat.add_assoc] at value

/-- The integer formats, as the obligation states them. -/
theorem ints_spec {f : Fmt} {w : Nat} {lo hi : Int} (mode : Nat) (mem : (f, w, lo, hi) ∈ intShapes) :
    (∀ v, lo ≤ v → v ≤ hi → valOfBits f (v % 2 ^ w).toNat = .fin (decide (v < 0)) v.natAbs 0) ∧
    (∀ b, floatToInt f mode (.nan b) = (0, flagNV)) ∧
    (∀ neg, floatToInt f mode (.inf neg) = (((if neg then lo else hi) % 2 ^ w).toNat, flagNV ||| flagSAT)) ∧
    (∀ neg m e, let r := roundInt mode neg m e false
      floatToInt f mode (.fin neg m e) = if r.1 < lo then ((lo % 2 ^ w).toNat, flagNV ||| flagSAT) else
        if hi < r.1 then ((hi % 2 ^ w).toNat, flagNV ||| flagSAT) else ((r.1 % 2 ^ w).toNat, if r.2 then flagNX else 0)) ∧
    (∀ (mod : Nat) (v : Int), fit f mod (.fin (decide (v < 0)) v.natAbs 0) =
      if 4 ≤ mod ∧ v < lo then ((lo % 2 ^ w).toNat, flagSAT) else
        if 4 ≤ mod ∧ hi < v then ((hi % 2 ^ w).toNat, flagSAT) else ((v % 2 ^ w).toNat, 0)) := by
  obtain ⟨whole, pos, rfl, rfl, rfl⟩ := intShapes_mem mem
  simp only [← unsignedOf_eq]
  exact ⟨fun v low high => valOfBits_int whole pos low high, fun _ => rfl, fun _ => rfl,
    fun neg m e => floatToInt_fin mode neg m e, fit_int whole⟩

end Numbers

section Moves
variable {slot n : Nat} {s : State} {e : Entry}

theorem comp_runs (runs : Runs .vcomp slot e s) :
    (readsHeld s e = false → exec (.vComp slot n) s = .next (doUnits n { cause := some { cause := .boxbad } } e s)) ∧
      (readsHeld s e = true →
        let p := pairsPlan (boxC e) (keptPairs e) (fun s u => unitOnes e s (boxC e) u)
          (fun c => if recGv e.record then some c else none) e s
        exec (.vComp slot n) s = .next (doUnits n p.2 e p.1)) :=
  move_runs (m := boxC) (moves := compMoves) (count := fun s e u => onesIn s (boxC e) (unitElems s (boxA e) u))
    (deliver := fun e n => if recGv e.record then some n else none) rfl (fun s => compMoves_eq s e)
    (fun s => onesIn_eq s e (boxC e)) runs

theorem sct_runs (runs : Runs .vsct slot e s) :
    (readsHeld s e = false → exec (.vSct slot n) s = .next (doUnits n { cause := some { cause := .boxbad } } e s)) ∧
      (readsHeld s e = true →
        let p := pairsPlan (boxB e) (fun s u _ => placedPairs e s u) (fun _ _ => 0) (fun _ => none) e s
        exec (.vSct slot n) s = .next (doUnits n p.2 e p.1)) :=
  move_runs (m := boxB) (moves := sctMoves) (count := fun _ _ _ => 0) (deliver := fun _ _ => none) rfl (fun s => sctMoves_eq s e)
    (fun _ _ => rfl) runs

end Moves

/-- Settles O41: the numbers by their codes and one rounding, each task by what its engine plans. -/
theorem vectorTasks : Obligations.VectorTasks := by
  unfold Obligations.VectorTasks
  refine ⟨rfl, rfl, rfl, rfl, rfl, rfl, ?_, fun mode neg y k r rest => roundInt_between mode neg y rest,
    fun f w lo hi mode mem => ints_spec mode mem, ?_, ?_, ?_, ?_, functions_spec, ?_, ?_, ?_, ?_, ?_, ?_⟩
  · intro f p w emin emax mode neg mem modes sign infinite top huge
    obtain ⟨codes, beyond, nan, nan8, special, sticky⟩ := floats_spec neg mem modes
    obtain ⟨_, rfl, rfl, _, _⟩ := floatShapes_mem mem
    exact ⟨codes, beyond, rfl, nan, nan8, special, sticky⟩
  · intro f p w emin emax mod v mem
    exact if_pos (floatShapes_mem mem).1
  · intro mode a b m n e g k x y
    exact ⟨addVal_fin mode a b m n e g, rfl, rfl, rfl, rfl, rfl, rfl, rfl,
      fun q v => ⟨(addVal_nan mode q v).1, (addVal_nan mode q v).2, (mulVal_nan q v).1, (mulVal_nan q v).2,
        (minmaxVal_nan a q v).1, (minmaxVal_nan a q v).2⟩,
      cmpVal_fin a b m n e g, minmaxVal_fin a b m n e g false, minmaxVal_fin a b m n e g true⟩
  · intro neg m n e g some pos d x q y r z
    obtain ⟨d1, d2, d3, d4, d5, d6⟩ := divApprox_spec neg e g some pos
    obtain ⟨q1, q2, q3, q4, q5, q6⟩ := sqrtApprox_spec e some
    exact ⟨d1, d2, d3, d4, d5, d6, q1, q2, q3, q4, q5, q6, rsqApprox_spec e some⟩
  · intro neg m t e
    exact ⟨exp2Approx_whole neg, exp2Approx_half neg, log2Approx_power t e⟩
  · intro op fuel xs fl
    exact ⟨fun short => treeRed_short op fuel short fl, fun t above below => treeRed_step op fuel fl above below⟩
  · intro op x g
    exact treeRed_six op x
  · exact redTree_eq
  · intro f mod x y a b fitted
    exact ⟨rfl, rfl, rfl, rfl, rfl, rfl, rfl⟩
  · intro tab sb valid cb q code
    exact ⟨fun c j _ inside low above => decodeCode_at valid inside low above, rfl,
      fun c below => ⟨c8Value_positive sb below, c8Value_negative sb below⟩, fun _ _ => rfl,
      fun mode neg => congrArg (fun c => (c, flagOF)) (signedCode_eq neg (le_refl 127)), fun _ _ _ => rfl,
      fun mode neg m e modes some => c8Quant_spec sb mode neg e valid modes some⟩
  · intro slot n s e runs each f md bits two one
    refine ⟨does_plan rfl rfl, does_plan rfl rfl, does_plan rfl rfl, does_plan rfl rfl, does_plan rfl rfl, does_plan rfl rfl,
      does_plan rfl rfl, does_plan rfl rfl, does_plan rfl rfl, does_plan rfl rfl, does_plan rfl rfl, does_plan rfl rfl,
      does_plan rfl rfl, does_plan rfl rfl, does_plan rfl rfl, does_plan rfl rfl, does_plan rfl rfl, does_plan rfl rfl,
      does_plan rfl rfl, does_plan rfl rfl, does_plan rfl rfl, does_plan rfl rfl, does_plan rfl rfl, does_plan rfl rfl,
      does_plan rfl rfl, does_plan rfl rfl, does_plan rfl rfl, does_plan rfl rfl, does_plan rfl rfl, does_plan rfl rfl,
      does_plan rfl rfl, does_plan rfl rfl, does_plan rfl rfl, ?_, ?_, ?_, does_plan rfl rfl⟩
    · intro parts inUnit' ones vote moves
      refine ⟨vote_runs (deliver := fun _ _ n => (n != 0).toNat) rfl,
        vote_runs (deliver := fun s e n => (n == boxElems s (boxA e)).toNat) rfl,
        vote_runs (deliver := fun _ _ n => n) rfl, comp_runs, sct_runs⟩
    · refine does_plan (plan := wPlan gthReads _) ?_ rfl
      rw [← gthOp_eq]
      rfl
    · intro runs start count bin bins p
      exact ⟨fun lost => does_plan rfl (histPlan_lost lost) runs, fun held => does_plan rfl (histPlan_held held) runs⟩

end Sys2Proof.Machine
end

section
/-! What the strand's own steps do to the level, the trap registers and the byte stores: only a trap raises the level. -/

namespace Sys2Proof.Machine

/-! ### The relations -/

/-- The level, whether a trap is being handled, where its handler stands, and an entry that waits. -/
def level (s : State) : Bool × Bool × BitVec 32 × Option TrapDue := (s.sys.pl, s.sys.th, s.sys.tvec, s.thatch.trapDue)

/-- From `s` to `t` the level and the trap registers stand, and the byte stores stay canonical. -/
structure Calm (s t : State) : Prop where
  same : level t = level s
  canon : Canonical s → Canonical t

/-- At the user level, the level stands, and a trap entry that waits newly has found no trap in progress. -/
def LevelStands (s t : State) : Prop := t.sys.pl = false ∧ t.sys.th = s.sys.th ∧ t.sys.tvec = s.sys.tvec ∧
  (t.thatch.trapDue = s.thatch.trapDue ∨ s.sys.th = false ∨ t.thatch.trapDue = none)

/-- A trap has been taken, and control is at TVEC. -/
def AtHandler (s t : State) : Prop := s.sys.th = false ∧ t.sys.th = true ∧ t.sys.tvec = s.sys.tvec ∧ t.strand.pc = s.sys.tvec

/-- Nothing here raises the level from the user level. -/
structure Steady (s t : State) : Prop where
  canon : Canonical s → Canonical t
  user : s.sys.pl = false → LevelStands s t

/-- Only a trap raises the level from the user level. -/
structure Sound (s t : State) : Prop where
  canon : Canonical s → Canonical t
  user : s.sys.pl = false → LevelStands s t ∨ AtHandler s t

theorem Calm.refl (s : State) : Calm s s := ⟨rfl, id⟩

theorem Calm.trans {s t u : State} (h : Calm s t) (k : Calm t u) : Calm s u := ⟨k.same.trans h.same, k.canon ∘ h.canon⟩

theorem Calm.of {s t : State} (same : level t = level s) (bytes : byteStores t = byteStores s) : Calm s t :=
  ⟨same, canonical_of_byteStores bytes⟩

theorem Calm.pl {s t : State} (h : Calm s t) : t.sys.pl = s.sys.pl := congrArg (fun v => v.1) h.same
theorem Calm.th {s t : State} (h : Calm s t) : t.sys.th = s.sys.th := congrArg (fun v => v.2.1) h.same
theorem Calm.tvec {s t : State} (h : Calm s t) : t.sys.tvec = s.sys.tvec := congrArg (fun v => v.2.2.1) h.same
theorem Calm.trapDue {s t : State} (h : Calm s t) : t.thatch.trapDue = s.thatch.trapDue := congrArg (fun v => v.2.2.2) h.same

theorem Quiet.calm {s t : State} (h : Quiet s t) : Calm s t := by
  refine ⟨?_, h.canon⟩
  unfold level
  rw [h.sys (fun r => r.pl) (fun _ => rfl), h.sys (fun r => r.th) (fun _ => rfl), h.sys (fun r => r.tvec) (fun _ => rfl), h.trapDue]

theorem Calm.steady {s t : State} (h : Calm s t) : Steady s t := ⟨h.canon, fun user => ⟨h.pl.trans user, h.th, h.tvec, .inl h.trapDue⟩⟩

theorem Steady.sound {s t : State} (h : Steady s t) : Sound s t := ⟨h.canon, fun user => .inl (h.user user)⟩

theorem Calm.sound {s t : State} (h : Calm s t) : Sound s t := h.steady.sound

theorem Quiet.sound {s t : State} (h : Quiet s t) : Sound s t := h.calm.sound

theorem Steady.trans {s t u : State} (h : Steady s t) (k : Steady t u) : Steady s u := by
  refine ⟨k.canon ∘ h.canon, fun user => ?_⟩
  obtain ⟨pl, th, tvec, due⟩ := h.user user
  obtain ⟨pl', th', tvec', due'⟩ := k.user pl
  refine ⟨pl', th'.trans th, tvec'.trans tvec, ?_⟩
  rcases due' with same | none | gone
  · rcases due with same' | none | gone
    · exact .inl (same.trans same')
    · exact .inr (.inl none)
    · exact .inr (.inr (same.trans gone))
  · exact .inr (.inl (th.symm.trans none))
  · exact .inr (.inr gone)

/-- What is calm first keeps what comes behind it sound. -/
theorem Calm.trans_sound {s t u : State} (h : Calm s t) (k : Sound t u) : Sound s u := by
  refine ⟨k.canon ∘ h.canon, fun user => ?_⟩
  have due := h.trapDue
  have := k.user (h.pl.trans user)
  unfold LevelStands AtHandler at *
  rwa [h.th, h.tvec, due] at this

/-- At the privileged level everything is sound that keeps the byte stores. -/
theorem Steady.of_privileged {s t : State} (privileged : s.sys.pl = true) (canon : Canonical s → Canonical t) : Steady s t :=
  ⟨canon, fun user => Bool.noConfusion (user.symm.trans privileged)⟩

theorem calm_foldl {α : Type} {f : State → α → State} (each : ∀ s x, Calm s (f s x)) (l : List α) (s : State) : Calm s (l.foldl f s) := by
  induction l generalizing s with
  | nil => exact .refl s
  | cons x t ih => exact (each s x).trans (ih (f s x))

section

variable {c : Prop} [Decidable c] {s t u : State}

theorem Quiet.ite (h : Quiet s t) (k : Quiet s u) : Quiet s (if c then t else u) := by split <;> assumption

theorem Calm.ite (h : Calm s t) (k : Calm s u) : Calm s (if c then t else u) := by split <;> assumption

theorem Sound.ite (h : Sound s t) (k : Sound s u) : Sound s (if c then t else u) := by split <;> assumption

end

/-! ### Registers and control -/

theorem calm_withStrand (s : State) (x : Strand) : Calm s { s with strand := x } := .of rfl rfl
theorem calm_withGrp (s : State) (x : Group) : Calm s { s with grp := x } := .of rfl rfl
theorem calm_withPkg (s : State) (x : Package) : Calm s { s with pkg := x } := .of rfl rfl
theorem calm_withProf (s : State) (x : Profile) : Calm s { s with prof := x } := .of rfl rfl

theorem calm_setG (s : State) (d : Reg) (v : Word) : Calm s (setG s d v) := (quiet_setG s d v).calm

theorem calm_setC (s : State) (c : Cond) (b : Bool) : Calm s (setC s c b) := by
  unfold setC
  split
  · exact .refl s
  · exact .of rfl rfl

theorem calm_exitSnap (dw3 how : Nat) (s : State) : Calm s (exitSnap dw3 how s) := by
  unfold exitSnap
  split
  · exact .of rfl rfl
  · exact (quiet_traceSnap _ _ _ _ s).calm

theorem calm_endLoop (how : Nat) (s : State) : Calm s (endLoop how s) := by
  have moved (x : Xstat) : Calm s (withXstat s x) := .of rfl rfl
  unfold endLoop
  dsimp only
  split
  · exact (moved _).trans (calm_exitSnap _ _ _)
  · exact moved _

theorem calm_loopBack (l : LoopId) (s : State) : Calm s (loopBack l s) := by
  unfold loopBack
  dsimp only
  split <;> exact .of rfl rfl

theorem calm_afterWord (n : Nat) (last : BitVec 32) (s : State) : Calm s (afterWord n last s) := by
  induction n generalizing s with
  | zero => exact .of rfl rfl
  | succ n ih =>
    unfold afterWord
    dsimp only
    split
    · split
      · exact calm_loopBack _ s
      · exact (calm_endLoop 0 s).trans (ih _)
    · exact .of rfl rfl

theorem calm_transferTo (how n : Nat) (t : BitVec 32) (s : State) : Calm s (transferTo how n t s) := by
  induction n generalizing s with
  | zero => exact .of rfl rfl
  | succ n ih =>
    unfold transferTo
    split
    · exact (calm_endLoop how s).trans (ih _)
    · exact .of rfl rfl

theorem calm_endLoopsTo (n : Nat) (l : LoopId) (s : State) : Calm s (endLoopsTo n l s) := by
  induction n generalizing s with
  | zero => exact .refl s
  | succ n ih =>
    unfold endLoopsTo
    split
    · exact .refl s
    · split
      · exact calm_endLoop 1 s
      · exact (calm_endLoop 1 s).trans (ih _)

theorem calm_runAhead (p : Pend) (hint : Bool) (inst last : BitVec 32) (s : State) : Calm s (runAhead p hint inst last s) := by
  have ahead (cp : Checkpoint) : Calm s { s with grp := { s.grp with spec := some cp }, sys := { s.sys with spec := true } } := .of rfl rfl
  unfold runAhead
  dsimp only
  split
  · exact (ahead _).trans (calm_transferTo _ _ _ _)
  · exact (ahead _).trans (calm_afterWord _ _ _)

theorem calm_completeSlot (p : Pend) (last : BitVec 32) (s : State) : Calm s (completeSlot p last s) := by
  unfold completeSlot
  split
  · split
    · exact calm_transferTo _ _ _ s
    · exact calm_afterWord _ _ s
  · split
    · exact calm_transferTo _ _ _ s
    · exact calm_afterWord _ _ s
  · split
    · exact (calm_endLoopsTo _ _ s).trans (calm_transferTo _ _ _ _)
    · exact calm_afterWord _ _ s
  · exact calm_runAhead _ _ _ _ s

theorem calm_goOn (size : BitVec 32) (s : State) : Calm s (goOn size s) := by
  have clear : Calm s (clearIssue s) := .of rfl rfl
  refine clear.trans ?_
  unfold goOn
  dsimp only
  split
  · split
    · exact .of rfl rfl
    · exact (calm_withStrand (clearIssue s) _).trans (calm_afterWord _ _ _)
  · split
    · exact (calm_withStrand (clearIssue s) _).trans (calm_completeSlot _ _ _)
    · exact calm_afterWord _ _ _

theorem calm_advance (size : BitVec 32) (s : State) : Calm s (advance size s) :=
  Calm.trans (.of rfl rfl : Calm s (addCount (countOf s) s)) (calm_goOn size _)

theorem calm_stallAt (s : State) : Calm s (stallAt s) := .of rfl rfl

theorem Calm.snapGuard {s t : State} (h : Calm s t) : Calm s (snapGuard s t) := by
  unfold Sys2Proof.Machine.snapGuard
  split
  · exact calm_stallAt s
  · exact h

theorem Steady.snapGuard {s t : State} (h : Steady s t) : Steady s (snapGuard s t) := by
  unfold Sys2Proof.Machine.snapGuard
  split
  · exact (calm_stallAt s).steady
  · exact h

theorem calm_pendTransfer (p : Pend) (s : State) : Calm s (pendTransfer p s) := .of rfl rfl

/-! ### The end of a launch -/

theorem calm_endHandOver (s : State) : Calm s (endHandOver s) := by
  unfold endHandOver
  split <;> exact .of rfl rfl

theorem calm_abortGroup (info : BitVec 32) (s : State) : Calm s (abortGroup info s) := by
  unfold abortGroup
  split <;> exact .of rfl rfl

/-- The end of a launch drops a trap entry that waits. -/
theorem steady_endLaunch (r : Run) (c : Completion) (s : State) : Steady s (endLaunch r c s) := by
  refine (calm_endHandOver s).steady.trans ?_
  exact ⟨fun wf => wf, fun user => ⟨user, rfl, rfl, .inr (.inr rfl)⟩⟩

theorem steady_doubleTrap (t : Trap) (s : State) : Steady s (doubleTrap t s) := by
  have marked (c : CauseReg) : Calm s { s with sys := { s.sys with cause := c } } := .of rfl rfl
  exact ((marked _).steady.trans (steady_endLaunch _ _ _)).trans (calm_abortGroup _ _).steady

/-! ### Taking a trap -/

theorem calm_stopForView (t : Trap) (s : State) : Calm s (stopForView t s) := by
  unfold stopForView
  split
  · exact .of rfl rfl
  · exact .refl s

theorem quiet_cutRecord (recSeq : Option Nat) (s : State) : Quiet s (cutRecord recSeq s) := by
  have stopped : Quiet s { s with thatch := { s.thatch with stopped := true } } := .same rfl rfl
  unfold cutRecord
  split
  · exact stopped.trans (quiet_putSpad _ _ _)
  · exact .refl s

theorem quiet_debugView (tag : Nat) (s : State) : Quiet s (debugView tag s) := by
  unfold debugView
  split
  · exact ((quiet_countConflicts s).trans (quiet_traceRecord _ _ _ _ _ _ _ _ _)).trans ((quiet_withProf _ _).trans (quiet_snapTaken _))
  · exact .refl s

/-- The registers at a trap's entry, in front of its cut record and its debug view. -/
def trapRegs (t : Trap) (async : Bool) (s : State) : State :=
  { s with
    sys := { s.sys with
      exstat := { xstatNow s with sk := false }
      elb := savedBounds s
      epc := s.strand.pc
      etgt := savedTarget s
      cause := { info := t.info, src := t.src, dbl := false, async := async, code := causeCode t.cause }
      faddr := (match t.faddr with | some a => a | none => s.sys.faddr)
      ppl := s.sys.pl
      pl := true
      th := true
      unrec := if t.cause = .residue ∧ t.src ≠ 1 then satInc s.sys.unrec else s.sys.unrec }
    strand := { s.strand with
      xstat := { s.strand.xstat with depth := 0, pipe := false, q := 0, repk := 0, xp := false, xt := false, sk := false }
      pend := none, rep := none, cbrSaved := savedBranch s, stalled := false, asleep := false, iterEnd := false, pc := s.sys.tvec }
    grp := { s.grp with heldWait := false } }

theorem enterTrap_quiet (t : Trap) (async : Bool) (recSeq : Option Nat) (s : State) :
    Quiet (trapRegs t async s) (enterTrap t async recSeq s) := by
  have cut := quiet_cutRecord recSeq (trapRegs t async s)
  change Quiet _ (if t.cause = .brk then debugView (t.info.toNat % 256) (cutRecord recSeq (trapRegs t async s)) else
    cutRecord recSeq (trapRegs t async s))
  split
  · exact cut.trans (quiet_debugView _ _)
  · exact cut

theorem enterTrap_canon (t : Trap) (async : Bool) (recSeq : Option Nat) {s : State} (wf : Canonical s) :
    Canonical (enterTrap t async recSeq s) := (enterTrap_quiet t async recSeq s).canon wf

theorem enterTrap_regs (t : Trap) (async : Bool) (recSeq : Option Nat) (s : State) : let u := enterTrap t async recSeq s
    u.sys.pl = true ∧ u.sys.th = true ∧ u.sys.tvec = s.sys.tvec ∧ u.strand.pc = s.sys.tvec ∧ u.sys.cause.code = causeCode t.cause ∧
      u.thatch.trapDue = s.thatch.trapDue :=
  have quiet := enterTrap_quiet t async recSeq s
  ⟨quiet.sys (fun r => r.pl) (fun _ => rfl), quiet.sys (fun r => r.th) (fun _ => rfl), quiet.sys (fun r => r.tvec) (fun _ => rfl),
    quiet.pc, quiet.sys (fun r => r.cause.code) (fun _ => rfl), quiet.trapDue⟩

theorem sound_enterTrap (t : Trap) (async : Bool) (recSeq : Option Nat) {s : State} (free : s.sys.th = false) :
    Sound s (enterTrap t async recSeq s) := by
  obtain ⟨_, th, tvec, pc, _⟩ := enterTrap_regs t async recSeq s
  exact ⟨enterTrap_canon t async recSeq, fun _ => .inr ⟨free, th, tvec, pc⟩⟩

theorem steady_deferTrap (t : Trap) (async : Bool) (recSeq : Option Nat) {s : State} (free : s.sys.th = false) :
    Steady s (deferTrap t async recSeq s) := ⟨id, fun user => ⟨user, rfl, rfl, .inr (.inl free)⟩⟩

/-- Taking a trap is sound: a double trap ends the launch, an entry goes to TVEC or waits. -/
theorem sound_trapEntry (t : Trap) (async : Bool) (recSeq : Option Nat) (s : State) : Sound s (trapEntry t async recSeq s) := by
  unfold trapEntry
  cases handling : s.sys.th
  · have stopped := calm_stopForView t s
    have free := stopped.th.trans handling
    rw [if_neg Bool.false_ne_true]
    dsimp only
    split
    · exact stopped.trans_sound (steady_deferTrap t async recSeq free).sound
    · exact stopped.trans_sound (sound_enterTrap t async recSeq free)
  · rw [if_pos rfl]
    exact (steady_doubleTrap t s).sound

theorem quiet_walkedBy (t : Trap) (s : State) : Quiet s (walkedBy t s) := by
  unfold walkedBy
  split
  · dsimp only
    have walked (c : Bool) : Quiet s (if t.cause = .align then s else missRequests c t.info.toNat (0 : Word).toNat s) := by
      split
      · exact .refl s
      · exact (missRequests_onlyAsked _ _ _ s).quiet
    split
    · refine Quiet.trans ?_ (onlyMemory_requestAt _ _).quiet
      split
      · exact .refl s
      · exact (missRequests_onlyAsked _ _ _ s).quiet
    · split
      · exact .refl s
      · exact (missRequests_onlyAsked _ _ _ s).quiet
  · exact .refl s

theorem quiet_consumedBy (t : Trap) (s : State) : Quiet s (consumedBy t s) := by
  have walked := quiet_walkedBy t s
  unfold consumedBy
  dsimp only
  split
  · exact walked.trans (quiet_consumed _ _ _)
  · split
    · exact walked.trans (quiet_consumed _ _ _)
    · exact walked
  · exact walked

/-! ### Issue -/

/-- What an instruction makes of the state, where it does not trap, is steady. -/
def ResSteady (s : State) : Res → Prop
  | .done u => Steady s u
  | .jump u => Steady s u
  | .stall u => Steady s u
  | .trap _ => True
  | .trapIn _ u => Calm s u

theorem resSteady_ite {c : Prop} [Decidable c] {s : State} {r q : Res} (h : ResSteady s r) (k : ResSteady s q) :
    ResSteady s (if c then r else q) := by split <;> assumption

theorem resSteady_trap (s : State) (t : Trap) : ResSteady s (.trap t) := True.intro

theorem resSteady_stall (s : State) : ResSteady s (.stall s) := (Calm.refl s).steady

theorem resSteady_self (s : State) : ResSteady s (.done s) := (Calm.refl s).steady

theorem sound_finish (size : BitVec 32) {s : State} {r : Res} (steady : ResSteady s r) : Sound s (finish size s r) := by
  cases r with
  | done u => exact (Steady.snapGuard (Steady.trans steady (calm_advance size u).steady)).sound
  | jump u => exact (Steady.snapGuard steady).sound
  | stall u => exact (Steady.trans steady (calm_stallAt u).steady).sound
  | trap t =>
    change Sound s (if s.sys.spec || viewWaits t s then stallAt s else trapEntry t false none (consumedBy t s))
    split
    · exact (calm_stallAt s).sound
    · exact (quiet_consumedBy t s).calm.trans_sound (sound_trapEntry t false none _)
  | trapIn t u =>
    have calm : Calm s u := steady
    change Sound s (if s.sys.spec || viewWaits t s then stallAt s else trapEntry t false none (consumedBy t u))
    split
    · exact (calm_stallAt s).sound
    · exact (calm.trans (quiet_consumedBy t u).calm).trans_sound (sound_trapEntry t false none _)

/-- An outcome is sound. -/
def OutSound (s : State) (o : Out) : Prop := ∀ t, o = .next t → Sound s t

theorem OutSound.next {s t : State} (h : Sound s t) : OutSound s (.next t) := by
  rintro _ ⟨⟩
  exact h

theorem OutSound.ite {c : Prop} [Decidable c] {s : State} {o p : Out} (h : OutSound s o) (k : OutSound s p) :
    OutSound s (if c then o else p) := by split <;> assumption

/-- An instruction is sound that is steady where it does not trap. -/
theorem sound_issue {regs : List Reg} {stops : Bool} {size : BitVec 32} {f : State → Res} {s : State} (steady : ResSteady s (f s)) :
    OutSound s (issue regs stops size f s) := by
  refine .next ?_
  split
  · have counted : Calm s (addCount (inactiveCount s) s) := .of rfl rfl
    exact (Calm.snapGuard (counted.trans (calm_goOn size _))).sound
  · split
    · exact (calm_stallAt s).sound
    · split
      · exact (calm_stallAt s).sound
      · split
        · exact (calm_stallAt s).sound
        · exact sound_finish size steady

/-- A privileged operation is steady that keeps the byte stores. -/
theorem resSteady_privileged {f : State → Res} {s : State} (steady : s.sys.pl = true → ResSteady s (f s)) :
    ResSteady s (privileged f s) := by
  unfold privileged
  split
  · next pl => exact steady pl
  · trivial

theorem resSteady_transferPlace {f : State → Res} {s : State} (steady : ResSteady s (f s)) : ResSteady s (transferPlace f s) := by
  unfold transferPlace
  split
  · trivial
  · split
    · trivial
    · exact steady

end Sys2Proof.Machine
end

section
/-! The strand's instructions, by family: what each keeps (the level, the trap registers, the byte stores' form), where it does not trap. -/

namespace Sys2Proof.Machine

/-! ### Registers, conditions and control -/

theorem OutSound.calm {s t : State} (h : Calm s t) : OutSound s (.next t) := .next h.sound

theorem sound_alu2 (op : Word → Word → Word) (d a b : Reg) (s : State) : OutSound s (alu2 op d a b s) := sound_issue (calm_setG _ _ _).steady

theorem sound_alu1 (op : Word → Word) (d a : Reg) (s : State) : OutSound s (alu1 op d a s) := sound_issue (calm_setG _ _ _).steady

/-- An instruction that writes one register. -/
theorem sound_writes (regs : List Reg) (stops : Bool) (d : Reg) (v : State → Word) (s : State) :
    OutSound s (issue regs stops 1 (fun s => .done (setG s d (v s))) s) := sound_issue (calm_setG _ _ _).steady

/-- An instruction that writes one condition bit. -/
theorem sound_tests (regs : List Reg) (c : Cond) (b : State → Bool) (s : State) :
    OutSound s (issue regs false 1 (fun s => .done (setC s c (b s))) s) := sound_issue (calm_setC _ _ _).steady

theorem calm_setTb (s : State) (t : Tb) (a : BitVec 32) : Calm s (setTb s t a) := .of rfl rfl

theorem sound_ptg (t : Tb) (disp : BitVec 23) (s : State) : OutSound s (execPtg t disp s) := sound_issue (calm_setTb _ _ _).steady

theorem sound_ptr (t : Tb) (a : Reg) (s : State) : OutSound s (execPtr t a s) :=
  sound_issue (resSteady_ite (calm_setTb _ _ _).steady (resSteady_trap s _))

/-- A transfer that waits behind its slot is steady. -/
theorem sound_transfer {f : State → Res} {s : State} (steady : ResSteady s (f s)) : OutSound s (transfer f s) :=
  sound_issue (resSteady_transferPlace steady)

theorem steady_callWith (t : Tb) (s : State) : ResSteady s (callWith t s) :=
  have pushed : Calm s { s with strand := { s.strand with ras := s.strand.ras ++ [afterSlot s] } } := .of rfl rfl
  resSteady_ite (resSteady_trap s _) (pushed.trans (calm_pendTransfer _ _)).steady

theorem sound_callc (t : Tb) (c : Cond) (neg : Bool) (s : State) : OutSound s (execCallc t c neg s) :=
  sound_transfer (resSteady_ite (steady_callWith t s) (calm_pendTransfer _ s).steady)

theorem sound_ret (s : State) : OutSound s (execRet s) := by
  have popped : Calm s { s with strand := { s.strand with ras := s.strand.ras.dropLast } } := .of rfl rfl
  refine sound_transfer ?_
  split
  · trivial
  · exact (popped.trans (calm_pendTransfer _ _)).steady

/-! ### The count queue, loops and repeats -/

theorem calm_cqPop {s u : State} {v : BitVec 32} (popped : cqPop s = some (v, u)) : Calm s u := by
  unfold cqPop at popped
  split at popped
  · cases popped
    exact .of rfl rfl
  · split at popped
    · cases popped
    · cases popped
      exact .of rfl rfl

theorem sound_cqpop (d : Reg) (s : State) : OutSound s (execCqpop d s) := by
  refine sound_issue ?_
  split
  · exact (Calm.refl s).steady
  · next popped => exact ((calm_cqPop popped).trans (calm_setG _ _ _)).steady

theorem sound_cqpush (a : Reg) (s : State) : OutSound s (execCqpush a s) := sound_issue (quiet_cqAppend _ s).calm.steady

theorem sound_cqclr (s : State) : OutSound s (execCqclr s) := sound_issue (calm_withStrand s _).steady

theorem steady_startLoop {l : LoopId} {len : BitVec 10} {pipe : Bool} {stages : Nat} {count : State → Option (BitVec 32 × State)} {s : State}
    (counts : ∀ v u, count s = some (v, u) → Calm s u) : ResSteady s (startLoop l len pipe stages count s) := by
  have begun (u : State) : Calm u (clearIssue (addCount 1 u)) := .of rfl rfl
  have first (l : LoopId) (u : State) : Calm u (setLc u l { j := 0, cnt := 0 }) := .of rfl rfl
  have pushed (b : Bounds) (v : BitVec 32) (u : State) : Calm u (withPc (pushLoop l b pipe stages v u) b.first) := .of rfl rfl
  refine resSteady_ite (resSteady_trap s _) (resSteady_ite (resSteady_trap s _) ?_)
  split
  · exact resSteady_stall s
  · next c u counted =>
    have taken := (counts c u counted).trans (begun u)
    exact resSteady_ite (taken.trans ((first l _).trans (calm_afterWord _ _ _))).steady (taken.trans (pushed _ _ _)).steady

theorem sound_loop (regs : List Reg) (l : LoopId) (len : BitVec 10) (pipe : Bool) (stages : Nat) (v : State → BitVec 32) (s : State) :
    OutSound s (issue regs false 1 (startLoop l len pipe stages (fun s => some (v s, s))) s) := by
  refine sound_issue (steady_startLoop fun _ _ counted => ?_)
  cases counted
  exact .refl s

theorem sound_loopCq (l : LoopId) (len : BitVec 10) (pipe : Bool) (stages : Nat) (s : State) :
    OutSound s (issue [] true 1 (startLoop l len pipe stages cqPop) s) := sound_issue (steady_startLoop fun _ _ => calm_cqPop)

theorem sound_refuseWord (t : Trap) (s : State) : OutSound s (refuseWord t s) :=
  .next (.ite (calm_stallAt s).sound (sound_finish (r := .trap t) 1 trivial))

theorem sound_rep (n : BitVec 6) (sd sa sb : BitVec 4) (s : State) : OutSound s (execRep n sd sa sb s) :=
  have begun : Calm s (beginRepeat n.toNat sd sa sb s) := .of rfl rfl
  .ite (sound_refuseWord _ s) (sound_issue (resSteady_ite (resSteady_trap s _) (resSteady_ite (resSteady_trap s _)
    (resSteady_ite (resSteady_trap s _) begun.steady))))

theorem sound_fetchOutsideImage (a : BitVec 32) (s : State) : OutSound s (execFetchOutsideImage a s) :=
  have here : Calm s (withPc s a) := .of rfl rfl
  .next (.ite (calm_stallAt s).sound (here.trans_sound (sound_trapEntry _ _ _ _)))

/-! ### Loads, stores, spills, copies, atomics and fences -/

/-- What a strand read has done, where it does not trap. -/
def ReadCalm (s : State) : ReadRes → Prop
  | .bytes _ u => Calm s u
  | .ue u => Calm s u
  | .stall u => Calm s u
  | .trap _ => True

theorem calm_strandRead (addr : Word) (size kind : Nat) (s : State) : ReadCalm s (strandRead addr size kind s) := by
  unfold strandRead
  split
  · trivial
  · exact Calm.refl s
  · split
    · exact Calm.refl s
    · exact Calm.refl s
  · next translated =>
    have walked := onlyMemory_check translated
    split
    · exact walked.quiet.calm
    · split
      · exact ((walked.trans (onlyMemory_requestAt _ _)).quiet.trans (quiet_consumed _ _ _)).calm
      · exact (walked.trans (onlyMemory_requestAt _ _)).quiet.calm

theorem sound_load (n : Nat) (signed : Bool) (d a : Reg) (imm : BitVec 14) (s : State) : OutSound s (load n signed d a imm s) := by
  have pushed (l : Load) (u : State) : Calm u (pushLoad l u) := .of rfl rfl
  refine sound_issue ?_
  dsimp only
  have reads := calm_strandRead (getG s a + sextW imm) n 0 s
  split
  · trivial
  · next read => exact Calm.steady (by rwa [read] at reads)
  · next read =>
    rw [read] at reads
    exact resSteady_ite (resSteady_stall s) (Calm.trans reads (pushed _ _)).steady
  · next read =>
    rw [read] at reads
    exact resSteady_ite (resSteady_stall s) (Calm.trans reads (pushed _ _)).steady

theorem calm_finishLoad (l : Load) (s : State) : Calm s (finishLoad l s) := by
  unfold finishLoad
  split
  · exact (quiet_raiseAsync _ s).calm
  · dsimp only
    split
    · split
      · exact calm_setG _ _ _
      · exact (calm_setG _ _ _).trans (.of rfl rfl)
    · exact calm_setG _ _ _

theorem sound_loadComplete (i : Nat) (s : State) : OutSound s (execLoadComplete i s) := by
  refine .calm ?_
  split
  · exact .refl s
  · exact (calm_withStrand s _).trans (calm_finishLoad _ _)

theorem steady_storeHeld (addr : Word) (size : Nat) (data : Word) (s : State) : ResSteady s (storeHeld addr size data s) := by
  have held : ResSteady s (if meetsCopy s addr size || holdFull s then .stall s
      else .done { s with grp := { s.grp with hold := s.grp.hold ++ [.store addr size data] } }) := by
    split
    · exact (Calm.refl s).steady
    · exact (calm_withGrp s _).steady
  unfold storeHeld
  dsimp only
  split
  · exact held
  · exact held
  · exact (Calm.refl s).steady
  · split
    · exact held
    · trivial

theorem calm_storeNow_wait {addr : Word} {size : Nat} {data : Word} {s u : State} (wait : storeNow addr size data s = .wait u) : Calm s u := by
  unfold storeNow at wait
  dsimp only at wait
  split at wait
  · split at wait
    · split at wait
      · cases wait
        exact .refl s
      · cases wait
    · cases wait
  · cases wait
    exact .refl s
  · split at wait
    · cases wait
      exact .refl s
    · cases wait
  · split at wait
    · cases wait
      exact .refl s
    · split at wait
      · cases wait
      · split at wait
        · cases wait
        · split at wait <;> cases wait

theorem sound_store (n : Nat) (d a : Reg) (imm : BitVec 14) (s : State) : OutSound s (store n d a imm s) := by
  refine sound_issue ?_
  dsimp only
  split
  · split
    · exact (Calm.refl s).steady
    · exact steady_storeHeld _ _ _ s
  · split
    · trivial
    · next wait => exact (calm_storeNow_wait wait).steady
    · next done =>
      split
      · exact (Calm.refl s).steady
      · exact (quiet_storeNow done).calm.steady

theorem sound_spl (g : Reg) (slot : BitVec 9) (s : State) : OutSound s (execSpl g slot s) :=
  have written (w : Word) (u : State) : Calm u (setSpill u slot w) := .of rfl rfl
  sound_issue (resSteady_ite (resSteady_ite (resSteady_stall s) (calm_withGrp s _).steady) ((calm_withGrp s _).trans (written _ _)).steady)

/-- The pages of a copy are only translated. -/
theorem onlyMemory_copyPages {kind : Nat} {l : List Nat} {s : State} :
    (∀ {ps held u}, copyPages kind l s = .ok ps held u → OnlyMemory s u) ∧ (∀ {c a u}, copyPages kind l s = .bad c a u → OnlyMemory s u) ∧
      (∀ {u}, copyPages kind l s = .wait u → OnlyMemory s u) := by
  induction l generalizing s with
  | nil =>
    refine ⟨fun h => ?_, nofun, nofun⟩
    cases h
    exact .refl s
  | cons va t ih =>
    unfold copyPages
    split
    · refine ⟨nofun, fun h => ?_, nofun⟩
      cases h
      exact .refl s
    · refine ⟨nofun, fun h => ?_, nofun⟩
      cases h
      exact .refl s
    · refine ⟨nofun, nofun, fun h => ?_⟩
      cases h
      exact .refl s
    · next u translated =>
      have walked := onlyMemory_check translated
      obtain ⟨ok, bad, wait⟩ := ih (s := u)
      split
      · next all =>
        refine ⟨fun h => ?_, nofun, nofun⟩
        cases h
        exact walked.trans (ok all)
      · exact ⟨fun h => walked.trans (ok h), fun h => walked.trans (bad h), fun h => walked.trans (wait h)⟩

theorem steady_copyIssue (lda : Bool) (sp va n dst src : Word) (s : State) : ResSteady s (copyIssue lda sp va n dst src s) := by
  have tr (c : Cause) (a : Word) := resSteady_trap s (checkTrap c a (if lda then 3 else 4))
  refine resSteady_ite (resSteady_self s) (resSteady_ite (tr _ _) (resSteady_ite (tr _ _) (resSteady_ite (tr _ _) (resSteady_ite (tr _ _)
    (resSteady_ite (tr _ _) (resSteady_ite (tr _ _) (resSteady_ite (tr _ _) ?_)))))))
  split
  · next met => exact (onlyMemory_copyPages.2.1 met).quiet.calm
  · next met => exact (onlyMemory_copyPages.2.2 met).quiet.calm.steady
  · next met =>
    have walked := (onlyMemory_copyPages.1 met).quiet
    exact resSteady_ite (walked.trans (quiet_foldl (fun s a => quiet_raisePage a s) _ _)).calm.steady
      (resSteady_ite walked.calm.steady (walked.calm.trans (calm_withStrand _ _)).steady)

theorem quiet_ldaUnit (c : Copy) (s : State) (i : Nat) : Quiet s (ldaUnit c s i) := quiet_putSpad s _ _

theorem quiet_ldaPoison (c : Copy) (s : State) (i : Nat) : Quiet s (ldaPoison c s i) := by
  unfold ldaPoison
  dsimp only
  split
  · exact (quiet_consumed _ _ s).trans (quiet_raiseAsync _ _)
  · exact .refl s

theorem quiet_performCopy (c : Copy) (s : State) : Quiet s (performCopy c s) := by
  have asked : Quiet s (copyRequestsOf c s) := (requestsAt_onlyAsked _ s).quiet
  unfold performCopy
  dsimp only
  split
  · exact asked.trans ((quiet_foldl (quiet_ldaPoison c) _ _).trans (quiet_foldl (quiet_ldaUnit c) _ _))
  · exact asked.trans ((onlyMemory_foldl (fun s p => onlyMemory_markDirty _ s) _ _).trans (onlyMemory_memWrite _ _)).quiet

theorem sound_copyRetire (i : Nat) (s : State) : OutSound s (execCopyRetire i s) := by
  refine .calm ?_
  split
  · exact .refl s
  · exact (calm_withStrand s _).trans (quiet_performCopy _ _).calm

theorem sound_atom (op : AtomOp) (d a b : Reg) (w32 : Bool) (s : State) : OutSound s (atom op d a b w32 s) := by
  have pushed (l : Load) (u : State) : Calm u (pushLoad l u) := .of rfl rfl
  refine sound_issue ?_
  generalize (if w32 then 4 else 8) = size
  dsimp only
  split
  · trivial
  · exact resSteady_stall s
  · exact resSteady_ite (resSteady_stall s) (Calm.trans (.ite (quiet_putSpad s _ _).calm (.refl s)) (pushed _ _)).steady
  · next pa mig sw leaf u translated =>
    have walked := onlyMemory_check translated
    have asked := walked.trans (onlyMemory_requestAt pa u)
    refine resSteady_ite (walked.quiet.trans (quiet_raisePage _ _)).calm.steady (resSteady_ite walked.quiet.calm.steady (resSteady_ite ?_ ?_))
    · exact ((asked.quiet.trans (quiet_consumed _ _ _)).calm.trans (pushed _ _)).steady
    · exact (Calm.trans (.ite (asked.trans (onlyMemory_storeMem _ _ _ _ _)).quiet.calm asked.quiet.calm) (pushed _ _)).steady

/-- An instruction that only waits. -/
theorem sound_waits (regs : List Reg) (stops : Bool) (ready : State → Bool) (s : State) :
    OutSound s (issue regs stops 1 (fun s => if ready s then .done s else .stall s) s) :=
  sound_issue (resSteady_ite (resSteady_self s) (resSteady_stall s))

theorem sound_fence (ready : State → Bool) (s : State) : OutSound s (fence ready s) := sound_waits _ _ _ _

end Sys2Proof.Machine
end

section
/-! What husks, boxes, semaphores, POST and the run of a record keep: the window's part of the machine is quiet. -/

namespace Sys2Proof.Machine

/-! ### Write-backs and blocks -/

theorem quiet_setHusk (n : Nat) (h : Husk) (s : State) : Quiet s (setHusk n h s) := .same rfl rfl
theorem quiet_setBlock (hid blk : Nat) (b : Block) (s : State) : Quiet s (setBlock hid blk b s) := .same rfl rfl
theorem quiet_settleBlocks (hid : Nat) (invalid : Bool) (s : State) : Quiet s (settleBlocks hid invalid s) := .same rfl rfl
theorem quiet_setBox (s : State) (x : Bx) (b : BoxReg) : Quiet s (setBox s x b) := .same rfl rfl
theorem quiet_setSem (n : Nat) (v : BitVec 32) (s : State) : Quiet s (setSem n v s) := .same rfl rfl

theorem quiet_writeBack {n : Nat} {s u : State} (ok : writeBack n s = .ok u) : Quiet s u := by
  unfold writeBack at ok
  dsimp only at ok
  split at ok
  · cases ok
  · next touched =>
    cases ok
    exact ((onlyMemory_touchPieces touched).trans (onlyMemory_scatterAll _ _ _)).quiet.trans (quiet_settleBlocks _ _ _)

theorem quiet_writeBackAll (ns : List Nat) (s : State) : Quiet s (writeBackAll ns s).2.2 := by
  induction ns generalizing s with
  | nil => exact .refl s
  | cons n t ih =>
    unfold writeBackAll
    split
    · exact .refl s
    · next written => exact (quiet_writeBack written).trans (ih _)

theorem steady_withWriteBack {ns : List Nat} {s : State} {f : State → Res} (then_ : ∀ u, Quiet s u → ResSteady s (f u)) :
    ResSteady s (withWriteBack ns s f) := by
  have written := quiet_writeBackAll (dirtyHusks s ns) s
  unfold withWriteBack
  split
  · next all => exact then_ _ (by rwa [all] at written)
  · trivial
  · next stops => exact ((by rwa [stops] at written : Quiet s _).trans (quiet_raiseFail _ _)).calm.steady

theorem onlyMemory_touchRights {ps : List Piece} {s u : State} (ok : touchRights ps s = .ok u) : OnlyMemory s u := by
  induction ps generalizing s with
  | nil =>
    cases ok
    exact .refl _
  | cons p t ih =>
    unfold touchRights at ok
    split at ok
    · cases ok
    · exact ih ok
    · next met => exact (onlyMemory_engXBy (fun _ s => .refl s) met).trans (ih ok)

theorem quiet_fillBlock {hid blk : Nat} {s u : State} (ok : fillBlock hid blk s = .ok u) : Quiet s u := by
  unfold fillBlock at ok
  dsimp only at ok
  split at ok
  · cases ok
  · next touched =>
    cases ok
    exact (onlyMemory_touchPieces touched).quiet.trans ((quiet_putSpad _ _ _).trans (quiet_setBlock _ _ _ _))

theorem quiet_touchBlock {hid blk : Nat} {write : Bool} {s u : State} (ok : touchBlock hid blk write s = .ok u) : Quiet s u := by
  have filled {v : State} (h : (if (getBlock s hid blk).valid then Except.ok s else fillBlock hid blk s) = .ok v) : Quiet s v := by
    split at h
    · cases h
      exact .refl s
    · exact quiet_fillBlock h
  unfold touchBlock at ok
  dsimp only at ok
  split at ok
  · cases ok
  · next held =>
    split at ok
    · exact (filled held).trans (onlyMemory_touchRights ok).quiet
    · cases ok
      exact filled held

theorem onlyMemory_touchVa {write : Bool} {elem : Nat} {vas : List Nat} {s u : State} (ok : touchVa write elem vas s = .ok u) :
    OnlyMemory s u := by
  induction vas generalizing s with
  | nil =>
    cases ok
    exact .refl _
  | cons va t ih =>
    unfold touchVa at ok
    split at ok
    · cases ok
    · cases ok
    · next met =>
      split at ok
      · cases ok
      · exact (onlyMemory_engX met).trans (ih ok)

theorem quiet_touchElem {b : RBox} {write : Bool} {n : Nat} {s u : State} (ok : touchElem b write n s = .ok u) : Quiet s u := by
  unfold touchElem at ok
  dsimp only at ok
  split at ok
  · cases ok
    exact .refl _
  · split at ok
    · split at ok
      · split at ok
        · cases ok
        · next first =>
          split at ok
          · cases ok
            exact quiet_touchBlock first
          · exact (quiet_touchBlock first).trans (quiet_touchBlock ok)
      · split at ok
        · exact (onlyMemory_touchVa ok).quiet
        · cases ok
          exact .refl s
    · cases ok
      exact .refl s

theorem quiet_touchElems {b : RBox} {write : Bool} {first n : Nat} {s u : State} (ok : touchElems b write first n s = .ok u) : Quiet s u := by
  induction n generalizing first s with
  | zero =>
    cases ok
    exact .refl _
  | succ n ih =>
    unfold touchElems at ok
    split at ok
    · cases ok
    · next met => exact (quiet_touchElem met).trans (ih ok)

theorem quiet_touchAll {ts : List Touch} {s u : State} (ok : touchAll ts s = .ok u) : Quiet s u := by
  induction ts generalizing s with
  | nil =>
    cases ok
    exact .refl _
  | cons t ts ih =>
    unfold touchAll at ok
    split at ok
    · cases ok
    · next met =>
      refine Quiet.trans ?_ (ih ok)
      split at met
      · exact quiet_touchElems met
      · cases met
        exact .refl s

/-- One stage of the touches of a unit. -/
def touchStage (acc : Except Fail State) (g : State → List Touch) : Except Fail State :=
  match acc with
  | .error e => .error e
  | .ok s => touchAll (g s) s

theorem quiet_touchStages {gs : List (State → List Touch)} {s u : State} (ok : gs.foldl touchStage (.ok s) = .ok u) : Quiet s u := by
  have stuck (e : Fail) (gs : List (State → List Touch)) : gs.foldl touchStage (.error e) = .error e := by
    induction gs with
    | nil => rfl
    | cons g t ih => exact ih
  induction gs generalizing s with
  | nil =>
    cases ok
    exact .refl _
  | cons g t ih =>
    rw [List.foldl_cons] at ok
    change t.foldl touchStage (touchAll (g s) s) = .ok u at ok
    cases met : touchAll (g s) s with
    | error e =>
      rw [met, stuck] at ok
      cases ok
    | ok v =>
      rw [met] at ok
      exact (quiet_touchAll met).trans (ih ok)

theorem quiet_touchUnits (f : Nat → List (State → List Touch)) (u n : Nat) (s : State) : Quiet s (touchUnits f u n s).2.2 := by
  induction n generalizing u s with
  | zero => exact .refl s
  | succ n ih =>
    have unit : touchUnits f u (n + 1) s = match (f u).foldl touchStage (.ok s) with
      | .error e => (0, some e, s)
      | .ok s' => ((touchUnits f (u + 1) n s').1 + 1, (touchUnits f (u + 1) n s').2.1, (touchUnits f (u + 1) n s').2.2) := rfl
    rw [unit]
    split
    · exact .refl s
    · next touched => exact (quiet_touchStages touched).trans (ih _ _)

/-! ### The box and husk instructions -/

theorem resSteady_boxbad (s : State) : ResSteady s boxbad := True.intro
theorem resSteady_huskbad (s : State) : ResSteady s huskbad := True.intro

theorem Quiet.done {s u : State} (h : Quiet s u) : ResSteady s (.done u) := h.calm.steady

theorem sound_bxh (x : Bx) (a : Reg) (imm : BitVec 9) (s : State) : OutSound s (execBxh x a imm s) :=
  sound_issue (resSteady_ite (resSteady_ite (quiet_setBox s _ _).done (resSteady_huskbad s))
    (resSteady_ite (quiet_setBox s _ _).done (resSteady_boxbad s)))

theorem steady_setBoxDim (x : Bx) (dim : BitVec 2) (ok : Bool) (f : BoxReg → BoxReg) (s : State) : ResSteady s (setBoxDim x dim ok f s) := by
  refine resSteady_ite (resSteady_boxbad s) ?_
  split
  · trivial
  · exact resSteady_ite (resSteady_boxbad s) (quiet_setBox s _ _).done

theorem sound_bxo (x : Bx) (dim : BitVec 2) (a : Reg) (imm : BitVec 9) (s : State) : OutSound s (execBxo x dim a imm s) :=
  sound_issue (steady_setBoxDim _ _ _ _ s)

theorem sound_bxe (x : Bx) (dim : BitVec 2) (a : Reg) (imm : BitVec 9) (s : State) : OutSound s (execBxe x dim a imm s) :=
  sound_issue (steady_setBoxDim _ _ _ _ s)

theorem sound_bxs (x : Bx) (dim : BitVec 2) (a : Reg) (imm : BitVec 9) (s : State) : OutSound s (execBxs x dim a imm s) :=
  sound_issue (steady_setBoxDim _ _ _ _ s)

theorem sound_bxc (x a : Bx) (s : State) : OutSound s (execBxc x a s) := sound_issue (quiet_setBox s _ _).done

theorem sound_bxz (x : Bx) (s : State) : OutSound s (execBxz x s) := sound_issue (quiet_setBox s _ _).done

theorem sound_huskOp {limit size kind : Nat} {names : State → Nat → Bool} {h a : Reg} {imm : BitVec 8} {f : Nat → Nat → State → Res} {s : State}
    (steady : ∀ n off, ResSteady s (f n off s)) : OutSound s (huskOp limit size kind names h a imm f s) := by
  refine sound_issue (resSteady_ite (resSteady_huskbad s) (resSteady_ite (resSteady_trap s _) ?_))
  split
  · trivial
  · trivial
  · trivial
  · exact resSteady_ite (resSteady_stall s) (steady _ _)

/-- A husk behind its write-back, with every block invalid. -/
theorem quiet_huskWritten {s u : State} (written : Quiet s u) (n : Nat) (h : Husk) : Quiet s (setHusk n h (settleBlocks n true u)) :=
  written.trans ((quiet_settleBlocks _ _ _).trans (quiet_setHusk _ _ _))

theorem sound_hkld (h a : Reg) (imm : BitVec 8) (s : State) : OutSound s (execHkld h a imm s) :=
  sound_huskOp fun n _ => resSteady_ite (resSteady_huskbad s) (steady_withWriteBack fun _ written => (quiet_huskWritten written n _).done)

theorem sound_hkst (h a : Reg) (imm : BitVec 8) (s : State) : OutSound s (execHkst h a imm s) :=
  sound_huskOp fun _ _ => (quiet_putSpad s _ _).done

theorem sound_hkinv (h : Reg) (imm : BitVec 8) (s : State) : OutSound s (execHkinv h imm s) :=
  sound_issue (resSteady_ite (resSteady_huskbad s) (resSteady_ite (resSteady_stall s) (resSteady_ite (resSteady_huskbad s)
    (steady_withWriteBack fun _ written => (quiet_huskWritten written _ _).done))))

theorem sound_hktab (h a : Reg) (imm : BitVec 8) (s : State) : OutSound s (execHktab h a imm s) :=
  have loaded (n : Nat) (tab : List Word) : Quiet s { s with store := { s.store with tabs := tset [] s.store.tabs n tab } } := .same rfl rfl
  sound_huskOp fun _ _ => resSteady_ite (loaded _ _).done (resSteady_huskbad s)

/-! ### POST, semaphores -/

theorem quiet_stepBoxes (r : Rec) (s : State) : Quiet s (stepBoxes r s) := quiet_foldl (fun s _ => quiet_setBox s _ _) _ s

theorem quiet_enter (e : Entry) (room : Nat) (s : State) : Quiet s (enter e room s) := by
  unfold enter
  dsimp only
  split
  · exact .same rfl rfl
  · exact .same rfl rfl

theorem quiet_obtainPip (r : Rec) (n seq : Nat) (s : State) : Quiet s (obtainPip r n seq s) :=
  (quiet_setPip _ _ s).trans (quiet_setG _ _ _)

theorem quiet_enterPosted (r : Rec) (b : Boxes) (s : State) : Quiet s (enterPosted r b s) := by
  refine Quiet.trans ?_ (quiet_releaseAll _)
  have image : Quiet s (match postedImage s r with
      | some i => stepBoxes i.1 (stepBoxes r (enter
        { slot := 0, record := r, boxes := b, seq := 0, state := .pending, ahead := s.sys.spec, heldAhead := s.sys.spec && holdsAhead s r b
          pip := if obtainsPip r then freePip s else none, dep := boundDep s r, image := postedImage s r } 2 s))
      | none => stepBoxes r (enter
        { slot := 0, record := r, boxes := b, seq := 0, state := .pending, ahead := s.sys.spec, heldAhead := s.sys.spec && holdsAhead s r b
          pip := if obtainsPip r then freePip s else none, dep := boundDep s r, image := postedImage s r } 2 s)) := by
    split
    · exact ((quiet_enter _ _ s).trans (quiet_stepBoxes _ _)).trans (quiet_stepBoxes _ _)
    · exact (quiet_enter _ _ s).trans (quiet_stepBoxes _ _)
  split
  · exact image.trans (quiet_obtainPip _ _ _ _)
  · exact image

theorem steady_postRecord {s u : State} (r : Rec) (read : Calm s u) : ResSteady s (postRecord r u) := by
  refine resSteady_ite read.steady ?_
  split
  · trivial
  · exact resSteady_ite read.steady (read.trans (quiet_enterPosted _ _ u).calm).steady

theorem sound_post (rec : BitVec 256) (s : State) : OutSound s (execPost rec s) :=
  sound_issue (resSteady_ite (resSteady_trap s _) (steady_postRecord rec (.refl s)))

theorem sound_postm (a : Reg) (s : State) : OutSound s (execPostm a s) := by
  have reads := calm_strandRead (getG s a) 32 0 s
  refine sound_issue (resSteady_ite (resSteady_trap s _) ?_)
  split
  · trivial
  · next read => exact Calm.steady (by rwa [read] at reads)
  · next read => exact Calm.steady (by rwa [read] at reads)
  · next read => exact steady_postRecord _ (by rwa [read] at reads)

theorem sound_semadd (n : BitVec 11) (v : State → BitVec 32) (regs : List Reg) (s : State) : OutSound s (semadd n v regs s) :=
  sound_issue (resSteady_ite ((quiet_addSem _ _ s).trans (quiet_releaseAll _)).done (resSteady_stall s))

theorem sound_semset (n : BitVec 11) (g : Reg) (s : State) : OutSound s (execSemset n g s) :=
  sound_issue (resSteady_ite ((quiet_setSem _ _ s).trans (quiet_releaseAll _)).done (resSteady_stall s))

theorem sound_semwait (n : BitVec 11) (v : State → Int) (regs : List Reg) (s : State) : OutSound s (semwait n v regs s) :=
  sound_issue (resSteady_ite (resSteady_self s) (resSteady_stall s))

/-! ### The run of a record -/

theorem quiet_doUnits (n : Nat) (w : Work) (e : Entry) (s : State) : Quiet s (doUnits n w e s) := by
  have performed (x : Entry) (es : List Effect) (slot : Nat) (u : State) : Quiet u (if recRst x.record then putEntry x u
      else sendAll slot (packetsOf es) (applyEffects es (putEntry x u))) :=
    .ite (quiet_putEntry x u) (((quiet_putEntry x u).trans (quiet_applyEffects _ _)).trans (quiet_sendAll _ _ _))
  unfold doUnits
  dsimp only
  have all := performed
    { e with
      flags := e.flags ||| unitFlags (w.units.take n), index := e.index + ((w.units.take n).map Portion.step).sum
      part := partAfter e.part (w.units.take n), work := some { w with units := w.units.drop n }
      buffered := if recRst e.record then e.buffered ++ (w.units.take n).flatMap Portion.effects else e.buffered }
    ((w.units.take n).flatMap Portion.effects) e.slot s
  split
  · exact all
  · refine .ite all ?_
    split
    · exact all.trans (quiet_engineCause _ _ _)
    · exact .ite (all.trans (quiet_putEntry _ _)) (all.trans (quiet_doneEntry _ _))

/-- A plan changes nothing but what its reads of memory do. -/
def PlanQuiet (plan : Plan) : Prop := ∀ e s, Quiet s (plan e s).1

theorem PlanQuiet.progress {plan : Plan} (plans : PlanQuiet plan) (units : Nat) (e : Entry) (s : State) :
    Quiet s (Sys2Proof.Machine.progress plan units e s) := by
  unfold Sys2Proof.Machine.progress
  split
  · exact quiet_doUnits _ _ _ s
  · exact (plans e s).trans (quiet_doUnits _ _ _ _)

theorem PlanQuiet.runEntry {plan : Plan} (plans : PlanQuiet plan) (units : Nat) (e : Entry) (s : State) :
    Quiet s (Sys2Proof.Machine.runEntry plan units e s) := by
  refine .ite (.refl s) (.ite (.ite ((quiet_holdQuad s).trans (quiet_releaseAll _)) (plans.progress units e s)) (.ite (.ite
    ((quiet_dropEntry _ s).trans (quiet_releaseAll _)) ?_) (.refl s)))
  have started := quiet_startEntry e s
  dsimp only
  split
  · exact started.trans (plans.progress _ _ _)
  · exact started

theorem PlanQuiet.runTask {plan : Plan} (plans : PlanQuiet plan) (t : Task) (slot units : Nat) (s : State) :
    OutSound s (Sys2Proof.Machine.runTask t plan slot units s) := by
  refine .next (Quiet.sound ?_)
  split
  · exact .refl s
  · exact .ite (plans.runEntry _ _ s) (.refl s)

theorem sound_writeAcknowledgement (slot : Nat) (s : State) : OutSound s (execWriteAcknowledgement slot s) := by
  refine .next (Quiet.sound ?_)
  split
  · exact .refl s
  · exact .ite (quiet_retire _ s) (.refl s)

theorem quiet_enterParts (s : State) : Quiet s (enterParts s) := by
  have gone (p : Part) (u : State) : Quiet u { u with thatch := { u.thatch with partsDue := u.thatch.partsDue.erase p } } := .same rfl rfl
  exact quiet_foldl (fun s p => .ite ((gone p s).trans ((quiet_enter _ _ _).trans (quiet_releaseAll _))) (.refl s)) _ s

theorem sound_selftest (s : State) : OutSound s (execSelftest s) := by
  have tested : Quiet s (selfTest s) := by
    unfold selfTest
    dsimp only
    split <;> exact .same rfl rfl
  exact .next (Quiet.sound (.ite tested (.refl s)))

end Sys2Proof.Machine
end

section
/-! The plans of every task change nothing but what their reads of memory do, and the page tasks are quiet. -/

namespace Sys2Proof.Machine

/-! ### The plans -/

theorem quiet_fst_ite {c : Prop} [Decidable c] {s : State} {p q : State × Work} (h : Quiet s p.1) (k : Quiet s q.1) :
    Quiet s (if c then p else q).1 := by split <;> assumption

theorem quiet_unitPlan (p total : Nat) (touch : Nat → List (State → List Touch)) (portion : State → Nat → Portion)
    (scalar : State → Option Word) (s : State) : Quiet s (unitPlan p total touch portion scalar s).1 :=
  (quiet_touchUnits _ _ _ s).trans (quiet_raiseFail _ _)

theorem quiet_partPlan (p total : Nat) (v : Word) (touch : Nat → List (State → List Touch)) (portion : State → Nat → Word → Portion × Word)
    (scalar : Word → Option Word) (s : State) : Quiet s (partPlan p total v touch portion scalar s).1 :=
  (quiet_touchUnits _ _ _ s).trans (quiet_raiseFail _ _)

theorem quiet_badPlan (c : EngineCause) (s : State) : Quiet s (badPlan c s).1 := .refl s

theorem planQuiet_wPlan (reads : Reads) (f : ElemOp) : PlanQuiet (wPlan reads f) :=
  fun _ s => quiet_fst_ite (quiet_unitPlan _ _ _ _ _ s) (quiet_badPlan _ s)

theorem planQuiet_votePlan (f : State → Entry → Nat → Nat) : PlanQuiet (votePlan f) :=
  fun _ s => quiet_fst_ite (quiet_partPlan _ _ _ _ _ _ s) (quiet_badPlan _ s)

theorem planQuiet_movePlan (m : Entry → RBox) (moves : State → Entry → Nat → Nat → List (Nat × Nat)) (count : State → Entry → Nat → Nat)
    (f : Entry → Word → Option Word) : PlanQuiet (movePlan m moves count f) :=
  fun _ s => quiet_fst_ite (quiet_partPlan _ _ _ _ _ _ s) (quiet_badPlan _ s)

theorem planQuiet_histPlan : PlanQuiet histPlan := by
  intro e s
  cases held : readsHeld s e with
  | false =>
    rw [histPlan_lost held]
    exact .refl s
  | true =>
    have units : Quiet s (histUnits e s).1 := quiet_unitPlan _ _ _ _ _ s
    rw [histPlan_held held]
    exact units

theorem planQuiet_cpyPlan : PlanQuiet cpyPlan := fun _ s => quiet_fst_ite (quiet_unitPlan _ _ _ _ _ s) (quiet_badPlan _ s)

theorem planQuiet_cpyfPlan : PlanQuiet cpyfPlan := fun _ s => quiet_fst_ite (quiet_partPlan _ _ _ _ _ _ s) (quiet_badPlan _ s)

theorem planQuiet_cmpbPlan : PlanQuiet cmpbPlan := fun _ s => quiet_fst_ite (quiet_partPlan _ _ _ _ _ _ s) (quiet_badPlan _ s)

theorem planQuiet_fillPlan : PlanQuiet fillPlan := fun _ s => quiet_unitPlan _ _ _ _ _ s

theorem quiet_touchRow {h : Husk} {r : Nat} {ks : List Nat} {s u : State} (ok : touchRow h r ks s = .ok u) : Quiet s u := by
  induction ks generalizing s with
  | nil =>
    cases ok
    exact .refl _
  | cons k t ih =>
    unfold touchRow at ok
    dsimp only at ok
    split at ok
    · cases ok
    · next met => exact (onlyMemory_touchVa met).quiet.trans (ih ok)

theorem quiet_advTouches (h : Husk) (us : List (Nat × Nat)) (s : State) : Quiet s (advTouches h us s).2.2 := by
  induction us generalizing s with
  | nil => exact .refl s
  | cons x t ih =>
    unfold advTouches
    split
    · exact .refl s
    · next met =>
      refine Quiet.trans ?_ (ih _)
      split at met
      · exact quiet_touchRow met
      · cases met
        exact .refl _

theorem planQuiet_advPlan : PlanQuiet advPlan := fun _ s => quiet_fst_ite (quiet_badPlan _ s) (quiet_advTouches _ _ s)

theorem quiet_stopBefore {p : Nat} {bad : Nat → Bool} {r : State × Work} {s : State} (quiet : Quiet s r.1) : Quiet s (stopBefore p bad r).1 := by
  unfold stopBefore
  split <;> exact quiet

theorem planQuiet_drnPlan : PlanQuiet drnPlan := fun _ s => quiet_stopBefore (quiet_unitPlan _ _ _ _ _ s)

theorem planQuiet_selkPlan : PlanQuiet selkPlan := fun _ s => quiet_stopBefore (quiet_unitPlan _ _ _ _ _ s)

theorem planQuiet_drnaPlan : PlanQuiet drnaPlan := fun _ s => quiet_unitPlan _ _ _ _ _ s

theorem planQuiet_acclPlan : PlanQuiet acclPlan := fun _ s => quiet_unitPlan _ _ _ _ _ s

theorem quiet_sendWork (s : State) (e : Entry) (dst : Nat × Nat) (bodies : List (PktBody × Nat)) : Quiet s (sendWork s e dst bodies).1 :=
  quiet_fst_ite (quiet_badPlan _ s) (.refl s)

theorem planQuiet_wrPlan : PlanQuiet wrPlan := fun e s => quiet_sendWork s e _ _

theorem planQuiet_amoPlan : PlanQuiet amoPlan := fun e s => quiet_sendWork s e _ _

theorem planQuiet_semPlan : PlanQuiet semPlan := fun e s => quiet_sendWork s e _ _

theorem planQuiet_postPlan : PlanQuiet postPlan := by
  intro e s
  unfold postPlan
  split
  · exact quiet_sendWork s e _ _
  · exact quiet_badPlan _ s

theorem planQuiet_haloPlan : PlanQuiet haloPlan := by
  intro e s
  unfold haloPlan
  dsimp only
  split
  · exact quiet_badPlan _ s
  · exact quiet_sendWork s e _ _

theorem planQuiet_redPlan : PlanQuiet redPlan := fun _ s => quiet_fst_ite (quiet_badPlan _ s) (.refl s)

theorem planQuiet_rtePlan : PlanQuiet rtePlan := fun _ s => .refl s

theorem quiet_productPlan (qs : List Quarter) (groups : State → RBox → Option (List Nat)) (e : Entry) (s : State) :
    Quiet s (productPlan qs groups e s).1 := by
  refine quiet_fst_ite (quiet_badPlan _ s) (quiet_fst_ite (quiet_badPlan _ s) ?_)
  split
  · exact quiet_badPlan _ s
  · exact quiet_unitPlan _ _ _ _ _ s

theorem planQuiet_mmPlan : PlanQuiet mmPlan := fun e s => quiet_productPlan _ _ e s

theorem planQuiet_mmqPlan : PlanQuiet mmqPlan := by
  intro e s
  unfold mmqPlan
  dsimp only
  split
  · exact quiet_unitPlan _ _ _ _ _ s
  · exact quiet_fst_ite (quiet_badPlan _ s) (quiet_productPlan _ _ e s)

theorem planQuiet_mmgPlan : PlanQuiet mmgPlan := fun e s => quiet_productPlan _ _ e s

theorem planQuiet_mzPlan : PlanQuiet mzPlan := fun _ s => quiet_fst_ite (quiet_badPlan _ s) (quiet_unitPlan _ _ _ _ _ s)

theorem quiet_selfTest (s : State) : Quiet s (selfTest s) := by
  unfold selfTest
  dsimp only
  split <;> exact .same rfl rfl

theorem planQuiet_mstPlan : PlanQuiet mstPlan := fun _ s => quiet_fst_ite (quiet_badPlan _ s) (quiet_selfTest s)

theorem planQuiet_xPlan (f : State → Entry → Dims → Dims) : PlanQuiet (xPlan f) :=
  fun _ s => quiet_fst_ite (quiet_badPlan _ s) (quiet_unitPlan _ _ _ _ _ s)

/-! ### Folds, reads and the acknowledgements of fabric records -/

theorem Quiet.next {s u : State} (h : Quiet s u) : OutSound s (.next u) := .next h.sound

theorem sound_fold (slot units : Nat) (s : State) : OutSound s (execFold slot units s) := by
  refine Quiet.next ?_
  split
  · exact .refl s
  · exact .ite (planQuiet_cpyPlan.runEntry _ _ s) (.refl s)

theorem quiet_settleRead (slot : Nat) (s : State) : Quiet s (settleRead slot s) := by
  unfold settleRead
  split
  · exact .refl s
  · exact .ite (quiet_doneEntry _ s) (.refl s)

theorem quiet_failRecord (e : Entry) (c : Cause) (s : State) : Quiet s (failRecord e c s) := quiet_failAt e c none s

theorem quiet_sendReads (units : Nat) (e : Entry) (s : State) : Quiet s (sendReads units e s) :=
  .ite (quiet_failRecord e _ s) (((quiet_putEntry _ s).trans (quiet_toNet _ _)).trans (quiet_settleRead _ _))

theorem sound_fRd (slot units : Nat) (s : State) : OutSound s (execFRd slot units s) := by
  refine Quiet.next ?_
  split
  · exact .refl s
  · next e _ =>
    refine .ite (.ite (quiet_sendReads _ _ s) (.ite ?_ (.refl s))) (.refl s)
    have started := quiet_startEntry e s
    dsimp only
    split
    · exact started.trans (quiet_sendReads _ _ _)
    · exact started

theorem sound_busyRetry (slot : Nat) (s : State) : OutSound s (execBusyRetry slot s) := by
  refine Quiet.next ?_
  split
  · exact .refl s
  · refine .ite ?_ (.refl s)
    split
    · exact .ite (quiet_failRecord _ _ s) (quiet_toNet _ s)
    · exact .refl s

theorem sound_landedAck (slot : Nat) (s : State) : OutSound s (execLandedAck slot s) := by
  refine Quiet.next ?_
  split
  · exact .refl s
  · next e _ =>
    refine .ite (Quiet.trans ?_ (quiet_retire _ _)) (.refl s)
    split
    · exact quiet_landPip _ s
    · exact .refl s

end Sys2Proof.Machine
end

section
/-! The page tasks are quiet: C.CPYPG with the end of its page, C.CKPT with its sweep. -/

namespace Sys2Proof.Machine

/-! ### C.CPYPG -/

theorem quiet_faqLines (kind : BitVec 3) (ls : List Nat) (s : State) : Quiet s (faqLines kind ls s) :=
  quiet_foldl (fun s _ => quiet_faqAppend _ _ _ _ s) ls s

theorem quiet_bplInsert (frame : Nat) (core : BitVec 9) (s : State) : Quiet s (bplInsert frame core s) := by
  have replaced (u : State) : Quiet u { u with pkg := { u.pkg with bpf := true, repl := true } } := .same rfl rfl
  have listed (l : List Nat) : Quiet s { s with mem := { s.mem with bpl := s.mem.bpl.set (bplShare frame) l } } := .same rfl rfl
  unfold bplInsert
  dsimp only
  have inserted : Quiet s (if 1024 ≤ s.mem.bpl[bplShare frame].length then
      faqAppend (homeDie s (frame * Config.pageBytes)) 5 core (frame * Config.pageBytes) s
    else { s with mem := { s.mem with bpl := s.mem.bpl.set (bplShare frame) (sinsert frame s.mem.bpl[bplShare frame]) } }) :=
    .ite (quiet_faqAppend _ _ _ _ s) (listed _)
  refine .ite (.refl s) (.ite ?_ ?_)
  · exact Quiet.trans (by simpa using inserted) (replaced _)
  · simpa using inserted

theorem quiet_setMig (on : Bool) (l : Leaf) (va : Nat) (s : State) : Quiet s (setMig on l va s) :=
  ((onlyMemory_setPte _ _ s).trans (onlyMemory_invalidate _ _)).quiet

theorem planQuiet_cpypgPlan : PlanQuiet cpypgPlan := by
  intro e s
  unfold cpypgPlan
  refine quiet_fst_ite (.refl s) ?_
  split
  · exact quiet_badPlan _ s
  · refine quiet_fst_ite (.refl s) (quiet_fst_ite (.refl s) (quiet_fst_ite (quiet_badPlan _ s) (quiet_fst_ite (quiet_badPlan _ s)
      (quiet_fst_ite (.refl s) ?_))))
    have asked (src : Nat) (copied : Bool) : Quiet s (copyRequests e src copied (pageRequestsAt (cpVa e.record) s)) :=
      ((pageRequestsAt_onlyAsked _ s).trans (copyRequests_onlyAsked _ _ _ _)).quiet
    exact .ite ((asked _ _).trans (quiet_setMig _ _ _ _)) (asked _ _)

theorem quiet_spoilFrame (frame : Nat) (s : State) : Quiet s (spoilFrame frame s) :=
  have counted : Quiet s { s with freeCount := s.freeCount + 1 } := .same rfl rfl
  .ite (.refl s) (counted.trans (onlyMemory_memWrite _ _).quiet)

theorem quiet_moveWaiting (src dst : Nat) (s : State) : Quiet s (moveWaiting src dst s) := .same rfl rfl

theorem quiet_endPage (e : Entry) (s : State) : Quiet s (endPage e s) := by
  have clear (l : Leaf) (u : State) : Quiet u (if cpRemap e.record then setMig false l (cpVa e.record) u else u) :=
    .ite (quiet_setMig _ _ _ u) (.refl u)
  unfold endPage
  dsimp only
  split
  · exact .refl s
  · refine .ite (.ite ?_ (.refl s)) (.ite ?_ ?_)
    · exact ((onlyMemory_setPte _ _ s).trans (onlyMemory_invalidate _ _)).quiet.trans (quiet_moveWaiting _ _ _)
    · exact (((quiet_spoilFrame _ s).trans (quiet_faqLines _ _ _)).trans (quiet_bplInsert _ _ _)).trans (clear _ _)
    · exact ((quiet_spoilFrame _ s).trans (quiet_faqAppend _ _ _ _ _)).trans (clear _ _)

theorem sound_cCpypg (slot units : Nat) (s : State) : OutSound s (execCCpypg slot units s) := by
  obtain ⟨u, ran, quiet⟩ : ∃ u, runTask .cpypg cpypgPlan slot (units + 1) s = .next u ∧ Quiet s u := by
    refine ⟨_, rfl, ?_⟩
    split
    · exact .refl s
    · exact .ite (planQuiet_cpypgPlan.runEntry _ _ s) (.refl s)
  unfold execCCpypg
  rw [ran]
  dsimp only
  split
  · split
    · exact (quiet.trans (quiet_endPage _ u)).next
    · exact quiet.next
  · exact quiet.next

/-! ### C.CKPT -/

theorem quiet_poisonLine (key : Nat) (s : State) : Quiet s (poisonLine key s) := .same rfl rfl

theorem quiet_markSweep (ps : List SweepPage) (s : State) : Quiet s (markSweep ps s) :=
  ((onlyMemory_foldl (f := fun s a => setPte a (fun v => setBit 59 true (setBit 58 false v)) s) (fun s a => onlyMemory_setPte a _ s)
    ((ps.map SweepPage.leaf).dedup) s).trans (onlyMemory_invalidate _ _)).quiet

theorem quiet_dropSweep (seq : Nat) (s : State) : Quiet s (dropSweep seq s) := .same rfl rfl

theorem quiet_putSweep (w : Sweep) (s : State) : Quiet s (putSweep w s) := .same rfl rfl

theorem quiet_endSweep (w : Sweep) (e : Entry) (s : State) : Quiet s (endSweep w e s) := (quiet_dropSweep _ s).trans (quiet_doneEntry _ _)

theorem quiet_beginSweep (e : Entry) (s : State) : Quiet s (beginSweep e s) := by
  unfold beginSweep
  split
  · exact quiet_engineCause e _ s
  · have marked : Quiet s (markSweep (takenPages e s) (requestsAt (sweepReads s e.record) s)) :=
      (requestsAt_onlyAsked _ s).quiet.trans (quiet_markSweep _ _)
    exact .ite (marked.trans (quiet_endSweep _ e _)) (marked.trans (quiet_putSweep _ _))

theorem quiet_sweepTurn (e : Entry) (s : State) : Quiet s (sweepTurn e s) := by
  unfold sweepTurn
  split
  · exact .ite (quiet_endSweep _ e s) (.refl s)
  · exact .ite (.refl s) (quiet_beginSweep e s)

theorem sound_cCkpt (slot units : Nat) (s : State) : OutSound s (execCCkpt slot units s) := by
  refine Quiet.next ?_
  split
  · exact .refl s
  · next e _ =>
    refine .ite (.ite (quiet_sweepTurn _ s) (.ite ?_ (.refl s))) (.refl s)
    have started := quiet_startEntry e s
    dsimp only
    split
    · exact started.trans (quiet_sweepTurn _ _)
    · exact started

theorem onlyMemory_targetLines {va : Nat} {ks : List Nat} {s u : State} {ls : List (Nat × Nat × Option Nat)}
    (ok : targetLines va ks s = .ok (ls, u)) : OnlyMemory s u := by
  induction ks generalizing s ls with
  | nil =>
    cases ok
    exact .refl _
  | cons k t ih =>
    unfold targetLines at ok
    split at ok
    · cases ok
    · cases ok
    · next met =>
      split at ok
      · cases ok
      · next rest =>
        cases ok
        exact (onlyMemory_engXBy (fun _ s => .refl s) met).trans (ih rest)

theorem quiet_sweepLine (src : Nat) (s : State) (x : Nat × Nat × Option Nat) : Quiet s (sweepLine src s x) :=
  have written (to_ : Nat) (bs : List Byte) : Quiet s (memWrite (writesOf to_ bs) (markDirty x.2.2 s)) :=
    ((onlyMemory_markDirty _ s).trans (onlyMemory_memWrite _ _)).quiet
  .ite ((written _ _).trans (quiet_poisonLine _ _)) (written _ _)

theorem quiet_poisonAway (s : State) (tgt : SegEntry) (src va : Nat) : Quiet s (poisonAway s tgt src va) :=
  quiet_foldl (fun s _ => quiet_poisonLine _ s) _ s

theorem quiet_pageSwept (w : Sweep) (p : SweepPage) (src slot : Nat) (s : State) : Quiet s (pageSwept w p src slot s) := by
  have listed := quiet_faqLines 4 (poisonedLines s src 0) s
  have cleared : Quiet s (if (w.pages.filter (fun q => q.va != p.va)).any (fun q => q.leaf == p.leaf) then
      faqLines 4 (poisonedLines s src 0) s
      else setPte p.leaf (fun v => setBit 60 false (setBit 59 false v)) (faqLines 4 (poisonedLines s src 0) s)) :=
    .ite listed (listed.trans (onlyMemory_setPte _ _ _).quiet)
  unfold pageSwept
  dsimp only
  split
  · exact cleared
  · have put (w' : Sweep) (e : Entry) := cleared.trans ((quiet_putEntry e _).trans (quiet_putSweep w' _))
    exact .ite ((put _ _).trans (quiet_endSweep _ _ _)) (put _ _)

theorem quiet_pageRequests (w : Sweep) (p : SweepPage) (lines : List Nat) (s : State) : Quiet s (pageRequests w p lines s) :=
  (pageRequestsAt_onlyAsked _ s).quiet.trans (quiet_foldl (fun s l =>
    ((wakeAt_onlyAsked l s).trans (toController_onlyAsked _ l _)).quiet) lines _)

theorem quiet_sendPage (w : Sweep) (p : SweepPage) (e : Entry) (tgt : SegEntry) (src : Nat) (s : State) : Quiet s (sendPage w p e tgt src s) :=
  .ite (.ite ((quiet_poisonAway s _ _ _).trans (quiet_pageSwept _ _ _ _ _)) (.refl s)) (.ite (.refl s) (.ite (quiet_engineCause e _ s)
    (((quiet_pageRequests _ _ _ s).trans (quiet_sendAll _ _ _)).trans (quiet_putSweep _ _))))

theorem quiet_copyHere (w : Sweep) (p : SweepPage) (e : Entry) (src : Nat) (s : State) : Quiet s (copyHere w p e src s) := by
  unfold copyHere
  split
  · exact quiet_engineCause e _ s
  · exact quiet_raisePage _ s
  · next met =>
    exact ((onlyMemory_targetLines met).quiet.trans (quiet_pageRequests _ _ _ _)).trans
      ((quiet_foldl (quiet_sweepLine src) _ _).trans (quiet_pageSwept _ _ _ _ _))

theorem quiet_copyPage (w : Sweep) (p : SweepPage) (e : Entry) (s : State) : Quiet s (copyPage w p e s) := by
  refine .ite (.refl s) ?_
  split
  · exact quiet_engineCause e _ s
  · exact .ite (.refl s) (.ite (quiet_engineCause e _ s) (.ite (quiet_engineCause e _ s) (.ite (.refl s)
      (.ite (quiet_sendPage _ _ _ _ _ s) (quiet_copyHere _ _ _ _ s)))))

theorem sound_ckptPageCopied (slot : Nat) (s : State) : OutSound s (execCkptPageCopied slot s) := by
  refine Quiet.next ?_
  split
  · exact .refl s
  · refine .ite ?_ (.refl s)
    split
    · exact .refl s
    · split
      · exact quiet_copyPage _ _ _ s
      · exact .refl s

end Sys2Proof.Machine
end

section
/-! The system instructions and the events of the strand: what each keeps of the level and of the byte stores. -/

namespace Sys2Proof.Machine

/-! ### System registers -/

theorem sound_mfs (d : Reg) (r : BitVec 8) (s : State) : OutSound s (execMfs d r s) := by
  refine sound_issue ?_
  split
  · exact (calm_setG _ _ _).steady
  · trivial

theorem calm_writeRnpool (v : Word) (s : State) : Calm s (writeRnpool v s) := .ite (.refl s) (.of rfl rfl)

theorem calm_writeRasv (v : Word) (s : State) : Calm s (writeRasv v s) := .ite (calm_withStrand s _) (.refl s)

theorem canon_writeSys (n : Nat) (v : Word) {s : State} (wf : Canonical s) : Canonical (writeSys n v s) := by
  unfold writeSys
  dsimp only
  split
  case h_17 => exact (calm_writeRnpool v s).canon wf
  case h_25 => exact (calm_writeRasv v s).canon wf
  all_goals exact wf

/-- What MTS writes at the user level leaves the level and the trap registers. -/
theorem calm_writeSys_user {n : Nat} (user : sysUser n = true ∨ sysReadOnly n = true) (v : Word) (s : State) : Calm s (writeSys n v s) := by
  refine ⟨?_, canon_writeSys n v⟩
  simp only [sysUser, sysReadOnly, Bool.or_eq_true, beq_iff_eq] at user
  rcases user with (((rfl | rfl) | pool) | rfl) | (((((((rfl | rfl) | rfl) | rfl) | rfl) | rfl) | rfl) | rfl)
  case inl.inl.inr =>
    subst pool
    exact (calm_writeRnpool v s).same
  all_goals rfl

theorem sound_mts (n : Nat) (a : Reg) (s : State) : OutSound s (mts n a s) := by
  refine sound_issue (resSteady_ite (resSteady_trap s _) ?_)
  split
  · trivial
  · next allowed =>
    refine resSteady_ite (resSteady_stall s) ?_
    cases pl : s.sys.pl with
    | true => exact Steady.of_privileged pl (canon_writeSys n _)
    | false =>
      refine Calm.steady (calm_writeSys_user ?_ _ s)
      rw [pl] at allowed
      cases user : sysUser n with
      | true => exact .inl rfl
      | false =>
        rw [user] at allowed
        exact .inr (by simpa using allowed)

/-! ### Traps and ERET -/

theorem sound_trap (code : BitVec 8) (s : State) : OutSound s (execTrap code s) := sound_issue (resSteady_trap s _)

theorem sound_brk (tag : BitVec 8) (s : State) : OutSound s (execBrk tag s) := sound_issue (resSteady_trap s _)

theorem calm_setBounds (s : State) (l : LoopId) (b : Bounds) : Calm s (setBounds s l b) := .of rfl rfl

theorem calm_reloadBounds (x : Xstat) (s : State) : Calm s (reloadBounds x s) :=
  calm_foldl (f := fun s (l : LoopId) => setBounds s l s.sys.elb[l]) (fun s l => calm_setBounds s l _) _ s

theorem canonical_ite {c : Prop} [Decidable c] {t u : State} (h : Canonical t) (k : Canonical u) : Canonical (if c then t else u) := by
  split <;> assumption

theorem canon_eret {s : State} (wf : Canonical s) : Canonical (eret s) := by
  have reloaded (u : State) (x y : Xstat) (r : SysRegs) (wf : Canonical u) :
      Canonical (retryParked true (reloadBounds x (withXstat { u with sys := r } y))) :=
    (quiet_retryParked true _).canon ((calm_reloadBounds x _).canon wf)
  have restarted (u : State) (x y : Strand) (g : Group) (wf : Canonical u) :
      Canonical { restartQueues { u with strand := x, grp := g } with strand := y } := wf
  refine canonical_ite (canonical_ite ((calm_completeSlot _ _ _).canon ?_) ?_) ?_
  · exact restarted _ _ _ _ (reloaded _ _ _ _ wf)
  · exact restarted _ _ _ _ (reloaded _ _ _ _ wf)
  · exact restarted _ _ _ _ (reloaded _ _ _ _ wf)

theorem sound_eret (s : State) : OutSound s (execEret s) := sound_issue (resSteady_privileged fun pl => Steady.of_privileged pl canon_eret)

/-! ### Yield, halt and start time -/

theorem sound_yield (n : BitVec 8) (s : State) : OutSound s (execYield n s) := by
  refine sound_issue (resSteady_ite (resSteady_self s) (resSteady_ite (resSteady_trap s _) (resSteady_ite (resSteady_stall s) ?_)))
  generalize BitVec.ofNat 64 (readLe s.store.spad (bitsOf s.sys.ytab.toNat 0 23 + 8 * n.toNat) 8) = e
  exact Calm.steady (.of rfl rfl)

theorem calm_endHalt (s : State) : Calm s (endHalt s) := .of rfl rfl

theorem sound_halt (s : State) : OutSound s (execHalt s) :=
  sound_issue (resSteady_ite (resSteady_stall s) (steady_withWriteBack fun _ written => (written.calm.trans (calm_endHalt _)).steady))

theorem sound_tstart (a : Reg) (s : State) : OutSound s (execTstart a s) := sound_waits _ _ _ s

theorem sound_self (s : State) : OutSound s (.next s) := (Quiet.refl s).next

theorem sound_tstartTimeReached (s : State) : OutSound s (execTstartTimeReached s) := by
  unfold execTstartTimeReached
  refine .ite ?_ (sound_self s)
  split
  · exact .ite (sound_tstart _ s) (sound_self s)
  · exact sound_self s

/-! ### MAPINV, RIDGE, SNAP and SLEEP -/

theorem sound_mapinv (p : State → Option (Tlb → Bool)) (regs : List Reg) (a : State → Word) (s : State) : OutSound s (mapinv p regs a s) := by
  refine sound_issue (resSteady_privileged fun _ => ?_)
  split
  · trivial
  · have gone (f : Tlb → Bool) := (onlyMemory_invalidate f s).quiet.calm
    exact resSteady_ite (gone _).steady (gone _).steady

theorem calm_handOver (k : BitVec 3) (s : State) : Calm s (handOver k s) := .of rfl rfl

theorem calm_beginRidge (k : BitVec 3) (s : State) : Calm s (beginRidge k s) := .of rfl rfl

theorem steady_endRidge (d : Reg) (k : BitVec 3) {s u : State} (begun : Calm s u) : ResSteady s (endRidge d k u) :=
  resSteady_ite begun.steady ((begun.trans (calm_handOver k u)).trans (calm_setG _ _ _)).steady

theorem sound_ridge (d : Reg) (k : BitVec 3) (s : State) : OutSound s (execRidge d k s) :=
  sound_issue (resSteady_privileged fun _ => resSteady_ite (steady_endRidge d k (.refl s)) (resSteady_ite
    (steady_endRidge d k (calm_beginRidge k s)) (calm_setG _ _ _).steady))

theorem sound_snap (tag : BitVec 8) (s : State) : OutSound s (execSnap tag s) :=
  sound_issue (resSteady_ite (quiet_traceSnap _ _ _ _ s).done (resSteady_self s))

theorem sound_snapshotWritten (s : State) : OutSound s (execSnapshotWritten s) := by
  refine Quiet.next ?_
  split
  · exact quiet_withProf _ s
  · exact (quiet_withProf _ s).trans (quiet_writeSnap _ _)

theorem sound_sleep (s : State) : OutSound s (execSleep s) :=
  sound_issue (resSteady_privileged fun _ => resSteady_ite (resSteady_self s) (resSteady_ite (resSteady_stall s) (calm_withStrand s _).steady))

/-! ### Causes and requests from outside -/

theorem sound_takeCause (a : Async) (s : State) : Sound s (takeCause a s) := by
  have taken : Calm s (if a = debugCause then { s with pkg := { s.pkg with debugReq := false } }
      else { s with thatch := { s.thatch with async := s.thatch.async.erase a } }) := .ite (.of rfl rfl) (.of rfl rfl)
  exact taken.trans_sound (sound_trapEntry _ _ _ _)

theorem sound_asyncCauseTaken (s : State) : OutSound s (execAsyncCauseTaken s) := by
  refine .next ?_
  split
  · exact sound_takeCause _ s
  · exact (Quiet.refl s).sound

theorem sound_debugStopRequest (s : State) : OutSound s (execDebugStopRequest s) := .calm (.ite (.of rfl rfl) (.refl s))

theorem calm_wakeAll (s : State) : Calm s (wakeAll s) := .of rfl rfl

theorem sound_preemptRequest (s : State) : OutSound s (execPreemptRequest s) :=
  have asked (u : State) (t : Option Word) : Calm u { u with sys := { u.sys with pp := true }, pkg := { u.pkg with preemptBy := t } } := .of rfl rfl
  .calm (.ite ((calm_wakeAll s).trans (asked _ _)) (calm_wakeAll s))

theorem calm_stopRunning (s : State) : Calm s (stopRunning s) := .of rfl rfl

theorem sound_forcedStop (s : State) : OutSound s (execForcedStop s) :=
  .calm (.ite ((calm_stopRunning s).trans (.of rfl rfl)) (.refl s))

theorem sound_firmwareRestore (s : State) : OutSound s (execFirmwareRestore s) := by
  refine .calm (.ite ?_ (.refl s))
  dsimp only
  refine Calm.trans ?_ ((quiet_raiseAsync _ _).trans (quiet_releaseAll _)).calm
  exact .of rfl rfl

end Sys2Proof.Machine
end

section
/-! Packets at their destination are quiet: what is performed, held, refused, released or expires there changes no level and no trap
register, and keeps the byte stores in canonical form. -/

namespace Sys2Proof.Machine

/-! ### Answers -/

theorem quiet_withFab (s : State) (f : Fabric) (far : f.farSpad = s.fab.farSpad) : Quiet s { s with fab := f } :=
  .same rfl (by unfold byteStores; rw [far])

theorem quiet_erased (p : Packet) (s : State) : Quiet s { s with fab := { s.fab with net := s.fab.net.erase p } } := quiet_withFab s _ rfl

theorem quiet_ackPacket (p : Packet) (s : State) : Quiet s (ackPacket p s) := by
  refine .ite ?_ (.refl s)
  split
  · exact quiet_putEntry _ s
  · exact .refl s

theorem quiet_failUe (p : Packet) (b : Entry → RBox) (pa : Nat) (s : State) : Quiet s (failUe p b pa s) := by
  refine .ite ?_ (.refl s)
  split
  · exact quiet_failAt _ _ _ s
  · exact .refl s

theorem quiet_refuse (p : Packet) (s : State) : Quiet s (refuse p s) := .ite (quiet_toNet _ s) (.refl s)

theorem quiet_fabricConsumed (node pa : Nat) (s : State) : Quiet s (fabricConsumed node pa s) :=
  .ite (quiet_faqAppend _ _ _ _ s) (.refl s)

theorem quiet_wakePacket (p : Packet) (s : State) : Quiet s (wakePacket p s) := (wakePacket_onlyAsked p s).quiet

theorem quiet_leaveNet {p : Packet} {s u : State} (left : leaveNet p s = some u) : Quiet s u := by
  unfold leaveNet at left
  split at left
  · cases left
    exact quiet_withFab s _ rfl
  · cases left

theorem quiet_fromNet {p : Packet} {s u : State} (came : fromNet p s = some u) : Quiet s u := by
  obtain ⟨v, left, rfl⟩ := Option.map_eq_some_iff.mp came
  exact (quiet_leaveNet left).trans (quiet_wakePacket p v)

theorem quiet_raiseFor (core : Nat) (asid : BitVec 13) (va : Nat) (s : State) : Quiet s (raiseFor core asid va s) := .same rfl rfl

theorem quiet_waitHere (p : Packet) (s : State) : Quiet s (waitHere p s) := by
  have stands (u : State) : Quiet u { u with mem := { u.mem with homeHeld := u.mem.homeHeld ++ [.pkt p] } } := .same rfl rfl
  unfold waitHere
  dsimp only
  split
  · exact (quiet_raiseFor _ _ _ s).trans (stands _)
  · exact stands s

theorem sound_arrive {p : Packet} {f : State → State} {s : State} (performs : ∀ u, Quiet u (f u)) : OutSound s (arrive p f s) := by
  refine Quiet.next (.ite (.refl s) ?_)
  split
  · next left => exact (quiet_leaveNet left).trans (.ite (quiet_waitHere p _) ((quiet_wakePacket p _).trans (performs _)))
  · exact .refl s

/-! ### Memory -/

theorem quiet_performWrite (p : Packet) (ws : List ByteWrite) (s : State) : Quiet s (performWrite p ws s) :=
  .ite (quiet_refuse p s) ((onlyMemory_memWrite _ s).quiet.trans (quiet_ackPacket p _))

theorem quiet_readAnswer (p : Packet) (e : Entry) (s : State) : Quiet s (readAnswer p e s) :=
  ((quiet_putEntry _ s).trans (.ite (.refl _) (quiet_applyEffects _ _))).trans (quiet_settleRead _ _)

theorem quiet_performRead (p : Packet) (bytes : List Nat) (s : State) : Quiet s (performRead p bytes s) := by
  refine .ite (quiet_refuse p s) ?_
  split
  · exact (quiet_fabricConsumed _ _ s).trans (quiet_failUe _ _ _ _)
  · refine .ite ?_ (.refl s)
    split
    · exact quiet_readAnswer p _ s
    · exact .refl s

theorem quiet_amoAnswer (p : Packet) (old : Nat) (s : State) : Quiet s (amoAnswer p old s) := by
  refine .ite ?_ (.refl s)
  split
  · exact quiet_putEntry _ s
  · exact .refl s

theorem quiet_performAmo (p : Packet) (pa : Nat) (wide : Bool) (op : AtomOp) (b cmp : Word) (s : State) :
    Quiet s (performAmo p pa wide op b cmp s) := by
  refine .ite (quiet_refuse p s) ?_
  split
  · exact (quiet_fabricConsumed _ _ s).trans (quiet_failUe _ _ _ _)
  · exact Quiet.trans (.ite (onlyMemory_memWrite _ s).quiet (.refl s)) (quiet_amoAnswer p _ _)

/-! ### Cores -/

theorem quiet_addSemAt (node core n : Nat) (v : BitVec 32) (s : State) : Quiet s (addSemAt node core n v s) :=
  .ite ((quiet_addSem n v s).trans (quiet_releaseAll _)) (quiet_withFab s _ rfl)

theorem quiet_writeSpadAt (node core : Nat) (w : ByteWrite) (s : State) : Quiet s (writeSpadAt node core w s) := by
  have far (x : ByteWrite) : Quiet s { s with fab := { s.fab with farSpad := setMasked s.fab.farSpad x } } :=
    ⟨rfl, fun ⟨mem, spad, far⟩ => ⟨mem, spad, setMasked_wf _ far⟩⟩
  exact .ite (quiet_applyEffect s _) (.ite (far _) (.refl s))

theorem quiet_performSem (p : Packet) (n : Nat) (v : BitVec 32) (s : State) : Quiet s (performSem p n v s) :=
  .ite ((quiet_addSemAt _ _ _ _ s).trans (quiet_ackPacket p _)) (quiet_refuse p s)

theorem quiet_busyAnswer (p : Packet) (s : State) : Quiet s (busyAnswer p s) := by
  refine .ite ?_ (.refl s)
  split
  · exact .ite (quiet_failRecord _ _ s) (quiet_putEntry _ s)
  · exact .refl s

theorem quiet_enterRemote (p : Packet) (r : Rec) (b : Boxes) (s : State) : Quiet s (enterRemote p r b s) :=
  .ite ((quiet_enter _ _ s).trans (quiet_releaseAll _)) (quiet_withFab s _ rfl)

theorem quiet_performPost (p : Packet) (r : Rec) (b : Boxes) (s : State) : Quiet s (performPost p r b s) :=
  .ite (quiet_refuse p s) (.ite (quiet_busyAnswer p s) (.ite (quiet_refuse p s) ((quiet_enterRemote p r b s).trans (quiet_ackPacket p _))))

theorem quiet_performBox (p : Packet) (w : RBox) (bits first : Nat) (bs : List Byte) (last : Bool) (sem : Option Nat) (bad : Bool)
    (s : State) : Quiet s (performBox p w bits first bs last sem bad s) := by
  have written (ws : List ByteWrite) : Quiet s (ws.foldl (fun s x => writeSpadAt p.dstNode p.dstCore x s) s) :=
    quiet_foldl (fun s x => quiet_writeSpadAt _ _ x s) ws s
  refine .ite (quiet_refuse p s) (Quiet.trans ?_ (quiet_ackPacket p _))
  split
  · exact .ite ((written _).trans (quiet_addSemAt _ _ _ _ _)) (written _)
  · exact written _

theorem quiet_performBody (p : Packet) (s : State) : Quiet s (performBody p s) := by
  unfold performBody
  split
  case h_1 => exact quiet_performWrite p _ s
  case h_2 => exact quiet_performRead p _ s
  case h_3 => exact quiet_performAmo p _ _ _ _ _ s
  case h_4 => exact quiet_performSem p _ _ s
  case h_5 => exact quiet_performPost p _ _ s
  case h_6 => exact quiet_performBox p _ _ _ _ _ _ _ s
  case h_7 => exact quiet_performBox p _ _ _ _ _ _ _ s
  all_goals exact .refl s

/-! ### The arrivals of plain packets -/

theorem sound_remoteWriteArrival (p : Packet) (s : State) : OutSound s (execRemoteWriteArrival p s) := by
  unfold execRemoteWriteArrival
  split
  · exact sound_arrive (quiet_performWrite p _)
  · exact sound_self s

theorem sound_remoteReadArrival (p : Packet) (s : State) : OutSound s (execRemoteReadArrival p s) := by
  unfold execRemoteReadArrival
  split
  · exact sound_arrive (quiet_performRead p _)
  · exact sound_self s

theorem sound_remoteAmoArrival (p : Packet) (s : State) : OutSound s (execRemoteAmoArrival p s) := by
  unfold execRemoteAmoArrival
  split
  · exact sound_arrive (quiet_performAmo p _ _ _ _ _)
  · exact sound_self s

theorem sound_remoteSemArrival (p : Packet) (s : State) : OutSound s (execRemoteSemArrival p s) := by
  unfold execRemoteSemArrival
  split
  · exact sound_arrive (quiet_performSem p _ _)
  · exact sound_self s

theorem sound_remotePostArrival (p : Packet) (s : State) : OutSound s (execRemotePostArrival p s) := by
  unfold execRemotePostArrival
  split
  · exact sound_arrive (quiet_performPost p _ _)
  · exact sound_self s

theorem sound_haloWriteArrival (p : Packet) (s : State) : OutSound s (execHaloWriteArrival p s) := by
  unfold execHaloWriteArrival
  split
  · exact sound_arrive (quiet_performBox p _ _ _ _ _ _ _)
  · exact sound_self s

theorem sound_redWriteArrival (p : Packet) (s : State) : OutSound s (execRedWriteArrival p s) := by
  unfold execRedWriteArrival
  split
  · exact sound_arrive (fun u => quiet_performBox p _ _ _ _ _ _ _ u)
  · exact sound_self s

/-! ### The hold queue -/

theorem quiet_bounce (p : Packet) (s : State) : Quiet s (bounce p s) := by
  refine .ite ?_ (.refl s)
  split
  · exact (quiet_putEntry _ s).trans (quiet_toNet _ _)
  · exact .refl s

theorem sound_markedPacketArrival (p : Packet) (s : State) : OutSound s (execMarkedPacketArrival p s) := by
  refine Quiet.next ?_
  split
  · exact .refl s
  · exact .refl s
  · split
    · exact .refl s
    · next came =>
      exact (quiet_fromNet came).trans (.ite (quiet_toNet _ _) (.ite (quiet_refuse p _) (.ite (quiet_bounce p _) (quiet_withFab _ _ rfl))))

theorem quiet_dropTriple (node core srcNode srcCore pip : Nat) (s : State) : Quiet s (dropTriple node core srcNode srcCore pip s) :=
  quiet_withFab s _ rfl

theorem quiet_releaseOne (s : State) (p : Packet) : Quiet s (releaseOne s p) :=
  .ite (quiet_waitHere _ s) ((quiet_wakePacket _ s).trans (quiet_performBody p _))

theorem sound_releaseArrival (p : Packet) (s : State) : OutSound s (execReleaseArrival p s) := by
  refine Quiet.next ?_
  split
  · split
    · exact .refl s
    · next came => exact (quiet_fromNet came).trans ((quiet_dropTriple _ _ _ _ _ _).trans (quiet_foldl quiet_releaseOne _ _))
  · exact .refl s

theorem quiet_failMarked (dst : Nat × Nat) (pip : Nat) (s : State) : Quiet s (failMarked dst pip s) :=
  quiet_foldl (fun s e => by
    split
    · exact quiet_failRecord _ _ s
    · exact .refl s) _ s

theorem sound_cancelArrival (p : Packet) (s : State) : OutSound s (execCancelArrival p s) := by
  refine Quiet.next ?_
  split
  · split
    · exact .refl s
    · next came =>
      have dropped (pip : Nat) := (quiet_fromNet came).trans (quiet_dropTriple p.dstNode p.dstCore p.srcNode p.srcCore pip _)
      exact .ite ((dropped _).trans (quiet_failMarked _ _ _)) (dropped _)
  · exact .refl s

theorem quiet_enterExpired (x : Expired) (s : State) : Quiet s (enterExpired x s) := quiet_withFab s _ rfl

theorem quiet_expire (h : Held) (pip : Nat) (s : State) : Quiet s (expire h pip s) :=
  have told := (quiet_dropTriple h.node h.core h.p.srcNode h.p.srcCore pip s).trans ((quiet_enterExpired
    { node := h.node, core := h.core, srcNode := h.p.srcNode, srcCore := h.p.srcCore, pip := pip } _).trans
    (quiet_toNet [expiredNotice h.node h.core h.p.srcNode h.p.srcCore pip] _))
  .ite (told.trans (quiet_raiseAsync _ _)) told

theorem sound_holdExpiry (i : Nat) (s : State) : OutSound s (execHoldExpiry i s) := by
  refine Quiet.next ?_
  split
  · exact .refl s
  · exact .ite (quiet_expire _ _ s) (.refl s)

theorem sound_expiredArrival (p : Packet) (s : State) : OutSound s (execExpiredArrival p s) := by
  refine Quiet.next ?_
  split
  · exact .ite ((quiet_erased p s).trans (quiet_failMarked _ _ _)) (.refl s)
  · exact .refl s

/-! ### Refusals at the issuer -/

theorem quiet_unsend (seq : Nat) (s : State) : Quiet s (unsend seq s) := .same rfl rfl

theorem quiet_packetFails (e : Entry) (s : State) : Quiet s (packetFails e s) :=
  .ite (.ite ((quiet_unsend _ s).trans (quiet_engineCause _ _ _)) ((quiet_unsend _ s).trans (quiet_putEntry _ _))) (quiet_engineCause _ _ s)

theorem quiet_refused (p q : Packet) (full : Bool) (s : State) : Quiet s (refused p q full s) := by
  unfold refused
  split
  · exact .refl s
  · exact .ite (quiet_putEntry _ s) (quiet_packetFails _ s)

theorem sound_remoteRefusalArrival (p : Packet) (s : State) : OutSound s (execRemoteRefusalArrival p s) := by
  refine Quiet.next ?_
  split
  · refine .ite (.refl s) (.ite ((quiet_erased p s).trans (quiet_refused _ _ _ _)) ?_)
    split
    · exact (quiet_erased _ s).trans (quiet_refused _ _ _ _)
    · exact .refl s
  · exact .refl s

/-- The arrival of a packet, as the part takes it. -/
theorem sound_arrivalOf (p : Packet) (s : State) : OutSound s (arrivalOf p s) := by
  have either {f g : State → Out} (marked : OutSound s (f s)) (plain : OutSound s (g s)) :
      OutSound s ((if p.mark.isSome then f else g) s) := by
    split <;> assumption
  unfold arrivalOf
  cases p.body with
  | release _ => exact sound_releaseArrival p s
  | cancel _ => exact sound_cancelArrival p s
  | expired _ => exact sound_expiredArrival p s
  | refused _ => exact sound_remoteRefusalArrival p s
  | write _ => exact either (sound_markedPacketArrival p s) (sound_remoteWriteArrival p s)
  | read _ => exact sound_remoteReadArrival p s
  | amo => exact sound_remoteAmoArrival p s
  | sem => exact either (sound_markedPacketArrival p s) (sound_remoteSemArrival p s)
  | post => exact sound_remotePostArrival p s
  | halo => exact either (sound_markedPacketArrival p s) (sound_haloWriteArrival p s)
  | red => exact sound_redWriteArrival p s

end Sys2Proof.Machine
end

section
/-! Entry consistency and the collective groups: what their instructions and events keep of the level and of the byte stores. -/

namespace Sys2Proof.Machine

/-! ### Entry consistency -/

theorem steady_withObject {reads : Bool} {a : Reg} {s : State} {f : Nat → Option Nat → State → Res}
    (then_ : ∀ pa leaf u, Quiet s u → ResSteady s (f pa leaf u)) : ResSteady s (withObject reads a s f) := by
  refine resSteady_ite (resSteady_trap s _) ?_
  split
  · trivial
  · trivial
  · exact resSteady_stall s
  · next translated =>
    have walked := (onlyMemory_check translated).quiet
    exact resSteady_ite (walked.trans (quiet_raisePage _ _)).calm.steady (resSteady_ite walked.calm.steady
      (resSteady_ite (resSteady_trap s _) (then_ _ _ _ walked)))

theorem steady_withWriteBack_from {ns : List Nat} {s u : State} {f : State → Res} (before : Quiet s u)
    (then_ : ∀ v, Quiet s v → ResSteady s (f v)) : ResSteady s (withWriteBack ns u f) := by
  have written := before.trans (quiet_writeBackAll (dirtyHusks u ns) u)
  unfold withWriteBack
  split
  · next all => exact then_ _ (by rwa [all] at written)
  · trivial
  · next stops => exact ((by rwa [stops] at written : Quiet s _).trans (quiet_raiseFail _ _)).calm.steady

theorem steady_acqHusks (a : Reg) {s u : State} (before : Quiet s u) : ResSteady s (acqHusks a u) := by
  refine resSteady_ite before.calm.steady (steady_withWriteBack_from before fun v written => ?_)
  have settled := written.trans (quiet_foldl (fun s n => quiet_settleBlocks n true s) (boundTo u (getG u a)) v)
  exact resSteady_ite settled.calm.steady settled.calm.steady

theorem steady_heldStall {s u : State} {r : Res} (before : Quiet s u) (steady : ResSteady s r) : ResSteady s (heldStall u r) := by
  cases r with
  | done v => exact steady
  | jump v => exact steady
  | stall v => exact steady
  | trap t => exact before.calm.steady
  | trapIn t v => exact before.calm.steady

theorem quiet_setObject (pa : Nat) (leaf : Option Nat) (v : Word) (s : State) : Quiet s (setObject pa leaf v s) :=
  (onlyMemory_storeMem pa 8 v leaf s).quiet

theorem sound_acq (sc : Scope) (a : Reg) (s : State) : OutSound s (execAcq sc a s) := by
  refine sound_issue (steady_withObject fun pa leaf u walked => ?_)
  have asked := walked.trans (onlyMemory_requestAt pa u).quiet
  have taken := asked.trans (quiet_setObject pa leaf (ownerWord (requestAt pa u)) (requestAt pa u))
  dsimp only
  generalize objectWord u pa = old
  refine resSteady_ite ?_ (resSteady_ite ?_ ?_)
  · exact steady_acqHusks a asked
  · exact steady_heldStall taken (steady_acqHusks a taken)
  · exact asked.calm.steady

theorem sound_acqRetryTimeout (s : State) : OutSound s (execAcqRetryTimeout s) := by
  unfold execAcqRetryTimeout
  refine .ite ?_ (sound_self s)
  split
  · exact sound_acq _ _ s
  · exact sound_self s

theorem sound_rel (sc : Scope) (a : Reg) (s : State) : OutSound s (execRel sc a s) := by
  refine sound_issue (steady_withObject fun pa leaf u walked => resSteady_ite walked.calm.steady
    (steady_withWriteBack_from walked fun v written => ?_))
  have asked := written.trans (onlyMemory_requestAt pa v).quiet
  refine resSteady_ite ?_ (resSteady_ite ?_ ?_)
  · exact written.calm.steady
  · exact (asked.trans (quiet_setObject pa leaf 0 (requestAt pa v))).calm.steady
  · exact asked.calm.steady

theorem steady_withBinding {a b : Reg} {s : State} {f : Nat → State → Res} (then_ : ∀ n u, Quiet s u → ResSteady s (f n u)) :
    ResSteady s (withBinding a b s f) :=
  steady_withObject fun _ _ _ walked => resSteady_ite (resSteady_huskbad s) (resSteady_ite walked.calm.steady (then_ _ _ walked))

theorem quiet_markBound (n obj : Nat) (on : Bool) (s : State) : Quiet s (markBound n obj on s) := quiet_setHusk n _ s

theorem quiet_withBindings (l : List (Nat × Nat)) (s : State) : Quiet s { s with store := { s.store with bindings := l } } := .same rfl rfl

theorem sound_bind (a b : Reg) (s : State) : OutSound s (execBind a b s) :=
  sound_issue (steady_withBinding fun n _ walked => resSteady_ite walked.calm.steady (resSteady_ite (resSteady_huskbad s)
    (steady_withWriteBack_from walked fun v written => (written.trans ((quiet_settleBlocks n true v).trans
      ((quiet_markBound n _ true _).trans (quiet_withBindings _ _)))).calm.steady)))

theorem sound_unbind (a b : Reg) (s : State) : OutSound s (execUnbind a b s) :=
  sound_issue (steady_withBinding fun n _ walked => resSteady_ite (resSteady_huskbad s)
    (steady_withWriteBack_from walked fun v written => (written.trans
      ((quiet_markBound n 0 false v).trans (quiet_withBindings _ _))).calm.steady))

/-! ### Messages and branches of a group -/

theorem calm_sendMsg (m : GroupMsg) (s : State) : Calm s (sendMsg m s) := .of rfl rfl
theorem calm_dropMsg (m : GroupMsg) (s : State) : Calm s (dropMsg m s) := .of rfl rfl
theorem calm_waitInFlight (m : GroupMsg) (s : State) : Calm s (waitInFlight m s) := .ite (.refl s) (calm_sendMsg m s)
theorem calm_contribute (red : Red) (b : Bool) (s : State) : Calm s (contribute red b s) := .of rfl rfl
theorem calm_withRoot (r : Root) (s : State) : Calm s (withRoot r s) := .of rfl rfl

theorem sound_cbr (t : Tb) (c : Cond) (neg : Bool) (red : Red) (hint : Bool) (s : State) : OutSound s (execCbr t c neg red hint s) :=
  have known : Calm s { s with sys := { s.sys with grpXc := false } } := .of rfl rfl
  sound_issue (resSteady_transferPlace (resSteady_ite (calm_pendTransfer _ s).steady (resSteady_ite
    (known.trans (calm_pendTransfer _ _)).steady ((calm_contribute _ _ s).trans (calm_pendTransfer _ _)).steady)))

theorem sound_cbrx (t : Tb) (c : Cond) (neg : Bool) (red : Red) (s : State) : OutSound s (execCbrx t c neg red s) :=
  sound_issue (resSteady_transferPlace (resSteady_ite (calm_pendTransfer _ s).steady (resSteady_ite (calm_pendTransfer _ s).steady
    (resSteady_ite (resSteady_stall s) ((calm_contribute _ _ s).trans (calm_withGrp _ _)).steady))))

theorem sound_cstep (s : State) : OutSound s (execCstep s) := by
  have counted (l : BitVec 32) (u : State) : Calm u { u with sys := { u.sys with gstepLocal := l } } := .of rfl rfl
  have committed (l : BitVec 32) (u : State) : Calm u { u with sys := { u.sys with gstepStep := l } } := .of rfl rfl
  exact sound_issue (resSteady_ite (resSteady_stall s) (resSteady_ite (resSteady_stall s) (resSteady_ite
    ((counted _ s).trans (committed _ _)).steady ((counted _ s).trans (calm_sendMsg _ _)).steady)))

theorem sound_gabort (s : State) : OutSound s (execGabort s) := sound_issue (calm_abortGroup _ s).steady

/-! ### Commit, squash and results -/

theorem calm_commit (s : State) : Calm s (commit s) :=
  Calm.trans (.of rfl rfl : Calm s (committing s)) (quiet_committing s).calm

theorem calm_freeAhead (s : State) : Calm s (freeAhead s) := by
  have failed (l : List Entry) : Calm s (l.foldl (fun s e => match e.pip with | some n => failPip n (pipRetired e s) | none => s) s) :=
    calm_foldl (fun s e => by
      split
      · exact ((quiet_pipRetired e s).trans (quiet_failPip _ _)).calm
      · exact .refl s) l s
  have kept (u : State) (es : List Entry) (d : List DirEntry) : Calm u { u with thatch := { u.thatch with entries := es, dir := d } } :=
    .of rfl rfl
  exact (failed _).trans (kept _ _ _)

theorem calm_restoreCheckpoint (cp : Checkpoint) (s : State) : Calm s (restoreCheckpoint cp s) := .of rfl rfl

theorem calm_squash (cp : Checkpoint) (r : Bool) (s : State) : Calm s (squash cp r s) :=
  ((calm_freeAhead s).trans (calm_restoreCheckpoint cp _)).trans
    (Calm.trans (.ite (calm_transferTo _ _ _ _) (calm_afterWord _ _ _)) (quiet_releaseAll _).calm)

theorem calm_resolveInstance (i : BitVec 32) (r timeout : Bool) (s : State) : Calm s (resolveInstance i r timeout s) := by
  have closed : Calm s (instanceOver i r s) := by
    have told (u : State) (x : Strand) (g : Group) : Calm u { u with strand := x, grp := g } := .of rfl rfl
    have found (u : State) (g : Group) : Calm u { u with grp := g, sys := { u.sys with grpXc := true, grpXr := r } } := .of rfl rfl
    exact .ite ((told s _ _).trans (found _ _)) (told s _ _)
  have resolved : resolveInstance i r timeout s = match (instanceOver i r s).grp.spec with
      | some cp => if cp.inst = i then (if r = cp.hint ∧ timeout = false then commit (instanceOver i r s) else squash cp r (instanceOver i r s))
        else instanceOver i r s
      | none => instanceOver i r s := rfl
  rw [resolved]
  split
  · exact closed.trans (.ite (.ite (calm_commit _) (calm_squash _ _ _)) (.refl _))
  · exact closed

theorem sound_branchResultArrival (n : GroupNo) (gen : Nat) (r : Bool) (s : State) : OutSound s (execBranchResultArrival n gen r s) :=
  .calm (.ite (.refl s) (.ite (.ite (calm_waitInFlight _ s) ((calm_dropMsg _ s).trans (calm_resolveInstance _ _ _ _))) (calm_dropMsg _ s)))

theorem calm_memberTimeout (i : BitVec 32) (mismatch : Bool) (s : State) : Calm s (memberTimeout i mismatch s) := by
  have skipped : Calm s { s with sys := { s.sys with grpCi := i + 1, grpXc := true, grpXr := false } } := .of rfl rfl
  exact Calm.trans (.ite skipped (calm_resolveInstance _ _ _ s)) (quiet_raiseAsync _ _).calm

/-! ### The root -/

theorem calm_endInstance (r : Root) (i : BitVec 32) (m : GroupMsg) (s : State) : Calm s (endInstance r i m s) :=
  (calm_withRoot _ s).trans (calm_sendMsg m _)

theorem calm_rootTakes (r : Root) (c : Contrib) (s : State) : Calm s (rootTakes r c s) :=
  .ite (.refl s) (.ite (calm_endInstance _ _ _ s) (.ite (calm_endInstance _ _ _ s) (calm_withRoot _ s)))

theorem sound_contributionArrival (c : Contrib) (s : State) : OutSound s (execContributionArrival c s) := by
  have dropped := calm_dropMsg (.contrib c) s
  refine .calm (.ite (calm_waitInFlight _ s) (.ite ?_ (.refl s)))
  dsimp only
  split
  · exact dropped.trans (calm_rootTakes _ c _)
  · exact dropped

theorem calm_rootExpires (r : Root) (i : BitVec 32) (s : State) : Calm s (rootExpires r i s) := .ite (.refl s) (calm_endInstance _ _ _ s)

theorem sound_cbrtoExpiry (s : State) : OutSound s (execCbrtoExpiry s) := by
  refine .calm ?_
  split
  · split
    · exact calm_rootExpires _ _ s
    · exact (calm_withGrp s _).trans (calm_sendMsg _ _)
  · exact .refl s

theorem sound_instanceTimeoutArrival (n : GroupNo) (gen : Nat) (mismatch : Bool) (s : State) :
    OutSound s (execInstanceTimeoutArrival n gen mismatch s) := by
  refine .calm (.ite (calm_dropMsg _ s) ?_)
  generalize (if s.grp.msgs.contains (GroupMsg.timeout n.gid n.no gen mismatch) then none else rootOf s n.gid) = root
  cases root with
  | some r => exact .ite (calm_rootExpires r _ s) (.refl s)
  | none => exact .ite ((calm_dropMsg _ s).trans (calm_memberTimeout _ _ _)) (calm_dropMsg _ s)

theorem calm_commitSteps (n : Nat) (r : Root) (s : State) : Calm s (commitSteps n r s) := by
  induction n generalizing r s with
  | zero => exact calm_withRoot r s
  | succ n ih => exact .ite ((calm_sendMsg _ s).trans (ih _ _)) (calm_withRoot r s)

theorem sound_stepMarkArrival (m : StepMark) (s : State) : OutSound s (execStepMarkArrival m s) := by
  have dropped := calm_dropMsg (.mark m) s
  refine .calm (.ite (calm_waitInFlight _ s) (.ite ?_ (.refl s)))
  dsimp only
  split
  · exact .ite (dropped.trans (calm_commitSteps _ _ _)) dropped
  · exact dropped

theorem sound_stepCommitArrival (n : GroupNo) (gen : Nat) (s : State) : OutSound s (execStepCommitArrival n gen s) := by
  have committed (u : State) : Calm u { u with sys := { u.sys with gstepStep := n.no } } := .of rfl rfl
  exact .calm (.ite (.refl s) (.ite ((calm_dropMsg _ s).trans (committed _)) (calm_dropMsg _ s)))

/-! ### Aborts and the phase fence -/

theorem sound_abortTokenAtRoot (t : AbortToken) (s : State) : OutSound s (execAbortTokenAtRoot t s) := by
  have dropped := calm_dropMsg (.abortUp t) s
  refine .calm (.ite (calm_waitInFlight _ s) ?_)
  dsimp only
  split
  · exact .ite (dropped.trans ((calm_withRoot _ _).trans (calm_sendMsg _ _))) dropped
  · exact dropped

theorem calm_squashForAbort (s : State) : Calm s (squashForAbort s) := by
  unfold squashForAbort
  refine Calm.trans ?_ (calm_withStrand _ _)
  split
  · exact calm_squash _ _ s
  · exact .refl s

theorem calm_freeWindow (s : State) : Calm s (freeWindow s) := by
  have retired (l : List Entry) : Calm s (l.foldl (fun s e => pipRetired e s) s) := calm_foldl (fun s e => (quiet_pipRetired e s).calm) l s
  have freed (u : State) (a : List Async) : Calm u { u with thatch := { u.thatch with
      entries := [], dir := [], stopped := true, async := a } } := .of rfl rfl
  exact (retired _).trans (freed _ _)

theorem calm_failPips (s : State) : Calm s (failPips s) := by
  have failed (l : List Nat) : Quiet s (l.foldl (fun s n => failPip n s) s) := quiet_foldl (fun s n => quiet_failPip n s) l s
  have kept (u : State) (l : List Held) : Calm u { u with fab := { u.fab with held := l } } := .of rfl rfl
  exact (failed _).calm.trans (kept _ _)

theorem sound_abortTokenArrival (t : AbortToken) (s : State) : OutSound s (execAbortTokenArrival t s) := by
  have begun (u : State) (g : Group) : Calm u { u with grp := g, sys := { u.sys with
      grpCi := 0, grpXc := false, gstepStep := t.step, gstepLocal := t.step } } := .of rfl rfl
  have freed := (calm_dropMsg (.abortDown t) s).trans ((calm_squashForAbort _).trans ((calm_freeWindow _).trans (calm_failPips _)))
  exact .calm (.ite (calm_waitInFlight _ s) (.ite (freed.trans ((begun _ _).trans (quiet_raiseAsync _ _).calm)) (calm_dropMsg _ s)))

theorem sound_phase (epoch : BitVec 16) (s : State) : OutSound s (execPhase epoch s) := by
  have fenced (u : State) (f : Phase) : Calm u { u with fab := { u.fab with phase := some f }, sys := { u.sys with gepochPf := true } } :=
    .of rfl rfl
  exact .calm (.ite (calm_wakeAll s) ((calm_wakeAll s).trans (fenced _ _)))

theorem sound_drainedAnswer (s : State) : OutSound s (execDrainedAnswer s) := by
  refine .calm ?_
  split
  · exact .ite (.refl s) (.of rfl rfl)
  · exact .refl s

theorem sound_phaseDone (s : State) : OutSound s (execPhaseDone s) := by
  refine .calm ?_
  split
  · refine .ite ((calm_wakeAll s).trans ?_) (calm_wakeAll s)
    dsimp only
    refine Calm.trans ?_ (quiet_releaseAll _).calm
    exact .of rfl rfl
  · exact calm_wakeAll s

/-- The arrival of a message of a group, as the part takes it. -/
theorem sound_messageOf (m : GroupMsg) (s : State) : OutSound s (messageOf m s) := by
  cases m with
  | contrib c => exact sound_contributionArrival c s
  | result gid i g r => exact sound_branchResultArrival _ g r s
  | timeout gid i g b => exact sound_instanceTimeoutArrival _ g b s
  | expiry gid i g => exact sound_instanceTimeoutArrival _ g false s
  | mark m => exact sound_stepMarkArrival m s
  | commit gid st g => exact sound_stepCommitArrival _ g s
  | abortUp t => exact sound_abortTokenAtRoot t s
  | abortDown t => exact sound_abortTokenArrival t s

end Sys2Proof.Machine
end

section
/-! Launches, the package and its management interface, and the links: what their events keep of the level and of the byte stores. -/

namespace Sys2Proof.Machine

/-! ### Launches -/

theorem canon_loadCore (p : CoreItems) (args : List Word) (pc : BitVec 32) {s : State} (wf : Canonical s) :
    Canonical (loadCore p args pc s) := by
  refine canonical_of_byteStores ?_ wf
  dsimp only [byteStores, loadCore, writeTraceb]

theorem canon_newRoot (g : GroupInit) {s : State} (wf : Canonical s) : Canonical (newRoot g s) := canonical_ite wf wf

theorem canon_placeRoot (p : CoreItems) {s : State} (wf : Canonical s) : Canonical (placeRoot p s) := by
  unfold placeRoot
  split
  · exact canon_newRoot _ wf
  · exact wf

theorem canon_placeRootFor (p : CoreItems) {s : State} (wf : Canonical s) : Canonical (placeRootFor p s) := by
  unfold placeRootFor
  split
  · exact canon_newRoot _ wf
  · exact wf

theorem calm_complete (c : Completion) (s : State) : Calm s (complete c s) := .of rfl rfl

/-- Bytes written one by one keep a store in canonical form. -/
theorem foldl_setByte_wf {α : Type} (at_ : α → Nat) (v : α → Byte) (l : List α) {m : List Host.Cell} (wf : memWf m) :
    memWf (l.foldl (fun m x => setByte m (at_ x) (v x)) m) := by
  induction l generalizing m with
  | nil => exact wf
  | cons x t ih => exact ih (setByte_wf _ _ wf)

theorem canon_acceptLaunch (p : CoreItems) {s : State} (wf : Canonical s) : Canonical (acceptLaunch p s).1 := by
  unfold acceptLaunch
  split
  · exact wf
  · obtain ⟨mem, spad, far⟩ := wf
    exact canon_placeRoot p ⟨mem, foldl_setByte_wf _ _ p.spad spad, far⟩

theorem canon_notePeer (p : CoreItems) (node : BitVec 12) (core : BitVec 9) {s : State} (wf : Canonical s) :
    Canonical (notePeer p node core s) := canonical_ite wf wf

theorem canon_fillPeer (p : CoreItems) (node : BitVec 12) (core : BitVec 9) {s : State} (wf : Canonical s) :
    Canonical (fillPeer p node core s) := by
  obtain ⟨mem, spad, far⟩ := wf
  exact ⟨mem, spad, foldl_setByte_wf _ _ p.spad far⟩

theorem canon_acceptElsewhere (resume : Bool) (p : CoreItems) (node : BitVec 12) (core : BitVec 9) {s : State} (wf : Canonical s) :
    Canonical (acceptElsewhere resume p node core s).1 := by
  unfold acceptElsewhere
  dsimp only
  split
  · exact wf
  · split
    · exact canonical_ite wf wf
    · have noted := canon_notePeer p node core wf
      exact canonical_ite noted (canon_fillPeer p node core (canonical_ite (canon_placeRootFor p noted) noted))

theorem calm_placeByte (node : BitVec 12) (l : List (Nat × SegEntry)) (s : State) (x : Nat × Nat × Byte) : Calm s (placeByte node l s x) := by
  have put (w : List ByteWrite) : Calm s (memWrite w s) := (onlyMemory_memWrite w s).quiet.calm
  unfold placeByte
  dsimp only
  split
  · exact .refl s
  · split
    · exact put _
    · split
      · split
        · exact put _
        · exact .refl s
      · exact put _

theorem calm_placeData (node : BitVec 12) (p : LaunchPkt) (l : List (Nat × SegEntry)) (s : State) : Calm s (placeData node p l s) :=
  (calm_foldl (fun s (x : Nat × Byte) => (onlyMemory_memWrite [{ addr := memKey node.toNat x.1, data := x.2 }] s).quiet.calm) p.pages s).trans
    (calm_foldl (calm_placeByte node l) p.data _)

theorem canon_launchCore (p : LaunchPkt) (acc : State × Bool) (c : CoreItems) (wf : Canonical acc.1) : Canonical (launchCore p acc c).1 := by
  have launched : Canonical (if coreOf c acc.1 = (acc.1.sys.nodeid, acc.1.sys.coreid) then
      (if canAccept acc.1 then acceptLaunch c acc.1 else (acc.1, false))
      else acceptElsewhere false c (coreOf c acc.1).1 (coreOf c acc.1).2 acc.1).1 := by
    split
    · split
      · exact canon_acceptLaunch c wf
      · exact wf
    · exact canon_acceptElsewhere false c _ _ wf
  exact canonical_ite ((calm_placeData _ p _ _).canon launched) launched

theorem canon_foldl {α β : Type} (st : β → State) {f : β → α → β} (each : ∀ b x, Canonical (st b) → Canonical (st (f b x))) (l : List α)
    {b : β} (wf : Canonical (st b)) : Canonical (st (l.foldl f b)) := by
  induction l generalizing b with
  | nil => exact wf
  | cons x t ih => exact ih (each b x wf)

theorem calm_nextLaunch (s : State) : Calm s (nextLaunch s) := .of rfl rfl

theorem canon_launchPacket (p : LaunchPkt) {s t : State} (wf : Canonical s) (ran : execLaunchPacket p s = .next t) : Canonical t := by
  cases ran
  exact canon_foldl Prod.fst (canon_launchCore p) _ ((calm_nextLaunch s).canon wf)

theorem canon_resumeHere (p : CoreItems) (restore : BitVec 32) {s : State} (wf : Canonical s) : Canonical (resumeHere p restore s) := by
  have member (u : State) (r : SysRegs) (wf : Canonical u) : Canonical { u with sys := r } := wf
  unfold resumeHere
  split
  · exact wf
  · exact member _ _ (canon_loadCore p [] restore wf)

theorem canon_resumeCore (restore : BitVec 32) (s : State) (c : CoreItems) (wf : Canonical s) : Canonical (resumeCore restore s c) :=
  canonical_ite (canonical_ite (canon_resumeHere c restore wf) wf) (canon_acceptElsewhere true c _ _ wf)

theorem canon_resumePacket (p : LaunchPkt) (restore : BitVec 32) {s t : State} (wf : Canonical s)
    (ran : execResumePacket p restore s = .next t) : Canonical t := by
  cases ran
  exact canon_foldl id (canon_resumeCore restore) _ ((calm_nextLaunch s).canon wf)

theorem calm_lateStart (l : Launch) (s : State) : Calm s (lateStart l s) :=
  .ite (.refl s) (.ite (quiet_raiseAsync _ s).calm (calm_abortGroup _ s))

theorem sound_launchStart (s : State) : OutSound s (execLaunchStart s) := by
  refine .calm ?_
  split
  · exact .ite ((calm_withStrand s _).trans (calm_lateStart _ _)) (.refl s)
  · exact .refl s

theorem sound_hostEndsLaunch (s : State) : OutSound s (execHostEndsLaunch s) :=
  .next (.ite (((calm_wakeAll s).steady.trans (steady_endLaunch _ _ _)).sound) (calm_wakeAll s).sound)

/-! ### Homes -/

theorem quiet_withPkg (p : Package) (s : State) : Quiet s (withPkg p s) := .same rfl rfl
theorem quiet_answer (a : Answer) (s : State) : Quiet s (answer a s) := .same rfl rfl
theorem quiet_wakeAll (s : State) : Quiet s (wakeAll s) := .same rfl rfl

theorem sound_translationFill (map : Bool) (va : Nat) (write : Bool) (s : State) : OutSound s (execTranslationFill map va write s) := by
  refine Quiet.next (.ite (.refl s) ?_)
  split
  · next translated => exact (onlyMemory_xlate translated).quiet
  · exact (missRequests_onlyAsked _ _ _ s).quiet

theorem quiet_eccFinds (die pa : Nat) (e : Ecc) (s : State) : Quiet s (eccFinds die pa e s) := by
  cases e with
  | clean => exact .refl s
  | corrected => exact .same rfl rfl
  | uncorrectable => exact quiet_poisonLine _ s

theorem quiet_homePoisoned (q : HomeReq) (s : State) : Quiet s (homePoisoned q s) := (quiet_faqAppend _ _ _ _ s).trans (quiet_answer _ _)

theorem quiet_homePerform (q : HomeReq) (s : State) : Quiet s (homePerform q s) := by
  have wrote (w : List ByteWrite) := (onlyMemory_memWrite w s).quiet
  unfold homePerform
  dsimp only
  split
  · exact wrote _
  · exact .ite (quiet_homePoisoned q s) (quiet_answer _ s)
  · exact .ite (quiet_homePoisoned q s) (Quiet.trans (.ite (wrote _) (.refl s)) (quiet_answer _ _))

theorem quiet_homeNow (q : HomeReq) (s : State) : Quiet s (homeNow q s) :=
  (quiet_eccFinds _ _ _ s).trans ((((wakeAt_onlyAsked q.pa _).trans (toController_onlyAsked q.src q.pa _)).quiet).trans (quiet_homePerform q _))

theorem quiet_homeHold (q : HomeReq) (s : State) : Quiet s (homeHold q s) := by
  have stands (u : State) : Quiet u { u with mem := { u.mem with homeHeld := u.mem.homeHeld ++ [.req q] } } := .same rfl rfl
  unfold homeHold
  dsimp only
  split
  · exact (quiet_raiseFor _ _ _ s).trans (stands _)
  · exact stands s

theorem sound_homeAccess (q : HomeReq) (s : State) : OutSound s (execHomeAccess q s) :=
  Quiet.next (.ite (.refl s) (.ite (quiet_answer _ s) (.ite (quiet_homeHold q s) (quiet_homeNow q s))))

theorem quiet_itemNow (x : HomeItem) (s : State) : Quiet s (itemNow x s) := by
  cases x with
  | req q => exact quiet_homeNow q s
  | pkt p => exact (quiet_wakePacket p s).trans (quiet_performBody p _)

theorem quiet_releaseHome (s : State) : Quiet s (releaseHome s) := by
  have leaves (u : State) (l : List HomeItem) : Quiet u { u with mem := { u.mem with homeHeld := l } } := .same rfl rfl
  exact quiet_foldl (fun s x => .ite (.refl s) ((leaves s _).trans (quiet_itemNow x _))) _ s

theorem sound_mcBatch (k : Fin 8) (served : Nat) (s : State) : OutSound s (execMcBatch k served s) := Quiet.next (.same rfl rfl)

/-! ### Throttles, trips and power -/

theorem quiet_throttleRecord (t : ThrottleRec) (s : State) : Quiet s (throttleRecord t s) :=
  .ite ((quiet_withPkg _ s).trans (quiet_traceRecord _ _ _ _ _ _ _ _ _)) (quiet_withPkg _ s)

theorem sound_throttle (t : ThrottleRec) (s : State) : OutSound s (execThrottle t s) :=
  Quiet.next (.ite ((quiet_throttleRecord t s).trans (quiet_withPkg _ _)) (.refl s))

theorem sound_throttleLift (t : ThrottleRec) (s : State) : OutSound s (execThrottleLift t s) :=
  Quiet.next (.ite ((quiet_throttleRecord t s).trans (quiet_withPkg _ _)) (.refl s))

theorem calm_tripped (s : State) : Calm s (tripped s) := .of rfl rfl

theorem sound_thermalTrip (deciC : Nat) (s : State) : OutSound s (execThermalTrip deciC s) := .calm (.ite (calm_tripped s) (.refl s))

theorem sound_powerStateEntry (p : PowerState) (s : State) : OutSound s (execPowerStateEntry p s) :=
  Quiet.next (.ite (quiet_withPkg _ s) (.refl s))

theorem sound_wakeEvent (p : PowerState) (s : State) : OutSound s (execWakeEvent p s) := (quiet_withPkg _ s).next

theorem sound_ptpMessage (offset : Int) (s : State) : OutSound s (execPtpMessage offset s) := (quiet_withPkg _ s).next

/-- The package reset leaves the byte stores, and the level is the user level. -/
theorem packageReset_spec (s : State) : ∃ t, execPackageReset s = .next t ∧ byteStores t = byteStores s ∧ t.sys.pl = false :=
  ⟨_, rfl, rfl, rfl⟩

/-! ### Bring-up and the management interface -/

theorem calm_poisonFrame (s : State) (frame : Nat) : Calm s (poisonFrame s frame) := by
  have cleared (q : Host.Cell → Bool) : Calm s { s with mem := { s.mem with mem := s.mem.mem.filter q } } :=
    ⟨rfl, fun ⟨mem, spad, far⟩ => ⟨filter_wf _ mem, spad, far⟩⟩
  exact (cleared _).trans (calm_foldl (fun s _ => (quiet_poisonLine _ s).calm) _ _)

theorem calm_renode (n : BitVec 12) (s : State) : Calm s (renode n s) := by
  unfold renode
  dsimp only
  split
  · exact .refl s
  · refine ⟨rfl, fun ⟨_, spad, _⟩ => ⟨?_, spad, ?_⟩⟩
    · exact foldl_setByte_wf _ _ s.mem.mem ⟨.nil, nofun⟩
    · exact foldl_setByte_wf _ _ s.fab.farSpad ⟨.nil, nofun⟩

theorem sound_powerOn (b : BringUp) (s : State) : OutSound s (execPowerOn b s) := by
  have shaped (u : State) (v : Word) : Calm u { u with fab := { u.fab with podcfg := v } } := .of rfl rfl
  have brought (u : State) (l : Vector Link 24) (q : BitVec 4) (r : Bool) (g : Package) : Calm u { u with
      links := l, store := { u.store with fenced := q }, thatch := { u.thatch with partnersReduced := r }, pkg := g } := .of rfl rfl
  refine .calm (.ite (.refl s) (Calm.trans ?_ (calm_foldl calm_poisonFrame _ _)))
  exact (calm_renode b.node s).trans ((shaped _ _).trans (brought _ _ _ _ _))

theorem sound_pwrbudWrite (w : Nat) (s : State) : OutSound s (execPwrbudWrite w s) :=
  Quiet.next (.ite ((quiet_wakeAll s).trans (quiet_withPkg _ _)) (quiet_wakeAll s))

theorem sound_cecntClear (die : Fin 4) (s : State) : OutSound s (execCecntClear die s) :=
  ((quiet_wakeAll s).trans ((quiet_withPkg _ _).trans (quiet_answer _ _))).next

theorem sound_faqPop (die : Fin 4) (s : State) : OutSound s (execFaqPop die s) := Quiet.next (.same rfl rfl)

theorem sound_bplAdd (frame : Nat) (s : State) : OutSound s (execBplAdd frame s) := ((quiet_wakeAll s).trans (quiet_bplInsert _ _ _)).next

theorem sound_bplRemove (frame : Nat) (s : State) : OutSound s (execBplRemove frame s) := Quiet.next (.same rfl rfl)

theorem sound_thlogRead (s : State) : OutSound s (execThlogRead s) := ((quiet_wakeAll s).trans (quiet_answer _ _)).next

theorem sound_fencemapRead (s : State) : OutSound s (execFencemapRead s) := ((quiet_wakeAll s).trans (quiet_answer _ _)).next

theorem sound_pkgstatClear (mask : Word) (s : State) : OutSound s (execPkgstatClear mask s) :=
  ((quiet_wakeAll s).trans ((quiet_withPkg _ _).trans (quiet_answer _ _))).next

/-! ### Links -/

theorem quiet_withLink (p : Fin 24) (l : Link) (s : State) : Quiet s (withLink p l s) := .same rfl rfl

theorem quiet_queueFlits (p : Fin 24) (fs : List FlitReq) (s : State) : Quiet s (queueFlits p fs s) := by
  unfold queueFlits
  dsimp only
  split <;> exact .same rfl rfl

theorem quiet_forward (port : Fin 24) (pkt : List FlitReq) (s : State) : Quiet s (forward port pkt s) := by
  unfold forward
  split
  · exact .refl s
  · split
    · exact .refl s
    · split
      · exact quiet_withLink _ _ s
      · exact quiet_queueFlits _ _ s

theorem sound_flitTransmit (pv : PortVc) (s : State) : OutSound s (execFlitTransmit pv s) :=
  Quiet.next (.ite (quiet_withLink _ _ s) (.refl s))

theorem quiet_retireLink (port : Fin 24) (s : State) : Quiet s (retireLink port s) :=
  have told (u : State) : Quiet u { u with pkg := { u.pkg with lnk := true, repl := true } } := .same rfl rfl
  ((quiet_withLink _ _ s).trans (told _)).trans (quiet_answer _ _)

theorem quiet_countRetrain (port : Fin 24) (st : LinkState) (s : State) : Quiet s (countRetrain port st s) :=
  .ite ((quiet_withLink _ _ s).trans (quiet_retireLink port _)) (quiet_withLink _ _ s)

theorem quiet_replayFrom (port : Fin 24) (s : State) : Quiet s (replayFrom port s) := by
  unfold replayFrom
  dsimp only
  split
  · exact .refl s
  · refine .ite ?_ (quiet_withLink _ _ s)
    exact ((quiet_withLink _ _ s).trans (quiet_withLink _ _ _)).trans (quiet_countRetrain _ _ _)

theorem quiet_acceptFlit (port : Fin 24) (raw : BitVec 2048) (s : State) : Quiet s (acceptFlit port raw s) :=
  .ite (quiet_withLink _ _ s) (.ite ((quiet_withLink _ _ s).trans (quiet_forward _ _ _)) (quiet_withLink _ _ s))

theorem quiet_takeCtrl (port : Fin 24) (raw : BitVec 2048) (s : State) : Quiet s (takeCtrl port raw s) :=
  .ite ((quiet_withLink _ _ s).trans (quiet_replayFrom _ _)) (quiet_withLink _ _ s)

theorem quiet_takeData (port : Fin 24) (raw : BitVec 2048) (s : State) : Quiet s (takeData port raw s) :=
  .ite (quiet_acceptFlit _ _ s) (.ite (quiet_withLink _ _ s) (.ite (.refl s) (quiet_withLink _ _ s)))

theorem sound_flitArrival (port : Fin 24) (raw : BitVec 2048) (fecOk : Bool) (s : State) : OutSound s (execFlitArrival port raw fecOk s) :=
  Quiet.next (.ite (.refl s) (.ite (quiet_withLink _ _ s) (.ite (quiet_takeCtrl _ _ s) (.ite (quiet_countRetrain _ _ s)
    (.ite (quiet_takeData _ _ s) (.refl s))))))

theorem sound_ackTimeout (port : Fin 24) (s : State) : OutSound s (execAckTimeout port s) :=
  Quiet.next (.ite (quiet_replayFrom _ s) (.refl s))

theorem sound_retrainComplete (port : Fin 24) (mine peer : LaneView) (verified : Bool) (s : State) :
    OutSound s (execRetrainComplete port mine peer verified s) :=
  Quiet.next (.ite (.refl s) (.ite (quiet_withLink _ _ s) (.ite (quiet_withLink _ _ s) (quiet_countRetrain _ _ s))))

theorem sound_trainingRestart (port : Fin 24) (s : State) : OutSound s (execTrainingRestart port s) :=
  Quiet.next (.ite (.refl s) (.ite (quiet_withLink _ _ s) (.refl s)))

theorem sound_bucketDrain (port : Fin 24) (s : State) : OutSound s (execBucketDrain port s) :=
  Quiet.next (.ite (quiet_withLink _ _ s) (.refl s))

/-! ### Retired links, keys and circuits -/

theorem quiet_losePacket (s : State) (p : Packet) : Quiet s (losePacket s p) := by
  refine .ite (Quiet.trans (quiet_erased p s) ?_) (quiet_erased p s)
  split
  · exact quiet_packetFails _ _
  · exact .refl _

theorem quiet_failPacket (port : Fin 24) (pkt : List FlitReq) (s : State) : Quiet s (failPacket port pkt s) := by
  unfold failPacket
  split
  · exact quiet_losePacket s _
  · exact quiet_withLink _ _ s

theorem quiet_movePacket (own : Option Nat) (port : Fin 24) (vc : BitVec 2) (s : State) : Quiet s (movePacket own port vc s) :=
  quiet_withFab s _ rfl

theorem quiet_rerouteOne (port : Fin 24) (s : State) (pkt : List FlitReq) : Quiet s (rerouteOne port s pkt) := by
  unfold rerouteOne
  split
  · exact .refl s
  · split
    · exact (quiet_withLink _ _ s).trans (quiet_movePacket _ _ _ _)
    · exact quiet_failPacket _ _ s

theorem quiet_reroute (port : Fin 24) (pkts : List (List FlitReq)) (s : State) : Quiet s (reroute port pkts s) :=
  quiet_foldl (quiet_rerouteOne port) _ s

theorem quiet_endRetire (port : Fin 24) (s : State) : Quiet s (endRetire port s) := .ite (quiet_withLink _ _ s) (.refl s)

theorem sound_linkStateNotice (port : Fin 24) (seq : BitVec 16) (s : State) : OutSound s (execLinkStateNotice port seq s) :=
  Quiet.next (.ite (((quiet_withLink _ _ s).trans (quiet_reroute _ _ _)).trans (quiet_endRetire _ _)) (.refl s))

theorem sound_noticeTimeout (port : Fin 24) (s : State) : OutSound s (execNoticeTimeout port s) :=
  Quiet.next (.ite (((quiet_withLink port _ s).trans (quiet_foldl (fun s pkt => quiet_failPacket port pkt s) _ _)).trans
    ((quiet_reroute _ _ _).trans (quiet_endRetire _ _))) (.refl s))

theorem sound_bktClear (port : Fin 24) (s : State) : OutSound s (execBktClear port s) :=
  have woken (l : Link) : Quiet s (withLink port l (wakeAll s)) := (quiet_wakeAll s).trans (quiet_withLink _ _ _)
  Quiet.next (.ite (.ite (woken _) (woken _)) (woken _))

theorem sound_keySlotLoad (port : Fin 24) (tx slot : Bool) (key : BitVec 256) (salt : BitVec 32) (s : State) :
    OutSound s (execKeySlotLoad port tx slot key salt s) :=
  have woken (l : Link) : Quiet s (withLink port l (wakeAll s)) := (quiet_wakeAll s).trans (quiet_withLink _ _ _)
  Quiet.next (.ite (.ite (quiet_wakeAll s) (woken _)) (.ite (quiet_wakeAll s) (woken _)))

theorem sound_slotSwitch (port : Fin 24) (s : State) : OutSound s (execSlotSwitch port s) :=
  ((quiet_wakeAll s).trans (quiet_withLink _ _ _)).next

theorem sound_enreqWrite (port : Fin 24) (on : Bool) (s : State) : OutSound s (execEnreqWrite port on s) :=
  ((quiet_wakeAll s).trans (quiet_withLink _ _ _)).next

theorem sound_circuitMove (port : Fin 24) (peer : BitVec 12) (s : State) : OutSound s (execCircuitMove port peer s) :=
  Quiet.next (.ite (.refl s) (.ite (quiet_withLink _ _ s) (quiet_withLink _ _ s)))

theorem sound_podcfgWrite (v : Word) (s : State) : OutSound s (execPodcfgWrite v s) := by
  have shaped (u : State) (w : Word) (l : Vector Link 24) : Calm u { u with fab := { u.fab with podcfg := w }, links := l } := .of rfl rfl
  exact .calm (((calm_wakeAll s).trans (calm_renode _ _)).trans (shaped _ _ _))

end Sys2Proof.Machine
end

section
/-! The save and the restore of the queues: what they keep of the level and of the byte stores. -/

namespace Sys2Proof.Machine

/-! ### The place of an image -/

/-- The units of an image that are refused have been translated up to the refused one, and nothing else. -/
theorem checkUnits_error {kind n : Nat} {addr a : Word} {c : Cause} {s u : State}
    (refused : checkUnits kind addr n s = .error (c, a, u)) : OnlyMemory s u := by
  induction n generalizing addr s with
  | zero => cases refused
  | succ n ih =>
    unfold checkUnits at refused
    split at refused
    · cases refused
      exact .refl _
    · cases refused
    · split at refused
      · next rest =>
        cases refused
        exact ih rest
      · cases refused
    · next checked =>
      split at refused
      · next rest =>
        cases refused
        exact (onlyMemory_check checked).trans (ih rest)
      · cases refused

theorem imageAt_error {kind : Nat} {addr : Word} {t : Trap} {s u : State} (refused : imageAt kind addr s = .error (t, u)) :
    OnlyMemory s u := by
  unfold imageAt at refused
  split at refused
  · cases refused
    exact .refl _
  · split at refused
    · next units =>
      cases refused
      exact checkUnits_error units
    · split at refused <;> cases refused

/-! ### SAVEQ -/

theorem calm_saveBegin (s : State) : Calm s (saveBegin s) := by
  have stopped : Calm s (stopQueues { s with thatch := { s.thatch with savePips := true } }) := .of rfl rfl
  have ended (u : State) (e : Entry) : Calm u (match e.pip with | some n => failPip n u | none => u) := by
    split
    · exact (quiet_failPip _ u).calm
    · exact .refl u
  exact stopped.trans (calm_foldl ended _ _)

theorem quiet_writeImage (p : ImageAt) (bs : List Byte) (s : State) : Quiet s (writeImage p bs s) := by
  have unit (u : State) (x : (Nat × Option Nat) × Nat) : Quiet u
      (memWrite (writesOf (memKey (ownNode u) x.1.1) ((bs.drop (64 * x.2)).take 64)) (markDirty x.1.2 (requestAt x.1.1 u))) :=
    (((onlyMemory_requestAt _ u).trans (onlyMemory_markDirty _ _)).trans (onlyMemory_memWrite _ _)).quiet
  cases p with
  | spad off => exact quiet_putSpad s off bs
  | mem us held => exact quiet_foldl unit _ s

theorem calm_saveEnd (p : ImageAt) (s : State) : Calm s (saveEnd p s) := by
  have stopped (es : List Entry) : Calm s { s with thatch := { s.thatch with entries := es } } := .of rfl rfl
  have freed (u : State) (m : MemSys) (h : Thatch) (g : Package) (due : h.trapDue = u.thatch.trapDue)
      (bytes : m.mem = u.mem.mem) : Calm u { u with mem := m, thatch := h, pkg := g } :=
    .of (by simp only [level, due]) (by simp only [byteStores, bytes])
  have halted := stopped (s.thatch.entries.map stopEntry)
  have written (bs : List Byte) := halted.trans (quiet_writeImage p bs _).calm
  have pips (bs : List Byte) (es : List Entry) := (written bs).trans (calm_foldl (fun u e => (quiet_pipRetired e u).calm) es _)
  exact Calm.trans (pips _ _) (freed _ _ _ _ rfl rfl)

theorem steady_saveqActs (a : Reg) (s : State) : ResSteady s (saveqActs a s) := by
  unfold saveqActs
  split
  · next refused => exact (imageAt_error refused).quiet.calm
  · next placed =>
    have translated := (imageAt_ok placed).1.quiet.calm
    have begun := translated.trans (calm_saveBegin _)
    exact resSteady_ite translated.steady (resSteady_ite begun.steady (begun.trans (calm_saveEnd _ _)).steady)

theorem sound_saveq (a : Reg) (s : State) : OutSound s (execSaveq a s) := sound_issue (steady_saveqActs a s)

/-! ### RESTQ -/

theorem calm_restEntry (img : List Byte) (dir : List (RBox × Nat × Bool)) (s : State) (v : Saved) : Calm s (restEntry img dir s v) :=
  .of rfl rfl

theorem calm_restore (img : List Byte) (s : State) : Calm s (restore img s) := by
  have registers (x : Store) (y : Strand) (b : Word) (n : Nat) (spad : x.spad = s.store.spad) : Calm s { s with
      store := x, strand := y, sys := { s.sys with rasb := b }, thatch := { s.thatch with nextSeq := n } } :=
    .of rfl (by simp only [byteStores, spad])
  have opened (u : State) (d : List DirEntry) : Calm u { u with thatch := { u.thatch with dir := d } } := .of rfl rfl
  refine Calm.trans ?_ (quiet_releaseAll _).calm
  refine Calm.trans ?_ (opened _ _)
  refine Calm.trans ?_ (calm_foldl (calm_restEntry img (savedDir img)) _ _)
  exact registers _ _ _ _ rfl

theorem steady_restqActs (a : Reg) (s : State) : ResSteady s (restqActs a s) := by
  unfold restqActs
  split
  · next refused => exact (imageAt_error refused).quiet.calm
  · next placed =>
    have translated := (imageAt_ok placed).1.quiet.calm
    refine resSteady_ite translated.steady ?_
    split
    · trivial
    · refine resSteady_ite (resSteady_trap s _) ?_
      split
      · trivial
      · exact (translated.trans ((imageRequests_onlyAsked _ _).quiet.calm.trans (calm_restore _ _))).steady

theorem sound_restq (a : Reg) (s : State) : OutSound s (execRestq a s) := sound_issue (steady_restqActs a s)

end Sys2Proof.Machine
end

section
/-! The dispatch: every instruction and event but a launch and the reset of the package is sound. -/

namespace Sys2Proof.Machine

/-- The instructions that may give the strand a new level and new trap registers without a trap. -/
def LaunchesOrResets (i : Instr) : Prop := (∃ p, i = .launchPacket p) ∨ (∃ p a, i = .resumePacket p a) ∨ i = .packageReset

theorem sound_cnd (op : Bool → Bool → Bool) (c x y : Cond) (s : State) : OutSound s (cnd op c x y s) := sound_tests _ c _ s

/-- One arm for each instruction: the lemma about its meaning. -/
theorem sound_exec (i : Instr) (s : State) : LaunchesOrResets i ∨ OutSound s (exec i s) := by
  cases i with
  | add d a b => exact .inr (show OutSound s (execAdd d a b s) from sound_alu2 _ d a b s)
  | sub d a b => exact .inr (show OutSound s (execSub d a b s) from sound_alu2 _ d a b s)
  | mul d a b => exact .inr (show OutSound s (execMul d a b s) from sound_alu2 _ d a b s)
  | mulh d a b => exact .inr (show OutSound s (execMulh d a b s) from sound_alu2 _ d a b s)
  | mulhn d a b => exact .inr (show OutSound s (execMulhn d a b s) from sound_alu2 _ d a b s)
  | div d a b => exact .inr (show OutSound s (execDiv d a b s) from sound_alu2 _ d a b s)
  | divn d a b => exact .inr (show OutSound s (execDivn d a b s) from sound_alu2 _ d a b s)
  | rem d a b => exact .inr (show OutSound s (execRem d a b s) from sound_alu2 _ d a b s)
  | remn d a b => exact .inr (show OutSound s (execRemn d a b s) from sound_alu2 _ d a b s)
  | and d a b => exact .inr (show OutSound s (execAnd d a b s) from sound_alu2 _ d a b s)
  | or d a b => exact .inr (show OutSound s (execOr d a b s) from sound_alu2 _ d a b s)
  | xor d a b => exact .inr (show OutSound s (execXor d a b s) from sound_alu2 _ d a b s)
  | andn d a b => exact .inr (show OutSound s (execAndn d a b s) from sound_alu2 _ d a b s)
  | sll d a b => exact .inr (show OutSound s (execSll d a b s) from sound_alu2 _ d a b s)
  | srl d a b => exact .inr (show OutSound s (execSrl d a b s) from sound_alu2 _ d a b s)
  | sra d a b => exact .inr (show OutSound s (execSra d a b s) from sound_alu2 _ d a b s)
  | rol d a b => exact .inr (show OutSound s (execRol d a b s) from sound_alu2 _ d a b s)
  | ror d a b => exact .inr (show OutSound s (execRor d a b s) from sound_alu2 _ d a b s)
  | min d a b => exact .inr (show OutSound s (execMin d a b s) from sound_alu2 _ d a b s)
  | max d a b => exact .inr (show OutSound s (execMax d a b s) from sound_alu2 _ d a b s)
  | minn d a b => exact .inr (show OutSound s (execMinn d a b s) from sound_alu2 _ d a b s)
  | maxn d a b => exact .inr (show OutSound s (execMaxn d a b s) from sound_alu2 _ d a b s)
  | clz d a => exact .inr (show OutSound s (execClz d a s) from sound_alu1 _ d a s)
  | ctz d a => exact .inr (show OutSound s (execCtz d a s) from sound_alu1 _ d a s)
  | popc d a => exact .inr (show OutSound s (execPopc d a s) from sound_alu1 _ d a s)
  | bswap d a => exact .inr (show OutSound s (execBswap d a s) from sound_alu1 _ d a s)
  | clmul d a b => exact .inr (show OutSound s (execClmul d a b s) from sound_alu2 _ d a b s)
  | clmulh d a b => exact .inr (show OutSound s (execClmulh d a b s) from sound_alu2 _ d a b s)
  | addw d a b => exact .inr (show OutSound s (execAddw d a b s) from sound_alu2 _ d a b s)
  | subw d a b => exact .inr (show OutSound s (execSubw d a b s) from sound_alu2 _ d a b s)
  | addi d a imm => exact .inr (show OutSound s (execAddi d a imm s) from sound_alu1 _ d a s)
  | andi d a imm => exact .inr (show OutSound s (execAndi d a imm s) from sound_alu1 _ d a s)
  | ori d a imm => exact .inr (show OutSound s (execOri d a imm s) from sound_alu1 _ d a s)
  | xori d a imm => exact .inr (show OutSound s (execXori d a imm s) from sound_alu1 _ d a s)
  | slli d a n => exact .inr (show OutSound s (execSlli d a n s) from sound_alu1 _ d a s)
  | srli d a n => exact .inr (show OutSound s (execSrli d a n s) from sound_alu1 _ d a s)
  | srai d a n => exact .inr (show OutSound s (execSrai d a n s) from sound_alu1 _ d a s)
  | rori d a n => exact .inr (show OutSound s (execRori d a n s) from sound_alu1 _ d a s)
  | lui d imm => exact .inr (show OutSound s (execLui d imm s) from sound_writes _ _ d _ s)
  | lih d imm => exact .inr (show OutSound s (execLih d imm s) from sound_writes _ _ d _ s)
  | bfx d a signed pos len1 => exact .inr (show OutSound s (execBfx d a signed pos len1 s) from sound_alu1 _ d a s)
  | bfi d a pos len1 => exact .inr (show OutSound s (execBfi d a pos len1 s) from sound_writes _ _ d _ s)
  | cmp c cc a b => exact .inr (show OutSound s (execCmp c cc a b s) from sound_tests _ c _ s)
  | cmpi c cc a imm => exact .inr (show OutSound s (execCmpi c cc a imm s) from sound_tests _ c _ s)
  | sel d a b neg c => exact .inr (show OutSound s (execSel d a b neg c s) from sound_writes _ _ d _ s)
  | cand c x y => exact .inr (show OutSound s (execCand c x y s) from sound_cnd _ c x y s)
  | cor c x y => exact .inr (show OutSound s (execCor c x y s) from sound_cnd _ c x y s)
  | cxor c x y => exact .inr (show OutSound s (execCxor c x y s) from sound_cnd _ c x y s)
  | candn c x y => exact .inr (show OutSound s (execCandn c x y s) from sound_cnd _ c x y s)
  | ptg t disp => exact .inr (show OutSound s (execPtg t disp s) from sound_ptg t disp s)
  | ptr t a => exact .inr (show OutSound s (execPtr t a s) from sound_ptr t a s)
  | br t => exact .inr (show OutSound s (execBr t s) from sound_transfer (calm_pendTransfer _ s).steady)
  | brc t c neg => exact .inr (show OutSound s (execBrc t c neg s) from sound_transfer (calm_pendTransfer _ s).steady)
  | call t => exact .inr (show OutSound s (execCall t s) from sound_transfer (steady_callWith t s))
  | callc t c neg => exact .inr (show OutSound s (execCallc t c neg s) from sound_callc t c neg s)
  | ret => exact .inr (show OutSound s (execRet s) from sound_ret s)
  | lbrk l c neg => exact .inr (show OutSound s (execLbrk l c neg s) from sound_transfer (calm_pendTransfer _ s).steady)
  | loop l len cnt => exact .inr (show OutSound s (execLoop l len cnt s) from sound_loop _ l len _ _ _ s)
  | loopReg l len g => exact .inr (show OutSound s (execLoopReg l len g s) from sound_loop _ l len _ _ _ s)
  | loopCq l len => exact .inr (show OutSound s (execLoopCq l len s) from sound_loopCq l len _ _ s)
  | loops l len stg cnt => exact .inr (show OutSound s (execLoops l len stg cnt s) from sound_loop _ l len _ _ _ s)
  | loopsReg l len stg g => exact .inr (show OutSound s (execLoopsReg l len stg g s) from sound_loop _ l len _ _ _ s)
  | loopsCq l len stg => exact .inr (show OutSound s (execLoopsCq l len stg s) from sound_loopCq l len _ _ s)
  | rep n sd sa sb => exact .inr (show OutSound s (execRep n sd sa sb s) from sound_rep n sd sa sb s)
  | cqpush a => exact .inr (show OutSound s (execCqpush a s) from sound_cqpush a s)
  | cqpop d => exact .inr (show OutSound s (execCqpop d s) from sound_cqpop d s)
  | cqclr => exact .inr (show OutSound s (execCqclr s) from sound_cqclr s)
  | cqlen d => exact .inr (show OutSound s (execCqlen d s) from sound_writes _ _ d _ s)
  | ldb d a imm => exact .inr (show OutSound s (execLdb d a imm s) from sound_load _ _ d a imm s)
  | ldbn d a imm => exact .inr (show OutSound s (execLdbn d a imm s) from sound_load _ _ d a imm s)
  | ldh d a imm => exact .inr (show OutSound s (execLdh d a imm s) from sound_load _ _ d a imm s)
  | ldhn d a imm => exact .inr (show OutSound s (execLdhn d a imm s) from sound_load _ _ d a imm s)
  | ldw d a imm => exact .inr (show OutSound s (execLdw d a imm s) from sound_load _ _ d a imm s)
  | ldwn d a imm => exact .inr (show OutSound s (execLdwn d a imm s) from sound_load _ _ d a imm s)
  | ldd d a imm => exact .inr (show OutSound s (execLdd d a imm s) from sound_load _ _ d a imm s)
  | stb d a imm => exact .inr (show OutSound s (execStb d a imm s) from sound_store _ d a imm s)
  | sth d a imm => exact .inr (show OutSound s (execSth d a imm s) from sound_store _ d a imm s)
  | stw d a imm => exact .inr (show OutSound s (execStw d a imm s) from sound_store _ d a imm s)
  | std d a imm => exact .inr (show OutSound s (execStd d a imm s) from sound_store _ d a imm s)
  | spl g slot => exact .inr (show OutSound s (execSpl g slot s) from sound_spl g slot s)
  | fil g slot => exact .inr (show OutSound s (execFil g slot s) from sound_writes _ _ g _ s)
  | lda d a b => exact .inr (show OutSound s (execLda d a b s) from sound_issue (steady_copyIssue _ _ _ _ _ _ s))
  | sta d a b => exact .inr (show OutSound s (execSta d a b s) from sound_issue (steady_copyIssue _ _ _ _ _ _ s))
  | atomSwp d a b w32 scope => exact .inr (show OutSound s (execAtomSwp d a b w32 scope s) from sound_atom _ d a b w32 s)
  | atomAdd d a b w32 scope => exact .inr (show OutSound s (execAtomAdd d a b w32 scope s) from sound_atom _ d a b w32 s)
  | atomAnd d a b w32 scope => exact .inr (show OutSound s (execAtomAnd d a b w32 scope s) from sound_atom _ d a b w32 s)
  | atomOr d a b w32 scope => exact .inr (show OutSound s (execAtomOr d a b w32 scope s) from sound_atom _ d a b w32 s)
  | atomXor d a b w32 scope => exact .inr (show OutSound s (execAtomXor d a b w32 scope s) from sound_atom _ d a b w32 s)
  | atomMin d a b w32 scope => exact .inr (show OutSound s (execAtomMin d a b w32 scope s) from sound_atom _ d a b w32 s)
  | atomMax d a b w32 scope => exact .inr (show OutSound s (execAtomMax d a b w32 scope s) from sound_atom _ d a b w32 s)
  | atomMinn d a b w32 scope => exact .inr (show OutSound s (execAtomMinn d a b w32 scope s) from sound_atom _ d a b w32 s)
  | atomMaxn d a b w32 scope => exact .inr (show OutSound s (execAtomMaxn d a b w32 scope s) from sound_atom _ d a b w32 s)
  | atomCas d a b w32 scope => exact .inr (show OutSound s (execAtomCas d a b w32 scope s) from sound_atom _ d a b w32 s)
  | fenceSc scope => exact .inr (show OutSound s (execFenceSc scope s) from sound_fence _ s)
  | fenceAcq scope => exact .inr (show OutSound s (execFenceAcq scope s) from sound_fence _ s)
  | fenceRel scope => exact .inr (show OutSound s (execFenceRel scope s) from sound_fence _ s)
  | fenceRq => exact .inr (show OutSound s (execFenceRq s) from sound_fence _ s)
  | fencePip => exact .inr (show OutSound s (execFencePip s) from sound_fence _ s)
  | semadd n g => exact .inr (show OutSound s (execSemadd n g s) from sound_semadd n _ _ s)
  | semaddi n imm => exact .inr (show OutSound s (execSemaddi n imm s) from sound_semadd n _ _ s)
  | semwait n g => exact .inr (show OutSound s (execSemwait n g s) from sound_semwait n _ _ s)
  | semwaiti n imm => exact .inr (show OutSound s (execSemwaiti n imm s) from sound_semwait n _ _ s)
  | semset n g => exact .inr (show OutSound s (execSemset n g s) from sound_semset n g s)
  | semrd n g => exact .inr (show OutSound s (execSemrd n g s) from sound_writes _ _ g _ s)
  | post rec => exact .inr (sound_post rec s)
  | postm a => exact .inr (sound_postm a s)
  | waitc t l n cp => exact .inr (show OutSound s (execWaitc t l n cp s) from sound_waits _ _ _ s)
  | bxh x a imm => exact .inr (sound_bxh x a imm s)
  | bxo x dim a imm => exact .inr (sound_bxo x dim a imm s)
  | bxe x dim a imm => exact .inr (sound_bxe x dim a imm s)
  | bxs x dim a imm => exact .inr (sound_bxs x dim a imm s)
  | bxc x a => exact .inr (sound_bxc x a s)
  | bxz x => exact .inr (sound_bxz x s)
  | hkld h a imm => exact .inr (sound_hkld h a imm s)
  | hkst h a imm => exact .inr (sound_hkst h a imm s)
  | hkinv h imm => exact .inr (sound_hkinv h imm s)
  | hktab h a imm => exact .inr (sound_hktab h a imm s)
  | acq scope a => exact .inr (sound_acq scope a s)
  | rel scope a => exact .inr (sound_rel scope a s)
  | bind a b => exact .inr (sound_bind a b s)
  | unbind a b => exact .inr (sound_unbind a b s)
  | cbr t c neg red hint => exact .inr (sound_cbr t c neg red hint s)
  | cbrx t c neg red => exact .inr (sound_cbrx t c neg red s)
  | cstep => exact .inr (sound_cstep s)
  | gabort => exact .inr (sound_gabort s)
  | mfs d r => exact .inr (sound_mfs d r s)
  | mts a r => exact .inr (show OutSound s (execMts a r s) from sound_mts _ a s)
  | trap code => exact .inr (sound_trap code s)
  | eret => exact .inr (sound_eret s)
  | yield n => exact .inr (sound_yield n s)
  | saveq a => exact .inr (sound_saveq a s)
  | restq a => exact .inr (sound_restq a s)
  | halt => exact .inr (sound_halt s)
  | brk tag => exact .inr (sound_brk tag s)
  | tstart a => exact .inr (sound_tstart a s)
  | mapinvAddr a => exact .inr (show OutSound s (execMapinvAddr a s) from sound_mapinv _ _ _ s)
  | mapinvSeg a => exact .inr (show OutSound s (execMapinvSeg a s) from sound_mapinv _ _ _ s)
  | mapinvAsid a => exact .inr (show OutSound s (execMapinvAsid a s) from sound_mapinv _ _ _ s)
  | mapinvAll => exact .inr (show OutSound s (execMapinvAll s) from sound_mapinv _ _ _ s)
  | ridge d stk => exact .inr (show OutSound s (execRidge d stk s) from sound_ridge d stk s)
  | snap tag => exact .inr (sound_snap tag s)
  | sleep => exact .inr (sound_sleep s)
  | mMm slot units => exact .inr (show OutSound s (execMMm slot units s) from planQuiet_mmPlan.runTask _ slot units s)
  | mMmq slot units => exact .inr (show OutSound s (execMMmq slot units s) from planQuiet_mmqPlan.runTask _ slot units s)
  | mMmg slot units => exact .inr (show OutSound s (execMMmg slot units s) from planQuiet_mmgPlan.runTask _ slot units s)
  | mMz slot units => exact .inr (show OutSound s (execMMz slot units s) from planQuiet_mzPlan.runTask _ slot units s)
  | mMst slot units => exact .inr (show OutSound s (execMMst slot units s) from planQuiet_mstPlan.runTask _ slot units s)
  | xXpose slot units => exact .inr (show OutSound s (execXXpose slot units s) from (planQuiet_xPlan _).runTask _ slot units s)
  | xXperm slot units => exact .inr (show OutSound s (execXXperm slot units s) from (planQuiet_xPlan _).runTask _ slot units s)
  | xXrev slot units => exact .inr (show OutSound s (execXXrev slot units s) from (planQuiet_xPlan _).runTask _ slot units s)
  | vAdd slot units => exact .inr (show OutSound s (execVAdd slot units s) from (planQuiet_wPlan _ _).runTask _ slot units s)
  | vSub slot units => exact .inr (show OutSound s (execVSub slot units s) from (planQuiet_wPlan _ _).runTask _ slot units s)
  | vMul slot units => exact .inr (show OutSound s (execVMul slot units s) from (planQuiet_wPlan _ _).runTask _ slot units s)
  | vFma slot units => exact .inr (show OutSound s (execVFma slot units s) from (planQuiet_wPlan _ _).runTask _ slot units s)
  | vDiv slot units => exact .inr (show OutSound s (execVDiv slot units s) from (planQuiet_wPlan _ _).runTask _ slot units s)
  | vSqrt slot units => exact .inr (show OutSound s (execVSqrt slot units s) from (planQuiet_wPlan _ _).runTask _ slot units s)
  | vRcp slot units => exact .inr (show OutSound s (execVRcp slot units s) from (planQuiet_wPlan _ _).runTask _ slot units s)
  | vRsq slot units => exact .inr (show OutSound s (execVRsq slot units s) from (planQuiet_wPlan _ _).runTask _ slot units s)
  | vExp2 slot units => exact .inr (show OutSound s (execVExp2 slot units s) from (planQuiet_wPlan _ _).runTask _ slot units s)
  | vLog2 slot units => exact .inr (show OutSound s (execVLog2 slot units s) from (planQuiet_wPlan _ _).runTask _ slot units s)
  | vMin slot units => exact .inr (show OutSound s (execVMin slot units s) from (planQuiet_wPlan _ _).runTask _ slot units s)
  | vMax slot units => exact .inr (show OutSound s (execVMax slot units s) from (planQuiet_wPlan _ _).runTask _ slot units s)
  | vAbs slot units => exact .inr (show OutSound s (execVAbs slot units s) from (planQuiet_wPlan _ _).runTask _ slot units s)
  | vNeg slot units => exact .inr (show OutSound s (execVNeg slot units s) from (planQuiet_wPlan _ _).runTask _ slot units s)
  | vCvt slot units => exact .inr (show OutSound s (execVCvt slot units s) from (planQuiet_wPlan _ _).runTask _ slot units s)
  | vQnt slot units => exact .inr (show OutSound s (execVQnt slot units s) from (planQuiet_wPlan _ _).runTask _ slot units s)
  | vDq slot units => exact .inr (show OutSound s (execVDq slot units s) from (planQuiet_wPlan _ _).runTask _ slot units s)
  | vScl slot units => exact .inr (show OutSound s (execVScl slot units s) from (planQuiet_wPlan _ _).runTask _ slot units s)
  | vAnd slot units => exact .inr (show OutSound s (execVAnd slot units s) from (planQuiet_wPlan _ _).runTask _ slot units s)
  | vOr slot units => exact .inr (show OutSound s (execVOr slot units s) from (planQuiet_wPlan _ _).runTask _ slot units s)
  | vXor slot units => exact .inr (show OutSound s (execVXor slot units s) from (planQuiet_wPlan _ _).runTask _ slot units s)
  | vNot slot units => exact .inr (show OutSound s (execVNot slot units s) from (planQuiet_wPlan _ _).runTask _ slot units s)
  | vShl slot units => exact .inr (show OutSound s (execVShl slot units s) from (planQuiet_wPlan _ _).runTask _ slot units s)
  | vShr slot units => exact .inr (show OutSound s (execVShr slot units s) from (planQuiet_wPlan _ _).runTask _ slot units s)
  | vSra slot units => exact .inr (show OutSound s (execVSra slot units s) from (planQuiet_wPlan _ _).runTask _ slot units s)
  | vClm slot units => exact .inr (show OutSound s (execVClm slot units s) from (planQuiet_wPlan _ _).runTask _ slot units s)
  | vPopc slot units => exact .inr (show OutSound s (execVPopc slot units s) from (planQuiet_wPlan _ _).runTask _ slot units s)
  | vClz slot units => exact .inr (show OutSound s (execVClz slot units s) from (planQuiet_wPlan _ _).runTask _ slot units s)
  | vCmp slot units => exact .inr (show OutSound s (execVCmp slot units s) from (planQuiet_wPlan _ _).runTask _ slot units s)
  | vSel slot units => exact .inr (show OutSound s (execVSel slot units s) from (planQuiet_wPlan _ _).runTask _ slot units s)
  | vRed slot units => exact .inr (show OutSound s (execVRed slot units s) from (planQuiet_wPlan _ _).runTask _ slot units s)
  | vScan slot units => exact .inr (show OutSound s (execVScan slot units s) from (planQuiet_wPlan _ _).runTask _ slot units s)
  | vAny slot units => exact .inr (show OutSound s (execVAny slot units s) from (planQuiet_votePlan _).runTask _ slot units s)
  | vAll slot units => exact .inr (show OutSound s (execVAll slot units s) from (planQuiet_votePlan _).runTask _ slot units s)
  | vCnt slot units => exact .inr (show OutSound s (execVCnt slot units s) from (planQuiet_votePlan _).runTask _ slot units s)
  | vIota slot units => exact .inr (show OutSound s (execVIota slot units s) from (planQuiet_wPlan _ _).runTask _ slot units s)
  | vComp slot units => exact .inr (show OutSound s (execVComp slot units s) from (planQuiet_movePlan _ _ _ _).runTask _ slot units s)
  | vGth slot units => exact .inr (show OutSound s (execVGth slot units s) from (planQuiet_wPlan _ _).runTask _ slot units s)
  | vSct slot units => exact .inr (show OutSound s (execVSct slot units s) from (planQuiet_movePlan _ _ _ _).runTask _ slot units s)
  | vHist slot units => exact .inr (show OutSound s (execVHist slot units s) from planQuiet_histPlan.runTask _ slot units s)
  | vBcst slot units => exact .inr (show OutSound s (execVBcst slot units s) from (planQuiet_wPlan _ _).runTask _ slot units s)
  | cCpy slot units => exact .inr (show OutSound s (execCCpy slot units s) from planQuiet_cpyPlan.runTask _ slot units s)
  | cCpyf slot units => exact .inr (show OutSound s (execCCpyf slot units s) from planQuiet_cpyfPlan.runTask _ slot units s)
  | cCmpb slot units => exact .inr (show OutSound s (execCCmpb slot units s) from planQuiet_cmpbPlan.runTask _ slot units s)
  | cFill slot units => exact .inr (show OutSound s (execCFill slot units s) from planQuiet_fillPlan.runTask _ slot units s)
  | cAdv slot units => exact .inr (show OutSound s (execCAdv slot units s) from planQuiet_advPlan.runTask _ slot units s)
  | cDrn slot units => exact .inr (show OutSound s (execCDrn slot units s) from planQuiet_drnPlan.runTask _ slot units s)
  | cDrna slot units => exact .inr (show OutSound s (execCDrna slot units s) from planQuiet_drnaPlan.runTask _ slot units s)
  | cAccl slot units => exact .inr (show OutSound s (execCAccl slot units s) from planQuiet_acclPlan.runTask _ slot units s)
  | cSelk slot units => exact .inr (show OutSound s (execCSelk slot units s) from planQuiet_selkPlan.runTask _ slot units s)
  | cCpypg slot units => exact .inr (sound_cCpypg slot units s)
  | cCkpt slot units => exact .inr (sound_cCkpt slot units s)
  | fWr slot units => exact .inr (show OutSound s (execFWr slot units s) from planQuiet_wrPlan.runTask _ slot units s)
  | fWrp slot units => exact .inr (show OutSound s (execFWrp slot units s) from planQuiet_wrPlan.runTask _ slot units s)
  | fRd slot units => exact .inr (sound_fRd slot units s)
  | fAmo slot units => exact .inr (show OutSound s (execFAmo slot units s) from planQuiet_amoPlan.runTask _ slot units s)
  | fPost slot units => exact .inr (show OutSound s (execFPost slot units s) from planQuiet_postPlan.runTask _ slot units s)
  | fSem slot units => exact .inr (show OutSound s (execFSem slot units s) from planQuiet_semPlan.runTask _ slot units s)
  | fRte slot units => exact .inr (show OutSound s (execFRte slot units s) from planQuiet_rtePlan.runTask _ slot units s)
  | fRed slot units => exact .inr (show OutSound s (execFRed slot units s) from planQuiet_redPlan.runTask _ slot units s)
  | fHalo slot units => exact .inr (show OutSound s (execFHalo slot units s) from planQuiet_haloPlan.runTask _ slot units s)
  | rnpoolWrite a => exact .inr (show OutSound s (execRnpoolWrite a s) from sound_mts _ a s)
  | asidWrite a => exact .inr (show OutSound s (execAsidWrite a s) from sound_mts _ a s)
  | rasdWrite a => exact .inr (show OutSound s (execRasdWrite a s) from sound_mts _ a s)
  | rasvWrite a => exact .inr (show OutSound s (execRasvWrite a s) from sound_mts _ a s)
  | xstatWrite a => exact .inr (show OutSound s (execXstatWrite a s) from sound_mts _ a s)
  | tracebWrite a => exact .inr (show OutSound s (execTracebWrite a s) from sound_mts _ a s)
  | fold slot units => exact .inr (sound_fold slot units s)
  | writeAcknowledgement slot => exact .inr (sound_writeAcknowledgement slot s)
  | selftest => exact .inr (sound_selftest s)
  | asyncCauseTaken => exact .inr (sound_asyncCauseTaken s)
  | loadComplete k => exact .inr (sound_loadComplete k s)
  | copyRetire k => exact .inr (sound_copyRetire k s)
  | debugStopRequest => exact .inr (sound_debugStopRequest s)
  | preemptRequest => exact .inr (sound_preemptRequest s)
  | forcedStop => exact .inr (sound_forcedStop s)
  | firmwareRestore => exact .inr (sound_firmwareRestore s)
  | launchPacket _ => exact .inl (.inl ⟨_, rfl⟩)
  | launchStart => exact .inr (sound_launchStart s)
  | resumePacket _ _ => exact .inl (.inr (.inl ⟨_, _, rfl⟩))
  | translationFill map va write => exact .inr (sound_translationFill map va write s)
  | homeAccess q => exact .inr (sound_homeAccess q s)
  | mcBatch stk served => exact .inr (sound_mcBatch stk served s)
  | ckptPageCopied slot => exact .inr (sound_ckptPageCopied slot s)
  | throttle t => exact .inr (sound_throttle t s)
  | throttleLift t => exact .inr (sound_throttleLift t s)
  | thermalTrip deciC => exact .inr (sound_thermalTrip deciC s)
  | powerStateEntry p => exact .inr (sound_powerStateEntry p s)
  | wakeEvent p => exact .inr (sound_wakeEvent p s)
  | ptpMessage offset => exact .inr (sound_ptpMessage offset s)
  | powerOn b => exact .inr (sound_powerOn b s)
  | pwrbudWrite w => exact .inr (sound_pwrbudWrite w s)
  | cecntClear die => exact .inr (sound_cecntClear die s)
  | faqPop die => exact .inr (sound_faqPop die s)
  | bplAdd frame => exact .inr (sound_bplAdd frame s)
  | bplRemove frame => exact .inr (sound_bplRemove frame s)
  | thlogRead => exact .inr (sound_thlogRead s)
  | fencemapRead => exact .inr (sound_fencemapRead s)
  | pkgstatClear mask => exact .inr (sound_pkgstatClear mask s)
  | flitTransmit pv => exact .inr (sound_flitTransmit pv s)
  | flitArrival port raw fecOk => exact .inr (sound_flitArrival port raw fecOk s)
  | ackTimeout port => exact .inr (sound_ackTimeout port s)
  | retrainComplete port mine peer verified => exact .inr (sound_retrainComplete port mine peer verified s)
  | trainingRestart port => exact .inr (sound_trainingRestart port s)
  | bucketDrain port => exact .inr (sound_bucketDrain port s)
  | linkStateNotice port seq => exact .inr (sound_linkStateNotice port seq s)
  | noticeTimeout port => exact .inr (sound_noticeTimeout port s)
  | bktClear port => exact .inr (sound_bktClear port s)
  | keySlotLoad port tx slot key salt => exact .inr (show OutSound s (execKeySlotLoad port tx slot key salt s) from sound_keySlotLoad port tx slot key salt s)
  | slotSwitch port => exact .inr (sound_slotSwitch port s)
  | enreqWrite port on => exact .inr (sound_enreqWrite port on s)
  | circuitMove port peer => exact .inr (sound_circuitMove port peer s)
  | podcfgWrite v => exact .inr (sound_podcfgWrite v s)
  | remoteWriteArrival p => exact .inr (sound_remoteWriteArrival p s)
  | remoteReadArrival p => exact .inr (sound_remoteReadArrival p s)
  | remoteAmoArrival p => exact .inr (sound_remoteAmoArrival p s)
  | remoteSemArrival p => exact .inr (sound_remoteSemArrival p s)
  | remotePostArrival p => exact .inr (sound_remotePostArrival p s)
  | busyRetry slot => exact .inr (sound_busyRetry slot s)
  | haloWriteArrival p => exact .inr (sound_haloWriteArrival p s)
  | redWriteArrival p => exact .inr (sound_redWriteArrival p s)
  | landedAck slot => exact .inr (sound_landedAck slot s)
  | markedPacketArrival p => exact .inr (sound_markedPacketArrival p s)
  | releaseArrival p => exact .inr (sound_releaseArrival p s)
  | cancelArrival p => exact .inr (sound_cancelArrival p s)
  | holdExpiry k => exact .inr (sound_holdExpiry k s)
  | expiredArrival p => exact .inr (sound_expiredArrival p s)
  | contributionArrival c => exact .inr (sound_contributionArrival c s)
  | branchResultArrival inst gen r => exact .inr (show OutSound s (execBranchResultArrival inst gen r s) from sound_branchResultArrival _ gen r s)
  | cbrtoExpiry => exact .inr (sound_cbrtoExpiry s)
  | instanceTimeoutArrival inst gen mismatch => exact .inr (show OutSound s (execInstanceTimeoutArrival inst gen mismatch s) from sound_instanceTimeoutArrival _ gen mismatch s)
  | stepMarkArrival m => exact .inr (sound_stepMarkArrival m s)
  | stepCommitArrival step gen => exact .inr (show OutSound s (execStepCommitArrival step gen s) from sound_stepCommitArrival _ gen s)
  | abortTokenAtRoot t => exact .inr (sound_abortTokenAtRoot t s)
  | abortTokenArrival t => exact .inr (sound_abortTokenArrival t s)
  | phase epoch => exact .inr (sound_phase epoch s)
  | drainedAnswer => exact .inr (sound_drainedAnswer s)
  | phaseDone => exact .inr (sound_phaseDone s)
  | illegal w => exact .inr (show OutSound s (execIllegal w s) from sound_refuseWord _ s)
  | fetchOutsideImage addr => exact .inr (sound_fetchOutsideImage addr s)
  | tstartTimeReached => exact .inr (sound_tstartTimeReached s)
  | acqRetryTimeout => exact .inr (sound_acqRetryTimeout s)
  | snapshotWritten => exact .inr (sound_snapshotWritten s)
  | packageReset => exact .inl (.inr (.inr rfl))
  | hostEndsLaunch => exact .inr (sound_hostEndsLaunch s)
  | remoteRefusalArrival p => exact .inr (sound_remoteRefusalArrival p s)

/-- Every instruction and event keeps the byte stores canonical. -/
theorem canon_exec {i : Instr} {s t : State} (wf : Canonical s) (ran : exec i s = .next t) : Canonical t := by
  rcases sound_exec i s with (⟨p, rfl⟩ | ⟨p, restore, rfl⟩ | rfl) | sound
  · exact canon_launchPacket p wf ran
  · exact canon_resumePacket p restore wf ran
  · obtain ⟨u, reset, bytes, _⟩ := packageReset_spec s
    cases reset.symm.trans ran
    exact canonical_of_byteStores bytes wf
  · exact (sound t ran).canon wf

/-! ### What the strand fetches -/

/-- A word of the strand is none of them. -/
theorem not_launchesOrResets_of_encodes {i : Instr} {w : Nat} (encodes : encodeWord i = some w) : ¬LaunchesOrResets i := by
  rintro (⟨p, rfl⟩ | ⟨p, a, rfl⟩ | rfl) <;> exact absurd encodes nofun

theorem not_launchesOrResets_of_decodeWord {w : Nat} {r : Option Rec} {i : Instr} (fits : w < 2 ^ 32) (decodes : decodeWord w r = .ok i) :
    ¬LaunchesOrResets i := not_launchesOrResets_of_encodes (encodeOfDecode w r i fits decodes)

/-- A repetition of a word that is none of them is none of them. -/
theorem not_launchesOrResets_repMap {f g h : Reg → Reg} {i : Instr} (plain : ¬LaunchesOrResets i) : ¬LaunchesOrResets (repMap f g h i) := by
  intro launches
  unfold repMap at launches
  split at launches
  case h_68 => exact plain launches
  all_goals simp [LaunchesOrResets] at launches

theorem fetchAt_decodes {s : State} {a : BitVec 32} {i : Instr} (fetched : fetchAt s a = .ok i) : decodeAt s a = some (.ok i) := by
  unfold fetchAt at fetched
  split at fetched
  · cases fetched
  · split at fetched <;> cases fetched
    assumption

theorem not_launchesOrResets_of_fetchAt {s : State} {a : BitVec 32} {i : Instr} (fetched : fetchAt s a = .ok i) : ¬LaunchesOrResets i := by
  obtain ⟨w, _, decodes⟩ := Option.map_eq_some_iff.mp (fetchAt_decodes fetched)
  exact not_launchesOrResets_of_decodeWord w.isLt decodes

theorem not_launchesOrResets_of_nextInstr {s : State} {i : Instr} (next : nextInstr s = .ok i) : ¬LaunchesOrResets i := by
  unfold nextInstr at next
  split at next
  · next r _ =>
    cases fetched : fetchAt s (s.strand.pc + 1) with
    | error f =>
      rw [fetched] at next
      cases next
    | ok word =>
      rw [fetched] at next
      cases next
      exact not_launchesOrResets_repMap (not_launchesOrResets_of_fetchAt fetched)
  · exact not_launchesOrResets_of_fetchAt next

/-- What the strand runs next is sound. -/
theorem sound_runNext (s : State) : OutSound s (runNext s) := by
  refine .ite (.calm (calm_stallAt s)) ?_
  split
  · next next => exact (sound_exec _ s).resolve_left (not_launchesOrResets_of_nextInstr next)
  · next f _ =>
    cases f with
    | outside a => exact sound_fetchOutsideImage a s
    | illegal w => exact sound_refuseWord _ s
    | poisoned a line => exact sound_refuseWord _ s
    | unreached a => exact sound_refuseWord _ s

end Sys2Proof.Machine
end

section
/-! A whole step: its events and what follows them, and the two statements about every step. -/

namespace Sys2Proof.Machine

/-! ### The events inside the part -/

theorem not_launchesOrResets_taskInstr (t : Task) (slot n : Nat) : ¬LaunchesOrResets (taskInstr t slot n) := by
  cases t <;> simp [LaunchesOrResets, taskInstr]

/-- The step of an engine is the dispatch's, of a fold's or of a task's instruction. -/
theorem taskStep_eq (e : Entry) (n : Nat) : taskStep e n =
    if e.fold then some (exec (.fold e.slot n)) else (recTask e.record).map (fun t => exec (taskInstr t e.slot n)) := by
  unfold taskStep
  congr 1
  cases recTask e.record with
  | none => rfl
  | some t => cases t <;> rfl

theorem sound_taskStep {e : Entry} {n : Nat} {f : State → Out} (step : taskStep e n = some f) (s : State) : OutSound s (f s) := by
  rw [taskStep_eq] at step
  split at step
  · cases step
    exact sound_fold _ _ s
  · obtain ⟨t, _, rfl⟩ := Option.map_eq_some_iff.mp step
    exact (sound_exec _ s).resolve_left (not_launchesOrResets_taskInstr t _ _)

theorem sound_entryEvents {e : Entry} {f : State → Out} (event : f ∈ entryEvents e) (s : State) : OutSound s (f s) := by
  simp only [entryEvents, List.mem_append, List.mem_cons, List.not_mem_nil, or_false, Option.mem_toList] at event
  rcases event with (rfl | rfl | rfl | rfl) | step
  · exact sound_landedAck _ s
  · exact sound_writeAcknowledgement _ s
  · exact sound_ckptPageCopied _ s
  · exact sound_busyRetry _ s
  · exact sound_taskStep step s

theorem sound_eventsOf {s : State} {f : State → Out} (event : f ∈ eventsOf s) (u : State) : OutSound u (f u) := by
  simp only [eventsOf, List.mem_append, List.mem_cons, List.not_mem_nil, or_false, List.mem_map, List.mem_flatMap] at event
  rcases event with ((((((((rfl | rfl | rfl | rfl) | ⟨p, _, rfl⟩) | ⟨e, _, ofEntry⟩) | ⟨m, _, rfl⟩) | ⟨k, _, rfl⟩) |
    (rfl | rfl | rfl | rfl)) | ⟨p, _, rfl⟩) | rfl) | ⟨k, _, rfl⟩
  · exact sound_launchStart u
  · exact sound_loadComplete 0 u
  · exact sound_copyRetire 0 u
  · exact sound_selftest u
  · exact sound_arrivalOf p u
  · exact sound_entryEvents ofEntry u
  · exact sound_messageOf m u
  · exact sound_holdExpiry k u
  · exact sound_cbrtoExpiry u
  · exact sound_drainedAnswer u
  · exact sound_forcedStop u
  · exact sound_snapshotWritten u
  · exact sound_flitTransmit _ u
  · exact sound_firmwareRestore u
  · exact sound_mcBatch _ _ u

theorem sound_nextEvent {s : State} {f : State → Out} (next : nextEvent s = some f) (u : State) : OutSound u (f u) := by
  unfold nextEvent at next
  split at next
  · cases next
  · exact sound_eventsOf (List.mem_of_find?_eq_some next) u

/-! ### What follows every step -/

theorem Sound.unstall {s u : State} (sound : Sound s u) : Sound s (unstall u) := ⟨sound.canon, sound.user⟩

theorem OutSound.retried {s : State} {o : Out} (sound : OutSound s o) : OutSound s (retried o) := by
  cases o with
  | next u => exact .next (t := Sys2Proof.Machine.unstall u) (sound u rfl).unstall
  | fault _ | refused _ =>
    intro t ran
    cases ran

theorem quiet_awake (s : State) : Quiet s (awake s) := .ite (quiet_withPkg _ s) (.refl s)

theorem quiet_settleCore (s : State) : Quiet (completeTrap s) (settleCore s) := by
  unfold settleCore
  generalize completeTrap s = u
  have drained := (quiet_releaseHome u).trans (quiet_drainHeld (releaseHome u).grp.issuing _)
  have retried := drained.trans ((quiet_endHeld _).trans (quiet_retryParked false _))
  have entered := retried.trans ((quiet_holdQuad _).trans (quiet_enterParts _))
  exact entered.trans ((quiet_releaseAll _).trans ((quiet_freePips _).trans ((quiet_sendWaiting _).trans (quiet_awake _))))

theorem completeTrap_cases (s : State) : completeTrap s = s ∨ ∃ (d : TrapDue) (t : Trap), s.thatch.trapDue = some d ∧ t.cause = d.cause ∧
    completeTrap s = enterTrap t d.async d.recSeq { s with thatch := { s.thatch with trapDue := none } } := by
  unfold completeTrap
  split
  · exact .inl rfl
  · next d due =>
    dsimp only
    split
    · exact .inl rfl
    · exact .inr ⟨d, _, due, rfl, rfl⟩

/-- What follows a step is quiet, or first completes the trap entry that waits. -/
theorem settle_cases (s : State) : Quiet s (settle s) ∨ ∃ (d : TrapDue) (t : Trap), s.thatch.trapDue = some d ∧ t.cause = d.cause ∧
    Quiet (enterTrap t d.async d.recSeq { s with thatch := { s.thatch with trapDue := none } }) (settle s) := by
  have ticks (u : State) : Quiet u (tick u) := quiet_withPkg _ u
  unfold settle
  split
  · exact .inl (ticks s)
  · have behind := (quiet_settleCore s).trans (ticks _)
    rcases completeTrap_cases s with same | ⟨d, t, due, cause, entered⟩
    · rw [same] at behind
      exact .inl behind
    · rw [entered] at behind
      exact .inr ⟨d, t, due, cause, behind⟩

theorem canon_settle {s : State} (wf : Canonical s) : Canonical (settle s) := by
  rcases settle_cases s with quiet | ⟨d, t, _, _, quiet⟩
  · exact quiet.canon wf
  · exact quiet.canon (enterTrap_canon _ _ _ wf)

theorem canon_settled {o : Out} {t : State} (each : ∀ u, o = .next u → Canonical u) (ran : settled o = .next t) : Canonical t := by
  cases o with
  | next u =>
    cases ran
    exact canon_settle (each u rfl)
  | _ => cases ran

/-! ### A whole step -/

/-- A step that takes no event of the agenda settles what is sound. -/
theorem step_sound {s : State} (agenda : s.agenda = []) : ∃ o, OutSound s o ∧ step s = settled o := by
  unfold step
  rw [agenda]
  dsimp only
  split
  · exact ⟨_, sound_asyncCauseTaken s, rfl⟩
  · split
    · exact ⟨_, sound_runNext s, rfl⟩
    · split
      · next next => exact ⟨_, (sound_nextEvent next s).retried, rfl⟩
      · split
        · exact ⟨_, sound_runNext s, rfl⟩
        · exact ⟨.next s, sound_self s, rfl⟩

/-- Settles O7: every instruction, event and trap entry writes the byte stores through operations that keep their form. -/
theorem stepKeepsCanonical : Obligations.StepKeepsCanonical := by
  intro s t wf stepped
  cases agenda : s.agenda with
  | nil =>
    obtain ⟨o, sound, steps⟩ := step_sound agenda
    exact canon_settled (fun u ran => (sound u ran).canon wf) (steps.symm.trans stepped)
  | cons i rest =>
    unfold step at stepped
    rw [agenda] at stepped
    exact canon_settled (fun u ran => canon_exec (s := { s with agenda := rest }) wf ran) stepped

/-! ### The level -/

/-- Where what follows a step raises the level, it has completed the trap entry that waited. -/
theorem settle_raises {s : State} (user : s.sys.pl = false) (raised : (settle s).sys.pl = true) :
    (∃ d, s.thatch.trapDue = some d ∧ (settle s).sys.cause.code = causeCode d.cause) ∧ (settle s).sys.th = true ∧
      (settle s).strand.pc = s.sys.tvec ∧ (settle s).thatch.trapDue = none := by
  rcases settle_cases s with quiet | ⟨d, t, due, cause, quiet⟩
  · have stands := quiet.sys (fun r => r.pl) (fun _ => rfl)
    exact absurd (raised.symm.trans (stands.trans user)) nofun
  · obtain ⟨_, th, _, pc, code, gone⟩ :=
      enterTrap_regs t d.async d.recSeq { s with thatch := { s.thatch with trapDue := none } }
    refine ⟨⟨d, due, ?_⟩, ?_, quiet.pc.trans pc, quiet.trapDue.trans gone⟩
    · rw [quiet.sys (fun r => r.cause.code) (fun _ => rfl), code, cause]
    · rw [quiet.sys (fun r => r.th) (fun _ => rfl), th]

/-- What follows a step leaves a handler where it is, or enters it. -/
theorem settle_atHandler {s t : State} (taken : AtHandler s t) : (settle t).sys.th = true ∧ (settle t).strand.pc = s.sys.tvec := by
  obtain ⟨_, th, tvec, pc⟩ := taken
  rcases settle_cases t with quiet | ⟨d, c, _, _, quiet⟩
  · exact ⟨(quiet.sys (fun r => r.th) (fun _ => rfl)).trans th, quiet.pc.trans pc⟩
  · obtain ⟨_, entered, _, here, _⟩ := enterTrap_regs c d.async d.recSeq { t with thatch := { t.thatch with trapDue := none } }
    exact ⟨(quiet.sys (fun r => r.th) (fun _ => rfl)).trans entered, (quiet.pc.trans here).trans tvec⟩

/-- A sound step that raises the level, settled, has taken a trap or completed the entry of one. -/
theorem Sound.settled_raises {s u : State} (sound : Sound s u) (user : s.sys.pl = false) (raised : (settle u).sys.pl = true) :
    (s.sys.th = false ∨ s.thatch.trapDue ≠ none) ∧ (settle u).sys.th = true ∧ (settle u).strand.pc = s.sys.tvec := by
  rcases sound.user user with ⟨stands, _, tvec, waits⟩ | taken
  · obtain ⟨⟨d, due, _⟩, th, pc, _⟩ := settle_raises stands raised
    refine ⟨?_, th, pc.trans tvec⟩
    rcases waits with same | free | gone
    · exact .inr (fun idle => nomatch due.symm.trans (same.trans idle))
    · exact .inl free
    · exact nomatch due.symm.trans gone
  · exact ⟨.inl taken.1, settle_atHandler taken⟩

/-- Where an instruction raises the level, it has taken a trap, or it is a launch. -/
theorem exec_raises {i : Instr} {s t : State} (user : s.sys.pl = false) (ran : exec i s = .next t) (raised : t.sys.pl = true) :
    (s.sys.th = false ∧ t.sys.th = true ∧ t.strand.pc = s.sys.tvec) ∨ (∃ p, i = .launchPacket p) ∨ ∃ p a, i = .resumePacket p a := by
  rcases sound_exec i s with (launch | resume | rfl) | sound
  · exact .inr (.inl launch)
  · exact .inr (.inr resume)
  · obtain ⟨u, reset, _, low⟩ := packageReset_spec s
    cases reset.symm.trans ran
    exact absurd (raised.symm.trans low) nofun
  · rcases (sound t ran).user user with ⟨stands, _⟩ | ⟨free, th, _, pc⟩
    · exact absurd (raised.symm.trans stands) nofun
    · exact .inl ⟨free, th, pc⟩

/-- Settles O50: a trap taken by an instruction, or the entry that waits, completed behind the step. -/
theorem levelRises : Obligations.LevelRises := by
  refine ⟨fun i s t user ran raised => exec_raises user ran raised, fun s user raised => settle_raises user raised, ?_⟩
  intro s t agenda user stepped raised
  obtain ⟨o, sound, steps⟩ := step_sound agenda
  cases o with
  | next u =>
    cases steps.symm.trans stepped
    exact (sound u rfl).settled_raises user raised
  | _ => exact nomatch steps.symm.trans stepped

end Sys2Proof.Machine
end
